-- ==== Sys2Proof/Word.lean ====
section
/-! DEFINITION. The word types of the M48 and the index types of its units.
Bytes and registers are bit vectors; counts, indexes and memory addresses are numbers. -/

namespace Sys2Proof

/-- One byte (R12: every multi-byte field is little-endian over these). -/
abbrev Byte := BitVec 8

/-- A 32-bit register or field. -/
abbrev W32 := BitVec 32

/-- A 64-bit register, Zhema scalar or instruction word. -/
abbrev W64 := BitVec 64

/-- The two host ports (R2, R147): identical, neither primary (R165). -/
inductive Port | a | b
  deriving DecidableEq, Repr

/-- Hearths 0 to 47 (R2). -/
abbrev HearthId := Fin 48
/-- Stokers 0 to 15 of a Hearth (R290). -/
abbrev StokerId := Fin 16
/-- Galleries 0 to 1,023. -/
abbrev GalleryId := Fin 1024
/-- Queues 0 to 3 of a gallery. -/
abbrev QueueId := Fin 4
/-- Folio bays 0 to 7 (R2). -/
abbrev BayId := Fin 8
/-- Fenline ports 0 to 5 (R2). -/
abbrev FenPortId := Fin 6

/-- A map from numbers to values, held as (key, value) pairs with rising keys; a key that is not
listed has the map's default value, and no listed value equals it. -/
abbrev Sparse (α : Type) := List (Nat × α)

end Sys2Proof
end

