-- ==== Sys2Proof/Syntax.lean ====
section
/-! DEFINITION. The commands and events of the M48, one constructor for each row of the table of operations,
with the operands that reach the device with it. Zhema instruction rows name the Hearth and the Stoker that
issues; the word itself is read from that Hearth's Program Store. -/

namespace Sys2Proof

/-- What starts and holds a port reset (Table 4-16). -/
inductive PortTrigger | perst | hotReset | linkDisable | flr | d3hot
  deriving DecidableEq, Repr

/-- The BARs that hold registers (R154). -/
inductive Bar | bar0 | bar2
  deriving DecidableEq, Repr

/-- One host access to a register window: BAR0 or BAR2, its offset, its size in bytes and, for a write, its data. -/
structure BusAccess where
  bar : Bar
  write : Bool
  off : Nat
  bytes : Nat
  data : BitVec 512
  deriving DecidableEq, Repr

/-- A configuration request: a dword read or write, or one of the controls that the spec names. -/
inductive CfgReq
  | read (dword : Nat)
  | write (dword : Nat) (val : W32)
  /-- MSI-X message control: Enable and Function Mask. -/
  | msixControl (enable mask : Bool)
  /-- One MSI-X table entry, which follows the base specification (R155). -/
  | msixEntry (vec : Nat) (addr : W64) (data : W32) (masked : Bool)
  /-- Device Control 2: completion timeout value (R151). -/
  | cplTimeout (val : BitVec 4)
  /-- CXL.mem enable of the port (PORT_ID.CXL_MEM). -/
  | cxlMem (enable : Bool)
  deriving DecidableEq, Repr

/-- Which part of TIME_NOW a read covers (R78). -/
inductive TimeRead | full | lower | upper
  deriving DecidableEq, Repr

/-- The gallery registers of R96. -/
inductive GalReg
  | homePort | hearths | hobWindow | pasid | cobatch
  | cobatchHash (k : Fin 6)
  | sqBase (q : QueueId) | cqBase (q : QueueId) | qcfg (q : QueueId)
  | faultqBase | faultqCfg
  deriving DecidableEq, Repr

/-- The state a host's M2S request asks for, or an uncached access (R187, R276). -/
inductive M2SOp
  | readS | readE | readI
  | write (data : List Byte)
  deriving DecidableEq, Repr

/-- A host M2S request for an Exchange line. -/
structure M2SReq where
  line : Nat
  op : M2SOp
  deriving DecidableEq, Repr

/-- What a BIRsp reports (R185). -/
inductive BiState | i | s
  deriving DecidableEq, Repr

/-- What a check and its one repeat gave (R716). -/
inductive Verdict
  /-- The check passed. -/
  | pass
  /-- A single-bit error was corrected, which is no failure. -/
  | corrected
  /-- It failed and the repeat passed. -/
  | transient
  /-- The repeat failed too. -/
  | lasting
  deriving DecidableEq, Repr

/-- The array or unit whose check a `Verdict` is about (Table 18-1). -/
inductive CheckUnit
  | hob | firebox | latch | tagBuffer | ember | programStore | registerFile | workingBank
  | sequencer | streamUnit | flue | shared | mesh
  deriving DecidableEq, Repr

/-- Which check of a tile failed: the tally column, the residue check (R717), or the working bank's SECDED (R720). -/
inductive TileFault | tally | residue | bank
  deriving DecidableEq, Repr

/-- What comes back with a piece: the data of a host read, and a check that failed on the way. -/
structure PieceReturn where
  data : List Byte
  check : Option (CheckUnit × Verdict)
  deriving DecidableEq, Repr

/-- The host's answer to a read that the queue front end made of host memory. -/
inductive HostAnswer
  | data (bytes : List Byte)
  /-- Completion timeout, Unsupported Request or Completer Abort. -/
  | failed
  deriving DecidableEq, Repr

/-- Which unit's next piece PIECE_SEND sends. -/
inductive SendUnit
  /-- The stream unit, for a handle of a Stoker. -/
  | stream (h : HearthId) (k : StokerId) (d : Fin 16)
  /-- The unit that makes an access. -/
  | access (id : Nat)
  /-- A bay controller, for the requests that wait at its bay. -/
  | bay (b : BayId)
  /-- A Fenline port engine, for the flits in its receive buffer. -/
  | fenline (p : FenPortId)
  deriving DecidableEq, Repr

/-! ## Bay frames (Tables 16-1, 16-2) -/

/-- The link fields of a received frame, and whether its CRC matches. -/
structure FrameHdr where
  seq : BitVec 12
  ack : BitVec 12
  nak : Bool
  crcOk : Bool
  deriving DecidableEq, Repr

/-- MGOP (Table 16-2). -/
inductive MgOp | ident | challenge | ledgerRead | ledgerCommit | metaRead | metaWrite | retire | scrubStatus
  deriving DecidableEq, Repr

/-- STATUS of an ERR or MG_RSP frame other than OK (Table 16-1). -/
inductive FrameErr | uncorrectable | programFail | badRequest | busy
  deriving DecidableEq, Repr

/-- A seal as metadata block 0 holds it (R641, R642): blank, or a UNIT, a seal epoch and whether its HMAC verifies. -/
inductive Seal
  | blank
  | made (unit : W64) (epoch : W32) (hmacOk : Bool)
  deriving DecidableEq, Repr

/-- A transfer record as metadata block 1 holds it (R659, R660): whether its signature chains to the Nortuvel root, whether
it names this device's identity key, and the gallery keys it unwraps to. -/
inductive XferRecord
  | absent
  | present (signedOk namesUs : Bool) (keys : List (GalleryId × BitVec 512))
  deriving DecidableEq, Repr

/-- What a MG_RSP frame returns. Whether a certificate chain or a signature verifies up to the fused Nortuvel root is
a fact about the bytes that arrived. -/
inductive MgReply
  | ident (chain : List Byte) (verified : Bool) (unit : W64) (model : BitVec 16)
  | challenge (resp : List Byte) (verified : Bool)
  | ledger (sectors : Nat) (retired : Bool)
  | seal (s : Seal)
  | record (r : XferRecord)
  | scrub (pages : Nat)
  /-- The operation is done; it returns nothing. -/
  | done
  /-- STATUS is not OK. -/
  | failed (e : FrameErr)
  deriving DecidableEq, Repr

/-! ## The boot flash and Accessions (chapter 20) -/

/-- The slots of the boot flash. -/
inductive SlotId | a | b | golden
  deriving DecidableEq, Repr

/-- A member of the Fenline topology (Table 20-5): each of its six ports names a peer device and port, and each
destination a primary and an alternate port. -/
structure Member where
  unit : W64
  devno : Nat
  ports : List (Nat × Nat)
  routes : List (Nat × Nat)
  deriving DecidableEq, Repr, Inhabited

/-- What a valid Accession image holds (Tables 20-2 to 20-6). -/
structure Image where
  year : Nat
  nn : Nat
  svn : Nat
  floorTo : Nat
  hash : List Byte
  timeCtrl : W32
  bootMv : Nat
  snpTimeout : Nat
  graceMs : Nat
  pod : BitVec 16
  members : List Member
  /-- Library entries: LIB_ID and pattern image. -/
  lib : List (Nat × List Byte)
  deriving DecidableEq, Repr, Inhabited

/-! ## Management (chapter 20) and test access (chapter 19) -/

/-- The interfaces of the Curator's management. -/
inductive MgmtIf | i3c | smbus | vdm (p : Port) | doe (p : Port)
  deriving DecidableEq, Repr

/-- PLDM base requests. -/
inductive PldmBase | getTid | setTid (tid : Byte) | getVersion | getTypes | getCommands
  deriving DecidableEq, Repr

/-- The instructions of the test access port (Table 19-8). -/
inductive Tap | extest | idcode | sample | extestPulse | extestTrain | clamp | highz | bypass
  deriving DecidableEq, Repr

/-! ## Fenline flits (chapter 17) -/

/-- How a peer answers a transaction: its writes were applied, a check failed, or its gallery is closed. -/
inductive FenAck | done | fault (code : BitVec 8) | closed
  deriving DecidableEq, Repr

/-- What the members of a collective compare (R709): OP, RED_OP, GROUP, FORMAT, the walk lengths of LDESC and RDESC, and
the shard descriptor's bytes. -/
structure CollParams where
  op : Nat
  redOp : Nat
  group : W64
  fmt : Nat
  walkL : Nat
  walkR : Nat
  shard : List Byte
  deriving DecidableEq, Repr

/-- The header fields of a received flit (Table 17-1), whether its CRC matches, and whether it is a replay. -/
structure FlitHdr where
  seq : BitVec 12
  ack : BitVec 12
  nak : Bool
  /-- XOFF bits of VC 1 to VC 3. -/
  xoff : BitVec 3
  crVc : BitVec 2
  crCount : BitVec 8
  src : Fin 64
  dst : Fin 64
  hops : Fin 16
  srcEpoch : W32
  dstEpoch : W32
  xtag : BitVec 16
  gallery : GalleryId
  index : Nat
  crcOk : Bool
  replay : Bool
  deriving DecidableEq, Repr

/-- The values of a BRINGUP flit (R685). -/
structure Bringup where
  hash : List Byte
  zhema : Byte
  timeEpoch : W32
  epoch : W32
  unit : W64
  devno : BitVec 6
  valid : Bool
  port : Byte
  deriving DecidableEq, Repr

/-- The times of a TIMESYNC flit, in 1/16 ns (R695): its own transmission, the receiver's last transmission and when that
arrived at the sender; and the sender's TIME_EPOCH. -/
structure TimeSync where
  sent : Nat
  peerSent : Nat
  peerArrived : Nat
  timeEpoch : W32
  deriving DecidableEq, Repr

/-- The payload of a flit, by TYPE. -/
inductive FlitBody
  | idle
  /-- Bytes for an address of the destination gallery, each with a bit mask; the last run of the transaction or not. -/
  | putData (va : Nat) (data : List (Byte × Byte)) (last : Bool)
  /-- A read of the destination gallery's memory. -/
  | getReq (va len : Nat)
  | getData (data : List Byte)
  | xack (a : FenAck)
  | signal (va : Nat) (addend : W64)
  /-- Elements of one member's walk from `first` on. -/
  | coll (id : W32) (p : CollParams) (first : Nat) (elems : List Nat) (last : Bool)
  | bringup (b : Bringup)
  | timesync (t : TimeSync)
  /-- EPOCH_ANNOUNCE (Table 17-9). -/
  | announce (epoch : W32) (unit : W64) (devno : Fin 64)
  /-- Other management traffic. -/
  | mgmt (bytes : List Byte)
  | leave (id : W32)
  deriving DecidableEq, Repr

/-- The commands and events of the M48: one constructor for each row of the table of operations. -/
inductive Instr
  /-- REGISTER_WRITE (R14). -/
  | registerWrite (p : Port) (a : BusAccess)
  /-- CONFIG_REQUEST (R812). -/
  | configRequest (p : Port) (r : CfgReq)
  /-- TIME_NOW_READ (R77). -/
  | timeNowRead (p : Port) (part : TimeRead)
  /-- TIME_SET (R82). -/
  | timeSet (p : Port) (v : W64)
  /-- PPS_EDGE (R83). -/
  | ppsEdge
  /-- HOLDOVER_ENTRY (R84). -/
  | holdoverEntry
  /-- REF_TIME_RELOCK (R84). -/
  | refTimeRelock (err : Int)
  /-- PACE_WINDOW_END (R52). -/
  | paceWindowEnd (counts : List (BitVec 16))
  /-- PACE_VREQ (R59). -/
  | paceVreq (p : Port) (v : W32)
  /-- AVS_STATUS_POLL (R59). -/
  | avsStatusPoll (vdone : Bool) (mv : BitVec 10)
  /-- AVS_FRAME_FAIL (R64). -/
  | avsFrameFail (status : Bool)
  /-- THERMAL_SAMPLE (R65). -/
  | thermalSample (readings : List (BitVec 16))
  /-- PACE_PARK (R70). -/
  | pacePark (p : Port) (mask : W64)
  /-- HEARTH_PARK (R71). -/
  | hearthPark (h : HearthId)
  /-- HEARTH_WAKE (R74). -/
  | hearthWake (h : HearthId)
  /-- CREATE (R92). -/
  | galCreate (p : Port) (g : GalleryId)
  /-- OPEN (R98). -/
  | galOpen (p : Port) (g : GalleryId)
  /-- QUIESCE (R100). -/
  | quiesce (p : Port) (g : GalleryId)
  /-- QUIESCE_DRAINED (R92). -/
  | quiesceDrained (g : GalleryId)
  /-- GAL_RESET (R139). -/
  | galReset (p : Port) (g : GalleryId) (scrub scrubKey : Bool)
  /-- RELEASE (R141). -/
  | release (p : Port) (g : GalleryId) (scrub scrubKey : Bool)
  /-- GAL_RESET_DONE (R143). -/
  | galResetDone (g : GalleryId)
  /-- GAL_CONFIG_WRITE (R96). -/
  | galConfigWrite (p : Port) (g : GalleryId) (r : GalReg) (v : W64)
  /-- GAL_KINDLE_DEADLINE (R97). -/
  | galKindleDeadline (p : Port) (g : GalleryId) (v : W32)
  /-- DB_SQ_TAIL (R104). -/
  | dbSqTail (p : Port) (g : GalleryId) (q : QueueId) (t : BitVec 16)
  /-- DB_PUSH (R106). -/
  | dbPush (p : Port) (g : GalleryId) (q : QueueId) (data : List Byte)
  /-- DB_CQ_HEAD (R108). -/
  | dbCqHead (p : Port) (g : GalleryId) (q : QueueId) (h : BitVec 16)
  /-- DB_ABORT (R128). -/
  | dbAbort (p : Port) (g : GalleryId) (q : QueueId) (t : BitVec 16)
  /-- DB_RESUME (R137). -/
  | dbResume (p : Port) (g : GalleryId) (seq : W32)
  /-- DB_FAULTQ_HEAD (R109). -/
  | dbFaultqHead (p : Port) (g : GalleryId) (h : BitVec 16)
  /-- ENTRY_STAGE (R834): the host's answer, or what the Shared Store's check of the word gave (R719). -/
  | entryStage (g : GalleryId) (q : QueueId) (ans : HostAnswer) (v : Verdict)
  /-- ENTRY_FETCH (R116). -/
  | entryFetch
  /-- RUN_DISPATCH (R117). -/
  | runDispatch (wo : Nat)
  /-- STOVE_LOAD_DISPATCH (R290). -/
  | stoveLoadDispatch (wo : Nat)
  /-- PLACE_DISPATCH (R285). -/
  | placeDispatch (wo : Nat)
  /-- QFENCE_RETIRE (R118). -/
  | qfenceRetire (wo : Nat)
  /-- RETIRE (R120). -/
  | retire (wo : Nat)
  /-- COMPLETION_RECORD (R122). -/
  | completionRecord (wo : Nat)
  /-- MSIX_PENDING_SEND (R831). -/
  | msixPendingSend (p : Port)
  /-- STOKER_FREE (R298). -/
  | stokerFree (h : HearthId) (k : StokerId)
  /-- STOKER_WAKE (R295). -/
  | stokerWake (h : HearthId) (k : StokerId)
  /-- FAULT_COMMIT (R315). -/
  | faultCommit (wo : Nat) (code hearth : BitVec 8) (stoker : StokerId) (pc : BitVec 18)
  /-- PERST (R832). -/
  | perst (p : Port)
  /-- HOT_RESET (R832). -/
  | hotReset (p : Port)
  /-- LINK_DISABLE (R832). -/
  | linkDisable (p : Port)
  /-- FUNCTION_LEVEL_RESET (R832). -/
  | functionLevelReset (p : Port)
  /-- D3HOT (R149). -/
  | d3hot (p : Port)
  /-- PORT_RESET_END (R832). -/
  | portResetEnd (p : Port) (t : PortTrigger)
  /-- DLL_DOWN (R173). -/
  | dllDown (p : Port)
  /-- DLL_UP (R173). -/
  | dllUp (p : Port) (width : BitVec 8) (speed : BitVec 4)
  /-- PORT_RESET_GRACE_EXPIRY (R814). -/
  | portResetGraceExpiry (g : GalleryId)
  /-- HOST_COMPLETION_TIMEOUT (R151). -/
  | hostCompletionTimeout (id : Nat)
  /-- KEEPER_TAKE (R169). -/
  | keeperTake (p : Port) (n : Fin 64) (token : BitVec 16) (lease : BitVec 12)
  /-- KEEPER_GIVE (R170). -/
  | keeperGive (p : Port) (n : Fin 64) (token : BitVec 16)
  /-- KEEPER_LEASE_EXPIRY (R171). -/
  | keeperLeaseExpiry (n : Fin 64)
  /-- PORT_ADOPT (R174). -/
  | portAdopt (p : Port) (g : GalleryId)
  /-- LEDG_CFG (R182). -/
  | ledgCfg (p : Port) (v : W32)
  /-- M2S_REQUEST (R187), and what the check of the line gave if it is read (R719, R721). -/
  | m2sRequest (p : Port) (r : M2SReq) (v : Verdict)
  /-- BAR4_ACCESS (R163), and what the check of each line gave if it is read (R719, R721). -/
  | bar4Access (p : Port) (write : Bool) (off : Nat) (data : List Byte) (be : List Bool) (vs : List Verdict)
  /-- BIRSP (R189). -/
  | birsp (p : Port) (l : Nat) (st : BiState)
  /-- MEMCLNEVCT (R185). -/
  | memclnevct (p : Port) (l : Nat)
  /-- DIRTY_WRITE_BACK (R190). -/
  | dirtyWriteBack (p : Port) (l : Nat) (data : List Byte)
  /-- BICONFLICT (R192). -/
  | biconflict (p : Port) (l : Nat)
  /-- SNOOP_TIMEOUT (R194). -/
  | snoopTimeout (l : Nat)
  /-- CAT_WRITE (R214). -/
  | catWrite (p : Port) (g : GalleryId) (seg : BitVec 8)
  /-- INVALIDATE (R213). -/
  | invalidate (p : Port) (g : GalleryId) (seg : BitVec 8)
  /-- CAT_READ (R213). -/
  | catRead (p : Port) (g : GalleryId) (seg : BitVec 8)
  /-- PRES_FILL (R213). -/
  | presFill (p : Port) (g : GalleryId) (seg : BitVec 8)
  /-- PRES_EMPTY (R219). -/
  | presEmpty (p : Port) (g : GalleryId) (seg : BitVec 8)
  /-- CAT_PRES_SET (R221). -/
  | catPresSet (p : Port) (g : GalleryId) (v : W64)
  /-- CAT_PRES_CLR (R219). -/
  | catPresClr (p : Port) (g : GalleryId) (v : W64)
  /-- CAT_POOL (R212). -/
  | catPool (p : Port) (g : GalleryId) (v : W64)
  /-- CAT_DRAIN_DONE (R219). -/
  | catDrainDone (g : GalleryId)
  /-- PIECE_SEND (R356). -/
  | pieceSend (u : SendUnit)
  /-- PIECE_COMPLETE (R826). -/
  | pieceComplete (id : Nat) (ret : PieceReturn)
  /-- HRT_PS_MAP (R281). -/
  | hrtPsMap (p : Port) (h : HearthId) (j : Fin 256) (v : W32)
  /-- FENCE_REQ (R325). -/
  | fenceReq (p : Port) (h : HearthId)
  /-- HRT_POST_ROUTE (R326). -/
  | hrtPostRoute (p : Port) (h : HearthId) (stove : Bool)
  /-- HRT_RESET (R815). -/
  | hrtReset (p : Port) (h : HearthId)
  /-- NOP (R312). -/
  | nop (h : HearthId) (k : StokerId)
  /-- JMP (R329). -/
  | jmp (h : HearthId) (k : StokerId)
  /-- BR (R332). -/
  | br (h : HearthId) (k : StokerId)
  /-- CALL (R331). -/
  | call (h : HearthId) (k : StokerId)
  /-- RET (R331). -/
  | ret (h : HearthId) (k : StokerId)
  /-- LOOP (R332). -/
  | loop (h : HearthId) (k : StokerId)
  /-- HALT (R334). -/
  | halt (h : HearthId) (k : StokerId)
  /-- TRAP (R335). -/
  | trap (h : HearthId) (k : StokerId)
  /-- YIELD (R296). -/
  | yield (h : HearthId) (k : StokerId)
  /-- ADD (R337). -/
  | add (h : HearthId) (k : StokerId)
  /-- SUB (R337). -/
  | sub (h : HearthId) (k : StokerId)
  /-- MUL (R337). -/
  | mul (h : HearthId) (k : StokerId)
  /-- AND (R337). -/
  | and (h : HearthId) (k : StokerId)
  /-- OR (R337). -/
  | or (h : HearthId) (k : StokerId)
  /-- XOR (R337). -/
  | xor (h : HearthId) (k : StokerId)
  /-- SHL (R337). -/
  | shl (h : HearthId) (k : StokerId)
  /-- SHR (R337). -/
  | shr (h : HearthId) (k : StokerId)
  /-- SRA (R337). -/
  | sra (h : HearthId) (k : StokerId)
  /-- MIN (R337). -/
  | min (h : HearthId) (k : StokerId)
  /-- MAX (R337). -/
  | max (h : HearthId) (k : StokerId)
  /-- CMP_CC (R338). -/
  | cmpCc (h : HearthId) (k : StokerId)
  /-- SEL (R339). -/
  | sel (h : HearthId) (k : StokerId)
  /-- MOVI (R337). -/
  | movi (h : HearthId) (k : StokerId)
  /-- MOVHI (R337). -/
  | movhi (h : HearthId) (k : StokerId)
  /-- MOVI_X (R337). -/
  | moviX (h : HearthId) (k : StokerId)
  /-- MOVHI_X (R337). -/
  | movhiX (h : HearthId) (k : StokerId)
  /-- LD (R341). -/
  | ld (h : HearthId) (k : StokerId)
  /-- ST (R341). -/
  | st (h : HearthId) (k : StokerId)
  /-- LDARG (R313). -/
  | ldarg (h : HearthId) (k : StokerId)
  /-- FENCE_ACQ (R248). -/
  | fenceAcq (h : HearthId) (k : StokerId)
  /-- FENCE_REL (R248). -/
  | fenceRel (h : HearthId) (k : StokerId)
  /-- FENCE_FULL (R248). -/
  | fenceFull (h : HearthId) (k : StokerId)
  /-- FLAG_SET (R255). -/
  | flagSet (h : HearthId) (k : StokerId)
  /-- FLAG_ADD (R256). -/
  | flagAdd (h : HearthId) (k : StokerId)
  /-- FLAG_WAIT_CC (R258). -/
  | flagWaitCc (h : HearthId) (k : StokerId)
  /-- FLAG_REREAD (R258). -/
  | flagReread (h : HearthId) (k : StokerId)
  /-- DAMPER (R346). -/
  | damper (h : HearthId) (k : StokerId)
  /-- DAMPER_ROUND_END (R348). -/
  | damperRoundEnd (wo : Nat)
  /-- TIME_RD (R350). -/
  | timeRd (h : HearthId) (k : StokerId)
  /-- PACE_RD (R352). -/
  | paceRd (h : HearthId) (k : StokerId)
  /-- STR_OPEN (R359). -/
  | strOpen (h : HearthId) (k : StokerId)
  /-- STR_OPEN_L (R362). -/
  | strOpenL (h : HearthId) (k : StokerId)
  /-- STR_OPEN_TAGS (R364). -/
  | strOpenTags (h : HearthId)
  /-- STR_PULL (R366). -/
  | strPull (h : HearthId) (k : StokerId)
  /-- STR_PUSH (R366). -/
  | strPush (h : HearthId) (k : StokerId)
  /-- STR_WAIT (R372). -/
  | strWait (h : HearthId) (k : StokerId)
  /-- STR_POS (R373). -/
  | strPos (h : HearthId) (k : StokerId)
  /-- STR_CLOSE (R374). -/
  | strClose (h : HearthId) (k : StokerId)
  /-- STREAM_HALT (R551). -/
  | streamHalt (h : HearthId) (k : StokerId) (d : Fin 16)
  /-- GRT_LOADB (R393). -/
  | grtLoadb (h : HearthId) (k : StokerId)
  /-- GRT_MM (R396). -/
  | grtMm (h : HearthId) (k : StokerId)
  /-- GRT_MM_X (R396). -/
  | grtMmX (h : HearthId) (k : StokerId)
  /-- GRT_ZERO (R405). -/
  | grtZero (h : HearthId) (k : StokerId)
  /-- GRT_ZERO_C (R380). -/
  | grtZeroC (h : HearthId) (k : StokerId)
  /-- POSITION_CLAIM_GRANT (R381). -/
  | positionClaimGrant (h : HearthId)
  /-- CLAIM_RELEASE (R382). -/
  | claimRelease (h : HearthId) (k : StokerId)
  /-- KINDLING_DEADLINE (R491). -/
  | kindlingDeadline (h : HearthId) (chain : Nat)
  /-- CHAIN_START (R408). -/
  | chainStart (h : HearthId) (chain : Nat)
  /-- TILE_BROADCAST (R437). -/
  | tileBroadcast (h : HearthId) (chain : Nat) (v : Verdict) (f : TileFault) (row : Nat)
  /-- CHAIN_COMMIT (R451). -/
  | chainCommit (h : HearthId) (chain : Nat)
  /-- FLU_ST (R410). -/
  | fluSt (h : HearthId) (k : StokerId)
  /-- FLU_ST_L (R499). -/
  | fluStL (h : HearthId) (k : StokerId)
  /-- FLUE_DRAIN (R415). -/
  | flueDrain (h : HearthId) (op : Nat) (check : Option (CheckUnit × Verdict))
  /-- FLU_STE (R416). -/
  | fluSte (h : HearthId) (k : StokerId)
  /-- SPR_EMB (R421). -/
  | sprEmb (h : HearthId) (k : StokerId)
  /-- SPR_EMB_C (R420). -/
  | sprEmbC (h : HearthId) (k : StokerId)
  /-- SPR_MERGE (R422). -/
  | sprMerge (h : HearthId) (k : StokerId)
  /-- SPR_DROPRD (R425). -/
  | sprDroprd (h : HearthId) (k : StokerId)
  /-- CAB_CALL (R429). -/
  | cabCall (h : HearthId) (k : StokerId)
  /-- CAB_WAIT (R430). -/
  | cabWait (h : HearthId) (k : StokerId)
  /-- ENGINE_CALL_START (R603). -/
  | engineCallStart (q : Fin 4) (e : Fin 8)
  /-- ENGINE_CALL_COMPLETE (R730). -/
  | engineCallComplete (q : Fin 4) (e : Fin 8) (ok : Bool)
  /-- STV_LOAD (R433). -/
  | stvLoad (h : HearthId) (k : StokerId)
  /-- STV_RUN (R434). -/
  | stvRun (h : HearthId) (k : StokerId)
  /-- STV_WAIT (R436). -/
  | stvWait (h : HearthId) (k : StokerId)
  /-- PATTERN_LOAD (R628). -/
  | patternLoad (h : HearthId)
  /-- STOVE_CALL_START (R622). -/
  | stoveCallStart (h : HearthId)
  /-- STOVE_CALL_COMPLETE (R732). -/
  | stoveCallComplete (h : HearthId) (ok : Bool)
  /-- RD_DATA (R637). -/
  | rdData (b : BayId) (h : FrameHdr) (tag : Nat) (data : List Byte)
  /-- WR_ACK (R651). -/
  | wrAck (b : BayId) (h : FrameHdr) (tag : Nat)
  /-- ERR (R661). -/
  | err (b : BayId) (h : FrameHdr) (tag : Nat) (e : FrameErr)
  /-- MG_RSP (R635). -/
  | mgRsp (b : BayId) (h : FrameHdr) (op : MgOp) (r : MgReply)
  /-- FOLIO_LINK_DOWN (R636). -/
  | folioLinkDown (b : BayId)
  /-- BAY_TIMEOUT (R638). -/
  | bayTimeout (b : BayId) (tag : Option Nat)
  /-- BAY_PRESENCE_HELD (R665). -/
  | bayPresenceHeld (b : BayId)
  /-- BAY_PRESENCE_LOST (R664). -/
  | bayPresenceLost (b : BayId)
  /-- FOL_CHAL_NONCE (R640). -/
  | folChalNonce (b : BayId) (nonce : List Byte)
  /-- ADOPT (R647). -/
  | adopt (p : Port) (b : BayId)
  /-- EJECT (R663). -/
  | eject (p : Port) (b : BayId)
  /-- FOL_RETIRE (R648). -/
  | folRetire (p : Port) (b : BayId)
  /-- EXPORT (R659). -/
  | folExport (p : Port) (b : BayId) (targetOk : Bool)
  /-- ACCEPT (R660). -/
  | accept (p : Port) (b : BayId)
  /-- FOL_COMMIT (R650). -/
  | folCommit (p : Port) (b : BayId)
  /-- LEDGER_COMMIT_TIMER (R650). -/
  | ledgerCommitTimer
  /-- SCRUB_STATUS (R662). -/
  | scrubStatus
  /-- FOL_RESET (R816). -/
  | folReset (p : Port) (b : BayId)
  /-- PWR_WARN_N_FALL (R667). -/
  | pwrWarnNFall
  /-- PWR_WARN_N_RELEASE (R669). -/
  | pwrWarnNRelease
  /-- IDLE (R672). -/
  | idle (p : FenPortId) (h : FlitHdr)
  /-- PUT_DATA (R704). -/
  | putData (p : FenPortId) (h : FlitHdr) (va : Nat) (data : List (Byte × Byte)) (last : Bool)
  /-- GET_REQ (R704). -/
  | getReq (p : FenPortId) (h : FlitHdr) (va len : Nat)
  /-- GET_DATA (R704). -/
  | getData (p : FenPortId) (h : FlitHdr) (data : List Byte)
  /-- XACK (R701). -/
  | xack (p : FenPortId) (h : FlitHdr) (a : FenAck)
  /-- SIGNAL (R707). -/
  | signal (p : FenPortId) (h : FlitHdr) (va : Nat) (addend : W64)
  /-- COLL (R711). -/
  | coll (p : FenPortId) (h : FlitHdr) (id : W32) (ps : CollParams) (first : Nat) (elems : List Nat) (last : Bool)
  /-- BRINGUP (R687). -/
  | bringup (p : FenPortId) (h : FlitHdr) (b : Bringup)
  /-- TIMESYNC (R695). -/
  | timesync (p : FenPortId) (h : FlitHdr) (t : TimeSync)
  /-- MGMT (R688). -/
  | mgmt (p : FenPortId) (h : FlitHdr) (payload : List Byte)
  /-- LEAVE (R712). -/
  | leave (p : FenPortId) (h : FlitHdr) (id : W32)
  /-- FENLINE_PORT_DOWN (R679). -/
  | fenlinePortDown (p : FenPortId)
  /-- FENLINE_TRAINED (R685). -/
  | fenlineTrained (p : FenPortId)
  /-- TIMESYNC_TIMER (R695). -/
  | timesyncTimer
  /-- EPOCH_ANNOUNCE_TIMER (R693). -/
  | epochAnnounceTimer
  /-- FEN_CFG_EPOCH (R689). -/
  | fenCfgEpoch (p : Port) (v : W32)
  /-- FEN_GAL (R715). -/
  | fenGal (p : Port) (g : GalleryId) (v : W64)
  /-- FEN_CTRL_RESET (R817). -/
  | fenCtrlReset (p : Port) (q : FenPortId)
  /-- FEN_CTRL_DISABLE (R714). -/
  | fenCtrlDisable (p : Port) (q : FenPortId) (on : Bool)
  /-- RING_ENTRY_TAKE (R699). -/
  | ringEntryTake (g : GalleryId)
  /-- RING_ENTRY_COMPLETE (R701). -/
  | ringEntryComplete (g : GalleryId) (i : Nat)
  /-- FENCE_GRATE (R753). -/
  | fenceGrate (p : Port) (arg : BitVec 10)
  /-- FENCE_ENGINE (R733). -/
  | fenceEngine (p : Port) (arg : BitVec 10)
  /-- FENCE_STOVE (R733). -/
  | fenceStove (p : Port) (arg : BitVec 10)
  /-- FORGET (R734). -/
  | forget (p : Port) (arg : BitVec 10)
  /-- RETURN_SEAL (R747). -/
  | returnSeal (p : Port)
  /-- FAULT_SEAL_ARM (R746). -/
  | faultSealArm (p : Port) (v : W32)
  /-- FAULT_TAIL (R740). -/
  | faultTail (v : W32)
  /-- FAULT_BOOK_APPEND (R743). -/
  | faultBookAppend
  /-- CONSERVATOR_UNLOCK (R751). -/
  | conservatorUnlock (signed : Bool)
  /-- INSTALL (R802). -/
  | install (p : Port)
  /-- ACTIVATE (R804). -/
  | activate (p : Port) (i : SlotId)
  /-- CONFIRM (R805). -/
  | confirm (p : Port)
  /-- REBOOT (R801). -/
  | reboot (p : Port)
  /-- RESET_N_LOW (R763). -/
  | resetNLow
  /-- RESET_N_RISE (R810). -/
  | resetNRise
  /-- BAY_ENUMERATION_SLOT (R811). -/
  | bayEnumerationSlot (b : BayId)
  /-- WATCHDOG_EXPIRY (R820). -/
  | watchdogExpiry
  /-- SERDES_REFCLK_LOSS (R770). -/
  | serdesRefclkLoss
  /-- POWER_LOSS (R766). -/
  | powerLoss
  /-- IDENTITY_BLOCK_READ (R812). -/
  | identityBlockRead (smbus : Bool)
  /-- SET_ENDPOINT_ID (R821). -/
  | setEndpointId (i : MgmtIf) (eid : Byte)
  /-- GET_ENDPOINT_ID (R821). -/
  | getEndpointId (i : MgmtIf)
  /-- GET_MCTP_VERSION_SUPPORT (R821). -/
  | getMctpVersionSupport (i : MgmtIf)
  /-- GET_MESSAGE_TYPE_SUPPORT (R821). -/
  | getMessageTypeSupport (i : MgmtIf)
  /-- GETPDR (R822). -/
  | getpdr (i : MgmtIf) (handle : BitVec 32)
  /-- GETSENSORREADING (R822). -/
  | getsensorreading (i : MgmtIf) (id : BitVec 16)
  /-- GETSTATESENSORREADINGS (R822). -/
  | getstatesensorreadings (i : MgmtIf) (id : BitVec 16)
  /-- GET_VERSION (R823). -/
  | getVersion (i : MgmtIf)
  /-- GET_CAPABILITIES (R823). -/
  | getCapabilities (i : MgmtIf)
  /-- NEGOTIATE_ALGORITHMS (R823). -/
  | negotiateAlgorithms (i : MgmtIf) (offered : Bool)
  /-- GET_DIGESTS (R823). -/
  | getDigests (i : MgmtIf)
  /-- GET_CERTIFICATE (R824). -/
  | getCertificate (i : MgmtIf) (slot : BitVec 4) (off len : BitVec 16)
  /-- SPDM_CHALLENGE (R824). -/
  | spdmChallenge (i : MgmtIf) (slot : BitVec 4) (nonce : BitVec 256)
  /-- GET_MEASUREMENTS (R823). -/
  | getMeasurements (i : MgmtIf) (index : Byte)
  /-- KEY_EXCHANGE (R823). -/
  | keyExchange (i : MgmtIf) (psk : Bool)
  /-- EXTEST (R779). -/
  | extest (pins shift : List Bool)
  /-- IDCODE (R780). -/
  | idcode
  /-- SAMPLE_PRELOAD (R779). -/
  | samplePreload (pins shift : List Bool)
  /-- EXTEST_PULSE (R779). -/
  | extestPulse (pins shift : List Bool)
  /-- EXTEST_TRAIN (R779). -/
  | extestTrain (pins shift : List Bool)
  /-- CLAMP (R779). -/
  | clamp (shift : List Bool)
  /-- HIGHZ (R779). -/
  | highz (shift : List Bool)
  /-- BYPASS (R779). -/
  | bypass (shift : List Bool)
  /-- BAY_LINK_TRAINED (R639). -/
  | bayLinkTrained (b : BayId)
  /-- POWER_UP_PHASE (R810). -/
  | powerUpPhase (bad : List SlotId)
  /-- BOOT_FLASH_OPERATION_END (R792). -/
  | bootFlashOperationEnd (ok sigOk : Bool)
  /-- BAY_SUPPLY_OFF (R663). -/
  | baySupplyOff (b : BayId)
  /-- ILLEGAL (R311). -/
  | illegal (h : HearthId) (k : StokerId)
  /-- DOE_DISCOVERY (R147). -/
  | doeDiscovery (p : Port) (index : Byte)
  /-- CXL_TABLE_ACCESS (R147). -/
  | cxlTableAccess (p : Port) (entry : BitVec 16)
  /-- PLDM_BASE (R822). -/
  | pldmBase (i : MgmtIf) (r : PldmBase)
  /-- DYNAMIC_ADDRESS_ASSIGNMENT (R774). -/
  | dynamicAddressAssignment (addr : BitVec 7)
  /-- TRST_N (R781). -/
  | trstN
  deriving DecidableEq, Repr

end Sys2Proof
end

