-- ==== Sys2Proof/Decode.lean ====
section
/-! DEFINITION. The words of the table of operations. No row of the table gives a bit: a command arrives as an event or as a
transaction with its operands, never as a word, so no word spells one. -/

namespace Sys2Proof

/-- The command that a word spells: none, because no row of spec/opcode_table.json has fields. -/
def decodeTableWord (_nbits _w : Nat) : Option Instr := none

end Sys2Proof
end

