-- ==== Sys2Proof/Machine/Bits.lean ====
section
/-! DEFINITION. Sparse maps, bit fields, byte order and checksums: the plain helpers the meanings share. -/

namespace Sys2Proof.Machine

/-! ## Sparse maps -/

/-- The value at a key; the default when the key is not listed. -/
def mget {α : Type} (d : α) : Sparse α → Nat → α
  | [], _ => d
  | (k', v) :: m, k => if k = k' then v else mget d m k

/-- The map with one key changed, in canonical form: writing the default removes the entry. -/
def mset {α : Type} [DecidableEq α] (d : α) : Sparse α → Nat → α → Sparse α
  | [], k, v => if v = d then [] else [(k, v)]
  | (k', v') :: m, k, v =>
    if k < k' then (if v = d then (k', v') :: m else (k, v) :: (k', v') :: m)
    else if k = k' then (if v = d then m else (k, v) :: m)
    else (k', v') :: mset d m k v

/-- Every listed value changed by a function of its key; values that become the default are removed. -/
def mmap {α : Type} [DecidableEq α] (d : α) (f : Nat → α → α) : Sparse α → Sparse α
  | [] => []
  | (k, v) :: m => if f k v = d then mmap d f m else (k, f k v) :: mmap d f m

/-- The keys are strictly rising from `lo` on, and no listed value is the default. -/
def mwfFrom {α : Type} [DecidableEq α] (d : α) (lo : Nat) : Sparse α → Bool
  | [] => true
  | (k, v) :: m => decide (lo ≤ k) && decide (v ≠ d) && mwfFrom d (k + 1) m

/-- The canonical form of a sparse map. -/
def mwf {α : Type} [DecidableEq α] (d : α) (m : Sparse α) : Bool := mwfFrom d 0 m

/-! ## Memories: sparse maps of bytes whose unlisted bytes read 0 -/

/-- One byte of a memory. -/
def byteAt (m : Sparse Byte) (a : Nat) : Byte := mget 0 m a

/-- `n` bytes from address `a` on. -/
def bytesAt (m : Sparse Byte) (a : Nat) : Nat → List Byte
  | 0 => []
  | n + 1 => byteAt m a :: bytesAt m (a + 1) n

/-- One byte written. -/
def putByte (m : Sparse Byte) (a : Nat) (b : Byte) : Sparse Byte := mset 0 m a b

/-- Consecutive bytes written from address `a` on. -/
def putBytes (m : Sparse Byte) (a : Nat) : List Byte → Sparse Byte
  | [] => m
  | b :: bs => putBytes (putByte m a b) (a + 1) bs

/-- Consecutive bytes written under bit masks: only the bits set in a byte's mask change (R267). -/
def putMasked (m : Sparse Byte) (a : Nat) : List (Byte × Byte) → Sparse Byte
  | [] => m
  | (v, k) :: bs => putMasked (putByte m a ((byteAt m a &&& ~~~k) ||| (v &&& k))) (a + 1) bs

/-- The bytes from `a` to `a + n - 1` made zero. -/
def zeroBytes (m : Sparse Byte) (a n : Nat) : Sparse Byte :=
  m.filter fun c => decide (c.1 < a ∨ a + n ≤ c.1)

/-! ## Bit fields and byte order -/

/-- Bits [lo + w - 1 : lo] of a number. -/
def bits (x lo w : Nat) : Nat := (x >>> lo) % 2 ^ w

/-- Bit `i` of a number. -/
def bitAt (x i : Nat) : Bool := x.testBit i

/-- 1 for true. -/
def b2n (b : Bool) : Nat := if b then 1 else 0

/-- The little-endian number of some bytes (R12). -/
def leNat : List Byte → Nat
  | [] => 0
  | b :: bs => b.toNat + 256 * leNat bs

/-- A number as `n` little-endian bytes (R12). -/
def natLe : Nat → Nat → List Byte
  | 0, _ => []
  | n + 1, x => BitVec.ofNat 8 x :: natLe n (x / 256)

/-- A number of `w` bits as a signed number. -/
def signed (w x : Nat) : Int := if x < 2 ^ (w - 1) then (x : Int) else (x : Int) - 2 ^ w

/-- A counter that saturates. -/
def satAdd (max x n : Nat) : Nat := min max (x + n)

/-- Bytes paired with a full mask. -/
def fullMask (bs : List Byte) : List (Byte × Byte) := bs.map fun b => (b, 0xFF)

/-! ## CRC32C -/

/-- One bit of the reflected CRC32C division. -/
def crc32cBit (c : Nat) : Nat := if c % 2 = 1 then (c >>> 1) ^^^ 0x82F63B78 else c >>> 1

/-- `n` bits of it. -/
def crc32cBits : Nat → Nat → Nat
  | 0, c => c
  | n + 1, c => crc32cBits n (crc32cBit c)

/-- One byte more in the running remainder. -/
def crc32cByte (c : Nat) (b : Byte) : Nat := crc32cBits 8 (c ^^^ b.toNat)

/-- CRC32C of some bytes, continuing from `seed`. -/
def crc32c (seed : Nat) (bs : List Byte) : Nat := (bs.foldl crc32cByte (seed ^^^ 0xFFFFFFFF)) ^^^ 0xFFFFFFFF

end Sys2Proof.Machine
end

