-- ==== Sys2Proof/Config.lean ====
section
/-! DEFINITION. What one device fixes, and the free values: every constant here is opaque, so nothing
in Lean can evaluate it or prove a value of it. -/

namespace Sys2Proof.Config

/-- A free value: a bit vector the spec leaves open, one for each value of the state's `free` counter. -/
opaque free64 : Nat → W64

/-- DEV_ID.UNIT (Table 4-6), fused, unique per device. -/
opaque unit : W32

/-- What the Curator's entropy source gives for TIME_EPOCH at the n-th device cold reset (R79). -/
opaque entropy : Nat → W32

/-- TIME_EPOCH at the n-th device cold reset: random and non-zero (R79). -/
def epochAtReset (n : Nat) : W32 := if entropy n = 0 then 1 else entropy n

/-- Nortuvel's PCI-SIG vendor ID: the spec names it and gives no value. -/
opaque vendorId : BitVec 16

/-- Configuration dwords as the base specification and the implementation leave them at reset. -/
opaque cfgSpace : Nat → W32

/-- Which of the two FP32 values around the exact exponential the fixed exponent function gives (R610). -/
opaque expUp : W32 → Bool

/-- The keys that the Curator's entropy source draws (R655). -/
opaque drawnKey : Nat → BitVec 512

/-- The BOOT part that the n-th device cold reset draws (R686). -/
opaque bootPart : Nat → BitVec 16

/-- The nonces that the M48 sends with its own CHALLENGEs (R639). -/
opaque nonce : Nat → List Byte

/-- The golden image, written at manufacture. -/
opaque golden : Image

/-- ACC_FLOOR.FLOOR as fused at manufacture. -/
opaque floorFused : Nat

/-- The CABINET section's reference digest of the stepping (R798). -/
opaque cabinetHash : List Byte

/-- Bytes that management returns and whose content the spec leaves to other standards, or to keys it does not give. -/
opaque mgmtBytes : Nat → Nat → List Byte

/-- The 4 B in which the identity block carries YEAR, NN and SVN, whose fields have 40 bits (R812). -/
opaque identityAcc : Nat → Nat → Nat → W32

end Sys2Proof.Config
end

