-- ==== Sys2Proof/Machine/FaultState.lean ====
section
/-! DEFINITION. The Fault log, the Fault book, the fence list and the Return seal (chapter 18), as plain data. -/

namespace Sys2Proof.Machine

/-- FAULT_STATUS.RESULT (Table 18-6). -/
inductive FaultResult | ok | notOwner | badValue | busy | notArmed | sealed | inUse
  deriving DecidableEq, Repr

/-- A fence-list entry (FAULT_FENCE_LISTj, Table 18-6): KIND, INDEX and CAUSE. -/
structure FenceEntry where
  valid : Bool := false
  kind : BitVec 3 := 0
  index : BitVec 12 := 0
  cause : BitVec 8 := 0
  /-- Book record number of the fencing record. -/
  record : W32 := 0
  deriving DecidableEq, Repr

/-- How far a Return seal has come (R747). -/
inductive SealStage | none | intentMark | eraseVault | appendRecord
  deriving DecidableEq, Repr

/-- The FAULT_ registers, the ring's counters, the book and the fence list. The ring's records
themselves lie in the Shared Store (R200, R739). -/
structure FaultState where
  head : W32 := 0
  tail : W32 := 0
  result : FaultResult := .ok
  lost : Nat := 0
  sealed : Bool := false
  busy : Bool := false
  readN : W32 := 0
  tileTransient : Nat := 0
  otherTransient : Nat := 0
  lasting : Nat := 0
  sramCorrected : W64 := 0
  /-- FAULT_SEAL_ARM: the port that armed and the elapsed count of the write (R746). -/
  armed : Option (Port × Nat) := Option.none
  /-- Records written to the log that await their append to the book (R743, R744). -/
  bookQueue : List (List Byte) := []
  /-- The book's ring of 32 B records, by record number (R742). -/
  book : Sparse (List Byte) := []
  /-- FAULT_BOOK.RECORDS. -/
  bookRecords : W32 := 0
  /-- The oldest record number the ring still holds. -/
  bookOldest : Nat := 0
  frozen : Bool := false
  listFull : Bool := false
  fences : Sparse FenceEntry := []
  bookReadN : W32 := 0
  /-- The elapsed count of each unit's last TRANSIENT record (R738), by unit key. -/
  lastTransient : Sparse (Option Nat) := []
  sealStage : SealStage := .none
  /-- The Return seal's intent mark in the boot flash (R747, R748). -/
  intent : Bool := false
  deriving DecidableEq, Repr

end Sys2Proof.Machine
end

