-- ==== Sys2Proof/Machine/HearthState.lean ====
section
/-! DEFINITION. The state of a Hearth: Program Store and directory, Stokers and their register files, streams,
and the accesses in flight as pieces. -/

namespace Sys2Proof.Machine

/-! ## Tensor descriptors (chapter 12) -/

/-- Element formats (Table 12-3). -/
inductive Fmt | int4 | uint4 | int8 | uint8 | fp4 | e4m3 | e5m2 | bf16 | fp16 | fp32 | int32
  deriving DecidableEq, Repr

/-- Layouts (Table 12-1). -/
inductive Layout | strided | ilA32 | ilB32 | ilA16 | ilB16
  deriving DecidableEq, Repr

/-- Sparse formats (Table 12-1). -/
inductive SparseFmt | dense | s24 | s24t | rl4 | rl8
  deriving DecidableEq, Repr

/-- Scale formats (Table 12-1). -/
inductive ScaleFmt | none | e8m0 | bs128
  deriving DecidableEq, Repr

/-- A dimension entry (Table 12-2); the tile is at least 1. -/
structure Dim where
  extent : Nat
  stride : Int
  tile : Nat
  deriving DecidableEq, Repr

/-- A tensor descriptor that has passed the checks of Table 12-7 (R502). -/
structure Desc where
  base : Nat
  fmt : Fmt
  layout : Layout
  sparse : SparseFmt
  /-- One entry for each of the RANK dimensions, dimension 0 first. -/
  dims : List Dim
  scale : Nat
  sfmt : ScaleFmt
  fill : Nat
  deriving DecidableEq, Repr

/-! ## Accesses and pieces (chapters 5, 6, 12, 13) -/

/-- The agents of Tables 5-6 and 5-7, with the access each makes. -/
inductive Agent
  /-- A stream read delivered only to a Grate port. -/
  | grateRead
  | streamRead | streamWrite
  | flueRead | flueWrite
  | memLoad | memStore | flagSet | flagAdd | flagWait
  | ldarg
  | cabRead | cabWrite | stoveRead | stoveWrite
  | moverRead | moverWrite
  /-- The Ember unit at its Ash region (R420). -/
  | ash
  | ringFetch | recordWrite
  | imageRead
  /-- The Fenline engine (R702): ring and stream-like reads, its writes, and remote adds. -/
  | fenRead | fenWrite | fenAdd
  deriving DecidableEq, Repr

/-- Where a piece lands after translation (R204, R207). -/
inductive Target
  /-- Physical Hob offset on the accessing Hearth. -/
  | hob (off : Nat)
  | host (addr : Nat)
  | shared (off : Nat)
  | exchange (off : Nat)
  | folio (bay off : Nat)
  deriving DecidableEq, Repr

/-- Whether a piece is waiting for its port or bay, or has been sent. -/
inductive PieceStatus
  /-- A host-memory request held because the home port is down or in reset (R173). -/
  | heldPort
  /-- A Folio request that waits at its bay (R667, R816). -/
  | heldBay
  /-- Sent to its place and not finished. -/
  | sent
  deriving DecidableEq, Repr

/-- What a piece belongs to. -/
inductive Owner
  /-- Elements `first` to `first + count - 1` of a stream's walk. -/
  | stream (handle first count : Nat)
  /-- The scale with key `key` of a GRATE stream (R520). -/
  | scale (handle key : Nat)
  /-- Bytes from `off` on of the compressed image of the tile at walk position `pos` (R573). -/
  | image (handle pos off : Nat)
  /-- Bytes of an access. -/
  | acc (id : Nat)
  deriving DecidableEq, Repr

/-- One piece: an access to one place within one 64 KiB page (R206, R527). -/
structure Piece where
  id : Nat
  gal : Nat
  wo : Option Nat
  hearth : Nat
  stoker : Nat
  /-- The instruction that issued it (R230), and its program-order number. -/
  pc : Nat
  seq : Nat
  agent : Agent
  write : Bool
  va : Nat
  len : Nat
  target : Target
  /-- The Catalogue segment that translated it, none in the Hob aperture (R219). -/
  seg : Option Nat
  /-- Bytes to write, each with the mask of the bits it writes (R267). -/
  wdata : List (Byte × Byte)
  status : PieceStatus
  owner : Owner
  /-- A Folio request that has already been sent once more (R653, R661). -/
  retried : Bool := false
  /-- A Folio write: its sector has been merged, and a WR frame is due or has been sent (R637). A write to host memory
  that read its bytes first: what it writes (R267). -/
  sector : Option (List Byte) := none
  /-- The elapsed count at which a Folio request left the PHY (R638). -/
  sentAt : Nat := 0
  deriving DecidableEq, Repr

/-- One run of consecutive bytes, within one 512 B block, that an access reads or writes. -/
structure Run where
  va : Nat
  len : Nat
  wdata : List (Byte × Byte) := []
  deriving DecidableEq, Repr

/-- The register files a result goes to (DSPACE, Table 7-3). -/
inductive RegFile | s | p | len
  deriving DecidableEq, Repr

/-- A destination register. -/
structure Dst where
  file : RegFile
  idx : Nat
  deriving DecidableEq, Repr

/-- What an access does when all its pieces have finished. -/
inductive AccKind
  /-- LD: the destination, the size in bytes and sign extension. -/
  | load (dst : Dst) (size : Nat) (sext : Bool)
  | store
  | ldarg (dst : Dst)
  | flagSet
  | flagAdd (dst : Dst) (addend : W64)
  | flagWait (dst : Dst) (cc : Nat) (operand : W64)
  /-- STR.OPEN's descriptor read. -/
  | strDesc (handle : Nat)
  /-- FLU.ST's descriptor read. -/
  | fluDesc (op : Nat)
  /-- The pieces of FLU.ST and FLU.STE. -/
  | fluWrite
  /-- SPR.EMB and SPR.MERGE: m pairs from an address, with the destination of SPR.EMB. -/
  | ember (dst : Option Dst) (va m : Nat)
  /-- The writes that empty an Ash region (R588). -/
  | emberInit
  /-- A call's descriptor reads, source reads and writes. -/
  | callDesc (call : Nat) | callRead (call : Nat) | callWrite (call : Nat)
  /-- A pattern image read (R433). -/
  | pattern
  /-- The image of a PLACE. -/
  | place
  deriving DecidableEq, Repr

/-- An access that has been issued and has not finished: what is still to be sent, and what has come back. -/
structure Acc where
  id : Nat
  gal : Nat
  wo : Option Nat
  hearth : Nat
  stoker : Nat
  pc : Nat
  seq : Nat
  agent : Agent
  kind : AccKind
  todo : List Run
  /-- The first address it reaches. -/
  base : Nat := 0
  /-- Bytes read, by gallery address. -/
  buf : Sparse Byte := []
  /-- A piece failed with this code: nothing more is sent. -/
  err : Option (BitVec 8) := none
  deriving DecidableEq, Repr

/-! ## Streams (chapters 8 and 13) -/

/-- Stream modes (Table 8-6). -/
inductive StrMode | pull | push | grate
  deriving DecidableEq, Repr

/-- One operation of a stream: the walk elements an STR.PULL or STR.PUSH assigned to it. -/
structure StrOp where
  first : Nat
  count : Nat
  /-- Hob aperture address of its first element (R528). -/
  hob : Nat
  /-- The STR.PULL or STR.PUSH: its program-order number and PC. -/
  seq : Nat
  pc : Nat
  /-- The number of the operation in its stream, from 0. -/
  ord : Nat
  deriving DecidableEq, Repr

/-- A piece that met an absent page, and the fault record once the stream has halted (R550, R551). -/
structure Halt where
  va : Nat
  seg : Nat
  /-- The fault's sequence number, once the stream is halted. -/
  faultSeq : Option W32
  deriving DecidableEq, Repr

/-- A stream context (Table 13-3). -/
structure Stream where
  mode : StrMode
  desc : Desc
  /-- The descriptor's bytes as read (R361, R487). -/
  raw : List Byte
  /-- The cut extents C_d (R505), one for each dimension. -/
  cut : List Nat
  tags : Nat
  /-- Restarts of the walk that issued .BL batches will make, in order: base, PC and number of the GRT.MM.X (R402). -/
  restarts : List (Nat × Nat × Nat) := []
  /-- Restarts made, and the PC and number of the GRT.MM.X of the last one. -/
  epoch : Nat := 0
  walkBy : Option (Nat × Nat) := none
  assigned : Nat := 0
  /-- Operations assigned so far. -/
  opCount : Nat := 0
  /-- Operations that are not complete, oldest first. -/
  ops : List StrOp := []
  /-- The next walk element to be sent. -/
  next : Nat := 0
  halt : Option Halt := none
  clamped : Bool := false
  /-- STR.CLOSE or HALT has been issued: nothing more is assigned. -/
  closing : Bool := false
  /-- GRATE: the elements that issued GRT instructions have claimed (R396). -/
  claimed : Nat := 0
  /-- GRATE: the ranges of the walk that have been consumed, or covered in a batch that has run (R396, R492). -/
  covered : List (Nat × Nat) := []
  /-- GRATE: delivered element encodings not yet consumed, by walk position. -/
  data : Sparse (Option Nat) := []
  /-- GRATE: scale encodings delivered, by key. -/
  scales : Sparse (Option Nat) := []
  /-- GRATE: bytes delivered of compressed tiles, by walk position of the tile. -/
  images : Sparse (Sparse (Option Byte)) := []
  /-- GRATE: complete operations of which a Kindling batch covers elements, which a new leader may have to send (R493). -/
  passed : List StrOp := []
  deriving DecidableEq, Repr

/-- An STR.OPEN whose handle is not yet bound (R364, R365). -/
structure Opening where
  handle : Nat
  stoker : Nat
  pc : Nat
  tags : Nat
  mode : StrMode
  /-- The run-time lengths in force at issue: dimension and length (R361, R362). -/
  lens : List (Nat × Nat)
  /-- Its tags have been granted. -/
  granted : Bool
  /-- The descriptor, once read and checked, with its bytes. -/
  desc : Option (Desc × List Byte) := none
  deriving DecidableEq, Repr

/-! ## Stokers (chapter 7) -/

/-- Stoker states (Table 7-1). -/
inductive StSt
  | free | ready | parkedStream | parkedFlag | parkedDamper | parkedCall | parkedFence | inFault | halted | stopping
  deriving DecidableEq, Repr

/-- What a parked Stoker waits for. -/
inductive Wait
  | none
  /-- STR.WAIT: all but the newest k operations of the stream. -/
  | ops (handle k : Nat)
  /-- STR.PULL or STR.PUSH with 16 incomplete operations: it issues again when there is room. -/
  | room (handle : Nat)
  | close (handle : Nat)
  /-- STR.OPEN without tags. -/
  | tags (handle : Nat)
  /-- FLAG.WAIT whose condition is false: address, destination, condition, operand. -/
  | flag (va : Nat) (dst : Dst) (cc : Nat) (operand : W64)
  /-- FENCE.ACQ (writes false) or FENCE.FULL, or a DAMPER's implied fence. -/
  | fence (seq : Nat) (writes : Bool)
  /-- A FENCE.REL that waits on a halted stream (R250). -/
  | rel (seq : Nat)
  | damperFence (seq : Nat)
  /-- Arrived at a round. -/
  | damper
  | cab (k : Nat)
  | stv (k : Nat)
  /-- Holds a STOVE_LOAD. -/
  | load
  /-- HALT with a stream halted on an absent page (R334). -/
  | halt
  deriving DecidableEq, Repr

/-- The Stoker's Ember space (R420, R584, R587). -/
structure Ember where
  blocks : Nat
  ashBase : Nat
  ashCap : Nat
  /-- Bucket entries in use, by bucket * 8 + entry: key and FP32 value. -/
  table : Sparse (Option (Nat × Nat)) := []
  /-- The instruction that claimed it. -/
  pc : Nat := 0
  deriving DecidableEq, Repr

/-- HRT_PROGj.STATE (Table 7-10). -/
inductive ProgSt | empty | loading | placed | removing
  deriving DecidableEq, Repr

/-- A program directory entry (R282). -/
structure Prog where
  st : ProgSt := .empty
  gal : Nat := 0
  program : BitVec 16 := 0
  base : Nat := 0
  length : Nat := 0
  deriving DecidableEq, Repr

/-- HRT_STATUS.RESULT (Table 7-10). -/
inductive HrtResult | ok | notOwner | inUse | busy | badValue
  deriving DecidableEq, Repr

/-- A FENCE.REL or a FLAG operation's release whose condition may still be unmet: its program-order number and the
stream pieces that were outstanding when it issued (R248, R249). -/
structure Rel where
  seq : Nat
  reads : List Nat
  deriving DecidableEq, Repr

/-- One Stoker: the context of one work order on one Hearth (R290, Table 7-2). -/
structure Stoker where
  st : StSt := .free
  wo : Nat := 0
  gal : Nat := 0
  queue : Nat := 0
  tag : BitVec 16 := 0
  pc : Nat := 0
  /-- BASE and LENGTH of the running program (R289). -/
  base : Nat := 0
  len : Nat := 0
  /-- Scalar, predicate and length registers, and the return stack, newest first. -/
  s : Sparse W64 := []
  p : BitVec 8 := 1
  lens : Sparse W32 := []
  stack : List Nat := []
  /-- The number of the next instruction in program order. -/
  seq : Nat := 0
  /-- Registers whose values have not come yet (the interlocks of R293). -/
  pend : List Dst := []
  wait : Wait := .none
  rels : List Rel := []
  /-- FLAG.ADD operations that have not returned: later accesses are held (R256). -/
  adds : List Nat := []
  handles : Sparse (Option Stream) := []
  /-- Stokers that must issue or become ineligible before this one issues again (R296). -/
  yieldFor : List Nat := []
  /-- Dampers executed (R345), and, once halted, that every later round is arrived at (R347). -/
  rounds : Nat := 0
  /-- Claimed positions, by the number the program uses: physical positions (R380). -/
  claim : List Nat := []
  /-- GRT.ZERO.C 0, or SPR.EMB.C 0, has been issued and the release still waits (R382, R420). -/
  releasing : Bool := false
  ember : Option Ember := none
  emberReleasing : Bool := false
  /-- Sparse indices dropped by committed GRT.MMs (R425). -/
  dropped : Nat := 0
  /-- CAB and STV calls issued so far (R430, R436). -/
  cabCalls : Nat := 0
  stvCalls : Nat := 0
  deriving DecidableEq, Repr

/-! ## Grates, Firebox and Kindling (chapters 9 to 11) -/

/-- What a Firebox slot holds (R384). -/
inductive SlotKind | zero | int | fp
  deriving DecidableEq, Repr

/-- One Firebox slot of 32 x 32 accumulators. -/
structure Slot where
  kind : SlotKind := .zero
  vals : Sparse W32 := []
  deriving DecidableEq, Repr

/-- A B tile in a latch or a chain: its formats, and the element of each cell as (logical row k, column n). -/
structure Tile where
  fmt : Fmt
  sparse : SparseFmt
  sfmt : ScaleFmt
  quad : Bool
  /-- Rows of K it covers. -/
  kt : Nat
  /-- ORIENT of S24T. -/
  orient : Bool := false
  /-- Element encodings (dense) or image bytes (sparse), in walk order. -/
  data : List Nat
  /-- Scale encodings by (half of K, column), two halves of 32 columns each. -/
  scales : List Nat := []
  deriving DecidableEq, Repr

/-- The row group of one GRT.MM in a chain (R487): whose rows they are, and where they come from and go to. -/
structure Group where
  gal : Nat
  wo : Nat
  stoker : Nat
  pc : Nat
  seq : Nat
  rows : Nat
  /-- Handles and first walk positions of its A and B streams. -/
  ha : Nat
  aPos : Nat
  hb : Nat
  bPos : Nat
  /-- The restarts of the B stream that come before its tiles (R402). -/
  bEpoch : Nat := 0
  /-- Physical position and first slot. -/
  pos : Nat
  slot : Nat
  /-- Slots of the group at or above this one are set to ZERO first (Z); 8 for none. -/
  zeroFrom : Nat := 8
  /-- Its work order ended while the chain ran: its outputs are discarded (R494). -/
  discard : Bool := false
  deriving DecidableEq, Repr

/-- One chain: a batch of a GRT.MM, or a Kindling batch (R449, R491). -/
structure Chain where
  id : Nat
  /-- Row groups in entry order; the first is the leader. -/
  groups : List Group
  /-- The batch number within its GRT.MM. -/
  ord : Nat
  chunks : Nat
  kt : Nat
  planned : Nat
  fmtA : Fmt
  sfmtA : ScaleFmt
  fmtB : Fmt
  sfmtB : ScaleFmt
  sparse : SparseFmt
  quad : Bool
  trans : Bool
  /-- B comes from a stream (SB). -/
  sb : Bool
  kind : SlotKind
  /-- An open Kindling batch: the elapsed count of its deadline (R86, R490). -/
  kindle : Option Nat := none
  /-- What the members of a Kindling batch share (R487): the B descriptor's bytes, the place in its walk and its cuts. -/
  key : List Byte := []
  /-- The row group whose B stream the batch reads (R492). -/
  lead : Nat := 0
  /-- It has started, and its working bank holds its before-state (R449). -/
  began : Bool := false
  /-- The Grate it runs on, once started. -/
  grate : Option Nat := none
  /-- The B tile of SB = 0, or the last one a chain with SB = 1 has used. -/
  tile : Option Tile := none
  /-- Chunks that have passed. -/
  done : Nat := 0
  /-- The working bank: rows of 32 accumulators in the order of the groups. -/
  bank : Sparse W32 := []
  /-- The chain starts no further tile (R406). -/
  stopped : Bool := false
  deriving DecidableEq, Repr

/-- A GRT.LOADB whose latch is not yet filled. -/
structure LoadB where
  stoker : Nat
  seq : Nat
  pos : Nat
  hb : Nat
  bPos : Nat
  bEpoch : Nat
  count : Nat
  deriving DecidableEq, Repr

/-- A FLU.ST whose drain has not been made (R410). -/
structure FluOp where
  id : Nat
  stoker : Nat
  wo : Nat
  gal : Nat
  pc : Nat
  seq : Nat
  pos : Nat
  slot : Nat
  n : Nat
  clr : Bool
  scale : Option W32
  lens : List (Nat × Nat)
  desc : Option Desc := none
  deriving DecidableEq, Repr

/-! ## Cabinet and Stove (chapter 15) -/

/-- How far a call has come. -/
inductive CallSt
  | queued
  /-- Started: reading descriptors, reading operands, or writing results. -/
  | desc | reading | writing
  /-- The Folio mover reads back what it wrote (R619). -/
  | verify
  /-- It has ended, and its check is to be judged. -/
  | finished
  deriving DecidableEq, Repr

/-- A Cabinet call or, with engine 0, a Stove call. -/
structure Call where
  id : Nat
  gal : Nat
  wo : Nat
  hearth : Nat
  stoker : Nat
  pc : Nat
  seq : Nat
  engine : Nat
  /-- Its number among the Stoker's calls of its kind. -/
  ord : Nat
  /-- The Cabinet that runs it, once started. -/
  cabinet : Nat
  block : List Byte
  st : CallSt := .queued
  /-- Descriptors read: SRC, DST, AUX and the bias. -/
  descs : List Desc := []
  /-- What each pass over its operands has read, by gallery address. -/
  passes : List (Sparse Byte) := []
  /-- Folio runs written, to be read back, and whether they have been written once more (R619). -/
  written : List Run := []
  rewritten : Bool := false
  /-- Failed checks on the present engine (R730). -/
  tries : Nat := 0
  /-- It has moved to a substitute Cabinet after its second failure (R730). -/
  moved : Bool := false
  /-- It met a fault that ended its work order. -/
  failed : Bool := false
  /-- A Stove call: source and length of the gallery's recorded pattern. -/
  pat : Nat × Nat := (0, 0)
  deriving DecidableEq, Repr

/-- A pattern load: STV.LOAD, STOVE_LOAD, or the reload before an STV.RUN (with `call`, its identifier). -/
structure StoveLoad where
  gal : Nat
  wo : Nat
  stoker : Nat
  pc : Nat
  src : Nat
  len : Nat
  call : Option Nat := none
  /-- It is a STOVE_LOAD. -/
  order : Bool := false
  deriving DecidableEq, Repr

/-- What the Stove slice serves next, in the order they reached it (R435). -/
inductive StoveItem
  | load (l : StoveLoad)
  | call (id : Nat)
  deriving DecidableEq, Repr

/-- HRT_STOVE.STATE (Table 15-7). -/
inductive StoveSt | empty | loading | resident
  deriving DecidableEq, Repr

/-- One Stove slice. -/
structure Stove where
  st : StoveSt := .empty
  fenced : Bool := false
  reloads : Nat := 0
  loads : W32 := 0
  gal : Nat := 0
  len : Nat := 0
  /-- The resident image: its source address and bytes. -/
  src : Nat := 0
  image : List Byte := []
  /-- Recorded patterns by gallery: source and length. -/
  recorded : Sparse (Option (Nat × Nat)) := []
  queue : List StoveItem := []
  /-- The load in progress, with its access. -/
  cur : Option (StoveLoad × Nat) := none
  deriving DecidableEq, Repr

/-- One Cabinet: its eight engines (index e - 1). -/
structure Cabinet where
  fenced : BitVec 8 := 0
  /-- The call each engine runs, as Hearth and identifier. -/
  running : Sparse (Option (Nat × Nat)) := []
  done : Sparse W64 := []
  faults : W32 := 0
  /-- The post channel each engine served last (R603). -/
  last : Sparse Nat := []
  deriving DecidableEq, Repr

/-- A claim that waits for free positions, or for free Ember blocks: the amount, and for Ember its Ash region. -/
structure ClaimWait where
  stoker : Nat
  ember : Bool
  n : Nat
  ashBase : Nat
  ashCap : Nat
  pc : Nat
  deriving DecidableEq, Repr

/-- One Hearth. -/
structure Hearth where
  fenced : Bool := false
  /-- HRT_FENCE.CAUSE. -/
  cause : BitVec 8 := 0
  /-- Grates fenced in service: HRT_GRATE_MASK.AVAIL is MFG less these. -/
  grateFenced : BitVec 16 := 0
  /-- Grates whose commanded fence waits for their running chain (R753). -/
  grateDue : BitVec 16 := 0
  result : HrtResult := .ok
  /-- HRT_POST_ROUTE.ROUTE: true is the Stove route. -/
  stoveRoute : Bool := false
  /-- HRT_PS_MAPj: VALID and GALLERY of granule j. -/
  psMap : Sparse (Bool × Nat) := []
  progs : Sparse Prog := []
  /-- Directory entries marked LOADING, by the PLACE in flight that marked them (R283). -/
  loading : Sparse (Option Nat) := []
  /-- The Program Store, by byte offset. -/
  ps : Sparse Byte := []
  /-- The Hob, by physical offset. -/
  hob : List (Nat × Byte) := []
  stokers : Sparse Stoker := []
  /-- HRT_STREAM_COUNTS (Table 13-4). -/
  pieces : W32 := 0
  halts : Nat := 0
  openWaits : Nat := 0
  /-- STR.OPENs not yet bound, in issue order. -/
  openings : List Opening := []
  /-- GRT.ZERO.C and SPR.EMB.C claims that wait, each kind in issue order (R381, R420). -/
  claims : List ClaimWait := []
  /-- Firebox slots by position * 8 + slot, and the kind each will have after the instructions issued so far. -/
  slots : Sparse Slot := []
  planned : Sparse SlotKind := []
  /-- B latches by position, with the instruction number and batch that last filled each. -/
  latches : Sparse (Option Tile) := []
  latchBy : Sparse (Nat × Nat) := []
  /-- The tile's formats, without its data, that each latch will hold after the instructions issued so far. -/
  latchPlan : Sparse (Option Tile) := []
  loadBs : List LoadB := []
  chains : List Chain := []
  flus : List FluOp := []
  calls : List Call := []
  stove : Stove := {}
  /-- Identifiers for chains, drains and calls. -/
  nextId : Nat := 0
  deriving DecidableEq, Repr

end Sys2Proof.Machine
end

