-- ==== Sys2Proof/Machine/FenState.lean ====
section
/-! DEFINITION. The state of the Fenline ports, rings and collectives (chapter 17), as plain data. -/

namespace Sys2Proof.Machine

/-- FEN_STATE.STATE (Table 17-7). -/
inductive FenSt | down | training | exchanging | active | quarantine | failed | disabled
  deriving DecidableEq, Repr

/-- FEN_STATE.RESULT. -/
inductive FenResult | ok | notOwner | locked | badValue
  deriving DecidableEq, Repr

/-- The header fields that a sender chooses; the link adds SEQ, ACK, NAK, XOFF and credits as the flit leaves. -/
structure FlitOut where
  src : Nat := 0
  dst : Nat := 0
  hops : Nat := 15
  srcEpoch : W32 := 0
  dstEpoch : W32 := 0
  xtag : Nat := 0
  gallery : Nat := 0
  index : Nat := 0
  body : FlitBody
  deriving DecidableEq, Repr

/-- One Fenline port. -/
structure FenPort where
  st : FenSt := .down
  result : FenResult := .ok
  /-- FEN_STATE.MISMATCH. -/
  mismatch : BitVec 5 := 0
  disable : Bool := false
  /-- The topology names the port as connected (R684). -/
  connected : Bool := false
  /-- The FEN_PEER_ registers. -/
  peerUnit : W64 := 0
  peerTimeEpoch : W32 := 0
  peerZhema : Byte := 0
  peerPort : Byte := 0
  peerDevno : Byte := 0
  peerEpoch : W32 := 0
  peerHash : List Byte := []
  skewValid : Bool := false
  skewOffset : W32 := 0
  crcErrors : Nat := 0
  replays : Nat := 0
  trainings : Nat := 0
  /-- The next SEQ to send and the next expected. -/
  txSeq : BitVec 12 := 0
  rxSeq : BitVec 12 := 0
  /-- NAK has been sent and its replay has not come (R677). -/
  nakSent : Bool := false
  /-- Credits held for VC 1 to VC 3, and the VCs the peer has stopped (R673, R676). -/
  credits1 : Nat := 64
  credits2 : Nat := 64
  credits3 : Nat := 64
  xoff : BitVec 3 := 0
  /-- The replay buffer: flits sent and not acknowledged, each with its SEQ and whether it has been replayed. -/
  unacked : List (BitVec 12 × FlitOut × Bool) := []
  /-- Flits that wait for a credit, for XOFF to clear, or for room in the replay buffer. -/
  waiting : List FlitOut := []
  /-- The receive buffer (R675). -/
  inbox : List (FlitHdr × FlitBody) := []
  /-- The VCs this port has stopped (R676). -/
  stopping : BitVec 3 := 0
  /-- The peer's last TIMESYNC: when it was sent and when it arrived, in 1/16 ns. -/
  syncSent : Nat := 0
  syncArrived : Nat := 0
  deriving DecidableEq, Repr

/-- FEN_GALg, and how far the engine has come in the ring. -/
structure FenGal where
  fault : Bool := false
  va : Nat := 0
  log2n : Nat := 4
  accept : Bool := false
  enable : Bool := false
  /-- The number of the next entry to take (R699). -/
  next : Nat := 0
  deriving DecidableEq, Repr

/-- How far an entry has come. -/
inductive FenPhase
  /-- A SIGNAL that waits for earlier entries to its peer (R707). -/
  | held
  | started
  /-- It ends with CODE and KIND of Table 17-5; its STATUS is still to be written. -/
  | ended (code : Nat) (kind : BitVec 8)
  deriving DecidableEq, Repr

/-- A ring entry that has been taken and has not completed. -/
structure FenTx where
  gal : Nat
  /-- i, and the eight words of its slot. -/
  entry : Nat
  words : List Nat
  phase : FenPhase
  tag : Nat
  peer : Nat := 0
  /-- The port its flits left on. -/
  port : Option Nat := none
  src : Option Desc := none
  dst : Option Desc := none
  /-- A piece failed at the local end: what the entry ends with once the pieces sent before it are done (R706). -/
  local' : Option (BitVec 8) := none
  /-- GET: the requests in order, and what has come back for each. -/
  gets : List Run := []
  got : Sparse (Option (List Byte)) := []
  /-- GET: requests that the peer refused: its INDEX and the answer. -/
  refused : Option (Nat × FenAck) := none
  answered : Nat := 0
  oob : Nat := 0
  deriving DecidableEq, Repr

/-- What has come of one member's part in a collective of a gallery. -/
structure CollPart where
  gal : Nat
  id : W32
  dev : Nat
  params : CollParams
  elems : Sparse (Option Nat) := []
  whole : Bool := false
  deriving DecidableEq, Repr

/-- The Fenline engine and the device-wide FEN_ registers. -/
structure FenState where
  ports : Sparse FenPort := []
  /-- FEN_SELF. -/
  valid : Bool := false
  devno : Nat := 0
  /-- FEN_CFG_EPOCH. -/
  pod : BitVec 16 := 0
  boot : BitVec 16 := Config.bootPart 0
  stale : Nat := 0
  hopDrops : Nat := 0
  /-- FEN_ROUTEd: primary and alternate port; 7 for none. -/
  routes : Sparse (Nat × Nat) := []
  gals : Sparse FenGal := []
  txs : List FenTx := []
  nextTag : Nat := 0
  /-- The configuration epoch recorded for each device (R694). -/
  epochs : Sparse (Option W32) := []
  parts : List CollPart := []
  /-- Transactions of peers of which a piece has failed here: originator and tag (R706). -/
  bad : List (Nat × Nat) := []
  /-- Collectives that a member has left: gallery and COLL_ID. -/
  left : List (Nat × W32) := []
  deriving DecidableEq, Repr

end Sys2Proof.Machine
end

