-- ==== Sys2Proof/Machine/HostState.lean ====
section
/-! DEFINITION. The host-facing state: device status, timebase, Pace, host ports, Keeper, Ledger, galleries,
queues, Catalogue and work orders, as plain data under the spec's own names. -/

namespace Sys2Proof.Machine

/-! ## Device status, timebase and Pace -/

/-- DEV_STATUS.PHASE (Table 20-12; 0xE is RECOVERY, reported through `recovery`). -/
inductive Phase | rom | verify | init | ports | fenline | folios | settle | ready
  deriving DecidableEq, Repr

/-- DEV_STATUS.CAUSE (Table 20-18). -/
inductive ResetCause | powerOn | resetN | reboot | watchdog
  deriving DecidableEq, Repr

/-- The DEV_ block: identity, grade, power-up status and the counts of writes dropped before READY. -/
structure Dev where
  /-- DEV_ID.UNIT (Table 4-6), fused. -/
  unit : W32 := Config.unit
  /-- DEV_GRADE.GRADE (Table 0-2), fused. -/
  grade : BitVec 4 := 0
  /-- Good Grates of each Hearth at manufacture (R8), the halves of DEV_GRATE_MASKn; unlisted: all 16. -/
  mfg : Sparse (BitVec 16) := []
  phase : Phase := .rom
  ready : Bool := false
  recovery : Bool := false
  cause : ResetCause := .powerOn
  /-- DEV_EARLY (R812), saturating at 65,535. -/
  earlyDoorbells : Nat := 0
  earlyWrites : Nat := 0
  /-- Set once configuration is ready (Table 20-12 step 5). -/
  configReady : Bool := false
  /-- The elapsed count when RESET_N was released, from which the watchdog of R820 runs. -/
  bootStart : Nat := 0
  /-- RESET_N is low: the device is held in cold reset (R763). -/
  resetLow : Bool := false
  deriving DecidableEq, Repr

/-- The TIME_ registers and the timebase (Tables 2-7, 2-8; R77 to R86). Times are in units of 2^-16 ns. -/
structure Timebase where
  /-- TIME: 64 bits of ns and 16 bits of fraction (80 bits). -/
  time : BitVec 80 := 0
  /-- The elapsed count of R86: the sum of the increments added since cold reset. -/
  elapsed : Nat := 0
  /-- What is still to be slewed into TIME (R83, R84); 0 means the increment is nominal. -/
  slew : Int := 0
  /-- TIME_FRAC.FRAC. -/
  frac : BitVec 16 := 0
  /-- Bits [63:32] latched by a 32-bit read of TIME_NOW[31:0] (R78). -/
  upperLatch : W32 := 0
  /-- TIME_EPOCH.EPOCH. -/
  epoch : W32 := Config.epochAtReset 0
  notOwner : Bool := false
  stepped : Bool := false
  skewHigh : Bool := false
  holdover : Bool := false
  locked : Bool := false
  /-- The elapsed count at the last PPS edge, behind TIME_STATUS.PPS_SEEN. -/
  lastPps : Option Nat := none
  ppsEn : Bool := false
  ppsStep : Bool := false
  deriving DecidableEq, Repr

/-- PACE_HEARTHn (Table 2-9). -/
structure PaceHearth where
  valid : Bool := false
  pace : BitVec 16 := 0
  /-- The elapsed count at which the reported window ended, behind AGE. -/
  windowEnd : Nat := 0
  /-- The Hearth became unparked inside the present window, which is then not full for it. -/
  partialWindow : Bool := false
  deriving DecidableEq, Repr

/-- The PACE_ registers (Table 2-9), the AVSBus master and the thermal guard. -/
structure Pace where
  hearth : Sparse PaceHearth := []
  /-- PACE_VREQ.MV. -/
  mv : Nat := 800
  mvNow : Nat := 0
  guardOn : Bool := false
  rejectedHot : Bool := false
  notOwner : Bool := false
  range : Bool := false
  avsFault : Bool := false
  done : Bool := false
  busy : Bool := false
  /-- The value of the request now in progress on AVSBus. -/
  sending : Nat := 0
  /-- The newest value accepted while a request is in progress (R60). -/
  newer : Option Nat := none
  /-- The frame in progress has already been repeated once (R64). -/
  repeated : Bool := false
  /-- PACE_PARK.MASK. -/
  park : BitVec 48 := 0
  /-- PACE_PARKED.PARKED. -/
  parked : BitVec 48 := 0
  /-- The parked Hearths whose wake is in progress (R74). -/
  waking : BitVec 48 := 0
  /-- PACE_TEMP.TJ_MAX, signed in 1/16 degree. -/
  tjMax : BitVec 16 := 0
  /-- PACE_TEMP.HOTTEST. -/
  hottest : BitVec 6 := 0
  /-- A thermal trip has stopped the device (R783, R784). -/
  tripped : Bool := false
  /-- THERM_TRIP_N is low. -/
  tripOut : Bool := false
  deriving DecidableEq, Repr

/-! ## Host ports, Keeper and Ledger -/

/-- One MSI-X table entry: message address and data, and the vector's mask bit. -/
structure MsixEntry where
  addr : W64 := 0
  data : W32 := 0
  /-- Vector control bit 0: masked. -/
  masked : Bool := true
  deriving DecidableEq, Repr

/-- PORT_ADOPT_STATUS.RESULT (Table 4-8). -/
inductive AdoptResult | done | notOwner | homeUp | vacant | samePort
  deriving DecidableEq, Repr

/-- One host port: link, reset, PORT_ registers, MSI-X and held half-writes. -/
structure PortState where
  /-- The Data Link Layer is active. -/
  dllUp : Bool := false
  /-- The triggers of Table 4-16 that hold the port in reset. -/
  resetBy : List PortTrigger := []
  /-- PORT_ID.WIDTH and SPEED. -/
  width : BitVec 8 := 0
  speed : BitVec 4 := 0
  /-- PORT_ID.CXL_MEM. -/
  cxlMem : Bool := false
  /-- PERST_x_N was released (Table 20-12 step 5). -/
  perstHigh : Bool := false
  /-- PORT_ERR, both saturating at 65,535. -/
  hostFail : Nat := 0
  badAccess : Nat := 0
  /-- PORT_ADOPT_STATUS: the last PORT_ADOPT write. -/
  adopt : Option (Nat × AdoptResult) := none
  /-- PORT_DEV_VEC. -/
  devVec : W64 := 0
  /-- MSI-X Enable and Function Mask of the capability. -/
  msixEnable : Bool := false
  funcMask : Bool := false
  /-- The MSI-X table. -/
  msix : Sparse MsixEntry := []
  /-- The PBA: vectors pending. -/
  pba : Sparse Bool := []
  /-- Device Control 2 completion timeout range and value (R151). -/
  cplTimeout : BitVec 4 := 0
  /-- Configuration dwords the host has written. -/
  cfg : Sparse W32 := []
  /-- The lower halves of 64-bit WO registers held for this port (R159), by BAR0 offset. -/
  halves : Sparse (Option W32) := []
  deriving DecidableEq, Repr

/-- KEEPER_OWNERn.LAST (Table 4-11). -/
inductive TakeResult | granted | refusedHeld | refusedReserved | badToken
  deriving DecidableEq, Repr

/-- One Keeper slot (Tables 4-10, 4-11). -/
structure KeeperSlot where
  /-- The holding port and its token. -/
  holder : Option (Port × BitVec 16) := none
  gen : BitVec 16 := 0
  broken : Bool := false
  /-- The elapsed count at which the lease expires; none for a lease of 0. -/
  expiry : Option Nat := none
  /-- LAST as each port reads it. -/
  lastA : TakeResult := .granted
  lastB : TakeResult := .granted
  deriving DecidableEq, Repr

/-- The Keeper: 64 slots and KEEPER_BROKEN. -/
structure Keeper where
  slots : Sparse KeeperSlot := []
  /-- KEEPER_BROKEN.SLOTS. -/
  brokenBits : W64 := 0
  deriving DecidableEq, Repr

/-- A Ledger state of a line for a port (R184). -/
inductive LineHold | i | s | e
  deriving DecidableEq, Repr

/-- An access that waits for a line, in the order it reached the Ledger (R188). -/
inductive Waiter
  /-- A piece of a device unit. -/
  | piece (id : Nat)
  /-- A queue front-end access: staging read, completion or fault record write, by gallery. -/
  | front (gal : Nat) (slot : Nat)
  /-- A BAR4 access. -/
  | bar4 (port : Port) (write : Bool) (off : Nat) (data : List Byte) (be : List Bool) (vs : List Verdict)
  /-- A host M2S request. -/
  | m2s (port : Port) (req : M2SReq) (v : Verdict)
  deriving DecidableEq, Repr

/-- One Exchange line: what each port holds, its poison, the unresolved snoops and the waiting accesses. -/
structure Line where
  a : LineHold := .i
  b : LineHold := .i
  poison : Bool := false
  /-- The ports a BISnp was sent to and that have not answered, with the elapsed count of the send. -/
  snoopA : Option Nat := none
  snoopB : Option Nat := none
  /-- An eviction or write-back resolved the port's snoop, so its BIRsp is still to come (R191). -/
  lateA : Bool := false
  lateB : Bool := false
  waiting : List Waiter := []
  deriving DecidableEq, Repr

/-- LEDG_STATUS.RESULT (Table 4-14). -/
inductive LedgResult | ok | notOwner | linesHeld | range
  deriving DecidableEq, Repr

/-- The Ledger and the LEDG_ registers (Table 4-14). -/
structure Ledger where
  snpTimeout : Nat := 2000
  exchMib : Nat := 0
  result : LedgResult := .ok
  lines : Sparse Line := []
  /-- LEDG_COUNTS and LEDG_OUT_RANGE, saturating. -/
  poisoned : Nat := 0
  timeouts : Nat := 0
  lateRsp : Nat := 0
  crossed : Nat := 0
  outRange : Nat := 0
  /-- LEDG_LINE.LINE. -/
  sel : BitVec 20 := 0
  deriving DecidableEq, Repr

/-! ## Galleries, queues and work orders -/

/-- Gallery states (Table 3-1). -/
inductive GalSt | vacant | dormant | opened | quiescing | faulted | resetting
  deriving DecidableEq, Repr

/-- GAL_STATE.CAUSE (Table 3-5). -/
inductive GalCause | none | sqFetch | cqWrite | faultqWrite
  deriving DecidableEq, Repr

/-- GAL_STATE.RESULT (Table 3-5). -/
inductive GalResult | ok | badState | wrongPort | busy | locked | badConfig | overlap
  deriving DecidableEq, Repr

/-- DB_ABORT_STATUSq.RESULT (Table 3-11). -/
inductive AbortResult | accepted | alreadyRetired | queued | notFound
  deriving DecidableEq, Repr

/-- One queue pair: its configuration, counters, staging slot and abort state. -/
structure Queue where
  /-- GAL_SQ_BASEq and GAL_CQ_BASEq, masked to their VA fields. -/
  sqBase : W64 := 0
  cqBase : W64 := 0
  /-- GAL_QCFGq. -/
  enable : Bool := false
  irqEn : Bool := false
  vector : BitVec 11 := 0
  /-- Entries submitted, completion records consumed, entries fetched, records written: free-running. -/
  tail : BitVec 16 := 0
  head : BitVec 16 := 0
  fetched : BitVec 16 := 0
  written : BitVec 16 := 0
  /-- Entries received by DB_PUSHq and not yet staged, by index. -/
  pushed : Sparse (List Byte) := []
  /-- The staging slot (R834). -/
  staged : Option (List Byte) := none
  /-- Tags of records written and not yet consumed, oldest first. -/
  unread : List (BitVec 16) := []
  /-- DB_ABORT_STATUSq. -/
  abort : Option (AbortResult × BitVec 16) := none
  /-- A QUEUED abort (R130): its tag and how many entries are still to be staged under it. -/
  heldAbort : Option (BitVec 16 × Nat) := none
  /-- The staged entry is the one a QUEUED abort reached (R130). -/
  stagedAborted : Bool := false
  deriving DecidableEq, Repr

/-- A Catalogue segment entry as its four words (Table 5-3), with PRES_ALL stored as 0. -/
structure Segment where
  w0 : W64 := 0
  w1 : W64 := 0
  w2 : W64 := 0
  deriving DecidableEq, Repr

/-- CAT_STATUS.RESULT (Table 5-10). -/
inductive CatResult | ok | badState | wrongPort | busy | badEntry | overlap | pool | target | noSeg | locked
  deriving DecidableEq, Repr

/-- A gallery's Catalogue and CAT_ registers. -/
structure Catalogue where
  poolBase : Nat := 0
  poolSize : Nat := 0
  busy : Bool := false
  result : CatResult := .ok
  lastSeg : BitVec 8 := 0
  /-- CAT_ENTRY0 to CAT_ENTRY3. -/
  e0 : W64 := 0
  e1 : W64 := 0
  e2 : W64 := 0
  e3 : W64 := 0
  /-- CAT_PRES_SEL. -/
  selSeg : BitVec 8 := 0
  selWord : BitVec 18 := 0
  /-- CAT_COUNTS, saturating. -/
  protFaults : Nat := 0
  absentFaults : Nat := 0
  segs : Sparse Segment := []
  /-- The pieces that must finish before BUSY clears (R219). -/
  draining : List Nat := []
  deriving DecidableEq, Repr

/-- What a gallery in RESETTING is to do at its end (R139 to R141). -/
structure ResetJob where
  release : Bool := false
  scrub : Bool := false
  scrubKey : Bool := false
  /-- It ends the port-reset grace (R814): records that no port can carry are lost. -/
  portReset : Bool := false
  deriving DecidableEq, Repr

/-- One gallery: GAL_ registers, queues, fault queue and Catalogue. -/
structure Gallery where
  st : GalSt := .vacant
  cause : GalCause := .none
  result : GalResult := .ok
  busy : Bool := false
  home : Port := .a
  hearths : BitVec 48 := 0
  hobSize : BitVec 7 := 0
  hobBase : BitVec 6 := 0
  pasidValid : Bool := false
  pasid : BitVec 20 := 0
  /-- GAL_KINDLE_DEADLINE.NS. -/
  kindleNs : Nat := 50000
  cobatchJoin : Bool := false
  cobatchGroup : BitVec 10 := 0
  /-- GAL_COBATCH_HASH0 to 5. -/
  hash : Sparse W64 := []
  queues : Sparse Queue := []
  /-- GAL_FAULTQ_BASE and GAL_FAULTQ_CFG. -/
  fqBase : W64 := 0
  fqLog2 : Nat := 6
  fqIrqEn : Bool := false
  fqVector : BitVec 11 := 0
  /-- The fault queue's counters (R109) and the last sequence number given (R134). -/
  fqWritten : BitVec 16 := 0
  fqHead : BitVec 16 := 0
  fqSeq : W32 := 0
  /-- GAL_DROPS, each saturating at 65,535. -/
  staleResume : Nat := 0
  badDoorbell : Nat := 0
  wrongPort : Nat := 0
  notOpen : Nat := 0
  /-- The reset in progress, while RESETTING. -/
  job : Option ResetJob := none
  /-- The elapsed count at which the port-reset grace of R814 ends for this gallery. -/
  grace : Option Nat := none
  /-- The round-robin position over the gallery's queues (R116). -/
  rrQueue : Nat := 0
  cat : Catalogue := {}
  deriving DecidableEq, Repr

/-- Completion record STATUS (Table 3-10). -/
inductive WoStatus | complete | completeWarn | aborted | faulted | remap | refused
  deriving DecidableEq, Repr

/-- What a deciding commit fixed (R121, R125, R126). -/
structure Decision where
  status : WoStatus
  reason : BitVec 8 := 0
  faultCode : BitVec 8 := 0
  hearth : BitVec 8 := 0xFF
  stoker : BitVec 4 := 0
  pc : BitVec 18 := 0
  /-- TIME at the commit, in ns, and whether it was trusted. -/
  time : W64 := 0
  trusted : Bool := true
  /-- Bits [22:20] and the drop counters as they stood at the commit. -/
  clamp : Bool := false
  oob : Nat := 0
  sparse : Nat := 0
  deriving DecidableEq, Repr

/-- How far a fetched work order has come. -/
inductive WoPhase
  /-- Fetched, not yet dispatched. -/
  | waiting
  /-- Dispatched: running, copying or loading. -/
  | running
  deriving DecidableEq, Repr

/-- A fetched work order whose record is not yet written: the fields of Table 3-7, and its progress. -/
structure WorkOrder where
  /-- Fetch order: earlier work orders have smaller numbers (R118). -/
  id : Nat
  gal : Nat
  queue : Nat
  opcode : BitVec 8
  kindle : Bool := false
  cobatch : Bool := false
  notify : Bool := false
  allQueues : Bool := false
  priority : BitVec 2 := 0
  argCount : Nat := 0
  tag : BitVec 16 := 0
  program : BitVec 16 := 0
  offset : Nat := 0
  length : Nat := 0
  hearths : BitVec 48 := 0
  argAddr : Nat := 0
  phase : WoPhase := .waiting
  decided : Option Decision := none
  /-- Instructions retired, or 64 B blocks written. -/
  progress : Nat := 0
  clamp : Bool := false
  oobDrops : Nat := 0
  sparseDrops : Nat := 0
  /-- A DAMPER round that has ended: participants released so far (R348). -/
  damperRound : Nat := 0
  deriving DecidableEq, Repr

end Sys2Proof.Machine
end

