-- ==== Sys2Proof/Machine/LinkState.lean ====
section
/-! DEFINITION. The state of the Folio bays, the boot flash and its Accessions, management and the test port. -/

namespace Sys2Proof.Machine

/-! ## Folio bays (chapter 16) -/

/-- Bay states (Table 16-4). -/
inductive BaySt | absent | foreign | good | worn | readOnly | retired
  deriving DecidableEq, Repr

/-- FOL_STATE.REASON (Table 16-8). -/
inductive FolReason | none | notGenuine | unsealed | otherDevice | writeFailed
  deriving DecidableEq, Repr

/-- FOL_STATE.RESULT (Table 16-8). -/
inductive FolResult
  | ok | notOwner | badState | busy | badTarget | noRecord | badRecord | notTarget | galleryInUse | link
  deriving DecidableEq, Repr

/-- FOL_COMMAND (Table 16-6). -/
inductive FolCmd | adopt | eject | retire | exportKeys | acceptKeys | commit
  deriving DecidableEq, Repr

/-- A management request outstanding at a bay, by what it is for. -/
inductive MgJob
  /-- Steps 2 to 5 of enumeration (R639). -/
  | enumIdent | enumChallenge | enumLedger | enumSeal
  /-- FOL_CHAL_NONCE (R640). -/
  | chal
  /-- LEDGER_COMMIT, and the LEDGER_READ that follows it (R650); `cmd` for FOL_COMMAND COMMIT. -/
  | commit (cmd : Bool) | refresh (cmd : Bool)
  /-- LEDGER_COMMIT of EJECT (R663). -/
  | ejectCommit
  | scrub
  | adopt | retire | exportKeys
  /-- ACCEPT: block 1 is read, then cleared, then the seal is written (R660). -/
  | acceptRead | acceptClear | acceptSeal
  deriving DecidableEq, Repr

/-- One Folio bay: the FOL_ registers, its link and what its controller is doing. -/
structure Bay where
  st : BaySt := .absent
  reason : FolReason := .none
  result : FolResult := .ok
  chalDone : Bool := false
  enumerating : Bool := false
  present : Bool := false
  linkUp : Bool := false
  pwrHold : Bool := false
  ejecting : Bool := false
  busy : Bool := false
  /-- The command in progress, and whether it waits for PWR_WARN_N to rise (R668). -/
  cmd : Option FolCmd := none
  cmdHeld : Bool := false
  /-- BAY_ENb: the bay supply is on. -/
  supply : Bool := false
  /-- Present and powered, it waits for its turn to be enumerated (R639, R811). -/
  inLine : Bool := false
  /-- A Folio bay reset is in progress (R816). -/
  resetting : Bool := false
  /-- FOL_WEAR.SECTORS. -/
  wear : Nat := 0
  /-- FOL_IDENT and FOL_IDENT_INFO; the Folio has been identified. -/
  unit : W64 := 0
  model : BitVec 16 := 0
  known : Bool := false
  /-- What enumeration has found of the ledger: the Folio reports itself retired. -/
  foundRetired : Bool := false
  /-- FOL_SEAL.DEVICE and the seal's epoch. -/
  sealDev : W64 := 0
  sealEpoch : W32 := 0
  scrubbed : Nat := 0
  writeFails : Nat := 0
  readFails : Nat := 0
  readRetries : Nat := 0
  /-- The windows FOL_CHAL_NONCE, FOL_CHAL_RESP, FOL_XFER and FOL_CERT. -/
  nonce : Sparse Byte := []
  resp : List Byte := []
  xfer : Sparse Byte := []
  cert : List Byte := []
  /-- Management requests outstanding, oldest first. -/
  mg : List MgJob := []
  /-- Link sequence numbers: the next frame to send, and the next expected (R636). -/
  txSeq : BitVec 12 := 0
  rxSeq : BitVec 12 := 0
  /-- The elapsed count from which the WORN throttle admits the next WR frame (R652). -/
  nextWr : Nat := 0
  /-- The elapsed count at which EJECT sent LEDGER_COMMIT (R663). -/
  ejectAt : Option Nat := none
  deriving DecidableEq, Repr

/-! ## The boot flash, Accessions and keys (chapters 16, 18, 20) -/

/-- Slot states (Table 20-8). -/
inductive SlotSt | empty | invalid | writing | verified | trial | confirmed | rejected | belowFloor
  deriving DecidableEq, Repr

/-- One slot: its state, its image when that has been found valid, and its failed-boot count. -/
structure Slot3 where
  st : SlotSt := .empty
  image : Option Image := none
  failed : Nat := 0
  deriving DecidableEq, Repr

/-- ACC_STATUS.RESULT (Table 20-18). -/
inductive AccResult
  | ok | notOwner | busy | badState | badImage | badSignature | belowFloor | flashFail | badSource | sealed
  deriving DecidableEq, Repr

/-- What an INSTALL does next (R802). -/
inductive InstallStage | check | erase | program | readBack
  deriving DecidableEq, Repr

/-- The ACC_ command in progress. -/
inductive AccCmd
  /-- INSTALL: target, stage, the hash of step 2 and, once programmed, the image and the hash in the slot. -/
  | install (target : SlotId) (stage : InstallStage) (hash : List Byte) (image : Option Image) (programmed : List Byte)
  | activate (slot : SlotId)
  | confirm
  deriving DecidableEq, Repr

/-- A boot-flash operation (R792). -/
inductive FlashOp
  /-- The THERMAL_TRIP record (R783). -/
  | trip
  /-- The Return seal's next step. -/
  | returnSeal
  | vault | bootControl | accession
  deriving DecidableEq, Repr

/-- The Curator's boot flash, fuses and keys, and the ACC_ registers. -/
structure AccState where
  slotA : Slot3 := {}
  slotB : Slot3 := {}
  golden : Slot3 := { st := .confirmed, image := some Config.golden }
  /-- Boot control (R790): its sequence number, the slot booted next, that which last ran CONFIRMED and the one running. -/
  bootSeq : W32 := 0
  next : SlotId := .golden
  lastConfirmed : Option SlotId := none
  running : Option SlotId := none
  /-- ACC_FLOOR. -/
  floor : Nat := Config.floorFused
  raisesLeft : Nat := 255
  /-- The image in force since this boot. -/
  image : Option Image := none
  /-- Port-reset grace in ms, as the policies set it (R797). -/
  graceMs : Nat := 0
  result : AccResult := .ok
  busy : Bool := false
  progress : Nat := 0
  srcOffset : Nat := 0
  srcLength : Nat := 0
  libSel : W64 := 0
  cmd : Option AccCmd := none
  /-- The boot-flash operation in progress, and the vault commits and THERMAL_TRIP record that wait. -/
  flash : Option FlashOp := none
  vaultDue : Bool := false
  tripDue : Option (List Byte) := none
  /-- PWR_WARN_N is low (R667, R793). -/
  pwrWarn : Bool := false
  /-- The key store and the key vault: the key of each gallery that has one (R655, R656). -/
  keys : Sparse (Option (BitVec 512)) := []
  vault : Sparse (Option (BitVec 512)) := []
  /-- Galleries whose reset waits for the vault to hold their new key (R657). -/
  rekeyed : List Nat := []
  /-- Bays whose ACCEPT waits for the vault commit (R660). -/
  accepting : List Nat := []
  /-- Keys, nonces and cold resets drawn from the entropy source so far. -/
  drawn : Nat := 0
  resets : Nat := 0
  deriving DecidableEq, Repr

/-! ## Management and test access -/

/-- Management: the MCTP endpoint, the I3C target and the SPDM responder. -/
structure Mgmt where
  eid : BitVec 8 := 0
  /-- The I3C dynamic address. -/
  dynAddr : Option (BitVec 7) := none
  tid : Byte := 0
  /-- SPDM: GET_VERSION, GET_CAPABILITIES and NEGOTIATE_ALGORITHMS answered so far, by interface. -/
  versionOn : List MgmtIf := []
  capsOn : List MgmtIf := []
  algsOn : List MgmtIf := []
  deriving DecidableEq, Repr

/-- The test access port (R779 to R782). -/
structure TapState where
  ir : Tap := .idcode
  /-- The boundary register, the bypass bit, and what the pins hold. -/
  boundary : List Bool := []
  bypassBit : Bool := false
  /-- The pins are driven from the boundary register, or are in high impedance. -/
  driven : Bool := false
  highZ : Bool := false
  /-- A device cold reset is owed before the M48 is used again (R782). -/
  owed : Bool := false
  deriving DecidableEq, Repr

end Sys2Proof.Machine
end

