-- ==== Sys2Proof/Machine/State.lean ====
section
/-! DEFINITION. The state of the M48 as plain data, the reasons a command can stop, and the state after reset.
Every piece of state the spec gives the device is here, under the spec's own names. -/

namespace Sys2Proof.Machine

/-- What the device sends to the outside: recorded in order, newest last. -/
inductive Out
  /-- The value of a register read on a host port. -/
  | readDone (port : Port) (val : W64)
  /-- A read that completes with Completer Abort (R156), Unsupported Request (R163) or CRS (R812). -/
  | completerAbort (port : Port)
  | unsupportedReq (port : Port)
  | retryStatus (port : Port)
  | configDone (port : Port) (val : W32)
  /-- An error reported through AER. -/
  | aer (port : Port)
  /-- An MSI-X message. -/
  | msix (port : Port) (addr : W64) (data : W32)
  /-- A posted write to, or a read of, host memory with the gallery's PASID. -/
  | hostWrite (port : Port) (pasid : BitVec 20) (addr : Nat) (bytes : List Byte)
  | hostRead (port : Port) (pasid : BitVec 20) (addr len : Nat) (piece : Nat)
  /-- AVSBus frames on rail 0. -/
  | avsVoltage (mv : Nat)
  | avsStatus
  /-- BISnpInv or BISnpData. -/
  | bisnp (port : Port) (line : Nat) (inv : Bool)
  /-- S2M responses. -/
  | s2mData (port : Port) (line : Nat) (data : List Byte) (poison : Bool)
  | s2mCmp (port : Port) (line : Nat)
  | biConflictAck (port : Port) (line : Nat)
  /-- The completion of a BAR4 read. -/
  | bar4Data (port : Port) (data : List Byte) (poison : Bool)
  /-- Bay frames: RD, WR with its ciphertext, MG_REQ with its argument and payload, a LINK frame with NAK, and a replay. -/
  | folioRd (bay tag sector : Nat)
  | folioWr (bay tag sector : Nat) (data : List Byte)
  | folioMg (bay : Nat) (op : MgOp) (arg : Nat) (payload : List Byte)
  /-- A META_WRITE of the seal, or of a transfer record for the galleries named. -/
  | folioSeal (bay : Nat) (unit : W64) (epoch : W32)
  | folioRecord (bay : Nat) (gals : List Nat)
  | folioNak (bay : Nat) (ack : BitVec 12)
  | folioReplay (bay : Nat) (first : BitVec 12)
  /-- BAY_ENb. -/
  | bayEnable (bay : Nat) (on : Bool)
  /-- A flit on a port, with the SEQ it carries; an IDLE flit with NAK, XOFF bits or returned credits. -/
  | flit (port : Nat) (seq : BitVec 12) (f : FlitOut)
  | fenNak (port : Nat) (ack : BitVec 12)
  | fenXoff (port : Nat) (bits : BitVec 3)
  | fenCredit (port vc count : Nat)
  /-- THERM_TRIP_N low. -/
  | thermTrip
  /-- The identity block, or an address or command that is not acknowledged. -/
  | identity (i : MgmtIf) (bytes : List Byte)
  | notAcked (i : MgmtIf)
  /-- MCTP, PLDM, SPDM and DOE responses. -/
  | mctpResp (i : MgmtIf) (cmd : Nat) (bytes : List Byte)
  | pldmResp (i : MgmtIf) (type cmd : Nat) (code : Nat) (bytes : List Byte)
  | spdmResp (i : MgmtIf) (code : Nat) (bytes : List Byte)
  /-- SPDM measurements (Table 20-17), each with its index. -/
  | spdmMeasurements (i : MgmtIf) (ms : List (Nat × List Byte))
  | spdmError (i : MgmtIf) (error : Nat)
  | doeBusy (port : Port)
  | doeResp (port : Port) (bytes : List Byte)
  /-- What the test port shifts out. -/
  | tdo (bits : List Bool)
  deriving DecidableEq, Repr

/-- The M48. -/
structure State where
  dev : Dev := {}
  tb : Timebase := {}
  pace : Pace := {}
  portA : PortState := {}
  portB : PortState := {}
  keeper : Keeper := {}
  ledger : Ledger := {}
  gals : Sparse Gallery := []
  /-- The presence pool: bit i of the number is presence bit i (R209, R211). -/
  presence : Nat := 0
  /-- Fetched work orders whose records are not yet written, in fetch order. -/
  wos : List WorkOrder := []
  nextWo : Nat := 0
  /-- The round-robin position over galleries (R116). -/
  rrGal : Nat := 0
  /-- Gallery MSI-X messages held while the home port is down or in reset (R173): gallery and vector. -/
  held : List (Nat × Nat) := []
  /-- The Shared Store (R199); its top is the Exchange region and its bottom the Fault log ring. -/
  shared : List Host.Cell := []
  /-- Lines marked lost (R721), and spare lines used by bank. -/
  lostLines : Sparse Bool := []
  sparesUsed : Sparse Nat := []
  sparesNoted : Sparse Bool := []
  hearths : Sparse Hearth := []
  cabinets : Sparse Cabinet := []
  pieces : List Piece := []
  nextPiece : Nat := 0
  accs : List Acc := []
  nextAcc : Nat := 0
  bays : Sparse Bay := []
  acc : AccState := {}
  fen : FenState := {}
  mgmt : Mgmt := {}
  tap : TapState := {}
  faults : FaultState := {}
  out : List Out := []
  /-- The counter of free values already taken (the model's own field). -/
  free : Nat := 0
  /-- The commands that wait, first in first out. -/
  pending : List Instr := []
  deriving DecidableEq, Repr

/-- Why a command stops with a fault: no command of this block does. -/
inductive Fault
  /-- Never raised: every fault the spec gives ends in a next state. -/
  | none
  deriving DecidableEq, Repr

/-- Why a command is refused. -/
inductive Refusal
  /-- The model has no meaning for the row: raised by `exec` alone. Safe. -/
  | notModelled (mnemonic : String)
  /-- A Conservator mode is entered (R751); the manual documents none of what it does. Safe: the model stops. -/
  | conservatorMode
  deriving DecidableEq, Repr

/-- The M48 right after a device cold reset (R19, Table 20-14): every field at its Reset value. -/
def State.reset : State := {}

end Sys2Proof.Machine
end

