-- ==== Sys2Proof/Machine/Ops.lean ====
section
/-! DEFINITION. The named operations over the device's state that the commands share: galleries and queues,
ports and messages, the Keeper, the timebase, the Fault log and the Ledger. -/

namespace Sys2Proof.Machine

/-! ## Parts of the state -/

/-- The other host port. -/
def otherPort : Port → Port
  | .a => .b
  | .b => .a

/-- PORT_ID.SELF and GAL_HOME_PORT.PORT as a bit. -/
def portBit : Port → Nat
  | .a => 0
  | .b => 1

def State.port (s : State) : Port → PortState
  | .a => s.portA
  | .b => s.portB

def State.setPort (s : State) (p : Port) (x : PortState) : State :=
  match p with
  | .a => { s with portA := x }
  | .b => { s with portB := x }

def State.gal (s : State) (g : Nat) : Gallery := mget {} s.gals g
def State.setGal (s : State) (g : Nat) (x : Gallery) : State := { s with gals := mset {} s.gals g x }

def Gallery.queue (x : Gallery) (q : Nat) : Queue := mget {} x.queues q
def Gallery.setQueue (x : Gallery) (q : Nat) (y : Queue) : Gallery := { x with queues := mset {} x.queues q y }

def State.setQueue (s : State) (g q : Nat) (y : Queue) : State := s.setGal g ((s.gal g).setQueue q y)

def State.hearth (s : State) (h : Nat) : Hearth := mget {} s.hearths h
def State.setHearth (s : State) (h : Nat) (x : Hearth) : State := { s with hearths := mset {} s.hearths h x }

def Hearth.stoker (x : Hearth) (k : Nat) : Stoker := mget {} x.stokers k
def Hearth.setStoker (x : Hearth) (k : Nat) (y : Stoker) : Hearth := { x with stokers := mset {} x.stokers k y }

def State.stoker (s : State) (h k : Nat) : Stoker := (s.hearth h).stoker k
def State.setStoker (s : State) (h k : Nat) (y : Stoker) : State := s.setHearth h ((s.hearth h).setStoker k y)

def State.bay (s : State) (b : Nat) : Bay := mget {} s.bays b
def State.setBay (s : State) (b : Nat) (x : Bay) : State := { s with bays := mset {} s.bays b x }

/-- The device sends something. -/
def State.send (s : State) (o : Out) : State := { s with out := s.out ++ [o] }

/-- A fetched work order by its number. -/
def State.wo? (s : State) (id : Nat) : Option WorkOrder := s.wos.find? fun w => w.id = id

/-- One work order changed in place. -/
def State.updWo (s : State) (id : Nat) (f : WorkOrder → WorkOrder) : State :=
  { s with wos := s.wos.map fun w => if w.id = id then f w else w }

/-- The next free value (AN open value of the spec; the counter is the model's own). -/
def State.takeFree (s : State) : State × W64 := ({ s with free := s.free + 1 }, Config.free64 s.free)

/-! ## Time (R77 to R86) -/

/-- One nanosecond, one microsecond, one millisecond and one second of the elapsed count. -/
def ns (n : Nat) : Nat := n * 65536
def us (n : Nat) : Nat := ns (n * 1000)
def ms (n : Nat) : Nat := us (n * 1000)
def sec (n : Nat) : Nat := ms (n * 1000)

/-- The whole nanoseconds of TIME (R77). -/
def State.timeNs (s : State) : W64 := (s.tb.time >>> 16).setWidth 64

/-- TIME_STATUS.TRUSTED (R85). -/
def State.trusted (s : State) : Bool := s.tb.locked && !s.tb.holdover && !s.tb.skewHigh

/-- TIME_EPOCH after a step: one more, skipping 0 (R81). -/
def nextEpoch (e : W32) : W32 := if e + 1 = 0 then 1 else e + 1

/-- TIME steps to a value with fraction 0: EPOCH, STEPPED and the end of any slew (R81). -/
def State.stepTime (s : State) (v : W64) : State :=
  { s with tb := { s.tb with
      time := (v.setWidth 80) <<< 16, slew := 0, epoch := nextEpoch s.tb.epoch, stepped := true } }

/-- The largest trim of one increment: 200 ppm of 1.25 ns (R83). -/
def maxTrim : Int := 16

/-- The trim applied at one tick. -/
def trimOf (slew : Int) : Int := max (-maxTrim) (min maxTrim slew)

/-- One tick of the timebase: the trimmed increment is added to TIME and to the elapsed count (R86). TIME stays 0
while RESET_N holds the device in cold reset. -/
def State.tick (s : State) : State :=
  if s.dev.resetLow then s
  else
  let t := trimOf s.tb.slew
  let inc := (0x14000 + t).toNat
  { s with tb := { s.tb with
      time := s.tb.time + BitVec.ofNat 80 inc, elapsed := s.tb.elapsed + inc, slew := s.tb.slew - t } }

/-- The port-reset grace in ms, a policy of the running Accession (R797). -/
def State.graceMs (s : State) : Nat := s.acc.graceMs

/-! ## Host ports and messages -/

/-- The port is in port reset (R832). -/
def PortState.inReset (x : PortState) : Bool := !x.resetBy.isEmpty

/-- The port can issue requests and messages: its link is up and it is not in reset (R173). -/
def PortState.usable (x : PortState) : Bool := x.dllUp && !x.inReset

/-- A host's write to BAR0, BAR2 or BAR4: from a thermal trip on, every such request ends in Completer Abort (R784). -/
def State.reached (s : State) (f : State → State) : State := if s.pace.tripped then s else f s

/-- A message on a vector becomes due on a port (R179, R180, R831). -/
def State.raise (s : State) (p : Port) (v : Nat) : State :=
  let x := s.port p
  if s.pace.tripped || x.inReset || !x.msixEnable then s
  else
    let e := mget {} x.msix v
    if !x.dllUp || x.funcMask || e.masked then s.setPort p { x with pba := mset false x.pba v true }
    else s.send (.msix p e.addr e.data)

/-- A message of a gallery becomes due: raised on the home port, or held while that port is down or in reset (R173). -/
def State.raiseGal (s : State) (g v : Nat) : State :=
  let p := (s.gal g).home
  if (s.port p).usable then s.raise p v else { s with held := s.held ++ [(g, v)] }

/-- A vector of PORT_DEV_VEC becomes due on a port: `lo` is the field's lowest bit, bit `lo + 11` its enable. -/
def State.raiseDev (s : State) (p : Port) (lo : Nat) : State :=
  let d := (s.port p).devVec.toNat
  if bitAt d (lo + 11) then s.raise p (bits d lo 11) else s

/-- The same on both ports. -/
def State.raiseBoth (s : State) (lo : Nat) : State := (s.raiseDev .a lo).raiseDev .b lo

/-- PORT_PEER changed as port `p` sees it (PEER_VEC). -/
def State.raisePeer (s : State) (p : Port) : State := s.raiseDev p 32

/-! ## The Fault log (R737 to R744) -/

/-- What a fault record is about. -/
structure FaultInfo where
  event : Nat
  cls : Nat
  unitKind : Nat
  unitIndex : Nat := 0
  /-- The work order named: gallery, tag and queue. -/
  wo : Option (Nat × Nat × Nat) := none
  a : Nat := 0
  b : Nat := 0

/-- Events whose record goes to the Fault book (Table 18-5). -/
def inBook (event : Nat) : Bool :=
  [0x02, 0x04, 0x05, 0x08, 0x0A, 0x0B, 0x10, 0x11, 0x12, 0x13, 0x14, 0x18, 0x28, 0x29, 0x2A, 0x30, 0x31, 0x32].contains event

/-- The 32 bytes of a fault record (Table 18-4) with a given SEQ. -/
def faultBytes (seq : Nat) (untrusted : Bool) (time : Nat) (f : FaultInfo) : List Byte :=
  let w0 := bits seq 0 32 + f.event * 2 ^ 32 + f.cls * 2 ^ 40 + b2n untrusted * 2 ^ 42 + f.unitKind * 2 ^ 48
    + bits f.unitIndex 0 12 * 2 ^ 52
  let gi := match f.wo with
    | none => 0
    | some (g, tag, q) => g + 2 ^ 10 + tag * 2 ^ 16 + q * 2 ^ 32
  let w1 := gi + bits f.a 0 24 * 2 ^ 40
  let body := natLe 8 w0 ++ natLe 8 time ++ natLe 8 w1 ++ natLe 4 f.b
  body ++ natLe 4 (crc32c 0 body)

/-- A record of the log with the SEQ of the book in place of its own (Table 18-4). -/
def rebook (seq : Nat) (r : List Byte) : List Byte :=
  let body := natLe 4 seq ++ (r.drop 4).take 24
  body ++ natLe 4 (crc32c 0 body)

/-- The M48 writes a fault record to the ring, or counts it LOST, queues it for the book, and raises FAULT_VEC. -/
def State.logFault (s : State) (f : FaultInfo) : State :=
  let x := s.faults
  let r := faultBytes x.head.toNat (!s.trusted) s.timeNs.toNat f
  let q := if inBook f.event && !x.frozen then x.bookQueue ++ [r] else x.bookQueue
  if (x.head - x.tail).toNat = 4096 then
    { s with faults := { x with lost := satAdd 65535 x.lost 1, bookQueue := q } }
  else
    State.raiseBoth
      { s with
        faults := { x with head := x.head + 1, bookQueue := q }
        shared := putBytes s.shared (32 * (x.head.toNat % 4096)) r } 0

/-- A lasting fault is counted once (R829). -/
def State.countLasting (s : State) : State :=
  { s with faults := { s.faults with lasting := satAdd 65535 s.faults.lasting 1 } }

/-- A TRANSIENT record of a unit, at most one a second (R738). -/
def State.logTransient (s : State) (key : Nat) (f : FaultInfo) : State :=
  let due := match mget none s.faults.lastTransient key with
    | none => true
    | some t => decide (t + sec 1 ≤ s.tb.elapsed)
  if due then
    State.logFault { s with faults := { s.faults with
      lastTransient := mset none s.faults.lastTransient key (some s.tb.elapsed) } } f
  else s

/-- Every transient is counted, whether or not it writes a record (R738). -/
def State.countTransient (s : State) : State :=
  { s with faults := { s.faults with otherTransient := satAdd 65535 s.faults.otherTransient 1 } }

/-! ## Failed checks (R716 to R722, R829) -/

/-- The work order a record names. -/
def State.naming (s : State) (wo : Option Nat) : Option (Nat × Nat × Nat) :=
  match wo with
  | some id => (s.wo? id).map fun w => (w.gal, w.tag.toNat, w.queue)
  | none => none

/-- The array number of an SRAM record, or none for a unit checked by duplicate and compare. -/
def unitArray : CheckUnit → Option Nat
  | .hob => some 0 | .firebox => some 1 | .latch => some 2 | .tagBuffer => some 3 | .ember => some 4
  | .programStore => some 5 | .registerFile => some 6 | .workingBank => some 7 | .shared => some 8 | .mesh => some 9
  | _ => none

/-- DETAIL_A of a LOGIC_TRANSIENT record. -/
def unitLogic : CheckUnit → Nat
  | .streamUnit => 1 | .flue => 2 | _ => 0

/-- Slice and bank of a Shared offset, as UNIT_INDEX counts them (R199). -/
def bankOf (off : Nat) : Nat := 128 * bits off 26 2 + bits off 9 7

/-- The unit a failed check is recorded under. -/
def unitOf (u : CheckUnit) (h off : Nat) : Nat × Nat :=
  match u with
  | .shared | .mesh => (5, bankOf off)
  | _ => (1, h)

/-- DETAIL_B of an SRAM record: the word's address, or the offset of the line for mesh transport. -/
def unitDetail (u : CheckUnit) (off : Nat) : Nat :=
  match u with
  | .mesh => off / 64 * 64
  | _ => off / 8

/-- The repeat passed: counted, and recorded at most once a second (R719, R738). -/
def State.transient (s : State) (u : CheckUnit) (h off : Nat) (wo : Option Nat) : State :=
  let k := unitOf u h off
  let s := s.countTransient
  let n := s.naming wo
  match unitArray u with
  | some a => s.logTransient (k.1 * 4096 + k.2) { event := 0x01, cls := 1, unitKind := k.1, unitIndex := k.2, wo := n, a := a, b := unitDetail u off }
  | none => s.logTransient (k.1 * 4096 + k.2) { event := 0x06, cls := 1, unitKind := k.1, unitIndex := k.2, wo := n, a := unitLogic u }

/-- A Shared line is lost, and takes a spare while the bank has one (R721). -/
def State.loseLine (s : State) (off : Nat) : State :=
  let b := bankOf off
  let n := mget 0 s.sparesUsed b
  let s := { s with lostLines := mset false s.lostLines (off / 64) true }
  if n < 32 then { s with sparesUsed := mset 0 s.sparesUsed b (n + 1) }
  else if mget false s.sparesNoted b then s
  else State.logFault { s with sparesNoted := mset false s.sparesNoted b true }
    { event := 0x0B, cls := 2, unitKind := 5, unitIndex := b, b := off / 64 * 64 }

/-- A lasting fault is counted, and that of an array recorded. -/
def State.lastingLogged (s : State) (u : CheckUnit) (h off : Nat) (wo : Option Nat) : State :=
  let k := unitOf u h off
  let s := s.countLasting
  match unitArray u with
  | some a => s.logFault { event := 0x02, cls := 2, unitKind := k.1, unitIndex := k.2, wo := s.naming wo, a := a, b := unitDetail u off }
  | none => s

/-- A single-bit error in an array is corrected, written back and counted; no record is written (Table 18-1). -/
def State.countCorrected (s : State) (u : CheckUnit) : State :=
  match u, unitArray u with
  | .mesh, _ | _, none => s
  | _, some _ => { s with faults := { s.faults with sramCorrected := s.faults.sramCorrected + 1 } }

/-- The check of a Shared line that no Hearth reads has been judged (R719, R721). -/
def State.judgeLine (s : State) (v : Verdict) (off : Nat) : State :=
  match v with
  | .pass => s
  | .corrected => s.countCorrected .shared
  | .transient => s.transient .shared 0 off none
  | .lasting => (s.lastingLogged .shared 0 off none).loseLine off

/-! ## The Keeper (R167 to R172) -/

def State.slot (s : State) (n : Nat) : KeeperSlot := mget {} s.keeper.slots n

def State.setSlot (s : State) (n : Nat) (x : KeeperSlot) : State :=
  { s with keeper := { s.keeper with slots := mset {} s.keeper.slots n x } }

/-- The port holds the slot. The token is not seen by the registers it guards. -/
def State.holds (s : State) (p : Port) (n : Nat) : Bool :=
  match (s.slot n).holder with
  | some (q, _) => decide (q = p)
  | none => false

/-- A held slot breaks (R171): cause 0 is a lease, 1 a link down, 2 a port reset. -/
def State.breakSlot (s : State) (n cause : Nat) : State :=
  let x := s.slot n
  if x.holder = none then s
  else
    let s := s.setSlot n { x with holder := none, broken := true, expiry := none }
    let s := { s with keeper := { s.keeper with brokenBits := s.keeper.brokenBits ||| BitVec.ofNat 64 (2 ^ n) } }
    (s.raiseBoth 16).logFault { event := 0x21, cls := 0, unitKind := 9, unitIndex := n, a := cause }

/-- Every slot that the port holds breaks. -/
def State.breakSlotsOf (s : State) (p : Port) (cause : Nat) : State :=
  (List.range 64).foldl (fun t n => if t.holds p n then t.breakSlot n cause else t) s

/-! ## The Exchange region and the Ledger (R181 to R196) -/

/-- Shared offset of the start of the Exchange region (R201). -/
def State.exchStart (s : State) : Nat := 0x10000000 - s.ledger.exchMib * 0x100000

/-- The Exchange region's size in bytes. -/
def State.exchBytes (s : State) : Nat := s.ledger.exchMib * 0x100000

def State.line (s : State) (l : Nat) : Line := mget {} s.ledger.lines l
def State.setLine (s : State) (l : Nat) (x : Line) : State :=
  { s with ledger := { s.ledger with lines := mset {} s.ledger.lines l x } }

def Line.holdOf (x : Line) : Port → LineHold
  | .a => x.a
  | .b => x.b

def Line.setHold (x : Line) (p : Port) (h : LineHold) : Line :=
  match p with
  | .a => { x with a := h }
  | .b => { x with b := h }

def Line.snoopOf (x : Line) : Port → Option Nat
  | .a => x.snoopA
  | .b => x.snoopB

def Line.setSnoop (x : Line) (p : Port) (v : Option Nat) : Line :=
  match p with
  | .a => { x with snoopA := v }
  | .b => { x with snoopB := v }

/-- A snoop of the line is unresolved (LEDG_LINE_STATE.PENDING). -/
def Line.pending (x : Line) : Bool := x.snoopA.isSome || x.snoopB.isSome

/-- What an access does to a line, for the Ledger's decision. -/
inductive LineUse
  | devRead | devWrite
  | hostS (p : Port) | hostE (p : Port) | hostI (p : Port) | hostWrite (p : Port)

/-- The snoop a port needs before the access: none, BISnpData (false) or BISnpInv (true) (R186, R187). -/
def Line.needs (x : Line) (u : LineUse) (p : Port) : Option Bool :=
  let data := if x.holdOf p = .e then some false else none
  let inv := if x.holdOf p = .i then none else some true
  match u with
  | .devRead => data
  | .devWrite => inv
  | .hostS q => if q = p then none else data
  | .hostI q => if q = p then none else data
  | .hostE q => if q = p then none else inv
  | .hostWrite q => if q = p then none else inv

/-- The access may touch the line now: no snoop is unresolved, nothing waits ahead of it, and no snoop is needed. -/
def Line.readyFor (x : Line) (w : Waiter) (u : LineUse) : Bool :=
  !x.pending && (x.waiting.isEmpty || x.waiting.head? = some w) && (x.needs u .a).isNone && (x.needs u .b).isNone

/-- One snoop sent to a port for a line. -/
def State.sendSnoop (s : State) (l : Nat) (p : Port) (inv : Bool) : State :=
  (s.setLine l ((s.line l).setSnoop p (some s.tb.elapsed))).send (.bisnp p l inv)

/-- An access that cannot proceed on a line waits there, and the snoops it needs go out once it is the first (R188). -/
def State.askLine (s : State) (w : Waiter) (u : LineUse) (l : Nat) : State :=
  let x := s.line l
  if x.readyFor w u then s
  else
    let x := if x.waiting.contains w then x else { x with waiting := x.waiting ++ [w] }
    let s := s.setLine l x
    if x.pending || x.waiting.head? ≠ some w then s
    else
      let s := match x.needs u .a with
        | some inv => s.sendSnoop l .a inv
        | none => s
      match x.needs u .b with
        | some inv => s.sendSnoop l .b inv
        | none => s

/-- The access leaves the line's waiting list. -/
def State.unwait (s : State) (w : Waiter) (l : Nat) : State :=
  let x := s.line l
  s.setLine l { x with waiting := x.waiting.filter fun v => decide (v ≠ w) }

/-- An access asks for its lines: all ready, and it proceeds; otherwise it waits on those that are not. -/
def State.askLines (s : State) (w : Waiter) (u : LineUse) (ls : List Nat) : State × Bool :=
  if ls.all fun l => (s.line l).readyFor w u then (ls.foldl (fun t l => t.unwait w l) s, true)
  else (ls.foldl (fun t l => t.askLine w u l) s, false)

/-- The lines of `n` bytes from Exchange offset `off` on. -/
def linesOf (off n : Nat) : List Nat :=
  if n = 0 then [] else (List.range ((off + n - 1) / 64 - off / 64 + 1)).map fun i => off / 64 + i

/-- The 64 B of an Exchange line. -/
def State.lineBytes (s : State) (l : Nat) : List Byte := bytesAt s.shared (s.exchStart + 64 * l) 64

/-- The line is marked lost (R721): lost lines are kept by Shared line number. -/
def State.isLost (s : State) (sharedLine : Nat) : Bool := mget false s.lostLines sharedLine

/-- Bytes of the Shared Store written under masks; a write that covers a whole line clears its loss (R721). -/
def State.putShared (s : State) (off : Nat) (bs : List (Byte × Byte)) : State :=
  let covered := (linesOf off bs.length).filter fun l =>
    decide (off ≤ 64 * l) && decide (64 * l + 64 ≤ off + bs.length) && ((bs.drop (64 * l - off)).take 64).all fun c => c.2 = 0xFF
  { s with
    shared := putMasked s.shared off bs
    lostLines := covered.foldl (fun m l => mset false m l false) s.lostLines }

/-- Bytes of the Exchange region written; a write of a whole line clears its poison (R195). -/
def State.putExch (s : State) (off : Nat) (bs : List (Byte × Byte)) : State :=
  let covered := (linesOf off bs.length).filter fun l =>
    decide (off ≤ 64 * l) && decide (64 * l + 64 ≤ off + bs.length) && ((bs.drop (64 * l - off)).take 64).all fun c => c.2 = 0xFF
  let s := covered.foldl (fun t l => t.setLine l { t.line l with poison := false }) s
  s.putShared (s.exchStart + off) bs

/-- Some line of the range is poisoned, or lost. -/
def State.exchPoisoned (s : State) (off n : Nat) : Bool := (linesOf off n).any fun l => (s.line l).poison
def State.sharedLost (s : State) (off n : Nat) : Bool := (linesOf off n).any fun l => s.isLost l

/-- What a host M2S request does once the Ledger serves it (R185, R276, R195). -/
def State.serveM2S (s : State) (p : Port) (r : M2SReq) (v : Verdict) : State :=
  let s := match r.op with | .write _ => s | _ => s.judgeLine v (s.exchStart + 64 * r.line)
  let x := s.line r.line
  let bad := x.poison || s.isLost ((s.exchStart + 64 * r.line) / 64)
  let grant (h : LineHold) : State :=
    (s.setLine r.line (x.setHold p h)).send (.s2mData p r.line (s.lineBytes r.line) bad)
  match r.op with
  | .readS => grant .s
  | .readE => grant .e
  | .readI => grant .i
  | .write d => (s.putExch (64 * r.line) (fullMask d)).send (.s2mCmp p r.line)

/-- The use a host M2S request makes of its line. -/
def m2sUse (p : Port) (r : M2SReq) : LineUse :=
  match r.op with
  | .readS => .hostS p
  | .readE => .hostE p
  | .readI => .hostI p
  | .write _ => .hostWrite p

/-- What a BAR4 access does once the Ledger lets it (R163, R195). -/
def State.serveBar4 (s : State) (p : Port) (write : Bool) (off : Nat) (data : List Byte) (be : List Bool) (vs : List Verdict) :
    State :=
  if write then s.putExch off (data.zip (be.map fun b => if b then 0xFF else 0x00))
  else
    let s := ((linesOf off be.length).zip vs).foldl (fun t c => t.judgeLine c.2 (t.exchStart + 64 * c.1)) s
    s.send (.bar4Data p (bytesAt s.shared (s.exchStart + off) be.length)
      (s.exchPoisoned off be.length || s.sharedLost (s.exchStart + off) be.length))

/-- A waiting host access tries its lines. -/
def State.tryHost (s : State) (w : Waiter) : State × Bool :=
  match w with
  | .m2s p r v =>
    let (t, ok) := s.askLines w (m2sUse p r) [r.line]
    if ok then (t.serveM2S p r v, true) else (t, false)
  | .bar4 p wr off data be vs =>
    let (t, ok) := s.askLines w (if wr then .devWrite else .devRead) (linesOf off be.length)
    if ok then (t.serveBar4 p wr off data be vs, true) else (t, false)
  | .piece _ => (s, false)
  | .front _ _ => (s, false)

/-- The first waiting device access of a line has its snoops sent as soon as nothing is ahead of it. -/
def State.snoopForPiece (s : State) (l : Nat) (w : Waiter) : State :=
  match w with
  | .piece id =>
    match s.pieces.find? fun p => p.id = id with
    | some p => s.askLine w (if p.write then .devWrite else .devRead) l
    | none => s.unwait w l
  | _ => s

/-- The line's waiting accesses proceed in order: host accesses at once, a device access at its own next step. -/
def State.pumpLine (l : Nat) : Nat → State → State
  | 0, s => s
  | n + 1, s =>
    match (s.line l).waiting with
    | [] => s
    | w :: _ =>
      if (s.line l).pending then s
      else
        let (t, served) := s.tryHost w
        if served then State.pumpLine l n t
        else
          let u := t.snoopForPiece l w
          if (u.line l).waiting.head? = some w then u else State.pumpLine l n u

/-- All lines of an access are pumped after it. -/
def State.pumpLines (s : State) (ls : List Nat) : State :=
  ls.foldl (fun t l => State.pumpLine l ((t.line l).waiting.length + 1) t) s

/-- Queue front-end accesses of a gallery that will not be made again leave the lines they wait at. -/
def State.purgeFront (s : State) (g : Nat) (gone : Nat → Bool) : State :=
  let isGone (w : Waiter) : Bool := match w with | .front g' n => decide (g' = g) && gone n | _ => false
  let ls := s.ledger.lines.filter fun c => c.2.waiting.any isGone
  let s := ls.foldl (fun t c =>
    t.setLine c.1 { t.line c.1 with waiting := (t.line c.1).waiting.filter fun w => !isGone w }) s
  s.pumpLines (ls.map fun c => c.1)

/-- The slots of `.front` that serve staging reads and fault records. -/
def frontOpen (n : Nat) : Bool := decide (n < 4) || decide (n = 8)

/-- A snoop of a line to a port is resolved, and the waiting accesses proceed (R189). -/
def State.resolveSnoop (s : State) (l : Nat) (p : Port) : State :=
  (s.setLine l ((s.line l).setSnoop p none)).pumpLines [l]

/-- A host request of a port, which ends when the port is lost. -/
def Waiter.ofPort (w : Waiter) (p : Port) : Bool :=
  match w with
  | .m2s q _ _ => decide (q = p)
  | .bar4 q _ _ _ _ _ => decide (q = p)
  | .piece _ | .front _ _ => false

/-- The Ledger withdraws what a port holds (R194): I for the port, and poison for each line it held in E. The host requests
of the port that wait for a line end with it. -/
def State.withdrawPort (s : State) (p : Port) : State :=
  let held := s.ledger.lines.filter fun c => decide ((c.2.holdOf p) ≠ .i) || (c.2.snoopOf p).isSome
  let es := held.filter fun c => decide (c.2.holdOf p = .e)
  let ls := s.ledger.lines.map fun c => c.1
  let s := ls.foldl (fun t l =>
    let x := t.line l
    t.setLine l { (x.setHold p .i).setSnoop p none with
      poison := x.poison || decide (x.holdOf p = .e)
      waiting := x.waiting.filter fun w => !w.ofPort p }) s
  let s := { s with ledger := { s.ledger with poisoned := satAdd 65535 s.ledger.poisoned es.length } }
  match held with
  | [] => s.pumpLines ls
  | c :: _ =>
    ((s.raiseBoth 48).logFault { event := 0x22, cls := 0, unitKind := 12, a := es.length, b := c.1 }).pumpLines ls

end Sys2Proof.Machine
end

