-- ==== Sys2Proof/Machine/Translate.lean ====
section
/-! DEFINITION. Gallery addresses, the Catalogue's segment entries, and the checks on one piece (chapter 5). -/

namespace Sys2Proof.Machine

/-! ## Segment entries (Table 5-3) -/

def Segment.valid (x : Segment) : Bool := bitAt x.w0.toNat 63
def Segment.place (x : Segment) : Nat := bits x.w0.toNat 60 3
def Segment.so (x : Segment) : Bool := bitAt x.w0.toNat 59
def Segment.gr (x : Segment) : Bool := bitAt x.w0.toNat 58
def Segment.w (x : Segment) : Bool := bitAt x.w0.toNat 57
def Segment.r (x : Segment) : Bool := bitAt x.w0.toNat 56
/-- VBASE as a byte address. -/
def Segment.vbase (x : Segment) : Nat := bits x.w0.toNat 16 36 * 65536
def Segment.presOff (x : Segment) : Nat := bits x.w1.toNat 40 15
def Segment.bay (x : Segment) : Nat := bits x.w1.toNat 32 3
def Segment.pages (x : Segment) : Nat := bits x.w1.toNat 0 25
/-- TBASE as a byte address. -/
def Segment.tbase (x : Segment) : Nat := bits x.w2.toNat 16 48 * 65536
/-- Length in bytes. -/
def Segment.bytes (x : Segment) : Nat := x.pages * 65536
/-- Presence blocks used: one for every 4,096 pages (R210). -/
def Segment.blocks (x : Segment) : Nat := (x.pages + 4095) / 4096

def Catalogue.seg (c : Catalogue) (i : Nat) : Segment := mget {} c.segs i
def Catalogue.setSeg (c : Catalogue) (i : Nat) (x : Segment) : Catalogue := { c with segs := mset {} c.segs i x }

/-- The number of the first presence bit of a segment in the pool (R211). -/
def Catalogue.presBase (c : Catalogue) (x : Segment) : Nat := (c.poolBase + x.presOff) * 4096

/-- The valid segment that contains a gallery address. -/
def Catalogue.find (c : Catalogue) (va : Nat) : Option (Nat × Segment) :=
  c.segs.find? fun e => e.2.valid && decide (e.2.vbase ≤ va) && decide (va < e.2.vbase + e.2.bytes)

/-- The first address of the Hob aperture (R204). -/
def hobAperture : Nat := 0xFFFFFFFC00000

/-! ## Who may reach what (Tables 5-6, 5-7) -/

/-- Place codes of Table 5-1. -/
def placeHost : Nat := 1
def placeShared : Nat := 2
def placeFolio : Nat := 3
def placeExch : Nat := 4

/-- The agent reaches the Hob aperture (Table 5-6, last column). -/
def Agent.reachesHob : Agent → Bool
  | .grateRead | .streamRead | .streamWrite | .flueRead | .flueWrite | .memLoad | .memStore => true
  | _ => false

/-- The agent reaches the place (Table 5-6). -/
def Agent.reaches (a : Agent) (place : Nat) : Bool :=
  match a with
  | .grateRead | .streamRead | .streamWrite | .flueRead | .flueWrite | .imageRead => true
  | .memLoad | .memStore | .flagSet | .flagAdd | .flagWait
  | .cabRead | .cabWrite | .stoveRead | .stoveWrite => place = placeShared ∨ place = placeExch
  | .ldarg | .ringFetch | .recordWrite => place ≠ placeFolio
  | .moverRead | .moverWrite => place ≠ placeHost
  | .ash | .fenRead | .fenWrite | .fenAdd => place = placeShared ∨ place = placeExch

/-- The permissions the access needs (Table 5-7). -/
def Agent.permitted (a : Agent) (x : Segment) : Bool :=
  match a with
  | .grateRead => x.r || x.gr
  | .streamRead | .flueRead | .moverRead | .ringFetch | .imageRead | .fenRead => x.r
  | .streamWrite | .flueWrite | .moverWrite | .recordWrite | .fenWrite => x.w
  | .memLoad | .flagWait | .ldarg | .cabRead | .stoveRead => x.r && !x.so
  | .memStore | .flagSet | .cabWrite | .stoveWrite => x.w && !x.so
  | .flagAdd | .fenAdd => x.r && x.w && !x.so
  | .ash => x.r && x.w

/-- The access writes. -/
def Agent.writes : Agent → Bool
  | .streamWrite | .flueWrite | .memStore | .flagSet | .flagAdd | .cabWrite | .stoveWrite | .moverWrite | .recordWrite | .ash | .fenWrite | .fenAdd => true
  | _ => false

/-! ## The checks on one piece (Table 5-8) -/

/-- What the checks gave. -/
inductive Checked
  /-- Every check passed: where the piece goes, and the segment that translated it. -/
  | ok (t : Target) (seg : Option Nat)
  /-- A protection or place check failed, with its fault code (Table 7-6). -/
  | fails (code : BitVec 8)
  /-- The presence bit is clear. -/
  | absent (seg : Nat)

/-- The bay's state allows the direction (Table 16-4). A piece to a bay in a Folio bay reset waits there (R816), and one
to a bay that EJECT drains is refused (R663). -/
def Bay.allows (b : Bay) (write : Bool) : Bool :=
  if b.resetting then true
  else if b.ejecting then false
  else match b.st with
  | .good | .worn => true
  | .readOnly => !write
  | _ => false

/-- The checks of Table 5-8 in order, for a piece of gallery `g` made on a Hearth. -/
def State.check (s : State) (g : Nat) (a : Agent) (va : Nat) : Checked :=
  let x := s.gal g
  if 2 ^ 52 ≤ va then .fails 0x10
  else if hobAperture ≤ va then
    if !a.reachesHob then .fails 0x12
    else if va - hobAperture < x.hobSize.toNat * 65536 then
      .ok (.hob (x.hobBase.toNat * 65536 + (va - hobAperture))) none
    else .fails 0x11
  else
    match x.cat.find va with
    | none => .fails 0x10
    | some (i, seg) =>
      let t := seg.tbase + (va - seg.vbase)
      if !a.reaches seg.place then .fails 0x12
      else if !a.permitted seg then .fails 0x13
      else if seg.place = placeExch ∧ s.exchBytes ≤ t then .fails 0x14
      else if seg.place = placeShared ∧ s.exchStart ≤ t then .fails 0x14
      else if !s.presence.testBit (x.cat.presBase seg + (va - seg.vbase) / 65536) then .absent i
      else if seg.place = placeFolio then
        if (s.bay seg.bay).allows a.writes then .ok (.folio seg.bay t) (some i) else .fails 0x16
      else if seg.place = placeHost then .ok (.host t) (some i)
      else if seg.place = placeExch then .ok (.exchange t) (some i)
      else .ok (.shared t) (some i)

/-- A failed check is counted in CAT_COUNTS (R235). -/
def State.countProt (s : State) (g : Nat) : State :=
  let x := s.gal g
  s.setGal g { x with cat := { x.cat with protFaults := satAdd 0xFFFFFFFF x.cat.protFaults 1 } }

def State.countAbsent (s : State) (g : Nat) : State :=
  let x := s.gal g
  s.setGal g { x with cat := { x.cat with absentFaults := satAdd 0xFFFFFFFF x.cat.absentFaults 1 } }

end Sys2Proof.Machine
end

