-- ==== Sys2Proof/Machine/Commit.lean ====
section
/-! DEFINITION. The queue ledger: deciding commits and what follows them (R121, R127, R131, R315). -/

namespace Sys2Proof.Machine

/-- A stream stops: nothing more is assigned or sent, and what has been sent finishes (R131, R542). -/
def Stream.stop (x : Stream) : Stream := { x with closing := true, assigned := min x.assigned x.next, halt := none }

/-- A Stoker of a decided work order stops: it issues nothing more, and its streams close (R131). -/
def Stoker.stop (k : Stoker) : Stoker :=
  if k.st = .free then k
  else { k with
    st := .stopping, wait := .none, yieldFor := []
    handles := mmap none (fun _ x => x.map Stream.stop) k.handles }

/-- The first row group from index `i` on that still counts, else the first that does (R493). -/
def Chain.nextLead (gs : List Group) (i : Nat) : Nat :=
  let ok := (List.range gs.length).filter fun j => match gs[j]? with | some g => !g.discard | none => false
  match ok.find? fun j => decide (i ≤ j) with
  | some j => j
  | none => ok.head?.getD 0

/-- What the end of a work order leaves of a chain (R406, R494, R493): before its start its rows leave; after it, a
chain of its own starts no further tile, and in a shared chain its outputs are discarded. -/
def Chain.endWo (c : Chain) (id : Nat) : Option Chain :=
  if !(c.groups.any fun g => decide (g.wo = id)) then some c
  else if !c.began then
    let gs := c.groups.filter fun g => decide (g.wo ≠ id)
    let before := ((c.groups.take c.lead).filter fun g => decide (g.wo ≠ id)).length
    if gs.isEmpty then none else some { c with groups := gs, lead := Chain.nextLead gs before }
  else
    let gs := c.groups.map fun g => if g.wo = id then { g with discard := true } else g
    some { c with groups := gs, lead := Chain.nextLead gs c.lead, stopped := c.stopped || gs.all fun g => g.discard }

/-- The end of a work order withdraws the call: no engine or Stove has started it (R600). -/
def Call.withdrawn (c : Call) (wo : Nat) : Bool := decide (c.wo = wo) && decide (c.st = .queued) && !c.moved

/-- A Hearth when a work order's status is decided before its retire point (R131, R382, R406, R600). -/
def Hearth.endWo (x : Hearth) (id : Nat) (dropLoads : Bool) : Hearth :=
  let of (k : Nat) : Bool := decide ((mget {} x.stokers k).wo = id) && decide ((mget {} x.stokers k).st ≠ .free)
  { x with
    openings := x.openings.filter fun o => !of o.stoker
    claims := x.claims.filter fun c => !of c.stoker
    loadBs := x.loadBs.filter fun l => !of l.stoker
    calls := x.calls.filter fun c => !c.withdrawn id
    stove := { x.stove with queue := x.stove.queue.filter fun i => match i with
      | .call c => !(x.calls.any fun y => decide (y.id = c) && y.withdrawn id)
      | .load l => !(dropLoads && decide (l.wo = id)) }
    chains := x.chains.filterMap fun c => c.endWo id
    stokers := mmap {} (fun _ k => if k.wo = id then k.stop else k) x.stokers }

/-- Every Stoker of a work order stops. -/
def State.stopStokers (s : State) (id : Nat) : State :=
  let loads := s.wos.any fun w => decide (w.id = id) && decide (w.opcode = 4)
  { s with
    hearths := mmap {} (fun _ x => x.endWo id loads) s.hearths
    accs := s.accs.map fun a => if a.wo = some id ∧ a.kind = .place then { a with todo := [] } else a }

/-- The commit that decides a work order's status, unless it is already decided (R121). -/
def State.commit (s : State) (id : Nat) (d : Decision) : State :=
  s.updWo id fun w =>
    if w.decided.isSome then w
    else { w with decided := some { d with
      time := s.timeNs, trusted := s.trusted, clamp := w.clamp, oob := w.oobDrops, sparse := w.sparseDrops } }

/-- The work order is in flight and its status is not decided. -/
def State.undecided (s : State) (id : Nat) : Bool :=
  match s.wo? id with
  | some w => w.decided.isNone
  | none => false

/-- A commit that ends the work order before its retire point: its Stokers stop (R131, R316). -/
def State.endWo (s : State) (id : Nat) (d : Decision) : State :=
  if s.undecided id then (s.commit id d).stopStokers id else s

/-- An accepted abort (R131). -/
def State.abortWo (s : State) (id : Nat) (reason : BitVec 8) : State :=
  s.endWo id { status := .aborted, reason := reason }

/-- Every in-flight work order of a gallery is aborted with one reason. -/
def State.abortGal (s : State) (g : Nat) (reason : BitVec 8) : State :=
  (s.wos.filter fun w => decide (w.gal = g)).foldl (fun t w => t.abortWo w.id reason) s

/-- A fault ends its work order with a fault code, at the issuing instruction (R315, R317). -/
def State.faultWo (s : State) (id : Nat) (code : BitVec 8) (h k pc : Nat) : State :=
  s.endWo id {
    status := .faulted
    faultCode := code
    hearth := BitVec.ofNat 8 h
    stoker := BitVec.ofNat 4 k
    pc := BitVec.ofNat 18 pc }

/-- A ring or fault-queue access failed: the gallery is FAULTED and its in-flight work orders are aborted (R123). -/
def State.galleryFault (s : State) (g : Nat) (cause : GalCause) (code : Nat) : State :=
  let x := s.gal g
  if x.st = .opened ∨ x.st = .quiescing then
    let s := (s.setGal g { x with st := .faulted, cause := cause }).purgeFront g frontOpen
    let s := s.logFault { event := 0x20, cls := 0, unitKind := 10, unitIndex := g, a := code }
    s.abortGal g 0x03
  else s

end Sys2Proof.Machine
end

