-- ==== Sys2Proof/Machine/Flags.lean ====
section
/-! DEFINITION. The condition codes of CMP.cc and FLAG.WAIT.cc, and the ALU's functions (Tables 8-2, 8-3). The M48
keeps no flags: a condition is computed from two values and written to a register. -/

namespace Sys2Proof.Machine

/-- The condition of Table 8-3 holds; codes above 0x9 are not listed (R327). -/
def condHolds (cc : Nat) (a b : W64) : Bool :=
  match cc with
  | 0 => decide (a = b)
  | 1 => decide (a ≠ b)
  | 2 => a.slt b
  | 3 => !a.slt b
  | 4 => !b.slt a
  | 5 => b.slt a
  | 6 => decide (a < b)
  | 7 => decide (b ≤ a)
  | 8 => decide (a ≤ b)
  | 9 => decide (b < a)
  | _ => false

/-- CMP.cc: 1 or 0. -/
def cmpValue (cc : Nat) (a b : W64) : W64 := if condHolds cc a b then 1 else 0

/-- The shift amount of SHL, SHR and SRA: b[5:0]. -/
def shiftAmount (b : W64) : Nat := b.toNat % 64

/-- MIN and MAX, signed or unsigned. -/
def minValue (unsigned : Bool) (a b : W64) : W64 :=
  if unsigned then (if a ≤ b then a else b) else (if b.slt a then b else a)
def maxValue (unsigned : Bool) (a b : W64) : W64 :=
  if unsigned then (if a ≤ b then b else a) else (if b.slt a then a else b)

/-- MOVHI and MOVHI.X: the low half of `a` under a new upper half. -/
def withUpper (a : W64) (hi : Nat) : W64 := BitVec.ofNat 64 (a.toNat % 2 ^ 32 + hi % 2 ^ 32 * 2 ^ 32)

end Sys2Proof.Machine
end

