-- ==== Sys2Proof/Machine/Operands.lean ====
section
/-! DEFINITION. The Zhema instruction word, register files, guards and the issue of one instruction (chapter 7). -/

namespace Sys2Proof.Machine

/-! ## The instruction word (Table 7-3) -/

def zClass (w : Nat) : Nat := bits w 58 6
def zOp (w : Nat) : Nat := bits w 52 6
def zDst (w : Nat) : Nat := bits w 47 5
def zA (w : Nat) : Nat := bits w 42 5
def zB (w : Nat) : Nat := bits w 37 5
def zPred (w : Nat) : Nat := bits w 34 3
def zPneg (w : Nat) : Bool := bitAt w 33
def zSpace (w : Nat) : Nat := bits w 31 2
def zSub (w : Nat) : Nat := bits w 24 7
def zImm (w : Nat) : Nat := bits w 0 24
/-- IMM24 sign-extended to 64 bits (R309). -/
def zSimm (w : Nat) : W64 := BitVec.ofInt 64 (signed 24 (zImm w))
/-- EXT of an extension word (R310). -/
def zExt (e : Nat) : Nat := bits e 0 58

/-- The OPs that the reference chapters list for each class (Table 7-4). -/
def zListed (cls op : Nat) : Bool :=
  match cls with
  | 0x00 => decide (op ≤ 8)
  | 0x01 => decide (1 ≤ op ∧ op ≤ 15) || decide (op = 0x20) || decide (op = 0x21)
  | 0x02 => decide (1 ≤ op ∧ op ≤ 3)
  | 0x03 => decide (1 ≤ op ∧ op ≤ 9)
  | 0x08 => decide (1 ≤ op ∧ op ≤ 6) || decide (op = 0x20)
  | 0x10 => decide (1 ≤ op ∧ op ≤ 3) || decide (op = 0x22)
  | 0x11 => decide (op = 1 ∨ op = 2) || decide (op = 0x20)
  | 0x12 => decide (1 ≤ op ∧ op ≤ 3)
  | 0x18 => decide (op = 1 ∨ op = 2)
  | 0x19 => decide (1 ≤ op ∧ op ≤ 3)
  | _ => false

/-! ## Fault codes (Table 7-6) -/

def fIllegal : BitVec 8 := 0x01
def fBadOperand : BitVec 8 := 0x02
def fPcRange : BitVec 8 := 0x03
def fCallDepth : BitVec 8 := 0x04
def fArgRange : BitVec 8 := 0x05
def fHandle : BitVec 8 := 0x06
def fNoSegment : BitVec 8 := 0x10
def fHobWindow : BitVec 8 := 0x11
def fPlaceAgent : BitVec 8 := 0x12
def fAbsent : BitVec 8 := 0x15
def fMisaligned : BitVec 8 := 0x17
def fHostFail : BitVec 8 := 0x18
def fPoisoned : BitVec 8 := 0x19
def fFaultqFull : BitVec 8 := 0x1A
def fEccLasting : BitVec 8 := 0x1B
def fFolioRead : BitVec 8 := 0x1C
def fBadDescriptor : BitVec 8 := 0x20
def fStreamState : BitVec 8 := 0x21
def fFirebox : BitVec 8 := 0x28
def fAshFull : BitVec 8 := 0x30
def fCabRoute : BitVec 8 := 0x38
def fCabParam : BitVec 8 := 0x39
def fStvAbsent : BitVec 8 := 0x3A
def fStvParam : BitVec 8 := 0x3B

/-! ## Registers (R299 to R301) -/

/-- A scalar register; s0 reads as zero. -/
def Stoker.sreg (x : Stoker) (i : Nat) : W64 := if i = 0 then 0 else mget 0 x.s i
/-- A predicate; p0 reads as true. -/
def Stoker.preg (x : Stoker) (i : Nat) : Bool := if i = 0 then true else x.p.toNat.testBit i
/-- A length register. -/
def Stoker.lreg (x : Stoker) (i : Nat) : W32 := mget 0 x.lens i

/-- A result goes to its register; writes to s0 and p0 are ignored. -/
def Stoker.write (x : Stoker) (d : Dst) (v : W64) : Stoker :=
  match d.file with
  | .s => if d.idx = 0 then x else { x with s := mset 0 x.s d.idx v }
  | .p =>
    if d.idx = 0 then x
    else { x with p := (x.p &&& ~~~(BitVec.ofNat 8 (2 ^ d.idx))) ||| (if v = 0 then 0 else BitVec.ofNat 8 (2 ^ d.idx)) }
  | .len => { x with lens := mset 0 x.lens d.idx (v.setWidth 32) }

/-- The register no longer waits, and takes its value. -/
def Stoker.deliver (x : Stoker) (d : Dst) (v : W64) : Stoker :=
  { (x.write d v) with pend := x.pend.filter fun e => decide (e ≠ d) }

/-- The register waits for a value. -/
def Stoker.await (x : Stoker) (d : Dst) : Stoker := { x with pend := x.pend ++ [d] }

/-- The register that DSPACE and DST name (DSPACE 0x3 is refused before). -/
def zDstReg (w : Nat) : Dst :=
  { file := (match zSpace w with | 0 => .s | 1 => .p | _ => .len), idx := zDst w }

/-- The DST field lies within its file (R307). -/
def zDstInFile (w : Nat) : Bool :=
  match zSpace w with
  | 1 => decide (zDst w < 8)
  | 2 => decide (zDst w < 4)
  | 3 => decide (zDst w < 16)
  | _ => true

def sDst (i : Nat) : Dst := { file := .s, idx := i }
def pDst (i : Nat) : Dst := { file := .p, idx := i }
def lDst (i : Nat) : Dst := { file := .len, idx := i }

/-- One Stoker changed in place. -/
def State.updStoker (s : State) (h k : Nat) (f : Stoker → Stoker) : State := s.setStoker h k (f (s.stoker h k))
/-- One Hearth changed in place. -/
def State.updHearth (s : State) (h : Nat) (f : Hearth → Hearth) : State := s.setHearth h (f (s.hearth h))

/-! ## Issue (R289 to R310, R828) -/

/-- How an instruction uses DST and DSPACE: not at all (R307), as a register, or as a handle (R302). -/
inductive DstUse | none | reg | handle

/-- What the execution of an issued instruction came to. -/
inductive Issued
  /-- It has executed, and counts as retired. -/
  | next (s : State)
  /-- Its Stoker parks; it retires when the Stoker wakes. -/
  | park (s : State)
  /-- It raises a fault. -/
  | fault (code : BitVec 8)
  /-- It is not eligible yet (R293). -/
  | hold
  /-- It is not eligible yet, and waits in a line that the state keeps (R381). -/
  | queue (s : State)

/-- The word at a Program Store offset. -/
def Hearth.word (x : Hearth) (off : Nat) : Nat := leNat (bytesAt x.ps off 8)

/-- The eight bytes at an offset lie within the running program (R289). -/
def Stoker.inProgram (x : Stoker) (off : Nat) : Bool := decide (x.base ≤ off) && decide (off + 8 ≤ x.base + x.len)

/-- A Stoker of `xs` still keeps a yielding Stoker from issuing (R296). -/
def Hearth.yieldHolds (x : Hearth) (xs : List Nat) : Bool :=
  xs.any fun k => decide ((x.stoker k).st = .ready) && (x.stoker k).pend.isEmpty

/-- The Stoker may issue in this beat, its instruction's own interlocks apart. -/
def Hearth.canIssue (x : Hearth) (k : Nat) : Bool :=
  !x.fenced && decide ((x.stoker k).st = .ready) && !x.yieldHolds (x.stoker k).yieldFor

/-- After a Stoker has issued, it no longer holds back those that yielded to it. -/
def Hearth.issued (x : Hearth) (k : Nat) : Hearth :=
  { x with stokers := mmap {} (fun i (y : Stoker) =>
      { y with yieldFor := if i = k then [] else y.yieldFor.filter fun j => decide (j ≠ k) }) x.stokers }

/-- An instruction of a Stoker faults as it issues. -/
def State.faultIssue (s : State) (h k : Nat) (code : BitVec 8) : State :=
  let x := s.stoker h k
  s.faultWo x.wo code h k x.pc

/-- One more instruction of a work order has retired (PROGRESS, Table 3-10). -/
def State.retired (s : State) (wo : Nat) : State := s.updWo wo fun w => { w with progress := w.progress + 1 }

/-- The Stoker moves past an instruction of `n` words. -/
def State.advance (s : State) (h k n : Nat) : State :=
  (s.updHearth h fun x => x.issued k).updStoker h k fun x => { x with pc := x.pc + 8 * n, seq := x.seq + 1 }

/-- Stoker `k` of Hearth `h` issues its next word, if it is the instruction of the given CLASS and OP that `row`
admits. `legal` judges the unused bits and sub-fields, `bad` the register fields, `uses` the registers it waits for. -/
def State.issue (s : State) (h k cls op : Nat) (row : Nat → Bool) (du : DstUse) (legal : Nat → Nat → Bool)
    (bad : Nat → Bool) (uses : Nat → List Dst) (run : Nat → Nat → State → Issued) : State :=
  let x := s.hearth h
  let y := x.stoker k
  let w := x.word y.pc
  let two := decide (32 ≤ op)
  let e := x.word (y.pc + 8)
  if s.pace.tripped || !x.canIssue k then s
  else if !y.inProgram y.pc then s.faultIssue h k fPcRange
  else if zClass w ≠ cls ∨ zOp w ≠ op ∨ !row w then s
  else if two && !y.inProgram (y.pc + 8) then s.faultIssue h k fPcRange
  else if two && decide (zClass e ≠ 0x3F) then s.faultIssue h k fIllegal
  else if !(match du with
      | .none => decide (zDst w = 0) && decide (zSpace w = 0)
      | .reg => decide (zSpace w ≠ 3)
      | .handle => decide (zSpace w = 3)) || !legal w (zExt e) then s.faultIssue h k fIllegal
  else if !zDstInFile w || bad w then s.faultIssue h k fBadOperand
  else if y.pend.contains (pDst (zPred w)) then s
  else if y.preg (zPred w) = zPneg w then (s.advance h k (if two then 2 else 1)).retired y.wo
  else
    let waits := (uses w ++ (match du with | .reg => [zDstReg w] | _ => [])).any fun d => y.pend.contains d
    if waits then s
    else
      match run w (zExt e) (s.advance h k (if two then 2 else 1)) with
      | .next t => t.retired y.wo
      | .park t => t
      | .fault code => s.faultIssue h k code
      | .hold => s
      | .queue t => t

/-- ILLEGAL (R311): a word of no listed CLASS and OP, or an extension word met as a first word. -/
def State.issueIllegal (s : State) (h k : Nat) : State :=
  let x := s.hearth h
  let y := x.stoker k
  let w := x.word y.pc
  if s.pace.tripped || !x.canIssue k then s
  else if !y.inProgram y.pc then s.faultIssue h k fPcRange
  else if zListed (zClass w) (zOp w) then s
  else if zClass w ≠ 0x3F ∧ zClass w ≠ 0 ∧ 32 ≤ zOp w ∧ !y.inProgram (y.pc + 8) then s.faultIssue h k fPcRange
  else s.faultIssue h k fIllegal

/-- The Stoker parks. -/
def State.parkAs (s : State) (h k : Nat) (st : StSt) (wait : Wait) : State :=
  s.updStoker h k fun x => { x with st := st, wait := wait }

/-! ## Reading operands -/

def State.sreg (s : State) (h k i : Nat) : W64 := (s.stoker h k).sreg i

/-- s[SRCA] + imm, modulo 2^64. -/
def State.ea (s : State) (h k w : Nat) : Nat := (s.sreg h k (zA w) + zSimm w).toNat

end Sys2Proof.Machine
end

