-- ==== Sys2Proof/Machine/Alu.lean ====
section
/-! DEFINITION. The ALU class (chapter 8). -/

namespace Sys2Proof.Machine

/-- ASPACE (SUB[6:5]) and I (SUB[0]). -/
def aluSpace (w : Nat) : Nat := bits (zSub w) 5 2
def aluImm (w : Nat) : Bool := bitAt (zSub w) 0

/-- Operand a, from the file ASPACE selects (R336). -/
def Stoker.aluA (x : Stoker) (w : Nat) : W64 :=
  match aluSpace w with
  | 0 => x.sreg (zA w)
  | 1 => (x.lreg (zA w)).setWidth 64
  | _ => if x.preg (zA w) then 1 else 0

/-- Operand b: s[SRCB], or the immediate (R336). -/
def Stoker.aluB (x : Stoker) (w : Nat) : W64 := if aluImm w then zSimm w else x.sreg (zB w)

/-- The register behind operand a. -/
def aluRegA (w : Nat) : Dst :=
  match aluSpace w with
  | 0 => sDst (zA w)
  | 1 => lDst (zA w)
  | _ => pDst (zA w)

/-- SRCA lies beyond the file ASPACE names. -/
def aluBad (w : Nat) : Bool :=
  match aluSpace w with
  | 1 => decide (4 ≤ zA w)
  | 2 => decide (8 ≤ zA w)
  | _ => false

/-- Two-operand forms: `sub` judges SUB[4:1]. -/
def aluLegal (sub : Nat → Bool) (w : Nat) : Bool :=
  decide (aluSpace w ≠ 3) && sub (bits (zSub w) 1 4) && (if aluImm w then decide (zB w = 0) else decide (zImm w = 0))

/-- An ALU instruction that writes a function of a and b (R337). -/
def State.alu (s : State) (h k op : Nat) (sub : Nat → Bool) (f : Nat → Stoker → W64 → W64 → W64) : State :=
  s.issue h k 1 op (fun _ => true) .reg (fun w _ => aluLegal sub w) aluBad
    (fun w => aluRegA w :: (if aluImm w then [] else [sDst (zB w)]) ++ (if op = 13 then [pDst (bits (zSub w) 1 3)] else []))
    fun w _ t => .next (t.updStoker h k fun x => x.write (zDstReg w) (f w x (x.aluA w) (x.aluB w)))

/-- SUB[4:1] is zero. -/
def subZero (v : Nat) : Bool := decide (v = 0)

def execAdd (h : HearthId) (k : StokerId) (s : State) : Host.Outcome State Fault Refusal :=
  .next (s.alu h.val k.val 0x01 subZero fun _ _ a b => a + b)
def execSub (h : HearthId) (k : StokerId) (s : State) : Host.Outcome State Fault Refusal :=
  .next (s.alu h.val k.val 0x02 subZero fun _ _ a b => a - b)
def execMul (h : HearthId) (k : StokerId) (s : State) : Host.Outcome State Fault Refusal :=
  .next (s.alu h.val k.val 0x03 subZero fun _ _ a b => a * b)
def execAnd (h : HearthId) (k : StokerId) (s : State) : Host.Outcome State Fault Refusal :=
  .next (s.alu h.val k.val 0x04 subZero fun _ _ a b => a &&& b)
def execOr (h : HearthId) (k : StokerId) (s : State) : Host.Outcome State Fault Refusal :=
  .next (s.alu h.val k.val 0x05 subZero fun _ _ a b => a ||| b)
def execXor (h : HearthId) (k : StokerId) (s : State) : Host.Outcome State Fault Refusal :=
  .next (s.alu h.val k.val 0x06 subZero fun _ _ a b => a ^^^ b)
def execShl (h : HearthId) (k : StokerId) (s : State) : Host.Outcome State Fault Refusal :=
  .next (s.alu h.val k.val 0x07 subZero fun _ _ a b => a <<< shiftAmount b)
def execShr (h : HearthId) (k : StokerId) (s : State) : Host.Outcome State Fault Refusal :=
  .next (s.alu h.val k.val 0x08 subZero fun _ _ a b => a >>> shiftAmount b)
def execSra (h : HearthId) (k : StokerId) (s : State) : Host.Outcome State Fault Refusal :=
  .next (s.alu h.val k.val 0x09 subZero fun _ _ a b => a.sshiftRight (shiftAmount b))
/-- MIN: SUB[1] selects the unsigned order. -/
def execMin (h : HearthId) (k : StokerId) (s : State) : Host.Outcome State Fault Refusal :=
  .next (s.alu h.val k.val 0x0A (fun v => decide (v < 2)) fun w _ a b => minValue (bitAt (zSub w) 1) a b)
/-- MAX, as MIN. -/
def execMax (h : HearthId) (k : StokerId) (s : State) : Host.Outcome State Fault Refusal :=
  .next (s.alu h.val k.val 0x0B (fun v => decide (v < 2)) fun w _ a b => maxValue (bitAt (zSub w) 1) a b)
/-- CMP.cc: the condition code is SUB[4:1] (R338). -/
def execCmpCc (h : HearthId) (k : StokerId) (s : State) : Host.Outcome State Fault Refusal :=
  .next (s.alu h.val k.val 0x0C (fun v => decide (v < 10)) fun w _ a b => cmpValue (bits (zSub w) 1 4) a b)
/-- SEL: a if p[q] is true, else b; q is SUB[3:1] (R339). -/
def execSel (h : HearthId) (k : StokerId) (s : State) : Host.Outcome State Fault Refusal :=
  .next (s.alu h.val k.val 0x0D (fun v => decide (v < 8)) fun w x a b => if x.preg (bits (zSub w) 1 3) then a else b)

/-- MOVI: the sign-extended immediate. -/
def execMovi (h : HearthId) (k : StokerId) (s : State) : Host.Outcome State Fault Refusal :=
  .next (s.issue h.val k.val 1 0x0E (fun _ => true) .reg
    (fun w _ => decide (zSub w = 0) && decide (zA w = 0) && decide (zB w = 0)) (fun _ => false) (fun _ => [])
    fun w _ t => .next (t.updStoker h.val k.val fun x => x.write (zDstReg w) (zSimm w)))

/-- MOVHI: a[31:0] under the immediate's low 32 bits. -/
def execMovhi (h : HearthId) (k : StokerId) (s : State) : Host.Outcome State Fault Refusal :=
  .next (s.issue h.val k.val 1 0x0F (fun _ => true) .reg
    (fun w _ => decide (bits (zSub w) 0 5 = 0) && decide (aluSpace w ≠ 3) && decide (zB w = 0)) aluBad (fun w => [aluRegA w])
    fun w _ t => .next (t.updStoker h.val k.val fun x => x.write (zDstReg w) (withUpper (x.aluA w) (zSimm w).toNat)))

/-- MOVI.X: EXT[39:0] above IMM24. -/
def execMoviX (h : HearthId) (k : StokerId) (s : State) : Host.Outcome State Fault Refusal :=
  .next (s.issue h.val k.val 1 0x20 (fun _ => true) .reg
    (fun w e => decide (zSub w = 0) && decide (zA w = 0) && decide (zB w = 0) && decide (e < 2 ^ 40)) (fun _ => false)
    (fun _ => []) fun w e t =>
      .next (t.updStoker h.val k.val fun x => x.write (zDstReg w) (BitVec.ofNat 64 (e * 2 ^ 24 + zImm w))))

/-- MOVHI.X: a[31:0] under EXT[31:0]. -/
def execMovhiX (h : HearthId) (k : StokerId) (s : State) : Host.Outcome State Fault Refusal :=
  .next (s.issue h.val k.val 1 0x21 (fun _ => true) .reg
    (fun w e => decide (bits (zSub w) 0 5 = 0) && decide (aluSpace w ≠ 3) && decide (zB w = 0) && decide (zImm w = 0)
      && decide (e < 2 ^ 32)) aluBad (fun w => [aluRegA w])
    fun w e t => .next (t.updStoker h.val k.val fun x => x.write (zDstReg w) (withUpper (x.aluA w) e)))

end Sys2Proof.Machine
end

