-- ==== Sys2Proof/Machine/Ctl.lean ====
section
/-! DEFINITION. The CTL class but for HALT (chapter 8): control transfers, TRAP, YIELD, NOP, and ILLEGAL. -/

namespace Sys2Proof.Machine

/-- A valid target: a multiple of 8 within the program. -/
def Stoker.targetOk (x : Stoker) (t : Int) : Bool :=
  decide (t % 8 = 0) && decide ((x.base : Int) ≤ t) && decide (t ≤ (x.base : Int) + x.len - 1)

/-- branch(t): PC := t, or PC_RANGE. -/
def State.branch (s : State) (h k : Nat) (t : Int) : Issued :=
  if (s.stoker h k).targetOk t then .next (s.updStoker h k fun x => { x with pc := t.toNat }) else .fault fPcRange

/-- The target that IMM24 gives, in words relative to the transfer; the PC has already moved past it. -/
def relTarget (pcAfter w : Nat) : Int := (pcAfter : Int) - 8 + 8 * signed 24 (zImm w)

/-- Fields that a CTL form does not use are zero. -/
def ctlZero (w : Nat) (a b sub imm : Bool) : Bool :=
  (a || decide (zA w = 0)) && (b || decide (zB w = 0)) && (sub || decide (zSub w = 0)) && (imm || decide (zImm w = 0))

/-- NOP (R312). -/
def execNop (h : HearthId) (k : StokerId) (s : State) : Host.Outcome State Fault Refusal :=
  .next (s.issue h.val k.val 0 0 (fun _ => true) .none (fun w _ => ctlZero w false false false false) (fun _ => false)
    (fun _ => []) fun _ _ t => .next t)

/-- JMP: relative, or with IND a program offset from a register (R329, R330). -/
def State.jmp (s : State) (h k : Nat) : State :=
  s.issue h k 0 1 (fun _ => true) .none
    (fun w _ => if bitAt (zSub w) 0 then decide (zSub w = 1) && ctlZero w true false true false
      else ctlZero w false false false true)
    (fun _ => false) (fun w => if bitAt (zSub w) 0 then [sDst (zA w)] else [])
    fun w _ t =>
      let y := t.stoker h k
      if bitAt (zSub w) 0 then t.branch h k ((y.base : Int) + (y.sreg (zA w)).toNat)
      else t.branch h k (relTarget y.pc w)

/-- JMP (R329). -/
def execJmp (h : HearthId) (k : StokerId) (s : State) : Host.Outcome State Fault Refusal := .next (s.jmp h.val k.val)

/-- BR: TEST always, zero or non-zero (R332). -/
def State.br (s : State) (h k : Nat) : State :=
  s.issue h k 0 2 (fun _ => true) .none
    (fun w _ => decide (zSub w < 3) && ctlZero w (decide (zSub w ≠ 0)) false true true)
    (fun _ => false) (fun w => if zSub w = 0 then [] else [sDst (zA w)])
    fun w _ t =>
      let y := t.stoker h k
      let a := y.sreg (zA w)
      if zSub w = 0 ∨ (zSub w = 1 ∧ a = 0) ∨ (zSub w = 2 ∧ a ≠ 0) then t.branch h k (relTarget y.pc w) else .next t

/-- BR (R332). -/
def execBr (h : HearthId) (k : StokerId) (s : State) : Host.Outcome State Fault Refusal := .next (s.br h.val k.val)

/-- CALL: CALL_DEPTH first, then the push and the branch (R331). -/
def State.callInstr (s : State) (h k : Nat) : State :=
  s.issue h k 0 3 (fun _ => true) .none (fun w _ => ctlZero w false false false true) (fun _ => false) (fun _ => [])
    fun w _ t =>
      let y := t.stoker h k
      if 8 ≤ y.stack.length then .fault fCallDepth
      else (t.updStoker h k fun x => { x with stack := y.pc :: x.stack }).branch h k (relTarget y.pc w)

/-- CALL (R331). -/
def execCall (h : HearthId) (k : StokerId) (s : State) : Host.Outcome State Fault Refusal := .next (s.callInstr h.val k.val)

/-- RET (R331). -/
def State.ret (s : State) (h k : Nat) : State :=
  s.issue h k 0 4 (fun _ => true) .none (fun w _ => ctlZero w false false false false) (fun _ => false) (fun _ => [])
    fun _ _ t =>
      match (t.stoker h k).stack with
      | [] => .fault fCallDepth
      | a :: rest => (t.updStoker h k fun x => { x with stack := rest }).branch h k a

/-- RET (R331). -/
def execRet (h : HearthId) (k : StokerId) (s : State) : Host.Outcome State Fault Refusal := .next (s.ret h.val k.val)

/-- LOOP: a scalar or length counter is decremented and tested (R332, R333). -/
def State.loop (s : State) (h k : Nat) : State :=
  s.issue h k 0 5 (fun _ => true) .reg
    (fun w _ => decide (zSpace w ≠ 1) && ctlZero w false false false true) (fun _ => false) (fun _ => [])
    fun w _ t =>
      let y := t.stoker h k
      let c : W64 := if zSpace w = 2 then (y.lreg (zDst w)).setWidth 64 else y.sreg (zDst w)
      if c = 0 then .next t
      else
        let t := t.updStoker h k fun x => x.write (zDstReg w) (c - 1)
        if c - 1 = 0 then .next t else t.branch h k (relTarget y.pc w)

/-- LOOP (R332). -/
def execLoop (h : HearthId) (k : StokerId) (s : State) : Host.Outcome State Fault Refusal := .next (s.loop h.val k.val)

/-- TRAP n: fault code TRAP_n (R335). -/
def execTrap (h : HearthId) (k : StokerId) (s : State) : Host.Outcome State Fault Refusal :=
  .next (s.issue h.val k.val 0 7 (fun _ => true) .none
    (fun w _ => ctlZero w false false false true && decide (zImm w < 64)) (fun _ => false) (fun _ => [])
    fun w _ _ => .fault (BitVec.ofNat 8 (0xC0 + zImm w)))

/-- The Stokers that are eligible beside `k`, as far as their own state says. -/
def Hearth.others (x : Hearth) (k : Nat) : List Nat :=
  (List.range 16).filter fun j => decide (j ≠ k) && decide ((x.stoker j).st = .ready) && (x.stoker j).pend.isEmpty
    && !x.yieldHolds (x.stoker j).yieldFor

/-- YIELD (R296). -/
def execYield (h : HearthId) (k : StokerId) (s : State) : Host.Outcome State Fault Refusal :=
  .next (s.issue h.val k.val 0 8 (fun _ => true) .none (fun w _ => ctlZero w false false false false) (fun _ => false)
    (fun _ => []) fun _ _ t =>
      .next (t.updStoker h.val k.val fun y => { y with yieldFor := (t.hearth h.val).others k.val }))

/-- ILLEGAL (R311). -/
def execIllegal (h : HearthId) (k : StokerId) (s : State) : Host.Outcome State Fault Refusal :=
  .next (s.issueIllegal h.val k.val)

end Sys2Proof.Machine
end

