-- ==== Sys2Proof/Machine/Fence.lean ====
section
/-! DEFINITION. Retry once, fences and the fence list (chapter 18): what a check that failed does to counts, records,
units and work orders. -/

namespace Sys2Proof.Machine

/-! ## What is available -/

def State.cabinet (s : State) (q : Nat) : Cabinet := mget {} s.cabinets q
def State.setCabinet (s : State) (q : Nat) (x : Cabinet) : State := { s with cabinets := mset {} s.cabinets q x }

/-- HRT_GRATE_MASK.MFG of a Hearth (R8, R324). -/
def State.mfg (s : State) (h : Nat) : BitVec 16 := mget 0xFFFF s.dev.mfg h

/-- HRT_GRATE_MASK.AVAIL of a Hearth. -/
def State.avail (s : State) (h : Nat) : BitVec 16 := s.mfg h &&& ~~~(s.hearth h).grateFenced

/-- A set of one bit. -/
def oneBit (w i : Nat) : BitVec w := BitVec.ofNat w (2 ^ i)

/-! ## The fence list (R733 to R735) -/

/-- The number of the entry that holds a unit, if it has a valid one. -/
def FaultState.entryOf (x : FaultState) (kind : BitVec 3) (index : BitVec 12) : Option Nat :=
  (x.fences.find? fun e => e.2.valid && decide (e.2.kind = kind) && decide (e.2.index = index)).map fun e => e.1

/-- The lowest entry not in use. -/
def FaultState.freeEntry (x : FaultState) : Option Nat := (List.range 1024).find? fun j => !(mget {} x.fences j).valid

/-- The number the next Fault book record will have. -/
def FaultState.nextBook (x : FaultState) : W32 := x.bookRecords + BitVec.ofNat 32 x.bookQueue.length

/-- A fence of a unit is entered in the fence list and its record written, unless the unit has a valid entry already
(R733). The record is given the number of the entry, or 0xFFFF_FFFF when none was added. -/
def State.enterFence (s : State) (kind : BitVec 3) (index : Nat) (cause : BitVec 8) (rec : Nat → FaultInfo) : State :=
  let i : BitVec 12 := BitVec.ofNat 12 index
  if (s.faults.entryOf kind i).isSome then s
  else if s.faults.frozen then s.logFault (rec 0xFFFFFFFF)
  else
    match s.faults.freeEntry with
    | none => State.logFault { s with faults := { s.faults with listFull := true } } (rec 0xFFFFFFFF)
    | some j =>
      let e : FenceEntry := { valid := true, kind := kind, index := i, cause := cause, record := s.faults.nextBook }
      State.logFault { s with faults := { s.faults with fences := mset {} s.faults.fences j e } } (rec j)

/-- CLASS of a fence record: LASTING, or INFO for a commanded one (Table 18-5). -/
def fenceClass (lasting : Bool) : Nat := if lasting then 2 else 0

/-! ## Hearths (R726 to R728) -/

/-- The work orders a fence of the Hearth ends with REMAP. -/
def State.remapped (s : State) (h : Nat) : List WorkOrder :=
  s.wos.filter fun w => bitAt w.hearths.toNat h && w.decided.isNone

/-- REMAP for every undecided work order whose HEARTHS includes the Hearth. -/
def State.remapAll (s : State) (h : Nat) : State :=
  (s.remapped h).foldl (fun t w => t.endWo w.id { status := .remap, hearth := BitVec.ofNat 8 h }) s

/-- A Hearth is fenced. FENCE_REQ adds no entry to the list (R733). -/
def State.fenceHearth (s : State) (h : Nat) (cause : BitVec 8) (lasting listed : Bool) : State :=
  if (s.hearth h).fenced then s
  else
    let n := (s.remapped h).length
    let s := s.setHearth h { s.hearth h with fenced := true, cause := cause }
    let s := s.remapAll h
    let f : FaultInfo := { event := 0x05, cls := fenceClass lasting, unitKind := 1, unitIndex := h, a := cause.toNat, b := n }
    if listed then s.enterFence 2 h cause fun _ => f else s.logFault f

/-! ## Grates, engines and Stove slices -/

/-- A Grate is fenced; the Hearth's last one takes the Hearth with it (R724). -/
def State.fenceGrate (s : State) (h g a : Nat) (lasting : Bool) (wo : Option (Nat × Nat × Nat)) : State :=
  let x := s.hearth h
  let s := s.setHearth h { x with
    grateFenced := x.grateFenced ||| oneBit 16 g
    grateDue := x.grateDue &&& ~~~(oneBit 16 g) }
  let s := s.enterFence 1 (16 * h + g) 0 fun j =>
    { event := 0x04, cls := fenceClass lasting, unitKind := 2, unitIndex := 16 * h + g, wo := wo, a := a, b := j }
  if s.avail h = 0 then s.fenceHearth h 0 true true else s

/-- The Cabinet that serves an engine in place of Cabinet `q` (R730). -/
def State.substitute (s : State) (q e : Nat) : Option Nat :=
  (([1, 2, 3]).map fun i => (q + i) % 4).find? fun r => !bitAt (s.cabinet r).fenced.toNat (e - 1)

/-- A Cabinet engine is fenced (R730). -/
def State.fenceEngine (s : State) (q e : Nat) (lasting : Bool) (wo : Option (Nat × Nat × Nat)) : State :=
  let x := s.cabinet q
  let s := s.setCabinet q { x with fenced := x.fenced ||| oneBit 8 (e - 1) }
  s.enterFence 3 (8 * q + e - 1) 0 fun _ =>
    { event := 0x08, cls := fenceClass lasting, unitKind := 3, unitIndex := 8 * q + e - 1, wo := wo, a := e
      b := match s.substitute q e with | some r => r | none => 0xFFFFFFFF }

/-- A Stove slice is fenced (R732). -/
def State.fenceStove (s : State) (h entry : Nat) (lasting : Bool) (wo : Option (Nat × Nat × Nat)) : State :=
  let x := s.hearth h
  let s := s.setHearth h { x with stove := { x.stove with fenced := true } }
  s.enterFence 4 h 0 fun _ =>
    { event := 0x0A, cls := fenceClass lasting, unitKind := 4, unitIndex := h, wo := wo, a := entry }

/-- The fences that the list holds are applied again: no record, no entry (R734). `only` picks the units of one
Hearth, or all. -/
def State.reapplyFences (s : State) (only : Option Nat) : State :=
  s.faults.fences.foldl (fun t e =>
    let i := e.2.index.toNat
    let at' (h : Nat) : Bool := match only with | some o => decide (o = h) | none => true
    if !e.2.valid then t
    else
      match e.2.kind.toNat with
      | 1 =>
        if at' (i / 16) then
          t.setHearth (i / 16) { t.hearth (i / 16) with grateFenced := (t.hearth (i / 16)).grateFenced ||| oneBit 16 (i % 16) }
        else t
      | 2 => if at' i then t.setHearth i { t.hearth i with fenced := true, cause := e.2.cause } else t
      | 3 =>
        if only.isNone then t.setCabinet (i / 8) { t.cabinet (i / 8) with fenced := (t.cabinet (i / 8)).fenced ||| oneBit 8 (i % 8) }
        else t
      | 4 => if at' i then t.setHearth i { t.hearth i with stove := { (t.hearth i).stove with fenced := true } } else t
      | _ => t) s

/-! ## Failed checks (R716 to R722, R829) -/

/-- HRT_FENCE.CAUSE of a lasting fault (Tables 7-10, 18-1). -/
def unitCause : CheckUnit → BitVec 8
  | .programStore => 4
  | .registerFile => 1
  | .sequencer | .streamUnit | .flue => 2
  | _ => 3

/-- The repeat failed too: the outcome of Table 18-1, the fault of the work order aside. -/
def State.lastingFault (s : State) (u : CheckUnit) (h off : Nat) (wo : Option Nat) : State :=
  let s := s.lastingLogged u h off wo
  match u with
  | .shared => s.loseLine off
  | .mesh => s
  | .workingBank => s
  | _ => s.fenceHearth h (unitCause u) true true

/-- The check of a unit of a Hearth, or of the Shared Store, has been judged. -/
def State.judge (s : State) (u : CheckUnit) (v : Verdict) (h off : Nat) (wo : Option Nat) : State :=
  match v with
  | .pass => s
  | .corrected => s.countCorrected u
  | .transient => s.transient u h off wo
  | .lasting => s.lastingFault u h off wo

end Sys2Proof.Machine
end

