-- ==== Sys2Proof/Machine/Fp.lean ====
section
/-! DEFINITION. Exact numbers, the element formats and their roundings (chapter 10), and the arithmetic that the
Grates, the Ember table, the engines and the Stove share. -/

namespace Sys2Proof.Machine

/-- A number as a format encodes it; `fin` stands for (-1)^neg * m * 2^e. -/
inductive Num
  | nan
  | inf (neg : Bool)
  | fin (neg : Bool) (m : Nat) (e : Int)
  deriving DecidableEq, Repr

/-- 2 to an exponent that is not negative. -/
def pow2 (e : Int) : Nat := 2 ^ e.toNat

/-- A magnitude rounded to nearest, ties to even, to `p` significant bits above 2^emin, as the body of an encoding
whose exponent field has no upper end. -/
def roundBody (p : Nat) (emin : Int) (m : Nat) (e : Int) : Nat :=
  if m = 0 then 0
  else
    let q := max emin ((m.log2 : Int) + e - ((p : Int) - 1))
    let k :=
      if q ≤ e then m * pow2 (e - q)
      else
        let sh := (q - e).toNat
        let k0 := m >>> sh
        let r := m % 2 ^ sh
        let half := 2 ^ (sh - 1)
        if half < r ∨ (r = half ∧ k0 % 2 = 1) then k0 + 1 else k0
    (q - emin).toNat * 2 ^ (p - 1) + k

/-- A magnitude truncated to an integer quotient and rounded to nearest, ties to even. -/
def roundInt (m : Nat) (e : Int) : Nat :=
  if 0 ≤ e then m * pow2 e
  else
    let sh := (-e).toNat
    let k := m >>> sh
    let r := m % 2 ^ sh
    if 2 ^ (sh - 1) < r ∨ (r = 2 ^ (sh - 1) ∧ k % 2 = 1) then k + 1 else k

/-! ## Formats (Tables 10-3, 12-3) -/

/-- Width in bits. -/
def Fmt.bits : Fmt → Nat
  | .int4 | .uint4 | .fp4 => 4
  | .int8 | .uint8 | .e4m3 | .e5m2 => 8
  | .bf16 | .fp16 => 16
  | .fp32 | .int32 => 32

/-- An integer format. -/
def Fmt.isInt : Fmt → Bool
  | .int4 | .uint4 | .int8 | .uint8 | .int32 => true
  | _ => false

/-- Significant bits and the exponent of the smallest subnormal, for the floating formats. -/
def Fmt.prec : Fmt → Nat
  | .fp4 => 2 | .e4m3 => 4 | .e5m2 => 3 | .bf16 => 8 | .fp16 => 11 | _ => 24
def Fmt.emin : Fmt → Int
  | .fp4 => -1 | .e4m3 => -9 | .e5m2 => -16 | .bf16 => -133 | .fp16 => -24 | _ => -149

/-- The body that encodes infinity; none in the formats without one. -/
def Fmt.infBody : Fmt → Option Nat
  | .e5m2 => some 0x7C | .bf16 => some 0x7F80 | .fp16 => some 0x7C00 | .fp32 => some 0x7F800000 | _ => none

/-- The body of the largest finite magnitude. -/
def Fmt.maxBody : Fmt → Nat
  | .fp4 => 0x7 | .e4m3 => 0x7E | .e5m2 => 0x7B | .bf16 => 0x7F7F | .fp16 => 0x7BFF | _ => 0x7F7FFFFF

/-- The NaN that a conversion writes (Table 10-4); FP4 has none and takes +0. -/
def Fmt.nanBits : Fmt → Nat
  | .e4m3 => 0x7F | .e5m2 => 0x7F | .bf16 => 0x7FC0 | .fp16 => 0x7E00 | .fp32 => 0x7FC00000 | _ => 0

/-- The range of an integer format. -/
def Fmt.lo : Fmt → Int
  | .int4 => -8 | .int8 => -128 | .int32 => -(2 ^ 31) | _ => 0
def Fmt.hi : Fmt → Int
  | .int4 => 7 | .uint4 => 15 | .int8 => 127 | .uint8 => 255 | _ => 2 ^ 31 - 1

/-- The exact number of a floating encoding. -/
def decodeFloat (f : Fmt) (x : Nat) : Num :=
  let w := f.bits
  let neg := bitAt x (w - 1)
  let body := x % 2 ^ (w - 1)
  let special := match f.infBody with
    | some i => if body = i then some (Num.inf neg) else if i < body then some .nan else none
    | none => if f = .e4m3 ∧ body = 0x7F then some .nan else none
  match special with
  | some n => n
  | none =>
    let h := 2 ^ (f.prec - 1)
    if body / h = 0 then .fin neg body f.emin
    else .fin neg (body % h + h) (f.emin + (body / h : Nat) - 1)

/-- The integer of an integer encoding. -/
def decodeInt (f : Fmt) (x : Nat) : Int :=
  match f with
  | .uint4 | .uint8 => x
  | _ => signed f.bits x

/-- An integer as a number. -/
def numOfInt (i : Int) : Num := .fin (decide (i < 0)) i.natAbs 0

/-- The exact number of any element encoding. -/
def decodeElem (f : Fmt) (x : Nat) : Num := if f.isInt then numOfInt (decodeInt f x) else decodeFloat f x

/-- The sign bit of a format of `w` bits. -/
def signBit (w : Nat) (neg : Bool) : Nat := if neg then 2 ^ (w - 1) else 0

/-- An exact number rounded to FP32 under IEEE 754: overflow gives an infinity, a NaN is 0x7FC0_0000 (R464). -/
def toF32 : Num → Nat
  | .nan => 0x7FC00000
  | .inf neg => signBit 32 neg + 0x7F800000
  | .fin neg m e => signBit 32 neg + min 0x7F800000 (roundBody 24 (-149) m e)

def ofF32 (x : Nat) : Num := decodeFloat .fp32 x

/-- An integer saturated to a format's range and encoded. -/
def satInt (f : Fmt) (i : Int) : Nat := (max f.lo (min f.hi i) % 2 ^ f.bits).toNat

/-- A number converted to an element format, rounded once (Table 10-4). -/
def convert (f : Fmt) (n : Num) : Nat :=
  if f.isInt then
    match n with
    | .nan => 0
    | .inf neg => satInt f (if neg then f.lo else f.hi)
    | .fin neg m e => satInt f (if neg then -(roundInt m e : Int) else roundInt m e)
  else
    match n with
    | .nan => f.nanBits
    | .inf neg => signBit f.bits neg + f.infBody.getD f.maxBody
    | .fin neg m e => signBit f.bits neg + min f.maxBody (roundBody f.prec f.emin m e)

/-! ## Exact operations -/

/-- The signed integer a finite number has at exponent `e0`, which is not above its own. -/
def alignTo (e0 : Int) (neg : Bool) (m : Nat) (e : Int) : Int :=
  if neg then -((m * pow2 (e - e0) : Nat) : Int) else ((m * pow2 (e - e0) : Nat) : Int)

/-- IEEE addition before rounding; opposite zeros and exact cancellation give +0. -/
def Num.add : Num → Num → Num
  | .nan, _ => .nan
  | _, .nan => .nan
  | .inf a, .inf b => if a = b then .inf a else .nan
  | .inf a, _ => .inf a
  | _, .inf b => .inf b
  | .fin a m e, .fin b k f =>
    let e0 := min e f
    let i := alignTo e0 a m e + alignTo e0 b k f
    .fin (if i = 0 then a && b else decide (i < 0)) i.natAbs e0

def Num.neg : Num → Num
  | .nan => .nan
  | .inf a => .inf (!a)
  | .fin a m e => .fin (!a) m e

/-- The exact product. -/
def Num.mul : Num → Num → Num
  | .nan, _ => .nan
  | _, .nan => .nan
  | .inf a, .inf b => .inf (a != b)
  | .inf a, .fin b m _ => if m = 0 then .nan else .inf (a != b)
  | .fin a m _, .inf b => if m = 0 then .nan else .inf (a != b)
  | .fin a m e, .fin b k f => .fin (a != b) (m * k) (e + f)

/-- A quotient with 64 bits and one sticky bit below, which rounds as the exact quotient does. -/
def Num.div : Num → Num → Num
  | .nan, _ => .nan
  | _, .nan => .nan
  | .inf _, .inf _ => .nan
  | .inf a, .fin b _ _ => .inf (a != b)
  | .fin a _ _, .inf b => .fin (a != b) 0 0
  | .fin a m e, .fin b k f =>
    if k = 0 then (if m = 0 then .nan else .inf (a != b))
    else
      let s := 66 + k.log2
      let q := (m <<< s) / k
      .fin (a != b) (2 * q + (if q * k = m <<< s then 0 else 1)) (e - f - s - 1)

/-- The square root of a number, rounded down, from bit `i` on. -/
def isqrtFrom (n : Nat) : Nat → Nat → Nat
  | 0, r => r
  | i + 1, r => if (r + 2 ^ i) * (r + 2 ^ i) ≤ n then isqrtFrom n i (r + 2 ^ i) else isqrtFrom n i r

def isqrt (n : Nat) : Nat := isqrtFrom n (n.log2 / 2 + 1) 0

/-- The reciprocal square root with a sticky bit below 64 bits, which rounds as the exact one does (R609). -/
def Num.rsqrt : Num → Num
  | .nan => .nan
  | .inf neg => if neg then .nan else .fin false 0 0
  | .fin neg m e =>
    if m = 0 then .inf neg
    else if neg then .nan
    else
      let (m, e) := if e % 2 = 0 then (m, e) else (2 * m, e - 1)
      let t := 66 + m.log2
      let n := isqrt (2 ^ (2 * t) / m)
      .fin false (2 * n + (if n * n * m = 2 ^ (2 * t) then 0 else 1)) (-(t : Int) - 1 - e / 2)

/-- The number without its sign. -/
def Num.abs : Num → Num
  | .nan => .nan
  | .inf _ => .inf false
  | .fin _ m e => .fin false m e

/-- A finite number is zero. -/
def Num.isZero : Num → Bool
  | .fin _ m _ => m = 0
  | _ => false

/-- a < b, for numbers that are not NaN. -/
def Num.lt (a b : Num) : Bool :=
  match a, b with
  | .nan, _ => false
  | _, .nan => false
  | .inf x, .inf y => x && !y
  | .inf x, _ => x
  | _, .inf y => !y
  | .fin x m e, .fin y k f => decide (alignTo (min e f) x m e < alignTo (min e f) y k f)

/-! ## FP32 arithmetic on encodings: nearest, ties to even, subnormals kept -/

def f32Add (a b : Nat) : Nat := toF32 ((ofF32 a).add (ofF32 b))
def f32Sub (a b : Nat) : Nat := toF32 ((ofF32 a).add (ofF32 b).neg)
def f32Mul (a b : Nat) : Nat := toF32 ((ofF32 a).mul (ofF32 b))
def f32Div (a b : Nat) : Nat := toF32 ((ofF32 a).div (ofF32 b))
def f32Rsqrt (a : Nat) : Nat := toF32 (ofF32 a).rsqrt
def f32IsNan (a : Nat) : Bool := decide (ofF32 a = .nan)

/-- FP32 of an integer. -/
def f32OfInt (i : Int) : Nat := toF32 (numOfInt i)

/-! ## The exponent (R610) -/

/-- The Taylor sum of exp over `n` more terms, in units of 2^-256. -/
def expSum (x : Nat) : Nat → Nat → Nat → Nat → Nat
  | 0, _, _, acc => acc
  | n + 1, k, term, acc =>
    let t := term * x / (k * 2 ^ 256)
    expSum x n (k + 1) t (acc + t)

/-- exp of a number of units of 2^-256, in units of 2^-256. -/
def expFixed (x : Nat) : Nat := expSum x 640 1 (2 ^ 256) (2 ^ 256)

/-- A positive value m * 2^e rounded down to an FP32 body, the largest finite one at most. -/
def floorBody (m : Nat) (e : Int) : Nat :=
  let q := max (-149) ((m.log2 : Int) + e - 23)
  let k := if q ≤ e then m * pow2 (e - q) else m >>> (q - e).toNat
  min 0x7F7FFFFF ((q + 149).toNat * 2 ^ 23 + k)

/-- exp: one of the two FP32 values around the exact one, which of them the spec leaves open. -/
def f32Exp (x : Nat) : Nat :=
  match ofF32 x with
  | .nan => 0x7FC00000
  | .inf neg => if neg then 0 else 0x7F800000
  | .fin neg m e =>
    if m = 0 then 0x3F800000
    else
      let up := if Config.expUp (BitVec.ofNat 32 x) then 1 else 0
      let mag := if 0 ≤ e + 256 then m * pow2 (e + 256) else m >>> (-(e + 256)).toNat
      if 104 * 2 ^ 256 < mag then (if neg then up else 0x7F800000)
      else if neg then floorBody (2 ^ 768 / expFixed mag) (-512) + up
      else
        let y := expFixed mag
        if 2 ^ 384 ≤ y then 0x7F800000 else floorBody y (-256) + up

end Sys2Proof.Machine
end

