-- ==== Sys2Proof/Machine/Layout.lean ====
section
/-! DEFINITION. Tensor descriptors: their fields and checks, walks, element addresses and classes, scale indexes, and
the joining of elements into runs (chapter 12). -/

namespace Sys2Proof.Machine

/-! ## Fields (Tables 12-1 to 12-3) -/

/-- The 64-bit word at a byte offset of a block. -/
def wordAt (b : List Byte) (off : Nat) : Nat := leNat ((b.drop off).take 8)

/-- FORMAT. -/
def fmtOf : Nat → Option Fmt
  | 0 => some .int4 | 1 => some .uint4 | 2 => some .int8 | 3 => some .uint8 | 4 => some .fp4 | 5 => some .e4m3
  | 6 => some .e5m2 | 7 => some .bf16 | 8 => some .fp16 | 9 => some .fp32 | 10 => some .int32 | _ => none

/-- LAYOUT. -/
def layoutOf : Nat → Option Layout
  | 0 => some .strided | 1 => some .ilA32 | 2 => some .ilB32 | 3 => some .ilA16 | 4 => some .ilB16 | _ => none

/-- SPARSE. -/
def sparseOf : Nat → Option SparseFmt
  | 0 => some .dense | 1 => some .s24 | 2 => some .s24t | 3 => some .rl4 | 4 => some .rl8 | _ => none

/-- SFMT. -/
def sfmtOf : Nat → Option ScaleFmt
  | 0 => some .none | 1 => some .e8m0 | 2 => some .bs128 | _ => none

/-- Bytes of an element of 8 bits or more; 1 for the 4-bit formats, whose stride unit is a pair. -/
def Fmt.size (f : Fmt) : Nat := max 1 (f.bits / 8)

/-- Elements in a scale block (R518), and the bytes of one scale. -/
def ScaleFmt.block : ScaleFmt → Nat | .bs128 => 128 | _ => 32
def ScaleFmt.bytes : ScaleFmt → Nat | .bs128 => 2 | _ => 1

/-- The scale formats that Table 12-3 allows for a format. -/
def Fmt.allows (f : Fmt) : ScaleFmt → Bool
  | .none => true
  | .e8m0 => match f with | .int8 | .fp4 | .e4m3 | .e5m2 => true | _ => false
  | .bs128 => match f with | .bf16 | .fp16 | .fp32 | .int32 => false | _ => true

/-- The rank range of a layout (Table 12-4). -/
def Layout.minRank : Layout → Nat | .strided => 1 | .ilA32 | .ilB32 => 2 | .ilA16 | .ilB16 => 3

def Layout.interleaved (l : Layout) : Bool := decide (l ≠ .strided)
def Layout.isB : Layout → Bool | .ilB32 | .ilB16 => true | _ => false
def Layout.isQuad : Layout → Bool | .ilA16 | .ilB16 => true | _ => false

/-- A dimension entry (Table 12-2); a tile of 0 means 1. -/
def dimAt (b : List Byte) (d : Nat) : Dim :=
  let lo := wordAt b (16 + 16 * d)
  let hi := wordAt b (24 + 16 * d)
  { extent := bits lo 0 32
    stride := signed 48 (bits lo 32 32 + bits hi 0 16 * 2 ^ 32)
    tile := if bits hi 16 16 = 0 then 1 else bits hi 16 16 }

/-! ## Extents (R504 to R507) -/

def Desc.dim (x : Desc) (d : Nat) : Dim := (x.dims[d]?).getD { extent := 1, stride := 0, tile := 1 }
def Desc.rank (x : Desc) : Nat := x.dims.length

/-- ⌈a / b⌉ * b. -/
def roundUp (a b : Nat) : Nat := (a + b - 1) / b * b

/-- The planned extents W_d. -/
def Desc.planned (x : Desc) : List Nat := x.dims.map fun d => roundUp d.extent d.tile

/-- The walk extents V_d for given cut extents (R506). -/
def Desc.walkExtents (x : Desc) (cut : List Nat) : List Nat :=
  cut.mapIdx fun d c =>
    if d = 0 ∧ x.layout.interleaved then roundUp c (x.dim 0).tile
    else if d = 1 ∧ x.layout.isB then roundUp c 32
    else c

def product (l : List Nat) : Nat := l.foldl (· * ·) 1

/-- The length W of the walk (R507). -/
def Desc.walkLen (x : Desc) (cut : List Nat) : Nat := product (x.walkExtents cut)

/-- Mixed-radix digits, innermost first. -/
def digits : Nat → List Nat → List Nat
  | _, [] => []
  | n, r :: rs => n % r :: digits (n / r) rs

/-- The coordinates of walk element `n` over walk extents `v` (Table 12-4). -/
def Desc.coords (x : Desc) (v : List Nat) (n : Nat) : List Nat :=
  let c := (x.dim 0).tile
  let v0 := (v[0]?).getD 1
  let v1 := (v[1]?).getD 1
  let v2 := (v[2]?).getD 1
  match x.layout with
  | .strided => digits n v
  | .ilA32 =>
    match digits n (c :: v1 :: v0 / c :: v.drop 2) with
    | k :: i1 :: j :: o => (j * c + k) :: i1 :: o
    | _ => []
  | .ilA16 =>
    match digits n (c :: v2 :: v1 :: v0 / c :: v.drop 3) with
    | k :: h :: i1 :: j :: o => (j * c + k) :: i1 :: h :: o
    | _ => []
  | .ilB32 =>
    match digits n (32 :: c :: v0 / c :: v1 / 32 :: v.drop 2) with
    | m :: k :: j :: t :: o => (j * c + k) :: (32 * t + m) :: o
    | _ => []
  | .ilB16 =>
    match digits n (16 :: c :: 2 :: v2 :: v0 / c :: v1 / 32 :: v.drop 3) with
    | m :: k :: u :: h :: j :: t :: o => (j * c + k) :: (32 * t + 16 * u + m) :: h :: o
    | _ => []

/-! ## Addresses (R509, R510) -/

/-- The dot product of coordinates with the strides of the dimensions from `d` on. -/
def Desc.dot (x : Desc) : Nat → List Nat → Int
  | _, [] => 0
  | d, c :: cs => Int.ofNat c * (x.dim d).stride + x.dot (d + 1) cs

/-- The offset that the coordinates from dimension `d` on give. -/
def Desc.outer (x : Desc) (i : List Nat) (d : Nat) : Int := x.dot d (i.drop d)

/-- The byte address of an element, and whether it is the high nibble of its byte. -/
def Desc.addr (x : Desc) (i : List Nat) : Int × Bool :=
  let i0 := (i[0]?).getD 0
  let i1 := (i[1]?).getD 0
  let c := (x.dim 0).tile
  let s0 := (x.dim 0).stride
  let s1 := (x.dim 1).stride
  let j := i0 / c
  let k := i0 % c
  let small := decide (x.fmt.bits = 4)
  let e := x.fmt.size
  match x.layout with
  | .strided =>
    if small then ((x.base : Int) + ((i0 / 2 : Nat) : Int) * s0 + x.outer i 1, decide (i0 % 2 = 1))
    else ((x.base : Int) + e * x.outer i 0, false)
  | .ilA32 | .ilA16 =>
    let o := (j : Int) * s0 + x.outer i 1
    if small then ((x.base : Int) + o + ((k / 2 : Nat) : Int), decide (k % 2 = 1))
    else ((x.base : Int) + e * (o + k), false)
  | .ilB32 =>
    let o := ((i1 / 32 : Nat) : Int) * s1 + (j : Int) * s0 + x.outer i 2
    let y := 32 * k + i1 % 32
    if small then ((x.base : Int) + o + ((y / 2 : Nat) : Int), decide (y % 2 = 1))
    else ((x.base : Int) + e * (o + y), false)
  | .ilB16 =>
    let o := ((i1 / 32 : Nat) : Int) * s1 + (j : Int) * s0 + x.outer i 2
    let y := 16 * c * (i1 / 16 % 2) + 16 * k + i1 % 16
    if small then ((x.base : Int) + o + ((y / 2 : Nat) : Int), decide (y % 2 = 1))
    else ((x.base : Int) + e * (o + y), false)

/-! ## Classes (Table 12-6) -/

/-- Some coordinate is at or beyond its limit. -/
def beyond (i lim : List Nat) : Bool := (i.zip lim).any fun c => decide (c.2 ≤ c.1)

/-- What becomes of a walk element. -/
inductive ElemClass
  | cut | outside
  /-- Inside: its byte address and nibble. -/
  | inside (addr : Nat) (hi : Bool)
  deriving DecidableEq, Repr

/-- The class of the element with given coordinates (R514). -/
def Desc.classOf (x : Desc) (cut i : List Nat) : ElemClass :=
  if beyond i cut then .cut
  else if beyond i (x.dims.map fun d => d.extent) then .outside
  else
    let a := x.addr i
    .inside a.1.toNat a.2

/-- The class of walk element `n`, over the walk extents of the cut (streams, engines). -/
def Desc.elem (x : Desc) (cut : List Nat) (n : Nat) : ElemClass := x.classOf cut (x.coords (x.walkExtents cut) n)

/-- The class of walk element `n` over the planned extents, as FLU.ST.L walks (R499, R507). -/
def Desc.plannedElem (x : Desc) (cut : List Nat) (n : Nat) : ElemClass :=
  x.classOf cut (x.coords (x.walkExtents x.planned) n)

/-! ## Scales (R518, R519, R580) -/

/-- Logical elements along dimension 0 that one scale covers. -/
def Desc.scaleSpan (x : Desc) : Nat := x.sfmt.block * (match x.sparse with | .s24 | .s24t => 2 | _ => 1)

/-- The scale index s of an element. -/
def Desc.scaleIndex (x : Desc) (i : List Nat) : Nat :=
  let b := x.scaleSpan
  let p1 := ((x.dim 0).extent + b - 1) / b
  ((i.drop 1).foldl (fun (a : Nat × Nat × Nat) c => (a.1 + c * a.2.1, a.2.1 * (x.dim a.2.2).extent, a.2.2 + 1))
    ((i[0]?).getD 0 / b, p1, 1)).1

/-- The address of the scale that an element uses, unless it uses 1.0 (R519). -/
def Desc.scaleAddr (x : Desc) (cut i : List Nat) : Option Nat :=
  let b := x.scaleSpan
  let first := ((i[0]?).getD 0 / b * b) :: i.drop 1
  match x.classOf cut first with
  | .inside _ _ => some (x.scale + x.scaleIndex first * x.sfmt.bytes)
  | _ => none

/-- The encoding of a scale of 1.0. -/
def ScaleFmt.one : ScaleFmt → Nat | .bs128 => 0x3C00 | _ => 0x7F

/-- The number a scale encodes (R462). -/
def ScaleFmt.num (f : ScaleFmt) (x : Nat) : Num :=
  match f with
  | .bs128 => decodeFloat .fp16 x
  | _ => if x = 0xFF then .nan else .fin false 1 ((x : Int) - 127)

/-! ## Compressed tiles (R512, R573, Table 14-2) -/

/-- Slices of an RL tile. -/
def Desc.slices (x : Desc) : Nat := x.fill % 4 + 1

/-- ORIENT of an S24T descriptor. -/
def Desc.orient (x : Desc) : Bool := bitAt x.fill 0

/-- Bytes of an S24T quadrant (R572). -/
def quadrantBytes (w : Nat) : Nat := 512 * w / 8 + 64

/-- Entries of one column of an RL slice, for a logical depth of Kt. -/
def rlEntries (kt : Nat) : Nat := kt / 4

/-- Bytes of the image of one walk tile: for IL-B16, of the four quad tiles together. -/
def Desc.tileBytes (x : Desc) : Nat :=
  let kt := (x.dim 0).tile
  let w := x.fmt.bits
  match x.sparse with
  | .dense => kt * 32 * w / 8
  | .s24 => (if x.layout = .ilB16 then 2 else 1) * (32 * (kt / 2) * w / 8 + 32 * (kt / 2) / 4)
  | .s24t => kt / 32 * quadrantBytes w
  | .rl4 => x.slices * (rlEntries kt * 32 * w / 8 + rlEntries kt * 16)
  | .rl8 => x.slices * (rlEntries kt * 32 * w / 8 + rlEntries kt * 32)

/-- Logical elements of one walk tile. -/
def Desc.tileElems (x : Desc) : Nat := (x.dim 0).tile * 32 * (if x.layout = .ilB16 then 2 else 1)

/-- The addresses of the parts of a walk tile's image, in delivery order (R573): for S24T its quadrants. -/
def Desc.tileParts (x : Desc) (i : List Nat) : List (Int × Nat) :=
  let i0 := (i[0]?).getD 0
  let i1 := (i[1]?).getD 0
  let kt := (x.dim 0).tile
  let j : Int := ((i0 / kt : Nat) : Int)
  let t := i1 / 32
  let o := x.outer i 2 - (if x.layout = .ilB16 then Int.ofNat ((i[2]?).getD 0) * (x.dim 2).stride else 0)
  match x.sparse with
  | .s24t =>
    let m := kt / 32
    let q := quadrantBytes x.fmt.bits
    let start := (x.base : Int) + j * (x.dim 0).stride + ((t / m : Nat) : Int) * (x.dim 1).stride + o
    (List.range m).map fun r =>
      let idx := if x.orient then m * (t % m) + r else m * r + t % m
      (start + ((idx * q : Nat) : Int), q)
  | _ => [((x.base : Int) + (t : Int) * (x.dim 1).stride + j * (x.dim 0).stride + o, x.tileBytes)]

/-! ## Checks (Table 12-7) -/

/-- The corners of the extents. -/
def corners : List Nat → List (List Nat)
  | [] => [[]]
  | e :: es => (corners es).flatMap fun c => if e ≤ 1 then [0 :: c] else [0 :: c, (e - 1) :: c]

/-- An address range lies from 0 to 2^52 - 1. -/
def inVa (a : Int) (n : Nat) : Bool := decide (0 ≤ a) && decide (a + n ≤ 2 ^ 52)

/-- Check 9, on the corners of the extents. -/
def Desc.addressesOk (x : Desc) : Bool :=
  let es := x.dims.map fun d => d.extent
  if es.any fun e => decide (e = 0) then true
  else
    (corners es).all fun i =>
      (if x.sparse = .dense then inVa (x.addr i).1 x.fmt.size
       else (x.tileParts i).all fun p => inVa p.1 p.2)
      && (if x.sfmt = .none then true else inVa ((x.scale + x.scaleIndex i * x.sfmt.bytes : Nat) : Int) x.sfmt.bytes)

/-- Table 14-1 and R565, for a descriptor whose SPARSE is not DENSE, and R512. -/
def Desc.sparseOk (x : Desc) : Bool :=
  let d0 := x.dim 0
  let d1 := x.dim 1
  let narrow := match x.fmt with | .bf16 | .fp16 => false | _ => true
  let common := x.layout.isB && decide (d0.extent % d0.tile = 0) && decide (d1.extent % d1.tile = 0)
    && (match x.fmt with | .fp32 | .int32 => false | _ => true)
  match x.sparse with
  | .dense => true
  | .s24 => common && decide (x.fill = 0)
  | .s24t => common && decide (x.layout = .ilB32) && decide (d1.extent % d0.tile = 0) && decide (d0.tile % 32 = 0) && decide (x.fill < 2)
  | .rl4 | .rl8 => common && narrow && decide (x.layout = .ilB32) && decide (x.sfmt = .none) && decide (x.fill < 4)

/-- Checks 5 to 10 of Table 12-7. -/
def Desc.ok (x : Desc) : Bool :=
  let d0 := x.dim 0
  let small := decide (x.fmt.bits = 4)
  decide (x.base % x.fmt.size = 0)
  && (decide (x.sfmt = .none) || decide (x.scale % x.sfmt.bytes = 0))
  && decide (x.layout.minRank ≤ x.rank) && decide (x.rank ≤ 6)
  && (!x.layout.interleaved || (decide (d0.tile ≤ 256) && (!small || decide (d0.tile % 2 = 0))))
  && (!x.layout.isB || decide ((x.dim 1).tile = 32))
  && (!x.layout.isQuad || (decide ((x.dim 2).tile = 2) && decide ((x.dim 2).extent ≤ 2)))
  && x.fmt.allows x.sfmt && x.sparseOk && x.addressesOk && decide (product x.planned ≤ 2 ^ 40)

/-- The descriptor that 128 bytes spell, when every check of Table 12-7 but the first holds (R522). -/
def parseDesc (b : List Byte) : Option Desc :=
  let w0 := wordAt b 0
  let w1 := wordAt b 8
  let ws := wordAt b 112
  let rank := bits w0 59 3
  let fill := wordAt b 120
  let reservedOk := decide (bits w0 62 2 = 0) && decide (bits w1 3 61 = 0) && decide (bits ws 54 10 = 0)
    && (List.range 6).all fun d =>
        if d < rank then decide (bits (wordAt b (24 + 16 * d)) 32 32 = 0)
        else decide (wordAt b (16 + 16 * d) = 0) && decide (wordAt b (24 + 16 * d) = 0)
  match fmtOf (bits w0 52 4), layoutOf (bits w0 56 3), sparseOf (bits w1 0 3), sfmtOf (bits ws 52 2) with
  | some f, some l, some sp, some sf =>
    let x : Desc := {
      base := bits w0 0 52, fmt := f, layout := l, sparse := sp
      dims := (List.range rank).map (dimAt b)
      scale := bits ws 0 52, sfmt := sf, fill := fill }
    if b.length = 128 ∧ reservedOk ∧ 1 ≤ rank ∧ rank ≤ 6 ∧ fill < 2 ^ f.bits ∧ x.ok then some x else none
  | _, _, _, _ => none

/-- Run-time lengths applied to dimensions (R505, R362); none when a dimension is not below the rank. -/
def Desc.cutWith (x : Desc) (lens : List (Nat × Nat)) : List Nat :=
  x.planned.mapIdx fun d w =>
    match lens.find? fun l => decide (l.1 = d) with
    | some l => min l.2 w
    | none => w

/-- Some run-time length exceeds its planned extent (R363). -/
def Desc.clamps (x : Desc) (lens : List (Nat × Nat)) : Bool := lens.any fun l => decide ((x.planned[l.1]?).getD 0 < l.2)

/-! ## Runs (R527) -/

/-- A piece of data for an element of `w` bits: its bytes with their masks. -/
def elemBytes (f : Fmt) (hi : Bool) (v : Nat) : List (Byte × Byte) :=
  if f.bits = 4 then (if hi then [(BitVec.ofNat 8 (v * 16), 0xF0)] else [(BitVec.ofNat 8 (v % 16), 0x0F)])
  else fullMask (natLe f.size v)

/-- Two writes of the halves of one byte combine (R267). -/
def mergeByte (a b : Byte × Byte) : Byte × Byte := ((a.1 &&& a.2 &&& ~~~b.2) ||| (b.1 &&& b.2), a.2 ||| b.2)

/-- One more element joins the newest run when its bytes follow on, or share its last byte, within one 512 B block. -/
def joinRun (rs : List Run) (va : Nat) (d : List (Byte × Byte)) (n : Nat) (share : Bool) : List Run :=
  match rs with
  | [] => [{ va := va, len := n, wdata := d }]
  | r :: rest =>
    if share && decide (va + 1 = r.va + r.len) then
      let w := match r.wdata.reverse, d with
        | l :: more, x :: _ => (mergeByte l x :: more).reverse
        | _, _ => r.wdata
      { r with wdata := w } :: rest
    else if va = r.va + r.len ∧ (va + n - 1) / 512 = r.va / 512 then
      { r with len := r.len + n, wdata := r.wdata ++ d } :: rest
    else { va := va, len := n, wdata := d } :: r :: rest

/-- A run of bytes cut at 512 B blocks. -/
def cutBytes : Nat → Nat → Nat → List Run
  | 0, _, _ => []
  | fuel + 1, va, n =>
    if n = 0 then []
    else
      let k := min n (512 - va % 512)
      { va := va, len := k } :: cutBytes fuel (va + k) (n - k)

/-- The runs that read `n` bytes from an address. -/
def byteRuns (va n : Nat) : List Run := cutBytes (n / 512 + 2) va n

/-- The runs that write some bytes from an address. -/
def writeRuns (va : Nat) (d : List (Byte × Byte)) : List Run :=
  (byteRuns va d.length).map fun r => { r with wdata := (d.drop (r.va - va)).take r.len }

/-- The runs that read the elements of a list of classes, in walk order. -/
def readRuns (f : Fmt) (es : List ElemClass) : List Run :=
  (es.foldl (fun rs e => match e with
    | .inside a hi => joinRun rs a [] f.size (decide (f.bits = 4) && hi)
    | _ => rs) []).reverse

/-- The runs that write elements, in walk order. -/
def writeElems (f : Fmt) (es : List (ElemClass × Nat)) : List Run :=
  (es.foldl (fun rs e => match e.1 with
    | .inside a hi => joinRun rs a (elemBytes f hi e.2) f.size (decide (f.bits = 4) && hi)
    | _ => rs) []).reverse

/-- The element at an address in bytes that were read. -/
def elemAt (f : Fmt) (buf : Nat → Byte) (a : Nat) (hi : Bool) : Nat :=
  if f.bits = 4 then bits (buf a).toNat (if hi then 4 else 0) 4
  else leNat ((List.range f.size).map fun i => buf (a + i))

end Sys2Proof.Machine
end

