-- ==== Sys2Proof/Machine/Gallery.lean ====
section
/-! DEFINITION. The life of a gallery: GAL_COMMAND, configuration writes, and the end of a reset (chapter 3). -/

namespace Sys2Proof.Machine

/-- A BAR0 write before READY is dropped and counted in DEV_EARLY.WRITES (R812). -/
def State.earlyWrite (s : State) : State :=
  { s with dev := { s.dev with earlyWrites := satAdd 65535 s.dev.earlyWrites 1 } }

/-- A BAR0 write to a block that takes writes only once the device is READY. -/
def State.whenReady (s : State) (f : State → State) : State :=
  s.reached fun s => if s.dev.ready then f s else s.earlyWrite

def State.galResult (s : State) (g : Nat) (r : GalResult) : State := s.setGal g { s.gal g with result := r }

/-- The judgement of a GAL_COMMAND write (R837): WRONG_PORT, then BUSY, then BAD_STATE, which a sealed part
gives to every command other than RELEASE (R749). -/
def State.judgeGal (s : State) (g : Nat) (portOk stateOk : Bool) (f : State → State) : State :=
  if !portOk then s.galResult g .wrongPort
  else if (s.gal g).busy then s.galResult g .busy
  else if !stateOk then s.galResult g .badState
  else f s

/-- CREATE: VACANT to DORMANT (R92), the fault queue's counters at 0 (R109). -/
def State.create (s : State) (p : Port) (g : Nat) : State :=
  s.judgeGal g (s.holds p 0) (decide ((s.gal g).st = .vacant) && !s.faults.sealed) fun s =>
    s.setGal g { s.gal g with st := .dormant, result := .ok, fqWritten := 0, fqHead := 0, fqSeq := 0 }

/-- A ring lies in a segment whose place is host, Shared or Exchange, with the permission given (Table 3-3, check 6). -/
def Catalogue.ringOk (c : Catalogue) (va len : Nat) (needW : Bool) : Bool :=
  match c.find va with
  | none => false
  | some (_, x) =>
    (x.place = placeHost ∨ x.place = placeShared ∨ x.place = placeExch)
      && (if needW then x.w else x.r) && decide (va + len ≤ x.vbase + x.bytes)

/-- Two Hob windows overlap. -/
def windowsOverlap (x y : Gallery) : Bool :=
  decide (x.hobBase.toNat < y.hobBase.toNat + y.hobSize.toNat) && decide (y.hobBase.toNat < x.hobBase.toNat + x.hobSize.toNat)

/-- The first check of Table 3-3 that fails. -/
def State.openCheck (s : State) (g : Nat) : Option GalResult :=
  let x := s.gal g
  let enabled := (List.range 4).filter fun q => (x.queue q).enable
  if x.hearths = 0 then some .badConfig
  else if x.hobSize = 0 ∨ 64 < x.hobSize.toNat ∨ 64 < x.hobBase.toNat + x.hobSize.toNat then some .badConfig
  else if s.gals.any fun e => decide (e.1 ≠ g) && decide (e.2.st ≠ .vacant) && windowsOverlap x e.2
      && decide (x.hearths &&& e.2.hearths ≠ 0) then some .overlap
  else if !x.pasidValid then some .badConfig
  else if enabled.isEmpty then some .badConfig
  else if (enabled.all fun q => x.cat.ringOk (x.queue q).sqBase.toNat 4096 false
      && x.cat.ringOk (x.queue q).cqBase.toNat 2048 true) && x.cat.ringOk x.fqBase.toNat (32 * 2 ^ x.fqLog2) true then none
  else some .badConfig

/-- OPEN (R98). -/
def State.openGal (s : State) (p : Port) (g : Nat) : State :=
  s.judgeGal g (decide ((s.gal g).home = p)) (decide ((s.gal g).st = .dormant) && !s.faults.sealed) fun s =>
    match s.openCheck g with
    | some r => s.galResult g r
    | none => s.setGal g { s.gal g with st := .opened, result := .ok }

/-- QUIESCE (R100). -/
def State.quiesce (s : State) (p : Port) (g : Nat) : State :=
  s.judgeGal g (decide ((s.gal g).home = p)) (decide ((s.gal g).st = .opened) && !s.faults.sealed) fun s =>
    s.setGal g { s.gal g with st := .quiescing, result := .ok }

/-- Entries not yet fetched, and their held aborts, are discarded (R139, step 3). -/
def Queue.discard (q : Queue) : Queue :=
  { q with tail := q.fetched, pushed := [], staged := none, heldAbort := none, stagedAborted := false }

/-- The start of a gallery reset (R139, steps 1 to 4): no fetching, in-flight work aborted, entries and
fault records discarded. -/
def State.startReset (s : State) (g : Nat) (reason : BitVec 8) (job : ResetJob) : State :=
  let x := s.gal g
  let s := s.setGal g { x with
    st := .resetting, busy := true, job := some job, grace := none
    queues := mmap {} (fun _ q => q.discard) x.queues
    fqHead := x.fqWritten }
  (s.purgeFront g frontOpen).abortGal g reason

/-- GAL_COMMAND RESET (R139). RESULT waits for its end (R830). -/
def State.galReset (s : State) (p : Port) (g : Nat) (scrub scrubKey : Bool) : State :=
  let st := (s.gal g).st
  s.judgeGal g (decide ((s.gal g).home = p))
    ((decide (st = .dormant) || decide (st = .opened) || decide (st = .quiescing) || decide (st = .faulted)) && !s.faults.sealed)
    fun s => s.startReset g 0x02 { release := false, scrub := scrub, scrubKey := scrubKey }

/-- GAL_COMMAND RELEASE (R141). -/
def State.release (s : State) (p : Port) (g : Nat) (scrub scrubKey : Bool) : State :=
  let st := (s.gal g).st
  s.judgeGal g (s.holds p 0) (decide (st = .dormant) || decide (st = .faulted))
    fun s => s.startReset g 0x02 { release := true, scrub := scrub, scrubKey := scrubKey }

/-- GAL_QCFGq as the register reads. -/
def Queue.cfgWord (q : Queue) : Nat := b2n q.enable * 65536 + b2n q.irqEn * 32768 + q.vector.toNat

/-- The value a GAL_ configuration register reads (Table 3-5). -/
def Gallery.readReg (x : Gallery) : GalReg → Nat
  | .homePort => portBit x.home
  | .hearths => x.hearths.toNat
  | .hobWindow => x.hobSize.toNat * 256 + x.hobBase.toNat
  | .pasid => b2n x.pasidValid * 2 ^ 31 + x.pasid.toNat
  | .cobatch => b2n x.cobatchJoin * 2 ^ 31 + x.cobatchGroup.toNat
  | .cobatchHash k => (mget 0 x.hash k.val).toNat
  | .sqBase q => (x.queue q.val).sqBase.toNat
  | .cqBase q => (x.queue q.val).cqBase.toNat
  | .qcfg q => (x.queue q.val).cfgWord
  | .faultqBase => x.fqBase.toNat
  | .faultqCfg => x.fqLog2 * 65536 + b2n x.fqIrqEn * 32768 + x.fqVector.toNat

/-- A GAL_ configuration register takes a value in its RW fields; a LOG2N outside 6 to 10 leaves LOG2N unchanged. -/
def Gallery.writeReg (x : Gallery) (r : GalReg) (v : Nat) : Gallery :=
  match r with
  | .homePort => { x with home := if bitAt v 0 then .b else .a }
  | .hearths => { x with hearths := BitVec.ofNat 48 v }
  | .hobWindow => { x with hobSize := BitVec.ofNat 7 (v / 256), hobBase := BitVec.ofNat 6 v }
  | .pasid => { x with pasidValid := bitAt v 31, pasid := BitVec.ofNat 20 v }
  | .cobatch => { x with cobatchJoin := bitAt v 31, cobatchGroup := BitVec.ofNat 10 v }
  | .cobatchHash k => { x with hash := mset 0 x.hash k.val (BitVec.ofNat 64 v) }
  | .sqBase q => x.setQueue q.val { x.queue q.val with sqBase := BitVec.ofNat 64 (bits v 12 40 * 4096) }
  | .cqBase q => x.setQueue q.val { x.queue q.val with cqBase := BitVec.ofNat 64 (bits v 11 41 * 2048) }
  | .qcfg q => x.setQueue q.val { x.queue q.val with enable := bitAt v 16, irqEn := bitAt v 15, vector := BitVec.ofNat 11 v }
  | .faultqBase => { x with fqBase := BitVec.ofNat 64 (bits v 15 37 * 32768) }
  | .faultqCfg =>
    let n := bits v 16 4
    { x with fqLog2 := if 6 ≤ n ∧ n ≤ 10 then n else x.fqLog2, fqIrqEn := bitAt v 15, fqVector := BitVec.ofNat 11 v }

/-- A write to a register of R96: VACANT or DORMANT and Keeper slot 0, or LOCKED. -/
def State.galConfig (s : State) (p : Port) (g : Nat) (r : GalReg) (v : Nat) : State :=
  let x := s.gal g
  if (x.st = .vacant ∨ x.st = .dormant) ∧ s.holds p 0 then s.setGal g { x.writeReg r v with result := .ok }
  else s.galResult g .locked

/-- A GAL_KINDLE_DEADLINE write (R97, R102). -/
def State.kindleDeadline (s : State) (p : Port) (g v : Nat) : State :=
  let x := s.gal g
  if x.home ≠ p then s.galResult g .wrongPort
  else if x.st = .vacant ∨ x.st = .resetting then s.galResult g .badState
  else if v < 1000 ∨ 10000000 < v then s.galResult g .badConfig
  else s.setGal g { x with kindleNs := v, result := .ok }

/-! ## The rows -/

/-- CREATE (R92, R93 to R95). -/
def execCreate (p : Port) (g : GalleryId) (s : State) : Host.Outcome State Fault Refusal :=
  .next (s.whenReady fun s => s.create p g.val)

/-- OPEN (R98). -/
def execOpen (p : Port) (g : GalleryId) (s : State) : Host.Outcome State Fault Refusal :=
  .next (s.whenReady fun s => s.openGal p g.val)

/-- QUIESCE (R100). -/
def execQuiesce (p : Port) (g : GalleryId) (s : State) : Host.Outcome State Fault Refusal :=
  .next (s.whenReady fun s => s.quiesce p g.val)

/-- GAL_RESET (R139). -/
def execGalReset (p : Port) (g : GalleryId) (scrub scrubKey : Bool) (s : State) : Host.Outcome State Fault Refusal :=
  .next (s.whenReady fun s => s.galReset p g.val scrub scrubKey)

/-- RELEASE (R141). -/
def execRelease (p : Port) (g : GalleryId) (scrub scrubKey : Bool) (s : State) : Host.Outcome State Fault Refusal :=
  .next (s.whenReady fun s => s.release p g.val scrub scrubKey)

/-- GAL_CONFIG_WRITE (R96). -/
def execGalConfigWrite (p : Port) (g : GalleryId) (r : GalReg) (v : W64) (s : State) : Host.Outcome State Fault Refusal :=
  .next (s.whenReady fun s => s.galConfig p g.val r v.toNat)

/-- GAL_KINDLE_DEADLINE (R97). -/
def execGalKindleDeadline (p : Port) (g : GalleryId) (v : W32) (s : State) : Host.Outcome State Fault Refusal :=
  .next (s.whenReady fun s => s.kindleDeadline p g.val v.toNat)

end Sys2Proof.Machine
end

