-- ==== Sys2Proof/Machine/Time.lean ====
section
/-! DEFINITION. The timebase and the AVSBus master: TIME, PPS, holdover, voltage requests and Pace windows (chapter 2). -/

namespace Sys2Proof.Machine

/-! ## TIME -/

/-- A read of TIME_NOW latches the fraction, and a read of its lower half latches the upper half (R77, R78). -/
def State.readTimeNow (s : State) (p : Port) (part : TimeRead) : State :=
  let t := s.timeNs
  let fr := s.tb.time.setWidth 16
  match part with
  | .full => { s with tb := { s.tb with frac := fr } }.send (.readDone p t)
  | .lower =>
    { s with tb := { s.tb with frac := fr, upperLatch := (t >>> 32).setWidth 32 } }.send (.readDone p (t &&& 0xFFFFFFFF))
  | .upper => s.send (.readDone p (s.tb.upperLatch.setWidth 64))

/-- A TIME_SET write (R82). -/
def State.timeSet (s : State) (p : Port) (v : W64) : State :=
  if s.holds p 4 then s.stepTime v else { s with tb := { s.tb with notOwner := true } }

/-- The whole second nearest to TIME, in units of 2^-16 ns. -/
def nearestSecond (t : Nat) : Nat := (t + sec 1 / 2) / sec 1 * sec 1

/-- A PPS edge (R83): the error is slewed out, or stepped out when PPS_STEP is set and it exceeds 1 µs. -/
def State.ppsEdge (s : State) : State :=
  let s := { s with tb := { s.tb with lastPps := some s.tb.elapsed } }
  if !s.tb.ppsEn then s
  else
    let t := s.tb.time.toNat
    let near := nearestSecond t
    let err : Int := (near : Int) - t
    if s.tb.ppsStep ∧ (us 1 : Int) < err.natAbs then s.stepTime (BitVec.ofNat 64 (near / 65536))
    else { s with tb := { s.tb with slew := err } }

/-- No REF_TIME edge for 1 µs (R84). -/
def State.holdoverEntry (s : State) : State := { s with tb := { s.tb with holdover := true, locked := false } }

/-- REF_TIME edges return: relock, and slew out the accumulated error (R84). -/
def State.relock (s : State) (err : Int) : State :=
  { s with tb := { s.tb with holdover := false, locked := true, slew := err } }

/-- TIME_STATUS (Table 2-8). -/
def State.timeStatus (s : State) : Nat :=
  let seen := match s.tb.lastPps with
    | some t => decide (s.tb.elapsed < t + ms 1100)
    | none => false
  b2n s.tb.notOwner * 64 + b2n s.tb.stepped * 32 + b2n s.trusted * 16 + b2n s.tb.skewHigh * 8 + b2n s.tb.holdover * 4
    + b2n seen * 2 + b2n s.tb.locked

/-! ## Voltage requests -/

/-- A request starts: BUSY is set and the value goes out in a Voltage write (R59). -/
def State.avsStart (s : State) (mv : Nat) : State :=
  { s with pace := { s.pace with busy := true, sending := mv, repeated := false, newer := none } }.send (.avsVoltage mv)

/-- An accepted value: sent at once, or as the latest once the frame in progress ends (R60). -/
def State.avsRequest (s : State) (mv : Nat) : State :=
  let s := { s with pace := { s.pace with mv := mv } }
  if s.pace.busy then { s with pace := { s.pace with newer := some mv } } else s.avsStart mv

/-- A PACE_VREQ write (R57, R58, R66, R836). -/
def State.paceVreq (s : State) (p : Port) (v : Nat) : State :=
  if !s.holds p 4 then { s with pace := { s.pace with notOwner := true } }
  else if v < 550 ∨ 950 < v then { s with pace := { s.pace with range := true } }
  else if s.pace.guardOn ∧ s.pace.mv < v then { s with pace := { s.pace with rejectedHot := true } }
  else s.avsRequest v

/-- A Status read of a request in progress (R59, R60). -/
def State.avsPoll (s : State) (vdone : Bool) (mv : Nat) : State :=
  if !s.pace.busy then s
  else
    let s := { s with pace := { s.pace with repeated := false, avsFault := false } }.send .avsStatus
    let s := if vdone then { s with pace := { s.pace with done := true, mvNow := mv } } else s
    match s.pace.newer with
    | some v => s.avsStart v
    | none => if vdone then { s with pace := { s.pace with busy := false } } else s

/-- An AVSBus frame that fails: repeated once, then AVS_FAULT (R64). -/
def State.avsFail (s : State) (status : Bool) : State :=
  if !s.pace.busy then s
  else if !s.pace.repeated then
    { s with pace := { s.pace with repeated := true } }.send (if status then .avsStatus else .avsVoltage s.pace.sending)
  else
    let mv := s.pace.sending
    let s := { s with pace := { s.pace with avsFault := true } }.countLasting
    let s := s.logFault { event := 0x28, cls := 2, unitKind := 0, b := mv }
    match s.pace.newer with
    | some v => s.avsStart v
    | none => { s with pace := { s.pace with busy := false, repeated := false } }

/-- PACE_VSTATUS (Table 2-9). -/
def State.vstatus (s : State) : Nat :=
  s.pace.mvNow % 1024 * 65536 + b2n s.pace.guardOn * 64 + b2n s.pace.rejectedHot * 32 + b2n s.pace.notOwner * 16
    + b2n s.pace.range * 8 + b2n s.pace.avsFault * 4 + b2n s.pace.done * 2 + b2n s.pace.busy

/-! ## Pace windows and parking requests -/

def State.paceHearth (s : State) (h : Nat) : PaceHearth := mget {} s.pace.hearth h
def State.setPaceHearth (s : State) (h : Nat) (x : PaceHearth) : State :=
  { s with pace := { s.pace with hearth := mset {} s.pace.hearth h x } }

/-- Bit `h` of a Hearth mask. -/
def hbit (m : BitVec 48) (h : Nat) : Bool := m.getLsbD h

/-- The mask with bit `h` set or cleared. -/
def setHbit (m : BitVec 48) (h : Nat) (v : Bool) : BitVec 48 :=
  if v then m ||| BitVec.ofNat 48 (2 ^ h) else m &&& ~~~(BitVec.ofNat 48 (2 ^ h))

/-- One Hearth's count at the end of a window (R52, R76). -/
def State.windowEnd (s : State) (h : Nat) (count : BitVec 16) : State :=
  if hbit s.pace.parked h then s
  else
    let x := s.paceHearth h
    s.setPaceHearth h { valid := x.valid || !x.partialWindow, pace := count, windowEnd := s.tb.elapsed, partialWindow := false }

/-- The end of a 16 µs window for every Hearth (R52). -/
def State.windowEndAll (s : State) (counts : List (BitVec 16)) : State :=
  (counts.zipIdx).foldl (fun t c => t.windowEnd c.2 c.1) s

/-- A PACE_PARK write (R57, R70, R74): bits cleared on parked Hearths start a wake. -/
def State.pacePark (s : State) (p : Port) (mask : BitVec 48) : State :=
  if s.holds p 4 then
    { s with pace := { s.pace with park := mask, waking := s.pace.waking ||| (s.pace.parked &&& ~~~mask) } }
  else { s with pace := { s.pace with notOwner := true } }

/-- A wake ends: the Hearth is dispatchable and takes Pace samples from the next whole window (R74, R76). -/
def State.hearthWake (s : State) (h : Nat) : State :=
  if hbit s.pace.waking h then
    let s := { s with pace := { s.pace with parked := setHbit s.pace.parked h false, waking := setHbit s.pace.waking h false } }
    s.setPaceHearth h { s.paceHearth h with valid := false, partialWindow := true }
  else s

/-- PACE_HEARTHn (Table 2-9). -/
def State.paceWord (s : State) (h : Nat) : Nat :=
  let x := s.paceHearth h
  let age := if x.valid then min 4095 ((s.tb.elapsed - x.windowEnd) / us 1) else 0
  b2n x.valid * 2 ^ 31 + b2n (hbit s.pace.parked h) * 2 ^ 30 + age * 65536 + x.pace.toNat

/-- PACE_SUMMARY (Table 2-9). -/
def State.paceSummary (s : State) : Nat :=
  let vs := ((List.range 48).filter fun h => (s.paceHearth h).valid).map fun h => (s.paceHearth h).pace.toNat
  match vs with
  | [] => 0
  | v :: vs => vs.foldl max v * 65536 + vs.foldl min v

/-! ## The rows -/

/-- TIME_NOW_READ (R77, R78). -/
def execTimeNowRead (p : Port) (part : TimeRead) (s : State) : Host.Outcome State Fault Refusal :=
  .next (if s.pace.tripped then s.send (.completerAbort p) else s.readTimeNow p part)

/-- TIME_SET (R82). -/
def execTimeSet (p : Port) (v : W64) (s : State) : Host.Outcome State Fault Refusal :=
  .next (s.whenReady fun s => s.timeSet p v)

/-- PPS_EDGE (R83). -/
def execPpsEdge (s : State) : Host.Outcome State Fault Refusal := .next s.ppsEdge

/-- HOLDOVER_ENTRY (R84). -/
def execHoldoverEntry (s : State) : Host.Outcome State Fault Refusal := .next s.holdoverEntry

/-- REF_TIME_RELOCK (R84). -/
def execRefTimeRelock (err : Int) (s : State) : Host.Outcome State Fault Refusal := .next (s.relock err)

/-- PACE_WINDOW_END (R52). -/
def execPaceWindowEnd (counts : List (BitVec 16)) (s : State) : Host.Outcome State Fault Refusal :=
  .next (s.windowEndAll counts)

/-- PACE_VREQ (R59). -/
def execPaceVreq (p : Port) (v : W32) (s : State) : Host.Outcome State Fault Refusal :=
  .next (s.whenReady fun s => s.paceVreq p (v.toNat % 1024))

/-- AVS_STATUS_POLL (R59). -/
def execAvsStatusPoll (vdone : Bool) (mv : BitVec 10) (s : State) : Host.Outcome State Fault Refusal :=
  .next (s.avsPoll vdone mv.toNat)

/-- AVS_FRAME_FAIL (R64). -/
def execAvsFrameFail (status : Bool) (s : State) : Host.Outcome State Fault Refusal := .next (s.avsFail status)

/-- PACE_PARK (R70). -/
def execPacePark (p : Port) (mask : W64) (s : State) : Host.Outcome State Fault Refusal :=
  .next (s.whenReady fun s => s.pacePark p (mask.setWidth 48))

/-- HEARTH_WAKE (R74). -/
def execHearthWake (h : HearthId) (s : State) : Host.Outcome State Fault Refusal := .next (s.hearthWake h.val)

end Sys2Proof.Machine
end

