-- ==== Sys2Proof/Machine/PortFam.lean ====
section
/-! DEFINITION. Port resets, link events, adoption, pending vectors and configuration requests (chapter 4). -/

namespace Sys2Proof.Machine

/-! ## Link loss and port reset (R171, R173, R194, R814, R832) -/

/-- Bytes a target takes part in: its space as a number, the Hearth for a Hob, and its first offset. -/
def Target.place (h : Nat) : Target → Nat × Nat × Nat
  | .hob o => (0, h, o)
  | .host a => (1, 0, a)
  | .shared o => (2, 0, o)
  | .exchange o => (3, 0, o)
  | .folio b o => (4, b, o)

/-- Two accessed ranges share a byte. -/
def overlaps (h : Nat) (t : Target) (n : Nat) (h' : Nat) (t' : Target) (n' : Nat) : Bool :=
  let a := t.place h
  let b := t'.place h'
  decide (a.1 = b.1) && decide (a.2.1 = b.2.1) && decide (a.2.2 < b.2.2 + n') && decide (b.2.2 < a.2.2 + n)

def Piece.by (p : Piece) (h k : Nat) : Bool := decide (p.hearth = h) && decide (p.stoker = k)
/-- Earlier writes of the same instruction to the same bytes take effect first (R268). -/
def State.writeOrderHolds (s : State) (p : Piece) : Bool :=
  p.write && s.pieces.any fun q => q.write && q.by p.hearth p.stoker && decide (q.seq = p.seq) && decide (q.wo = p.wo)
    && decide (q.id < p.id) && overlaps q.hearth q.target q.len p.hearth p.target p.len

/-- A write to host memory that does not cover each of its bytes reads them first (R267). -/
def Piece.readsFirst (p : Piece) : Bool := p.write && p.sector.isNone && p.wdata.any fun c => decide (c.2 ≠ 0xFF)

/-- A host read whose completion has not arrived is withdrawn and joins the held requests (R173). -/
def Piece.withdraw (x : Piece) (home : Nat → Port) (p : Port) : Piece :=
  match x.target with
  | .host _ => if home x.gal = p ∧ (!x.write || x.readsFirst) then { x with status := .heldPort } else x
  | _ => x

/-- The host reads outstanding on a port are withdrawn. -/
def State.withdrawReads (s : State) (p : Port) : State :=
  { s with pieces := s.pieces.map fun x => x.withdraw (fun g => (s.gal g).home) p }

/-- A piece's status changes. -/
def State.setPieceStatus (s : State) (id : Nat) (st : PieceStatus) : State :=
  { s with pieces := s.pieces.map fun q => if q.id = id then { q with status := st } else q }

/-- A host request is issued on the gallery's home port, with its PASID (R150, R173, R175, R227). The read that comes
before a write waits for the same instruction's earlier writes to its bytes (R267, R268). -/
def State.issueHost (s : State) (x : Piece) : State :=
  let y := s.gal x.gal
  match x.target with
  | .host addr =>
    if x.readsFirst && s.writeOrderHolds x then s
    else if x.write && !x.readsFirst then
      (s.setPieceStatus x.id .sent).send (.hostWrite y.home y.pasid addr (match x.sector with
        | some bs => bs
        | none => x.wdata.map fun c => c.1))
    else (s.setPieceStatus x.id .sent).send (.hostRead y.home y.pasid addr x.len x.id)
  | _ => s

/-- The held requests and messages of the galleries homed on a usable port go out in their order (R173, R175). -/
def State.releaseHeld (s : State) (p : Port) : State :=
  if !(s.port p).usable then s
  else
    let mine := s.pieces.filter fun x => decide (x.status = .heldPort) && decide ((s.gal x.gal).home = p)
    let s := mine.foldl (fun t x => t.issueHost x) s
    let msgs := s.held.filter fun m => decide ((s.gal m.1).home = p)
    let s := { s with held := s.held.filter fun m => decide ((s.gal m.1).home ≠ p) }
    msgs.foldl (fun t m => t.raise p m.2) s

/-- The Data Link Layer of a port goes down (R171, R173, R194). -/
def State.dllDown (s : State) (p : Port) : State :=
  if !(s.port p).dllUp then s
  else
    let s := s.setPort p { s.port p with dllUp := false }
    let s := s.breakSlotsOf p 1
    let s := s.withdrawPort p
    (s.withdrawReads p).raisePeer (otherPort p)

/-- The Data Link Layer of a port becomes active: held traffic is issued again, and pending vectors are sent (R173, R831). -/
def State.sendPending (s : State) (p : Port) : State :=
  let x := s.port p
  if x.inReset || !x.msixEnable || !x.dllUp || x.funcMask then s
  else
    x.pba.foldl (fun t e =>
      let m := mget {} x.msix e.1
      if m.masked then t
      else (t.setPort p { t.port p with pba := mset false (t.port p).pba e.1 false }).send (.msix p m.addr m.data)) s

def State.dllUpEvent (s : State) (p : Port) (width : BitVec 8) (speed : BitVec 4) : State :=
  let s := s.setPort p { s.port p with dllUp := true, width := width, speed := speed }
  ((s.releaseHeld p).sendPending p).raisePeer (otherPort p)

/-- The port-reset grace runs from now for each gallery homed on the port (R814). -/
def State.startGrace (s : State) (p : Port) : State :=
  { s with gals := mmap {} (fun _ x =>
      if x.home = p ∧ x.st ≠ .vacant ∧ x.grace = none then { x with grace := some (s.tb.elapsed + ms s.graceMs) } else x) s.gals }

/-- What a port reset clears: configuration space, PORT_ registers, MSI-X table and PBA, held halves (Table 20-14). -/
def PortState.cleared (x : PortState) : PortState :=
  { dllUp := x.dllUp, resetBy := x.resetBy, width := x.width, speed := x.speed, perstHigh := x.perstHigh }

/-- A trigger of Table 4-16 starts, or joins, a port reset. -/
def State.portReset (s : State) (p : Port) (t : PortTrigger) : State :=
  let x := s.port p
  if x.resetBy.contains t then s
  else
    let fresh := x.resetBy.isEmpty
    let s := s.setPort p { x.cleared with
      resetBy := x.resetBy ++ [t]
      perstHigh := x.perstHigh && decide (t ≠ .perst) }
    let s := s.breakSlotsOf p 2
    let s := s.withdrawPort p
    let s := s.withdrawReads p
    if fresh then (s.startGrace p).raisePeer (otherPort p) else s

/-- The end of a port reset for its trigger (Table 4-16). -/
def State.portResetEnd (s : State) (p : Port) (t : PortTrigger) : State :=
  let x := s.port p
  let s := s.setPort p { x with
    resetBy := x.resetBy.filter fun u => decide (u ≠ t)
    perstHigh := x.perstHigh || decide (t = .perst) }
  if x.resetBy.isEmpty ∨ (s.port p).inReset then s
  else (s.releaseHeld p).raisePeer (otherPort p)

/-! ## Adoption (R174, R175) -/

def State.adoptResult (s : State) (p : Port) (g : Nat) (r : AdoptResult) : State :=
  s.setPort p { s.port p with adopt := some (g, r) }

/-- A PORT_ADOPT write, decided in the order of Table 4-13. -/
def State.portAdopt (s : State) (p : Port) (g : Nat) : State :=
  let x := s.gal g
  if !s.holds p 0 then s.adoptResult p g .notOwner
  else if x.st = .vacant then s.adoptResult p g .vacant
  else if x.home = p then s.adoptResult p g .samePort
  else if (s.port x.home).usable then s.adoptResult p g .homeUp
  else ((s.setGal g { x with home := p, grace := none }).adoptResult p g .done).releaseHeld p

/-! ## Reads of host memory that fail (R151) -/

/-- PORT_ERR.HOST_FAIL of a port counts one. -/
def State.countHostFail (s : State) (p : Port) : State :=
  let x := s.port p
  s.setPort p { x with hostFail := satAdd 65535 x.hostFail 1 }

/-! ## Configuration requests (R147, R812) -/

/-- The value of a configuration dword: identity, class code, what the host wrote, or a value the base specification gives. -/
def State.cfgRead (s : State) (p : Port) (dword : Nat) : W32 :=
  if dword = 0 then (BitVec.ofNat 32 (0x0048 * 65536)) ||| (Config.vendorId.setWidth 32)
  else if dword = 2 then (BitVec.ofNat 32 (0x120000 * 256)) ||| ((Config.cfgSpace 2).setWidth 8).setWidth 32
  else mget (Config.cfgSpace dword) (s.port p).cfg dword

/-- A configuration request once configuration is ready. -/
def State.cfgApply (s : State) (p : Port) (r : CfgReq) : State :=
  let x := s.port p
  let done (t : State) : State := t.send (.configDone p 0)
  match r with
  | .read d => s.send (.configDone p (s.cfgRead p d))
  | .write d v =>
    if d = 0 ∨ d = 2 then done s else done (s.setPort p { x with cfg := mset (Config.cfgSpace d) x.cfg d v })
  | .msixControl en mask => done ((s.setPort p { x with msixEnable := en, funcMask := mask }).sendPending p)
  | .msixEntry v a d m =>
    if v < 2048 then done ((s.setPort p { x with msix := mset {} x.msix v { addr := a, data := d, masked := m } }).sendPending p)
    else done s
  | .cplTimeout v => done (s.setPort p { x with cplTimeout := v })
  | .cxlMem en => done (s.setPort p { x with cxlMem := en })

/-! ## The rows -/

/-- CONFIG_REQUEST (R147, R812). -/
def execConfigRequest (p : Port) (r : CfgReq) (s : State) : Host.Outcome State Fault Refusal :=
  .next (if s.dev.configReady && (s.port p).perstHigh then s.cfgApply p r else s.send (.retryStatus p))

/-- PERST (R832). -/
def execPerst (p : Port) (s : State) : Host.Outcome State Fault Refusal := .next (s.portReset p .perst)

/-- HOT_RESET (R832). -/
def execHotReset (p : Port) (s : State) : Host.Outcome State Fault Refusal := .next (s.portReset p .hotReset)

/-- LINK_DISABLE (R832). -/
def execLinkDisable (p : Port) (s : State) : Host.Outcome State Fault Refusal := .next (s.portReset p .linkDisable)

/-- FUNCTION_LEVEL_RESET (R832). -/
def execFunctionLevelReset (p : Port) (s : State) : Host.Outcome State Fault Refusal := .next (s.portReset p .flr)

/-- D3HOT (R149). -/
def execD3hot (p : Port) (s : State) : Host.Outcome State Fault Refusal := .next (s.portReset p .d3hot)

/-- PORT_RESET_END (R832, Table 4-16). -/
def execPortResetEnd (p : Port) (t : PortTrigger) (s : State) : Host.Outcome State Fault Refusal :=
  .next (s.portResetEnd p t)

/-- DLL_DOWN (R173). -/
def execDllDown (p : Port) (s : State) : Host.Outcome State Fault Refusal := .next (s.dllDown p)

/-- DLL_UP (R173). -/
def execDllUp (p : Port) (width : BitVec 8) (speed : BitVec 4) (s : State) : Host.Outcome State Fault Refusal :=
  .next (s.dllUpEvent p width speed)

/-- PORT_ADOPT (R174, R175). -/
def execPortAdopt (p : Port) (g : GalleryId) (s : State) : Host.Outcome State Fault Refusal :=
  .next (s.reached fun s => s.portAdopt p g.val)

/-- MSIX_PENDING_SEND (R180, R831): the pending vectors that may go out on a port are each sent once. -/
def execMsixPendingSend (p : Port) (s : State) : Host.Outcome State Fault Refusal := .next (s.sendPending p)

end Sys2Proof.Machine
end

