-- ==== Sys2Proof/Machine/Access.lean ====
section
/-! DEFINITION. Accesses in flight: what a fence waits for, when an access may be sent, its pieces, and what a piece
reads or writes at its place (chapters 5 and 6). -/

namespace Sys2Proof.Machine

/-- One access changed in place. -/
def State.updAcc (s : State) (id : Nat) (f : Acc → Acc) : State :=
  { s with accs := s.accs.map fun a => if a.id = id then f a else a }
def State.acc? (s : State) (id : Nat) : Option Acc := s.accs.find? fun a => decide (a.id = id)
def State.dropAcc (s : State) (id : Nat) : State := { s with accs := s.accs.filter fun a => decide (a.id ≠ id) }
def State.piece? (s : State) (id : Nat) : Option Piece := s.pieces.find? fun p => decide (p.id = id)
def State.dropPiece (s : State) (id : Nat) : State := { s with pieces := s.pieces.filter fun p => decide (p.id ≠ id) }

/-- An access issued by a Stoker's instruction at `pc`, number `seq`. -/
def State.newAcc (s : State) (h k pc seq : Nat) (a : Agent) (kind : AccKind) (todo : List Run) : State :=
  let x := s.stoker h k
  { s with
    nextAcc := s.nextAcc + 1
    accs := s.accs ++ [{ id := s.nextAcc, gal := x.gal, wo := some x.wo, hearth := h, stoker := k, pc := pc, seq := seq
                         agent := a, kind := kind, todo := todo
                         base := match todo with | r :: _ => r.va | [] => 0 }] }

/-! ## What is outstanding (R249) -/

/-- A MEM-class load, an LDARG or the read of a FLAG operation (R245). -/
def AccKind.memRead : AccKind → Bool
  | .load _ _ _ | .ldarg _ | .flagAdd _ _ | .flagWait _ _ _ => true
  | _ => false

/-- A write that fences wait for: MEM stores, FLAG writes, Flue writes, and the Ash accesses of R591. -/
def AccKind.fenceWrite : AccKind → Bool
  | .store | .flagSet | .flagAdd _ _ | .fluWrite | .ember _ _ _ | .emberInit => true
  | _ => false

/-- An access that the stream unit makes, which a fence of its Hearth stops (R726). -/
def AccKind.streamUnit : AccKind → Bool
  | .strDesc _ => true
  | _ => false

/-- A MEM-class access or a FLAG operation (R244). -/
def AccKind.mem : AccKind → Bool
  | .load _ _ _ | .store | .flagSet | .flagAdd _ _ | .flagWait _ _ _ => true
  | _ => false

def Acc.by (a : Acc) (h k : Nat) : Bool := decide (a.hearth = h) && decide (a.stoker = k)

/-- A piece of a stream or Grate operand read of a Stoker. -/
def Piece.streamRead (p : Piece) : Bool :=
  match p.agent with | .streamRead | .grateRead => true | _ => false

/-- Some earlier MEM-class read of the Stoker has not returned. -/
def State.memReadsOut (s : State) (h k seq : Nat) : Bool :=
  s.accs.any fun a => a.by h k && decide (a.seq < seq) && a.kind.memRead

/-- Some earlier write of the Stoker has not been applied or issued: stores, FLAG writes, Flue and Ember writes, and
every operation of an earlier STR.PUSH. -/
def State.writesOut (s : State) (h k seq : Nat) : Bool :=
  (s.accs.any fun a => a.by h k && decide (a.seq < seq) && a.kind.fenceWrite)
  || ((s.hearth h).flus.any fun f => decide (f.stoker = k) && decide (f.seq < seq))
  || ((s.stoker h k).handles.any fun e => match e.2 with
      | some x => decide (x.mode = .push) && x.ops.any fun o => decide (o.seq < seq)
      | none => false)

/-- The stream read pieces of a Stoker that have been sent and not finished. -/
def State.streamReads (s : State) (h k : Nat) : List Nat :=
  (s.pieces.filter fun p => p.by h k && p.streamRead).map fun p => p.id

/-- The condition of FENCE.REL holds (Table 6-2). -/
def State.relDone (s : State) (h k : Nat) (r : Rel) : Bool :=
  !s.memReadsOut h k r.seq && !s.writesOut h k r.seq && r.reads.all fun i => (s.piece? i).isNone

/-- The condition of FENCE.ACQ, or of FENCE.FULL, holds for a Stoker parked at it (Table 6-2). -/
def State.fenceDone (s : State) (h k seq : Nat) (writes : Bool) : Bool :=
  !s.memReadsOut h k seq && (s.streamReads h k).isEmpty && (!writes || !s.writesOut h k seq)

/-- A release of the Stoker that has issued holds its later writes (R248, R255, R256). -/
def State.relHolds (s : State) (h k seq : Nat) : Bool :=
  (s.stoker h k).rels.any fun r => decide (r.seq ≤ seq) && !s.relDone h k r

/-- A FLAG.ADD that has not returned holds the Stoker's later accesses (R256). -/
def State.addHolds (s : State) (h k seq : Nat) : Bool := (s.stoker h k).adds.any fun n => decide (n < seq)

/-- The Stoker waits at a fence or a Damper, or for a FLAG.ADD: its unsent PULL and GRATE pieces are held (R547, R548). -/
def Stoker.holdsPulls (x : Stoker) : Bool :=
  !x.adds.isEmpty || match x.wait with | .fence _ _ | .damperFence _ | .damper => true | _ => false

/-- Releases whose condition now holds are forgotten. -/
def State.settleRels (s : State) (h k : Nat) : State :=
  if (s.stoker h k).rels.isEmpty then s
  else s.updStoker h k fun x => { x with rels := x.rels.filter fun r => !s.relDone h k r }

/-! ## Where a piece lands -/

/-- Where the first byte of a run would land now. -/
def State.targetOf (s : State) (g : Nat) (a : Agent) (va : Nat) : Option Target :=
  match s.check g a va with
  | .ok t _ => some t
  | _ => none

/-- An earlier MEM-class access of the Stoker to the same location has not finished (R244). -/
def State.sameLocOut (s : State) (a : Acc) (t : Target) (n : Nat) : Bool :=
  (s.accs.any fun b => b.by a.hearth a.stoker && decide (b.seq < a.seq) && b.kind.mem && b.todo.any fun r =>
    match s.targetOf b.gal b.agent r.va with
    | some u => overlaps b.hearth u r.len a.hearth t n
    | none => false)
  || (s.pieces.any fun p => p.by a.hearth a.stoker && decide (p.seq < a.seq)
      && (match p.agent with | .memLoad | .memStore | .flagSet | .flagAdd | .flagWait => true | _ => false)
      && overlaps p.hearth p.target p.len a.hearth t n)

/-- An access of the Stoker may be sent now. -/
def State.accMaySend (s : State) (a : Acc) : Bool :=
  if a.kind.mem || (match a.kind with | .ldarg _ => true | _ => false) then
    !s.addHolds a.hearth a.stoker a.seq && !s.memReadsOut a.hearth a.stoker a.seq
      && (!a.kind.fenceWrite || !s.relHolds a.hearth a.stoker a.seq)
  else
    match a.kind with
    | .fluWrite | .ember _ _ _ | .emberInit => !s.addHolds a.hearth a.stoker a.seq && !s.relHolds a.hearth a.stoker a.seq
    | .strDesc _ | .fluDesc _ => !s.addHolds a.hearth a.stoker a.seq
    | _ => true

/-! ## Faults of pieces (R230, R232, R317) -/

/-- CAB_FAULTS counts a call that ends its work order FAULTED (R634). -/
def State.countCabFault (s : State) (h id : Nat) : State :=
  match (s.hearth h).calls.find? fun c => decide (c.id = id) with
  | some c =>
    if c.engine = 0 ∨ !s.undecided c.wo then s
    else
      let x := mget {} s.cabinets c.cabinet
      { s with cabinets := mset {} s.cabinets c.cabinet { x with faults := if x.faults = 0xFFFFFFFF then x.faults else x.faults + 1 } }
  | none => s

/-- An access that met a fault sends nothing more; its work order ends FAULTED at the issuing instruction. -/
def State.accFault (s : State) (id : Nat) (code : BitVec 8) : State :=
  match s.acc? id with
  | none => s
  | some a =>
    let s := s.updAcc id fun a => { a with todo := [], err := if a.err.isSome then a.err else some code }
    let s := match a.kind with
      | .callDesc c | .callRead c | .callWrite c => s.countCabFault a.hearth c
      | .fluDesc op => s.updHearth a.hearth fun z => { z with flus := z.flus.filter fun f => decide (f.id ≠ op) }
      | _ => s
    match a.wo with
    | some w => s.faultWo w code a.hearth (if a.stoker < 16 then a.stoker else 0) a.pc
    | none => s

/-- The fault of a piece goes to its work order, and ends the access it belongs to. -/
def State.pieceFault (s : State) (p : Piece) (code : BitVec 8) : State :=
  match p.owner with
  | .acc id => s.accFault id code
  | _ =>
    match p.wo with
    | some w => s.faultWo w code p.hearth p.stoker p.pc
    | none => s

/-- A failed check is counted and reported (R230, R235). -/
def State.failCheck (s : State) (p : Piece) (code : BitVec 8) : State := (s.countProt p.gal).pieceFault p code

/-! ## Sending -/

/-- A piece joins those in flight. -/
def State.addPiece (s : State) (p : Piece) : State :=
  { s with nextPiece := s.nextPiece + 1, pieces := s.pieces ++ [{ p with id := s.nextPiece }] }

/-- A checked piece leaves its unit: to the Hob or the Shared Store, to the home port (R173), or to its bay, whose
controller sends it from there. -/
def State.launch (s : State) (p : Piece) : State :=
  let id := s.nextPiece
  match p.target with
  | .host _ =>
    let t := s.addPiece { p with status := .heldPort }
    if (s.port (s.gal p.gal).home).usable then t.issueHost { p with id := id } else t
  | .folio _ _ => s.addPiece { p with status := .heldBay }
  | .exchange off =>
    let t := s.addPiece { p with status := .sent }
    (t.askLines (.piece id) (if p.write then .devWrite else .devRead) (linesOf off p.len)).1
  | _ => s.addPiece { p with status := .sent }

/-- What an access's piece is before translation. -/
def Acc.pieceOf (a : Acc) (r : Run) (t : Target) (seg : Option Nat) : Piece :=
  { id := 0, gal := a.gal, wo := a.wo, hearth := a.hearth, stoker := a.stoker, pc := a.pc, seq := a.seq, agent := a.agent
    write := a.agent.writes
    va := r.va, len := r.len, target := t, seg := seg, wdata := r.wdata, status := .sent, owner := .acc a.id }

/-- The alignment of a MEM-class access or a FLAG operation is judged after the checks of Table 5-8 (R254, R266). -/
def Acc.misaligned (a : Acc) (r : Run) : Bool := (a.kind.mem || (match a.kind with | .ldarg _ => true | _ => false)) && decide (r.va % r.len ≠ 0)

/-- A unit sends the next run of an access (PIECE_SEND, R218, R356). -/
def State.sendAcc (s : State) (id : Nat) : State :=
  match s.acc? id with
  | none => s
  | some a =>
    match a.todo with
    | [] => s
    | r :: rest =>
      if s.pace.tripped || !s.accMaySend a then s
      else if a.kind.streamUnit && (s.hearth a.hearth).fenced then s.updAcc id fun a => { a with todo := [] }
      else
        match s.check a.gal a.agent r.va with
        | .fails code => (s.countProt a.gal).accFault id code
        | .absent _ => (s.countAbsent a.gal).accFault id fAbsent
        | .ok t seg =>
          if a.misaligned r then s.accFault id fMisaligned
          else if a.kind.mem && s.sameLocOut a t r.len then s
          else (s.updAcc id fun a => { a with todo := rest }).launch (a.pieceOf r t seg)

/-! ## Data at a place -/

/-- Why a piece cannot finish yet, or that its read met bad data. -/
inductive Fetched
  | data (bs : List Byte)
  /-- Poisoned (R195) or lost (R721). -/
  | bad (code : BitVec 8)

/-- The bytes a read piece finds at its place; `ret` is what an external place returned. -/
def State.fetchPiece (s : State) (p : Piece) (ret : List Byte) : Fetched :=
  match p.target with
  | .hob o => .data (bytesAt (s.hearth p.hearth).hob o p.len)
  | .host _ => .data (ret.take p.len)
  | .folio _ _ => .data (ret.take p.len)
  | .shared o => if s.sharedLost o p.len then .bad fEccLasting else .data (bytesAt s.shared o p.len)
  | .exchange o =>
    if s.exchPoisoned o p.len then .bad fPoisoned
    else if s.sharedLost (s.exchStart + o) p.len then .bad fEccLasting
    else .data (bytesAt s.shared (s.exchStart + o) p.len)

/-- Bytes written on a Hearth's Hob. -/
def State.putHob (s : State) (h off : Nat) (bs : List (Byte × Byte)) : State :=
  s.updHearth h fun x => { x with hob := putMasked x.hob off bs }

/-- A write piece is applied at its place (R241); host and Folio writes leave the device. -/
def State.applyPiece (s : State) (p : Piece) : State :=
  match p.target with
  | .hob o => s.putHob p.hearth o p.wdata
  | .shared o => s.putShared o p.wdata
  | .exchange o => s.putExch o p.wdata
  | _ => s

end Sys2Proof.Machine
end

