-- ==== Sys2Proof/Machine/Mem.lean ====
section
/-! DEFINITION. The MEM class: LD, ST and LDARG (chapter 8, R313, R314). -/

namespace Sys2Proof.Machine

/-- Bytes of SIZE. -/
def memSize (w : Nat) : Nat := 2 ^ bits (zSub w) 0 2

/-- LD (R341): the read is issued once every earlier MEM-class read has returned (R320). -/
def State.ld (s : State) (h k : Nat) : State :=
  s.issue h k 2 1 (fun _ => true) .reg
    (fun w _ => decide (zSub w < 8) && decide (zSub w ≠ 7) && decide (zB w = 0)) (fun _ => false) (fun w => [sDst (zA w)])
    fun w _ t =>
      let y := s.stoker h k
      if s.memReadsOut h k y.seq then .hold
      else .next ((t.updStoker h k fun x => x.await (zDstReg w)).newAcc h k y.pc y.seq .memLoad
        (.load (zDstReg w) (memSize w) (bitAt (zSub w) 2)) [{ va := s.ea h k w, len := memSize w }])

/-- LD. -/
def execLd (h : HearthId) (k : StokerId) (s : State) : Host.Outcome State Fault Refusal := .next (s.ld h.val k.val)

/-- ST: the low bits of s[SRCB] (R341). -/
def State.st (s : State) (h k : Nat) : State :=
  s.issue h k 2 2 (fun _ => true) .none (fun w _ => decide (zSub w < 4)) (fun _ => false)
    (fun w => [sDst (zA w), sDst (zB w)])
    fun w _ t =>
      let y := s.stoker h k
      .next (t.newAcc h k y.pc y.seq .memStore .store
        [{ va := s.ea h k w, len := memSize w, wdata := fullMask (natLe (memSize w) (y.sreg (zB w)).toNat) }])

/-- ST. -/
def execSt (h : HearthId) (k : StokerId) (s : State) : Host.Outcome State Fault Refusal := .next (s.st h.val k.val)

/-- The identity value of an index of Table 7-5. -/
def WorkOrder.identity (w : WorkOrder) (h i : Nat) : Option Nat :=
  let below := w.hearths.toNat % 2 ^ h
  let count (m : Nat) : Nat := ((List.range 48).filter fun b => bitAt m b).length
  match i with
  | 0x100 => some (count below)
  | 0x101 => some (count w.hearths.toNat)
  | 0x102 => some h
  | 0x103 => some w.gal
  | 0x104 => some w.queue
  | 0x105 => some w.tag.toNat
  | 0x106 => some w.argCount
  | _ => none

/-- LDARG (R313, R314). -/
def State.ldarg (s : State) (h k : Nat) : State :=
  s.issue h k 2 3 (fun _ => true) .reg
    (fun w _ => decide (zB w = 0) && (if bitAt (zSub w) 0 then decide (zSub w = 1) && decide (zImm w = 0)
      else decide (zSub w = 0) && decide (zA w = 0) && decide (zImm w < 4096)))
    (fun _ => false) (fun w => if bitAt (zSub w) 0 then [sDst (zA w)] else [])
    fun w _ t =>
      let y := s.stoker h k
      let i := if bitAt (zSub w) 0 then (y.sreg (zA w)).toNat else zImm w
      match s.wo? y.wo with
      | none => .hold
      | some o =>
        if i < o.argCount then
          if s.memReadsOut h k y.seq then .hold
          else .next ((t.updStoker h k fun x => x.await (zDstReg w)).newAcc h k y.pc y.seq .ldarg (.ldarg (zDstReg w))
            [{ va := o.argAddr + 8 * i, len := 8 }])
        else
          match o.identity h i with
          | some v => .next (t.updStoker h k fun x => x.write (zDstReg w) (BitVec.ofNat 64 v))
          | none => .fault fArgRange

/-- LDARG. -/
def execLdarg (h : HearthId) (k : StokerId) (s : State) : Host.Outcome State Fault Refusal := .next (s.ldarg h.val k.val)

/-! ## What the data of a MEM-class access do -/

/-- A register of the access's Stoker takes a value, unless that Stoker has gone. -/
def State.deliver (s : State) (a : Acc) (d : Dst) (v : Nat) : State :=
  s.updStoker a.hearth a.stoker fun x => if some x.wo = a.wo ∧ x.st ≠ .free then x.deliver d (BitVec.ofNat 64 v) else x

/-- LD's value, extended (Table 8-4). -/
def loadValue (size : Nat) (sext : Bool) (v : Nat) : Nat :=
  if sext then (BitVec.ofInt 64 (signed (8 * size) v)).toNat else v

end Sys2Proof.Machine
end

