-- ==== Sys2Proof/Machine/Syn.lean ====
section
/-! DEFINITION. The SYN class: fences, FLAG operations, Dampers, TIME.RD and PACE.RD (chapters 6 and 8). -/

namespace Sys2Proof.Machine

/-- No field but the common ones is used. -/
def synZero (w : Nat) : Bool := decide (zA w = 0) && decide (zB w = 0) && decide (zSub w = 0) && decide (zImm w = 0)

/-- FENCE.ACQ and FENCE.FULL park until their condition holds (R248, R253). -/
def State.fence (s : State) (h k op : Nat) (writes : Bool) : State :=
  s.issue h k 3 op (fun _ => true) .none (fun w _ => synZero w) (fun _ => false) (fun _ => [])
    fun _ _ t =>
      let n := (s.stoker h k).seq
      if s.fenceDone h k n writes then .next t else .park (t.parkAs h k .parkedFence (.fence n writes))

/-- FENCE.ACQ. -/
def execFenceAcq (h : HearthId) (k : StokerId) (s : State) : Host.Outcome State Fault Refusal :=
  .next (s.fence h.val k.val 1 false)

/-- FENCE.FULL. -/
def execFenceFull (h : HearthId) (k : StokerId) (s : State) : Host.Outcome State Fault Refusal :=
  .next (s.fence h.val k.val 3 true)

/-- Some push stream of the Stoker with operations earlier than `seq` is halted on an absent page (R250). -/
def State.waitsOnHalt (s : State) (h k seq : Nat) : Bool :=
  (s.stoker h k).handles.any fun e => match e.2 with
    | some x => decide (x.mode = .push) && (x.ops.any fun o => decide (o.seq < seq))
        && (match x.halt with | some y => y.faultSeq.isSome | none => false)
    | none => false

/-- A release: it holds the later writes of its Stoker without parking it (R248). -/
def State.release1 (s t : State) (h k : Nat) : State :=
  t.updStoker h k fun x => { x with rels := x.rels ++ [{ seq := (s.stoker h k).seq, reads := s.streamReads h k }] }

/-- FENCE.REL; one that waits on a halted stream keeps its Stoker parked (R250). -/
def State.fenceRel (s : State) (h k : Nat) : State :=
  s.issue h k 3 2 (fun _ => true) .none (fun w _ => synZero w) (fun _ => false) (fun _ => [])
    fun _ _ t =>
      let n := (s.stoker h k).seq
      let u := s.release1 t h k
      if s.waitsOnHalt h k n then .park (u.parkAs h k .parkedFence (.rel n)) else .next (u.settleRels h k)

/-- FENCE.REL. -/
def execFenceRel (h : HearthId) (k : StokerId) (s : State) : Host.Outcome State Fault Refusal := .next (s.fenceRel h.val k.val)

/-- FLAG.SET: a release and a 64-bit store (R255). -/
def State.flagSetOp (s : State) (h k : Nat) : State :=
  s.issue h k 3 4 (fun _ => true) .none (fun w _ => decide (zSub w = 0)) (fun _ => false)
    (fun w => [sDst (zA w), sDst (zB w)])
    fun w _ t =>
      let y := s.stoker h k
      .next ((s.release1 t h k).newAcc h k y.pc y.seq .flagSet .flagSet
        [{ va := s.ea h k w, len := 8, wdata := fullMask (natLe 8 (y.sreg (zB w)).toNat) }])

/-- FLAG.SET. -/
def execFlagSet (h : HearthId) (k : StokerId) (s : State) : Host.Outcome State Fault Refusal := .next (s.flagSetOp h.val k.val)

/-- FLAG.ADD: a release, an indivisible addition at the bank, an acquire (R256). -/
def State.flagAddOp (s : State) (h k : Nat) : State :=
  s.issue h k 3 5 (fun _ => true) .reg (fun w _ => decide (zSub w = 0)) (fun _ => false)
    (fun w => [sDst (zA w), sDst (zB w)])
    fun w _ t =>
      let y := s.stoker h k
      if s.memReadsOut h k y.seq then .hold
      else
        let u := (s.release1 t h k).updStoker h k fun x => { (x.await (zDstReg w)) with adds := x.adds ++ [y.seq] }
        .next (u.newAcc h k y.pc y.seq .flagAdd (.flagAdd (zDstReg w) (y.sreg (zB w))) [{ va := s.ea h k w, len := 8 }])

/-- FLAG.ADD. -/
def execFlagAdd (h : HearthId) (k : StokerId) (s : State) : Host.Outcome State Fault Refusal := .next (s.flagAddOp h.val k.val)

/-- FLAG.WAIT.cc reads the flag and parks (R258). -/
def State.flagWaitOp (s : State) (h k : Nat) : State :=
  s.issue h k 3 6 (fun _ => true) .reg
    (fun w _ => decide (zSub w % 2 = 0) && decide (zSub w / 2 < 10)) (fun _ => false)
    (fun w => [sDst (zA w), sDst (zB w)])
    fun w _ t =>
      let y := s.stoker h k
      let b := y.sreg (zB w)
      if s.memReadsOut h k y.seq then .hold
      else
        .park ((t.parkAs h k .parkedFlag (.flag (s.ea h k w) (zDstReg w) (zSub w / 2) b)).newAcc h k y.pc y.seq .flagWait
          (.flagWait (zDstReg w) (zSub w / 2) b) [{ va := s.ea h k w, len := 8 }])

/-- FLAG.WAIT.cc. -/
def execFlagWaitCc (h : HearthId) (k : StokerId) (s : State) : Host.Outcome State Fault Refusal :=
  .next (s.flagWaitOp h.val k.val)

/-- The value of a flag that a waiting FLAG.WAIT reads: when the condition holds it is delivered and the Stoker goes on
to the acquire (R258). -/
def State.flagSeen (s : State) (h k : Nat) (v : W64) : State :=
  let x := s.stoker h k
  match x.wait with
  | .flag _ dst cc b =>
    if condHolds cc v b then
      s.updStoker h k fun x => { (x.write dst v) with st := .parkedFence, wait := .fence x.seq false }
    else s
  | _ => s

/-- FLAG_REREAD: the M48 reads a watched flag again (R258). -/
def State.flagReread (s : State) (h k : Nat) : State :=
  let x := s.stoker h k
  match x.wait with
  | .flag va _ _ _ =>
    if s.accs.any fun a => a.by h k && (match a.kind with | .flagWait _ _ _ => true | _ => false) then s
    else
      let pc := x.pc - 8
      match s.check x.gal .flagWait va with
      | .fails code => (s.countProt x.gal).faultWo x.wo code h k pc
      | .absent _ => (s.countAbsent x.gal).faultWo x.wo fAbsent h k pc
      | .ok (.shared o) _ =>
        if s.sharedLost o 8 then s.faultWo x.wo fEccLasting h k pc
        else s.flagSeen h k (BitVec.ofNat 64 (leNat (bytesAt s.shared o 8)))
      | .ok (.exchange o) _ =>
        match (linesOf o 8).find? fun l => !(s.line l).readyFor (.front x.gal 17) .devRead with
        | some l => (s.askLine (.front x.gal 17) .devRead l).unwait (.front x.gal 17) l
        | none =>
        if s.exchPoisoned o 8 then s.faultWo x.wo fPoisoned h k pc
        else if s.sharedLost (s.exchStart + o) 8 then s.faultWo x.wo fEccLasting h k pc
        else s.flagSeen h k (BitVec.ofNat 64 (leNat (bytesAt s.shared (s.exchStart + o) 8)))
      | .ok _ _ => s
  | _ => s

/-- FLAG_REREAD. -/
def execFlagReread (h : HearthId) (k : StokerId) (s : State) : Host.Outcome State Fault Refusal := .next (s.flagReread h.val k.val)

/-! ## Dampers (R345 to R349) -/

/-- The Stoker arrives at its next round (R346). -/
def State.arrive (s : State) (h k : Nat) : State :=
  s.updStoker h k fun x => { x with st := .parkedDamper, wait := .damper, rounds := x.rounds + 1 }

/-- DAMPER: it issues, and its Stoker arrives once the implied FENCE.FULL is complete. -/
def State.damperOp (s : State) (h k : Nat) : State :=
  match (s.stoker h k).wait with
  | .damperFence n => if s.fenceDone h k n true then s.arrive h k else s
  | _ =>
    s.issue h k 3 7 (fun _ => true) .none (fun w _ => synZero w) (fun _ => false) (fun _ => [])
      fun _ _ t =>
        let n := (s.stoker h k).seq
        if s.fenceDone h k n true then .park (t.arrive h k) else .park (t.parkAs h k .parkedFence (.damperFence n))

/-- DAMPER. -/
def execDamper (h : HearthId) (k : StokerId) (s : State) : Host.Outcome State Fault Refusal := .next (s.damperOp h.val k.val)

/-- The Stokers of a work order, as Hearth and Stoker. -/
def State.stokersOf (s : State) (wo : Nat) : List (Nat × Nat) :=
  s.hearths.flatMap fun e => (e.2.stokers.filter fun y => decide (y.2.wo = wo) && decide (y.2.st ≠ .free)).map fun y => (e.1, y.1)

/-- The participant has arrived at the round the others wait in: parked at it, or halted with its writes done (R347). -/
def State.arrived (s : State) (h k : Nat) : Bool :=
  let x := s.stoker h k
  match x.wait with
  | .damper => true
  | _ => decide (x.st = .halted) && !s.writesOut h k x.seq

/-- DAMPER_ROUND_END: when the last participant has arrived, every participant of the round is READY (R348). -/
def State.roundEnd (s : State) (wo : Nat) : State :=
  let ps := s.stokersOf wo
  let waiting := ps.filter fun p => decide ((s.stoker p.1 p.2).wait = .damper)
  if waiting.isEmpty || !(ps.all fun p => s.arrived p.1 p.2) then s
  else
    waiting.foldl (fun t p => (t.parkAs p.1 p.2 .ready .none).retired wo)
      (s.updWo wo fun w => { w with damperRound := w.damperRound + 1 })

/-- DAMPER_ROUND_END. -/
def execDamperRoundEnd (wo : Nat) (s : State) : Host.Outcome State Fault Refusal := .next (s.roundEnd wo)

/-! ## Time and Pace -/

/-- TIME.RD: the whole nanoseconds of TIME, or TIME_EPOCH with E (R350). -/
def State.timeRd (s : State) (h k : Nat) : State :=
  s.issue h k 3 8 (fun _ => true) .reg
    (fun w _ => decide (zA w = 0) && decide (zB w = 0) && decide (zSub w < 2) && decide (zImm w = 0)) (fun _ => false)
    (fun _ => []) fun w _ t =>
      .next (t.updStoker h k fun x =>
        x.write (zDstReg w) (if bitAt (zSub w) 0 then s.tb.epoch.setWidth 64 else s.timeNs))

/-- TIME.RD. -/
def execTimeRd (h : HearthId) (k : StokerId) (s : State) : Host.Outcome State Fault Refusal := .next (s.timeRd h.val k.val)

/-- PACE.RD: its Hearth's PACE while VALID, else 0 (R352). -/
def State.paceRd (s : State) (h k : Nat) : State :=
  s.issue h k 3 9 (fun _ => true) .reg (fun w _ => synZero w) (fun _ => false) (fun _ => []) fun w _ t =>
    let y := mget {} s.pace.hearth h
    .next (t.updStoker h k fun x => x.write (zDstReg w) (if y.valid then y.pace.setWidth 64 else 0))

/-- PACE.RD. -/
def execPaceRd (h : HearthId) (k : StokerId) (s : State) : Host.Outcome State Fault Refusal := .next (s.paceRd h.val k.val)

end Sys2Proof.Machine
end

