-- ==== Sys2Proof/Machine/Str.lean ====
section
/-! DEFINITION. The STR class and the stream unit (chapters 8 and 13): opening, assignment, the sending and delivery of
pieces, halts and resumes. -/

namespace Sys2Proof.Machine

/-! ## Handles -/

def Stoker.stream? (x : Stoker) (d : Nat) : Option Stream := mget none x.handles d
def Stoker.setStream (x : Stoker) (d : Nat) (v : Option Stream) : Stoker := { x with handles := mset none x.handles d v }
def State.stream? (s : State) (h k d : Nat) : Option Stream := (s.stoker h k).stream? d
def State.setStream (s : State) (h k d : Nat) (v : Option Stream) : State := s.updStoker h k fun x => x.setStream d v
def State.updStream (s : State) (h k d : Nat) (f : Stream → Stream) : State := s.setStream h k d ((s.stream? h k d).map f)

/-- An STR.OPEN of the handle is not yet bound: instructions that name it wait (R365). -/
def State.opening (s : State) (h k d : Nat) : Bool :=
  (s.hearth h).openings.any fun o => decide (o.stoker = k) && decide (o.handle = d)

/-! ## The walk of a stream -/

/-- The length of the walk: the positions that may be assigned. -/
def Stream.total (x : Stream) : Nat := x.desc.walkLen x.cut

/-- The class of the element at a position. -/
def Stream.elem (x : Stream) (n : Nat) : ElemClass := x.desc.elem x.cut n

/-- The coordinates at a position. -/
def Stream.coords (x : Stream) (n : Nat) : List Nat := x.desc.coords (x.desc.walkExtents x.cut) n

/-- Bytes that `n` elements take in the Hob (R528). -/
def Fmt.packed (f : Fmt) (n : Nat) : Nat := (n * f.bits + 7) / 8

/-- The position lies in one of some ranges. -/
def inRanges (rs : List (Nat × Nat)) (n : Nat) : Bool := rs.any fun r => decide (r.1 ≤ n) && decide (n < r.1 + r.2)

/-- The position of the first element of the compressed tile that holds a position. -/
def Stream.tilePos (x : Stream) (n : Nat) : Nat := n / x.desc.tileElems * x.desc.tileElems

/-- The scale that the element at a position uses: its address, or none when it is 1.0 (R519). -/
def Stream.scaleOf (x : Stream) (n : Nat) : Option Nat :=
  if x.desc.sfmt = .none then none else x.desc.scaleAddr x.cut (x.coords n)

/-! ## Pieces of a stream -/

/-- Its pieces that have been sent and not finished. -/
def State.streamPieces (s : State) (h k d : Nat) : List Piece :=
  s.pieces.filter fun p => p.by h k && (match p.owner with
    | .stream e _ _ => decide (e = d)
    | .scale e _ => decide (e = d)
    | .image e _ _ => decide (e = d)
    | .acc _ => false)

/-- The positions a piece carries. -/
def Piece.covers (x : Stream) (p : Piece) (n : Nat) : Bool :=
  match p.owner with
  | .stream _ first count => decide (first ≤ n) && decide (n < first + count)
  | .image _ pos _ => decide (x.tilePos n = pos)
  | _ => false

/-- The bytes of a tile's image that have come. -/
def Stream.image (x : Stream) (pos : Nat) : Sparse (Option Byte) := mget [] x.images pos

/-- Every byte of the tile's image has come. -/
def Stream.imageWhole (x : Stream) (pos : Nat) : Bool := decide (x.desc.tileBytes ≤ (x.image pos).length)

/-- A GRATE element has been delivered, or consumed. -/
def Stream.has (x : Stream) (n : Nat) : Bool :=
  inRanges x.covered n || (if x.desc.sparse = .dense then (mget none x.data n).isSome else x.imageWhole (x.tilePos n))

/-- The position is covered for a follower of a Kindling batch (R492). -/
def Hearth.follows (x : Hearth) (k d n : Nat) : Bool :=
  let epoch := match (x.stoker k).stream? d with | some z => z.epoch | none => 0
  x.chains.any fun c => (c.groups.mapIdx fun i g => (i, g)).any fun e =>
    decide (e.1 ≠ c.lead) && decide (e.2.stoker = k) && decide (e.2.hb = d) && decide (e.2.bEpoch = epoch) && decide (e.2.bPos ≤ n)
      && decide (n < e.2.bPos + c.chunks * c.kt * 32)

/-- A Kindling batch covers elements of the operation: its Stoker is a member, follower or leader. -/
def Hearth.batched (x : Hearth) (k d : Nat) (o : StrOp) : Bool :=
  x.chains.any fun c => !c.key.isEmpty && c.groups.any fun g =>
    decide (g.stoker = k) && decide (g.hb = d) && decide (g.bPos < o.first + o.count)
      && decide (o.first < g.bPos + c.chunks * c.kt * 32)

/-- The tag that the data of a position travel in: 512 B of delivered data each (R355). -/
def Stream.tagOf (x : Stream) (n : Nat) : Nat :=
  let d := x.desc
  if d.sparse = .dense then n * d.fmt.bits / 4096
  else n / d.tileElems * ((d.tileBytes + 511) / 512)

/-- The tags of a range of positions. -/
def Stream.tagsOf (x : Stream) (n count : Nat) : List Nat :=
  let a := x.tagOf n
  let b := if x.desc.sparse = .dense then x.tagOf (n + count - 1) else a + (x.desc.tileBytes + 511) / 512 - 1
  (List.range (b - a + 1)).map fun i => a + i

/-- The tags that are FILLING or HELD. -/
def State.busyTags (s : State) (h k d : Nat) : List Nat :=
  match s.stream? h k d with
  | none => []
  | some x =>
    let flying := (s.streamPieces h k d).flatMap fun p => match p.owner with
      | .stream _ first count => x.tagsOf first count
      | .image _ pos _ => x.tagsOf pos 1
      | _ => []
    let held := if x.desc.sparse = .dense then x.data.map fun e => x.tagOf e.1 else x.images.flatMap fun e => x.tagsOf e.1 1
    (flying ++ held).eraseDups

/-! ## Delivery into the Hob -/

/-- The physical Hob offset of an address in the Hob aperture. -/
def State.hobOff (s : State) (g va : Nat) : Nat := (s.gal g).hobBase.toNat * 65536 + (va - hobAperture)

/-- Element `i` of an operation is written to, or read from, its place in the packing (R528). -/
def State.hobPut (s : State) (h g hob : Nat) (f : Fmt) (i v : Nat) : State :=
  let bit := i * f.bits
  s.putHob h (s.hobOff g (hob + bit / 8)) (elemBytes f (decide (bit % 8 = 4)) v)
def State.hobGet (s : State) (h g hob : Nat) (f : Fmt) (i : Nat) : Nat :=
  let bit := i * f.bits
  elemAt f (fun a => byteAt (s.hearth h).hob (s.hobOff g a)) (hob + bit / 8) (decide (bit % 8 = 4))

/-- The operation that holds a position. -/
def Stream.opAt (x : Stream) (n : Nat) : Option StrOp := x.ops.find? fun o => decide (o.first ≤ n) && decide (n < o.first + o.count)

/-- A PULL or GRATE element arrives. -/
def State.deliverElem (s : State) (h k d n v : Nat) : State :=
  match s.stream? h k d with
  | none => s
  | some x =>
    match x.mode with
    | .grate =>
      if inRanges x.covered n || (s.hearth h).follows k d n then s
      else s.setStream h k d (some { x with data := mset none x.data n (some v) })
    | .pull =>
      match x.opAt n with
      | some o => s.hobPut h (s.stoker h k).gal o.hob x.desc.fmt (n - o.first) v
      | none => s
    | .push => s

/-! ## Completion of operations (R370) -/

/-- Every element of the operation has been sent and has finished. -/
def State.opDone (s : State) (h k d : Nat) (x : Stream) (o : StrOp) : Bool :=
  decide (o.first + o.count ≤ x.next) && !(s.streamPieces h k d).any fun p => match p.owner with
    | .stream _ first count => decide (first < o.first + o.count) && decide (o.first < first + count)
    | .image _ pos _ => decide (pos < o.first + o.count) && decide (o.first < pos + x.desc.tileElems)
    | _ => false

/-- A GRT instruction of the Stoker still needs elements of the stream. -/
def Hearth.streamClaimed (x : Hearth) (k d : Nat) : Bool :=
  (x.loadBs.any fun l => decide (l.stoker = k) && decide (l.hb = d))
  || x.chains.any fun c => c.groups.any fun g => decide (g.stoker = k) && (decide (g.ha = d) || (c.sb && decide (g.hb = d)))

/-- The stream may be unbound: its operations are complete and nothing of it is in flight (R374). -/
def State.closeDone (s : State) (h k d : Nat) : Bool :=
  match s.stream? h k d with
  | none => true
  | some x => x.ops.isEmpty && (s.streamPieces h k d).isEmpty && !(s.hearth h).streamClaimed k d

/-- Complete operations leave their streams, and the closed streams of a HALTED Stoker are unbound (R297). -/
def State.settleStream (s : State) (h k d : Nat) : State :=
  match s.stream? h k d with
  | none => s
  | some x =>
    let passed := (x.passed ++ x.ops.filter fun o => s.opDone h k d x o).filter fun o => (s.hearth h).batched k d o
    let s := s.setStream h k d (some { x with passed, ops := x.ops.filter fun o => !s.opDone h k d x o })
    if (s.stoker h k).st = .halted ∧ s.closeDone h k d then s.setStream h k d none else s

/-! ## Sending (R356, R538 to R551) -/

/-- The stream may send: it is not halted, its Stoker's work order is undecided and its Hearth is not fenced. -/
def State.streamLive (s : State) (h k : Nat) (x : Stream) : Bool :=
  x.halt.isNone && !(s.hearth h).fenced
    && (match (s.stoker h k).st with | .free | .stopping => false | _ => true)
    && (match x.mode with | .push => true | _ => !(s.stoker h k).holdsPulls)

/-- Elements that need no piece are delivered or passed over, up to the first that needs one (R538, R492). -/
def State.skipElems (h k d : Nat) : Nat → State → State
  | 0, s => s
  | fuel + 1, s =>
    match s.stream? h k d with
    | none => s
    | some x =>
      let n := x.next
      if x.assigned ≤ n then s
      else
        let step (t : State) (m : Nat) : State := State.skipElems h k d fuel (t.updStream h k d fun y => { y with next := m })
        let flying := (s.streamPieces h k d).any fun p => p.covers x n
        if x.mode = .grate ∧ (x.has n ∨ flying ∨ (s.hearth h).follows k d n) then step s (n + 1)
        else if x.desc.sparse ≠ .dense then s
        else
          match x.elem n with
          | .inside _ _ => s
          | c =>
            let t := if x.mode = .push then
                (if c = .outside then s.updWo (s.stoker h k).wo fun w => { w with oobDrops := w.oobDrops + 1 } else s)
              else s.deliverElem h k d n x.desc.fill
            step t (n + 1)

/-- The operation that a position is sent for. After a restart (R402) it is the GRT.MM.X that made it; for a new leader of
a Kindling batch it may be one that was complete (R493). -/
def Stream.sendOp (x : Stream) (n : Nat) : Option StrOp :=
  match x.walkBy with
  | some (pc, seq) => if n < x.assigned then some { first := n, count := x.assigned - n, hob := 0, seq := seq, pc := pc, ord := 0 } else none
  | none => (x.opAt n).or (x.passed.find? fun o => decide (o.first ≤ n) && decide (n < o.first + o.count))

/-- How many elements from `n` on join into one piece: consecutive, in one 512 B block, before `lim` (R527). -/
def Stream.joinCount (x : Stream) (n lim : Nat) : Nat :=
  match x.elem n with
  | .inside a hi =>
    let f := x.desc.fmt
    let base := a * 8 + (if hi then 4 else 0)
    ((List.range (min (lim - n) (4096 / f.bits))).takeWhile fun i =>
      match x.elem (n + i) with
      | .inside b hb => decide (b * 8 + (if hb then 4 else 0) = base + i * f.bits) && decide (b / 512 = a / 512)
      | _ => false).length
  | _ => 0

/-- The agent of a stream's pieces. -/
def StrMode.agent : StrMode → Agent
  | .pull => .streamRead | .push => .streamWrite | .grate => .grateRead

/-- The data of a PUSH piece, from the Hob (R371). -/
def State.pushData (s : State) (h k : Nat) (x : Stream) (o : StrOp) (n count : Nat) : List (Byte × Byte) :=
  let g := (s.stoker h k).gal
  let es := (List.range count).map fun i => (x.elem (n + i), s.hobGet h g o.hob x.desc.fmt (n + i - o.first))
  (writeElems x.desc.fmt es).flatMap fun r => r.wdata

/-- A stream piece meets the checks of Table 5-8 and is sent, halts its stream, or faults. -/
def State.sendPiece (s : State) (h k d : Nat) (x : Stream) (o : StrOp) (va len : Nat) (wdata : List (Byte × Byte))
    (owner : Owner) (next : Nat) : State :=
  let y := s.stoker h k
  let p : Piece := { id := 0, gal := y.gal, wo := some y.wo, hearth := h, stoker := k, pc := o.pc, seq := o.seq
                     agent := x.mode.agent, write := decide (x.mode = .push), va := va, len := len, target := .hob 0
                     seg := none, wdata := wdata, status := .sent, owner := owner }
  match s.check y.gal x.mode.agent va with
  | .fails code => s.failCheck p code
  | .absent seg =>
    (s.countAbsent y.gal).updStream h k d fun z => { z with halt := some { va := va, seg := seg, faultSeq := none } }
  | .ok t seg =>
    let s := s.updStream h k d fun z => { z with next := next }
    (s.updHearth h fun z => { z with pieces := z.pieces + 1 }).launch { p with target := t, seg := seg }

/-- Free values for bytes whose value the spec does not state. -/
def State.freeBytes : Nat → State → State × List Byte
  | 0, s => (s, [])
  | n + 1, s =>
    let (t, v) := s.takeFree
    let (u, bs) := State.freeBytes n t
    (u, v.setWidth 8 :: bs)

/-- The next unsent part of a compressed tile's image, as offset, address and length. -/
def State.nextImage (s : State) (h k d : Nat) (x : Stream) (pos : Nat) : Option (Nat × Nat × Nat) :=
  let sent := (s.streamPieces h k d).filterMap fun p => match p.owner with
    | .image _ q off => if q = pos then some (off, p.len) else none
    | _ => none
  let parts := x.desc.tileParts (x.coords pos)
  let runs := (parts.foldl (fun (a : Nat × List (Nat × Nat × Nat)) p =>
      (a.1 + p.2, a.2 ++ (byteRuns p.1.toNat p.2).map fun r => (a.1 + (r.va - p.1.toNat), r.va, r.len))) (0, [])).2
  runs.find? fun r => !(inRanges sent r.1) && (mget none (x.image pos) r.1).isNone

/-- The first position of a Kindling leader's tiles that was passed over while it followed, and is now to be sent (R493). -/
def State.rewindTo (s : State) (h k d : Nat) (x : Stream) : Option Nat :=
  (s.hearth h).chains.findSome? fun c =>
    match c.groups[c.lead]? with
    | some g =>
      if !c.key.isEmpty && decide (g.stoker = k) && decide (g.hb = d) then
        let lo := g.bPos + c.done * c.kt * 32
        let hi := min x.next (g.bPos + c.chunks * c.kt * 32)
        (((List.range (hi - lo)).map fun i => lo + i).find? fun n =>
          !x.has n && !(s.streamPieces h k d).any fun p => p.covers x n)
      else none
    | none => none

/-- The stream of a new leader goes back to what it passed over. -/
def State.rewind (s : State) (h k d : Nat) : State :=
  match s.stream? h k d with
  | none => s
  | some x =>
    match s.rewindTo h k d x with
    | some n => s.setStream h k d (some { x with next := n })
    | none => s

/-- The first scale, of those the elements at some positions use, that has not come and is not on its way. -/
def State.missingScale (s : State) (h k d : Nat) (x : Stream) (ns : List Nat) : Option Nat :=
  if x.desc.sfmt = .none then none
  else ns.findSome? fun n =>
    match x.scaleOf n with
    | some a =>
      if (mget none x.scales a).isSome || (s.streamPieces h k d).any fun p => p.owner = .scale d a then none else some a
    | none => none

/-- The elements of a walk tile whose scales stand for all of it: every 32nd row of each column. -/
def Stream.tileScales (x : Stream) : List Nat :=
  let c := (x.desc.dim 0).tile
  let wide := if x.desc.layout = .ilB16 then 16 else 32
  (List.range x.desc.tileElems).filter fun i => decide (i / wide % c % 32 = 0)

/-- The stream unit sends the next piece of a stream. -/
def State.sendStream (s : State) (h k d : Nat) : State :=
  match s.stream? h k d with
  | none => s
  | some x0 =>
    if s.pace.tripped || !s.streamLive h k x0 then s
    else
      let s := s.rewind h k d
      let s := match s.stream? h k d with | some x => State.skipElems h k d (x.assigned - x.next) s | none => s
      match s.stream? h k d with
      | none => s
      | some x =>
        let n := x.next
        match x.sendOp n with
        | none => s.settleStream h k d
        | some o =>
          let s := s.settleStream h k d
          let busy := s.busyTags h k d
          if x.assigned ≤ n then s
          else if x.mode = .push && (s.relHolds h k o.seq || s.addHolds h k o.seq) then s
          else if x.desc.sparse ≠ .dense then
            let pos := x.tilePos n
            let room := decide ((busy ++ x.tagsOf pos 1).eraseDups.length ≤ x.tags)
            match s.missingScale h k d x (x.tileScales.map fun i => pos + i) with
            | some a => s.sendPiece h k d x o a x.desc.sfmt.bytes [] (.scale d a) n
            | none =>
            match s.nextImage h k d x pos with
            | none => (s.updStream h k d fun z => { z with next := min z.assigned (pos + x.desc.tileElems) }).settleStream h k d
            | some (off, va, len) =>
              if !room then s
              else
                let (s, bs) := if x.mode = .push then State.freeBytes len s else (s, [])
                s.sendPiece h k d x o va len (fullMask bs) (.image d pos off) n
          else
            let c := x.joinCount n (min x.assigned (o.first + o.count))
            match s.missingScale h k d x ((List.range c).map fun i => n + i) with
            | some a => s.sendPiece h k d x o a x.desc.sfmt.bytes [] (.scale d a) n
            | none =>
              if x.tags < (busy ++ x.tagsOf n c).eraseDups.length then s
              else
                match x.elem n with
                | .inside a _ =>
                  let bits := c * x.desc.fmt.bits + (match x.elem n with | .inside _ true => 4 | _ => 0)
                  s.sendPiece h k d x o a ((bits + 7) / 8) (if x.mode = .push then s.pushData h k x o n c else [])
                    (.stream d n c) (n + c)
                | _ => s

/-! ## Arrival -/

/-- A stream piece has finished: its data are delivered (R539). -/
def State.streamArrive (s : State) (p : Piece) (bs : List Byte) : State :=
  let h := p.hearth
  let k := p.stoker
  match p.owner with
  | .stream d first count =>
    match s.stream? h k d with
    | none => s
    | some x =>
      let s := if p.write then s else
        (List.range count).foldl (fun t i =>
          match x.elem (first + i) with
          | .inside a hi => t.deliverElem h k d (first + i) (elemAt x.desc.fmt (fun b => (bs[b - p.va]?).getD 0) a hi)
          | _ => t) s
      s.settleStream h k d
  | .scale d key =>
    s.updStream h k d fun x => { x with scales := mset none x.scales key (some (leNat bs)) }
  | .image d pos off =>
    match s.stream? h k d with
    | none => s
    | some x =>
      let s := if p.write then s else
        let img := (List.range p.len).foldl (fun m i => mset none m (off + i) (some ((bs[i]?).getD 0))) (x.image pos)
        if x.mode = .grate then
          (if inRanges x.covered pos || (s.hearth h).follows k d pos then s
           else s.setStream h k d (some { x with images := mset [] x.images pos img }))
        else
          -- The spec states no packing of a compressed tile in the Hob: the bytes written are free values.
          match x.opAt pos with
          | some o =>
            let (t, v) := s.takeFree
            let es := min (o.first + o.count) (pos + x.desc.tileElems) - pos
            let t := (List.range es).foldl (fun t i =>
              t.hobPut h (s.stoker h k).gal o.hob x.desc.fmt (pos + i - o.first) (v.toNat % 2 ^ x.desc.fmt.bits)) t
            t.setStream h k d (some { x with images := mset [] x.images pos img })
          | none => s
      s.settleStream h k d
  | .acc _ => s

/-! ## STR.OPEN and STR.OPEN.L (R359 to R365) -/

/-- Tags not reserved by open streams nor granted to an opening. -/
def Hearth.freeTags (x : Hearth) : Nat :=
  let open' := x.stokers.foldl (fun n y => y.2.handles.foldl (fun m e => m + (match e.2 with | some z => z.tags | none => 0)) n) 0
  256 - open' - (x.openings.foldl (fun n o => if o.granted then n + o.tags else n) 0)

/-- MODE of an STR.OPEN. -/
def strModeOf : Nat → StrMode | 0 => .pull | 1 => .push | _ => .grate

/-- The EN_k and DIM_k fields of an extension word (Table 8-7), with the length registers. -/
def extLens (x : Stoker) (e : Nat) : List (Nat × Nat) :=
  (List.range 4).filterMap fun i => if bitAt e (4 * i + 3) then some (bits e (4 * i) 3, (x.lreg i).toNat) else none

/-- EN_k = 0 needs DIM_k = 0, and EXT[57:16] is zero. -/
def extLegal (e : Nat) : Bool := decide (e < 2 ^ 16) && (List.range 4).all fun i => bitAt e (4 * i + 3) || decide (bits e (4 * i) 3 = 0)

/-- The length registers an extension word names. -/
def extUses (e : Nat) : List Dst := (List.range 4).filterMap fun i => if bitAt e (4 * i + 3) then some (lDst i) else none

/-- STR.OPEN and STR.OPEN.L issue: the descriptor read starts, and the Stoker parks while too few tags are free. -/
def State.strOpen (s : State) (h k op : Nat) : State :=
  let y := s.stoker h k
  let ext := zExt ((s.hearth h).word (y.pc + 8))
  s.issue h k 8 op (fun _ => true) .handle
    (fun w e => decide (zSub w = 0) && decide (zB w = 0) && decide (zImm w < 1024) && decide (bits (zImm w) 8 2 ≠ 3)
      && (decide (op = 1) || extLegal e))
    (fun _ => false) (fun w => sDst (zA w) :: (if op = 1 then [] else extUses ext))
    fun w e t =>
      let d := zDst w
      let va := (y.sreg (zA w)).toNat
      if (y.stream? d).isSome then .fault fHandle
      else if s.opening h k d then .hold
      else if va % 8 ≠ 0 then .fault fBadDescriptor
      else
        let x := s.hearth h
        let tags := bits (zImm w) 0 8 + 1
        let ok := decide (tags ≤ x.freeTags) && x.openings.all fun o => o.granted
        let o : Opening := {
          handle := d, stoker := k, pc := y.pc, tags := tags, mode := strModeOf (bits (zImm w) 8 2)
          lens := if op = 1 then [] else extLens y e
          granted := ok }
        let t := t.updHearth h fun z => { z with
          openings := z.openings ++ [o]
          openWaits := if ok then z.openWaits else satAdd 65535 z.openWaits 1 }
        let t := t.newAcc h k y.pc y.seq .streamRead (.strDesc d) (byteRuns va 128)
        if ok then .next t else .park (t.parkAs h k .parkedStream (.tags d))

/-- STR.OPEN (R359). -/
def execStrOpen (h : HearthId) (k : StokerId) (s : State) : Host.Outcome State Fault Refusal := .next (s.strOpen h.val k.val 1)

/-- STR.OPEN.L (R362). -/
def execStrOpenL (h : HearthId) (k : StokerId) (s : State) : Host.Outcome State Fault Refusal := .next (s.strOpen h.val k.val 0x20)

/-- An opening whose tags are granted and whose descriptor has passed is bound. -/
def Hearth.bind (x : Hearth) (o : Opening) : Hearth :=
  match o.granted, o.desc with
  | true, some (d, raw) =>
    let z : Stream := {
      mode := o.mode, desc := d, raw := raw, cut := d.cutWith o.lens, tags := o.tags, clamped := d.clamps o.lens }
    let y := x.stoker o.stoker
    { x.setStoker o.stoker (y.setStream o.handle (some z)) with
      openings := x.openings.filter fun p => !(decide (p.stoker = o.stoker) && decide (p.handle = o.handle)) }
  | _, _ => x

/-- Every opening that can be bound is bound. -/
def State.bindAll (s : State) (h : Nat) : State :=
  s.updHearth h fun x => x.openings.foldl (fun z o => z.bind o) x

/-- STR_OPEN_TAGS: the first STR.OPEN that waits is granted its tags once enough are unreserved (R364). -/
def State.strOpenTags (s : State) (h : Nat) : State :=
  let x := s.hearth h
  match x.openings.find? fun o => !o.granted with
  | none => s
  | some o =>
    if x.freeTags < o.tags then s
    else
      (s.updHearth h fun z => { z with openings := z.openings.map fun p =>
        if p.stoker = o.stoker ∧ p.handle = o.handle then { p with granted := true } else p }).bindAll h

/-- STR_OPEN_TAGS. -/
def execStrOpenTags (h : HearthId) (s : State) : Host.Outcome State Fault Refusal := .next (s.strOpenTags h.val)

/-- The bytes of an access, from its first address. -/
def Acc.bytes (a : Acc) (va n : Nat) : List Byte := bytesAt a.buf va n

/-- Run-time lengths name dimensions below the rank, each at most once (R362). -/
def lensOk (lens : List (Nat × Nat)) (rank : Nat) : Bool :=
  (lens.all fun l => decide (l.1 < rank)) && decide ((lens.map fun l => l.1).Nodup)

/-- The descriptor of an STR.OPEN has been read (R359 to R363, R521). -/
def State.openDesc (s : State) (a : Acc) (handle : Nat) (raw : List Byte) : State :=
  let h := a.hearth
  let k := a.stoker
  let fail (code : BitVec 8) : State := match a.wo with
    | some w => s.faultWo w code h k a.pc
    | none => s
  match (s.hearth h).openings.find? fun o => decide (o.stoker = k) && decide (o.handle = handle) with
  | none => s
  | some o =>
    match parseDesc raw with
    | none => fail fBadDescriptor
    | some d =>
      if d.sfmt ≠ .none ∧ o.mode ≠ .grate then fail fBadDescriptor
      else if !lensOk o.lens d.rank then fail fStreamState
      else
        let s := match a.wo with
          | some w => if d.clamps o.lens then s.updWo w fun x => { x with clamp := true } else s
          | none => s
        (s.updHearth h fun z => { z with openings := z.openings.map fun p =>
          if p.stoker = k ∧ p.handle = handle then { p with desc := some (d, raw) } else p }).bindAll h

/-! ## STR.PULL, STR.PUSH, STR.WAIT, STR.POS and STR.CLOSE -/

/-- SUB[3:0] names the handle. -/
def zHandle (w : Nat) : Nat := bits (zSub w) 0 4

/-- The handle's stream, HANDLE when it is unbound, or a wait while it is being opened. -/
def State.withStream (s : State) (h k d : Nat) (f : Stream → Issued) : Issued :=
  match s.stream? h k d with
  | some x => f x
  | none => if s.opening h k d then .hold else .fault fHandle

/-- The check of the Hob range an operation occupies (R369). -/
def State.hobRange (s : State) (g va n : Nat) : Option (BitVec 8) :=
  if va < hobAperture ∨ 2 ^ 52 ≤ va then some fPlaceAgent
  else if (s.gal g).hobSize.toNat * 65536 < va - hobAperture + n then some fHobWindow
  else none

/-- STR.PULL and STR.PUSH (R366 to R369, R377). -/
def State.strAssign (s : State) (h k op : Nat) (push : Bool) : State :=
  s.issue h k 8 op (fun _ => true) .reg
    (fun w _ => decide (zSub w < 32) && (if bitAt (zSub w) 4 then decide (zB w = 0) else decide (zImm w = 0)))
    (fun _ => false) (fun w => sDst (zA w) :: (if bitAt (zSub w) 4 then [] else [sDst (zB w)]))
    fun w _ t =>
      let y := s.stoker h k
      let d := zHandle w
      s.withStream h k d fun x =>
        let n := if bitAt (zSub w) 4 then zImm w else (y.sreg (zB w)).toNat
        let left := x.total - x.assigned
        let m := min n left
        let va := (y.sreg (zA w)).toNat
        let f := x.desc.fmt
        if decide (x.mode = .push) != push then .fault fStreamState
        else if x.mode = .grate ∧ zA w ≠ 0 then .fault fStreamState
        else if f.bits = 4 ∧ m % 2 = 1 ∧ m ≠ left then .fault fStreamState
        else if x.mode ≠ .grate ∧ va % f.size ≠ 0 then .fault fStreamState
        else if 16 ≤ x.ops.length then
          .park ((t.updStoker h k fun z => { z with pc := y.pc, seq := y.seq }).parkAs h k .parkedStream (.room d))
        else
          match (if x.mode = .grate ∨ m = 0 then none else s.hobRange y.gal va (f.packed m)) with
          | some code => .fault code
          | none =>
            let o : StrOp := { first := x.assigned, count := m, hob := va, seq := y.seq, pc := y.pc, ord := x.opCount }
            let x' := { x with
              assigned := x.assigned + m
              opCount := x.opCount + 1
              ops := if m = 0 then x.ops else x.ops ++ [o] }
            .next ((t.setStream h k d (some x')).updStoker h k fun z => z.write (zDstReg w) (BitVec.ofNat 64 m))

/-- STR.PULL. -/
def execStrPull (h : HearthId) (k : StokerId) (s : State) : Host.Outcome State Fault Refusal := .next (s.strAssign h.val k.val 2 false)

/-- STR.PUSH. -/
def execStrPush (h : HearthId) (k : StokerId) (s : State) : Host.Outcome State Fault Refusal := .next (s.strAssign h.val k.val 3 true)

/-- Every operation but the newest `k` has completed (R372). -/
def Stream.waited (x : Stream) (k : Nat) : Bool := x.ops.all fun o => decide (x.opCount ≤ o.ord + k)

/-- The stream is halted on an absent page. -/
def Stream.halted (x : Stream) : Bool := match x.halt with | some y => y.faultSeq.isSome | none => false

/-- The parked state of a wait on a stream: IN_FAULT when it is halted (R375). -/
def Stream.parkState (x : Stream) : StSt := if x.halted then .inFault else .parkedStream

/-- STR.WAIT (R372). -/
def State.strWait (s : State) (h k : Nat) : State :=
  s.issue h k 8 4 (fun _ => true) .none
    (fun w _ => decide (zSub w < 16) && decide (zA w = 0) && decide (zB w = 0) && decide (zImm w < 16)) (fun _ => false)
    (fun _ => []) fun w _ t =>
      s.withStream h k (zHandle w) fun x =>
        if x.waited (zImm w) then .next t else .park (t.parkAs h k x.parkState (.ops (zHandle w) (zImm w)))

/-- STR.WAIT. -/
def execStrWait (h : HearthId) (k : StokerId) (s : State) : Host.Outcome State Fault Refusal := .next (s.strWait h.val k.val)

/-- The first element of the walk not yet delivered. -/
def State.deliveryPoint (s : State) (h k d : Nat) (x : Stream) : Nat :=
  if x.mode = .grate then
    ((List.range x.next).find? fun n => !x.has n && !(s.hearth h).follows k d n).getD x.next
  else
    (s.streamPieces h k d).foldl (fun m p => match p.owner with
      | .stream _ first _ => min m first
      | .image _ pos _ => min m pos
      | _ => m) x.next

/-- A field of the position record (Tables 8-8, 8-9). -/
def State.strPosValue (s : State) (h k d : Nat) (x : Stream) (sel : Nat) : Nat :=
  if sel < 6 then
    let n := s.deliveryPoint h k d x
    if n = x.total ∨ x.desc.rank ≤ sel then 0 else (x.coords n)[sel]?.getD 0
  else if sel = 6 then x.assigned
  else
    let fin := decide (x.assigned = x.total)
    (match x.mode with | .pull => 0 | .push => 1 | .grate => 2) + b2n x.halted * 4 + b2n fin * 8
      + b2n (fin && x.ops.isEmpty) * 16 + b2n x.clamped * 32 + (x.tags - 1) * 256
      + (s.busyTags h k d).length * 65536 + x.ops.length * 2 ^ 32

/-- STR.POS (R373). -/
def State.strPos (s : State) (h k : Nat) : State :=
  s.issue h k 8 5 (fun _ => true) .reg
    (fun w _ => decide (zSub w < 16) && decide (zA w = 0) && decide (zB w = 0) && decide (zImm w < 8)) (fun _ => false)
    (fun _ => []) fun w _ t =>
      let d := zHandle w
      s.withStream h k d fun x =>
        .next (t.updStoker h k fun z => z.write (zDstReg w) (BitVec.ofNat 64 (s.strPosValue h k d x (zImm w))))

/-- STR.POS. -/
def execStrPos (h : HearthId) (k : StokerId) (s : State) : Host.Outcome State Fault Refusal := .next (s.strPos h.val k.val)

/-- STR.CLOSE (R374). -/
def State.strClose (s : State) (h k : Nat) : State :=
  s.issue h k 8 6 (fun _ => true) .none
    (fun w _ => decide (zSub w < 16) && decide (zA w = 0) && decide (zB w = 0) && decide (zImm w = 0)) (fun _ => false)
    (fun _ => []) fun w _ t =>
      let d := zHandle w
      s.withStream h k d fun x =>
        if s.closeDone h k d then .next (t.setStream h k d none)
        else .park ((t.setStream h k d (some { x with closing := true })).parkAs h k x.parkState (.close d))

/-- STR.CLOSE. -/
def execStrClose (h : HearthId) (k : StokerId) (s : State) : Host.Outcome State Fault Refusal := .next (s.strClose h.val k.val)

/-! ## HALT (R297, R334) -/

/-- Every stream of the Stoker is closed or closes. -/
def Stoker.closeAll (x : Stoker) : Stoker :=
  { x with handles := mmap none (fun _ v => v.map fun z => { z with closing := true }) x.handles }

/-- The streams of a Stoker that can be unbound are. -/
def State.unbindClosed (s : State) (h k : Nat) : State :=
  (List.range 16).foldl (fun t d => if t.closeDone h k d then t.setStream h k d none else t) s

/-- HALT: the Stoker is HALTED, or IN_FAULT while a stream of its own is halted on an absent page. -/
def State.haltOp (s : State) (h k : Nat) : State :=
  s.issue h k 0 6 (fun _ => true) .none
    (fun w _ => decide (zA w = 0) && decide (zB w = 0) && decide (zSub w = 0) && decide (zImm w = 0)) (fun _ => false)
    (fun _ => []) fun _ _ t =>
      if (s.hearth h).openings.any fun o => decide (o.stoker = k) then .hold
      else if (s.stoker h k).handles.any fun e => match e.2 with | some x => x.halted | none => false then
        .park (t.parkAs h k .inFault .halt)
      else .next (((t.updStoker h k Stoker.closeAll).parkAs h k .halted .none).unbindClosed h k)

/-- HALT. -/
def execHalt (h : HearthId) (k : StokerId) (s : State) : Host.Outcome State Fault Refusal := .next (s.haltOp h.val k.val)

/-! ## Halts and resumes (R134 to R138, R550 to R562) -/

/-- The next fault sequence number, which skips 0. -/
def nextFaultSeq (n : W32) : W32 := if n + 1 = 0 then 1 else n + 1

/-- The 32 B fault record (Table 3-13). -/
def faultRecord (x : Stoker) (h k d : Nat) (write : Bool) (seq : W32) (va seg time : Nat) (phase : Bool) : List Byte :=
  let w0 := x.tag.toNat + x.queue * 2 ^ 16 + h * 2 ^ 18 + k * 2 ^ 24 + (if write then 2 else 1) * 2 ^ 28 + seq.toNat * 2 ^ 32
  natLe 8 w0 ++ natLe 8 va ++ natLe 8 time ++ natLe 8 (seg + d * 2 ^ 8 + b2n phase * 2 ^ 63)

/-- A Stoker that waits on a stream as it halts enters IN_FAULT, and one with a release that waits on it parks (R250, R375). -/
def State.parkHalted (s : State) (h k d : Nat) : State :=
  let x := s.stoker h k
  match x.wait with
  | .ops e _ => if e = d then s.parkAs h k .inFault x.wait else s
  | .close e => if e = d then s.parkAs h k .inFault x.wait else s
  | .room e => if e = d then s.parkAs h k .inFault x.wait else s
  | .none =>
    if x.st = .halted then s.parkAs h k .inFault .halt
    else if x.st = .ready then
      match x.rels.find? fun r => s.waitsOnHalt h k r.seq with
      | some r => s.parkAs h k .parkedFence (.rel r.seq)
      | none => s
    else s
  | _ => s

/-- STREAM_HALT: every piece sent before the absent one has finished; the fault record is written (R551). -/
def State.streamHalt (s : State) (h k d : Nat) (writeRec : State → Nat → Nat → List Byte → Option Bool × State) : State :=
  let y := s.stoker h k
  match s.stream? h k d with
  | none => s
  | some x =>
    match x.halt with
    | some z =>
      if z.faultSeq.isSome || !(s.streamPieces h k d).isEmpty || !s.undecided y.wo then s
      else
        let g := s.gal y.gal
        let pc := match x.sendOp x.next with | some o => o.pc | none => y.pc
        if (g.fqWritten - g.fqHead).toNat = 2 ^ g.fqLog2 then s.faultWo y.wo fFaultqFull h k pc
        else
          let seq := nextFaultSeq g.fqSeq
          let slot := g.fqWritten.toNat % 2 ^ g.fqLog2
          let phase := decide (g.fqWritten.toNat / 2 ^ g.fqLog2 % 2 = 0)
          let bs := faultRecord y h k d (decide (x.mode = .push)) seq z.va z.seg s.timeNs.toNat phase
          match writeRec s y.gal (g.fqBase.toNat + 32 * slot) bs with
          | (none, t) => t.galleryFault y.gal .faultqWrite 3
          | (some false, t) => t
          | (some true, t) =>
            let t := t.setGal y.gal { t.gal y.gal with fqSeq := seq, fqWritten := g.fqWritten + 1 }
            let t := t.updStream h k d fun u => { u with halt := some { z with faultSeq := some seq } }
            let t := t.updHearth h fun u => { u with halts := satAdd 65535 u.halts 1 }
            let t := t.parkHalted h k d
            if g.fqIrqEn then t.raiseGal y.gal g.fqVector.toNat else t
    | none => s

/-- A Stoker that was IN_FAULT on a stream waits for it as before once it is resumed. -/
def Stoker.resumed (x : Stoker) : Stoker := match x.st, x.wait with
  | .inFault, .halt => x
  | .inFault, _ => { x with st := .parkedStream }
  | _, _ => x

/-- The stream of a gallery that is halted on a fault, as Hearth, Stoker and handle. -/
def State.haltedOn (s : State) (g : Nat) (seq : W32) : Option (Nat × Nat × Nat) :=
  s.hearths.findSome? fun e => e.2.stokers.findSome? fun y =>
    if y.2.gal = g ∧ y.2.st ≠ .free then
      y.2.handles.findSome? fun z => match z.2 with
        | some x => (match x.halt with
          | some u => if u.faultSeq = some seq then some (e.1, y.1, z.1) else none
          | none => none)
        | none => none
    else none

end Sys2Proof.Machine
end

