-- ==== Sys2Proof/Machine/Cab.lean ====
section
/-! DEFINITION. CAB.CALL and CAB.WAIT, and what the post channel and the calls in it share (chapters 9 and 15). -/

namespace Sys2Proof.Machine

/-! ## Calls -/

/-- One call changed in place. -/
def State.updCall (s : State) (h id : Nat) (f : Call → Call) : State :=
  s.updHearth h fun x => { x with calls := x.calls.map fun c => if c.id = id then f c else c }
def State.call? (s : State) (h id : Nat) : Option Call := (s.hearth h).calls.find? fun c => decide (c.id = id)
def State.dropCall (s : State) (h id : Nat) : State :=
  s.updHearth h fun x => { x with calls := x.calls.filter fun c => decide (c.id ≠ id) }

/-- A call of the Cabinet, not of the Stove. -/
def Call.cab (c : Call) : Bool := decide (c.engine ≠ 0)

/-- Calls of a Stoker, of one kind, that have not completed (R430, R436). -/
def Hearth.callsOf (x : Hearth) (k : Nat) (cab : Bool) : List Call :=
  x.calls.filter fun c => decide (c.stoker = k) && decide (c.cab = cab)

/-- Every call of the Stoker but the newest `n` has completed (R430). -/
def Hearth.callsWaited (x : Hearth) (k : Nat) (cab : Bool) (n : Nat) : Bool :=
  let total := if cab then (x.stoker k).cabCalls else (x.stoker k).stvCalls
  (x.callsOf k cab).all fun c => decide (total ≤ c.ord + n)

/-- The 64-bit word `i` of a block. -/
def blockWord (b : List Byte) (i : Nat) : Nat := wordAt b (8 * i)

/-- The bytes of a parameter block in the Hob. -/
def State.hobBlock (s : State) (h g va n : Nat) : List Byte := bytesAt (s.hearth h).hob (s.hobOff g va) n

/-- The release that a call makes before its block is copied (R429, Table 6-3). -/
def State.callReleased (s : State) (h k : Nat) : Bool :=
  s.relDone h k { seq := (s.stoker h k).seq, reads := s.streamReads h k }

/-- A wait for calls has ended: its acquire follows (Table 6-3). -/
def State.acquireAfter (s t : State) (h k seq : Nat) : Issued :=
  if s.fenceDone h k seq false then .next t else .park (t.parkAs h k .parkedFence (.fence seq false))

/-- CAB.WAIT or STV.WAIT. -/
def State.callWait (s : State) (h k cls : Nat) (cab : Bool) : State :=
  s.issue h k cls (if cab then 2 else 3) (fun _ => true) .none
    (fun w _ => decide (zA w = 0) && decide (zB w = 0) && decide (zSub w = 0) && decide (zImm w < 4)) (fun _ => false)
    (fun _ => []) fun w _ t =>
      let n := (s.stoker h k).seq
      if (s.hearth h).callsWaited k cab (zImm w) then s.acquireAfter t h k n
      else .park (t.parkAs h k .parkedCall (if cab then .cab (zImm w) else .stv (zImm w)))

/-- CAB.WAIT (R430). -/
def execCabWait (h : HearthId) (k : StokerId) (s : State) : Host.Outcome State Fault Refusal :=
  .next (s.callWait h.val k.val 0x18 true)

/-! ## The Cabinet parameter block (Tables 9-13, 9-14) -/

def blkEngine (b : List Byte) : Nat := bits (blockWord b 0) 0 8
def blkFlags (b : List Byte) : Nat := bits (blockWord b 0) 8 8
def blkSrc (b : List Byte) : Nat := blockWord b 1
def blkDst (b : List Byte) : Nat := blockWord b 2
def blkAux (b : List Byte) : Nat := blockWord b 3
/-- Engine word Ei. -/
def blkE (b : List Byte) (i : Nat) : Nat := blockWord b (4 + i)

/-- The engine uses an AUX descriptor. -/
def blkUsesAux (b : List Byte) : Bool :=
  match blkEngine b with
  | 1 => true
  | 2 => bitAt (blkFlags b) 2
  | 5 => true
  | _ => false

/-- The Normaliser's BIAS. -/
def blkBias (b : List Byte) : Bool := decide (blkEngine b = 1) && bitAt (blkFlags b) 2

/-- The fields that Table 9-14 gives each engine: FLAGS and the engine words. -/
def blkFieldsOk (b : List Byte) : Bool :=
  let f := blkFlags b
  let e0 := blkE b 0
  let e1 := blkE b 1
  match blkEngine b with
  | 1 => decide (f < 8) && decide (f % 4 < 2) && decide (e0 < 2 ^ 32) && (if bitAt f 2 then decide (e1 < 2 ^ 52) else decide (e1 = 0))
  | 2 => decide (f < 8) && decide (f % 4 < 2) && decide (e0 < 2 ^ 32) && decide (e1 = 0)
  | 3 => (decide (f = 1) || decide (f = 2)) && decide (e0 = 0) && decide (e1 = 0)
  | 4 => decide (f = 0) && decide (e0 = 0) && decide (e1 = 0)
  | 5 => decide (f < 2) && decide (e0 < 2 ^ 32) && decide (e1 = 0)
  | 6 => decide (f < 4) && (if f < 2 then decide (e0 = 0) else decide (e0 < 2 ^ 32)) && decide (e1 = 0)
  | 7 => decide (f < 2) && (if f = 0 then decide (e0 < 2 ^ 32) else decide (e0 = 0)) && decide (e1 = 0)
  | 8 => decide (f < 2) && decide (e0 = 0) && decide (e1 = 0)
  | _ => false

/-- A block passes Tables 9-13 and 9-14. -/
def cabBlockOk (b : List Byte) : Bool :=
  blkFieldsOk b && decide (bits (blockWord b 0) 16 48 = 0) && decide (blkSrc b < 2 ^ 52) && decide (blkDst b < 2 ^ 52)
    && (if blkUsesAux b then decide (blkAux b < 2 ^ 52) && decide (blkAux b ≠ 0) else decide (blkAux b = 0))
    && (List.range 10).all fun i => decide (blkE b (i + 2) = 0)

/-- A call joins the post channel of its Hearth (R598, R603). -/
def State.postCall (s t : State) (h k engine : Nat) (block : List Byte) (pat : Nat × Nat) : State :=
  let x := s.hearth h
  let y := x.stoker k
  let c : Call := {
    id := x.nextId, gal := y.gal, wo := y.wo, hearth := h, stoker := k, pc := y.pc, seq := y.seq, engine := engine
    ord := if engine = 0 then y.stvCalls else y.cabCalls
    cabinet := h / 12, block := block, pat := pat }
  let t := t.updHearth h fun z => { z with calls := z.calls ++ [c], nextId := z.nextId + 1 }
  t.updStoker h k fun z =>
    if engine = 0 then { z with stvCalls := z.stvCalls + 1 } else { z with cabCalls := z.cabCalls + 1 }

/-- The channel, or the Stoker's own limit, takes no further call (R430, R598). -/
def Hearth.callFull (x : Hearth) (k : Nat) (cab : Bool) : Bool :=
  decide (16 ≤ x.calls.length) || decide (4 ≤ (x.callsOf k cab).length)

/-- Every Cabinet's unit of the engine is fenced (R731). -/
def State.engineGone (s : State) (e : Nat) : Bool :=
  (List.range 4).all fun q => bitAt (s.cabinet q).fenced.toNat (e - 1)

/-- CAB.CALL (R428 to R431, R597, R598, R731). -/
def State.cabCall (s : State) (h k : Nat) : State :=
  s.issue h k 0x18 1 (fun _ => true) .none
    (fun w _ => decide (zB w = 0) && decide (zSub w = 0) && decide (zImm w = 0)) (fun _ => false) (fun w => [sDst (zA w)])
    fun w _ t =>
      let x := s.hearth h
      let y := x.stoker k
      let va := (y.sreg (zA w)).toNat
      if x.stoveRoute then .fault fCabRoute
      else if x.callFull k true || !s.callReleased h k then .hold
      else
        match s.hobRange y.gal va 128 with
        | some code => .fault code
        | none =>
          let b := s.hobBlock h y.gal va 128
          if va % 64 ≠ 0 ∨ !cabBlockOk b then .fault fCabParam
          else if s.engineGone (blkEngine b) then .fault fCabRoute
          else .next (s.postCall t h k (blkEngine b) b (0, 0))

/-- CAB.CALL. -/
def execCabCall (h : HearthId) (k : StokerId) (s : State) : Host.Outcome State Fault Refusal := .next (s.cabCall h.val k.val)

end Sys2Proof.Machine
end

