-- ==== Sys2Proof/Machine/Sha.lean ====
section
/-! DEFINITION. SHA-384 (R617), as FIPS 180-4 gives it, over whole bytes. -/

namespace Sys2Proof.Machine

/-- The cube root of a number, rounded down, from bit `i` on. -/
def icbrtFrom (n : Nat) : Nat → Nat → Nat
  | 0, r => r
  | i + 1, r => let t := r + 2 ^ i; if t * t * t ≤ n then icbrtFrom n i t else icbrtFrom n i r

def icbrt (n : Nat) : Nat := icbrtFrom n (n.log2 / 3 + 1) 0

/-- The first 80 primes. -/
def primes80 : List Nat := (List.range 410).filter fun n => decide (2 ≤ n) && (List.range n).all fun d => decide (d < 2) || decide (n % d ≠ 0)

/-- The round constants: the first 64 bits of the fractions of the cube roots of the first 80 primes. -/
def shaK : List W64 := primes80.map fun p => BitVec.ofNat 64 (icbrt (p * 2 ^ 192))

/-- The initial hash value: the same of the square roots of the ninth to sixteenth primes. -/
def shaH : List W64 := ((primes80.drop 8).take 8).map fun p => BitVec.ofNat 64 (isqrt (p * 2 ^ 128))

def rotr (x : W64) (n : Nat) : W64 := x.rotateRight n

/-- A big-endian number of `n` bytes, and the number some bytes spell. -/
def natBe (n x : Nat) : List Byte := (natLe n x).reverse
def beNat (bs : List Byte) : Nat := leNat bs.reverse

/-- The padded message. -/
def shaPad (m : List Byte) : List Byte :=
  m ++ [0x80] ++ List.replicate ((239 - m.length % 128) % 128) 0 ++ natBe 16 (8 * m.length)

/-- The message schedule, newest word first. -/
def shaExtend : Nat → List W64 → List W64
  | 0, w => w
  | n + 1, w =>
    let at' (i : Nat) : W64 := (w[i - 1]?).getD 0
    let s0 := rotr (at' 15) 1 ^^^ rotr (at' 15) 8 ^^^ (at' 15 >>> 7)
    let s1 := rotr (at' 2) 19 ^^^ rotr (at' 2) 61 ^^^ (at' 2 >>> 6)
    shaExtend n ((at' 16 + s0 + at' 7 + s1) :: w)

/-- One round on the eight working variables. -/
def shaRound (v : List W64) (k w : W64) : List W64 :=
  match v with
  | [a, b, c, d, e, f, g, h] =>
    let t1 := h + (rotr e 14 ^^^ rotr e 18 ^^^ rotr e 41) + ((e &&& f) ^^^ (~~~e &&& g)) + k + w
    let t2 := (rotr a 28 ^^^ rotr a 34 ^^^ rotr a 39) + ((a &&& b) ^^^ (a &&& c) ^^^ (b &&& c))
    [t1 + t2, a, b, c, d + t1, e, f, g]
  | _ => v

/-- One block of 128 bytes. -/
def shaBlock (h : List W64) (b : List Byte) : List W64 :=
  let w0 := (List.range 16).map fun i => BitVec.ofNat 64 (beNat ((b.drop (8 * i)).take 8))
  let ws := (shaExtend 64 w0.reverse).reverse
  let v := (shaK.zip ws).foldl (fun v c => shaRound v c.1 c.2) h
  (h.zip v).map fun c => c.1 + c.2

/-- The 48-byte SHA-384 digest of some bytes. -/
def sha384 (m : List Byte) : List Byte :=
  let p := shaPad m
  let out := (List.range (p.length / 128)).foldl (fun h i => shaBlock h ((p.drop (128 * i)).take 128)) shaH
  (out.take 6).flatMap fun x => natBe 8 x.toNat

end Sys2Proof.Machine
end

