-- ==== Sys2Proof/Machine/Sparse.lean ====
section
/-! DEFINITION. B tiles as their latch holds them: which chunk positions and values each output column multiplies, in the
dense and sparse formats (chapters 10 and 14), and the value of one output of one row and chunk. -/

namespace Sys2Proof.Machine

/-! ## Images -/

/-- One entry of a tile's data: an element encoding of a dense tile, a byte of a compressed image. -/
def Tile.at (t : Tile) (i : Nat) : Nat := (t.data[i]?).getD 0

/-- Value `i` of a region of packed values that starts at byte `base` (R567, R572, R575). -/
def Tile.value (t : Tile) (base i : Nat) : Nat :=
  match t.fmt.bits with
  | 4 => bits (t.at (base + i / 2)) (4 * (i % 2)) 4
  | 16 => t.at (base + 2 * i) + 256 * t.at (base + 2 * i + 1)
  | _ => t.at (base + i)

/-- Bytes of `n` packed values. -/
def Fmt.region (f : Fmt) (n : Nat) : Nat := n * f.bits / 8

/-! ## S24 (R567, R568) -/

/-- The values of column `n` of an S24 image of `wide` columns that starts at byte `base`. -/
def Tile.s24 (t : Tile) (base wide n : Nat) : List (Nat × Nat) :=
  (List.range (t.kt / 2)).map fun k =>
    let i := wide * k + n
    let code := bits (t.at (base + t.fmt.region (wide * (t.kt / 2)) + i / 4)) (2 * (i % 4)) 2
    (4 * (k / 2) + code, t.value base i)

/-! ## S24T (R571 to R574) -/

/-- The pairs of offsets a pattern row may keep, in the order of R571. -/
def keptPairs : List (Nat × Nat) := [(0, 1), (0, 2), (0, 3), (1, 2), (1, 3), (2, 3)]

/-- Sequences of four rows of pairs, in lexicographic order. -/
def rowSequences : Nat → List (List (Nat × Nat))
  | 0 => [[]]
  | n + 1 => keptPairs.flatMap fun p => (rowSequences n).map fun r => p :: r

/-- Every offset b is kept exactly twice. -/
def balanced (p : List (Nat × Nat)) : Bool :=
  (List.range 4).all fun b => decide ((p.filter fun r => decide (r.1 = b ∨ r.2 = b)).length = 2)

/-- The 90 patterns. -/
def s24tPatterns : List (List (Nat × Nat)) := (rowSequences 4).filter balanced

/-- The kept elements of a block with a pattern: offsets a and b, in order. -/
def keptOf (p : List (Nat × Nat)) : List (Nat × Nat) := (p.mapIdx fun a r => [(a, r.1), (a, r.2)]).flatten

/-- Blocks of a quadrant image that starts at byte `base`: block row, block column, the eight stored values, and the
offsets kept; none for a pattern byte of 90 or above. -/
def Tile.block (t : Tile) (base i : Nat) : List Nat × Option (List (Nat × Nat)) :=
  ((List.range 8).map fun j => t.value base (8 * i + j),
   (s24tPatterns[t.at (base + t.fmt.region 512 + i)]?).map keptOf)

/-- The values of column `n` of an S24T tile, with the line along a, or along b with .T. -/
def Tile.s24t (t : Tile) (trans : Bool) (n : Nat) : List (Nat × Nat) :=
  (List.range (t.kt / 32)).flatMap fun r =>
    (List.range 8).flatMap fun y =>
      let b := t.block (r * quadrantBytes t.fmt.bits) (if trans then 8 * (n / 4) + y else 8 * y + n / 4)
      match b.2 with
      | none => []
      | some ks => (ks.zip b.1).filterMap fun e =>
          let along := if trans then e.1.2 else e.1.1
          let line := if trans then e.1.1 else e.1.2
          if line = n % 4 then some (32 * r + 4 * y + along, e.2) else none

/-! ## RL4 and RL8 (R575 to R578) -/

/-- Width of a run code. -/
def Tile.codeBits (t : Tile) : Nat := if t.sparse = .rl4 then 4 else 8

/-- Bytes of one slice. -/
def Tile.sliceBytes (t : Tile) : Nat := t.fmt.region (t.kt * 8) + t.kt * 8 * t.codeBits / 8

/-- The entries of one chain in order: run code and value. -/
def Tile.chain (t : Tile) (n first count : Nat) : List (Nat × Nat) :=
  (List.range (t.data.length / t.sliceBytes)).flatMap fun sl =>
    (List.range count).map fun i =>
      let e := 32 * (first + i) + n
      let base := sl * t.sliceBytes
      let codes := base + t.fmt.region (t.kt * 8)
      let code := if t.codeBits = 4 then bits (t.at (codes + e / 2)) (4 * (e % 2)) 4 else t.at (codes + e)
      (code, t.value base e)

/-- The positions of a chain: each entry follows the one before it by its run code. -/
def chainPositions : Nat → List (Nat × Nat) → List (Nat × Nat)
  | _, [] => []
  | p, (code, v) :: es => (p + code, v) :: chainPositions (p + code + 1) es

/-- The windows of a column: start, size, first entry and entries of each slice. -/
def Tile.windows (t : Tile) : List (Nat × Nat × Nat × Nat) :=
  if t.sparse = .rl4 then (List.range (t.kt / 16)).map fun w => (16 * w, 16, 4 * w, 4) else [(0, t.kt, 0, t.kt / 4)]

/-- The entries of a column that lie in range, as chunk position and value. -/
def Tile.rl (t : Tile) (n : Nat) : List (Nat × Nat) :=
  t.windows.flatMap fun w =>
    ((chainPositions 0 (t.chain n w.2.2.1 w.2.2.2)).filter fun e => decide (e.1 < w.2.1)).map fun e => (w.1 + e.1, e.2)

/-! ## Leaves and drops -/

/-- Chunk positions and values that output column `n` multiplies; in quad mode those of K-half `h` (R438, R445). -/
def Tile.leaves (t : Tile) (trans : Bool) (h n : Nat) : List (Nat × Nat) :=
  match t.sparse with
  | .dense =>
    (List.range t.kt).map fun k =>
      (k, t.at (if t.quad then
          (if trans then ((2 * h + n / 16) * 16 + n % 16) * 16 + k else ((2 * h + n / 16) * t.kt + k) * 16 + n % 16)
        else if trans then 32 * n + k else 32 * k + n))
  | .s24 =>
    if t.quad then
      t.s24 ((2 * h + n / 16) * (t.fmt.region (8 * t.kt) + 2 * t.kt)) 16 (n % 16)
    else t.s24 0 32 n
  | .s24t => t.s24t trans n
  | .rl4 | .rl8 => t.rl n

/-- Indices that one consumption of the tile drops (Table 14-4). -/
def Tile.dropCount (t : Tile) : Nat :=
  match t.sparse with
  | .s24t =>
    ((List.range (t.kt / 32)).flatMap fun r => (List.range 64).map fun i =>
      let b := t.block (r * quadrantBytes t.fmt.bits) i
      if b.2.isNone then (b.1.filter fun v => decide (v ≠ 0)).length else 0).foldl (· + ·) 0
  | .rl4 | .rl8 =>
    ((List.range 32).flatMap fun n => t.windows.map fun w =>
      ((chainPositions 0 (t.chain n w.2.2.1 w.2.2.2)).filter fun e => decide (w.2.1 ≤ e.1) && decide (e.2 ≠ 0)).length).foldl (· + ·) 0
  | _ => 0

/-! ## Chunk sums (R454 to R462) -/

/-- The exact sum of integer products. -/
def intSum (fa fb : Fmt) (ps : List (Nat × Nat)) : Int :=
  ps.foldl (fun t p => t + decodeInt fa p.1 * decodeInt fb p.2) 0

/-- The exponent of a finite magnitude. -/
def expOf : Num → Option Int
  | .fin _ m e => if m = 0 then none else some ((m.log2 : Int) + e)
  | _ => none

/-- A product truncated toward zero to a multiple of 2^q (R457). -/
def truncTo (q : Int) : Num → Num
  | .fin neg m e => if e < q then .fin neg (m >>> (q - e).toNat) q else .fin neg m e
  | n => n

/-- BF16 products, truncated against the largest. -/
def truncBf16 (ps : List Num) : List Num :=
  match (ps.filterMap expOf).foldl (fun (m : Option Int) e => match m with | none => some e | some x => some (max x e)) none with
  | none => ps
  | some e => ps.map (truncTo (e - 60))

/-- The root value of floating products: the exact sum, rounded once; a zero sum is +0 (R456 to R458). -/
def fpSum (fa fb : Fmt) (ps : List (Nat × Nat)) : Nat :=
  let ns := ps.map fun p => (decodeFloat fa p.1).mul (decodeFloat fb p.2)
  let ns := if fa = .bf16 then truncBf16 ns else ns
  let t := ns.foldl Num.add (.fin false 0 0)
  if t.isZero then 0 else toF32 t

/-- A root value multiplied by a scale in FP32 (R459). -/
def scaleBy (f : ScaleFmt) (enc v : Nat) : Nat := if f = .none then v else toF32 ((ofF32 v).mul (f.num enc))

/-- Half sums are taken (R460). -/
def Chain.halves (c : Chain) : Bool := decide (c.kt = 64) && !c.quad && (decide (c.sfmtA = .e8m0) || decide (c.sfmtB = .e8m0))

/-- One scaled chunk value in FP32: `sa` and `sb` are the scale encodings of each half of the chunk. -/
def Chain.fpOut (c : Chain) (ps : List (Nat × Nat × Nat)) (sa sb : Nat → Nat) : Nat :=
  let part (i : Nat) (qs : List (Nat × Nat)) : Nat :=
    let v := if c.fmtA.isInt then f32OfInt (intSum c.fmtA c.fmtB qs) else fpSum c.fmtA c.fmtB qs
    scaleBy c.sfmtB (sb i) (scaleBy c.sfmtA (sa i) v)
  if c.halves then
    f32Add (part 0 ((ps.filter fun p => decide (p.1 < 32)).map fun p => p.2))
      (part 1 ((ps.filter fun p => decide (32 ≤ p.1)).map fun p => p.2))
  else part 0 (ps.map fun p => p.2)

/-- One accumulator after one chunk: row `a` of A by column `n` of the tile, K-half `h` in quad mode (R463, R464). -/
def Chain.accumulate (c : Chain) (t : Tile) (a : Nat → Nat) (sa : Nat → Nat) (h n : Nat) (before : W32) : W32 :=
  let ps := (t.leaves c.trans h n).map fun l => (l.1, a l.1, l.2)
  if c.kind = .int then before + BitVec.ofInt 32 (intSum c.fmtA c.fmtB (ps.map fun p => p.2))
  else
    let sb (i : Nat) : Nat := (t.scales[(if c.quad then h else i) * 32 + n]?).getD c.sfmtB.one
    BitVec.ofNat 32 (f32Add before.toNat (c.fpOut ps sa sb))

end Sys2Proof.Machine
end

