-- ==== Sys2Proof/Machine/Engines.lean ====
section
/-! DEFINITION. What the eight Cabinet engines accept, read, compute and write (chapter 15, R529 to R534, R592 to R596). -/

namespace Sys2Proof.Machine

/-! ## Walks of engines: planned extents, no cut -/

/-- The coordinates of walk element `n`. -/
def Desc.coordAt (d : Desc) (n : Nat) : List Nat := d.coords (d.walkExtents d.planned) n

/-- The length of the walk. -/
def Desc.walk (d : Desc) : Nat := d.walkLen d.planned

/-- The encoding of the element at some coordinates: read from memory inside the extents, else fill (Table 12-6). -/
def Desc.get (d : Desc) (rd : Nat → Byte) (i : List Nat) : Nat :=
  match d.classOf d.planned i with
  | .inside a hi => elemAt d.fmt rd a hi
  | _ => d.fill

/-- The element converted to FP32. -/
def Desc.getF32 (d : Desc) (rd : Nat → Byte) (i : List Nat) : Nat := toF32 (decodeElem d.fmt (d.get rd i))

/-- The coordinates of a grid of extents. -/
def gridCoords (es : List Nat) : List (List Nat) := (List.range (product es)).map fun n => digits n es

/-- The extents. -/
def Desc.extents (d : Desc) : List Nat := d.dims.map fun x => x.extent

/-- The runs that read a whole tensor: its walk, or the images of its tiles. -/
def Desc.readAll (d : Desc) : List Run :=
  match d.sparse with
  | .dense => readRuns d.fmt ((List.range d.walk).map fun n => d.elem d.planned n)
  | _ => (List.range (d.walk / d.tileElems)).flatMap fun t =>
      (d.tileParts (d.coordAt (t * d.tileElems))).flatMap fun p => byteRuns p.1.toNat p.2

/-- First elements of the scale blocks inside the extents. -/
def Desc.scaleFirsts (d : Desc) : List (List Nat) :=
  let b := d.scaleSpan
  match d.extents with
  | e :: es => (gridCoords ((e + b - 1) / b :: es)).map fun i => match i with
      | k :: o => k * b :: o
      | [] => []
  | [] => []

/-- The address of the scale of the block that an element begins. -/
def Desc.scalePlace (d : Desc) (i : List Nat) : Nat := d.scale + d.scaleIndex i * d.sfmt.bytes

/-! ## The conditions on operands (Table 15-2) -/

def Fmt.isF (f : Fmt) : Bool := match f with | .fp32 | .bf16 | .fp16 => true | _ => false

def Desc.dense (d : Desc) : Bool := decide (d.sparse = .dense)
def Desc.unscaled (d : Desc) : Bool := decide (d.sfmt = .none)
def Desc.strided (d : Desc) : Bool := decide (d.layout = .strided)

/-- A float operand of the Normaliser or the Exponent. -/
def Desc.rowOk (d : Desc) : Bool := d.dense && d.fmt.isF && d.unscaled && decide (1 ≤ (d.dim 0).extent) && decide ((d.dim 0).extent ≤ 65536)

/-- A gain or bias vector. -/
def Desc.vecOk (d src : Desc) : Bool :=
  decide (d.rank = 1) && d.dense && d.fmt.isF && d.unscaled && decide ((d.dim 0).extent = (src.dim 0).extent)

/-- The call's descriptors meet the row of Table 15-2 of its engine. -/
def engineOk (b : List Byte) (src dst : Desc) (aux bias : Option Desc) : Bool :=
  let flags := blkFlags b
  let same := decide (src.extents = dst.extents)
  let auxIs (p : Desc → Bool) : Bool := match aux with | some a => p a | none => false
  match blkEngine b with
  | 1 => src.rowOk && dst.rowOk && same && auxIs (fun a => a.vecOk src)
      && (match bias with | some x => x.vecOk src | none => !blkBias b)
  | 2 => src.rowOk && dst.rowOk && same
      && (!bitAt flags 2 || auxIs fun a => a.strided && a.unscaled && decide (a.fmt = .uint8) && decide (a.extents = src.extents))
  | 3 => src.fmt.isF && src.unscaled && same && decide (dst.sparse = src.sparse)
      && (match src.sparse with
          | .dense => true
          | .s24 | .s24t => decide (src.fmt ≠ .fp32)
          | _ => false)
      && decide (dst.fmt.bits ≤ 8) && decide (some dst.sfmt = sfmtOf flags)
  | 4 => src.dense && dst.dense && src.unscaled && dst.unscaled && decide (src.fmt = dst.fmt) && decide (src.walk = dst.walk)
  | 5 => src.strided && dst.strided && decide (src.rank = 2) && decide (dst.rank = 2) && decide (src.fmt = dst.fmt)
      && decide (src.sfmt = dst.sfmt) && decide (1 ≤ bits (blkE b 0) 0 16) && decide (1 ≤ bits (blkE b 0) 16 16)
      && (src.unscaled || decide (bits (blkE b 0) 16 16 % src.sfmt.block = 0))
      && auxIs fun a => a.strided && decide (a.rank = 2) && (decide (a.fmt = .int8) || decide (a.fmt = .uint8)) && a.unscaled
        && a.dense && decide ((a.dim 0).extent = 2)
  | 6 => src.dense && src.strided && src.unscaled && dst.unscaled && decide (src.fmt = dst.fmt) && same
      && decide (some dst.sparse = sparseOf (flags + 1))
  | 7 => src.dense && src.unscaled && dst.strided && dst.unscaled && dst.dense && decide (dst.fmt = .uint8) && decide (dst.rank = 1)
      && decide ((if flags = 0 then 4 else 48) ≤ (dst.dim 0).extent)
  | 8 => src.dense && dst.dense && src.unscaled && dst.unscaled && decide (src.fmt = dst.fmt) && decide (src.walk = dst.walk)
  | _ => false

/-! ## Element values -/

/-- What the passes of a call have read. -/
abbrev Passes := Nat → Nat → Byte

/-- A sum in ascending order from +0 (R609). -/
def f32Sum (xs : List Nat) : Nat := xs.foldl f32Add 0

/-- A row of a tensor: its elements along dimension 0 as FP32. -/
def Desc.row (d : Desc) (rd : Nat → Byte) (o : List Nat) : List Nat :=
  (List.range (d.dim 0).extent).map fun i0 => d.getF32 rd (i0 :: o)

/-- The Normaliser (R609), as FP32. -/
def normValue (rms : Bool) (eps : Nat) (src gain : Desc) (bias : Option Desc) (ps : Passes) (i : List Nat) : Nat :=
  let o := i.drop 1
  let i0 := (i[0]?).getD 0
  let n := f32OfInt (src.dim 0).extent
  let g := gain.getF32 (ps 0) [i0]
  let addBias (y : Nat) : Nat := match bias with | some b => f32Add y (b.getF32 (ps 0) [i0]) | none => y
  if rms then
    let m := f32Div (f32Sum ((src.row (ps 0) o).map fun x => f32Mul x x)) n
    let r := f32Rsqrt (f32Add m eps)
    addBias (f32Mul (f32Mul (src.getF32 (ps 1) i) r) g)
  else
    let mu := f32Div (f32Sum (src.row (ps 0) o)) n
    let var := f32Div (f32Sum ((src.row (ps 1) o).map fun x => f32Mul (f32Sub x mu) (f32Sub x mu))) n
    let r := f32Rsqrt (f32Add var eps)
    addBias (f32Mul (f32Mul (f32Sub (src.getF32 (ps 2) i) mu) r) g)

/-- The element is kept by the mask (R612). -/
def maskKeeps (mask : Option Desc) (ps : Passes) (i : List Nat) : Bool :=
  match mask with
  | some m => decide (m.get (ps 0) i ≠ 0)
  | none => true

/-- The largest of some FP32 values that are not NaN. -/
def f32Max : List Nat → Option Nat
  | [] => none
  | x :: xs => some (xs.foldl (fun m y => if (ofF32 m).lt (ofF32 y) then y else m) x)

/-- SOFTMAX (R612), as FP32. -/
def softValue (scale : Nat) (src : Desc) (mask : Option Desc) (ps : Passes) (i : List Nat) : Nat :=
  let o := i.drop 1
  let kept := (List.range (src.dim 0).extent).filter fun i0 => maskKeeps mask ps (i0 :: o)
  let t (p i0 : Nat) : Nat := f32Mul (src.getF32 (ps p) (i0 :: o)) scale
  let ts := kept.map (t 0)
  match f32Max ts with
  | none => 0
  | some m =>
    if ts.any f32IsNan then 0x7FC00000
    else if m = 0xFF800000 then 0
    else if !maskKeeps mask ps i then 0
    else
      let sum := f32Sum (kept.map fun i0 => f32Exp (f32Sub (t 1 i0) m))
      f32Div (f32Exp (f32Sub (t 2 ((i[0]?).getD 0)) m)) sum

/-! ## Stored values of sparse tensors -/

/-- Where stored value `k` of column i_1 of an S24 tensor lies: the image that holds it, its index there, and the
number of values of that image (R567). -/
def Desc.s24Place (d : Desc) (k : Nat) (i : List Nat) : Nat × Nat × Nat :=
  let half := (d.dim 0).tile / 2
  let i1 := (i[1]?).getD 0
  let quad := decide (d.layout = .ilB16)
  let wide := if quad then 16 else 32
  let start := match d.tileParts (k / half * (d.dim 0).tile :: i.drop 1) with | p :: _ => p.1.toNat | [] => 0
  let n := wide * half
  let q := if quad then 2 * ((i[2]?).getD 0) + i1 / 16 % 2 else 0
  (start + q * (d.fmt.region n + n / 4), wide * (k % half) + i1 % wide, n)

/-- The stored value and its code. -/
def Desc.s24At (d : Desc) (rd : Nat → Byte) (k : Nat) (i : List Nat) : Nat × Nat :=
  let p := d.s24Place k i
  let e := p.2.1
  (elemAt d.fmt rd (p.1 + e * d.fmt.bits / 8) (decide (d.fmt.bits = 4 ∧ e % 2 = 1)),
   bits (rd (p.1 + d.fmt.region p.2.2 + e / 4)).toNat (2 * (e % 4)) 2)

/-- Where a block of an S24T tensor lies: its quadrant and its number there (R572, R573). Blocks are counted along the
rows and columns of the squares. -/
def Desc.s24tPlace (d : Desc) (br bc : Nat) (i : List Nat) : Nat × Nat :=
  let kt := (d.dim 0).tile
  let m := kt / 32
  let row := 4 * br
  let col := 4 * bc
  let sq := if d.orient then ((col / kt : Nat) : Int) * (d.dim 0).stride + ((row / kt : Nat) : Int) * (d.dim 1).stride
    else ((row / kt : Nat) : Int) * (d.dim 0).stride + ((col / kt : Nat) : Int) * (d.dim 1).stride
  let start := ((d.base : Int) + sq + d.outer i 2).toNat
  (start + (m * (row % kt / 32) + col % kt / 32) * quadrantBytes d.fmt.bits, 8 * (row % 32 / 4) + col % 32 / 4)

/-- The eight stored values and the pattern byte of a block. -/
def Desc.s24tAt (d : Desc) (rd : Nat → Byte) (br bc : Nat) (i : List Nat) : List Nat × Nat :=
  let p := d.s24tPlace br bc i
  ((List.range 8).map fun j =>
      let e := 8 * p.2 + j
      elemAt d.fmt rd (p.1 + e * d.fmt.bits / 8) (decide (d.fmt.bits = 4 ∧ e % 2 = 1)),
   (rd (p.1 + d.fmt.region 512 + p.2)).toNat)

/-- Block row and column of the squares for the logical element (i_0, i_1). -/
def Desc.blockOf (d : Desc) (i0 i1 : Nat) : Nat × Nat := if d.orient then (i1 / 4, i0 / 4) else (i0 / 4, i1 / 4)

/-- The stored values of an S24T tensor in column i_1 and rows `lo` to `hi - 1`. -/
def Desc.s24tColumn (d : Desc) (rd : Nat → Byte) (lo hi : Nat) (i : List Nat) : List Nat :=
  let i1 := (i[1]?).getD 0
  (List.range ((hi - lo + 3) / 4)).flatMap fun y =>
    let bl := d.blockOf (lo + 4 * y) i1
    let b := d.s24tAt rd bl.1 bl.2 i
    match s24tPatterns[b.2]? with
    | none => []
    | some p => ((keptOf p).zip b.1).filterMap fun e =>
        if (if d.orient then e.1.1 else e.1.2) = i1 % 4 then some e.2 else none

/-! ## The Quantiser (R613, R614, R580) -/

/-- The values of the scale block that begins at some coordinates. -/
def quantBlock (src dst : Desc) (rd : Nat → Byte) (i : List Nat) : List Num :=
  let b := dst.scaleSpan
  let i0 := (i[0]?).getD 0
  let hi := min (src.dim 0).extent (i0 + b)
  let vs := match src.sparse with
    | .s24 => (List.range (hi / 2 - i0 / 2)).map fun j => (src.s24At rd (i0 / 2 + j) i).1
    | .s24t => src.s24tColumn rd i0 hi i
    | _ => (List.range (hi - i0)).map fun j => src.get rd ((i0 + j) :: i.drop 1)
  vs.map (decodeElem src.fmt)

/-- e_max of E8M0 and q_max of BS128 (R613), q_max as an integer. -/
def Fmt.eMax : Fmt → Int
  | .e4m3 => 8 | .e5m2 => 15 | .fp4 => 2 | _ => 6
def Fmt.qMax : Fmt → Nat
  | .int8 => 127 | .uint8 => 255 | .int4 => 7 | .uint4 => 15 | .e4m3 => 448 | .e5m2 => 57344 | _ => 6

/-- The scale of a block; none when it holds a NaN or an infinity. -/
def quantScale (f : Fmt) (sf : ScaleFmt) (xs : List Num) : Option Nat :=
  if xs.any fun x => match x with | .fin _ _ _ => false | _ => true then none
  else
    let amax := xs.foldl (fun m x => if m.lt x.abs then x.abs else m) (Num.fin false 0 0)
    match amax with
    | .fin _ m e =>
      if m = 0 then some sf.one
      else
        match sf with
        | .e8m0 => some ((max (-127) (min 127 ((m.log2 : Int) + e - f.eMax))) + 127).toNat
        | _ =>
          let s := convert .fp16 (amax.div (.fin false f.qMax 0))
          some (if s = 0 then 1 else s)
    | _ => none

/-- The scale that a NaN block is given. -/
def ScaleFmt.nan : ScaleFmt → Nat | .e8m0 => 0xFF | _ => 0x7E00

/-- One quantised value. -/
def quantValue (f : Fmt) (sf : ScaleFmt) (scale : Option Nat) (x : Num) : Nat :=
  match scale with
  | none => 0
  | some s => convert f (x.div (sf.num s))

/-! ## The Pruner (R592 to R596) -/

/-- A magnitude as the Pruner compares it: a NaN or an infinity is the largest finite one (R593). -/
def pruneNum (f : Fmt) (x : Nat) : Num :=
  match decodeElem f x with
  | .fin _ m e => .fin false m e
  | _ => .fin false (match decodeFloat f f.maxBody with | .fin _ m _ => m | _ => 0)
      (match decodeFloat f f.maxBody with | .fin _ _ e => e | _ => 0)

/-- The magnitude as an integer of units of the format's smallest step. -/
def magOf (f : Fmt) (x : Nat) : Nat :=
  match pruneNum f x with
  | .fin _ m e => if f.isInt then m * pow2 e else m * pow2 (e - f.emin)
  | _ => 0

/-- The positions of the `n` largest of some magnitudes, ties to the lower, in ascending order. -/
def largest (n : Nat) (ms : List Nat) : List Nat :=
  (List.range ms.length).filter fun i =>
    let m := (ms[i]?).getD 0
    let ahead := (List.range ms.length).filter fun j =>
      decide (m < (ms[j]?).getD 0) || (decide ((ms[j]?).getD 0 = m) && decide (j < i))
    decide (ahead.length < n)

/-- The pattern of a block of 4 x 4 magnitudes, by row (R595). -/
def prunePattern (mag : Nat → Nat → Nat) : Nat :=
  ((s24tPatterns.zipIdx).foldl (fun (best : Nat × Nat × Bool) p =>
      let sum := (keptOf p.1).foldl (fun n k => n + mag k.1 k.2) 0
      if best.2.2 && decide (sum ≤ best.2.1) then best else (p.2, sum, true)) (0, 0, false)).1

/-! ## Images that engines write -/

/-- Values of `w` bits packed into bytes. -/
def packBits (w : Nat) (vs : List Nat) : List Byte :=
  natLe ((vs.length * w + 7) / 8) (vs.foldr (fun v a => v % 2 ^ w + a * 2 ^ w) 0)

/-- An S24 tile: `f` gives the value and code of a stored row at some coordinates (R567). -/
def Desc.s24Image (d : Desc) (i : List Nat) (f : Nat → List Nat → Nat × Nat) : List Byte :=
  let half := (d.dim 0).tile / 2
  let k0 := (i[0]?).getD 0 / (d.dim 0).tile * half
  let t := (i[1]?).getD 0 / 32 * 32
  let quad := decide (d.layout = .ilB16)
  let wide := if quad then 16 else 32
  let at' (u h n : Nat) : List Nat := if quad then 0 :: (t + 16 * u + n) :: h :: i.drop 3 else 0 :: (t + n) :: i.drop 2
  (if quad then [(0, 0), (1, 0), (0, 1), (1, 1)] else [(0, 0)]).flatMap fun q =>
    let es := (List.range half).flatMap fun k => (List.range wide).map fun n => f (k0 + k) (at' q.1 q.2 n)
    packBits d.fmt.bits (es.map fun e => e.1) ++ packBits 2 (es.map fun e => e.2)

/-- A part of an S24T tile: quadrant `r` of its tile; `f` gives the values and pattern of a block (R572, R573). -/
def Desc.s24tImage (d : Desc) (i : List Nat) (r : Nat) (f : Nat → Nat → List Nat × Nat) : List Byte :=
  let a := (i[0]?).getD 0 / (d.dim 0).tile * (d.dim 0).tile + 32 * r
  let b := (i[1]?).getD 0 / 32 * 32
  let row := if d.orient then b else a
  let col := if d.orient then a else b
  let bs := (List.range 64).map fun j => f (row / 4 + j / 8) (col / 4 + j % 8)
  packBits d.fmt.bits (bs.flatMap fun x => x.1) ++ bs.map fun x => BitVec.ofNat 8 x.2

/-- The chains of one column of an RL tile: windows of positions, each with its entries' capacity (R576). -/
def rlWindows (sp : SparseFmt) (kt slices : Nat) : List (Nat × Nat × Nat) :=
  if sp = .rl4 then (List.range (kt / 16)).map fun w => (16 * w, 16, 4 * slices) else [(0, kt, kt / 4 * slices)]

/-- The entries of a chain: run codes and values (R576, R596). -/
def rlChain : Nat → List (Nat × Nat) → List (Nat × Nat)
  | _, [] => []
  | next, (p, v) :: es => (p - next, v) :: rlChain (p + 1) es

/-- One column of an RL tile: its entries slice by slice, and how many elements were not kept for want of room. -/
def rlColumn (sp : SparseFmt) (kt slices : Nat) (f : Fmt) (thr : Num) (at' : Nat → Nat) : List (List (Nat × Nat)) × Nat :=
  let p := kt / 4
  let chains := (rlWindows sp kt slices).map fun w =>
    let cand := (List.range w.2.1).filterMap fun k =>
      let v := at' (w.1 + k)
      if thr.lt (pruneNum f v) && decide (v ≠ 0) then some (k, v) else none
    let keep := largest w.2.2 (cand.map fun c => magOf f c.2)
    let kept := (cand.zipIdx.filter fun c => keep.contains c.2).map fun c => c.1
    let chain := rlChain 0 kept
    (chain ++ List.replicate (w.2.2 - chain.length) (0, 0), cand.length - kept.length)
  let per := if sp = .rl4 then 4 else p
  ((List.range slices).map fun s => chains.flatMap fun c => (c.1.drop (per * s)).take per,
   chains.foldl (fun n c => n + c.2) 0)

/-- An RL tile of 32 columns (R575). -/
def Desc.rlImage (d : Desc) (thr : Num) (at' : Nat → Nat → Nat) : List Byte × Nat :=
  let kt := (d.dim 0).tile
  let cols := (List.range 32).map fun n => rlColumn d.sparse kt d.slices d.fmt thr (at' n)
  let bytes := (List.range d.slices).flatMap fun s =>
    let es := (List.range (kt / 4)).flatMap fun e => cols.map fun c => (((c.1[s]?).getD [])[e]?).getD (0, 0)
    packBits d.fmt.bits (es.map fun x => x.2) ++ packBits (if d.sparse = .rl4 then 4 else 8) (es.map fun x => x.1)
  (bytes, cols.foldl (fun n c => n + c.2) 0)

/-! ## What a call writes -/

/-- The outcome of a call's arithmetic: the runs to write, the elements dropped outside the extents, and the sparse
elements not kept. -/
structure EngineOut where
  runs : List Run := []
  oob : Nat := 0
  sparse : Nat := 0

/-- The writes of a dense walk: `f` gives the encoding at each walk position and its coordinates. -/
def Desc.writeAll (d : Desc) (f : Nat → List Nat → Nat) : EngineOut :=
  let es := (List.range d.walk).map fun n => (d.elem d.planned n, f n (d.coordAt n))
  { runs := writeElems d.fmt es, oob := (es.filter fun e => decide (e.1 = .outside)).length }

/-- The writes of a sparse tensor, tile by tile: `f` gives the bytes of each part of a tile, and what it drops. -/
def Desc.writeTiles (d : Desc) (f : List Nat → Nat → List Byte × Nat) : EngineOut :=
  let ts := (List.range (d.walk / d.tileElems)).flatMap fun t =>
    let i := d.coordAt (t * d.tileElems)
    (d.tileParts i).mapIdx fun r p => (p.1.toNat, f i r)
  { runs := ts.flatMap fun x => writeRuns x.1 (fullMask x.2.1), sparse := ts.foldl (fun n x => n + x.2.2) 0 }

/-- The writes of a scale array. -/
def Desc.writeScales (d : Desc) (f : List Nat → Nat) : List Run :=
  d.scaleFirsts.flatMap fun i => writeRuns (d.scalePlace i) (fullMask (natLe d.sfmt.bytes (f i)))

/-- The first element of the scale block of an element. -/
def Desc.blockFirst (d : Desc) (i : List Nat) : List Nat := ((i[0]?).getD 0 / d.scaleSpan * d.scaleSpan) :: i.drop 1

/-- The Quantiser. -/
def quantise (src dst : Desc) (rd : Nat → Byte) : EngineOut :=
  let scale (i : List Nat) : Option Nat := quantScale dst.fmt dst.sfmt (quantBlock src dst rd (dst.blockFirst i))
  let value (i : List Nat) (v : Nat) : Nat := quantValue dst.fmt dst.sfmt (scale i) (decodeElem src.fmt v)
  let out := match src.sparse with
    | .s24 => dst.writeTiles fun i _ => (dst.s24Image i fun k j =>
        let x := src.s24At rd k j
        (value (2 * k :: j.drop 1) x.1, x.2), 0)
    | .s24t => dst.writeTiles fun i r => (dst.s24tImage i r fun br bc =>
        let b := src.s24tAt rd br bc i
        let ks := match s24tPatterns[b.2]? with | some p => keptOf p | none => []
        (b.1.mapIdx fun n v =>
          let k := (ks[n]?).getD (0, 0)
          let row := 4 * br + k.1
          let col := 4 * bc + k.2
          value (if src.orient then col :: row :: i.drop 2 else row :: col :: i.drop 2) v, b.2), 0)
    | _ => dst.writeAll fun _ i => value i (src.get rd i)
  { out with runs := out.runs ++ dst.writeScales fun i => (scale i).getD dst.sfmt.nan }

/-- The Pruner. -/
def prune (src dst : Desc) (thr : Num) (rd : Nat → Byte) : EngineOut :=
  let at' (o : List Nat) (i0 i1 : Nat) : Nat := src.get rd (i0 :: i1 :: o)
  dst.writeTiles fun i r =>
    match dst.sparse with
    | .s24 =>
      (dst.s24Image i fun k j =>
        let g := k / 2 * 4
        let vs := (List.range 4).map fun a => src.get rd ((g + a) :: j.drop 1)
        let code := ((largest 2 (vs.map (magOf src.fmt)))[k % 2]?).getD 0
        ((vs[code]?).getD 0, code), 0)
    | .s24t =>
      (dst.s24tImage i r fun br bc =>
        let el (a b : Nat) : Nat :=
          if dst.orient then at' (i.drop 2) (4 * bc + b) (4 * br + a) else at' (i.drop 2) (4 * br + a) (4 * bc + b)
        let p := prunePattern fun a b => magOf src.fmt (el a b)
        (((s24tPatterns[p]?).map keptOf |>.getD []).map fun k => el k.1 k.2, p), 0)
    | _ => dst.rlImage thr fun n k => at' (i.drop 2) ((i[0]?).getD 0 + k) ((i[1]?).getD 0 + n)

/-! ## The Block gatherer (R529 to R532) -/

/-- Entry `l` of a block list: row block and column block; none for a negative coordinate. -/
def listEntry (aux : Desc) (rd : Nat → Byte) (l : Nat) : Option (Nat × Nat) :=
  let a := decodeInt aux.fmt (aux.get rd [0, l])
  let b := decodeInt aux.fmt (aux.get rd [1, l])
  if a < 0 ∨ b < 0 then none else some (a.toNat, b.toNat)

/-- The copies of a gather or scatter in order, as (c, r) of DST and (c, r) of SRC; no source for a block that names none. -/
def blockCopies (b : List Byte) (aux : Desc) (rd : Nat → Byte) (step : Nat) : List ((Nat × Nat) × Option (Nat × Nat)) :=
  let br := bits (blkE b 0) 0 16
  let bc := bits (blkE b 0) 16 16
  (List.range (aux.dim 1).extent).flatMap fun l =>
    (List.range br).flatMap fun r => (List.range (bc / step)).filterMap fun c' =>
      let c := c' * step
      match listEntry aux rd l, bitAt (blkFlags b) 0 with
      | some (y, x), false => some ((c, l * br + r), some (x * bc + c, y * br + r))
      | none, false => some ((c, l * br + r), none)
      | some (y, x), true => some ((x * bc + c, y * br + r), some (c, l * br + r))
      | none, true => none

/-- An element at coordinates that may lie beyond the walk: inside the extents or not. -/
def Desc.spot (d : Desc) (c r : Nat) : ElemClass :=
  if beyond [c, r] d.extents then .outside
  else let a := d.addr [c, r]; .inside a.1.toNat a.2

/-- What the gatherer reads once it has its list: source elements, and their scales. -/
def gatherReads (b : List Byte) (src aux : Desc) (rd : Nat → Byte) : List Run :=
  readRuns src.fmt ((blockCopies b aux rd 1).filterMap fun c => c.2.map fun p => src.spot p.1 p.2)
    ++ (if src.unscaled then [] else (blockCopies b aux rd src.sfmt.block).flatMap fun c => match c.2 with
        | some p => if beyond [p.1, p.2] src.extents then [] else byteRuns (src.scalePlace [p.1, p.2]) src.sfmt.bytes
        | none => [])

/-- The Block gatherer's writes. The scale of a block that names no source is a free value. -/
def gather (b : List Byte) (src dst aux : Desc) (ps : Passes) (fv : Nat → Nat) : EngineOut :=
  let rd := ps 1
  let es := (blockCopies b aux (ps 0) 1).map fun c =>
    (dst.spot c.1.1 c.1.2, match c.2 with
      | some p => (match src.spot p.1 p.2 with | .inside a hi => elemAt src.fmt rd a hi | _ => src.fill)
      | none => src.fill)
  let scales := if src.unscaled then [] else ((blockCopies b aux (ps 0) src.sfmt.block).zipIdx).flatMap fun e =>
    let c := e.1
    if beyond [c.1.1, c.1.2] dst.extents then []
    else
      let v := match c.2 with
        | some p =>
          if beyond [p.1, p.2] src.extents then src.sfmt.one
          else leNat ((List.range src.sfmt.bytes).map fun j => rd (src.scalePlace [p.1, p.2] + j))
        | none => fv e.2
      writeRuns (dst.scalePlace [c.1.1, c.1.2]) (fullMask (natLe dst.sfmt.bytes v))
  { runs := writeElems dst.fmt es ++ scales, oob := (es.filter fun e => decide (e.1 = .outside)).length }

/-! ## The Digest (R615 to R617) -/

/-- The bytes of a walk as a PULL would pack them; none when the last byte is half filled. -/
def digestBytes (src : Desc) (rd : Nat → Byte) : Option (List Byte) :=
  if src.walk * src.fmt.bits % 8 ≠ 0 then none
  else some (packBits src.fmt.bits ((List.range src.walk).map fun n => src.get rd (src.coordAt n)))

/-- The Digest's result; an odd walk of 4-bit elements leaves it open. -/
def digest (b : List Byte) (src dst : Desc) (rd : Nat → Byte) (fv : Nat → Nat) : EngineOut :=
  let n := if blkFlags b = 0 then 4 else 48
  let out := match digestBytes src rd with
    | some m => if blkFlags b = 0 then natLe 4 (crc32c (blkE b 0) m) else sha384 m
    | none => (List.range n).map fun i => BitVec.ofNat 8 (fv i)
  { runs := writeElems .uint8 (out.mapIdx fun i v => (dst.classOf dst.planned [i], v.toNat)) }

/-! ## Reads and writes of a call -/

/-- SRC, DST, AUX and bias among the descriptors a call has read. -/
def Call.src? (c : Call) : Option Desc := c.descs[0]?
def Call.dst? (c : Call) : Option Desc := c.descs[1]?
def Call.aux? (c : Call) : Option Desc := if blkUsesAux c.block then c.descs[2]? else none
def Call.bias? (c : Call) : Option Desc := if blkBias c.block then c.descs[3]? else none

/-- The bytes of pass `p`. -/
def Call.passed (c : Call) : Passes := fun p a => byteAt ((c.passes[p]?).getD []) a

/-- Passes over the operands (Table 15-1): the gatherer's first reads its list. -/
def Call.passCount (c : Call) : Nat :=
  match blkEngine c.block, bits (blkFlags c.block) 0 2 with
  | 1, 0 => 3
  | 1, _ => 2
  | 2, 1 => 3
  | 5, _ => 2
  | _, _ => 1

/-- The runs that the next pass reads; none when every pass is done. -/
def Call.nextReads (c : Call) : Option (List Run) :=
  let p := c.passes.length
  match c.src? with
  | none => none
  | some src =>
    if c.passCount ≤ p then none
    else
      match blkEngine c.block, c.aux? with
      | 5, some aux => some (if p = 0 then aux.readAll else gatherReads c.block src aux (c.passed 0))
      | _, aux =>
        let side := (aux.map Desc.readAll).getD [] ++ ((c.bias?.map Desc.readAll).getD [])
        some (if p = 0 then src.readAll ++ side else src.readAll)

/-- The bytes of every write become free values: the call wrote over bytes that it read (R534). -/
def EngineOut.opened (o : EngineOut) (fv : Nat → Nat) : EngineOut :=
  { o with runs := (o.runs.foldl (fun (a : Nat × List Run) r =>
      (a.1 + r.len, a.2 ++ [{ r with wdata := r.wdata.mapIdx fun i b => (BitVec.ofNat 8 (fv (a.1 + i)), b.2) }])) (0, [])).2 }

/-- The runs of one row of a tensor. -/
def Desc.rowRuns (d : Desc) (o : List Nat) : List Run :=
  readRuns d.fmt ((List.range (d.dim 0).extent).map fun i0 => d.classOf d.planned (i0 :: o))

/-- The call's results, from what its passes have read. `fv` numbers free values for the results the spec does not
state; `hit` tells whether the call writes over some of the bytes of a list of runs (R534). -/
def Call.result (c : Call) (fv : Nat → Nat) (hit : List Run → Bool) : EngineOut :=
  let b := c.block
  let ps := c.passed
  let e0 := blkE b 0
  match c.src?, c.dst? with
  | some src, some dst =>
    let side := (c.aux?.map Desc.readAll).getD [] ++ ((c.bias?.map Desc.readAll).getD [])
    let scales := if src.unscaled then [] else src.scaleFirsts.flatMap fun i => byteRuns (src.scalePlace i) src.sfmt.bytes
    let whole (o : EngineOut) : EngineOut := if hit (src.readAll ++ side ++ scales) then o.opened fv else o
    let rowed (v : Nat → List Nat → Nat) : EngineOut := dst.writeAll fun n i =>
      if hit side || hit (src.rowRuns (i.drop 1)) then fv n else v n i
    match blkEngine b with
    | 1 =>
      match c.aux? with
      | some g => rowed fun _ i => convert dst.fmt (ofF32 (normValue (decide (blkFlags b % 4 = 1)) e0 src g c.bias? ps i))
      | none => {}
    | 2 =>
      if blkFlags b % 4 = 1 then rowed fun _ i => convert dst.fmt (ofF32 (softValue e0 src c.aux? ps i))
      else dst.writeAll fun n i =>
        if hit side || hit (readRuns src.fmt [src.classOf src.planned i]) || !maskKeeps c.aux? ps i then fv n
        else convert dst.fmt (ofF32 (f32Exp (f32Mul (src.getF32 (ps 0) i) e0)))
    | 3 => whole (quantise src dst (ps 0))
    | 5 => match c.aux? with
        | some a => whole (gather b src dst a ps fv)
        | none => {}
    | 6 => whole (prune src dst (ofF32 e0) (ps 0))
    | 7 => whole (digest b src dst (ps 0) fv)
    | _ => dst.writeAll fun n _ =>
        if hit (readRuns src.fmt [src.elem src.planned n]) then fv n else src.get (ps 0) (src.coordAt n)
  | _, _ => {}

end Sys2Proof.Machine
end

