-- ==== Sys2Proof/Machine/Grt.lean ====
section
/-! DEFINITION. The GRT class: positions and claims, latches, products, Kindling, and the chains that the Grates run
(chapters 9 to 11). -/

namespace Sys2Proof.Machine

/-! ## Fields (Tables 9-2 to 9-4) -/

def gJ (w : Nat) : Nat := bits (zImm w) 0 4
def gF (w : Nat) : Nat := bits (zImm w) 4 3
def gHA (w : Nat) : Nat := bits (zImm w) 7 4
def gHB (w : Nat) : Nat := bits (zImm w) 11 4
/-- Planned rows. -/
def gRows (w : Nat) : Nat := bits (zImm w) 15 9 + 1
def gZ (w : Nat) : Bool := bitAt (zSub w) 0
def gT (w : Nat) : Bool := bitAt (zSub w) 1
def gQ (w : Nat) : Bool := bitAt (zSub w) 2
def gSP (w : Nat) : Bool := bitAt (zSub w) 3
def gSB (w : Nat) : Bool := bitAt (zSub w) 4
def gBS (w : Nat) : Bool := bitAt (zSub w) 5
def gBL (w : Nat) : Bool := bitAt (zSub w) 6

/-- The planned shape of a GRT.MM.X; a GRT.MM has one chunk and one batch (R387). -/
structure MmShape where
  kc : Nat := 1
  enr : Bool := false
  lr : Nat := 0
  enk : Bool := false
  lk : Nat := 0
  nb : Nat := 0
  ss : Nat := 0

/-- EXT (Table 9-4). -/
def mmShape (e : Nat) : MmShape :=
  { kc := bits e 0 16, enr := bitAt e 16, lr := bits e 17 2, enk := bitAt e 19, lk := bits e 20 2, nb := bits e 22 8
    ss := bits e 30 3 }

/-! ## Claims (R379 to R383) -/

/-- The positions no Stoker of the Hearth has claimed. -/
def Hearth.freePositions (x : Hearth) : List Nat :=
  (List.range 16).filter fun p => x.stokers.all fun y => !y.2.claim.contains p

/-- Tiles, drains and latch fills of a Stoker are still to finish. -/
def Hearth.grateBusy (x : Hearth) (k : Nat) : Bool :=
  (x.chains.any fun c => c.groups.any fun g => decide (g.stoker = k))
  || (x.flus.any fun f => decide (f.stoker = k)) || x.loadBs.any fun l => decide (l.stoker = k)

/-- A Stoker takes the lowest free positions; their slots are ZERO and their latches hold no tile (R380). -/
def Hearth.claimPositions (x : Hearth) (k n : Nat) : Hearth :=
  let ps := x.freePositions.take n
  let of (i : Nat) : Bool := ps.contains (i / 8)
  { x.setStoker k { x.stoker k with claim := ps } with
    slots := mmap {} (fun i v => if of i then {} else v) x.slots
    planned := mmap .zero (fun i v => if of i then .zero else v) x.planned
    latches := mmap none (fun i v => if ps.contains i then none else v) x.latches
    latchBy := mmap (0, 0) (fun i v => if ps.contains i then (0, 0) else v) x.latchBy
    latchPlan := mmap none (fun i v => if ps.contains i then none else v) x.latchPlan }

/-- Physical position of a program's position number. -/
def Stoker.position (x : Stoker) (j : Nat) : Option Nat := if x.releasing then none else x.claim[j]?

/-- GRT.ZERO with C = 1: a claim of n positions, granted at once or queued (R381), or with n = 0 its release. -/
def State.zeroC (s : State) (h k : Nat) : State :=
  s.issue h k 0x10 3 (fun w => bitAt (zSub w) 0) .none
    (fun w _ => decide (zSub w = 1) && decide (zA w = 0) && decide (zB w = 0) && decide (zImm w ≤ 16)) (fun _ => false)
    (fun _ => []) fun w _ t =>
      let x := s.hearth h
      let y := x.stoker k
      let n := zImm w
      if n = 0 then
        if x.grateBusy k then .next (t.updStoker h k fun z => { z with releasing := !z.claim.isEmpty })
        else .next (t.updStoker h k fun z => { z with claim := [] })
      else if y.releasing || x.claims.any fun c => decide (c.stoker = k) && !c.ember then .hold
      else if !y.claim.isEmpty then .fault fFirebox
      else if n ≤ x.freePositions.length && !x.claims.any fun c => !c.ember then
        .next (t.updHearth h fun z => z.claimPositions k n)
      else .queue (s.setHearth h { x with
        claims := x.claims ++ [{ stoker := k, ember := false, n := n, ashBase := 0, ashCap := 0, pc := y.pc }] })

/-- GRT.ZERO.C. -/
def execGrtZeroC (h : HearthId) (k : StokerId) (s : State) : Host.Outcome State Fault Refusal := .next (s.zeroC h.val k.val)

/-! ## What is still to happen on a slot or a latch (R405) -/

/-- Slots that a row group covers. -/
def Group.slots (g : Group) (quad : Bool) : Nat := (g.rows + (if quad then 15 else 31)) / (if quad then 16 else 32)

/-- An instruction of the Stoker, earlier than `seq` and batch `ord`, still uses slots `lo` to `hi - 1` of a position. -/
def Hearth.slotsBusy (x : Hearth) (k pos lo hi seq ord : Nat) : Bool :=
  (x.chains.any fun c => c.groups.any fun g =>
    decide (g.stoker = k) && decide (g.pos = pos) && !g.discard && decide (g.slot < hi) && decide (lo < g.slot + g.slots c.quad)
      && (decide (g.seq < seq) || (decide (g.seq = seq) && decide (c.ord < ord))))
  || x.flus.any fun f => decide (f.stoker = k) && decide (f.pos = pos) && decide (f.slot < hi) && decide (lo < f.slot + f.n)
      && decide (f.seq < seq)

/-- Slots set to ZERO. -/
def Hearth.zeroSlots (x : Hearth) (pos lo hi : Nat) : Hearth :=
  { x with slots := (List.range (hi - lo)).foldl (fun m i => mset {} m (8 * pos + lo + i) {}) x.slots }

/-- Slots planned to be of a kind. -/
def Hearth.planSlots (x : Hearth) (pos lo hi : Nat) (kind : SlotKind) : Hearth :=
  { x with planned := (List.range (hi - lo)).foldl (fun m i => mset .zero m (8 * pos + lo + i) kind) x.planned }

/-- GRT.ZERO of slots. -/
def State.grtZero (s : State) (h k : Nat) : State :=
  s.issue h k 0x10 3 (fun w => !bitAt (zSub w) 0) .none
    (fun w _ => decide (zSub w = 0) && decide (zA w = 0) && decide (zB w = 0) && decide (zImm w < 1024)) (fun _ => false)
    (fun _ => []) fun w _ t =>
      let x := s.hearth h
      let y := x.stoker k
      let f := gF w
      let n := bits (zImm w) 7 3 + 1
      match y.position (gJ w) with
      | none => .fault fFirebox
      | some p =>
        if 8 < f + n then .fault fFirebox
        else if x.slotsBusy k p f (f + n) y.seq 0 then .hold
        else .next (t.updHearth h fun z => (z.zeroSlots p f (f + n)).planSlots p f (f + n) .zero)

/-- GRT.ZERO. -/
def execGrtZero (h : HearthId) (k : StokerId) (s : State) : Host.Outcome State Fault Refusal := .next (s.grtZero h.val k.val)

/-- POSITION_CLAIM_GRANT: the first claim that waits, of positions and of Ember blocks, is granted once enough are free
(R381, R420). -/
def State.claimGrant (s : State) (h : Nat) (grantEmber : State → ClaimWait → Option State) : State :=
  let x := s.hearth h
  let done (t : State) (c : ClaimWait) (words : Nat) : State :=
    let wo := (t.stoker h c.stoker).wo
    ((t.updHearth h fun z => { z with claims := z.claims.filter fun e => decide (e ≠ c) }).advance h c.stoker words).retired wo
  let s := match x.claims.find? fun c => !c.ember with
    | some c =>
      if c.n ≤ x.freePositions.length then done (s.updHearth h fun z => z.claimPositions c.stoker c.n) c 1 else s
    | none => s
  match (s.hearth h).claims.find? fun c => c.ember with
  | some c => match grantEmber s c with | some t => done t c 1 | none => s
  | none => s

/-! ## Operand pairs (Table 9-5, R388 to R392) -/

def Fmt.int8ish (f : Fmt) : Bool := decide (f = .int8) || decide (f = .uint8)
def Fmt.int4ish (f : Fmt) : Bool := decide (f = .int4) || decide (f = .uint4)
def Fmt.fp8ish (f : Fmt) : Bool := decide (f = .e4m3) || decide (f = .e5m2)

/-- Whether a pair is an integer pair, and its Kt in normal mode with a dense B. -/
def pairOf (a b : Fmt) : Option (Bool × Nat) :=
  if a.int8ish && (b.int8ish || b.int4ish) then some (true, 32)
  else if a.int4ish && b.int4ish then some (true, 64)
  else if a.fp8ish && (b.fp8ish || decide (b = .fp4)) then some (false, 32)
  else if a = .fp4 ∧ b = .fp4 then some (false, 64)
  else if (a = .bf16 ∧ b = .bf16) ∨ (a = .fp16 ∧ b = .fp16) then some (false, 32)
  else none

/-- Chunks are this many times deeper (R390). -/
def SparseFmt.depth : SparseFmt → Nat
  | .dense => 1 | .s24 | .s24t => 2 | .rl4 | .rl8 => 4

/-- Kt of a pair (R390). -/
def ktOf (base : Nat) (quad : Bool) (sp : SparseFmt) : Nat := (if quad then base / 2 else base) * sp.depth

/-- The formats of a tile that a stream's descriptor gives, without data. -/
def tileOf (d : Desc) : Tile :=
  { fmt := d.fmt, sparse := d.sparse, sfmt := d.sfmt, quad := d.layout.isQuad, kt := (d.dim 0).tile, orient := d.orient, data := [] }

/-- Dimension 2 of a quad layout has a planned extent of 2 (R511). -/
def Desc.quadOk (d : Desc) : Bool := !d.layout.isQuad || decide (((d.planned)[2]?).getD 0 = 2)

/-- A B descriptor is one that some accepted pair can use with its own chunk depth (R392, R511, GRT.LOADB). -/
def Desc.latchable (d : Desc) (sp : Bool) : Bool :=
  d.layout.isB && d.quadOk && decide ((d.sparse ≠ .dense) = sp)
    && ([Fmt.int8, .int4, .e4m3, .fp4, .bf16, .fp16].any fun a =>
      match pairOf a d.fmt with
      | some p => decide ((d.dim 0).tile = ktOf p.2 d.layout.isQuad d.sparse)
      | none => false)

/-- Elements of a B tile. -/
def Tile.elems (t : Tile) : Nat := t.kt * (if t.quad then 64 else 32)

/-- The checks of a product's operands at issue; its kind when they pass (R388 to R392, R461, R511, R566). -/
def mmKind (a : Desc) (b : Tile) (w : Nat) : Option SlotKind :=
  let quad := gQ w
  match pairOf a.fmt b.fmt with
  | none => none
  | some p =>
    let kt := ktOf p.2 quad b.sparse
    let e8 := decide (a.sfmt = .e8m0) || decide (b.sfmt = .e8m0)
    let bs := decide (a.sfmt = .bs128) || decide (b.sfmt = .bs128)
    let ok := decide ((b.sparse ≠ .dense) = gSP w)
      && (!gT w || (if gSP w then decide (b.sparse = .s24t) && b.orient else decide (kt = if quad then 16 else 32)))
      && (gT w || !(decide (b.sparse = .s24t) && b.orient))
      && (!quad || decide (b.sparse = .dense) || decide (b.sparse = .s24))
      && decide (a.layout = if quad then .ilA16 else .ilA32) && decide (b.quad = quad)
      && decide ((a.dim 0).tile = kt) && decide (b.kt = kt) && a.quadOk
      && !(e8 && decide ((if quad then 32 else 64) < kt)) && !(bs && decide (128 < kt))
    if ok then some (if p.1 && decide (a.sfmt = .none) && decide (b.sfmt = .none) then .int else .fp) else none

/-! ## GRT.LOADB -/

/-- A GRATE stream, STREAM_STATE for another mode (R392). -/
def State.withGrate (s : State) (h k d : Nat) (f : Stream → Issued) : Issued :=
  s.withStream h k d fun x => if x.mode = .grate then f x else .fault fStreamState

/-- Restarts that will have been made once everything issued so far has been (R402). -/
def Stream.lastEpoch (x : Stream) : Nat := x.epoch + x.restarts.length

/-- GRT.LOADB (R393). -/
def State.grtLoadb (s : State) (h k : Nat) : State :=
  s.issue h k 0x10 1 (fun _ => true) .none
    (fun w _ => decide (zSub w &&& 0x77 = 0) && decide (zA w = 0) && decide (zB w = 0) && decide (gF w = 0) && decide (gHA w = 0)
      && decide (gRows w = 1)) (fun _ => false)
    (fun _ => []) fun w _ t =>
      let y := s.stoker h k
      match y.position (gJ w) with
      | none => .fault fFirebox
      | some p =>
        s.withGrate h k (gHB w) fun x =>
          let b := tileOf x.desc
          if !x.desc.latchable (gSP w) then .fault fBadDescriptor
          else if x.total < x.claimed + b.elems then .fault fStreamState
          else
            let l : LoadB := { stoker := k, seq := y.seq, pos := p, hb := gHB w, bPos := x.claimed, bEpoch := x.lastEpoch, count := b.elems }
            let t := t.setStream h k (gHB w) (some { x with claimed := x.claimed + b.elems })
            .next (t.updHearth h fun z => { z with
              loadBs := z.loadBs ++ [l]
              latchPlan := mset none z.latchPlan p (some b) })

/-! ## GRT.MM and GRT.MM.X -/

/-- The list of bases of .BL, read from the Hob at issue (R402). -/
def State.baseList (s : State) (g va : Nat) (h : Nat) : Nat → Except (BitVec 8) (List Nat)
  | 0 => .ok []
  | n + 1 =>
    if va < hobAperture ∨ 2 ^ 52 ≤ va then .error fPlaceAgent
    else
      match s.check g .memLoad va with
      | .ok (.hob o) _ =>
        if va % 8 ≠ 0 then .error fMisaligned
        else
          let v := leNat (bytesAt (s.hearth h).hob o 8)
          if 2 ^ 52 ≤ v then .error fNoSegment
          else
            match State.baseList s g (va + 8) h n with
            | .ok l => .ok (v :: l)
            | .error e => .error e
      | .fails code => .error code
      | _ => .error fHobWindow

/-- What a GRT.MM has been checked to be. -/
structure MmPlan where
  pos : Nat
  a : Stream
  b : Tile
  /-- The B stream, with SB. -/
  bs : Option Stream
  kind : SlotKind
  kt : Nat
  /-- Run-time rows and chunks, and whether a length was clamped (R395, R497). -/
  rows : Nat
  chunks : Nat
  clamp : Bool

/-- Run-time rows and chunks. -/
def mmLengths (y : Stoker) (w : Nat) (m : MmShape) (kt : Nat) : Nat × Nat × Bool :=
  let r := gRows w
  let lr := (y.lreg m.lr).toNat
  let lk := (y.lreg m.lk).toNat
  (if m.enr then min lr r else r, if m.enk then min ((lk + kt - 1) / kt) m.kc else m.kc,
   (m.enr && decide (r < lr)) || (m.enk && decide (m.kc * kt < lk)))

/-- First slot of batch `b`. -/
def batchSlot (w : Nat) (m : MmShape) (b : Nat) : Nat := gF w + b * m.ss

/-- Slots that some rows cover. -/
def cover (quad : Bool) (rows : Nat) : Nat := if quad then (rows + 15) / 16 else (rows + 31) / 32

/-- The slots that batch `b` is the first of its instruction to cover start here. -/
def freshFrom (w : Nat) (m : MmShape) (rows b : Nat) : Nat :=
  if b = 0 then gF w else max (batchSlot w m b) (batchSlot w m (b - 1) + cover (gQ w) rows)

/-- The kinds of the slots of a position after the batches of a product, or none for a conflict (R385). -/
def Hearth.kindsAfter (x : Hearth) (p : MmPlan) (w : Nat) (m : MmShape) : Option (List (Nat × SlotKind)) :=
  let slots := (List.range (m.nb + 1)).flatMap fun b => (List.range (cover (gQ w) p.rows)).map fun i => batchSlot w m b + i
  let bad := !gZ w && decide (p.chunks ≠ 0) && slots.any fun i =>
    let c := mget .zero x.planned (8 * p.pos + i)
    decide (c ≠ .zero) && decide (c ≠ p.kind)
  if bad then none
  else some (slots.map fun i => (i, if p.chunks ≠ 0 then p.kind else if gZ w then .zero else mget .zero x.planned (8 * p.pos + i)))

/-- Elements of A that one chunk of `rows` rows takes. -/
def aNeed (quad : Bool) (rows kt : Nat) : Nat := rows * kt * (if quad then 2 else 1)

/-- What the members of a Kindling batch share, besides formats and counts (R487). -/
def kindleKey (x : Stream) (bPos : Nat) : List Byte :=
  x.raw ++ natLe 8 x.desc.base ++ natLe 8 bPos ++ x.cut.flatMap fun c => natLe 8 c

/-- Two work orders of galleries may share a batch (R487, R488). -/
def State.mayShare (s : State) (g : Nat) (co : Bool) (g' : Nat) (co' : Bool) : Bool :=
  let x := s.gal g
  let y := s.gal g'
  decide (g = g') || (co && co' && x.cobatchJoin && y.cobatchJoin && decide (x.cobatchGroup = y.cobatchGroup)
    && decide (x.hash = y.hash) && !x.hash.isEmpty)

/-- Rows of a chain. -/
def Chain.rows (c : Chain) : Nat := c.groups.foldl (fun n g => n + g.rows) 0

/-- COBATCH of a work order. -/
def State.cobatchOf (s : State) (wo : Nat) : Bool := match s.wo? wo with | some w => w.cobatch | none => false

/-- An open batch that a row group may join (R487 to R490, R405). -/
def State.joins (s : State) (h : Nat) (new c : Chain) (g : Group) (deadline : Nat) : Bool :=
  c.kindle.isSome && decide (c.key = new.key) && decide (c.fmtA = new.fmtA) && decide (c.sfmtA = new.sfmtA)
    && decide (c.trans = new.trans) && decide (c.sparse = new.sparse) && decide (c.planned = new.planned)
    && decide (c.chunks = new.chunks) && decide (c.rows + g.rows ≤ 32) && decide (c.kindle.getD 0 ≤ deadline)
    && (c.groups.all fun m => s.mayShare g.gal (s.cobatchOf g.wo) m.gal (s.cobatchOf m.wo))
    && !(s.hearth h).slotsBusy g.stoker g.pos g.slot (g.slot + 1) g.seq 0

/-- A row group enters the batcher (R489 to R491): it joins the oldest batch that admits it, or opens one. -/
def State.kindleEnter (s : State) (h : Nat) (new : Chain) (g : Group) : State :=
  let x := s.hearth h
  let deadline := s.tb.elapsed + ns (s.gal g.gal).kindleNs
  match x.chains.find? fun c => s.joins h new c g deadline with
  | some c =>
    s.setHearth h { x with chains := x.chains.map fun e =>
      if e.id = c.id then
        let e := { e with groups := e.groups ++ [g] }
        if e.rows = 32 then { e with kindle := none } else e
      else e }
  | none =>
    let openIds := (x.chains.filter fun c => c.kindle.isSome).map fun c => c.id
    let chains := if openIds.length < 4 then x.chains
      else x.chains.map fun c => if some c.id = openIds.head? then { c with kindle := none } else c
    s.setHearth h { x with chains := chains ++ [{ new with kindle := some deadline }] }

/-- The chain of batch `b` of a product. -/
def mmChain (id : Nat) (p : MmPlan) (w : Nat) (m : MmShape) (y : Stoker) (k b : Nat) : Chain :=
  let need := p.chunks * p.b.elems
  let bPos := match p.bs with
    | some x => if gBL w then 0 else x.claimed + b * need
    | none => 0
  let bEpoch := match p.bs with
    | some x => if gBL w then x.lastEpoch + 1 + b else x.lastEpoch
    | none => 0
  { id := id
    groups := [{
      gal := y.gal, wo := y.wo, stoker := k, pc := y.pc, seq := y.seq, rows := p.rows
      ha := gHA w, aPos := p.a.claimed + b * p.chunks * aNeed (gQ w) p.rows p.kt
      hb := gHB w, bPos := bPos, bEpoch := bEpoch, pos := p.pos, slot := batchSlot w m b
      zeroFrom := if gZ w then freshFrom w m p.rows b else 8 }]
    ord := b, chunks := p.chunks, kt := p.kt, planned := m.kc, fmtA := p.a.desc.fmt, sfmtA := p.a.desc.sfmt
    fmtB := p.b.fmt, sfmtB := p.b.sfmt, sparse := p.b.sparse, quad := gQ w, trans := gT w, sb := gSB w, kind := p.kind }

/-- The streams after a product has claimed its elements (R396, R402). -/
def State.mmClaim (s t : State) (h k w : Nat) (m : MmShape) (p : MmPlan) (list : List Nat) : State :=
  let y := s.stoker h k
  let t := t.updStream h k (gHA w) fun x => { x with claimed := x.claimed + (m.nb + 1) * p.chunks * aNeed (gQ w) p.rows p.kt }
  if !gSB w then t
  else t.updStream h k (gHB w) fun x =>
    if gBL w then { x with
      claimed := p.chunks * p.b.elems
      restarts := x.restarts ++ list.map fun b => (b, y.pc, y.seq) }
    else { x with claimed := x.claimed + (m.nb + 1) * p.chunks * p.b.elems }

/-- The next restart of a walk is made once every tile claimed before it has been consumed: the elements that are
assigned keep their assignment and are walked again from the new base (R402). -/
def State.settleRestart (s : State) (h k d : Nat) : State :=
  match s.stream? h k d with
  | none => s
  | some x =>
    match x.restarts with
    | [] => s
    | (base, pc, seq) :: rest =>
      let z := s.hearth h
      let busy := (z.loadBs.any fun l => decide (l.stoker = k) && decide (l.hb = d) && decide (l.bEpoch = x.epoch))
        || z.chains.any fun c => c.sb && !c.stopped && decide (c.done < c.chunks) && c.groups.any fun g =>
          decide (g.stoker = k) && decide (g.hb = d) && decide (g.bEpoch = x.epoch) && !g.discard
      if busy || x.halt.isSome then s
      else
        let old := (s.streamPieces h k d).map fun p => p.id
        let s := { s with pieces := s.pieces.map fun (p : Piece) => if old.contains p.id then { p with owner := .stream d 0 0 } else p }
        s.setStream h k d (some { x with
          desc := { x.desc with base := base }
          restarts := rest, epoch := x.epoch + 1, walkBy := some (pc, seq), next := 0
          covered := [], data := [], scales := [], images := [] })

/-- The effect of a checked product: its chains join those that wait for a Grate, or the batcher (R404, R486). -/
def State.mmRun (s t : State) (h k w : Nat) (m : MmShape) (p : MmPlan) (kinds : List (Nat × SlotKind)) (list : List Nat) : State :=
  let y := s.stoker h k
  let x := s.hearth h
  let t := if p.clamp then t.updWo y.wo fun o => { o with clamp := true } else t
  let t := t.updHearth h fun z => { z with
    planned := kinds.foldl (fun q c => mset .zero q (8 * p.pos + c.1) c.2) z.planned }
  if p.rows = 0 then t
  else if p.chunks = 0 then
    if gZ w then t.updHearth h fun z => (List.range (m.nb + 1)).foldl (fun z b =>
      z.zeroSlots p.pos (batchSlot w m b) (batchSlot w m b + cover (gQ w) p.rows)) z
    else t
  else
    let t := s.mmClaim t h k w m p list
    let t := t.updHearth h fun z => { z with
      nextId := z.nextId + m.nb + 1
      latchPlan := if gSB w then mset none z.latchPlan p.pos (some p.b) else z.latchPlan }
    let c0 := mmChain x.nextId p w m y k 0
    let kindle := match s.wo? y.wo with
      | some o => o.kindle && decide (o.opcode.toNat = 1) && decide (p.rows ≤ 31) && gSB w && !gQ w && !gBS w && !gBL w
      | none => false
    match kindle, p.bs, c0.groups with
    | true, some b, [g] => t.kindleEnter h { c0 with key := kindleKey b g.bPos } g
    | _, _, _ =>
      (t.updHearth h fun z => { z with
        chains := z.chains ++ (List.range (m.nb + 1)).map fun b => mmChain (x.nextId + b) p w m y k b }).settleRestart h k (gHB w)

/-- The B operand's formats: of the stream, or of the tile that the latch will hold (R388, R394). -/
def State.mmB (s : State) (h k w pos : Nat) (f : Tile → Option Stream → Issued) : Issued :=
  if gSB w then s.withGrate h k (gHB w) fun x => if x.desc.layout.isB then f (tileOf x.desc) (some x) else .fault fBadDescriptor
  else
    match mget none (s.hearth h).latchPlan pos with
    | some b => f b none
    | none => .fault fBadDescriptor

/-- A MEM-class access of the Stoker has not finished. -/
def State.memOut (s : State) (h k : Nat) : Bool := s.accs.any fun a => a.by h k && a.kind.mem

/-- GRT.MM and GRT.MM.X once their words are legal. -/
def State.mm (s t : State) (h k w : Nat) (m : MmShape) : Issued :=
  let x := s.hearth h
  let y := x.stoker k
  match y.position (gJ w) with
  | none => .fault fFirebox
  | some pos =>
    s.withGrate h k (gHA w) fun a =>
      s.mmB h k w pos fun b bs =>
        match mmKind a.desc b w with
        | none => .fault fBadDescriptor
        | some kind =>
          let kt := b.kt
          let r := mmLengths y w m kt
          let p : MmPlan := {
            pos := pos, a := a, b := b, bs := bs, kind := kind, kt := kt, rows := r.1, chunks := r.2.1, clamp := r.2.2 }
          if 8 < gF w + m.nb * m.ss + cover (gQ w) (gRows w) then .fault fFirebox
          else
            match x.kindsAfter p w m with
            | none => .fault fFirebox
            | some kinds =>
              let runs := decide (p.rows ≠ 0) && decide (p.chunks ≠ 0)
              let list := if runs && gBL w then s.baseList y.gal (y.sreg (zA w)).toNat h (m.nb + 1) else .ok []
              let needB := p.chunks * b.elems
              let lackA := decide (a.total < a.claimed + (m.nb + 1) * p.chunks * aNeed (gQ w) p.rows kt)
              let lackB := match bs with
                | some z => if gBL w then decide (z.total < needB) else decide (z.total < z.claimed + (m.nb + 1) * needB)
                | none => false
              if runs && gBL w && s.memOut h k then .hold
              else
                match list with
                | .error code => .fault code
                | .ok l =>
                  if runs && (lackA || lackB) then .fault fStreamState
                  else if !runs && gZ w && decide (p.rows ≠ 0) && ((List.range (m.nb + 1)).any fun q =>
                      x.slotsBusy k pos (batchSlot w m q) (batchSlot w m q + cover (gQ w) p.rows) y.seq 0) then .hold
                  else .next (s.mmRun t h k w m p kinds l)

/-- What the word of a product must satisfy beside its class (R309, R327, R387). -/
def mmLegal (w : Nat) (m : MmShape) : Bool :=
  decide (zB w = 0) && (gBL w || decide (zA w = 0)) && (gSB w || decide (gHB w = 0))
    && decide (gRows w ≤ if gQ w then 128 else 256) && !(gBS w && gBL w) && decide (m.kc ≠ 0)
    && (gSB w || (decide (m.kc ≤ 1) && decide (m.nb = 0) && !gBS w && !gBL w))
    && (decide (m.nb = 0) || gBS w || gBL w) && (m.enr || decide (m.lr = 0)) && (m.enk || decide (m.lk = 0))

/-- GRT.MM. -/
def State.grtMm (s : State) (h k : Nat) : State :=
  s.issue h k 0x10 2 (fun _ => true) .none (fun w _ => decide (zSub w < 32) && mmLegal w {}) (fun _ => false) (fun _ => [])
    fun w _ t => s.mm t h k w {}

/-- GRT.MM.X. -/
def State.grtMmX (s : State) (h k : Nat) : State :=
  let e := zExt ((s.hearth h).word ((s.stoker h k).pc + 8))
  let m := mmShape e
  s.issue h k 0x10 0x22 (fun _ => true) .none (fun w e => mmLegal w (mmShape e) && decide (e < 2 ^ 33)) (fun _ => false)
    (fun w => (if gBL w then [sDst (zA w)] else []) ++ (if m.enr then [lDst m.lr] else []) ++ (if m.enk then [lDst m.lk] else []))
    fun w e t => s.mm t h k w (mmShape e)

/-- GRT.MM. -/
def execGrtMm (h : HearthId) (k : StokerId) (s : State) : Host.Outcome State Fault Refusal := .next (s.grtMm h.val k.val)

/-- GRT.MM.X. -/
def execGrtMmX (h : HearthId) (k : StokerId) (s : State) : Host.Outcome State Fault Refusal := .next (s.grtMmX h.val k.val)

/-! ## Consumption (R355, R393, R396, R477) -/

/-- One more consumed range of a walk. -/
def addRange (rs : List (Nat × Nat)) (a n : Nat) : List (Nat × Nat) :=
  if rs.any fun r => decide (r.1 + r.2 = a) then rs.map fun r => if r.1 + r.2 = a then (r.1, r.2 + n) else r else rs ++ [(a, n)]

/-- Elements of a stream are consumed: their tags are freed. -/
def Stream.consume (x : Stream) (a n : Nat) : Stream :=
  { x with
    covered := addRange x.covered a n
    data := x.data.filter fun e => decide (e.1 < a) || decide (a + n ≤ e.1)
    images := x.images.filter fun e => decide (e.1 < a) || decide (a + n ≤ e.1) }

/-- Every element of a range, and the scales they use, have been delivered. -/
def Stream.ready (x : Stream) (a n : Nat) : Bool :=
  (List.range n).all fun i =>
    (if x.desc.sparse = .dense then (mget none x.data (a + i)).isSome else x.imageWhole (x.tilePos (a + i)))
    && match x.scaleOf (a + i) with
      | some c => (mget none x.scales c).isSome
      | none => true

/-- The encoding of the scale of the element at a position. -/
def Stream.scaleAt (x : Stream) (n : Nat) : Nat :=
  match x.scaleOf n with
  | some c => (mget none x.scales c).getD x.desc.sfmt.one
  | none => x.desc.sfmt.one

/-- Position, within a tile, of row `k` of K-half `h` and output column `n`. -/
def Tile.cell (t : Tile) (h k n : Nat) : Nat :=
  if t.quad then ((2 * h + n / 16) * t.kt + k) * 16 + n % 16 else 32 * k + n

/-- The B tile at a position of a stream, with its column scales. With .T a dense tile's scales vary along the chunk and
the spec gives no rule: they are free values. -/
def State.takeTile (s : State) (x : Stream) (pos : Nat) (trans : Bool) : State × Tile :=
  let b := tileOf x.desc
  let data := if x.desc.sparse = .dense then (List.range b.elems).map fun i => (mget none x.data (pos + i)).getD 0
    else (List.range x.desc.tileBytes).map fun i => ((mget none (x.image (x.tilePos pos)) i).getD 0).toNat
  if x.desc.sfmt = .none then (s, { b with data := data })
  else if trans && decide (b.sparse = .dense) then
    let r := (List.range 64).foldl (fun (a : State × List Nat) _ =>
      let f := a.1.takeFree
      (f.1, a.2 ++ [f.2.toNat % 2 ^ (8 * b.sfmt.bytes)])) (s, [])
    (r.1, { b with data := data, scales := r.2 })
  else
    let halves := if b.quad ∨ b.kt = 64 then 2 else 1
    (s, { b with
      data := data
      scales := (List.range (32 * halves)).map fun i =>
        x.scaleAt (pos + if b.quad then b.cell (i / 32) 0 (i % 32) else b.cell 0 (i / 32 * 32) (i % 32)) })

/-- GRATE elements of a Stoker's stream have been consumed. -/
def State.consume (s : State) (h k d a n : Nat) : State :=
  (((s.updStream h k d fun x => x.consume a n).settleStream h k d).settleRestart h k d)

/-! ## Latches (R393, R394, R403) -/

/-- A chain with SB = 0 on a position, earlier than `seq`, has not taken its tile. -/
def Hearth.latchRead (x : Hearth) (k pos seq : Nat) : Bool :=
  x.chains.any fun c => !c.sb && !c.began && c.groups.any fun g => decide (g.stoker = k) && decide (g.pos = pos) && decide (g.seq < seq)

/-- An instruction earlier than `seq` is still to write the latch. -/
def Hearth.latchWritten (x : Hearth) (k pos seq : Nat) : Bool :=
  (x.loadBs.any fun l => decide (l.stoker = k) && decide (l.pos = pos) && decide (l.seq < seq))
  || x.chains.any fun c => c.sb && c.groups.any fun g => decide (g.stoker = k) && decide (g.pos = pos) && decide (g.seq < seq)

/-- A tile goes to a latch unless a later instruction has filled it already. -/
def Hearth.fillLatch (x : Hearth) (pos : Nat) (t : Tile) (by' : Nat × Nat) : Hearth :=
  let old := mget (0, 0) x.latchBy pos
  if (mget none x.latches pos).isSome ∧ (by'.1 < old.1 ∨ (by'.1 = old.1 ∧ by'.2 < old.2)) then x
  else { x with latches := mset none x.latches pos (some t), latchBy := mset (0, 0) x.latchBy pos by' }

/-- A GRT.LOADB that can be made is: its tile has come, and every earlier tile of the latch has been broadcast. -/
def State.fillLoadB (s : State) (h : Nat) (l : LoadB) : State :=
  let x := s.hearth h
  match s.stream? h l.stoker l.hb with
  | none => s
  | some z =>
    let earlier := x.loadBs.any fun e => decide (e.stoker = l.stoker) && decide (e.pos = l.pos) && decide (e.seq < l.seq)
    if earlier || x.latchRead l.stoker l.pos l.seq || decide (z.epoch ≠ l.bEpoch) || !z.ready l.bPos l.count then s
    else
      let r := s.takeTile z l.bPos false
      let t := r.1.updHearth h fun y => { (y.fillLatch l.pos r.2 (l.seq, 0)) with loadBs := y.loadBs.filter fun e => decide (e ≠ l) }
      t.consume h l.stoker l.hb l.bPos l.count

/-- Every latch fill of a Hearth that can be made is made. -/
def State.settleLatches (s : State) (h : Nat) : State := (s.hearth h).loadBs.foldl (fun t l => t.fillLoadB h l) s

/-- GRT.LOADB, whose latch is filled at once when its data are in the tags. -/
def execGrtLoadb (h : HearthId) (k : StokerId) (s : State) : Host.Outcome State Fault Refusal :=
  .next ((s.grtLoadb h.val k.val).settleLatches h.val)

/-! ## Kindling deadlines and claims -/

/-- KINDLING_DEADLINE: a batch whose deadline has come is released (R491). -/
def State.kindlingDeadline (s : State) (h id : Nat) : State :=
  s.updHearth h fun x => { x with chains := x.chains.map fun c =>
    if c.id = id then (match c.kindle with | some d => if d ≤ s.tb.elapsed then { c with kindle := none } else c | none => c) else c }

/-- KINDLING_DEADLINE. -/
def execKindlingDeadline (h : HearthId) (chain : Nat) (s : State) : Host.Outcome State Fault Refusal :=
  .next (s.kindlingDeadline h.val chain)

/-- The Stoker's claims are to be released: by n = 0, by HALT, or by its work order's end (R382). -/
def Stoker.ends (x : Stoker) : Bool := decide (x.st = .halted) || decide (x.st = .stopping)

/-- CLAIM_RELEASE: positions, once every tile, drain and latch fill on them has finished; Ember blocks, once every
instruction on them has (R382, R420). -/
def State.claimRelease (s : State) (h k : Nat) : State :=
  let x := s.hearth h
  let y := x.stoker k
  let emberBusy := s.accs.any fun a => a.by h k && (match a.kind with | .ember _ _ _ | .emberInit | .fluWrite => true | _ => false)
  let s := if (y.releasing || y.ends) && !x.grateBusy k then
      s.updStoker h k fun z => { z with claim := [], releasing := false } else s
  if (y.emberReleasing || y.ends) && !emberBusy then
    s.updStoker h k fun z => { z with ember := none, emberReleasing := false } else s

/-- CLAIM_RELEASE. -/
def execClaimRelease (h : HearthId) (k : StokerId) (s : State) : Host.Outcome State Fault Refusal := .next (s.claimRelease h.val k.val)

/-! ## Chains (R398, R408, R437 to R452) -/

def Hearth.chain? (x : Hearth) (id : Nat) : Option Chain := x.chains.find? fun c => decide (c.id = id)
def Hearth.updChain (x : Hearth) (id : Nat) (f : Chain → Chain) : Hearth :=
  { x with chains := x.chains.map fun c => if c.id = id then f c else c }

/-- Available Grates of a Hearth that run no chain. -/
def State.idleGrates (s : State) (h : Nat) : List Nat :=
  (List.range 16).filter fun g => bitAt (s.avail h).toNat g && !((s.hearth h).chains.any fun c => decide (c.grate = some g))

/-- The Grate a chain starts on: its position's own, else the lowest-numbered idle one (R408). -/
def State.pickGrate (s : State) (h : Nat) (c : Chain) : Option Nat :=
  let idle := s.idleGrates h
  match c.groups.head? with
  | some g => if idle.contains g.pos then some g.pos else idle.head?
  | none => none

/-- The row group whose B stream a chain reads. -/
def Chain.leader (c : Chain) : Option Group := c.groups[c.lead]?

/-- Walk position of A row `r`, K-half `i`, in chunk `kc`. -/
def Chain.aAt (c : Chain) (g : Group) (kc r i : Nat) : Nat :=
  g.aPos + if c.quad then ((kc * g.rows + r) * 2 + i) * c.kt else (kc * g.rows + r) * c.kt

/-- K-halves of a row. -/
def Chain.halvesOf (c : Chain) : List Nat := if c.quad then [0, 1] else [0]

/-- The A rows `lo` to `hi - 1` of a chunk are in the tags of a row group's stream. -/
def State.aReady (s : State) (h : Nat) (c : Chain) (g : Group) (kc lo hi : Nat) : Bool :=
  g.discard ||
    match s.stream? h g.stoker g.ha with
    | none => false
    | some x => (List.range (hi - lo)).all fun r => c.halvesOf.all fun i => x.ready (c.aAt g kc (lo + r) i) c.kt

/-- The B tile of chunk `kc` is there: in the latch the chain has taken, or whole in the leader's stream. -/
def State.bReady (s : State) (h : Nat) (c : Chain) (kc : Nat) : Bool :=
  if !c.sb then true
  else
    match c.leader with
    | none => false
    | some g =>
      match s.stream? h g.stoker g.hb with
      | none => false
      | some x => decide (x.epoch = g.bEpoch) && x.ready (g.bPos + kc * (tileOf x.desc).elems) (tileOf x.desc).elems

/-- Every earlier instruction on the slots and the latch of the chain's row groups has taken effect (R405, R394). -/
def Hearth.chainFree (x : Hearth) (c : Chain) : Bool :=
  c.groups.all fun g =>
    !x.slotsBusy g.stoker g.pos g.slot (g.slot + g.slots c.quad) g.seq c.ord
    && (if c.sb then !x.latchRead g.stoker g.pos g.seq else !x.latchWritten g.stoker g.pos g.seq)

/-- Slot, row and column of accumulator `n` of bank row `r` of a group: in quad mode a row and its K-half (R401). -/
def Group.place (g : Group) (quad : Bool) (r : Nat) : Nat × Nat :=
  if quad then (g.slot + r / 2 / 16, 16 * (r % 2) + r / 2 % 16) else (g.slot + r / 32, r % 32)

/-- Bank rows of a group. -/
def Group.bankRows (g : Group) (quad : Bool) : Nat := if quad then 2 * g.rows else g.rows

/-- The row groups with the number of the first bank row of each. -/
def withOffsets (quad : Bool) : Nat → List Group → List (Nat × Group)
  | _, [] => []
  | n, g :: gs => (n, g) :: withOffsets quad (n + g.bankRows quad) gs

/-- An accumulator as the chain's first tile finds it (R449, R464). -/
def Hearth.before (x : Hearth) (g : Group) (quad : Bool) (r n : Nat) : W32 :=
  let p := g.place quad r
  if g.zeroFrom ≤ p.1 then 0
  else
    let sl := mget {} x.slots (8 * g.pos + p.1)
    if sl.kind = .zero then 0 else mget 0 sl.vals (32 * p.2 + n)

/-- The working bank over all rows, from a value for each accumulator. -/
def Chain.bankOf (c : Chain) (f : Group → Nat → Nat → Nat → W32) : Sparse W32 :=
  (withOffsets c.quad 0 c.groups).flatMap fun e =>
    (List.range (e.2.bankRows c.quad)).flatMap fun r =>
      (List.range 32).filterMap fun n =>
        let v := f e.2 (e.1 + r) r n
        if v = 0 then none else some (32 * (e.1 + r) + n, v)

/-- CHAIN_START (R408): a Grate is idle, the first data are present, and everything earlier on its slots is done. A chain
whose Grate was fenced takes another here (R724). -/
def State.chainStart (s : State) (h id : Nat) : State :=
  let x := s.hearth h
  match x.chain? id with
  | none => s
  | some c =>
    if x.fenced || c.grate.isSome || c.kindle.isSome || c.stopped then s
    else if c.began then
      match (s.idleGrates h).head? with
      | some g => s.setHearth h (x.updChain id fun c => { c with grate := some g })
      | none => s
    else
      let latch := match c.groups.head? with | some g => mget none x.latches g.pos | none => none
      let firstRow := match c.groups.head? with | some g => s.aReady h c g 0 0 1 | none => false
      if !x.chainFree c || !firstRow || !s.bReady h c 0 || (!c.sb && latch.isNone) then s
      else
        match s.pickGrate h c with
        | none => s
        | some g =>
          let bank := c.bankOf fun e _ r n => x.before e c.quad r n
          (s.setHearth h (x.updChain id fun c => { c with
            grate := some g, began := true, bank := bank, tile := if c.sb then none else latch })).settleLatches h

/-- CHAIN_START. -/
def execChainStart (h : HearthId) (chain : Nat) (s : State) : Host.Outcome State Fault Refusal := .next (s.chainStart h.val chain)

/-- The accumulators after one more tile. -/
def State.tileBank (s : State) (h : Nat) (c : Chain) (t : Tile) : Sparse W32 :=
  c.bankOf fun g r0 r n =>
    if g.discard then 0
    else
      match s.stream? h g.stoker g.ha with
      | none => 0
      | some x =>
        let row := if c.quad then r / 2 else r
        let half := if c.quad then r % 2 else 0
        let a := c.aAt g c.done row half
        c.accumulate t (fun k => (mget none x.data (a + k)).getD 0) (fun i => x.scaleAt (a + 32 * i)) half n (mget 0 c.bank (32 * r0 + n))

/-- A tile that has passed: its rows are in the working bank, its operands are consumed, its dropped indices counted. -/
def State.passTile (s : State) (h : Nat) (c : Chain) : State :=
  let r : State × Option Tile := match c.sb, c.leader with
    | true, some g => (match s.stream? h g.stoker g.hb with
      | some x =>
        let r := s.takeTile x (g.bPos + c.done * (tileOf x.desc).elems) c.trans
        (r.1, some r.2)
      | none => (s, none))
    | true, none => (s, none)
    | false, _ => (s, c.tile)
  match r.2 with
  | none => s
  | some t =>
    let s := r.1
    let bank := s.tileBank h c t
    let drops := t.dropCount
    let s := s.updHearth h fun x => x.updChain c.id fun c => { c with bank := bank, done := c.done + 1, tile := some t }
    c.groups.foldl (fun u g =>
      let u := if g.discard then u
        else (u.updWo g.wo fun w => { w with sparseDrops := w.sparseDrops + drops }).updStoker h g.stoker fun y =>
          { y with dropped := y.dropped + drops }
      let u := u.consume h g.stoker g.ha (c.aAt g c.done 0 0) (aNeed c.quad g.rows c.kt)
      if c.sb then u.consume h g.stoker g.hb (g.bPos + c.done * t.elems) t.elems else u) s

/-- The position a chain's records name. -/
def Chain.recordPos (c : Chain) : Nat := match c.groups.head? with | some g => g.pos | none => 0

/-- The row group that owns a row. -/
def groupAt : Nat → List Group → Option Group
  | _, [] => none
  | r, g :: gs => if r < g.rows then some g else groupAt (r - g.rows) gs

/-- TILE_BROADCAST (R437 to R450, R472 to R479, R720, R723 to R725): the tile passes, passes on its retry, or fences its
Grate, and then the chain goes on elsewhere. -/
def State.tileBroadcast (s : State) (h id : Nat) (v : Verdict) (f : TileFault) (row : Nat) : State :=
  let x := s.hearth h
  match x.chain? id with
  | none => s
  | some c =>
    match c.grate with
    | none => s
    | some g =>
      let here := c.groups.all fun e => s.aReady h c e c.done 0 e.rows
      if c.stopped || decide (c.chunks ≤ c.done) || !here || !s.bReady h c c.done then s
      else
        let owner := groupAt row c.groups
        let wo := match owner with | some e => s.naming (some e.wo) | none => none
        match v with
        | .pass => s.passTile h c
        | .corrected =>
          let t := match f with | .bank => s.countCorrected .workingBank | _ => s
          t.passTile h c
        | .transient =>
          let t := match f with
            | .bank => s.transient .workingBank h (128 * row) (owner.map fun (e : Group) => e.wo)
            | _ =>
              State.logTransient { s with faults := { s.faults with tileTransient := satAdd 0xFFFFFFFF s.faults.tileTransient 1 } }
                (2 * 4096 + 16 * h + g)
                { event := 0x03, cls := 1, unitKind := 2, unitIndex := 16 * h + g, wo := wo, a := c.recordPos, b := row }
          t.passTile h c
        | .lasting =>
          let a := match f with | .tally => 0 | .residue => 1 | .bank => 2
          let t := match f with
            | .bank => s.lastingFault .workingBank h (128 * row) (owner.map fun (e : Group) => e.wo)
            | _ => s.countLasting
          let t := t.updHearth h fun y => y.updChain id fun c => { c with grate := none }
          let t := t.fenceGrate h g a true wo
          let t := match f, owner with
            | .bank, some e => t.faultWo e.wo fEccLasting h e.stoker e.pc
            | _, _ => t
          match (t.hearth h).chain? id with
          | some d =>
            if d.stopped then t
            else match (t.idleGrates h).head? with
              | some n => t.updHearth h fun y => y.updChain id fun c => { c with grate := some n }
              | none => t
          | none => t

/-- TILE_BROADCAST. -/
def execTileBroadcast (h : HearthId) (chain : Nat) (v : Verdict) (f : TileFault) (row : Nat) (s : State) :
    Host.Outcome State Fault Refusal := .next (s.tileBroadcast h.val chain v f row)

/-- The rows of one group are copied into their slots (R400, R451). -/
def Hearth.commitGroup (x : Hearth) (c : Chain) (first : Nat) (g : Group) : Hearth :=
  let zeroed := (List.range (g.slots c.quad)).foldl (fun m i =>
    if g.zeroFrom ≤ g.slot + i then mset {} m (8 * g.pos + g.slot + i) {} else m) x.slots
  { x with
    slots := (List.range (g.bankRows c.quad)).foldl (fun m r =>
      let p := g.place c.quad r
      let sl := mget {} m (8 * g.pos + p.1)
      let vals := (List.range 32).foldl (fun v n => mset 0 v (32 * p.2 + n) (mget 0 c.bank (32 * (first + r) + n))) sl.vals
      mset {} m (8 * g.pos + p.1) { kind := c.kind, vals := vals }) zeroed }

/-- Streams that waited for the chain may now be unbound. -/
def State.unbindHalted (s : State) (h k : Nat) : State := if (s.stoker h k).st = .halted then s.unbindClosed h k else s

/-- CHAIN_COMMIT (R451, R452, R403). -/
def State.chainCommit (s : State) (h id : Nat) : State :=
  let x := s.hearth h
  match x.chain? id with
  | none => s
  | some c =>
    if !c.began || !(c.stopped || decide (c.chunks ≤ c.done)) then s
    else
      let x := (withOffsets c.quad 0 c.groups).foldl (fun y e => if e.2.discard then y else y.commitGroup c e.1 e.2) x
      let x := match c.sb, c.tile with
        | true, some t => c.groups.foldl (fun (y : Hearth) (g : Group) => if g.discard then y else y.fillLatch g.pos t (g.seq, c.ord)) x
        | _, _ => x
      let s := s.setHearth h { x with chains := x.chains.filter fun e => decide (e.id ≠ id) }
      let s := match c.grate with
        | some g => if bitAt x.grateDue.toNat g then s.fenceGrate h g 3 false none else s
        | none => s
      let s := c.groups.foldl (fun t g => t.unbindHalted h g.stoker) s
      s.settleLatches h

/-- CHAIN_COMMIT. -/
def execChainCommit (h : HearthId) (chain : Nat) (s : State) : Host.Outcome State Fault Refusal := .next (s.chainCommit h.val chain)

/-- The batch that a halted B stream leads and that has not started passes to its next row group (R493). -/
def State.handover (s : State) (h k d : Nat) : State :=
  s.updHearth h fun x => { x with chains := x.chains.map fun c =>
    if c.began || c.key.isEmpty then c
    else match c.leader with
      | some g => if g.stoker = k ∧ g.hb = d then { c with lead := Chain.nextLead c.groups (c.lead + 1) } else c
      | none => c }

end Sys2Proof.Machine
end

