-- ==== Sys2Proof/Machine/Ember.lean ====
section
/-! DEFINITION. The SPR class: the Ember space of a Stoker, its Ash region, and SPR.DROPRD (chapters 9 and 14). -/

namespace Sys2Proof.Machine

/-! ## Ash accesses (R586, R587, R590) -/

/-- A computation over an Ash region: the state so far, the fault it met, or the Exchange line it must wait for. -/
structure AshRun where
  s : State
  fault : Option (BitVec 8) := none
  wait : Option Nat := none

/-- It has stopped. -/
def AshRun.off (r : AshRun) : Bool := r.fault.isSome || r.wait.isSome

/-- Who waits for an Exchange line in the name of a gallery's Ember space. -/
def ashWaiter (g : Nat) : Waiter := .front g 16

/-- The target of an Ash slot. -/
def AshRun.target (r : AshRun) (g va : Nat) : AshRun × Option Target :=
  if r.off then (r, none)
  else
    match r.s.check g .ash va with
    | .fails code => ({ r with s := r.s.countProt g, fault := some code }, none)
    | .absent _ => ({ r with s := r.s.countAbsent g, fault := some fAbsent }, none)
    | .ok (.exchange o) _ =>
      match (linesOf o 8).find? fun l => !(r.s.line l).readyFor (ashWaiter g) .devWrite with
      | some l => ({ r with wait := some l }, none)
      | none =>
        if r.s.exchPoisoned o 8 then ({ r with fault := some fPoisoned }, none)
        else if r.s.sharedLost (r.s.exchStart + o) 8 then ({ r with fault := some fEccLasting }, none)
        else (r, some (.exchange o))
    | .ok (.shared o) _ => if r.s.sharedLost o 8 then ({ r with fault := some fEccLasting }, none) else (r, some (.shared o))
    | .ok _ _ => ({ r with fault := some fPlaceAgent }, none)

/-- A slot's key and value. -/
def AshRun.read (r : AshRun) (g va : Nat) : AshRun × Nat × Nat :=
  match r.target g va with
  | (r, some (.shared o)) => (r, leNat (bytesAt r.s.shared o 4), leNat (bytesAt r.s.shared (o + 4) 4))
  | (r, some (.exchange o)) =>
    let b := r.s.exchStart + o
    (r, leNat (bytesAt r.s.shared b 4), leNat (bytesAt r.s.shared (b + 4) 4))
  | (r, _) => (r, 0, 0)

/-- A slot's key and value written. -/
def AshRun.write (r : AshRun) (g va key val : Nat) : AshRun :=
  let bs := fullMask (natLe 4 key ++ natLe 4 val)
  match r.target g va with
  | (r, some (.shared o)) => { r with s := r.s.putShared o bs }
  | (r, some (.exchange o)) => { r with s := r.s.putExch o bs }
  | (r, _) => r

/-- Keys that mark an Ash slot as empty and as removed (R587). -/
def ashEmpty : Nat := 0xFFFFFFFF
def ashRemoved : Nat := 0xFFFFFFFE

/-- A multiplicative hash onto `m` places (R584, R587). -/
def hashOnto (mul m key : Nat) : Nat := key * mul % 2 ^ 32 * m / 2 ^ 32

/-- The search of an Ash region for a key: after `n` more probes, the slot address that takes an entry and the value it
adds to; none when there is no slot. `hole` is the first removed slot passed. -/
def AshRun.probe (r : AshRun) (g : Nat) (e : Ember) (key i : Nat) : Nat → Option Nat → AshRun × Option (Nat × Option Nat)
  | 0, hole => (r, hole.map fun a => (a, none))
  | n + 1, hole =>
    let a := e.ashBase + 8 * ((hashOnto 0x85EBCA6B e.ashCap key + i) % e.ashCap)
    let q := r.read g a
    if q.1.off then (q.1, none)
    else if q.2.1 = key then (q.1, some (a, some q.2.2))
    else if q.2.1 = ashEmpty then (q.1, some (hole.getD a, none))
    else q.1.probe g e key (i + 1) n (if q.2.1 = ashRemoved ∧ hole.isNone then some a else hole)

/-- An entry moves to the Ash region (R586). -/
def AshRun.insert (r : AshRun) (g : Nat) (e : Ember) (key val : Nat) : AshRun :=
  match r.probe g e key 0 e.ashCap none with
  | (r, some (a, some old)) => r.write g a key (f32Add old val)
  | (r, some (a, none)) => r.write g a key val
  | (r, none) => if r.off then r else { r with fault := some fAshFull }

/-! ## The table (R584 to R586) -/

def Ember.entry (e : Ember) (b i : Nat) : Option (Nat × Nat) := mget none e.table (8 * b + i)
def Ember.set (e : Ember) (b i : Nat) (v : Option (Nat × Nat)) : Ember := { e with table := mset none e.table (8 * b + i) v }

/-- Bucket of a key. -/
def Ember.bucket (e : Ember) (key : Nat) : Nat := hashOnto 0x9E3779B1 (128 * e.blocks) key

/-- Entries `i` and on of a bucket move to the Ash region, in order (R586). -/
def spillFrom (g b : Nat) : Nat → Nat → AshRun → Ember → AshRun × Ember
  | 0, _, r, e => (r, e)
  | n + 1, i, r, e =>
    match e.entry b i with
    | none => spillFrom g b n (i + 1) r e
    | some (k, v) =>
      let q := r.insert g e k v
      if q.off then (q, e) else spillFrom g b n (i + 1) q (e.set b i none)

/-- One pair is applied (R585); a reserved key is not, and is counted (R583). -/
def applyPair (g wo : Nat) (r : AshRun) (e : Ember) (key val : Nat) : AshRun × Ember :=
  if r.off then (r, e)
  else if ashRemoved ≤ key then ({ r with s := r.s.updWo wo fun w => { w with sparseDrops := w.sparseDrops + 1 } }, e)
  else
    let b := e.bucket key
    let at' := (List.range 8).find? fun i => match e.entry b i with | some (k, _) => decide (k = key) | none => false
    match at' with
    | some i => (r, e.set b i (some (key, f32Add (match e.entry b i with | some (_, v) => v | none => 0) val)))
    | none =>
      match (List.range 8).find? fun i => (e.entry b i).isNone with
      | some i => (r, e.set b i (some (key, f32Add 0 val)))
      | none =>
        let q := spillFrom g b 8 0 r e
        if q.1.off then q else (q.1, q.2.set b 0 (some (key, f32Add 0 val)))

/-- Pairs in address order (R421, R422). -/
def applyPairs (g wo : Nat) : List (Nat × Nat) → AshRun → Ember → AshRun × Ember
  | [], r, e => (r, e)
  | (k, v) :: ps, r, e =>
    let q := applyPair g wo r e k v
    applyPairs g wo ps q.1 q.2

/-- The pairs that some bytes hold (R416). -/
def pairsAt (buf : Nat → Byte) (va : Nat) (m : Nat) : List (Nat × Nat) :=
  (List.range m).map fun i =>
    let at' (o : Nat) : Nat := leNat ((List.range 4).map fun j => buf (va + 8 * i + o + j))
    (at' 0, at' 4)

/-- An Ash computation that must wait for a line asks for it, and is made again from its start later. -/
def State.askAsh (s : State) (g l : Nat) : State := (s.askLine (ashWaiter g) .devWrite l).unwait (ashWaiter g) l

/-- An instruction on the Stoker's Ember space, earlier than `seq`, has not finished (R424, R588). -/
def State.emberOut (s : State) (h k seq : Nat) : Bool :=
  s.accs.any fun a => a.by h k && decide (a.seq < seq) && (match a.kind with | .ember _ _ _ | .emberInit => true | _ => false)

/-- The pairs of an SPR.EMB or SPR.MERGE have come and are applied; none while it must wait. -/
def State.finishEmber (s : State) (a : Acc) (dst : Option Dst) (va m : Nat) : Option State :=
  let h := a.hearth
  let k := a.stoker
  if s.emberOut h k a.seq then none
  else
    match (s.stoker h k).ember, a.wo with
    | some e, some wo =>
      let q := applyPairs a.gal wo (pairsAt (byteAt a.buf) va m) { s := s } e
      match q.1.wait with
      | some _ => none
      | none =>
        let t := q.1.s.updStoker h k fun x => { x with ember := some q.2 }
        let t := match q.1.fault with
          | some code => t.faultWo wo code h k a.pc
          | none => match dst with | some d => t.deliver a d m | none => t
        some t
    | _, _ => some s

/-- The line that a waiting Ember operation asks for. -/
def State.emberLine (s : State) (a : Acc) (va m : Nat) : Option Nat :=
  match (s.stoker a.hearth a.stoker).ember, a.wo with
  | some e, some wo => (applyPairs a.gal wo (pairsAt (byteAt a.buf) va m) { s := s } e).1.wait
  | _, _ => none

/-! ## SPR.EMB, SPR.EMB.C, SPR.MERGE, SPR.DROPRD -/

/-- SPR.EMB with C = 0 (R421, R426). -/
def State.sprEmb (s : State) (h k : Nat) : State :=
  s.issue h k 0x12 1 (fun w => !bitAt (zSub w) 0) .reg (fun w _ => decide (zSub w = 0) && decide (zImm w = 0)) (fun _ => false)
    (fun w => [sDst (zA w), sDst (zB w)]) fun w _ t =>
      let y := s.stoker h k
      let va := (y.sreg (zA w)).toNat
      let m := (y.sreg (zB w)).toNat
      if y.ember.isNone || y.emberReleasing then .fault fFirebox
      else if m = 0 then .next (t.updStoker h k fun x => x.write (zDstReg w) 0)
      else
        match s.hobRange y.gal va (8 * m) with
        | some code => .fault code
        | none =>
          if va % 8 ≠ 0 then .fault fMisaligned
          else .next ((t.updStoker h k fun x => x.await (zDstReg w)).newAcc h k y.pc y.seq .memLoad
            (.ember (some (zDstReg w)) va m) (byteRuns va (8 * m)))

/-- SPR.EMB. -/
def execSprEmb (h : HearthId) (k : StokerId) (s : State) : Host.Outcome State Fault Refusal := .next (s.sprEmb h.val k.val)

/-- SPR.MERGE (R422, R426). -/
def State.sprMerge (s : State) (h k : Nat) : State :=
  s.issue h k 0x12 2 (fun _ => true) .none (fun w _ => decide (zSub w = 0) && decide (zImm w = 0)) (fun _ => false)
    (fun w => [sDst (zA w), sDst (zB w)]) fun w _ t =>
      let y := s.stoker h k
      let va := (y.sreg (zA w)).toNat
      let m := (y.sreg (zB w)).toNat
      if y.ember.isNone || y.emberReleasing then .fault fFirebox
      else if va % 8 ≠ 0 then .fault fMisaligned
      else if m = 0 then .next t
      else .next (t.newAcc h k y.pc y.seq .streamRead (.ember none va m) (byteRuns va (8 * m)))

/-- SPR.MERGE. -/
def execSprMerge (h : HearthId) (k : StokerId) (s : State) : Host.Outcome State Fault Refusal := .next (s.sprMerge h.val k.val)

/-- Ember blocks that no Stoker has claimed. -/
def Hearth.freeBlocks (x : Hearth) : Nat :=
  64 - x.stokers.foldl (fun n y => match y.2.ember with | some e => n + e.blocks | none => n) 0

/-- A Stoker takes Ember blocks, and its Ash region is emptied (R420, R588). -/
def State.claimEmber (s : State) (h k pc seq n base cap : Nat) : State :=
  let s := s.updStoker h k fun x => { x with ember := some { blocks := n, ashBase := base, ashCap := cap, pc := pc } }
  if cap = 0 then s
  else s.newAcc h k pc seq .ash .emberInit
    (writeRuns base (fullMask ((List.range cap).flatMap fun _ => natLe 4 ashEmpty ++ natLe 4 0)))

/-- SPR.EMB with C = 1: a claim, granted at once or queued, or with n = 0 its release (R420). -/
def State.sprEmbC (s : State) (h k : Nat) : State :=
  s.issue h k 0x12 1 (fun w => bitAt (zSub w) 0) .none (fun w _ => decide (zSub w = 1) && decide (zImm w ≤ 64)) (fun _ => false)
    (fun w => [sDst (zA w), sDst (zB w)]) fun w _ t =>
      let x := s.hearth h
      let y := x.stoker k
      let n := zImm w
      let base := (y.sreg (zA w)).toNat
      let cap := (y.sreg (zB w)).toNat
      if n = 0 then
        if s.emberOut h k y.seq then .next (t.updStoker h k fun z => { z with emberReleasing := z.ember.isSome })
        else .next (t.updStoker h k fun z => { z with ember := none })
      else if y.emberReleasing || x.claims.any fun c => decide (c.stoker = k) && c.ember then .hold
      else if y.ember.isSome then .fault fFirebox
      else if 2 ^ 32 ≤ cap then .fault fAshFull
      else if n ≤ x.freeBlocks && !x.claims.any fun c => c.ember then .next (t.claimEmber h k y.pc y.seq n base cap)
      else .queue (s.setHearth h { x with
        claims := x.claims ++ [{ stoker := k, ember := true, n := n, ashBase := base, ashCap := cap, pc := y.pc }] })

/-- SPR.EMB.C. -/
def execSprEmbC (h : HearthId) (k : StokerId) (s : State) : Host.Outcome State Fault Refusal := .next (s.sprEmbC h.val k.val)

/-- A waiting Ember claim is granted once its blocks are free. -/
def State.grantEmber (s : State) (h : Nat) (c : ClaimWait) : Option State :=
  if c.n ≤ (s.hearth h).freeBlocks then
    some (s.claimEmber h c.stoker c.pc (s.stoker h c.stoker).seq c.n c.ashBase c.ashCap)
  else none

/-- POSITION_CLAIM_GRANT. -/
def execPositionClaimGrant (h : HearthId) (s : State) : Host.Outcome State Fault Refusal :=
  .next (s.claimGrant h.val fun t c => t.grantEmber h.val c)

/-- SPR.DROPRD waits for the Stoker's earlier sparse GRT.MMs (R425). -/
def State.sprDroprd (s : State) (h k : Nat) : State :=
  s.issue h k 0x12 3 (fun _ => true) .reg
    (fun w _ => decide (zA w = 0) && decide (zB w = 0) && decide (zSub w = 0) && decide (zImm w = 0)) (fun _ => false)
    (fun _ => []) fun w _ t =>
      let y := s.stoker h k
      if (s.hearth h).chains.any fun c => decide (c.sparse ≠ .dense) && c.groups.any fun g => decide (g.stoker = k) then .hold
      else .next (t.updStoker h k fun x => x.write (zDstReg w) (BitVec.ofNat 64 y.dropped))

/-- SPR.DROPRD. -/
def execSprDroprd (h : HearthId) (k : StokerId) (s : State) : Host.Outcome State Fault Refusal := .next (s.sprDroprd h.val k.val)

end Sys2Proof.Machine
end

