-- ==== Sys2Proof/Machine/Flu.lean ====
section
/-! DEFINITION. The FLU class: drains of Firebox slots and of Ember entries (chapter 9, R466). -/

namespace Sys2Proof.Machine

/-! ## Conversion on drain (Table 10-4, R411, R412, R466) -/

/-- A drained accumulator, scaled and converted. -/
def drainValue (kind : SlotKind) (v : W32) (scale : Option W32) (f : Fmt) : Nat :=
  match scale with
  | some c =>
    let x := match kind with
      | .int => f32OfInt v.toInt
      | .fp => v.toNat
      | .zero => 0
    convert f (ofF32 (f32Mul x c.toNat))
  | none =>
    match kind with
    | .int => if f.isInt then satInt f v.toInt else convert f (numOfInt v.toInt)
    | .fp => convert f (ofF32 v.toNat)
    | .zero => convert f (.fin false 0 0)

/-! ## FLU.ST and FLU.ST.L (R409 to R415) -/

/-- FLU.ST and FLU.STE operations of the Stoker that have not completed (R415). -/
def State.fluOut (s : State) (h k : Nat) : Nat :=
  ((s.hearth h).flus.filter fun f => decide (f.stoker = k)).length
  + (s.accs.filter fun a => a.by h k && decide (a.kind = .fluWrite)).length

/-- FLU.ST and FLU.ST.L issue: the descriptor read starts, and the drain waits for the slots. -/
def State.fluSt (s : State) (h k op : Nat) : State :=
  let ext := zExt ((s.hearth h).word ((s.stoker h k).pc + 8))
  s.issue h k 0x11 op (fun _ => true) .none
    (fun w e => decide (zSub w < 4) && decide (zImm w < 1024) && (bitAt (zSub w) 1 || decide (zB w = 0))
      && (decide (op = 1) || extLegal e)) (fun _ => false)
    (fun w => [sDst (zA w)] ++ (if bitAt (zSub w) 1 then [sDst (zB w)] else []) ++ (if op = 1 then [] else extUses ext))
    fun w e t =>
      let x := s.hearth h
      let y := x.stoker k
      let va := (y.sreg (zA w)).toNat
      let n := bits (zImm w) 7 3 + 1
      match y.position (gJ w) with
      | none => .fault fFirebox
      | some p =>
        if va % 8 ≠ 0 then .fault fBadDescriptor
        else if 8 ≤ s.fluOut h k then .hold
        else
          let o : FluOp := {
            id := x.nextId, stoker := k, wo := y.wo, gal := y.gal, pc := y.pc, seq := y.seq, pos := p, slot := gF w, n := n
            clr := bitAt (zSub w) 0
            scale := if bitAt (zSub w) 1 then some ((y.sreg (zB w)).setWidth 32) else none
            lens := if op = 1 then [] else extLens y e }
          let t := t.updHearth h fun z =>
            let z := { z with flus := z.flus ++ [o], nextId := z.nextId + 1 }
            if o.clr then z.planSlots p o.slot (min 8 (o.slot + n)) .zero else z
          .next (t.newAcc h k y.pc y.seq .flueRead (.fluDesc o.id) (byteRuns va 128))

/-- FLU.ST. -/
def execFluSt (h : HearthId) (k : StokerId) (s : State) : Host.Outcome State Fault Refusal := .next (s.fluSt h.val k.val 1)

/-- FLU.ST.L. -/
def execFluStL (h : HearthId) (k : StokerId) (s : State) : Host.Outcome State Fault Refusal := .next (s.fluSt h.val k.val 0x20)

/-- Length of a drained walk, over the planned extents (R507). -/
def Desc.plannedLen (d : Desc) : Nat := product (d.walkExtents d.planned)

/-- A FLU.ST whose descriptor fails leaves nothing to drain: its work order has ended. -/
def State.dropFlu (s : State) (h id : Nat) : State :=
  s.updHearth h fun z => { z with flus := z.flus.filter fun e => decide (e.id ≠ id) }

/-- The descriptor of a FLU.ST has been read and is checked (R359, R362, R410, R411, R395's range). -/
def State.fluDescRead (s : State) (a : Acc) (op : Nat) (raw : List Byte) : State :=
  let h := a.hearth
  let fail (code : BitVec 8) : State := match a.wo with
    | some w => (s.faultWo w code h a.stoker a.pc).dropFlu h op
    | none => s
  match (s.hearth h).flus.find? fun f => decide (f.id = op) with
  | none => s
  | some f =>
    match parseDesc raw with
    | none => fail fBadDescriptor
    | some d =>
      if d.sfmt ≠ .none ∨ d.sparse ≠ .dense then fail fBadDescriptor
      else if !lensOk f.lens d.rank then fail fStreamState
      else if 8 < f.slot + f.n then fail fFirebox
      else if f.n * 1024 < d.plannedLen then fail fBadDescriptor
      else
        let s := if d.clamps f.lens then s.updWo f.wo fun x => { x with clamp := true } else s
        s.updHearth h fun z => { z with flus := z.flus.map fun e => if e.id = op then { e with desc := some d } else e }

/-- Drained value `n` of a FLU.ST: slot by slot, and row by row within a slot (R410). -/
def Hearth.drained (x : Hearth) (f : FluOp) (d : Desc) (n : Nat) : Nat :=
  let sl := mget {} x.slots (8 * f.pos + f.slot + n / 1024)
  drainValue sl.kind (mget 0 sl.vals (n % 1024)) f.scale d.fmt

/-- FLUE_DRAIN (R413 to R415, R499): the slots are read, the values converted and their pieces ready to go. -/
def State.flueDrain (s : State) (h id : Nat) (check : Option (CheckUnit × Verdict)) : State :=
  let x := s.hearth h
  match x.flus.find? fun f => decide (f.id = id) with
  | none => s
  | some f =>
    match f.desc with
    | none => s
    | some d =>
      if x.slotsBusy f.stoker f.pos f.slot (f.slot + f.n) f.seq 0 then s
      else
        let s := match check with
          | some (u, v) => s.judge u v h (4096 * (8 * f.pos + f.slot)) (some f.wo)
          | none => s
        if (match check with | some (_, .lasting) => true | _ => false) then s.dropFlu h id
        else
          let cut := d.cutWith f.lens
          let es := (List.range d.plannedLen).map fun n => (d.plannedElem cut n, x.drained f d n)
          let oob := (es.filter fun e => decide (e.1 = .outside)).length
          let s := s.updWo f.wo fun w => { w with oobDrops := w.oobDrops + oob }
          let s := (s.updHearth h fun z => if f.clr then z.zeroSlots f.pos f.slot (f.slot + f.n) else z).dropFlu h id
          let runs := writeElems d.fmt es
          let s := if runs.isEmpty then s else s.newAcc h f.stoker f.pc f.seq .flueWrite .fluWrite runs
          s.unbindHalted h f.stoker

/-- FLUE_DRAIN. -/
def execFlueDrain (h : HearthId) (op : Nat) (check : Option (CheckUnit × Verdict)) (s : State) : Host.Outcome State Fault Refusal :=
  .next (s.flueDrain h.val op check)

/-! ## FLU.STE (R416 to R418) -/

/-- The live slots of an Ash region: address, key and value. -/
def AshRun.scan (g : Nat) (e : Ember) : Nat → Nat → AshRun → List (Nat × Nat × Nat) → AshRun × List (Nat × Nat × Nat)
  | 0, _, r, acc => (r, acc)
  | n + 1, i, r, acc =>
    let a := e.ashBase + 8 * i
    let q := r.read g a
    if q.1.off then (q.1, acc)
    else AshRun.scan g e n (i + 1) q.1 (if ashRemoved ≤ q.2.1 then acc else acc ++ [(a, q.2.1, q.2.2)])

/-- Insertion of a key into an ascending list without repeats. -/
def insertKey (k : Nat) : List Nat → List Nat
  | [] => [k]
  | x :: xs => if k < x then k :: x :: xs else if k = x then x :: xs else x :: insertKey k xs

/-- The entries of an Ember space in ascending key order: Ash value plus table value (R416, R417). -/
def emberEntries (e : Ember) (ash : List (Nat × Nat × Nat)) : List (Nat × Nat) :=
  let table := e.table.filterMap fun c => c.2
  let keys := (table.map (fun c => c.1) ++ ash.map (fun c => c.2.1)).foldl (fun l k => insertKey k l) []
  keys.map fun k =>
    let t := (table.find? fun c => decide (c.1 = k)).map fun c => c.2
    let a := (ash.find? fun c => decide (c.2.1 = k)).map fun c => c.2.2
    (k, match a, t with
      | some x, some y => f32Add x y
      | some x, none => x
      | none, some y => y
      | none, none => 0)

/-- FLU.STE. -/
def State.fluSte (s : State) (h k : Nat) : State :=
  s.issue h k 0x11 2 (fun _ => true) .reg (fun w _ => decide (zSub w = 0) && decide (zImm w = 0)) (fun _ => false)
    (fun w => [sDst (zA w), sDst (zB w)]) fun w _ t =>
      let y := s.stoker h k
      let va := (y.sreg (zA w)).toNat
      if y.emberReleasing then .fault fFirebox
      else
        match y.ember with
        | none => .fault fFirebox
        | some e =>
          if va % 8 ≠ 0 then .fault fMisaligned
          else if 8 ≤ s.fluOut h k || s.emberOut h k y.seq then .hold
          else
            let q := AshRun.scan y.gal e e.ashCap 0 { s := s } []
            match q.1.wait, q.1.fault with
            | some l, _ => .queue (s.askAsh y.gal l)
            | none, some code => .fault code
            | none, none =>
              let out := (emberEntries e q.2).take (y.sreg (zB w)).toNat
              let gone (key : Nat) : Bool := out.any fun o => decide (o.1 = key)
              let r := q.2.foldl (fun (r : AshRun) c => if gone c.2.1 then r.write y.gal c.1 ashRemoved c.2.2 else r) { s := t }
              let e := { e with table := e.table.filter fun c => match c.2 with | some p => !gone p.1 | none => false }
              let t := r.s.updStoker h k fun x => { (x.write (zDstReg w) (BitVec.ofNat 64 out.length)) with ember := some e }
              if out.isEmpty then .next t
              else .next (t.newAcc h k y.pc y.seq .flueWrite .fluWrite
                (writeRuns va (fullMask (out.flatMap fun o => natLe 4 o.1 ++ natLe 4 o.2))))

/-- FLU.STE. -/
def execFluSte (h : HearthId) (k : StokerId) (s : State) : Host.Outcome State Fault Refusal := .next (s.fluSte h.val k.val)

end Sys2Proof.Machine
end

