-- ==== Sys2Proof/Machine/KeeperFam.lean ====
section
/-! DEFINITION. Keeper takes, gives and lease expiry, and the Ledger's host side (chapter 4). -/

namespace Sys2Proof.Machine

/-! ## The Keeper -/

def KeeperSlot.setLast (x : KeeperSlot) (p : Port) (r : TakeResult) : KeeperSlot :=
  match p with
  | .a => { x with lastA := r }
  | .b => { x with lastB := r }

def KeeperSlot.lastOf (x : KeeperSlot) : Port → TakeResult
  | .a => x.lastA
  | .b => x.lastB

/-- When a lease of `l` ms that starts now expires; a lease of 0 never does (R171). -/
def State.leaseEnd (s : State) (l : Nat) : Option Nat := if l = 0 then none else some (s.tb.elapsed + ms l)

/-- A write to KEEPER_TAKEn (R169, Table 4-10). -/
def State.keeperTake (s : State) (p : Port) (n : Nat) (token : BitVec 16) (lease : Nat) : State :=
  let x := s.slot n
  if 5 ≤ n ∧ n ≤ 15 then s.setSlot n (x.setLast p .refusedReserved)
  else if token = 0 then s.setSlot n (x.setLast p .badToken)
  else
    match x.holder with
    | none =>
      s.setSlot n ({ x with holder := some (p, token), gen := x.gen + 1, expiry := s.leaseEnd lease }.setLast p .granted)
    | some (q, t) =>
      if q = p ∧ t = token then s.setSlot n ({ x with expiry := s.leaseEnd lease }.setLast p .granted)
      else s.setSlot n (x.setLast p .refusedHeld)

/-- A write to KEEPER_GIVEn (R170). -/
def State.keeperGive (s : State) (p : Port) (n : Nat) (token : BitVec 16) : State :=
  let x := s.slot n
  if x.holder = some (p, token) then
    s.setSlot n ({ x with holder := none, broken := false, expiry := none }.setLast p .granted)
  else s.setSlot n (x.setLast p .badToken)

/-- KEEPER_OWNERn as a port reads it (Table 4-11). -/
def State.keeperOwner (s : State) (p : Port) (n : Nat) : Nat :=
  let x := s.slot n
  let last := match x.lastOf p with
    | .granted => 0 | .refusedHeld => 1 | .refusedReserved => 2 | .badToken => 3
  let remain := match x.expiry with
    | some e => (e - s.tb.elapsed) / ms 1 % 4096
    | none => 0
  let own := match x.holder with
    | some (q, t) => portBit q * 2 ^ 18 + 2 ^ 17 + t.toNat
    | none => 0
  x.gen.toNat * 2 ^ 48 + remain * 2 ^ 32 + last * 2 ^ 20 + b2n x.broken * 2 ^ 19 + own

/-! ## LEDG_CFG -/

/-- A write that BAR0 takes once READY, and in RECOVERY too (R809, R812). -/
def State.whenReadyOrRecovery (s : State) (f : State → State) : State :=
  s.reached fun s => if s.dev.ready || s.dev.recovery then f s else s.earlyWrite

def State.ledgResult (s : State) (r : LedgResult) : State := { s with ledger := { s.ledger with result := r } }

/-- Lines that some port holds in S or E (LEDG_STATUS.HELD_LINES). -/
def State.heldLines (s : State) : Nat :=
  (s.ledger.lines.filter fun c => decide (c.2.a ≠ .i) || decide (c.2.b ≠ .i)).length

/-- A LEDG_CFG write (R182). -/
def State.ledgCfg (s : State) (p : Port) (v : Nat) : State :=
  let t := bits v 8 16
  let m := bits v 0 7
  if !s.holds p 0 then s.ledgResult .notOwner
  else if t < 100 ∨ 64 < m then s.ledgResult .range
  else if m ≠ s.ledger.exchMib ∧ s.heldLines ≠ 0 then s.ledgResult .linesHeld
  else { s with ledger := { s.ledger with snpTimeout := t, exchMib := m, result := .ok } }

/-! ## The host side of the Ledger (R153, R163, R185 to R196) -/

/-- A host CXL.mem request (R153, R187, R188). -/
def State.m2sRequest (s : State) (p : Port) (r : M2SReq) (v : Verdict) : State :=
  if s.exchBytes ≤ 64 * r.line then
    let s := { s with ledger := { s.ledger with outRange := satAdd 0xFFFFFFFF s.ledger.outRange 1 } }
    match r.op with
    | .write _ => s.send (.s2mCmp p r.line)
    | _ => s.send (.s2mData p r.line [] true)
  else
    let (t, ok) := s.tryHost (.m2s p r v)
    if ok then t.pumpLines [r.line] else t

/-- A BAR4 access (R163, R164). -/
def State.bar4Access (s : State) (p : Port) (write : Bool) (off : Nat) (data : List Byte) (be : List Bool) (vs : List Verdict) :
    State :=
  if s.pace.tripped then (if write then s else s.send (.completerAbort p))
  else if s.exchBytes < off + be.length then (if write then s.send (.aer p) else s.send (.unsupportedReq p))
  else
    let (t, ok) := s.tryHost (.bar4 p write off data be vs)
    if ok then t.pumpLines (linesOf off be.length) else t

def Line.lateOf (x : Line) : Port → Bool
  | .a => x.lateA
  | .b => x.lateB

def Line.setLate (x : Line) (p : Port) (v : Bool) : Line :=
  match p with
  | .a => { x with lateA := v }
  | .b => { x with lateB := v }

/-- A BIRsp from a port (R185, R189, R191, R196). -/
def State.biRsp (s : State) (p : Port) (l : Nat) (st : BiState) : State :=
  let x := s.line l
  if (x.snoopOf p).isSome then
    (s.setLine l (x.setHold p (match st with | .i => .i | .s => .s))).resolveSnoop l p
  else if x.lateOf p then
    { s.setLine l (x.setLate p false) with ledger :=
        { (s.setLine l (x.setLate p false)).ledger with lateRsp := satAdd 65535 s.ledger.lateRsp 1 } }
  else s

/-- An eviction or write-back resolves the port's snoop of the line, if one is unresolved (R189). -/
def State.crossSnoop (s : State) (p : Port) (l : Nat) : State :=
  if ((s.line l).snoopOf p).isSome then
    let s := s.setLine l ((s.line l).setLate p true)
    State.resolveSnoop { s with ledger := { s.ledger with crossed := satAdd 65535 s.ledger.crossed 1 } } l p
  else s

/-- A clean eviction (R185, R196). -/
def State.cleanEvict (s : State) (p : Port) (l : Nat) : State :=
  (s.setLine l ((s.line l).setHold p .i)).crossSnoop p l

/-- A dirty write-back (R190, R196): written unless the grant was already withdrawn. -/
def State.dirtyWriteBack (s : State) (p : Port) (l : Nat) (data : List Byte) : State :=
  if (s.line l).holdOf p = .i then s.send (.s2mCmp p l)
  else
    let s := s.putExch (64 * l) (fullMask data)
    ((s.setLine l ((s.line l).setHold p .i)).crossSnoop p l).send (.s2mCmp p l)

/-- One port's snoop of a line times out (R194). -/
def State.snoopExpire (s : State) (l : Nat) (p : Port) : State :=
  match (s.line l).snoopOf p with
  | none => s
  | some t =>
    if s.tb.elapsed < t + us s.ledger.snpTimeout then s
    else
      let x := s.line l
      let wasE := decide (x.holdOf p = .e)
      let s := s.setLine l { x.setHold p .i with poison := x.poison || wasE }
      let s := { s with ledger := { s.ledger with
        timeouts := satAdd 65535 s.ledger.timeouts 1, poisoned := satAdd 65535 s.ledger.poisoned (b2n wasE) } }
      let s := (s.raiseBoth 48).logFault { event := 0x22, cls := 0, unitKind := 12, a := b2n wasE, b := l }
      s.resolveSnoop l p

/-! ## The rows -/

/-- KEEPER_TAKE (R169). -/
def execKeeperTake (p : Port) (n : Fin 64) (token : BitVec 16) (lease : BitVec 12) (s : State) :
    Host.Outcome State Fault Refusal :=
  .next (s.reached fun s => s.keeperTake p n.val token lease.toNat)

/-- KEEPER_GIVE (R170). -/
def execKeeperGive (p : Port) (n : Fin 64) (token : BitVec 16) (s : State) : Host.Outcome State Fault Refusal :=
  .next (s.reached fun s => s.keeperGive p n.val token)

/-- KEEPER_LEASE_EXPIRY (R171). -/
def execKeeperLeaseExpiry (n : Fin 64) (s : State) : Host.Outcome State Fault Refusal :=
  .next (match (s.slot n.val).expiry with
    | none => s
    | some t => if s.tb.elapsed < t then s else s.breakSlot n.val 0)

/-- LEDG_CFG (R182). -/
def execLedgCfg (p : Port) (v : W32) (s : State) : Host.Outcome State Fault Refusal :=
  .next (s.whenReadyOrRecovery fun s => s.ledgCfg p v.toNat)

/-- M2S_REQUEST (R187). -/
def execM2sRequest (p : Port) (r : M2SReq) (v : Verdict) (s : State) : Host.Outcome State Fault Refusal :=
  .next (s.m2sRequest p r v)

/-- BAR4_ACCESS (R163, R164). -/
def execBar4Access (p : Port) (write : Bool) (off : Nat) (data : List Byte) (be : List Bool) (vs : List Verdict) (s : State) :
    Host.Outcome State Fault Refusal :=
  .next (s.bar4Access p write off data be vs)

/-- BIRSP (R189). -/
def execBirsp (p : Port) (l : Nat) (st : BiState) (s : State) : Host.Outcome State Fault Refusal := .next (s.biRsp p l st)

/-- MEMCLNEVCT (R185). -/
def execMemclnevct (p : Port) (l : Nat) (s : State) : Host.Outcome State Fault Refusal := .next (s.cleanEvict p l)

/-- DIRTY_WRITE_BACK (R190). -/
def execDirtyWriteBack (p : Port) (l : Nat) (data : List Byte) (s : State) : Host.Outcome State Fault Refusal :=
  .next (s.dirtyWriteBack p l data)

/-- BICONFLICT (R192): every earlier request's response has been sent, so the acknowledgement goes out. -/
def execBiconflict (p : Port) (l : Nat) (s : State) : Host.Outcome State Fault Refusal := .next (s.send (.biConflictAck p l))

/-- SNOOP_TIMEOUT (R194). -/
def execSnoopTimeout (l : Nat) (s : State) : Host.Outcome State Fault Refusal :=
  .next ((s.snoopExpire l .a).snoopExpire l .b)

end Sys2Proof.Machine
end

