-- ==== Sys2Proof/Machine/CatFam.lean ====
section
/-! DEFINITION. The CAT_ window: loading segment entries and presence bits (chapter 5). -/

namespace Sys2Proof.Machine

def State.cat (s : State) (g : Nat) : Catalogue := (s.gal g).cat
def State.setCat (s : State) (g : Nat) (c : Catalogue) : State := s.setGal g { s.gal g with cat := c }
def State.catResult (s : State) (g : Nat) (r : CatResult) : State := s.setCat g { s.cat g with result := r }

/-- The judgement of R215: WRONG_PORT, then BAD_STATE. -/
def State.catHome (s : State) (p : Port) (g : Nat) (f : State → State) : State :=
  let x := s.gal g
  if x.home ≠ p then s.catResult g .wrongPort
  else if x.st = .vacant ∨ x.st = .resetting then s.catResult g .badState
  else f s

/-- R215 and then R216's BUSY. -/
def State.catJudge (s : State) (p : Port) (g : Nat) (f : State → State) : State :=
  s.catHome p g fun s => if (s.cat g).busy then s.catResult g .busy else f s

/-- A CAT_CMD that passed R215 and R216 records its SEG (R240). -/
def State.catCmd (s : State) (p : Port) (g : Nat) (seg : BitVec 8) (f : State → State) : State :=
  s.catJudge p g fun s => f (s.setCat g { s.cat g with lastSeg := seg })

/-! ## Presence bits -/

/-- The presence bits of `n` pages from pool bit `lo` on. -/
def presMask (lo n : Nat) : Nat := (2 ^ n - 1) <<< lo

/-- Presence bits set or cleared in the pool. -/
def setPres (pool lo n : Nat) (v : Bool) : Nat :=
  if v then pool ||| presMask lo n else (pool ||| presMask lo n) ^^^ presMask lo n

/-- The pieces of the gallery translated under a segment. -/
def State.piecesUnder (s : State) (g seg : Nat) (page : Nat → Bool) : List Nat :=
  (s.pieces.filter fun x =>
    decide (x.gal = g) && decide (x.seg = some seg) && page ((x.va - ((s.cat g).seg seg).vbase) / 65536)).map fun x => x.id

/-- The change is accepted and drains (R219): RESULT waits for its end. -/
def State.drain (s : State) (g : Nat) (ids : List Nat) : State :=
  s.setCat g { s.cat g with busy := true, draining := ids }

/-! ## CAT_CMD -/

/-- Reserved bits of the staged entry are zero (Table 5-3). -/
def reservedZero (e0 e1 e2 e3 : Nat) : Bool :=
  decide (bits e0 52 4 = 0) && decide (bits e0 0 16 = 0) && decide (bits e1 55 8 = 0) && decide (bits e1 35 5 = 0)
    && decide (bits e1 25 7 = 0) && decide (bits e2 0 16 = 0) && decide (e3 = 0)

/-- The staged entry as it would be stored: PRES_ALL reads back 0. -/
def Catalogue.staged (c : Catalogue) : Segment :=
  { w0 := c.e0, w1 := c.e1 &&& 0x7FFFFFFFFFFFFFFF, w2 := c.e2 }

/-- The checks of Table 5-5, in order: the first that fails. -/
def Catalogue.writeCheck (c : Catalogue) (seg : Nat) : Option CatResult :=
  let x := c.staged
  let others := c.segs.filter fun e => decide (e.1 ≠ seg) && e.2.valid
  if !(x.valid && reservedZero c.e0.toNat x.w1.toNat c.e2.toNat c.e3.toNat && decide (1 ≤ x.place) && decide (x.place ≤ 4)
      && decide (1 ≤ x.pages) && decide (x.pages ≤ 16777216) && (decide (x.bay = 0) || decide (x.place = placeFolio))) then
    some .badEntry
  else if hobAperture < x.vbase + x.bytes ∨ (others.any fun e =>
      decide (x.vbase < e.2.vbase + e.2.bytes) && decide (e.2.vbase < x.vbase + x.bytes)) then some .overlap
  else if c.poolSize < x.presOff + x.blocks ∨ (others.any fun e =>
      decide (x.presOff < e.2.presOff + e.2.blocks) && decide (e.2.presOff < x.presOff + x.blocks)) then some .pool
  else if (x.place = placeHost ∧ 2 ^ 64 < x.tbase + x.bytes)
      ∨ (x.place = placeShared ∧ (x.tbase < 0x20000 ∨ 0x10000000 < x.tbase + x.bytes))
      ∨ (x.place = placeExch ∧ 0x4000000 < x.tbase + x.bytes)
      ∨ (x.place = placeFolio ∧ 2 ^ 40 < x.tbase + x.bytes) then some .target
  else none

/-- CAT_CMD WRITE (R214, R219). -/
def State.catWrite (s : State) (g seg : Nat) : State :=
  let c := s.cat g
  match c.writeCheck seg with
  | some r => s.catResult g r
  | none =>
    let x := c.staged
    let old := s.piecesUnder g seg fun _ => true
    let s := { s with presence := setPres s.presence (c.presBase x) x.pages (bitAt c.e1.toNat 63) }
    (s.setCat g (c.setSeg seg x)).drain g old

/-- A command on a valid entry; otherwise NO_SEG (R240). -/
def State.onValid (s : State) (g seg : Nat) (f : State → Segment → State) : State :=
  let x := (s.cat g).seg seg
  if x.valid then f s x else s.catResult g .noSeg

/-- CAT_CMD INVALIDATE. -/
def State.invalidate (s : State) (g seg : Nat) : State :=
  s.onValid g seg fun s x =>
    let old := s.piecesUnder g seg fun _ => true
    (s.setCat g ((s.cat g).setSeg seg { x with w0 := x.w0 &&& 0x7FFFFFFFFFFFFFFF })).drain g old

/-- CAT_CMD READ (R240). -/
def State.catRead (s : State) (g seg : Nat) : State :=
  let x := (s.cat g).seg seg
  s.setCat g { s.cat g with e0 := x.w0, e1 := x.w1, e2 := x.w2, e3 := 0, result := .ok }

/-- CAT_CMD PRES_FILL. -/
def State.presFill (s : State) (g seg : Nat) : State :=
  s.onValid g seg fun s x =>
    State.catResult { s with presence := setPres s.presence ((s.cat g).presBase x) x.pages true } g .ok

/-- CAT_CMD PRES_EMPTY (R219). -/
def State.presEmpty (s : State) (g seg : Nat) : State :=
  s.onValid g seg fun s x =>
    let old := s.piecesUnder g seg fun _ => true
    State.drain { s with presence := setPres s.presence ((s.cat g).presBase x) x.pages false } g old

/-! ## The presence word and the pool (R212, R239) -/

/-- The pages of the selected presence word that lie below PAGES. -/
def Catalogue.wordPages (c : Catalogue) : Option (Segment × Nat × Nat) :=
  let x := c.seg c.selSeg.toNat
  let first := c.selWord.toNat * 64
  if x.valid ∧ first < x.pages then some (x, first, min 64 (x.pages - first)) else none

/-- CAT_PRES: the selected word (R239). -/
def State.presWord (s : State) (g : Nat) : Nat :=
  match (s.cat g).wordPages with
  | none => 0
  | some (x, first, n) => bits s.presence ((s.cat g).presBase x + first) n

/-- CAT_PRES_SET (R221, R239). -/
def State.presSet (s : State) (g : Nat) (v : Nat) : State :=
  match (s.cat g).wordPages with
  | none => s.catResult g .noSeg
  | some (x, first, n) =>
    State.catResult { s with presence := s.presence ||| (bits v 0 n <<< ((s.cat g).presBase x + first)) } g .ok

/-- CAT_PRES_CLR (R219, R239). -/
def State.presClr (s : State) (g : Nat) (v : Nat) : State :=
  match (s.cat g).wordPages with
  | none => s.catResult g .noSeg
  | some (x, first, n) =>
    let m := bits v 0 n
    if m = 0 then s.catResult g .ok
    else
      let old := s.piecesUnder g (s.cat g).selSeg.toNat fun page => decide (first ≤ page) && m.testBit (page - first)
      let mask := m <<< ((s.cat g).presBase x + first)
      State.drain { s with presence := (s.presence ||| mask) ^^^ mask } g old

/-- A CAT_POOL write, judged as R212 lays down. -/
def State.catPool (s : State) (p : Port) (g v : Nat) : State :=
  let x := s.gal g
  let base := bits v 0 15
  let size := bits v 32 16
  if !((x.st = .vacant ∨ x.st = .dormant) && s.holds p 0 && !(x.cat.segs.any fun e => e.2.valid)) then s.catResult g .locked
  else if x.cat.busy then s.catResult g .busy
  else if 32768 < base + size ∨ (s.gals.any fun e => decide (e.1 ≠ g) && decide (e.2.st ≠ .vacant)
      && decide (base < e.2.cat.poolBase + e.2.cat.poolSize) && decide (e.2.cat.poolBase < base + size)) then s.catResult g .pool
  else s.setCat g { x.cat with poolBase := base, poolSize := size, result := .ok }

/-- BUSY clears once every piece under the old state has finished (R219). -/
def State.drainDone (s : State) (g : Nat) : State :=
  let c := s.cat g
  if c.busy && !(s.pieces.any fun x => c.draining.contains x.id) then
    s.setCat g { c with busy := false, result := .ok, draining := [] }
  else s

/-- A CAT_ENTRYk write, and a CAT_PRES_SEL write (R215, R216). -/
def State.catEntry (s : State) (p : Port) (g k : Nat) (v : W64) : State :=
  s.catJudge p g fun s =>
    let c := { s.cat g with result := .ok }
    s.setCat g (if k = 0 then { c with e0 := v } else if k = 1 then { c with e1 := v }
      else if k = 2 then { c with e2 := v } else { c with e3 := v })

def State.catPresSel (s : State) (p : Port) (g v : Nat) : State :=
  s.catHome p g fun s =>
    s.setCat g { s.cat g with selSeg := BitVec.ofNat 8 (v / 2 ^ 24), selWord := BitVec.ofNat 18 v, result := .ok }

/-! ## The rows -/

/-- CAT_WRITE (R213, R214). -/
def execCatWrite (p : Port) (g : GalleryId) (seg : BitVec 8) (s : State) : Host.Outcome State Fault Refusal :=
  .next (s.whenReady fun s => s.catCmd p g.val seg fun s => s.catWrite g.val seg.toNat)

/-- INVALIDATE (R213). -/
def execInvalidate (p : Port) (g : GalleryId) (seg : BitVec 8) (s : State) : Host.Outcome State Fault Refusal :=
  .next (s.whenReady fun s => s.catCmd p g.val seg fun s => s.invalidate g.val seg.toNat)

/-- CAT_READ (R213). -/
def execCatRead (p : Port) (g : GalleryId) (seg : BitVec 8) (s : State) : Host.Outcome State Fault Refusal :=
  .next (s.whenReady fun s => s.catCmd p g.val seg fun s => s.catRead g.val seg.toNat)

/-- PRES_FILL (R213). -/
def execPresFill (p : Port) (g : GalleryId) (seg : BitVec 8) (s : State) : Host.Outcome State Fault Refusal :=
  .next (s.whenReady fun s => s.catCmd p g.val seg fun s => s.presFill g.val seg.toNat)

/-- PRES_EMPTY (R219). -/
def execPresEmpty (p : Port) (g : GalleryId) (seg : BitVec 8) (s : State) : Host.Outcome State Fault Refusal :=
  .next (s.whenReady fun s => s.catCmd p g.val seg fun s => s.presEmpty g.val seg.toNat)

/-- CAT_PRES_SET (R221). -/
def execCatPresSet (p : Port) (g : GalleryId) (v : W64) (s : State) : Host.Outcome State Fault Refusal :=
  .next (s.whenReady fun s => s.catJudge p g.val fun s => s.presSet g.val v.toNat)

/-- CAT_PRES_CLR (R219). -/
def execCatPresClr (p : Port) (g : GalleryId) (v : W64) (s : State) : Host.Outcome State Fault Refusal :=
  .next (s.whenReady fun s => s.catJudge p g.val fun s => s.presClr g.val v.toNat)

/-- CAT_POOL (R212). -/
def execCatPool (p : Port) (g : GalleryId) (v : W64) (s : State) : Host.Outcome State Fault Refusal :=
  .next (s.whenReady fun s => s.catPool p g.val v.toNat)

/-- CAT_DRAIN_DONE (R219, R220). -/
def execCatDrainDone (g : GalleryId) (s : State) : Host.Outcome State Fault Refusal := .next (s.drainDone g.val)

end Sys2Proof.Machine
end

