-- ==== Sys2Proof/Machine/Doorbell.lean ====
section
/-! DEFINITION. The doorbell page: tails, pushes, heads, aborts and the fault queue head (chapter 3). -/

namespace Sys2Proof.Machine

/-! ## Drops (R110, R833) -/

def State.dropBad (s : State) (g : Nat) : State :=
  let x := s.gal g
  s.setGal g { x with badDoorbell := satAdd 65535 x.badDoorbell 1 }

def State.dropWrongPort (s : State) (g : Nat) : State :=
  let x := s.gal g
  s.setGal g { x with wrongPort := satAdd 65535 x.wrongPort 1 }

def State.dropNotOpen (s : State) (g : Nat) : State :=
  let x := s.gal g
  s.setGal g { x with notOpen := satAdd 65535 x.notOpen 1 }

def State.dropStale (s : State) (g : Nat) : State :=
  let x := s.gal g
  s.setGal g { x with staleResume := satAdd 65535 x.staleResume 1 }

/-- A doorbell-page write before READY is dropped and counted in DEV_EARLY.DOORBELLS (R812). -/
def State.earlyDoorbell (s : State) : State :=
  { s with dev := { s.dev with earlyDoorbells := satAdd 65535 s.dev.earlyDoorbells 1 } }

/-- A doorbell-page write: before READY, from the wrong port, in a state that does not accept it (R110). -/
def State.doorbell (s : State) (p : Port) (g : Nat) (accepts : GalSt → Bool) (f : State → State) : State :=
  if s.pace.tripped then s
  else if !s.dev.ready then s.earlyDoorbell
  else if (s.gal g).home ≠ p then s.dropWrongPort g
  else if accepts (s.gal g).st then f s
  else s.dropNotOpen g

/-- The states that accept tails and pushes; aborts and resumes; heads (R110). -/
def takesTail : GalSt → Bool | .opened => true | _ => false
def takesAbort : GalSt → Bool | .opened | .quiescing => true | _ => false
def takesHead : GalSt → Bool | .opened | .quiescing | .faulted => true | _ => false

/-- A queue whose ENABLE is 0 drops the write and counts it (R833). -/
def State.whenEnabled (s : State) (g q : Nat) (f : State → State) : State :=
  if ((s.gal g).queue q).enable then f s else s.dropBad g

/-! ## Tails, pushes and heads (R104 to R109) -/

/-- Entries outstanding on a queue. -/
def Queue.outstanding (q : Queue) : Nat := (q.tail - q.head).toNat

/-- Outstanding entries not yet fetched. -/
def Queue.unfetched (q : Queue) : Nat := (q.tail - q.fetched).toNat

/-- Outstanding entries not yet staged. -/
def Queue.unstaged (q : Queue) : Nat := q.unfetched - b2n q.staged.isSome

/-- A DB_SQ_TAILq write (R104, R105). -/
def State.sqTail (s : State) (g q : Nat) (t : BitVec 16) : State :=
  let x := (s.gal g).queue q
  if (t - x.head).toNat ≤ 64 ∧ (t - x.tail).toNat ≤ 64 then s.setQueue g q { x with tail := t } else s.dropBad g

/-- A DB_PUSHq write: one aligned 64 B write that leaves at most 64 entries outstanding (R106). -/
def State.push (s : State) (g q : Nat) (data : List Byte) : State :=
  let x := (s.gal g).queue q
  if data.length = 64 ∧ (x.tail + 1 - x.head).toNat ≤ 64 then
    s.setQueue g q { x with tail := x.tail + 1, pushed := mset [] x.pushed x.tail.toNat data }
  else s.dropBad g

/-- A DB_CQ_HEADq write (R108). -/
def State.cqHead (s : State) (g q : Nat) (h : BitVec 16) : State :=
  let x := (s.gal g).queue q
  if (h - x.head).toNat ≤ (x.written - x.head).toNat then
    s.setQueue g q { x with head := h, unread := x.unread.drop (h - x.head).toNat }
  else s.dropBad g

/-- A DB_FAULTQ_HEAD write (R109). -/
def State.faultqHead (s : State) (g : Nat) (h : BitVec 16) : State :=
  let x := s.gal g
  if (h - x.fqHead).toNat ≤ (x.fqWritten - x.fqHead).toNat then s.setGal g { x with fqHead := h } else s.dropBad g

/-! ## Aborts (R128 to R131) -/

/-- The TAG field of a submission entry (Table 3-7). -/
def entryTag (e : List Byte) : BitVec 16 := BitVec.ofNat 16 (bits (leNat (e.take 8)) 32 16)

/-- An abort that no fetched work order carries: held for the entries not yet fetched (R130). -/
def Queue.holdAbort (x : Queue) (t : BitVec 16) : Queue :=
  match x.staged with
  | some e =>
    if entryTag e = t then { x with abort := some (.queued, t), heldAbort := none, stagedAborted := true }
    else if x.unstaged = 0 then { x with abort := some (.notFound, t), heldAbort := none }
    else { x with abort := some (.queued, t), heldAbort := some (t, x.unstaged) }
  | none => { x with abort := some (.queued, t), heldAbort := some (t, x.unstaged) }

/-- A DB_ABORTq write resolves at once to one outcome of Table 3-11. -/
def State.dbAbort (s : State) (g q : Nat) (t : BitVec 16) : State :=
  let x := (s.gal g).queue q
  let mine := s.wos.filter fun w => decide (w.gal = g) && decide (w.queue = q) && decide (w.tag = t)
  match mine.find? fun w => w.decided.isNone with
  | some w => (s.setQueue g q { x with abort := some (.accepted, t) }).abortWo w.id 0x01
  | none =>
    if !mine.isEmpty || x.unread.contains t then s.setQueue g q { x with abort := some (.alreadyRetired, t) }
    else if x.unfetched = 0 then s.setQueue g q { x with abort := some (.notFound, t) }
    else s.setQueue g q (x.holdAbort t)

/-! ## The rows -/

/-- DB_SQ_TAIL (R104, R105, R107). -/
def execDbSqTail (p : Port) (g : GalleryId) (q : QueueId) (t : BitVec 16) (s : State) : Host.Outcome State Fault Refusal :=
  .next (s.doorbell p g.val takesTail fun s => s.whenEnabled g.val q.val fun s => s.sqTail g.val q.val t)

/-- DB_PUSH (R106, R107). -/
def execDbPush (p : Port) (g : GalleryId) (q : QueueId) (data : List Byte) (s : State) : Host.Outcome State Fault Refusal :=
  .next (s.doorbell p g.val takesTail fun s => s.whenEnabled g.val q.val fun s => s.push g.val q.val data)

/-- DB_CQ_HEAD (R108). -/
def execDbCqHead (p : Port) (g : GalleryId) (q : QueueId) (h : BitVec 16) (s : State) : Host.Outcome State Fault Refusal :=
  .next (s.doorbell p g.val takesHead fun s => s.whenEnabled g.val q.val fun s => s.cqHead g.val q.val h)

/-- DB_ABORT (R128). -/
def execDbAbort (p : Port) (g : GalleryId) (q : QueueId) (t : BitVec 16) (s : State) : Host.Outcome State Fault Refusal :=
  .next (s.doorbell p g.val takesAbort fun s => s.whenEnabled g.val q.val fun s => s.dbAbort g.val q.val t)

/-- DB_FAULTQ_HEAD (R109). -/
def execDbFaultqHead (p : Port) (g : GalleryId) (h : BitVec 16) (s : State) : Host.Outcome State Fault Refusal :=
  .next (s.doorbell p g.val takesHead fun s => s.faultqHead g.val h)

end Sys2Proof.Machine
end

