-- ==== Sys2Proof/Machine/Queue.lean ====
section
/-! DEFINITION. Staging, fetching and refusing submission entries, QFENCE, and the writing of completion and fault
records (chapter 3). -/

namespace Sys2Proof.Machine

/-! ## The submission entry (Table 3-7) -/

/-- The eight 64-bit words of an entry. -/
def entryWord (e : List Byte) (i : Nat) : Nat := leNat ((e.drop (8 * i)).take 8)

def entryOpcode (e : List Byte) : Nat := bits (entryWord e 0) 0 8
def entryPriority (e : List Byte) : Nat := bits (entryWord e 0) 16 2
def entryHearths (e : List Byte) : Nat := bits (entryWord e 2) 0 48

/-- The opcodes of Table 3-7. -/
def opRun : Nat := 1
def opPlace : Nat := 2
def opQfence : Nat := 3
def opStoveLoad : Nat := 4

/-- Check 2 of Table 3-8: reserved bits are zero, each field is in the range its opcode gives, and every field given
only for other opcodes is zero. -/
def entryWellFormed (e : List Byte) : Bool :=
  let w0 := entryWord e 0
  let w1 := entryWord e 1
  let w2 := entryWord e 2
  let w3 := entryWord e 3
  let op := bits w0 0 8
  let run := decide (op = opRun)
  let place := decide (op = opPlace)
  let qf := decide (op = opQfence)
  let stv := decide (op = opStoveLoad)
  let off := bits w1 0 18
  let len := bits w1 32 32
  decide (bits w0 12 4 = 0) && decide (bits w0 18 6 = 0) && decide (bits w1 18 14 = 0) && decide (bits w2 48 16 = 0)
    && decide (bits w3 52 12 = 0) && decide (entryWord e 4 = 0) && decide (entryWord e 5 = 0) && decide (entryWord e 6 = 0)
    && decide (entryWord e 7 = 0)
    && (run || decide (bits w0 8 2 = 0)) && (!bitAt w0 9 || bitAt w0 8) && (qf || !bitAt w0 11)
    && (if run then decide (bits w0 24 8 ≤ 64) else decide (bits w0 24 8 = 0))
    && (run || place || decide (bits w0 48 16 = 0))
    && (if run || place then decide (off % 8 = 0) else decide (off = 0))
    && (if place then decide (len % 8 = 0) && decide (8 ≤ len) && decide (len ≤ 262144)
        else if stv then decide (len % 8 = 0) && decide (8 ≤ len) && decide (len ≤ 98304) else decide (len = 0))
    && (if qf then decide (bits w2 0 48 = 0) else decide (bits w2 0 48 ≠ 0))
    && (if run then decide (bits w3 0 52 % 8 = 0)
        else if qf then decide (bits w3 0 52 = 0) else decide (bits w3 0 52 % 64 = 0))

/-- The work order that an entry spells, as it stands when it is fetched. -/
def entryWo (id g q : Nat) (e : List Byte) : WorkOrder :=
  let w0 := entryWord e 0
  let w1 := entryWord e 1
  { id := id, gal := g, queue := q
    opcode := BitVec.ofNat 8 w0
    kindle := bitAt w0 8
    cobatch := bitAt w0 9
    notify := bitAt w0 10
    allQueues := bitAt w0 11
    priority := BitVec.ofNat 2 (bits w0 16 2)
    argCount := bits w0 24 8
    tag := entryTag e
    program := BitVec.ofNat 16 (bits w0 48 16)
    offset := bits w1 0 18
    length := bits w1 32 32
    hearths := BitVec.ofNat 48 (entryHearths e)
    argAddr := bits (entryWord e 3) 0 52 }

/-- The Hearths of a set. -/
def hearthsOf (m : BitVec 48) : List Nat := (List.range 48).filter fun h => hbit m h

/-! ## The program directory (R279 to R288) -/

def Hearth.prog (x : Hearth) (j : Nat) : Prog := mget {} x.progs j
def Hearth.setProg (x : Hearth) (j : Nat) (p : Prog) : Hearth := { x with progs := mset {} x.progs j p }

/-- The gallery's PLACED program with an identifier on a Hearth. -/
def Hearth.placed (x : Hearth) (g : Nat) (program : BitVec 16) : Option Prog :=
  (x.progs.find? fun e => decide (e.2.st = .placed) && decide (e.2.gal = g) && decide (e.2.program = program)).map fun e => e.2

/-- The gallery owns every granule of the range (R280). -/
def Hearth.ownsRange (x : Hearth) (g off len : Nat) : Bool :=
  (List.range ((off + len - 1) / 1024 - off / 1024 + 1)).all fun i => mget (false, 0) x.psMap (off / 1024 + i) = (true, g)

/-- A program overlaps the range. -/
def Prog.overlaps (p : Prog) (off len : Nat) : Bool :=
  decide (p.st ≠ .empty) && decide (p.base < off + len) && decide (off < p.base + p.length)

/-- On fetching a PLACE: conflicting programs become REMOVING and the destination entry LOADING (R283). -/
def Hearth.markPlace (x : Hearth) (w : WorkOrder) : Hearth :=
  let j := w.offset / 1024
  let x := { x with progs := mmap {} (fun i (p : Prog) =>
      if p.gal = w.gal ∧ p.st ≠ ProgSt.empty ∧ (p.program = w.program ∨ p.overlaps w.offset w.length ∨ i = j)
      then { p with st := ProgSt.removing } else p) x.progs }
  { x with loading := mset none x.loading j (some w.id) }

/-! ## Refusal (Table 3-8) -/

/-- The first check of Table 3-8 that fails, as its REASON. -/
def State.refusal (s : State) (g q : Nat) (e : List Byte) : Option (BitVec 8) :=
  let op := entryOpcode e
  let w := entryWo 0 g q e
  let hs := hearthsOf w.hearths
  if op ≠ opRun ∧ op ≠ opPlace ∧ op ≠ opQfence ∧ op ≠ opStoveLoad then some 0x10
  else if !entryWellFormed e then some 0x11
  else if (s.wos.any fun v => decide (v.gal = g) && decide (v.queue = q) && decide (v.tag = w.tag))
      || ((s.gal g).queue q).unread.contains w.tag then some 0x16
  else if w.hearths &&& ~~~(s.gal g).hearths ≠ 0 then some 0x12
  else if hs.any fun h => (s.hearth h).fenced then some 0x13
  else if hs.any fun h => hbit s.pace.park h then some 0x14
  else if op = opRun ∧ (hs.any fun h =>
      match (s.hearth h).placed g w.program with
      | some p => decide (p.length ≤ w.offset)
      | none => true) then some 0x15
  else if op = opPlace ∧ (262144 < w.offset + w.length ∨ (hs.any fun h => !(s.hearth h).ownsRange g w.offset w.length)) then
    some 0x17
  else none

/-! ## Staging (R130, R834) -/

/-- The gallery fetches entries (Table 3-1). -/
def GalSt.fetches : GalSt → Bool | .opened | .quiescing => true | _ => false

/-- An entry is in its slot; a held abort is compared with it (R130). -/
def Queue.stage (x : Queue) (e : List Byte) : Queue :=
  let x := { x with staged := some e, stagedAborted := false, pushed := mset [] x.pushed x.fetched.toNat [] }
  match x.heldAbort with
  | none => x
  | some (t, n) =>
    if entryTag e = t then { x with heldAbort := none, stagedAborted := true }
    else if n ≤ 1 then
      { x with heldAbort := none, abort := if x.abort = some (.queued, t) then some (.notFound, t) else x.abort }
    else { x with heldAbort := some (t, n - 1) }

/-- An entry is staged from the Shared Store. A lost line gives no data, and the read fails (R721, R834). -/
def State.stageShared (s : State) (g q off : Nat) : State :=
  if s.sharedLost off 64 then s.galleryFault g .sqFetch 1
  else s.setQueue g q (((s.gal g).queue q).stage (bytesAt s.shared off 64))

/-- The queue front end reads the next unfetched entry into the staging slot (R834). A read that fails, one of a poisoned
or lost line among them, faults the gallery (R123); a read whose port or line is not available yet waits. -/
def State.entryStage (s : State) (g q : Nat) (ans : HostAnswer) (v : Verdict) : State :=
  let x := (s.gal g).queue q
  let w : Waiter := .front g q
  if !(s.gal g).st.fetches || x.staged.isSome || decide (x.fetched = x.tail) then s
  else
    match mget [] x.pushed x.fetched.toNat with
    | b :: bs => s.setQueue g q (x.stage (b :: bs))
    | [] =>
      let va := x.sqBase.toNat + 64 * (x.fetched.toNat % 64)
      match s.check g .ringFetch va with
      | .fails _ => (s.countProt g).galleryFault g .sqFetch 1
      | .absent _ => (s.countAbsent g).galleryFault g .sqFetch 1
      | .ok (.host _) _ =>
        if !(s.port (s.gal g).home).usable then s
        else
          match ans with
          | .data bs => s.setQueue g q (x.stage bs)
          | .failed => (s.countHostFail (s.gal g).home).galleryFault g .sqFetch 1
      | .ok (.shared off) _ => (s.judgeLine v off).stageShared g q off
      | .ok (.exchange off) _ =>
        let (t, ok) := s.askLines w .devRead (linesOf off 64)
        if !ok then t
        else if t.exchPoisoned off 64 then (t.galleryFault g .sqFetch 1).pumpLines (linesOf off 64)
        else ((t.judgeLine v (t.exchStart + off)).stageShared g q (t.exchStart + off)).pumpLines (linesOf off 64)
      | .ok _ _ => s

/-! ## Fetching (R115, R116) -/

/-- The staged entry's priority, for a queue that may be fetched from. -/
def State.stagedPriority (s : State) (g q : Nat) : Option Nat :=
  if (s.gal g).st.fetches then (((s.gal g).queue q).staged.map entryPriority) else none

/-- Galleries in the round-robin order that starts after the one served last. -/
def rrOrder (n last : Nat) : List Nat := (List.range n).map fun i => (last + 1 + i) % n

/-- The next staged entry to be fetched: the highest PRIORITY, round-robin over galleries and then over queues. -/
def State.nextFetch (s : State) : Option (Nat × Nat) :=
  let all := s.gals.flatMap fun e => (List.range 4).filterMap fun q => (s.stagedPriority e.1 q).map fun p => (e.1, q, p)
  let best := all.foldl (fun m c => max m c.2.2) 0
  let top := all.filter fun c => decide (c.2.2 = best)
  match (rrOrder 1024 s.rrGal).find? fun g => top.any fun c => decide (c.1 = g) with
  | none => none
  | some g =>
    ((rrOrder 4 (s.gal g).rrQueue).find? fun q => top.any fun c => decide (c.1 = g) && decide (c.2.1 = q)).map fun q => (g, q)

/-- A staged entry becomes a fetched work order: aborted by a held abort, refused, or in flight (R113, R130, R283). -/
def State.fetch (s : State) (g q : Nat) (e : List Byte) : State :=
  let x := s.gal g
  let y := x.queue q
  let refused := s.refusal g q e
  let w := entryWo s.nextWo g q e
  let s := s.setGal g { x.setQueue q { y with staged := none, stagedAborted := false, fetched := y.fetched + 1 } with rrQueue := q }
  let s := { s with rrGal := g, nextWo := s.nextWo + 1, wos := s.wos ++ [w] }
  if y.stagedAborted then s.commit w.id { status := .aborted, reason := 0x01 }
  else
    match refused with
    | some r => s.commit w.id { status := .refused, reason := r }
    | none =>
      if entryOpcode e = opPlace then
        (hearthsOf w.hearths).foldl (fun t h => t.setHearth h ((t.hearth h).markPlace w)) s
      else s

/-- ENTRY_FETCH (R115, R116). -/
def State.entryFetch (s : State) : State :=
  if 4096 ≤ s.wos.length then s
  else
    match s.nextFetch with
    | none => s
    | some (g, q) =>
      match ((s.gal g).queue q).staged with
      | none => s
      | some e => s.fetch g q e

/-! ## QFENCE (R118) -/

/-- The work orders that a QFENCE waits for are those fetched before it, of its queue or of its gallery. -/
def WorkOrder.fences (f w : WorkOrder) : Bool :=
  decide (f.gal = w.gal) && (f.allQueues || decide (f.queue = w.queue))

/-- An undecided earlier QFENCE holds the work order back. -/
def State.heldByQfence (s : State) (w : WorkOrder) : Bool :=
  s.wos.any fun f => decide (f.opcode.toNat = opQfence) && decide (f.id < w.id) && f.decided.isNone && f.fences w

/-- A QFENCE retires once every earlier record is written. -/
def State.qfenceRetire (s : State) (id : Nat) : State :=
  match s.wo? id with
  | none => s
  | some f =>
    if f.opcode.toNat ≠ opQfence ∨ f.decided.isSome ∨ (s.wos.any fun w => decide (w.id < f.id) && f.fences w) then s
    else s.commit id { status := .complete }

/-! ## Records (R122 to R125, R134, R135) -/

/-- What writing a front-end record came to. -/
inductive Wrote
  | done (s : State)
  /-- Its port or its line is not available yet. -/
  | waits (s : State)
  /-- A check of Table 5-8 failed. -/
  | failed (s : State)

/-- The queue front end writes 32 B at a gallery address. -/
def State.writeRecord (s : State) (g slot va : Nat) (bs : List Byte) : Wrote :=
  if s.pace.tripped then .waits s
  else
  match s.check g .recordWrite va with
  | .fails _ => .failed (s.countProt g)
  | .absent _ => .failed (s.countAbsent g)
  | .ok (.host addr) _ =>
    if (s.port (s.gal g).home).usable then .done (s.send (.hostWrite (s.gal g).home (s.gal g).pasid addr bs)) else .waits s
  | .ok (.shared off) _ => .done (s.putShared off (fullMask bs))
  | .ok (.exchange off) _ =>
    let (t, ok) := s.askLines (.front g slot) .devWrite (linesOf off bs.length)
    if ok then .done ((t.putExch off (fullMask bs)).pumpLines (linesOf off bs.length)) else .waits t
  | .ok _ _ => .failed s

/-- STATUS codes of Table 3-10. -/
def WoStatus.code : WoStatus → Nat
  | .complete => 0 | .completeWarn => 1 | .aborted => 2 | .faulted => 3 | .remap => 4 | .refused => 5

/-- PHASE of the n-th record of a ring of `size` slots: 1 on the first pass (R124). -/
def phaseOf (n size : Nat) : Bool := n / size % 2 = 0

/-- The 32 B completion record (Table 3-10). -/
def recordBytes (w : WorkOrder) (d : Decision) (phase : Bool) : List Byte :=
  let progress := if w.opcode.toNat = opQfence ∨ d.status = .refused then 0 else min 0xFFFFFFFF w.progress
  let w0 := w.tag.toNat + d.status.code * 2 ^ 16 + b2n d.clamp * 2 ^ 20 + b2n (decide (d.oob ≠ 0)) * 2 ^ 21
    + b2n (decide (d.sparse ≠ 0)) * 2 ^ 22 + b2n (!d.trusted) * 2 ^ 23 + d.reason.toNat * 2 ^ 24 + progress * 2 ^ 32
  let w1 := d.faultCode.toNat + d.hearth.toNat * 2 ^ 8 + d.stoker.toNat * 2 ^ 16 + d.pc.toNat * 2 ^ 32
  let w2 := min 0xFFFFFFFF d.oob + min 0xFFFFFFFF d.sparse * 2 ^ 32
  let w3 := d.time.toNat % 2 ^ 63 + b2n phase * 2 ^ 63
  natLe 8 w0 ++ natLe 8 w1 ++ natLe 8 w2 ++ natLe 8 w3

/-- The status that a retirement commits: COMPLETE_WARN when any warning is set (R126). -/
def WorkOrder.retireStatus (w : WorkOrder) : WoStatus :=
  if w.clamp || decide (w.oobDrops ≠ 0) || decide (w.sparseDrops ≠ 0) then .completeWarn else .complete

end Sys2Proof.Machine
end

