-- ==== Sys2Proof/Machine/Fenline.lean ====
section
/-! DEFINITION. The Fenline link: routes, sending, credits, replay, bring-up, epochs and the timebase agreement (chapter 17). -/

namespace Sys2Proof.Machine

/-! ## Parts of the state -/

def State.updFen (s : State) (f : FenState → FenState) : State := { s with fen := f s.fen }
def State.fenPort (s : State) (p : Nat) : FenPort := mget {} s.fen.ports p
def State.setFenPort (s : State) (p : Nat) (x : FenPort) : State := s.updFen fun f => { f with ports := mset {} f.ports p x }
def State.updFenPort (s : State) (p : Nat) (f : FenPort → FenPort) : State := s.setFenPort p (f (s.fenPort p))
def State.fenGal (s : State) (g : Nat) : FenGal := mget {} s.fen.gals g
def State.updFenGal (s : State) (g : Nat) (f : FenGal → FenGal) : State :=
  s.updFen fun x => { x with gals := mset {} x.gals g (f (mget {} x.gals g)) }
def State.updTx (s : State) (g i : Nat) (f : FenTx → FenTx) : State :=
  s.updFen fun x => { x with txs := x.txs.map fun t => if t.gal = g ∧ t.entry = i then f t else t }

/-- FEN_ROUTEd: primary and alternate; 7 for none. -/
def State.route (s : State) (d : Nat) : Nat × Nat := mget (7, 7) s.fen.routes d

/-- FEN_CFG_EPOCH.EPOCH (R686). -/
def State.cfgEpoch (s : State) : W32 := s.fen.pod ++ s.fen.boot

/-- The configuration epoch recorded for a device. -/
def State.epochOf (s : State) (d : Nat) : Option W32 := mget none s.fen.epochs d

def FenSt.isActive : FenSt → Bool | .active => true | _ => false
/-- The link carries flits. -/
def FenSt.carries : FenSt → Bool | .exchanging | .active | .quarantine => true | _ => false

/-! ## Routes (R681, R682, R688) -/

/-- The port that a flit for a device leaves on: the primary when ACTIVE, else the alternate when ACTIVE. -/
def State.outPort (s : State) (d : Nat) : Option Nat :=
  let r := s.route d
  if r.1 < 6 ∧ (s.fenPort r.1).st.isActive then some r.1
  else if r.2 < 6 ∧ (s.fenPort r.2).st.isActive then some r.2
  else none

/-- STATUS codes of Table 17-5. -/
def stDone : Nat := 1
def stMismatch : Nat := 2
def stUnreachable : Nat := 3
def stLocal : Nat := 4
def stRemote : Nat := 5
def stClosed : Nat := 6
def stBadRequest : Nat := 7
def stAborted : Nat := 8
def stLeft : Nat := 9

/-- Why a device cannot be reached now: PEER_MISMATCH behind a port in QUARANTINE, else UNREACHABLE; none when it can. -/
def State.unreachable (s : State) (d : Nat) : Option Nat :=
  match s.outPort d with
  | some _ => if (s.epochOf d).isNone then some stUnreachable else none
  | none =>
    let r := s.route d
    if (r.1 < 6 ∧ (s.fenPort r.1).st = .quarantine) ∨ (r.2 < 6 ∧ (s.fenPort r.2).st = .quarantine) then some stMismatch
    else some stUnreachable

/-! ## The link (R672 to R678) -/

/-- The virtual channel of a flit (Table 17-1). -/
def vcOf : FlitBody → Nat
  | .idle | .bringup _ | .timesync _ => 0
  | .putData _ _ _ | .getReq _ _ | .signal _ _ | .coll _ _ _ _ _ | .leave _ => 1
  | .getData _ | .xack _ => 2
  | .announce _ _ _ | .mgmt _ => 3

def FenPort.creditsOf (x : FenPort) : Nat → Nat | 1 => x.credits1 | 2 => x.credits2 | 3 => x.credits3 | _ => 0
def FenPort.addCredits (x : FenPort) (vc : Nat) (n : Int) : FenPort :=
  match vc with
  | 1 => { x with credits1 := (x.credits1 + n).toNat }
  | 2 => { x with credits2 := (x.credits2 + n).toNat }
  | 3 => { x with credits3 := (x.credits3 + n).toNat }
  | _ => x

/-- A flit of the VC may leave now. -/
def FenPort.maySend (x : FenPort) (vc : Nat) : Bool :=
  decide (vc = 0) || (decide (0 < x.creditsOf vc) && !x.xoff.getLsbD (vc - 1) && decide (x.unacked.length < 512))

/-- A flit leaves on a port. -/
def State.transmit (s : State) (p : Nat) (f : FlitOut) : State :=
  let x := s.fenPort p
  let x := x.addCredits (vcOf f.body) (-1)
  (s.setFenPort p { x with txSeq := x.txSeq + 1, unacked := x.unacked ++ [(x.txSeq, f, false)] }).send (.flit p x.txSeq f)

/-- The flits that wait at a port leave in order, each VC for itself. -/
def State.pumpPort (s : State) (p : Nat) : State :=
  let r := (s.fenPort p).waiting.foldl (fun (a : State × List FlitOut) f =>
    let vc := (vcOf f.body)
    if (a.1.fenPort p).maySend vc && !a.2.any fun g => decide (vcOf g.body = vc) then (a.1.transmit p f, a.2)
    else (a.1, a.2 ++ [f])) (s, [])
  r.1.updFenPort p fun x => { x with waiting := r.2 }

/-- A flit joins those that wait at its port. -/
def State.sendFlit (s : State) (p : Nat) (f : FlitOut) : State :=
  (s.updFenPort p fun x => { x with waiting := x.waiting ++ [f] }).pumpPort p

/-- A flit of this device for another: its header under R682 and R690. -/
def State.flitFor (s : State) (d tag g index : Nat) (body : FlitBody) : FlitOut :=
  { src := s.fen.devno, dst := d, hops := 15, srcEpoch := s.cfgEpoch, dstEpoch := (s.epochOf d).getD 0, xtag := tag
    gallery := g, index := index, body := body }

/-- A flit of this device is routed and sent; with no ACTIVE route it goes nowhere. -/
def State.sendTo (s : State) (d tag g index : Nat) (body : FlitBody) : State :=
  match s.outPort d with
  | some p => s.sendFlit p (s.flitFor d tag g index body)
  | none => s

/-- The link starts afresh: numbers, credits, the replay buffer and the receive buffer. -/
def FenPort.fresh (x : FenPort) : FenPort :=
  { x with
    txSeq := 0, rxSeq := 0, nakSent := false, credits1 := 64, credits2 := 64, credits3 := 64, xoff := 0, unacked := []
    waiting := [], inbox := [], stopping := 0, syncSent := 0, syncArrived := 0 }

/-! ## The end of transactions (R683, R692, R712) -/

/-- An entry that has not ended ends with a code. -/
def FenTx.finish (t : FenTx) (code : Nat) (kind : BitVec 8) : FenTx :=
  match t.phase with
  | .ended _ _ => t
  | _ => { t with phase := .ended code kind }

def FenTx.op (t : FenTx) : Nat := bits ((t.words[0]?).getD 0) 0 8
def FenTx.word (t : FenTx) (i : Nat) : Nat := (t.words[i]?).getD 0
/-- A collective, not a transfer. -/
def FenTx.isColl (t : FenTx) : Bool := decide (16 ≤ t.op)
/-- The devices of a collective's GROUP. -/
def FenTx.members (t : FenTx) : List Nat := (List.range 64).filter fun d => bitAt (t.word 4) d
def FenTx.collId (t : FenTx) : W32 := BitVec.ofNat 32 (t.word 5)

/-- Collectives end when a member cannot be reached any more. -/
def State.recheckColls (s : State) : State :=
  s.updFen fun x => { x with txs := x.txs.map fun t =>
    let live : Bool := t.isColl && decide (t.phase = .started)
    if live then
      match (t.members.filter fun d => decide (d ≠ x.devno)).findSome? fun d => s.unreachable d with
      | some c => t.finish c 0
      | none => t
    else t }

/-- An entry with flits outstanding on the port ends UNREACHABLE. -/
def FenTx.lose (t : FenTx) (p : Nat) : FenTx := if t.port = some p ∧ t.phase = .started then t.finish stUnreachable 0 else t

/-- A port leaves ACTIVE: transactions with flits outstanding on it end UNREACHABLE (R683). -/
def State.leavePort (s : State) (p : Nat) : State :=
  State.recheckColls (s.updFen fun x => { x with txs := x.txs.map fun t => t.lose p })

/-- The epoch recorded for a device; a change ends the transactions with it (R692, R694). -/
def State.recordEpoch (s : State) (d : Nat) (e : W32) : State :=
  let old := s.epochOf d
  let s := s.updFen fun x => { x with epochs := mset none x.epochs d (some e) }
  match old with
  | some o =>
    if o = e then s
    else s.updFen fun x => { x with txs := x.txs.map fun t =>
      if (!t.isColl && decide (t.peer = d)) || (t.isColl && t.members.contains d) then t.finish stUnreachable 0 else t }
  | none => s

/-! ## SKEW_HIGH (R696) -/

/-- Some ACTIVE port's clocks stand too far apart, or have not been measured. -/
def State.skewed (s : State) : Bool :=
  (List.range 6).any fun p =>
    let x := s.fenPort p
    x.st.isActive && (!x.skewValid || decide (320 < x.skewOffset.toInt.natAbs))

/-- SKEW_HIGH is set as soon as its condition holds, and cleared by a measurement alone. -/
def State.skewCheck (s : State) : State := if s.skewed then { s with tb := { s.tb with skewHigh := true } } else s

/-! ## Bring-up (R680, R684 to R689) -/

/-- This device in the topology of the running Accession. -/
def State.self? (s : State) : Option Member :=
  match s.acc.image with
  | some m => m.members.find? fun x => decide (x.unit = s.dev.unit.setWidth 64)
  | none => none

def State.memberOf (s : State) (devno : Nat) : Option Member :=
  match s.acc.image with
  | some m => m.members.find? fun x => decide (x.devno = devno)
  | none => none

/-- The checks of Table 17-3 on what is recorded of the peer: the MISMATCH bits. -/
def State.mismatch (s : State) (p : Nat) : BitVec 5 :=
  let x := s.fenPort p
  let hash := match s.acc.image with | some m => decide (m.hash = x.peerHash) | none => false
  let peerPod := x.peerEpoch.toNat / 65536
  let want := match s.self? with | some m => (m.ports[p]?).getD (255, 255) | none => (255, 255)
  let topo := s.fen.valid && decide (x.peerDevno.toNat < 128) && decide (want = (x.peerDevno.toNat, x.peerPort.toNat))
    && match s.memberOf x.peerDevno.toNat with | some m => decide (m.unit = x.peerUnit) | none => false
  BitVec.ofNat 5 (b2n (!hash) + b2n (decide (x.peerZhema ≠ 2)) * 2 + b2n (decide (peerPod ≠ s.fen.pod.toNat)) * 4
    + b2n (decide (peerPod = 0) || decide (s.fen.pod = 0)) * 8 + b2n (!topo) * 16)

/-- A port is judged after its exchange (R687, R689). -/
def State.judgePort (s : State) (p : Nat) : State :=
  let m := s.mismatch p
  let was := (s.fenPort p).st
  let s := s.updFenPort p fun x => { x with mismatch := m, st := if m = 0 then .active else .quarantine }
  let s := if m ≠ 0 ∧ was = .active then s.leavePort p else s.recheckColls
  s.skewCheck

/-- The values of this device's BRINGUP flit. -/
def State.ownBringup (s : State) (p : Nat) : Bringup :=
  { hash := match s.acc.image with | some m => m.hash | none => []
    zhema := 2, timeEpoch := s.tb.epoch, epoch := s.cfgEpoch, unit := s.dev.unit.setWidth 64
    devno := BitVec.ofNat 6 s.fen.devno, valid := s.fen.valid, port := BitVec.ofNat 8 p }

def State.sendBringup (s : State) (p : Nat) : State := s.sendFlit p { body := .bringup (s.ownBringup p) }

/-- A BRINGUP flit's values are recorded and checked. -/
def State.bringup (s : State) (p : Nat) (b : Bringup) : State :=
  let s := s.updFenPort p fun x => { x with
    peerHash := b.hash, peerZhema := b.zhema, peerTimeEpoch := b.timeEpoch, peerEpoch := b.epoch, peerUnit := b.unit
    peerDevno := BitVec.ofNat 8 (b.devno.toNat + (if b.valid then 0 else 128)), peerPort := b.port
    skewValid := x.skewValid && decide (x.peerTimeEpoch = b.timeEpoch) }
  let s := if b.valid then s.recordEpoch b.devno.toNat b.epoch else s
  s.judgePort p

/-- A port goes DOWN or FAILED (R678, R679, R817). -/
def State.portTo (s : State) (p : Nat) (st : FenSt) : State :=
  let was := (s.fenPort p).st
  let s := s.updFenPort p fun x => { x.fresh with st := st }
  if was = .active then s.leavePort p else s.recheckColls

/-- A replayed flit failed too: the port is FAILED (R678, R829). -/
def State.failPort (s : State) (p : Nat) : State :=
  let peer := (s.fenPort p).peerDevno.toNat
  ((s.portTo p .failed).countLasting).logFault { event := 0x18, cls := 2, unitKind := 7, unitIndex := p, a := peer }

/-! ## What a received header does (R673, R676, R677) -/

/-- SEQ numbers up to ACK. -/
def seqUpTo (n ack : BitVec 12) : Bool := decide ((ack - n).toNat < 2048)

/-- ACK, NAK, XOFF and credits of an accepted flit. -/
def State.linkFields (s : State) (p : Nat) (h : FlitHdr) : State :=
  let x := s.fenPort p
  let rest := x.unacked.filter fun u => !seqUpTo u.1 h.ack
  let s := s.setFenPort p
    { (x.addCredits h.crVc.toNat h.crCount.toNat) with
      xoff := h.xoff
      unacked := if h.nak then rest.map fun u => (u.1, u.2.1, true) else rest }
  let s := if h.nak then rest.foldl (fun t u => if u.2.2 then t else t.send (.flit p u.1 u.2.1)) s else s
  s.pumpPort p

/-- The receive buffer's XOFF bits (R676). -/
def State.xoffCheck (s : State) (p : Nat) : State :=
  let x := s.fenPort p
  let count (vc : Nat) : Nat := (x.inbox.filter fun f => decide (vcOf f.2 = vc)).length
  let bit (vc : Nat) : Bool := if 256 ≤ count vc then true else if count vc < 128 then false else x.stopping.getLsbD (vc - 1)
  let v := BitVec.ofNat 3 (b2n (bit 1) + 2 * b2n (bit 2) + 4 * b2n (bit 3))
  if v = x.stopping then s else (s.setFenPort p { x with stopping := v }).send (.fenXoff p v)

/-- R691. -/
def State.staleFlit (s : State) (h : FlitHdr) : Bool :=
  decide (h.dstEpoch ≠ s.cfgEpoch) || decide (s.epochOf h.src.val ≠ some h.srcEpoch)

def State.dropStale' (s : State) : State := s.updFen fun x => { x with stale := satAdd 0xFFFFFFFF x.stale 1 }

/-- A flit for another device is forwarded, or dropped (R682). -/
def State.forward (s : State) (h : FlitHdr) (body : FlitBody) : State :=
  let drop (s : State) : State := s.updFen fun x => { x with hopDrops := satAdd 0xFFFFFFFF x.hopDrops 1 }
  if h.hops.val ≤ 1 then drop s
  else
    match s.outPort h.dst.val with
    | none => drop s
    | some p =>
      s.sendFlit p { src := h.src.val, dst := h.dst.val, hops := h.hops.val - 1, srcEpoch := h.srcEpoch, dstEpoch := h.dstEpoch
                     xtag := h.xtag.toNat, gallery := h.gallery.val, index := h.index, body := body }

/-! ## The timebase agreement (R695) -/

/-- TIME in 1/16 ns. -/
def State.sixteenths (s : State) : Nat := s.tb.time.toNat / 4096

/-- A TIMESYNC flit: the offset is measured once both sides' times are known under one TIME_EPOCH. -/
def State.timesync (s : State) (p : Nat) (t : TimeSync) : State :=
  let x := s.fenPort p
  let now := s.sixteenths
  let same := decide (x.peerTimeEpoch = t.timeEpoch)
  let off : Int := (((t.peerArrived : Int) - t.peerSent) - ((now : Int) - t.sent)).tdiv 2
  let measured := same && decide (t.peerSent ≠ 0)
  let s := s.setFenPort p { x with
    peerTimeEpoch := t.timeEpoch, syncSent := t.sent, syncArrived := now
    skewValid := if measured then true else x.skewValid && same
    skewOffset := if measured then BitVec.ofInt 32 off else x.skewOffset }
  if measured then { s with tb := { s.tb with skewHigh := s.skewed } } else s.skewCheck

/-- TIMESYNC_TIMER. -/
def execTimesyncTimer (s : State) : Host.Outcome State Fault Refusal :=
  .next ((List.range 6).foldl (fun t p =>
    let x := t.fenPort p
    if x.st = .active ∨ x.st = .quarantine then
      t.sendFlit p { body := .timesync { sent := t.sixteenths, peerSent := x.syncSent, peerArrived := x.syncArrived, timeEpoch := t.tb.epoch } }
    else t) s)

/-! ## Epoch announcements (R693, R694) -/

/-- EPOCH_ANNOUNCE_TIMER. -/
def execEpochAnnounceTimer (s : State) : Host.Outcome State Fault Refusal :=
  .next ((List.range 64).foldl (fun t d =>
    let r := t.route d
    if d ≠ t.fen.devno ∧ (r.1 < 6 ∨ r.2 < 6) then
      match t.outPort d with
      | some p => t.sendFlit p { t.flitFor d 0 0 0 (.announce t.cfgEpoch (t.dev.unit.setWidth 64) (Fin.ofNat 64 t.fen.devno)) with dstEpoch := 0 }
      | none => t
    else t) s)

/-- An EPOCH_ANNOUNCE that has arrived. -/
def State.announced (s : State) (e : W32) (unit : W64) (d : Nat) : State :=
  match s.memberOf d with
  | some m => if m.unit = unit then s.recordEpoch d e else s.dropStale'
  | none => s.dropStale'

/-! ## Port events and FEN_ registers (R679, R685, R714, R715, R817) -/

/-- FENLINE_PORT_DOWN. -/
def execFenlinePortDown (p : FenPortId) (s : State) : Host.Outcome State Fault Refusal :=
  .next (if (s.fenPort p.val).st.carries then s.portTo p.val .down else s)

/-- FENLINE_TRAINED (R684, R685). -/
def execFenlineTrained (p : FenPortId) (s : State) : Host.Outcome State Fault Refusal :=
  .next (
    let x := s.fenPort p.val
    if (x.st = .down ∨ x.st = .training) ∧ x.connected ∧ !x.disable ∧ s.dev.bootStart + ms 250 ≤ s.tb.elapsed then
      (s.updFenPort p.val fun x => { x.fresh with st := .exchanging, trainings := satAdd 65535 x.trainings 1 }).sendBringup p.val
    else s)

def State.fenResult (s : State) (p : Nat) (r : FenResult) : State := s.updFenPort p fun x => { x with result := r }

/-- A FEN_CFG_EPOCH write (R686, R689, R714). -/
def State.fenCfgEpoch (s : State) (p : Port) (pod : BitVec 16) : State :=
  if !s.holds p 0 then s.fenResult 0 .notOwner
  else
    let s := s.fenResult 0 .ok
    if pod = s.fen.pod then s
    else
      let s := s.updFen fun x => { x with pod := pod }
      (List.range 6).foldl (fun t q =>
        if (t.fenPort q).st = .active ∨ (t.fenPort q).st = .quarantine then (t.sendBringup q).judgePort q else t) s

/-- FEN_CFG_EPOCH. -/
def execFenCfgEpoch (p : Port) (v : W32) (s : State) : Host.Outcome State Fault Refusal :=
  .next (s.whenReady fun s => s.fenCfgEpoch p (v.extractLsb' 16 16))

/-- A FEN_GALg write (R715). -/
def State.fenGalWrite (s : State) (p : Port) (g v : Nat) : State :=
  let st := (s.gal g).st
  let n := bits v 8 4
  if !s.holds p 0 ∨ !(st = .vacant ∨ st = .dormant) then s.fenResult 0 .locked
  else if n < 4 ∨ 10 < n then s.fenResult 0 .badValue
  else (s.updFenGal g fun x => { x with va := bits v 12 40 * 4096, log2n := n, accept := bitAt v 1, enable := bitAt v 0 }).fenResult 0 .ok

/-- FEN_GAL. -/
def execFenGal (p : Port) (g : GalleryId) (v : W64) (s : State) : Host.Outcome State Fault Refusal :=
  .next (s.whenReady fun s => s.fenGalWrite p g.val v.toNat)

/-- A Fenline port reset (R817). -/
def State.fenReset (s : State) (p : Nat) : State :=
  let s := s.portTo p .down
  let s := s.updFenPort p fun x => { x with
    peerUnit := 0, peerTimeEpoch := 0, peerZhema := 0, peerPort := 0, peerDevno := 0, peerEpoch := 0, peerHash := []
    mismatch := 0, skewValid := false, st := if x.disable || !x.connected then .disabled else .down }
  s.skewCheck

def State.fenCtrl (s : State) (p : Port) (q : Nat) (f : State → State) : State :=
  if !s.holds p 0 then s.fenResult q .notOwner else (f s).fenResult q .ok

/-- FEN_CTRL_RESET. -/
def execFenCtrlReset (p : Port) (q : FenPortId) (s : State) : Host.Outcome State Fault Refusal :=
  .next (s.whenReady fun s => s.fenCtrl p q.val fun s => s.fenReset q.val)

/-- FEN_CTRL.DISABLE set or cleared: the port is DISABLED while it is set, and goes DOWN and retrains once it clears. -/
def State.fenDisable (s : State) (q : Nat) (on : Bool) : State :=
  let x := s.fenPort q
  if on then (s.updFenPort q fun x => { x with disable := true }).portTo q .disabled
  else s.updFenPort q fun y => { y with disable := false, st := if x.st = .disabled ∧ x.connected then .down else x.st }

/-- FEN_CTRL_DISABLE. -/
def execFenCtrlDisable (p : Port) (q : FenPortId) (on : Bool) (s : State) : Host.Outcome State Fault Refusal :=
  .next (s.whenReady fun s => s.fenCtrl p q.val fun s => s.fenDisable q.val on)

/-- A FEN_ROUTEd write (R714, Table 17-7). -/
def State.fenRoute (s : State) (p : Port) (d v : Nat) : State :=
  if !s.holds p 0 then s.fenResult 0 .notOwner
  else if bits v 0 3 = 6 ∨ bits v 3 3 = 6 then s.fenResult 0 .badValue
  else ((s.updFen fun x => { x with routes := mset (7, 7) x.routes d (bits v 0 3, bits v 3 3) }).fenResult 0 .ok).recheckColls

end Sys2Proof.Machine
end

