-- ==== Sys2Proof/Machine/FenRing.lean ====
section
/-! DEFINITION. The Fenline engine: memory accesses, ring entries, transfers, collectives, and the flits that arrive
(chapter 17). -/

namespace Sys2Proof.Machine

/-! ## Memory accesses of the engine (R702, R706) -/

/-- The waiter of the engine's accesses to Exchange lines. -/
def fenWaiter : Waiter := .front 1025 0

/-- The first Exchange line that some runs may not use yet. -/
def State.fenBlocked (s : State) (g : Nat) (a : Agent) (rs : List Run) : Option Nat :=
  rs.findSome? fun r => match s.check g a r.va with
    | .ok (.exchange o) _ => (linesOf o r.len).find? fun l => !(s.line l).readyFor fenWaiter (if a.writes then .devWrite else .devRead)
    | _ => none

/-- The engine asks for a line and comes back later. -/
def State.askFen (s : State) (a : Agent) (l : Nat) : State :=
  (s.askLine fenWaiter (if a.writes then .devWrite else .devRead) l).unwait fenWaiter l

/-- One read: its bytes, or a fault code. -/
def State.fenGet (s : State) (g : Nat) (r : Run) : State × Except (BitVec 8) (List Byte) :=
  match s.check g .fenRead r.va with
  | .fails c => (s.countProt g, .error c)
  | .absent _ => (s.countAbsent g, .error fAbsent)
  | .ok (.shared o) _ => if s.sharedLost o r.len then (s, .error fEccLasting) else (s, .ok (bytesAt s.shared o r.len))
  | .ok (.exchange o) _ =>
    if s.exchPoisoned o r.len then (s, .error fPoisoned)
    else if s.sharedLost (s.exchStart + o) r.len then (s, .error fEccLasting)
    else (s.pumpLines (linesOf o r.len), .ok (bytesAt s.shared (s.exchStart + o) r.len))
  | .ok _ _ => (s, .error fPlaceAgent)

/-- One write, or the fault that prevents it. -/
def State.fenPut (s : State) (g : Nat) (r : Run) : State × Option (BitVec 8) :=
  match s.check g .fenWrite r.va with
  | .fails c => (s.countProt g, some c)
  | .absent _ => (s.countAbsent g, some fAbsent)
  | .ok (.shared o) _ => (s.putShared o r.wdata, none)
  | .ok (.exchange o) _ => ((s.putExch o r.wdata).pumpLines (linesOf o r.len), none)
  | .ok _ _ => (s, some fPlaceAgent)

/-- Reads in order up to the first that fails: what came, how many succeeded, and the fault. -/
def State.fenReads (s : State) (g : Nat) (rs : List Run) : State × Sparse Byte × Nat × Option (BitVec 8) :=
  rs.foldl (fun (a : State × Sparse Byte × Nat × Option (BitVec 8)) r =>
    match a.2.2.2 with
    | some _ => a
    | none =>
      match a.1.fenGet g r with
      | (t, .ok bs) => (t, putBytes a.2.1 r.va bs, a.2.2.1 + 1, none)
      | (t, .error c) => (t, a.2.1, a.2.2.1, some c)) (s, [], 0, none)

/-- Writes in order up to the first that fails. -/
def State.fenWrites (s : State) (g : Nat) (rs : List Run) : State × Option (BitVec 8) :=
  rs.foldl (fun (a : State × Option (BitVec 8)) r => match a.2 with
    | some _ => a
    | none => a.1.fenPut g r) (s, none)

/-! ## The ring (R698 to R703) -/

/-- The address of entry `i`'s slot. -/
def FenGal.slot (x : FenGal) (i : Nat) : Nat := x.va + 64 + 64 * (i % 2 ^ x.log2n)

/-- A ring access failed: the engine stops serving the ring (R703). -/
def State.ringFault (s : State) (g : Nat) (code : BitVec 8) : State :=
  (s.updFenGal g fun x => { x with fault := true }).logFault { event := 0x19, cls := 0, unitKind := 10, unitIndex := g, a := code.toNat }

/-- A gallery's state lets the engine serve its entries (R705). -/
def GalSt.serves : GalSt → Bool | .opened | .quiescing => true | _ => false

/-- An entry ends. -/
def State.endTx (s : State) (g i code : Nat) (kind : BitVec 8) : State := s.updTx g i fun t => t.finish code kind

/-! ## Transfers (R704 to R707) -/

/-- Reserved bits of an entry are zero and its fields are those of its OP (Table 17-4). -/
def FenTx.legal (t : FenTx) : Bool :=
  let w0 := t.word 0
  let op := t.op
  let red := decide (op = 0x12) || decide (op = 0x13)
  let coll := t.isColl
  decide (bits w0 16 16 = 0) && decide (bits w0 51 13 = 0) && (red || decide (bits w0 14 2 = 0)) && decide (bits w0 14 2 ≠ 3)
    && [0x01, 0x02, 0x03, 0x10, 0x11, 0x12, 0x13].contains op && (decide (op ≤ 0x10) || decide (bits w0 8 6 = 0))
    && decide (t.word 1 < 2 ^ 52) && decide (t.word 2 < 2 ^ 52) && (decide (op ≠ 3) || decide (t.word 2 = 0))
    && (if op = 3 then true else if coll then decide (t.word 3 < 2 ^ 52) else decide (t.word 3 = 0))
    && (!(decide (op = 0x10) || decide (op = 0x13)) || decide (t.word 3 = 0))
    && (coll || decide (t.word 4 = 0)) && (if op = 3 then decide (t.word 5 < 2 ^ 52) else if coll then decide (t.word 5 < 2 ^ 32) else decide (t.word 5 = 0))

/-- PEER, or the root of a BROADCAST. -/
def FenTx.peerField (t : FenTx) : Nat := bits (t.word 0) 8 6
def FenTx.redOp (t : FenTx) : Nat := bits (t.word 0) 14 2

/-- Both descriptors of a PUT or GET suit each other (R704). -/
def transferOk (l r : Desc) : Bool :=
  decide (l.fmt = r.fmt) && l.unscaled && r.unscaled && l.dense && r.dense && decide (l.walk = r.walk)

/-- The element classes of a descriptor's walk. -/
def Desc.classes (d : Desc) : List ElemClass := (List.range d.walk).map fun n => d.elem d.planned n

/-- How many leading elements have their bytes among the first `n` runs of reads. -/
def Desc.covered (d : Desc) (rs : List Run) : Nat :=
  (d.classes.takeWhile fun c => match c with
    | .inside a _ => rs.any fun r => decide (r.va ≤ a) && decide (a < r.va + r.len)
    | _ => true).length

/-- The first `n` elements of one walk written through another: its runs, and the drops. -/
def copyElems (src dst : Desc) (rd : Nat → Byte) (n : Nat) : List Run × Nat :=
  let es := (List.range n).map fun i => (dst.elem dst.planned i, src.get rd (src.coordAt i))
  (writeElems dst.fmt es, (es.filter fun e => decide (e.1 = .outside)).length)

/-- Runs cut to a flit's payload. -/
def flitRuns (rs : List Run) : List Run :=
  rs.flatMap fun r => (List.range ((r.len + 223) / 224)).map fun i =>
    { va := r.va + 224 * i, len := min 224 (r.len - 224 * i), wdata := (r.wdata.drop (224 * i)).take 224 }

/-- PUT: the local elements are read, and their bytes sent. -/
def State.startPut (s : State) (t : FenTx) (l r : Desc) : State :=
  let rs := l.readAll
  let (s, buf, n, bad) := s.fenReads t.gal rs
  let (runs, oob) := copyElems l r (byteAt buf) (l.covered (rs.take n))
  let out := flitRuns runs
  let s := s.updTx t.gal t.entry fun t => { t with local' := bad, oob := oob, port := s.outPort t.peer, phase := .started }
  let last := out.length - 1
  if out.isEmpty then s.sendTo t.peer t.tag t.gal 0 (.putData 0 [] true)
  else (out.mapIdx fun i x => (i, x)).foldl (fun a e =>
    a.sendTo t.peer t.tag t.gal e.1 (.putData e.2.va e.2.wdata (decide (e.1 = last)))) s

/-- GET: the requests go out. -/
def State.startGet (s : State) (t : FenTx) (r : Desc) : State :=
  let rs := flitRuns r.readAll
  let s := s.updTx t.gal t.entry fun t => { t with gets := rs, port := s.outPort t.peer, phase := .started }
  let rs' := if rs.isEmpty then [{ va := 0, len := 0 }] else rs
  (rs'.mapIdx fun i x => (i, x)).foldl (fun a e => a.sendTo t.peer t.tag t.gal e.1 (.getReq e.2.va e.2.len)) s

/-- A SIGNAL waits for earlier entries to its peer (R707). -/
def State.signalHeld (s : State) (t : FenTx) : Bool :=
  s.fen.txs.any fun u => decide (u.gal = t.gal) && decide (u.entry < t.entry)
    && (if u.isColl then u.members.contains t.peer else decide (u.peer = t.peer))

/-- The SIGNALs that may go now do. -/
def State.pumpSignals (s : State) (g : Nat) : State :=
  s.fen.txs.foldl (fun a t =>
    if t.gal = g ∧ t.phase = .held ∧ !a.signalHeld t then
      match a.unreachable t.peer with
      | some c => a.endTx g t.entry c 0
      | none =>
        (a.updTx g t.entry fun t => { t with phase := .started, port := a.outPort t.peer }).sendTo t.peer t.tag g 0
          (.signal (t.word 5) (BitVec.ofNat 64 (t.word 3)))
    else a) s

/-! ## Shards (R535 to R537) -/

/-- A dimension of a shard descriptor. -/
structure ShardDim where
  ext : Nat
  mode : Nat
  axis : Nat
  bsize : Nat

/-- A shard descriptor. -/
structure Shard where
  grid : List Nat
  dims : List ShardDim

/-- The 64 B of a shard descriptor, when R536 allows them. -/
def parseShard (b : List Byte) : Option Shard :=
  let w := leNat (b.take 8)
  let rank := bits w 0 3
  let axes := bits w 3 2
  let gs := [bits w 8 7, bits w 16 7, bits w 24 7]
  let dim (d : Nat) : Nat := leNat ((b.drop (8 + 8 * d)).take 8)
  let ds := (List.range rank).map fun d => ShardDim.mk (bits (dim d) 0 32) (bits (dim d) 32 2) (bits (dim d) 34 2) (bits (dim d) 40 24)
  let named : List Nat := (ds.filter fun d => decide (d.mode ≠ 0)).map fun d => d.axis
  let ok := decide (1 ≤ rank) && decide (rank ≤ 6) && decide (1 ≤ axes) && decide (bits w 5 3 = 0) && !bitAt w 15 && !bitAt w 23
    && decide (bits w 31 33 = 0) && gs.all (fun g => decide (1 ≤ g)) && decide (product gs ≤ 64)
    && (decide (2 ≤ axes) || decide (gs[1]? = some 1)) && (decide (3 ≤ axes) || decide (gs[2]? = some 1))
    && ((List.range 6).all fun d => decide (d < rank) || decide (dim d = 0)) && decide (leNat ((b.drop 56).take 8) = 0)
    && ((List.range rank).all fun d => decide (bits (dim d) 36 4 = 0))
    && (ds.all fun d => (if d.mode = 3 then decide (1 ≤ d.bsize) else decide (d.bsize = 0))
      && (if d.mode = 0 then decide (d.axis = 0) else decide (d.axis < axes)))
    && decide named.Nodup
  if ok then some { grid := gs, dims := ds } else none

/-- The extent of the dimension's axis. -/
def Shard.axisExt (x : Shard) (d : ShardDim) : Nat := (x.grid[d.axis]?).getD 1

/-- Owner and local index of a global index on a dimension (Table 12-9). -/
def Shard.place (x : Shard) (d : ShardDim) (i : Nat) : Nat × Nat :=
  let g := x.axisExt d
  match d.mode with
  | 1 => let b := (d.ext + g - 1) / g; (i / max b 1, i % max b 1)
  | 2 => (i % g, i / g)
  | 3 => (i / d.bsize % g, i / (d.bsize * g) * d.bsize + i % d.bsize)
  | _ => (0, i)

/-- The global index at a local index of coordinate `c`. -/
def Shard.global (x : Shard) (d : ShardDim) (c j : Nat) : Nat :=
  let g := x.axisExt d
  match d.mode with
  | 1 => c * ((d.ext + g - 1) / g) + j
  | 2 => j * g + c
  | 3 => j / d.bsize * (d.bsize * g) + c * d.bsize + j % d.bsize
  | _ => j

/-- The local extent at a coordinate. -/
def Shard.localExt (x : Shard) (d : ShardDim) (c : Nat) : Nat :=
  let g := x.axisExt d
  match d.mode with
  | 1 => let b := (d.ext + g - 1) / g; min b (d.ext - c * b)
  | 2 => (d.ext - c + g - 1) / g
  | 3 =>
    let f := d.ext / (d.bsize * g)
    f * d.bsize + min d.bsize (d.ext - f * d.bsize * g - c * d.bsize)
  | _ => d.ext

/-- The grid coordinates of a rank. -/
def Shard.coords (x : Shard) (r : Nat) : List Nat := digits r x.grid

/-- The coordinate of a rank on the axis of a dimension. -/
def Shard.coordOn (x : Shard) (r : Nat) (d : ShardDim) : Nat := ((x.coords r)[d.axis]?).getD 0

/-- The local extents of a rank's part. -/
def Shard.localExts (x : Shard) (r : Nat) : List Nat := x.dims.map fun d => x.localExt d (x.coordOn r d)

/-- The rank holds the element with these global coordinates, at these local ones. -/
def Shard.localOf (x : Shard) (r : Nat) (i : List Nat) : Option (List Nat) :=
  let ps := (x.dims.zip i).map fun c => (c.1, x.place c.1 c.2)
  if ps.all fun p => decide (p.1.mode = 0) || decide (p.2.1 = x.coordOn r p.1) then some (ps.map fun p => p.2.2) else none

/-- The number of an element among extents, dimension 0 first. -/
def linear : List Nat → List Nat → Nat
  | [], _ => 0
  | _, [] => 0
  | e :: es, i :: is => i + e * linear es is

/-! ## Collectives (R709 to R712) -/

/-- The number of a format in its encoding (Table 12-3). -/
def fmtCode : Fmt → Nat
  | .int4 => 0 | .uint4 => 1 | .int8 => 2 | .uint8 => 3 | .fp4 => 4 | .e4m3 => 5 | .e5m2 => 6 | .bf16 => 7 | .fp16 => 8
  | .fp32 => 9 | .int32 => 10

/-- What a member's flits say of the collective. -/
def FenTx.params (t : FenTx) (l r : Desc) (shard : List Byte) : CollParams :=
  { op := t.op, redOp := t.redOp, group := BitVec.ofNat 64 (t.word 4), fmt := fmtCode l.fmt * 16 + fmtCode r.fmt
    walkL := if t.op = 0x11 then 0 else l.walk
    walkR := if t.op = 0x12 then 0 else r.walk
    shard := shard }

/-- A format that reductions take (R711). -/
def Fmt.reducible : Fmt → Bool | .fp32 | .bf16 | .fp16 | .int32 => true | _ => false

/-- The descriptors of a collective suit it (R709 to R711). -/
def FenTx.collOk (t : FenTx) (self : Nat) (l r : Desc) (shard : Option Shard) (known : Nat → Bool) : Bool :=
  let ms := t.members
  let rank := (ms.filter fun d => decide (d < self)).length
  let shape := match shard, t.op with
    | some x, 0x11 => decide (product x.grid = ms.length) && decide (r.extents = x.dims.map fun d => d.ext) && decide (l.extents = x.localExts rank)
    | some x, 0x12 => decide (product x.grid = ms.length) && decide (l.extents = x.dims.map fun d => d.ext) && decide (r.extents = x.localExts rank)
    | none, 0x11 => false
    | none, 0x12 => false
    | _, _ => decide (l.walk = r.walk)
  ms.contains self && (ms.all known) && l.unscaled && r.unscaled && l.dense && r.dense && shape
    && (if t.op = 0x12 ∨ t.op = 0x13 then l.fmt.reducible && r.fmt.reducible && decide (l.fmt.isInt = r.fmt.isInt) else decide (l.fmt = r.fmt))
    && (decide (t.op ≠ 0x10) || decide (t.peerField < ms.length))

/-- The elements that a member contributes, by position: of its walk, or of its extents for the sharded operations. -/
def FenTx.contribution (t : FenTx) (l : Desc) (rd : Nat → Byte) : List Nat :=
  if t.op = 0x11 ∨ t.op = 0x12 then (gridCoords l.extents).map fun i => l.get rd i
  else (List.range l.walk).map fun n => l.get rd (l.coordAt n)

/-- The larger or smaller of two FP32 values under R711. -/
def redPick (larger : Bool) (a b : Nat) : Nat :=
  if f32IsNan a || f32IsNan b then 0x7FC00000
  else
    let x := ofF32 a
    let y := ofF32 b
    if x.isZero && y.isZero then (if larger then (if a = 0 then a else b) else (if a = 0 then b else a))
    else if x.lt y = larger then b else a

/-- Two values combined. -/
def combine (int : Bool) (redOp a b : Nat) : Nat :=
  match int, redOp with
  | true, 0 => (a + b) % 2 ^ 32
  | true, 1 => if signed 32 a < signed 32 b then b else a
  | true, _ => if signed 32 b < signed 32 a then b else a
  | false, 0 => f32Add a b
  | false, 1 => redPick true a b
  | false, _ => redPick false a b

/-- A value as it enters a reduction. -/
def redIn (f : Fmt) (x : Nat) : Nat := if f.isInt then x else toF32 (decodeElem f x)

/-- The reduction of one element over the members in rank order, in the format of the destination. -/
def reduceElems (src dst : Fmt) (redOp : Nat) (xs : List Nat) : Nat :=
  match xs.map (redIn src) with
  | [] => 0
  | y :: ys =>
    let v := ys.foldl (combine src.isInt redOp) y
    let v := if !src.isInt && redOp ≠ 0 && f32IsNan v then 0x7FC00000 else v
    drainValue (if src.isInt then .int else .fp) (BitVec.ofNat 32 v) none dst

/-- What a member writes, once it has every member's part in rank order. -/
def FenTx.collResult (t : FenTx) (self : Nat) (l r : Desc) (shard : Option Shard) (parts : List CollPart) : EngineOut :=
  let el (p : CollPart) (i : Nat) : Nat := (mget none p.elems i).getD 0
  let rank := (t.members.filter fun d => decide (d < self)).length
  match t.op, shard with
  | 0x10, _ => r.writeAll fun n _ => match parts[t.peerField]? with | some p => el p n | none => 0
  | 0x13, _ => r.writeAll fun n _ => reduceElems l.fmt r.fmt t.redOp (parts.map fun p => el p n)
  | 0x11, some x => r.writeAll fun _ i =>
      ((parts.mapIdx fun k p => (k, p)).findSome? fun e =>
        (x.localOf e.1 i).map fun j => el e.2 (linear (x.localExts e.1) j)).getD 0
  | 0x12, some x => r.writeAll fun _ j =>
      let i := ((x.dims.zip j).map fun c => x.global c.1 (x.coordOn rank c.1) c.2)
      reduceElems l.fmt r.fmt t.redOp (parts.map fun p => el p (linear (x.dims.map fun d => d.ext) i))
  | _, _ => {}

/-- A member's part as far as it has come. -/
def State.part? (s : State) (g : Nat) (id : W32) (d : Nat) : Option CollPart :=
  s.fen.parts.find? fun p => decide (p.gal = g) && decide (p.id = id) && decide (p.dev = d)

/-- Elements of a member's part arrive. -/
def State.addPart (s : State) (g : Nat) (id : W32) (d : Nat) (ps : CollParams) (first : Nat) (elems : List Nat) (last : Bool) : State :=
  let old := (s.part? g id d).getD { gal := g, id := id, dev := d, params := ps }
  let m := (elems.mapIdx fun i x => (i, x)).foldl (fun m e => mset none m (first + e.1) (some e.2)) old.elems
  let new := { old with elems := m, whole := old.whole || last }
  s.updFen fun x => { x with parts := (x.parts.filter fun p => !(decide (p.gal = g) && decide (p.id = id) && decide (p.dev = d))) ++ [new] }

/-- A collective of this member goes as far as it can: it ends with a difference, with a member that has left, or once
every part has come and its result is written. -/
def State.collStep (s : State) (t : FenTx) : State :=
  match t.phase, t.src, t.dst with
  | .started, some l, some r =>
    let parts := t.members.map fun d => s.part? t.gal t.collId d
    let mine := match s.part? t.gal t.collId s.fen.devno with | some p => some p.params | none => none
    if s.fen.left.contains (t.gal, t.collId) then s.endTx t.gal t.entry stLeft 0
    else if parts.any fun p => match p with | some q => decide (some q.params ≠ mine) | none => false then s.endTx t.gal t.entry stBadRequest 0
    else if !(parts.all fun p => match p with | some q => q.whole | none => false) then s
    else
      let shard := match mine with | some m => parseShard m.shard | none => none
      let out := t.collResult s.fen.devno l r shard (parts.filterMap fun p => p)
      match s.fenBlocked t.gal .fenWrite out.runs with
      | some line => s.askFen .fenWrite line
      | none =>
        let (s, bad) := s.fenWrites t.gal out.runs
        let s := s.updTx t.gal t.entry fun t => { t with oob := out.oob }
        match bad with
        | some c => s.endTx t.gal t.entry stLocal c
        | none => s.endTx t.gal t.entry stDone 0
  | _, _, _ => s

/-- Every collective of this device goes as far as it can. -/
def State.collSteps (s : State) : State :=
  (s.fen.txs.filter fun t => t.isColl).foldl (fun a t =>
    match a.fen.txs.find? fun u => decide (u.gal = t.gal) && decide (u.entry = t.entry) with
    | some u => a.collStep u
    | none => a) s

/-- A collective starts: this member's elements go to every other member. -/
def State.startColl (s : State) (t : FenTx) (l r : Desc) (shard : List Byte) : State :=
  let rank := (t.members.filter fun d => decide (d < s.fen.devno)).length
  let rs := if t.op = 0x10 ∧ rank ≠ t.peerField then [] else l.readAll
  let (s, buf, n, bad) := s.fenReads t.gal rs
  match bad with
  | some c => s.endTx t.gal t.entry stLocal c
  | none =>
    let ps := t.params l r shard
    let es := if t.op = 0x10 ∧ rank ≠ t.peerField then [] else t.contribution l (byteAt buf)
    let s := s.updTx t.gal t.entry fun t => { t with src := some l, dst := some r, phase := .started, answered := n }
    let s := s.addPart t.gal t.collId s.fen.devno ps 0 es true
    let cuts := if es.isEmpty then [(0, [])] else (List.range ((es.length + 55) / 56)).map fun i => (56 * i, (es.drop (56 * i)).take 56)
    let others := t.members.filter fun d => decide (d ≠ s.fen.devno)
    let s := others.foldl (fun a d => (cuts.mapIdx fun i c => (i, c)).foldl (fun b c =>
      b.sendTo d t.tag t.gal c.1 (.coll t.collId ps c.2.1 c.2.2 (decide (c.1 + 1 = cuts.length)))) a) s
    s.collSteps

/-- An entry that has been taken starts, or ends at once. -/
def State.startTx (s : State) (t : FenTx) : State :=
  let g := t.gal
  let stop (code : Nat) (kind : BitVec 8) : State := s.endTx g t.entry code kind
  if !t.legal then stop stBadRequest 0
  else if t.op = 3 then s.pumpSignals g
  else
    let others := if t.isColl then t.members.filter fun d => decide (d ≠ s.fen.devno) else [t.peer]
    match others.findSome? fun d => s.unreachable d with
    | some c => stop c 0
    | none =>
      let rd (a n : Nat) (s : State) : State × Except (BitVec 8) (List Byte) :=
        match s.fenReads g (byteRuns a n) with
        | (s, buf, _, none) => (s, .ok (bytesAt buf a n))
        | (s, _, _, some c) => (s, .error c)
      match rd (t.word 1) 128 s with
      | (s, .error c) => s.endTx g t.entry stLocal c
      | (s, .ok lb) =>
        match rd (t.word 2) 128 s with
        | (s, .error c) => s.endTx g t.entry stLocal c
        | (s, .ok rb) =>
          match parseDesc lb, parseDesc rb with
          | some l, some r =>
            if t.isColl then
              if t.word 3 = 0 then
                (if t.collOk s.fen.devno l r none fun d => decide (d = s.fen.devno) || decide (s.route d ≠ (7, 7)) then s.startColl t l r []
                 else s.endTx g t.entry stBadRequest 0)
              else
                match rd (t.word 3) 64 s with
                | (s, .error c) => s.endTx g t.entry stLocal c
                | (s, .ok sb) =>
                  match parseShard sb with
                  | none => s.endTx g t.entry stLocal fBadDescriptor
                  | some x =>
                    if t.word 3 % 8 = 0 && t.collOk s.fen.devno l r (some x) fun d => decide (d = s.fen.devno) || decide (s.route d ≠ (7, 7))
                    then s.startColl t l r sb else s.endTx g t.entry stBadRequest 0
            else if !transferOk l r then s.endTx g t.entry stBadRequest 0
            else
              let s := s.updTx g t.entry fun t => { t with src := some l, dst := some r }
              if t.op = 1 then s.startPut t l r else s.startGet t r
          | _, _ => s.endTx g t.entry stLocal fBadDescriptor

/-- The reads an entry makes before it starts: its descriptors, and once these are known its local elements. -/
def State.txReads (s : State) (t : FenTx) : List Run :=
  let ds := byteRuns (t.word 1) 128 ++ byteRuns (t.word 2) 128 ++ (if t.isColl && t.word 3 ≠ 0 then byteRuns (t.word 3) 64 else [])
  let (_, buf, _, bad) := s.fenReads t.gal (byteRuns (t.word 1) 128)
  match bad, parseDesc (bytesAt buf (t.word 1) 128) with
  | none, some l => ds ++ (if t.op = 2 then [] else l.readAll)
  | _, _ => ds

/-- RING_ENTRY_TAKE (R699, R700, R705, R708). -/
def State.ringTake (s : State) (g : Nat) : State :=
  let x := s.fenGal g
  if !x.enable || x.fault || !(s.gal g).st.serves || decide (16 ≤ (s.fen.txs.filter fun t => decide (t.gal = g)).length) then s
  else
    let run : Run := { va := x.slot x.next, len := 64 }
    match s.fenBlocked g .fenRead [run] with
    | some l => s.askFen .fenRead l
    | none =>
      match s.fenGet g run with
      | (s, .error c) => s.ringFault g c
      | (s, .ok bs) =>
        let ws := (List.range 8).map fun i => leNat ((bs.drop (8 * i)).take 8)
        if ws[7]? ≠ some (x.next + 1) then s
        else
          let t : FenTx := { gal := g, entry := x.next, words := ws, phase := .held, tag := s.fen.nextTag }
          let t := { t with peer := if t.isColl then 0 else t.peerField }
          match (if t.op = 3 then none else s.fenBlocked g .fenRead (s.txReads t)) with
          | some l => s.askFen .fenRead l
          | none =>
            let s := s.updFenGal g fun x => { x with next := x.next + 1 }
            (s.updFen fun x => { x with txs := x.txs ++ [t], nextTag := (x.nextTag + 1) % 65536 }).startTx t

/-- RING_ENTRY_TAKE. -/
def execRingEntryTake (g : GalleryId) (s : State) : Host.Outcome State Fault Refusal := .next (s.ringTake g.val)

/-- What a gallery that leaves OPEN and QUIESCING does to its entries (R708, R712). -/
def State.fenClosed (s : State) (g : Nat) : State :=
  if (s.gal g).st.serves then s
  else
    (s.fen.txs.filter fun t => decide (t.gal = g)).foldl (fun a t =>
      match t.phase with
      | .held => a.endTx g t.entry stAborted 0
      | .started =>
        if t.isColl then
          let a := (t.members.filter fun d => decide (d ≠ a.fen.devno)).foldl (fun b d => b.sendTo d t.tag g 0 (.leave t.collId)) a
          a.endTx g t.entry stAborted 0
        else a
      | .ended _ _ => a) s

/-- FAULT_WO: a failed entry ends the work order it names (R706). -/
def State.fenFaultWo (s : State) (t : FenTx) (code : Nat) : State :=
  let w0 := t.word 0
  if code = stDone ∨ !bitAt w0 50 then s
  else
    match s.wos.find? fun w => decide (w.gal = t.gal) && decide (w.queue = bits w0 48 2) && decide (w.tag.toNat = bits w0 32 16) && w.decided.isNone with
    | some w => s.endWo w.id { status := .faulted, faultCode := 0x40, hearth := 0xFF, stoker := 0, pc := 0 }
    | none => s

/-- RING_ENTRY_COMPLETE (R701, R703): STATUS is written, then DONE is raised. -/
def State.ringComplete (s : State) (g i : Nat) : State :=
  let s := s.fenClosed g
  match s.fen.txs.find? fun t => decide (t.gal = g) && decide (t.entry = i) with
  | none => s
  | some t =>
    match t.phase with
    | .ended code kind =>
      let x := s.fenGal g
      let drop (s : State) : State :=
        (s.updFen fun f => { f with
          txs := f.txs.filter fun u => !(decide (u.gal = g) && decide (u.entry = i))
          parts := f.parts.filter fun p => !(t.isColl && decide (p.gal = g) && decide (p.id = t.collId))
          left := f.left.filter fun c => !(t.isColl && decide (c = (g, t.collId))) }).pumpSignals g
      let status := code + kind.toNat * 256 + min 0xFFFFFFFF t.oob * 2 ^ 32
      let sr : Run := { va := x.slot i + 48, len := 8, wdata := fullMask (natLe 8 status) }
      let dr : Run := { va := x.va, len := 8 }
      match s.fenBlocked g .fenWrite [sr, dr] with
      | some l => s.askFen .fenWrite l
      | none =>
        let s := s.fenFaultWo t code
        match s.fenPut g sr with
        | (s, some c) => drop (s.ringFault g c)
        | (s, none) =>
          match s.fenGet g dr with
          | (s, .error c) => drop (s.ringFault g c)
          | (s, .ok bs) =>
            match s.fenPut g { dr with wdata := fullMask (natLe 8 (leNat bs + 1)) } with
            | (s, some c) => drop (s.ringFault g c)
            | (s, none) => drop s
    | _ => s

/-- RING_ENTRY_COMPLETE. -/
def execRingEntryComplete (g : GalleryId) (i : Nat) (s : State) : Host.Outcome State Fault Refusal := .next (s.ringComplete g.val i)

end Sys2Proof.Machine
end

