-- ==== Sys2Proof/Machine/FenRecv.lean ====
section
/-! DEFINITION. The flits that arrive on a Fenline port (chapter 17). -/

namespace Sys2Proof.Machine

/-! ## Serving a peer (R702 to R707) -/

/-- The local gallery takes transfers from peers (R705). -/
def State.fenAccepts (s : State) (g : Nat) : Bool := (s.gal g).st.serves && (s.fenGal g).accept

/-- A piece of a peer's transaction has failed here already (R706). -/
def State.isBad (s : State) (h : FlitHdr) : Bool := s.fen.bad.contains (h.src.val, h.xtag.toNat)
def State.setBad (s : State) (h : FlitHdr) (v : Bool) : State :=
  s.updFen fun x => { x with bad := (x.bad.filter fun e => decide (e ≠ (h.src.val, h.xtag.toNat))) ++ (if v then [(h.src.val, h.xtag.toNat)] else []) }

/-- An answer to the originator of a transaction. -/
def State.answer (s : State) (h : FlitHdr) (index : Nat) (body : FlitBody) : State :=
  s.sendTo h.src.val h.xtag.toNat h.gallery.val index body

/-- A transaction's first flit begins it afresh. -/
def State.begun (s : State) (h : FlitHdr) : State := if h.index = 0 then s.setBad h false else s

/-- PUT_DATA: its bytes are written, and the last flit is acknowledged. The Boolean tells that the flit is dealt with. -/
def State.takePut (s : State) (h : FlitHdr) (va : Nat) (data : List (Byte × Byte)) (last : Bool) : State × Bool :=
  let g := h.gallery.val
  let s := s.begun h
  if s.isBad h then (if last then s.setBad h false else s, true)
  else if !s.fenAccepts g then ((s.setBad h !last).answer h h.index (.xack .closed), true)
  else
    let rs := writeRuns va data
    match s.fenBlocked g .fenWrite rs with
    | some l => (s.askFen .fenWrite l, false)
    | none =>
      match s.fenWrites g rs with
      | (s, some c) => ((s.setBad h !last).answer h h.index (.xack (.fault c)), true)
      | (s, none) => (if last then s.answer h h.index (.xack .done) else s, true)

/-- GET_REQ: the bytes are read and returned. -/
def State.takeGet (s : State) (h : FlitHdr) (va len : Nat) : State × Bool :=
  let g := h.gallery.val
  let s := s.begun h
  if s.isBad h then (s, true)
  else if !s.fenAccepts g then ((s.setBad h true).answer h h.index (.xack .closed), true)
  else
    let rs := byteRuns va len
    match s.fenBlocked g .fenRead rs with
    | some l => (s.askFen .fenRead l, false)
    | none =>
      match s.fenReads g rs with
      | (s, _, _, some c) => ((s.setBad h true).answer h h.index (.xack (.fault c)), true)
      | (s, buf, _, none) => (s.answer h h.index (.getData (bytesAt buf va len)), true)

/-- SIGNAL: the addend joins the flag indivisibly (R256, R707). -/
def State.takeSignal (s : State) (h : FlitHdr) (va : Nat) (addend : W64) : State × Bool :=
  let g := h.gallery.val
  let refuse (s : State) (c : BitVec 8) : State × Bool := (s.answer h 0 (.xack (.fault c)), true)
  let add (b : Nat) (s : State) : State × Bool :=
    let v := BitVec.ofNat 64 (leNat (bytesAt s.shared b 8)) + addend
    (({ s with shared := putBytes s.shared b (natLe 8 v.toNat) } : State).answer h 0 (.xack .done), true)
  if !s.fenAccepts g then (s.answer h 0 (.xack .closed), true)
  else
    match s.check g .fenAdd va with
    | .fails c => refuse (s.countProt g) c
    | .absent _ => refuse (s.countAbsent g) fAbsent
    | .ok t _ =>
      if va % 8 ≠ 0 then refuse s fMisaligned
      else
        match t with
        | .shared o => if s.sharedLost o 8 then refuse s fEccLasting else add o s
        | .exchange o =>
          match s.fenBlocked g .fenAdd [{ va := va, len := 8 }] with
          | some l => (s.askFen .fenAdd l, false)
          | none =>
            if s.exchPoisoned o 8 then refuse s fPoisoned
            else if s.sharedLost (s.exchStart + o) 8 then refuse s fEccLasting
            else
              let r := add (s.exchStart + o) s
              (r.1.pumpLines (linesOf o 8), r.2)
        | _ => refuse s fPlaceAgent

/-! ## Answers from a peer (R701, R704 to R706) -/

/-- The entry that an answer is for. -/
def State.txOf (s : State) (h : FlitHdr) : Option FenTx :=
  s.fen.txs.find? fun t => decide (t.gal = h.gallery.val) && decide (t.tag = h.xtag.toNat) && decide (t.phase = .started)
    && (if t.isColl then t.members.contains h.src.val else decide (t.peer = h.src.val))

/-- What an entry ends with when its peer refused. -/
def ackCode : FenAck → Nat × BitVec 8
  | .done => (stDone, 0)
  | .fault c => (stRemote, c)
  | .closed => (stClosed, 0)

/-- GET: once every request sent before the refused one has been answered, the local walk is written from what came. -/
def State.getStep (s : State) (t : FenTx) : State × Bool :=
  match t.src, t.dst with
  | some l, some r =>
    let n := match t.refused with | some (i, _) => i | none => max 1 t.gets.length
    let whole := (List.range n).all fun i => (mget none t.got i).isSome
    if !whole then (s, true)
    else
      let rs := t.gets.take n
      let buf := ((rs.mapIdx fun i x => (i, x)).foldl (fun m e => putBytes m e.2.va ((mget none t.got e.1).getD [])) ([] : Sparse Byte))
      let (runs, oob) := copyElems r l (byteAt buf) (r.covered rs)
      match s.fenBlocked t.gal .fenWrite runs with
      | some line => (s.askFen .fenWrite line, false)
      | none =>
        let (s, bad) := s.fenWrites t.gal runs
        let s := s.updTx t.gal t.entry fun t => { t with oob := oob }
        let c := match bad, t.refused with
          | some c, _ => (stLocal, c)
          | none, some (_, a) => ackCode a
          | none, none => (stDone, 0)
        (s.endTx t.gal t.entry c.1 c.2, true)
  | _, _ => (s, true)

/-- GET_DATA. -/
def State.takeData (s : State) (h : FlitHdr) (data : List Byte) : State × Bool :=
  match s.txOf h with
  | none => (s, true)
  | some t =>
    let t := { t with got := mset none t.got h.index (some data) }
    (s.updTx t.gal t.entry fun _ => t).getStep t

/-- XACK. -/
def State.takeAck (s : State) (h : FlitHdr) (a : FenAck) : State × Bool :=
  match s.txOf h with
  | none => (s, true)
  | some t =>
    if t.op = 2 then
      let t := { t with refused := match t.refused with | some (i, b) => if h.index < i then some (h.index, a) else some (i, b) | none => some (h.index, a) }
      (s.updTx t.gal t.entry fun _ => t).getStep t
    else
      let c := match a, t.local' with
        | .done, some c => (stLocal, c)
        | a, _ => ackCode a
      (s.endTx t.gal t.entry c.1 c.2, true)

/-- COLL: elements of a member's part. -/
def State.takeColl (s : State) (h : FlitHdr) (id : W32) (ps : CollParams) (first : Nat) (elems : List Nat) (last : Bool) : State :=
  let g := h.gallery.val
  if !s.fenAccepts g then s.answer h h.index (.xack .closed)
  else (s.addPart g id h.src.val ps first elems last).collSteps

/-- LEAVE: the member's gallery has left (R712). A collective that has taken all of the member's part and ended is past it. -/
def State.takeLeave (s : State) (h : FlitHdr) (id : W32) : State :=
  let g := h.gallery.val
  if (s.part? g id h.src.val).isNone ∨ s.fen.left.contains (g, id) then s
  else (s.updFen fun x => { x with left := x.left ++ [(g, id)] }).collSteps

/-! ## The receive buffer (R674, R675, R682, R688, R691) -/

/-- The flit is for this device. -/
def State.isOurs (s : State) (h : FlitHdr) : Bool := s.fen.valid && decide (h.dst.val = s.fen.devno)

/-- One flit of the receive buffer is dealt with, unless an Exchange line that it needs is not ready. -/
def State.handleFlit (s : State) (h : FlitHdr) (body : FlitBody) : State × Bool :=
  match body with
  | .announce e unit d => (s.announced e unit d.val, true)
  | .idle | .bringup _ | .timesync _ | .mgmt _ => (s, true)
  | _ =>
    if s.staleFlit h then (s.dropStale', true)
    else
      match body with
      | .putData va data last => s.takePut h va data last
      | .getReq va len => s.takeGet h va len
      | .getData data => s.takeData h data
      | .xack a => s.takeAck h a
      | .signal va v => s.takeSignal h va v
      | .coll id ps first elems last => (s.takeColl h id ps first elems last, true)
      | .leave id => (s.takeLeave h id, true)
      | _ => (s, true)

/-- The flits of the receive buffer are dealt with in order, as far as they can be. -/
def State.drainPort (p : Nat) : Nat → State → State
  | 0, s => s
  | n + 1, s =>
    match (s.fenPort p).inbox with
    | [] => s
    | f :: _ =>
      match s.handleFlit f.1 f.2 with
      | (t, true) => State.drainPort p n (t.updFenPort p fun x => { x with inbox := x.inbox.drop 1 })
      | (t, false) => t

/-- The port engine goes on with its receive buffer. -/
def State.drainInbox (s : State) (p : Nat) : State := (State.drainPort p (s.fenPort p).inbox.length s).xoffCheck p

/-- A credited flit has been accepted by the link: its credit goes back, and it is forwarded or buffered. -/
def State.credited (s : State) (p : Nat) (h : FlitHdr) (body : FlitBody) : State :=
  let s := s.send (.fenCredit p (vcOf body) 1)
  let active := (s.fenPort p).st.isActive
  if !active ∧ vcOf body ≠ 3 then s
  else if !s.isOurs h then (if active then s.forward h body else s)
  else ((s.updFenPort p fun x => { x with inbox := x.inbox ++ [(h, body)] }).xoffCheck p).drainInbox p

/-- A flit arrives on a port (R671 to R678). -/
def State.receive (s : State) (p : Nat) (h : FlitHdr) (body : FlitBody) : State :=
  let x := s.fenPort p
  if !x.st.carries then s
  else if !h.crcOk || decide (h.seq ≠ x.rxSeq) then
    let s := s.setFenPort p { x with crcErrors := satAdd 0xFFFFFFFF x.crcErrors 1 }
    if !h.crcOk && h.replay then s.failPort p
    else if x.nakSent then s
    else (s.updFenPort p fun x => { x with nakSent := true }).send (.fenNak p (x.rxSeq - 1))
  else
    let s := s.setFenPort p { x with
      rxSeq := x.rxSeq + 1, nakSent := false, replays := if x.nakSent then satAdd 65535 x.replays 1 else x.replays }
    let s := s.linkFields p h
    match body with
    | .idle => s
    | .bringup b => s.bringup p b
    | .timesync t => s.timesync p t
    | b => s.credited p h b

/-! ## The rows -/

/-- IDLE (R672). -/
def execIdle (p : FenPortId) (h : FlitHdr) (s : State) : Host.Outcome State Fault Refusal := .next (s.receive p.val h .idle)

/-- PUT_DATA (R704). -/
def execPutData (p : FenPortId) (h : FlitHdr) (va : Nat) (data : List (Byte × Byte)) (last : Bool) (s : State) :
    Host.Outcome State Fault Refusal := .next (s.receive p.val h (.putData va data last))

/-- GET_REQ (R704). -/
def execGetReq (p : FenPortId) (h : FlitHdr) (va len : Nat) (s : State) : Host.Outcome State Fault Refusal :=
  .next (s.receive p.val h (.getReq va len))

/-- GET_DATA (R704). -/
def execGetData (p : FenPortId) (h : FlitHdr) (data : List Byte) (s : State) : Host.Outcome State Fault Refusal :=
  .next (s.receive p.val h (.getData data))

/-- XACK (R701). -/
def execXack (p : FenPortId) (h : FlitHdr) (a : FenAck) (s : State) : Host.Outcome State Fault Refusal :=
  .next (s.receive p.val h (.xack a))

/-- SIGNAL (R707). -/
def execSignal (p : FenPortId) (h : FlitHdr) (va : Nat) (addend : W64) (s : State) : Host.Outcome State Fault Refusal :=
  .next (s.receive p.val h (.signal va addend))

/-- COLL (R711). -/
def execColl (p : FenPortId) (h : FlitHdr) (id : W32) (ps : CollParams) (first : Nat) (elems : List Nat) (last : Bool) (s : State) :
    Host.Outcome State Fault Refusal := .next (s.receive p.val h (.coll id ps first elems last))

/-- BRINGUP (R687). -/
def execBringup (p : FenPortId) (h : FlitHdr) (b : Bringup) (s : State) : Host.Outcome State Fault Refusal :=
  .next (s.receive p.val h (.bringup b))

/-- TIMESYNC (R695). -/
def execTimesync (p : FenPortId) (h : FlitHdr) (t : TimeSync) (s : State) : Host.Outcome State Fault Refusal :=
  .next (s.receive p.val h (.timesync t))

/-- The payload of a MGMT flit (Table 17-9). -/
def mgmtBody (bs : List Byte) : FlitBody :=
  if bs.head? = some 1 then
    .announce (BitVec.ofNat 32 (leNat ((bs.drop 4).take 4))) (BitVec.ofNat 64 (leNat ((bs.drop 8).take 8)))
      (Fin.ofNat 64 (leNat ((bs.drop 16).take 1)))
  else .mgmt bs

/-- MGMT (R688, R693, R694). -/
def execMgmt (p : FenPortId) (h : FlitHdr) (payload : List Byte) (s : State) : Host.Outcome State Fault Refusal :=
  .next (s.receive p.val h (mgmtBody payload))

/-- LEAVE (R712). -/
def execLeave (p : FenPortId) (h : FlitHdr) (id : W32) (s : State) : Host.Outcome State Fault Refusal :=
  .next (s.receive p.val h (.leave id))

end Sys2Proof.Machine
end

