-- ==== Sys2Proof/Machine/Aes.lean ====
section
/-! DEFINITION. AES-256 in XTS mode (IEEE 1619) over one 512 B sector (R654). -/

namespace Sys2Proof.Machine

/-! ## AES-256 -/

/-- Entry `i` of a table of 256 bytes, held as eight little-endian rows of 32. -/
def tableByte (rows : List Nat) (i : Nat) : Nat := bits ((rows[i / 32]?).getD 0) (8 * (i % 32)) 8

/-- The rows of the substitution table and of its inverse. -/
def sboxRows : List Nat := [
  0xC072A49CAFA2D4ADF04759FA7DC982CA76ABD7FE2B670130C56F6BF27B777C63,
  0x75B227EBE28012079A059618C323C7041531D871F1E5A534CCF73F362693FDB7,
  0xCF584C4A39BECB6A5BB1FC20ED00D153842FE329B3D63B52A05A6E1B1A2C8309,
  0xD2F3FF1021DAB6BCF5389D928F40A351A89F3C507F02F94585334D43FBAAEFD0,
  0xDB0B5EDE14B8EE4688902A22DC4F816073195D643D7EA7C41744975FEC130CCD,
  0x08AE7A65EAF4566CA94ED58D6D37C8E779E4959162ACD3C25C2406490A3A32E0,
  0x9E1DC186B95735610EF6034866B53E708A8BBD4B1F74DDE8C6B4A61C2E2578BA,
  0x16BB54B00F2D99416842E6BF0D89A18CDF2855CEE9871E9B948ED9691198F8E1]
def sboxInvRows : List Nat := [
  0xCBE9DEC444438E3487FF2F9B8239E37CFBD7F3819EA340BF38A53630D56A0952,
  0x25D18B6D49A25B76B224D92866A12E084EC3FA420B954CEE3D23C2A632947B54,
  0x849D8DA75746155EDAB9EDFD5048706C92B6655DCC5CA4D41698688664F6F872,
  0x6B8A130103BDAFC1020F3FCA8F1E2CD00645B3B80558E4F70AD3BC8C00ABD890,
  0x6EDF751CE837F9E28535ADE72274AC9673E6B4F0CECFF297EADC674F4111913A,
  0xF45ACD78FEC0DB9A2079D2C64B3E56FC1BBE18AA0E62B76F89C5291D711AF147,
  0xEF9CC9939F7AE52D0D4AB519A97F51605FEC8027591012B131C7078833A8DD1F,
  0x7D0C2155631469E126D677BA7E042B17619953833CBBEBC8B0F52AAE4D3BE0A0]

def subByte (x : Nat) : Nat := tableByte sboxRows x
def unsubByte (x : Nat) : Nat := tableByte sboxInvRows x

/-- A field element times x. -/
def xtime (a : Nat) : Nat := (2 * a) % 256 ^^^ (if 128 ≤ a then 0x1B else 0)

/-- A field element times a constant below 16. -/
def gfMul (c a : Nat) : Nat :=
  (if bitAt c 0 then a else 0) ^^^ (if bitAt c 1 then xtime a else 0) ^^^ (if bitAt c 2 then xtime (xtime a) else 0)
    ^^^ (if bitAt c 3 then xtime (xtime (xtime a)) else 0)

/-- Bytes of two blocks combined. -/
def xorBytes (a b : List Nat) : List Nat := (a.zip b).map fun c => c.1 ^^^ c.2

/-- Byte `i` of a block. -/
def blockByte (a : List Nat) (i : Nat) : Nat := (a[i]?).getD 0

/-- Word `i` of the key schedule, from those before it. -/
def nextWord (w : List (List Nat)) (i : Nat) : List Nat :=
  let prev := (w[i - 1]?).getD []
  let old := (w[i - 8]?).getD []
  let t :=
    if i % 8 = 0 then
      match prev.map subByte with
      | [a, b, c, d] => [b ^^^ 2 ^ (i / 8 - 1), c, d, a]
      | l => l
    else if i % 8 = 4 then prev.map subByte else prev
  xorBytes old t

/-- The round keys of a 32-byte key: fifteen blocks of 16 bytes. -/
def roundKeys (key : List Nat) : List (List Nat) :=
  let first := (List.range 8).map fun i => (key.drop (4 * i)).take 4
  let w := (List.range 52).foldl (fun w i => w ++ [nextWord w (8 + i)]) first
  (List.range 15).map fun r => ((w.drop (4 * r)).take 4).flatten

/-- Row `r` of the block turns left by `n` times `r` places. -/
def shiftRows (n : Nat) (a : List Nat) : List Nat :=
  (List.range 16).map fun i => blockByte a (i % 4 + 4 * ((i / 4 + n * (i % 4)) % 4))

/-- Each column times a circulant matrix. -/
def mixColumns (m : List Nat) (a : List Nat) : List Nat :=
  (List.range 16).map fun i =>
    let c := i / 4 * 4
    (List.range 4).foldl (fun x j => x ^^^ gfMul (blockByte m ((j + 4 - i % 4) % 4)) (blockByte a (c + j))) 0

/-- Encryption of a block under round keys. -/
def aesEncrypt (ks : List (List Nat)) (b : List Nat) : List Nat :=
  match ks with
  | [] => b
  | k :: ks =>
    let last := (ks.getLast?).getD []
    let s := ks.dropLast.foldl (fun s k => xorBytes (mixColumns [2, 3, 1, 1] (shiftRows 1 (s.map subByte))) k) (xorBytes b k)
    xorBytes (shiftRows 1 (s.map subByte)) last

/-- Decryption of a block under round keys. -/
def aesDecrypt (ks : List (List Nat)) (b : List Nat) : List Nat :=
  match ks.reverse with
  | [] => b
  | k :: ks =>
    let last := (ks.getLast?).getD []
    let step (s : List Nat) : List Nat := (shiftRows 3 s).map unsubByte
    let s := ks.dropLast.foldl (fun s k => mixColumns [14, 11, 13, 9] (xorBytes (step s) k)) (xorBytes b k)
    xorBytes (step s) last

/-! ## XTS -/

/-- A number as 16 little-endian bytes, and back. -/
def blockOf (x : Nat) : List Nat := (natLe 16 x).map fun b => b.toNat
def ofBlock (a : List Nat) : Nat := leNat (a.map fun x => BitVec.ofNat 8 x)

/-- The tweak of the next block: multiplied by x. -/
def nextTweak (t : Nat) : Nat := 2 * t % 2 ^ 128 ^^^ (if bitAt t 127 then 0x87 else 0)

/-- The blocks of a sector, each under its tweak. -/
def xtsBlocks (f : List Nat → List Nat) : Nat → Nat → List Nat → List Nat
  | 0, _, _ => []
  | n + 1, t, bs =>
    let tw := blockOf t
    xorBytes (f (xorBytes (bs.take 16) tw)) tw ++ xtsBlocks f n (nextTweak t) (bs.drop 16)

/-- The halves of a 512-bit key as bytes: the data key, then the tweak key. -/
def keyHalf (key : BitVec 512) (i : Nat) : List Nat := (natLe 32 (bits key.toNat (256 * i) 256)).map fun b => b.toNat

/-- A 512 B sector encrypted, or decrypted, under a gallery's key and a tweak (R654). -/
def xts (key : BitVec 512) (tweak : Nat) (decrypt : Bool) (sector : List Byte) : List Byte :=
  let ks := roundKeys (keyHalf key 0)
  let t := ofBlock (aesEncrypt (roundKeys (keyHalf key 1)) (blockOf tweak))
  (xtsBlocks (if decrypt then aesDecrypt ks else aesEncrypt ks) 32 t (sector.map fun b => b.toNat)).map fun x => BitVec.ofNat 8 x

/-- The tweak of a sector of a Folio: the sector number, and the Folio's UNIT above it (R654). -/
def sectorTweak (unit : W64) (sector : Nat) : Nat := sector % 2 ^ 31 + unit.toNat * 2 ^ 64

end Sys2Proof.Machine
end

