-- ==== Sys2Proof/Machine/Accession.lean ====
section
/-! DEFINITION. The Accession image and the checks of Table 20-7 (R794 to R798). -/

namespace Sys2Proof.Machine

/-- `n` little-endian bytes of an image from `off` on, as a number. -/
def imgNat (m : List Byte) (off n : Nat) : Nat := leNat ((m.drop off).take n)

/-- Bytes `lo` to `hi - 1` are zero. -/
def imgZero (m : List Byte) (lo hi : Nat) : Bool := ((m.drop lo).take (hi - lo)).all fun b => decide (b = 0)

/-- A section: its type, offset, length and CRC32C. -/
structure Section' where
  type : Nat
  off : Nat
  len : Nat
  crc : Nat

/-- Section `i` of the table (Table 20-2). -/
def sectionAt (m : List Byte) (i : Nat) : Section' :=
  let w := imgNat m (64 + 16 * i) 16
  { type := bits w 0 32, off := bits w 32 32, len := bits w 64 32, crc := bits w 96 32 }

def sections (m : List Byte) : List Section' := (List.range (imgNat m 20 2)).map (sectionAt m)

/-- The bytes of the section of a type. -/
def sectionOf (m : List Byte) (t : Nat) : List Byte :=
  match (sections m).find? fun x => decide (x.type = t) with
  | some x => (m.drop x.off).take x.len
  | none => []

/-- Two sections share a byte. -/
def Section'.overlaps (x y : Section') : Bool := decide (x.off < y.off + y.len) && decide (y.off < x.off + x.len)

/-- The section table is as check 1 asks. -/
def sectionsOk (m : List Byte) : Bool :=
  let xs := sections m
  let n := m.length
  (xs.all fun x => decide (4096 ≤ x.off) && decide (x.off + x.len ≤ n - 4096))
    && ((xs.mapIdx fun i x => (i, x)).all fun a => (xs.mapIdx fun i x => (i, x)).all fun b =>
      decide (a.1 = b.1) || !a.2.overlaps b.2)
    && ([1, 2, 3, 4, 5].all fun t => decide ((xs.filter fun x => decide (x.type = t)).length = 1))

/-- The POLICIES section (Table 20-4). -/
def policiesOk (p : List Byte) : Bool :=
  decide (16 ≤ p.length) && decide (550 ≤ imgNat p 4 2) && decide (imgNat p 4 2 ≤ 950) && decide (100 ≤ imgNat p 6 2)
    && decide (10 ≤ imgNat p 8 2) && decide (imgNat p 8 2 ≤ 10000) && imgZero p 10 16

/-- Member `i` of the TOPOLOGY section (Table 20-5). -/
def memberAt (t : List Byte) (i : Nat) : Member :=
  let o := 16 + 128 * i
  { unit := BitVec.ofNat 64 (imgNat t o 8)
    devno := imgNat t (o + 8) 1
    ports := (List.range 6).map fun p => (imgNat t (o + 16 + 2 * p) 1, imgNat t (o + 17 + 2 * p) 1)
    routes := (List.range 64).map fun d => (bits (imgNat t (o + 32 + d) 1) 0 3, bits (imgNat t (o + 32 + d) 1) 3 3) }

/-- The reserved bytes and bits of a member. -/
def memberZero (t : List Byte) (i : Nat) : Bool :=
  let o := 16 + 128 * i
  imgZero t (o + 9) (o + 16) && imgZero t (o + 28) (o + 32) && imgZero t (o + 96) (o + 128)
    && (List.range 64).all fun d => decide (imgNat t (o + 32 + d) 1 < 64)

def topologyOk (t : List Byte) : Bool :=
  let n := imgNat t 2 1
  let ms := (List.range n).map (memberAt t)
  decide (1 ≤ n) && decide (n ≤ 64) && decide (16 + 128 * n ≤ t.length) && imgZero t 3 16
    && ((List.range n).all fun i => memberZero t i) && (ms.all fun x => decide (x.devno < 64))
    && decide ((ms.map fun x => x.unit).Nodup) && decide ((ms.map fun x => x.devno).Nodup)
    && ms.all fun x => x.routes.all fun r => decide (r.1 ≠ 6) && decide (r.2 ≠ 6)

/-- Entry `i` of the STOVE_LIB section (Table 20-6). -/
def libAt (l : List Byte) (i : Nat) : Nat × Nat × Nat :=
  (imgNat l (16 + 16 * i) 4, imgNat l (20 + 16 * i) 4, imgNat l (24 + 16 * i) 4)

def libOk (l : List Byte) : Bool :=
  let n := imgNat l 0 4
  decide (n ≤ 256) && imgZero l 4 16 && decide (16 + 16 * n ≤ l.length)
    && (List.range n).all fun i => decide ((libAt l i).2.1 + (libAt l i).2.2 ≤ l.length) && imgZero l (28 + 16 * i) (32 + 16 * i)

/-- Check 1 of Table 20-7. -/
def headerOk (m : List Byte) : Bool :=
  let len := imgNat m 16 4
  let n := imgNat m 20 2
  decide (imgNat m 0 4 = 0x4E434341) && decide (imgNat m 4 2 = 1) && decide (imgNat m 6 2 = 0xC0) && decide (imgNat m 11 1 = 2)
    && decide (2025 ≤ imgNat m 8 2) && decide (imgNat m 8 2 ≤ 2099) && decide (1 ≤ imgNat m 10 1) && decide (imgNat m 10 1 ≤ 99)
    && decide (1 ≤ imgNat m 12 2) && decide (imgNat m 14 2 ≤ imgNat m 12 2)
    && decide (len = m.length) && decide (len % 4096 = 0) && decide (16384 ≤ len) && decide (len ≤ 16777216)
    && decide (1 ≤ n) && decide (n ≤ 16) && imgZero m 22 64 && imgZero m (64 + 16 * n) 4096
    && sectionsOk m && policiesOk (sectionOf m 4) && topologyOk (sectionOf m 5) && libOk (sectionOf m 3)

/-- The digest that is the Accession hash (R795). -/
def imageHash (m : List Byte) : List Byte := sha384 (m.take (m.length - 4096))

/-- What an image that has passed its checks holds. -/
def imageOf (m : List Byte) : Image :=
  let p := sectionOf m 4
  let t := sectionOf m 5
  let l := sectionOf m 3
  { year := imgNat m 8 2, nn := imgNat m 10 1, svn := imgNat m 12 2, floorTo := imgNat m 14 2, hash := imageHash m
    timeCtrl := BitVec.ofNat 32 (imgNat p 0 4), bootMv := imgNat p 4 2, snpTimeout := imgNat p 6 2, graceMs := imgNat p 8 2
    pod := BitVec.ofNat 16 (imgNat t 0 2), members := (List.range (imgNat t 2 1)).map (memberAt t)
    lib := (List.range (imgNat l 0 4)).map fun i => ((libAt l i).1, (l.drop (libAt l i).2.1).take (libAt l i).2.2) }

/-- The checks of Table 20-7 in order: the RESULT of the first that fails. `sigOk` is what verifying the signature and
its chain up to the fused root gives. -/
def imageCheck (m : List Byte) (sigOk : Bool) (floor : Nat) : Option AccResult :=
  if !headerOk m then some .badImage
  else if !(sections m).all fun x => decide (crc32c 0 ((m.drop x.off).take x.len) = x.crc) then some .badImage
  else if !sigOk then some .badSignature
  else if imgNat m 12 2 < floor then some .belowFloor
  else if sha384 (sectionOf m 2) ≠ Config.cabinetHash then some .badImage
  else none

end Sys2Proof.Machine
end

