-- ==== Sys2Proof/Machine/Flash.lean ====
section
/-! DEFINITION. The Curator's boot flash: its operations in their order of precedence, gallery keys and the key vault, the
Fault book, the Return seal's steps, and ACC_COMMAND (R655 to R657, R742 to R748, R790 to R805). -/

namespace Sys2Proof.Machine

/-! ## What the Curator holds -/

def State.updAcc' (s : State) (f : AccState → AccState) : State := { s with acc := f s.acc }

def AccState.slot (x : AccState) : SlotId → Slot3
  | .a => x.slotA
  | .b => x.slotB
  | .golden => x.golden

def AccState.setSlot (x : AccState) (i : SlotId) (v : Slot3) : AccState :=
  match i with
  | .a => { x with slotA := v }
  | .b => { x with slotB := v }
  | .golden => { x with golden := v }

def AccState.svn (x : AccState) (i : SlotId) : Nat := match (x.slot i).image with | some m => m.svn | none => 0

/-- The number of a slot in ACC_ACTIVE.SLOT. -/
def slotCode : SlotId → Nat | .a => 0 | .b => 1 | .golden => 2

/-- A valid slot whose image lies below the floor reads BELOW_FLOOR (R800). -/
def AccState.floorSlot (x : AccState) (i : SlotId) : AccState :=
  let v := x.slot i
  match v.image with
  | some m => if m.svn < x.floor ∧ v.st ≠ .empty ∧ v.st ≠ .invalid ∧ v.st ≠ .writing then x.setSlot i { v with st := .belowFloor } else x
  | none => x

def AccState.floorAll (x : AccState) : AccState := ((x.floorSlot .a).floorSlot .b).floorSlot .golden

/-! ## The Fault book (R742, R743) -/

/-- The oldest record that the ring keeps once it starts the block of record `n`. -/
def bookKeeps (n oldest : Nat) : Nat := if n % 2048 = 0 then max oldest (n - 253952) else oldest

/-- One record is appended to the Fault book, unless it is frozen. -/
def State.bookAppend (s : State) (r : List Byte) : State :=
  let x := s.faults
  if x.frozen then s
  else
    let n := x.bookRecords.toNat
    let old := bookKeeps n x.bookOldest
    let book := x.book.filter fun e => decide (old ≤ e.1)
    { s with faults := { x with
        book := mset [] book n (rebook n r), bookRecords := x.bookRecords + 1, bookOldest := old } }

/-- The oldest record that awaits its append is appended. -/
def State.bookNext (s : State) : State :=
  match s.faults.bookQueue with
  | [] => s
  | r :: rest => State.bookAppend { s with faults := { s.faults with bookQueue := rest } } r

/-- Every record that awaits its append is appended. -/
def State.bookAll (s : State) : State := s.faults.bookQueue.foldl (fun t _ => t.bookNext) s

/-! ## Keys (R655 to R657) -/

/-- A drawn key, its halves made to differ (R655). -/
def drawKey (n : Nat) : BitVec 512 :=
  let k := Config.drawnKey n
  if bits k.toNat 0 256 = bits k.toNat 256 256 then k ^^^ 1 else k

/-! ## Flash operations (R792, R793) -/

/-- The operation that is to be made next. -/
def State.nextFlash (s : State) : Option FlashOp :=
  let x := s.acc
  if x.tripDue.isSome then some .trip
  else if x.pwrWarn then none
  else if s.faults.sealStage ≠ .none then some .returnSeal
  else if x.vaultDue then some .vault
  else match x.cmd with
    | some (.install _ _ _ _ _) => some .accession
    | some _ => some .bootControl
    | none => none

/-- An operation starts when none is in progress; an Accession erase or program is suspended for one of higher precedence. -/
def State.startFlash (s : State) : State :=
  match s.acc.flash with
  | none => s.updAcc' fun x => { x with flash := s.nextFlash }
  | some .accession => s.updAcc' fun x => { x with flash := s.nextFlash }
  | some _ => s

/-- A gallery's key, drawn the first time it is needed and then put into the vault. -/
def State.needKey (s : State) (g : Nat) : State × BitVec 512 :=
  match mget none s.acc.keys g with
  | some k => (s, k)
  | none =>
    let k := drawKey s.acc.drawn
    ((s.updAcc' fun x => { x with keys := mset none x.keys g (some k), drawn := x.drawn + 1, vaultDue := true }).startFlash, k)

/-- SCRUB_KEY: the old key is destroyed, a new one drawn, and the vault is to hold it (R140, R657). -/
def State.rekey (s : State) (g : Nat) : State :=
  (s.updAcc' fun x => { x with
    keys := mset none x.keys g (some (drawKey x.drawn)), drawn := x.drawn + 1, vaultDue := true
    rekeyed := x.rekeyed ++ [g] }).startFlash

/-! ## The Return seal (R747) -/

/-- The seal is complete: the book and the list are frozen, and the part is sealed. -/
def State.sealDone (s : State) : State :=
  let s := (s.logFault { event := 0x31, cls := 0, unitKind := 0, b := s.dev.unit.toNat }).bookAll
  { s with faults := { s.faults with sealStage := .none, frozen := true, sealed := true, busy := false, result := .ok } }

/-- The seal's step in progress ends. -/
def State.sealStep (s : State) : State :=
  match s.faults.sealStage with
  | .none => s
  | .intentMark =>
    State.updAcc' { s with faults := { s.faults with intent := true, sealStage := .eraseVault } } fun x => { x with keys := [] }
  | .eraseVault => State.updAcc' { s with faults := { s.faults with sealStage := .appendRecord } } fun x => { x with vault := [] }
  | .appendRecord => s.sealDone

/-! ## INSTALL (R802, R803) -/

/-- The waiter of the Curator's reads of the Exchange region. -/
def curatorWaiter : Waiter := .front 1024 0

def State.endAcc (s : State) (r : AccResult) : State :=
  s.updAcc' fun x => { x with busy := false, cmd := none, result := r }

/-- The image in the Exchange region, once its lines may be read (R186); none while they may not. -/
def State.stagedImage (s : State) : State × Option (List Byte) :=
  let x := s.acc
  let ls := linesOf x.srcOffset x.srcLength
  let (t, ok) := s.askLines curatorWaiter .devRead ls
  if ok then (t.pumpLines ls, some (bytesAt s.shared (s.exchStart + x.srcOffset) x.srcLength)) else (t, none)

/-- Step 1: the source's alignment and range. -/
def State.sourceOk (s : State) : Bool :=
  let x := s.acc
  decide (x.srcOffset % 4096 = 0) && decide (x.srcOffset + x.srcLength ≤ s.exchBytes)
    && !s.exchPoisoned x.srcOffset x.srcLength && !s.sharedLost (s.exchStart + x.srcOffset) x.srcLength

/-- The target of an INSTALL becomes INVALID, and the command ends. -/
def State.installFails (s : State) (target : SlotId) (r : AccResult) : State :=
  (s.updAcc' fun x => x.setSlot target { st := .invalid }).endAcc r

/-- The stage of an INSTALL that is in progress ends. `ok` is false for a flash error. -/
def State.installStep (s : State) (target : SlotId) (stage : InstallStage) (hash : List Byte) (image : Option Image)
    (programmed : List Byte) (ok sigOk : Bool) : State :=
  match stage with
  | .check =>
    if !s.sourceOk then s.endAcc .badSource
    else
      match s.stagedImage with
      | (t, none) => t
      | (t, some m) =>
        if imgNat m 16 4 ≠ s.acc.srcLength then t.endAcc .badSource
        else
          match imageCheck m sigOk s.acc.floor with
          | some r => t.endAcc r
          | none => t.updAcc' fun x => { x.setSlot target { st := .writing } with cmd := some (.install target .erase (imageHash m) none []) }
  | .erase =>
    if !ok then s.installFails target .flashFail
    else s.updAcc' fun x => { x with cmd := some (.install target .program hash none []), progress := 50 }
  | .program =>
    if !ok then s.installFails target .flashFail
    else if !s.sourceOk then s.installFails target .badSource
    else
      match s.stagedImage with
      | (t, none) => t
      | (t, some m) =>
        t.updAcc' fun x => { x with cmd := some (.install target .readBack hash (some (imageOf m)) (imageHash m)), progress := 99 }
  | .readBack =>
    if !ok then s.installFails target .flashFail
    else if programmed ≠ hash then s.installFails target .badSource
    else (s.updAcc' fun x => { x.setSlot target { st := .verified, image := image } with progress := 100 }).endAcc .ok

/-- The slot that INSTALL writes (R802). -/
def State.installTarget (s : State) : SlotId :=
  if s.dev.recovery then .a else if s.acc.running = some .a then .b else .a

/-! ## ACTIVATE and CONFIRM (R804, R805) -/

/-- The boot-control update of the command in progress is made (R790). -/
def State.bootControlEnd (s : State) : State :=
  match s.acc.cmd with
  | some (.activate i) =>
    let v := s.acc.slot i
    let v := if v.st = .confirmed then v else { v with st := .trial, failed := 0 }
    (s.updAcc' fun x => { x.setSlot i v with bootSeq := x.bootSeq + 1, next := i }).endAcc .ok
  | some .confirm =>
    match s.acc.running, s.acc.image with
    | some i, some m =>
      let x := s.acc.setSlot i { s.acc.slot i with st := .confirmed, failed := 0 }
      let raise := decide (x.floor < m.floorTo) && decide (0 < x.raisesLeft)
      let x := { x with
        bootSeq := x.bootSeq + 1, lastConfirmed := some i
        floor := if raise then m.floorTo else x.floor
        raisesLeft := if raise then x.raisesLeft - 1 else x.raisesLeft }
      State.endAcc { s with acc := x.floorAll } .ok
    | _, _ => s.endAcc .badState
  | _ => s

/-- The judgement of an ACC_COMMAND write (R801): NOT_OWNER, BUSY, SEALED, then BAD_STATE. -/
def State.judgeAcc (s : State) (p : Port) (allowed : Bool) (f : State → State) : State :=
  let fail (r : AccResult) : State := s.updAcc' fun x => { x with result := r }
  if !s.holds p 1 then fail .notOwner
  else if s.acc.busy then fail .busy
  else if s.faults.sealed then fail .sealed
  else if !allowed then fail .badState
  else f s

/-- An accepted command starts. -/
def State.startAcc (s : State) (c : AccCmd) : State :=
  (s.updAcc' fun x => { x with busy := true, cmd := some c, progress := 0 }).startFlash

/-- An INSTALL command (R801, R802). -/
def State.install (s : State) (p : Port) : State :=
  s.judgeAcc p (s.dev.ready || s.dev.recovery) fun s => s.startAcc (.install s.installTarget .check [] none [])

/-- An ACTIVATE command (R801, R804). -/
def State.activate (s : State) (p : Port) (i : SlotId) : State :=
  let st := (s.acc.slot i).st
  s.judgeAcc p (decide (st = .verified) || decide (st = .confirmed) || decide (st = .rejected)) fun s => s.startAcc (.activate i)

/-- A CONFIRM command (R801, R805). -/
def State.confirm (s : State) (p : Port) : State :=
  s.judgeAcc p (s.dev.ready && match s.acc.running with | some i => decide ((s.acc.slot i).st = .trial) | none => false)
    fun s => s.startAcc .confirm

/-- INSTALL (R802). -/
def execInstall (p : Port) (s : State) : Host.Outcome State Fault Refusal :=
  .next (s.whenReadyOrRecovery fun s => s.install p)

/-- ACTIVATE (R804). -/
def execActivate (p : Port) (i : SlotId) (s : State) : Host.Outcome State Fault Refusal :=
  .next (s.whenReadyOrRecovery fun s => s.activate p i)

/-- CONFIRM (R805). -/
def execConfirm (p : Port) (s : State) : Host.Outcome State Fault Refusal :=
  .next (s.whenReadyOrRecovery fun s => s.confirm p)

/-! ## FAULT_BOOK_APPEND -/

/-- FAULT_BOOK_APPEND (R743, R793): one record is appended. -/
def execFaultBookAppend (s : State) : Host.Outcome State Fault Refusal :=
  .next (if s.acc.pwrWarn then s else s.bookNext)

end Sys2Proof.Machine
end

