-- ==== Sys2Proof/Machine/Folio.lean ====
section
/-! DEFINITION. The bay controllers: what they send, enumeration, the FOL_ commands and the power-fail warning (chapter 16). -/

namespace Sys2Proof.Machine

def State.updBay (s : State) (b : Nat) (f : Bay → Bay) : State := s.setBay b (f (s.bay b))

/-- Rated write life, in sectors. -/
def ratedLife : Nat := 263882790666240

/-- FOL_WEAR_PCT. -/
def Bay.wearPct (x : Bay) : Nat := min 16383 (x.wear * 10000 / ratedLife)

/-- Rows 5 to 7 of Table 16-5. -/
def Bay.wearState (x : Bay) : BaySt :=
  if ratedLife ≤ x.wear then .readOnly else if 9 * ratedLife < 10 * x.wear then .worn else .good

/-- STATE as FOL_STATE and the FOLIO_STATE record give it. -/
def BaySt.code : BaySt → Nat | .absent => 0 | .foreign => 1 | .good => 2 | .worn => 3 | .readOnly => 4 | .retired => 5

/-- The states in which the M48 reads, commits and scrubs. -/
def BaySt.readable : BaySt → Bool | .good | .worn | .readOnly => true | _ => false

/-! ## Requests at a bay (R637, R638, R652, R667) -/

/-- The sector of a piece, and the bay it goes to. -/
def Piece.sectorNo (p : Piece) : Nat := match p.target with | .folio _ o => o / 512 | _ => 0
def Piece.atBay (p : Piece) (b : Nat) : Bool := match p.target with | .folio c _ => decide (c = b) | _ => false

def State.bayPieces (s : State) (b : Nat) : List Piece := s.pieces.filter fun p => p.atBay b

/-- The write covers its whole sector. -/
def Piece.wholeSector (p : Piece) : Bool := decide (p.wdata.length = 512) && p.wdata.all fun c => decide (c.2 = 0xFF)

/-- The next frame of a request is a WR. -/
def Piece.wrDue (p : Piece) : Bool := p.write && (p.wholeSector || p.sector.isSome)

/-- A sector with a write's bytes merged into it. -/
def Piece.merged (p : Piece) (old : List Byte) : List Byte :=
  let off := match p.target with | .folio _ o => o % 512 | _ => 0
  bytesAt (putMasked (putBytes [] 0 old) off p.wdata) 0 512

/-- An earlier request to the same sector has not finished (R637). -/
def State.sectorBusy (s : State) (b : Nat) (p : Piece) : Bool :=
  (s.bayPieces b).any fun q => decide (q.id < p.id) && decide (q.sectorNo = p.sectorNo)

/-- The WORN throttle holds writes until its next time comes (R652). -/
def State.throttles (s : State) (b : Nat) : Bool := decide ((s.bay b).st = .worn) && decide (s.tb.elapsed < (s.bay b).nextWr)

/-- A waiting request's next frame may be sent now. -/
def State.bayMaySend (s : State) (b : Nat) (p : Piece) : Bool :=
  let x := s.bay b
  decide (p.status = .heldBay) && x.linkUp && !x.resetting && !x.enumerating && !s.sectorBusy b p
    && decide (((s.bayPieces b).filter fun q => decide (q.status = .sent)).length < 4096)
    && (!p.wrDue || (!x.pwrHold && !s.throttles b))

/-- The least time between two WR frames at 7.0 GB/s, in 2^-16 ns. -/
def wrInterval : Nat := 4793491

/-- A request's next frame leaves. -/
def State.sendRequest (s : State) (b : Nat) (p : Piece) : State :=
  let mark (s : State) : State := { s with pieces := s.pieces.map fun q =>
    if q.id = p.id then { q with status := .sent, sentAt := s.tb.elapsed } else q }
  let s := s.updBay b fun x => { x with txSeq := x.txSeq + 1 }
  if p.wrDue then
    let (s, key) := s.needKey p.gal
    let plain := match p.sector with | some d => d | none => p.wdata.map fun c => c.1
    let s := s.updBay b fun x => { x with nextWr := s.tb.elapsed + wrInterval }
    (mark s).send (.folioWr b p.id p.sectorNo (xts key (sectorTweak (s.bay b).unit p.sectorNo) false plain))
  else (mark s).send (.folioRd b p.id p.sectorNo)

/-- A management request leaves. -/
def State.sendMg (s : State) (b : Nat) (job : MgJob) (op : MgOp) (arg : Nat) (payload : List Byte) : State :=
  (s.updBay b fun x => { x with mg := x.mg ++ [job], txSeq := x.txSeq + 1 }).send (.folioMg b op arg payload)

/-- What follows once requests have finished: EJECT sends LEDGER_COMMIT, and a bay reset retrains the link (R663, R816). -/
def State.bayDrained (s : State) (b : Nat) : State :=
  let x := s.bay b
  if x.ejecting then
    if x.ejectAt.isNone && (s.bayPieces b).isEmpty then
      (s.updBay b fun x => { x with ejectAt := some s.tb.elapsed }).sendMg b .ejectCommit .ledgerCommit 0 []
    else s
  else if x.resetting && !x.enumerating && !(s.bayPieces b).any fun p => decide (p.status = .sent) then
    s.updBay b fun x => { x with linkUp := false, enumerating := true, st := .absent, reason := .none, mg := [] }
  else s

/-- The bay controller sends what may go, in arrival order. -/
def State.pumpBay (s : State) (b : Nat) : State :=
  ((s.bayPieces b).foldl (fun t p => if t.bayMaySend b p then t.sendRequest b p else t) s).bayDrained b

/-- Every bay controller does. -/
def State.pumpBays (s : State) : State := (List.range 8).foldl (fun t b => t.pumpBay b) s

/-! ## Frames that arrive (R635, R636) -/

/-- The link accepts a frame whose CRC matches and whose SEQ is the next; any other is discarded with a NAK. A NAK makes
the sender replay. -/
def State.withFrame (s : State) (b : Nat) (h : FrameHdr) (f : State → State) : State :=
  let x := s.bay b
  if !x.linkUp then s
  else if !h.crcOk || decide (h.seq ≠ x.rxSeq) then s.send (.folioNak b (x.rxSeq - 1))
  else
    let s := s.updBay b fun x => { x with rxSeq := x.rxSeq + 1 }
    f (if h.nak then s.send (.folioReplay b (h.ack + 1)) else s)

/-! ## Enumeration (R639, R665, R811) -/

/-- A bay begins its enumeration. -/
def State.startEnum (s : State) (b : Nat) : State :=
  s.updBay b fun x => { x with enumerating := true, inLine := false, st := .absent, reason := .none }

/-- The lowest bay in line begins when no bay is being enumerated. -/
def State.nextEnum (s : State) : State :=
  if (List.range 8).any fun b => (s.bay b).enumerating then s
  else match (List.range 8).find? fun b => (s.bay b).inLine with
    | some b => s.startEnum b
    | none => s

/-- A bay's supply is switched on and the bay waits for its turn. -/
def State.powerBay (s : State) (b : Nat) : State :=
  (s.updBay b fun x => { x with supply := true, inLine := true }).send (.bayEnable b true)

/-- BAY_PRESENCE_HELD (R665). The bays of the FOLIOS phase are powered in their slots. -/
def execBayPresenceHeld (b : BayId) (s : State) : Host.Outcome State Fault Refusal :=
  .next (
    let s := s.updBay b.val fun x => { x with present := true }
    if (s.bay b.val).st ≠ .absent ∨ (s.bay b.val).enumerating ∨ (s.bay b.val).inLine ∨ !(s.dev.ready || s.dev.recovery) then s
    else (s.powerBay b.val).nextEnum)

/-- BAY_LINK_TRAINED (R639, R816): the link is up, and IDENT is sent. -/
def execBayLinkTrained (b : BayId) (s : State) : Host.Outcome State Fault Refusal :=
  .next (
    let x := s.bay b.val
    if !x.enumerating || !x.supply || x.linkUp then s
    else (s.updBay b.val fun x => { x with linkUp := true, txSeq := 0, rxSeq := 0, mg := [] }).sendMg b.val .enumIdent .ident 0 [])

/-- BAY_ENUMERATION_SLOT (R811): bay b is powered and enumerated in its slot, which starts at 300 + 50b ms; a bay that
has not finished by the end of its slot is left ABSENT, and is enumerated again after READY. -/
def execBayEnumerationSlot (b : BayId) (s : State) : Host.Outcome State Fault Refusal :=
  .next (
    let t := s.tb.elapsed - s.dev.bootStart
    if s.dev.phase ≠ .folios ∨ t < ms (300 + 50 * b.val) then s
    else
      let s := (List.range b.val).foldl (fun t c =>
        if (t.bay c).enumerating then t.updBay c fun x => { x with enumerating := false, inLine := true, linkUp := false, mg := [] }
        else t) s
      if (s.bay b.val).present && decide ((s.bay b.val).st = .absent) && !(s.bay b.val).enumerating && !(s.bay b.val).inLine then
        (s.powerBay b.val).startEnum b.val
      else s)

/-! ## FOL_COMMAND (R645, R646, R749) -/

/-- The states of Table 16-6. -/
def Bay.allowsCmd (x : Bay) (c : FolCmd) : Bool :=
  match c with
  | .adopt => decide (x.st = .foreign) && (decide (x.reason = .unsealed) || decide (x.reason = .otherDevice))
  | .eject => decide (x.st ≠ .absent)
  | .acceptKeys => decide (x.st = .foreign) && decide (x.reason = .otherDevice)
  | .retire | .exportKeys | .commit => x.st.readable

/-- The commands that a sealed part and a power-fail warning hold back (R668, R749). -/
def FolCmd.keyed : FolCmd → Bool | .adopt | .exportKeys | .acceptKeys => true | _ => false

def State.folResult (s : State) (b : Nat) (r : FolResult) : State := s.updBay b fun x => { x with result := r }

/-- A command ends. -/
def State.endFol (s : State) (b : Nat) (r : FolResult) : State :=
  s.updBay b fun x => { x with busy := false, cmd := none, cmdHeld := false, result := r }

/-- The galleries of FOL_XFER's mask. -/
def Bay.xferGals (x : Bay) : List Nat := (List.range 1024).filter fun g => bitAt (byteAt x.xfer (g / 8)).toNat (g % 8)

/-- The seal that names this device with the next seal epoch (Table 16-6). -/
def State.writeSeal (s : State) (b : Nat) (job : MgJob) : State :=
  let x := s.bay b
  (s.updBay b fun x => { x with mg := x.mg ++ [job], txSeq := x.txSeq + 1 }).send
    (.folioSeal b (s.dev.unit.setWidth 64) (x.sealEpoch + 1))

/-- A command that has been accepted begins. -/
def State.beginFol (s : State) (b : Nat) (c : FolCmd) : State :=
  let s := s.updBay b fun x => { x with cmdHeld := false }
  match c with
  | .adopt => s.writeSeal b .adopt
  | .eject => (s.updBay b fun x => { x with ejecting := true, ejectAt := none }).bayDrained b
  | .retire => (s.updBay b fun x => { x with st := .retired, reason := .none }).sendMg b .retire .retire 0 []
  | .exportKeys =>
    let gs := (s.bay b).xferGals
    let s := gs.foldl (fun t g => (t.needKey g).1) s
    (s.updBay b fun x => { x with mg := x.mg ++ [.exportKeys], txSeq := x.txSeq + 1 }).send (.folioRecord b gs)
  | .acceptKeys => s.sendMg b .acceptRead .metaRead 1 []
  | .commit => s.sendMg b (.commit true) .ledgerCommit 0 []

/-- The judgement of a FOL_COMMAND write, and its start or its wait for PWR_WARN_N. -/
def State.folCommand (s : State) (p : Port) (b : Nat) (c : FolCmd) (targetOk : Bool) : State :=
  let x := s.bay b
  if !s.holds p 2 then s.folResult b .notOwner
  else if x.busy then s.folResult b .busy
  else if !x.allowsCmd c || (s.faults.sealed && c.keyed) then s.folResult b .badState
  else if c = .exportKeys ∧ !targetOk then s.folResult b .badTarget
  else
    let s := s.updBay b fun x => { x with busy := true, cmd := some c, cmdHeld := x.pwrHold && c.keyed }
    if (s.bay b).cmdHeld then s else s.beginFol b c

/-- ADOPT (R645, R647). -/
def execAdopt (p : Port) (b : BayId) (s : State) : Host.Outcome State Fault Refusal :=
  .next (s.whenReady fun s => s.folCommand p b.val .adopt true)

/-- EJECT (R663). -/
def execEject (p : Port) (b : BayId) (s : State) : Host.Outcome State Fault Refusal :=
  .next (s.whenReady fun s => s.folCommand p b.val .eject true)

/-- FOL_RETIRE (R648). -/
def execFolRetire (p : Port) (b : BayId) (s : State) : Host.Outcome State Fault Refusal :=
  .next (s.whenReady fun s => s.folCommand p b.val .retire true)

/-- EXPORT (R659): `targetOk` is what verifying the target's chain up to the fused root gives. -/
def execFolExport (p : Port) (b : BayId) (targetOk : Bool) (s : State) : Host.Outcome State Fault Refusal :=
  .next (s.whenReady fun s => s.folCommand p b.val .exportKeys targetOk)

/-- ACCEPT (R660). -/
def execAccept (p : Port) (b : BayId) (s : State) : Host.Outcome State Fault Refusal :=
  .next (s.whenReady fun s => s.folCommand p b.val .acceptKeys true)

/-- FOL_COMMIT (R650). -/
def execFolCommit (p : Port) (b : BayId) (s : State) : Host.Outcome State Fault Refusal :=
  .next (s.whenReady fun s => s.folCommand p b.val .commit true)

/-- BAY_SUPPLY_OFF (R663): 1 ms after EJECT sent LEDGER_COMMIT. -/
def State.baySupplyOff (s : State) (b : Nat) : State :=
  match (s.bay b).ejectAt with
  | none => s
  | some t =>
    if !(s.bay b).ejecting || decide (s.tb.elapsed < t + ms 1) then s
    else
      let s := s.updBay b fun x => { x with
        st := .absent, reason := .none, supply := false, linkUp := false, ejecting := false, ejectAt := none, mg := [] }
      (s.endFol b .ok).send (.bayEnable b false)

/-- BAY_SUPPLY_OFF. -/
def execBaySupplyOff (b : BayId) (s : State) : Host.Outcome State Fault Refusal := .next (s.baySupplyOff b.val)

/-- A write of the whole nonce (R640). -/
def State.chalNonce (s : State) (b : Nat) (n : List Byte) : State :=
  let s := s.updBay b fun x => { x with nonce := putBytes [] 0 n }
  if (s.bay b).st = .absent then s else s.sendMg b .chal .challenge 0 n

/-- FOL_CHAL_NONCE. -/
def execFolChalNonce (b : BayId) (nonce : List Byte) (s : State) : Host.Outcome State Fault Refusal :=
  .next (s.whenReady fun s => s.chalNonce b.val (nonce.take 48))

/-- LEDGER_COMMIT_TIMER (R650). -/
def execLedgerCommitTimer (s : State) : Host.Outcome State Fault Refusal :=
  .next ((List.range 8).foldl (fun t b =>
    if (t.bay b).st.readable then t.sendMg b (.commit false) .ledgerCommit 0 [] else t) s)

/-- SCRUB_STATUS (R662). -/
def execScrubStatus (s : State) : Host.Outcome State Fault Refusal :=
  .next ((List.range 8).foldl (fun t b =>
    if (t.bay b).st.readable then t.sendMg b .scrub .scrubStatus 0 [] else t) s)

/-- A FOL_RESET write (R816). -/
def State.folReset (s : State) (p : Port) (b : Nat) : State :=
  let x := s.bay b
  if !s.holds p 2 then s.folResult b .notOwner
  else if x.st = .absent ∨ x.busy then s.folResult b .badState
  else (s.updBay b fun x => { x with busy := true, resetting := true }).bayDrained b

/-- FOL_RESET. -/
def execFolReset (p : Port) (b : BayId) (s : State) : Host.Outcome State Fault Refusal :=
  .next (s.whenReady fun s => s.folReset p b.val)

/-! ## The power-fail warning (R667 to R669, R793) -/

/-- Every bay controller stops WR frames and sends LEDGER_COMMIT. -/
def State.holdBays (s : State) : State :=
  (List.range 8).foldl (fun t b =>
    let t := t.updBay b fun x => { x with pwrHold := true }
    if (t.bay b).linkUp then t.sendMg b (.commit false) .ledgerCommit 0 [] else t) s

/-- PWR_WARN_N_FALL: the warning has lasted 50 ns. -/
def execPwrWarnNFall (s : State) : Host.Outcome State Fault Refusal :=
  .next (State.holdBays (s.updAcc' fun x => { x with
    pwrWarn := true, flash := if x.flash = some .accession then none else x.flash }))

/-- PWR_WARN_N_RELEASE: PWR_WARN_N has been high for 1 ms. Writes held by a thermal trip stay held (R783). -/
def execPwrWarnNRelease (s : State) : Host.Outcome State Fault Refusal :=
  .next (
    let s := (s.updAcc' fun x => { x with pwrWarn := false }).startFlash
    if s.pace.tripped then s
    else
      (List.range 8).foldl (fun t b =>
        let held := (t.bay b).cmdHeld
        let t := t.updBay b fun x => { x with pwrHold := false }
        let t := match (t.bay b).cmd, held with
          | some c, true => t.beginFol b c
          | _, _ => t
        t.pumpBay b) s)

end Sys2Proof.Machine
end

