-- ==== Sys2Proof/Machine/EngineRun.lean ====
section
/-! DEFINITION. The running of Cabinet calls: which call an engine takes, its passes and writes, the Folio mover's
read-back, and the judgement of its check (R603, R605, R619, R730, R731). -/

namespace Sys2Proof.Machine

/-! ## Agents -/

/-- The agent of a call's reads, and of its writes (Tables 5-6, 5-7). -/
def Call.reader (c : Call) : Agent := if c.engine = 0 then .stoveRead else if c.engine = 8 then .moverRead else .cabRead
def Call.writer (c : Call) : Agent := if c.engine = 0 then .stoveWrite else if c.engine = 8 then .moverWrite else .cabWrite

/-- An access of a call: its pieces are pieces of the CAB.CALL or STV.RUN (R605). -/
def State.callAcc (s : State) (c : Call) (a : Agent) (kind : AccKind) (todo : List Run) : State :=
  { s with
    nextAcc := s.nextAcc + 1
    accs := s.accs ++ [{ id := s.nextAcc, gal := c.gal, wo := some c.wo, hearth := c.hearth, stoker := c.stoker, pc := c.pc
                         seq := c.seq, agent := a, kind := kind, todo := todo }] }

/-- A call meets a fault: its work order ends at the CAB.CALL or STV.RUN, and the call ends (R431). -/
def State.failCall (s : State) (c : Call) (code : BitVec 8) : State :=
  ((s.countCabFault c.hearth c.id).updCall c.hearth c.id fun d => { d with failed := true, st := .finished }).faultWo c.wo code c.hearth c.stoker c.pc

/-! ## Taking a call (R603, R730) -/

/-- The quadrants whose calls an engine serves: its own, and those of fenced engines it substitutes. -/
def State.servedQuadrants (s : State) (q e : Nat) : List Nat :=
  (List.range 4).filter fun r => decide (r = q) || (bitAt (s.cabinet r).fenced.toNat (e - 1) && decide (s.substitute r e = some q))

/-- The first call for an engine in a post channel. -/
def Hearth.firstCall (x : Hearth) (e : Nat) : Option Call := x.calls.find? fun c => decide (c.engine = e) && decide (c.st = .queued)

/-- The next call of an engine: round-robin over the channels, from the one after that served last. -/
def State.nextCall (s : State) (q e : Nat) : Option Call :=
  let quads := s.servedQuadrants q e
  (rrOrder 48 (mget (12 * q + 47) (s.cabinet q).last e)).findSome? fun h =>
    if quads.contains (h / 12) then (s.hearth h).firstCall e else none

/-- The descriptor addresses of a call: SRC, DST, AUX and the bias. -/
def Call.descAddrs (c : Call) : List Nat :=
  [blkSrc c.block, blkDst c.block]
  ++ (if c.engine = 0 then (if blkAux c.block ≠ 0 then [blkAux c.block] else [])
      else if blkUsesAux c.block then [blkAux c.block] else [])
  ++ (if blkBias c.block ∧ c.engine ≠ 0 then [blkE c.block 1] else [])

/-- A call starts, or is run again from its start: it reads its descriptors (R605). -/
def State.startCall (s : State) (c : Call) : State :=
  let s := s.updCall c.hearth c.id fun d => { d with
    st := .desc, cabinet := c.cabinet, descs := [], passes := [], written := [], rewritten := false }
  if c.descAddrs.any fun a => decide (a % 8 ≠ 0) then s.failCall c fBadDescriptor
  else s.callAcc c c.reader (.callDesc c.id) (c.descAddrs.flatMap fun a => byteRuns a 128)

/-- ENGINE_CALL_START: a free engine takes its next call. -/
def State.engineCallStart (s : State) (q e : Nat) : State :=
  let x := s.cabinet q
  if s.pace.tripped || (mget none x.running e).isSome || bitAt x.fenced.toNat (e - 1) then s
  else
    match s.nextCall q e with
    | none => s
    | some c =>
      let s := s.setCabinet q { x with
        running := mset none x.running e (some (c.hearth, c.id)), last := mset (12 * q + 47) x.last e c.hearth }
      s.startCall { c with cabinet := q }

/-- ENGINE_CALL_START. Engines are numbered from 1; `e` counts from 0. -/
def execEngineCallStart (q : Fin 4) (e : Fin 8) (s : State) : Host.Outcome State Fault Refusal :=
  .next (s.engineCallStart q.val (e.val + 1))

/-! ## Passes and results -/

/-- Some bytes of the runs lie where the call writes (R534). -/
def State.callHits (s : State) (c : Call) (writes rs : List Run) : Bool :=
  rs.any fun r => match s.targetOf c.gal c.reader r.va with
    | some t => writes.any fun w => match s.targetOf c.gal c.writer w.va with
      | some u => overlaps c.hearth t r.len c.hearth u w.len
      | none => false
    | none => false

/-- The runs that go to a Folio. -/
def State.folioRuns (s : State) (c : Call) (rs : List Run) : List Run :=
  rs.filter fun r => match s.targetOf c.gal c.writer r.va with | some (.folio _ _) => true | _ => false

/-- Free values that one call may use. -/
def freeStride : Nat := 2 ^ 48

/-- The call's arithmetic is done: its drops are counted, and its writes go out. -/
def State.callWrites (s : State) (c : Call) (result : (Nat → Nat) → (List Run → Bool) → EngineOut) : State :=
  let fv (n : Nat) : Nat := (Config.free64 (s.free + n % freeStride)).toNat
  let plain := result fv fun _ => false
  let out := result fv fun rs => s.callHits c plain.runs rs
  let s := { s with free := s.free + freeStride }
  let s := if c.tries = 0 ∧ !c.moved then
      s.updWo c.wo fun w => { w with oobDrops := w.oobDrops + out.oob, sparseDrops := w.sparseDrops + out.sparse }
    else s
  if out.runs.isEmpty then s.updCall c.hearth c.id fun d => { d with st := .finished }
  else
    (s.updCall c.hearth c.id fun d => { d with
      st := .writing
      written := if c.engine = 8 ∧ bitAt (blkFlags c.block) 0 then s.folioRuns c out.runs else [] }).callAcc c c.writer
      (.callWrite c.id) out.runs

/-- The next pass of a call, or its writes once every pass is done; passes that read nothing are done at once. -/
def State.callNext (c : Call) : Nat → State → State
  | 0, s => s
  | fuel + 1, s =>
    match c.nextReads with
    | none => s.callWrites c c.result
    | some [] =>
      let c := { c with passes := c.passes ++ [[]] }
      State.callNext c fuel (s.updCall c.hearth c.id fun _ => c)
    | some rs => s.callAcc c c.reader (.callRead c.id) rs

/-- The descriptors that a call's bytes spell, or none when one fails its checks. -/
def parseAll : List (List Byte) → Option (List Desc)
  | [] => some []
  | b :: bs =>
    match parseDesc b, parseAll bs with
    | some d, some ds => some (d :: ds)
    | _, _ => none

/-- A Cabinet call has read its descriptors: it is checked, and its passes begin (R431, R608). -/
def State.callDescs (s : State) (c : Call) (ds : List Desc) : State :=
  let c := { c with descs := ds, st := .reading }
  let s := s.updCall c.hearth c.id fun _ => c
  match c.src?, c.dst? with
  | some src, some dst =>
    if engineOk c.block src dst c.aux? c.bias? then State.callNext c 4 s else s.failCall c fCabParam
  | _, _ => s

/-! ## The Folio mover's read-back (R619) -/

/-- The bytes of a run read back as they were written. -/
def Run.matches (r : Run) (buf : Sparse Byte) : Bool := decide (bytesAt buf r.va r.len = r.wdata.map fun b => b.1)

/-- The 4 KiB page of a run. -/
def Run.page (r : Run) : Nat := r.va / 4096

/-- What the mover read back is compared: it has ended, writes the pages that differ once more, or fails. -/
def State.moverVerify (s : State) (c : Call) (buf : Sparse Byte) : State :=
  let bad := c.written.filter fun r => !r.matches buf
  match bad with
  | [] => s.updCall c.hearth c.id fun d => { d with st := .finished }
  | r :: _ =>
    if c.rewritten then
      let loc := match s.targetOf c.gal c.writer r.va with
        | some (.folio b o) => (b, o / 512)
        | _ => (0, 0)
      let s := s.logFault { event := 0x14, cls := 2, unitKind := 6, unitIndex := loc.1, wo := s.naming (some c.wo), b := loc.2 }
      s.failCall c fFolioRead
    else
      let again := c.written.filter fun w => bad.any fun b => decide (b.page = w.page)
      (s.updCall c.hearth c.id fun d => { d with st := .writing, rewritten := true, written := again }).callAcc c c.writer
        (.callWrite c.id) again

/-- The writes of a call have reached their places: it has ended, or the mover reads back. -/
def State.callWritten (s : State) (c : Call) : State :=
  if c.written.isEmpty then s.updCall c.hearth c.id fun d => { d with st := .finished }
  else
    (s.updCall c.hearth c.id fun d => { d with st := .verify }).callAcc c c.reader (.callRead c.id)
      (c.written.map fun r => { r with wdata := [] })

/-! ## The end of a call (R730, R731, R738) -/

/-- A Cabinet call leaves its engine. -/
def State.freeEngine (s : State) (q e : Nat) : State :=
  let x := s.cabinet q
  s.setCabinet q { x with running := mset none x.running e none }

/-- Nothing of the call is in flight. -/
def State.callIdle (s : State) (c : Call) : Bool :=
  !(s.accs.any fun a => decide (a.hearth = c.hearth) && (match a.kind with
    | .callDesc i => decide (i = c.id) | .callRead i => decide (i = c.id) | .callWrite i => decide (i = c.id) | _ => false))

/-- Once an engine is fenced in all four Cabinets, the calls that wait for it end with CAB_ROUTE (R731). -/
def State.routeGone (s : State) (e : Nat) : State :=
  if !s.engineGone e then s
  else
    (s.hearths.flatMap fun x => x.2.calls.filter fun c => decide (c.engine = e) && decide (c.st = .queued)).foldl
      (fun t c => (t.failCall c fCabRoute).dropCall c.hearth c.id) s

/-- ENGINE_CALL_COMPLETE: the check of a call that has ended is judged. -/
def State.engineCallComplete (s : State) (q e : Nat) (ok : Bool) : State :=
  match mget none (s.cabinet q).running e with
  | none => s
  | some (h, id) =>
    match s.call? h id with
    | none => s.freeEngine q e
    | some c =>
      if s.pace.tripped || c.st ≠ .finished || !s.callIdle c then s
      else if c.failed then (s.dropCall h id).freeEngine q e
      else if ok then
        let s := if c.tries = 0 then s else
          s.countTransient.logTransient (3 * 4096 + 8 * q + e - 1)
            { event := 0x07, cls := 1, unitKind := 3, unitIndex := 8 * q + e - 1, wo := s.naming (some c.wo), a := e }
        let s := (s.dropCall h id).freeEngine q e
        let x := s.cabinet q
        s.setCabinet q { x with done := mset 0 x.done e (mget 0 x.done e + 1) }
      else if c.tries = 0 then (s.updCall h id fun d => { d with tries := 1 }).startCall c
      else
        let s := ((s.countLasting).fenceEngine q e true (s.naming (some c.wo))).freeEngine q e
        if s.engineGone e then ((s.failCall c fCabRoute).dropCall h id).routeGone e
        else s.updCall h id fun d => { d with st := .queued, moved := true, tries := 0 }

/-- ENGINE_CALL_COMPLETE. -/
def execEngineCallComplete (q : Fin 4) (e : Fin 8) (ok : Bool) (s : State) : Host.Outcome State Fault Refusal :=
  .next (s.engineCallComplete q.val (e.val + 1) ok)

end Sys2Proof.Machine
end

