-- ==== Sys2Proof/Machine/Stove.lean ====
section
/-! DEFINITION. The Stove: STV.LOAD, STV.RUN and STV.WAIT, pattern images, and what a pattern's cells compute
(R432 to R436, R622 to R633, R732). -/

namespace Sys2Proof.Machine

/-! ## Pattern images (Tables 15-5, 15-6) -/

/-- An entry of a pattern. -/
structure StvEntry where
  id : Nat
  lanes : Nat
  first : Nat
  steps : Nat
  inFmt : Fmt
  outFmt : Fmt
  auxFmt : Option Fmt

def imageBytes (m : List Byte) (off n : Nat) : List Byte := (m.drop off).take n
def imageNat (m : List Byte) (off n : Nat) : Nat := leNat (imageBytes m off n)
def imageEntries (m : List Byte) : Nat := imageNat m 6 2
def imageCells (m : List Byte) : Nat := imageNat m 12 2

/-- Entry `e`, when Table 15-6 allows it. -/
def stvEntry (m : List Byte) (e : Nat) : Option StvEntry :=
  let w := imageNat m (256 + 32 * e) 32
  let lanes := bits w 16 7
  let first := bits w 23 6
  let steps := bits w 29 6
  let ok := decide (w < 2 ^ 47) && [1, 2, 4, 8, 16, 32, 64].contains lanes && decide (first ≤ 55) && decide (1 ≤ steps)
    && decide (first + steps ≤ 56)
  match fmtOf (bits w 35 4), fmtOf (bits w 39 4), fmtOf (bits w 43 4), ok with
  | some i, some o, some a, true => some { id := bits w 0 16, lanes := lanes, first := first, steps := steps, inFmt := i, outFmt := o, auxFmt := some a }
  | some i, some o, none, true =>
    if bits w 43 4 = 15 then
      some { id := bits w 0 16, lanes := lanes, first := first, steps := steps, inFmt := i, outFmt := o, auxFmt := none }
    else none
  | _, _, _, _ => none

/-- Every byte is zero. -/
def allZero (bs : List Byte) : Bool := bs.all fun b => decide (b = 0)

/-- The checks of a load (R627, R628). -/
def patternOk (m : List Byte) : Bool :=
  let es := (List.range (imageEntries m)).map (stvEntry m)
  let cells := imageCells m
  decide (imageNat m 0 4 = 0x564F5453) && decide (imageNat m 4 2 = 1) && decide (1 ≤ imageEntries m) && decide (imageEntries m ≤ 56)
    && decide (imageNat m 8 4 = m.length) && decide (1 ≤ cells) && decide (cells ≤ 64) && decide (imageNat m 14 2 = 0)
    && decide (m.length = 2048 + cells * 1504) && decide (imageNat m 16 4 = crc32c 0 (m.drop 20)) && allZero (imageBytes m 20 236)
    && allZero (imageBytes m (256 + 32 * imageEntries m) (32 * (56 - imageEntries m)))
    && (es.all fun e => e.isSome) && decide ((es.filterMap fun e => e.map fun x => x.id).Nodup)
    && (List.range cells).all fun c => allZero (imageBytes m (2048 + 1504 * c + 1472) 32)

/-- The entry that a parameter block names. -/
def findEntry (m : List Byte) (id : Nat) : Option StvEntry :=
  (List.range (imageEntries m)).findSome? fun e => (stvEntry m e).bind fun x => if x.id = id then some x else none

/-! ## Cells (R622 to R625, Table 15-4) -/

/-- The registers of a cell. -/
structure CellRegs where
  r0 : W32 := 0
  r1 : W32 := 0
  acc : W32 := 0
  out : W32 := 0

/-- What the steps of one cell see: its table, the P registers, IN and AUXIN. -/
structure CellView where
  table : Nat → W32
  p : Nat → W32
  input : W32
  aux : W32

/-- A source of a step word; none for an unlisted code. -/
def CellRegs.source (c : CellRegs) (v : CellView) (code pk : Nat) : Option W32 :=
  match code with
  | 0 => some v.input
  | 1 => some c.r0
  | 2 => some c.r1
  | 3 => some c.acc
  | 4 => some v.aux
  | 5 => some (v.p pk)
  | _ => none

/-- The larger or smaller of two FP32 values; none where the rules name no result: a NaN, or zeros of both signs. -/
def fpPick (larger : Bool) (a b : W32) : Option W32 :=
  let x := ofF32 a.toNat
  let y := ofF32 b.toNat
  if f32IsNan a.toNat || f32IsNan b.toNat then none
  else if x.isZero && y.isZero && decide (a ≠ b) then none
  else if x.lt y = larger then some b else some a

/-- The result of a step's operation; none where the spec states none. -/
def stepValue (v : CellView) (w : Nat) (a : W32) (b : Option W32) : Option W32 :=
  let int := bitAt w 4
  let sh := bits w 13 5
  let f (op : Nat → Nat → Nat) : Option W32 := b.map fun y => BitVec.ofNat 32 (op a.toNat y.toNat)
  match bits w 0 4 with
  | 1 => if 24 < sh then none else some (v.table (a.toNat / 2 ^ sh % 256))
  | 2 => if int then b.map fun y => a + y else f f32Add
  | 3 => if int then b.map fun y => a - y else f f32Sub
  | 4 => if int then b.map fun y => if a.toInt < y.toInt then y else a else b.bind (fpPick true a)
  | 5 => if int then b.map fun y => if y.toInt < a.toInt then y else a else b.bind (fpPick false a)
  | 6 =>
    if int then some (BitVec.ofNat 32 (f32OfInt a.toInt))
    else if f32IsNan a.toNat then none else some (BitVec.ofNat 32 (convert .int32 (ofF32 a.toNat)))
  | 7 => some a
  | _ => none

/-- One step; `n` numbers the free values used so far. -/
def stepCell (v : CellView) (fv : Nat → Nat) (c : CellRegs × Nat) (w : Nat) : CellRegs × Nat :=
  if bits w 0 4 = 0 then c
  else
    let b := c.1.source v (bits w 8 3) (bits w 18 2)
    let r := (c.1.source v (bits w 5 3) (bits w 18 2)).bind fun a => stepValue v w a b
    let x := r.getD (BitVec.ofNat 32 (fv c.2))
    let n := if r.isSome then c.2 else c.2 + 1
    match bits w 11 2 with
    | 0 => ({ c.1 with r0 := x }, n)
    | 1 => ({ c.1 with r1 := x }, n)
    | 2 => ({ c.1 with acc := x }, n)
    | _ => ({ c.1 with out := x }, n)

/-- The step words of a cell that an entry runs; a cell the image does not describe runs only NOPs. -/
def cellSteps (m : List Byte) (e : StvEntry) (cell : Nat) : List Nat :=
  if cell < imageCells m then (List.range e.steps).map fun i => imageNat m (2048 + 1504 * cell + 1024 + 8 * (e.first + i)) 8 else []

/-- The accumulators of the cells, and the free values used. -/
structure SliceRegs where
  accs : Sparse W32 := []
  n : Nat := 0

/-- One lane in one pass: from cell `cell` on, `count` cells more. -/
def runLane (m : List Byte) (e : StvEntry) (p : Nat → W32) (aux : W32) (fv : Nat → Nat) : Nat → Nat → W32 → SliceRegs → W32 × SliceRegs
  | 0, _, input, s => (input, s)
  | count + 1, cell, input, s =>
    let v : CellView := { table := fun i => BitVec.ofNat 32 (imageNat m (2048 + 1504 * cell + 4 * i) 4), p := p, input := input, aux := aux }
    let r := (cellSteps m e cell).foldl (stepCell v fv) ({ acc := mget 0 s.accs cell }, s.n)
    runLane m e p aux fv count (cell + 1) r.1.out { accs := mset 0 s.accs cell r.1.acc, n := r.2 }

/-- An element as a Stove reads it: FP32 of a floating format, INT32 of an integer one (R625). -/
def stoveIn (f : Fmt) (x : Nat) : W32 := if f.isInt then BitVec.ofInt 32 (decodeInt f x) else BitVec.ofNat 32 (toF32 (decodeFloat f x))

/-- OUT converted to the format of DST (R625). -/
def stoveOut (f : Fmt) (x : W32) : Nat := if f.isInt then satInt f x.toInt else convert f (ofF32 x.toNat)

/-- The results of every element of a call, in walk order. -/
def runEntry (m : List Byte) (e : StvEntry) (p : Nat → W32) (w : Nat) (src aux : Nat → W32) (fv : Nat → Nat) : List W32 :=
  ((List.range w).foldl (fun (a : List W32 × SliceRegs) n =>
      let r := runLane m e p (aux n) fv (64 / e.lanes) (n % e.lanes * (64 / e.lanes)) (src n) a.2
      (r.1 :: a.1, r.2)) ([], {})).1.reverse

/-- AUX of a Stove call. -/
def Call.stvAux (c : Call) : Option Desc := c.descs[2]?

/-- What a Stove call writes. -/
def Call.stoveResult (c : Call) (m : List Byte) (e : StvEntry) (fv : Nat → Nat) (hit : List Run → Bool) : EngineOut :=
  match c.src?, c.dst? with
  | some src, some dst =>
    let rd := c.passed 0
    let p (i : Nat) : W32 := BitVec.ofNat 32 (blockWord c.block (4 + i))
    let aux (n : Nat) : W32 := match c.stvAux with | some a => stoveIn a.fmt (a.get rd (a.coordAt n)) | none => 0
    let ys := runEntry m e p src.walk (fun n => stoveIn src.fmt (src.get rd (src.coordAt n))) aux fv
    let out := dst.writeAll fun n _ => stoveOut dst.fmt ((ys[n]?).getD 0)
    if hit (src.readAll ++ (c.stvAux.map Desc.readAll).getD []) then out.opened fv else out
  | _, _ => {}

/-! ## STV.LOAD, STV.RUN, STV.WAIT -/

def State.updStove (s : State) (h : Nat) (f : Stove → Stove) : State := s.updHearth h fun x => { x with stove := f x.stove }

/-- The recorded pattern of a gallery on a slice. -/
def Stove.record (x : Stove) (g : Nat) : Option (Nat × Nat) := mget none x.recorded g
def Stove.setRecord (x : Stove) (g : Nat) (v : Option (Nat × Nat)) : Stove := { x with recorded := mset none x.recorded g v }

/-- That image is resident, loaded for that gallery. -/
def Stove.has (x : Stove) (g : Nat) (pat : Nat × Nat) : Bool :=
  decide (x.st = .resident) && decide (x.gal = g) && decide (x.src = pat.1) && decide (x.len = pat.2)

/-- A length that a pattern load takes. -/
def patternLen (n : Nat) : Bool := decide (8 ≤ n) && decide (n ≤ 98304) && decide (n % 8 = 0)

/-- STV.LOAD (R433, R435, R597, R732). -/
def State.stvLoad (s : State) (h k : Nat) : State :=
  s.issue h k 0x19 1 (fun _ => true) .none (fun w _ => decide (zSub w = 0) && decide (zImm w = 0)) (fun _ => false)
    (fun w => [sDst (zA w), sDst (zB w)]) fun w _ t =>
      let x := s.hearth h
      let y := x.stoker k
      let src := (y.sreg (zA w)).toNat
      let len := (y.sreg (zB w)).toNat
      if x.stove.fenced then .fault fStvAbsent
      else if !patternLen len || decide (src % 64 ≠ 0) then .fault fStvParam
      else
        let l : StoveLoad := { gal := y.gal, wo := y.wo, stoker := k, pc := y.pc, src := src, len := len }
        .next (t.updStove h fun z =>
          let done := z.has y.gal (src, len) && z.queue.isEmpty && z.cur.isNone
          let z := z.setRecord y.gal (some (src, len))
          if done then z else { z with queue := z.queue ++ [.load l] })

/-- STV.LOAD. -/
def execStvLoad (h : HearthId) (k : StokerId) (s : State) : Host.Outcome State Fault Refusal := .next (s.stvLoad h.val k.val)

/-- The checks of Table 9-16. -/
def stvBlockOk (b : List Byte) : Bool :=
  decide (bits (blockWord b 0) 16 48 = 0) && decide (blkSrc b < 2 ^ 52) && decide (blkDst b < 2 ^ 52) && decide (blkAux b < 2 ^ 52)

/-- STV.RUN (R434, R436, R598). -/
def State.stvRun (s : State) (h k : Nat) : State :=
  s.issue h k 0x19 2 (fun _ => true) .none
    (fun w _ => decide (zB w = 0) && decide (zSub w = 0) && decide (zImm w = 0)) (fun _ => false) (fun w => [sDst (zA w)])
    fun w _ t =>
      let x := s.hearth h
      let y := x.stoker k
      let va := (y.sreg (zA w)).toNat
      if x.stove.fenced then .fault fStvAbsent
      else
        match x.stove.record y.gal with
        | none => .fault fStvAbsent
        | some pat =>
          if !x.stoveRoute then .fault fCabRoute
          else if x.callFull k false || !s.callReleased h k then .hold
          else
            match s.hobRange y.gal va 64 with
            | some code => .fault code
            | none =>
              let b := s.hobBlock h y.gal va 64
              if va % 64 ≠ 0 ∨ !stvBlockOk b then .fault fStvParam
              else .next ((s.postCall t h k 0 b pat).updStove h fun z => { z with queue := z.queue ++ [.call x.nextId] })

/-- STV.RUN. -/
def execStvRun (h : HearthId) (k : StokerId) (s : State) : Host.Outcome State Fault Refusal := .next (s.stvRun h.val k.val)

/-- STV.WAIT. -/
def execStvWait (h : HearthId) (k : StokerId) (s : State) : Host.Outcome State Fault Refusal :=
  .next (s.callWait h.val k.val 0x19 false)

/-! ## Loads (R433 to R435, R628 to R631) -/

/-- The head of the queue is served. -/
def State.popStove (s : State) (h : Nat) : State := s.updStove h fun z => { z with queue := z.queue.drop 1 }

/-- A load starts: its image is read as a STOVE_LOAD source (R433, R633). -/
def State.startLoad (s : State) (h : Nat) (l : StoveLoad) : State :=
  let s := s.updStove h fun z => { z with
    st := .loading, gal := l.gal, src := l.src, len := 0, image := [], cur := some (l, s.nextAcc)
    loads := z.loads + 1
    reloads := if l.call.isSome then satAdd 65535 z.reloads 1 else z.reloads }
  { s with
    nextAcc := s.nextAcc + 1
    accs := s.accs ++ [{ id := s.nextAcc, gal := l.gal, wo := some l.wo, hearth := h, stoker := l.stoker, pc := l.pc, seq := 0
                         agent := .imageRead, kind := .pattern, todo := byteRuns l.src l.len }] }

/-- The Stokers of a STOVE_LOAD have all finished: its blocks are written to every Hearth (Table 3-10). -/
def State.orderLoaded (s : State) (l : StoveLoad) : State :=
  if (s.stokersOf l.wo).all fun p => decide ((s.stoker p.1 p.2).st = .halted) then
    s.updWo l.wo fun w => { w with progress := (l.len + 63) / 64 }
  else s

/-- A load has ended. -/
def State.endLoad (s : State) (h : Nat) (l : StoveLoad) (image : Option (List Byte)) : State :=
  match image with
  | some m =>
    let s := s.updStove h fun z => { z with st := .resident, len := l.len, image := m, cur := none }
    if l.order then
      let y := s.stoker h l.stoker
      if y.wo = l.wo ∧ y.st = .parkedCall then (s.parkAs h l.stoker .halted .none).orderLoaded l else s
    else s
  | none =>
    s.updStove h fun z =>
      let z := { z with st := .empty, len := 0, image := [], cur := none }
      if z.record l.gal = some (l.src, l.len) then z.setRecord l.gal none else z

/-- The image of the load in progress has come, or has failed: it is checked. -/
def State.checkLoad (s : State) (h : Nat) (l : StoveLoad) (id : Nat) : State :=
  match s.acc? id with
  | none => s
  | some a =>
    if !a.todo.isEmpty || s.pieces.any fun p => decide (p.owner = .acc id) then s
    else
      let m := bytesAt a.buf l.src l.len
      let s := s.dropAcc id
      if a.err.isSome then s.endLoad h l none
      else if patternOk m then s.endLoad h l (some m)
      else (s.endLoad h l none).faultWo l.wo fStvParam h l.stoker l.pc

/-- A Stove call that cannot run leaves the queue, and its work order ends. -/
def State.refuseStoveCall (s : State) (c : Call) (code : BitVec 8) : State :=
  ((s.popStove c.hearth).failCall c code).dropCall c.hearth c.id

/-- PATTERN_LOAD: the load in progress ends, or the next load starts. -/
def State.patternLoad (s : State) (h : Nat) : State :=
  let x := (s.hearth h).stove
  match x.cur with
  | some (l, id) => s.checkLoad h l id
  | none =>
    match x.queue with
    | [] => s
    | .load l :: _ => if x.has l.gal (l.src, l.len) && !l.order then s.popStove h else (s.popStove h).startLoad h l
    | .call id :: _ =>
      match s.call? h id with
      | none => s.popStove h
      | some c =>
        if c.st ≠ .queued ∨ x.has c.gal c.pat then s
        else if (x.record c.gal).isNone then s.refuseStoveCall c fStvAbsent
        else s.startLoad h { gal := c.gal, wo := c.wo, stoker := c.stoker, pc := c.pc, src := c.pat.1, len := c.pat.2, call := some id }

/-- PATTERN_LOAD. -/
def execPatternLoad (h : HearthId) (s : State) : Host.Outcome State Fault Refusal := .next (s.patternLoad h.val)

/-! ## Calls (R622, R629, R732) -/

/-- The entry that a call runs in the resident pattern. -/
def Stove.entryOf (x : Stove) (c : Call) : Option StvEntry := findEntry x.image (bits (blockWord c.block 0) 0 16)

/-- STOVE_CALL_START: the call at the head of the slice starts once its pattern is resident. -/
def State.stoveCallStart (s : State) (h : Nat) : State :=
  let x := (s.hearth h).stove
  if s.pace.tripped then s
  else
  match x.cur, x.queue with
  | none, .call id :: _ =>
    match s.call? h id with
    | none => s.popStove h
    | some c =>
      if c.st ≠ .queued ∨ !x.has c.gal c.pat then s
      else
        match x.entryOf c with
        | none => s.refuseStoveCall c fStvParam
        | some e =>
          if e.auxFmt.isSome = decide (blkAux c.block ≠ 0) then s.startCall c else s.refuseStoveCall c fStvParam
  | _, _ => s

/-- STOVE_CALL_START. -/
def execStoveCallStart (h : HearthId) (s : State) : Host.Outcome State Fault Refusal := .next (s.stoveCallStart h.val)

/-- The descriptors of a Stove call suit its entry (R629). -/
def stoveDescsOk (e : StvEntry) (ds : List Desc) : Bool :=
  let plain (d : Desc) (f : Fmt) : Bool := decide (d.fmt = f) && d.unscaled && d.dense
  match ds, e.auxFmt with
  | [src, dst], none => plain src e.inFmt && plain dst e.outFmt && decide (dst.walk = src.walk)
  | [src, dst, aux], some f =>
    plain src e.inFmt && plain dst e.outFmt && plain aux f && decide (dst.walk = src.walk) && decide (aux.walk = src.walk)
  | _, _ => false

/-- A Stove call has read its descriptors. -/
def State.stoveDescs (s : State) (c : Call) (ds : List Desc) : State :=
  match (s.hearth c.hearth).stove.entryOf c with
  | none => s.failCall c fStvParam
  | some e =>
    if !stoveDescsOk e ds then s.failCall c fStvParam
    else
      let c := { c with descs := ds, st := .reading }
      let s := s.updCall c.hearth c.id fun _ => c
      let rs := (ds.eraseIdx 1).flatMap Desc.readAll
      if rs.isEmpty then
        let c := { c with passes := [[]] }
        s.callWrites c (c.stoveResult (s.hearth c.hearth).stove.image e)
      else s.callAcc c c.reader (.callRead c.id) rs

/-- A Stove call has read its elements. -/
def State.stoveRead (s : State) (c : Call) : State :=
  let x := (s.hearth c.hearth).stove
  match x.entryOf c with
  | none => s.failCall c fStvParam
  | some e => s.callWrites c (c.stoveResult x.image e)

/-- Everything that waits for a fenced slice ends with STV_ABSENT (R732). -/
def State.stoveGone (s : State) (h : Nat) : State :=
  let items := (s.hearth h).stove.queue
  let run := (s.hearth h).calls.filter fun c => decide (c.engine = 0) && decide (c.st ≠ .queued)
  let keep (i : StoveItem) : Bool := match i with | .call id => run.any fun c => decide (c.id = id) | .load _ => false
  let s := s.updStove h fun z => { z with queue := z.queue.filter keep }
  items.foldl (fun t i =>
    if keep i then t
    else
      match i with
      | .load l => t.faultWo l.wo fStvAbsent h l.stoker l.pc
      | .call id => match t.call? h id with
        | some c => (t.failCall c fStvAbsent).dropCall h id
        | none => t) s

/-- STOVE_CALL_COMPLETE: the check of the call that has ended is judged. -/
def State.stoveCallComplete (s : State) (h : Nat) (ok : Bool) : State :=
  match (s.hearth h).stove.queue with
  | .call id :: _ =>
    match s.call? h id with
    | none => s.popStove h
    | some c =>
      let entry := bits (blockWord c.block 0) 0 16
      if s.pace.tripped || c.st ≠ .finished || !s.callIdle c then s
      else if c.failed then (s.popStove h).dropCall h id
      else if ok then
        let s := if c.tries = 0 then s else
          s.countTransient.logTransient (4 * 4096 + h)
            { event := 0x09, cls := 1, unitKind := 4, unitIndex := h, wo := s.naming (some c.wo), a := entry }
        (s.popStove h).dropCall h id
      else if c.tries = 0 then (s.updCall h id fun d => { d with tries := 1 }).startCall c
      else
        let s := s.countLasting.fenceStove h entry true (s.naming (some c.wo))
        (((s.popStove h).failCall c fStvAbsent).dropCall h id).stoveGone h
  | _ => s

/-- STOVE_CALL_COMPLETE. -/
def execStoveCallComplete (h : HearthId) (ok : Bool) (s : State) : Host.Outcome State Fault Refusal :=
  .next (s.stoveCallComplete h.val ok)

end Sys2Proof.Machine
end

