-- ==== Sys2Proof/Machine/Complete.lean ====
section
/-! DEFINITION. The sending and the end of pieces, and what the data of an access do when all of it has come
(chapters 5, 6, 8, 13 and 15); stream halts and resumes; the fault commit. -/

namespace Sys2Proof.Machine

/-! ## The end of an access -/

/-- Nothing of the access is still to be sent or is in flight. -/
def State.accIdle (s : State) (a : Acc) : Bool := a.todo.isEmpty && !s.pieces.any fun p => decide (p.owner = .acc a.id)

/-- A call's descriptors have come (R431, R605, R629). -/
def State.callDescsCome (s : State) (a : Acc) (c : Call) : State :=
  match parseAll (c.descAddrs.map fun va => bytesAt a.buf va 128) with
  | none => s.failCall c fBadDescriptor
  | some ds => if c.engine = 0 then s.stoveDescs c ds else s.callDescs c ds

/-- A pass of a call has come, or what the Folio mover reads back. -/
def State.callPassCome (s : State) (a : Acc) (c : Call) : State :=
  if c.st = .verify then s.moverVerify c a.buf
  else
    let c := { c with passes := c.passes ++ [a.buf] }
    let s := s.updCall c.hearth c.id fun _ => c
    if c.engine = 0 then s.stoveRead c else State.callNext c 4 s

/-- An access of a call has ended: a failed one ends the call. -/
def State.callAccEnds (s : State) (a : Acc) (id : Nat) (f : State → Call → State) : State :=
  match s.call? a.hearth id with
  | none => s
  | some c => if a.err.isSome then s.updCall a.hearth id fun d => { d with failed := true, st := .finished } else f s c

/-- An Ember operation whose pairs have come is made, or waits for earlier ones or for an Exchange line. -/
def State.emberCome (s : State) (a : Acc) (dst : Option Dst) (va m : Nat) : State :=
  match s.finishEmber a dst va m with
  | some t => t.dropAcc a.id
  | none => match s.emberLine a va m with
    | some l => if s.emberOut a.hearth a.stoker a.seq then s else s.askAsh a.gal l
    | none => s

/-- What an access does once all of it has come (R243 to R258, R359, R410, R421, R605, R628). -/
def State.finishAcc (s : State) (id : Nat) : State :=
  match s.acc? id with
  | none => s
  | some a =>
    if !s.accIdle a then s
    else
      let v := leNat (bytesAt a.buf a.base 8)
      let t := s.dropAcc id
      let whole (u : State) : State := if a.err.isSome then t else u
      match a.kind with
      | .load dst size sext => whole (t.deliver a dst (loadValue size sext (leNat (bytesAt a.buf a.base size))))
      | .ldarg dst => whole (t.deliver a dst v)
      | .flagAdd dst _ =>
        whole ((t.deliver a dst v).updStoker a.hearth a.stoker fun x => { x with adds := x.adds.filter fun n => decide (n ≠ a.seq) })
      | .flagWait _ _ _ => whole (t.flagSeen a.hearth a.stoker (BitVec.ofNat 64 v))
      | .strDesc d => whole (t.openDesc a d (a.bytes a.base 128))
      | .fluDesc op => whole (t.fluDescRead a op (a.bytes a.base 128))
      | .ember dst va m => if a.err.isSome then t else s.emberCome a dst va m
      | .callDesc c => t.callAccEnds a c fun u c => u.callDescsCome a c
      | .callRead c => t.callAccEnds a c fun u c => u.callPassCome a c
      | .callWrite c => t.callAccEnds a c fun u c => u.callWritten c
      | .pattern => s
      | .store | .flagSet | .fluWrite | .emberInit | .place => t

/-! ## The end of a piece -/

/-- Bytes of a PLACE are written to the Program Stores of its Hearths (R285). -/
def State.placeBytes (s : State) (p : Piece) (bs : List Byte) : State :=
  match p.wo with
  | none => s
  | some id =>
    match s.wo? id with
    | none => s
    | some w =>
      let off := w.offset + (p.va - w.argAddr)
      let s := (hearthsOf w.hearths).foldl (fun t h => t.updHearth h fun x => { x with ps := putBytes x.ps off bs }) s
      s.updWo id fun w => { w with progress := w.progress + (bs.length + 63) / 64 }

/-- The bytes of an access's piece have come. -/
def State.accData (s : State) (p : Piece) (id : Nat) (bs : List Byte) : State :=
  match s.acc? id with
  | none => s
  | some a =>
    match a.kind with
    | .place => s.placeBytes p bs
    | _ => if bs.isEmpty then s else s.updAcc id fun a => { a with buf := putBytes a.buf p.va bs }

/-- What a Stoker waits for may have come. -/
def State.settlePiece (s : State) (p : Piece) : State :=
  let s := match p.owner with
    | .acc id => s.finishAcc id
    | .stream d _ _ | .scale d _ | .image d _ _ =>
      (((s.settleStream p.hearth p.stoker d).settleLatches p.hearth).settleRestart p.hearth p.stoker d).unbindHalted p.hearth p.stoker
  s.settleRels p.hearth p.stoker

/-- A piece ends well; a read brings its bytes. -/
def State.pieceEnd (s : State) (p : Piece) (bs : List Byte) : State :=
  let s := s.dropPiece p.id
  let s := match p.owner with
    | .acc id => s.accData p id bs
    | _ => s.streamArrive p bs
  s.settlePiece p

/-- A piece fails: it ends its work order. -/
def State.pieceFails (s : State) (p : Piece) (code : BitVec 8) : State := ((s.dropPiece p.id).pieceFault p code).settlePiece p

/-- A unit whose check can fail on the piece: the place it reads or the way to it, the units that made it, and the arrays
and the sequencer that the instruction behind it went through on its Hearth (Table 18-1). -/
def Piece.checkedBy (p : Piece) (u : CheckUnit) : Bool :=
  match u, p.target with
  | .shared, .shared _ | .shared, .exchange _ => !p.write
  | .mesh, .shared _ | .mesh, .exchange _ => true
  | .shared, _ | .mesh, _ | .workingBank, _ => false
  | .hob, .hob _ => !p.write
  | .hob, _ => false
  | .tagBuffer, _ | .streamUnit, _ => match p.owner with | .acc _ => false | _ => true
  | .latch, _ => decide (p.agent = .grateRead)
  | .firebox, _ | .flue, _ => decide (p.agent = .flueWrite)
  | .ember, _ | .programStore, _ | .registerFile, _ | .sequencer, _ => decide (p.stoker < 16)

/-- The offset that a check's record names: of the place, of the word in the Program Store, or a free value for an array
whose word addresses the spec does not give. -/
def State.checkOff (s : State) (u : CheckUnit) (p : Piece) : State × Nat :=
  match u, p.target with
  | .shared, .exchange o | .mesh, .exchange o => (s, s.exchStart + o)
  | .shared, .shared o | .mesh, .shared o => (s, o)
  | .hob, .hob o => (s, o)
  | .programStore, _ => (s, p.pc)
  | _, _ => (s.takeFree.1, s.takeFree.2.toNat)

/-- FLAG.ADD at its bank (R256): the old value comes back and the sum is written. -/
def State.addPiece' (s : State) (p : Piece) (old : List Byte) : State :=
  match p.owner with
  | .acc id =>
    match s.acc? id with
    | some a =>
      match a.kind with
      | .flagAdd _ addend =>
        s.applyPiece { p with wdata := fullMask (natLe 8 (BitVec.ofNat 64 (leNat old) + addend).toNat) }
      | _ => s
    | none => s
  | _ => s

/-- The piece goes to host memory. -/
def Piece.toHost (p : Piece) : Bool := match p.target with | .host _ => true | _ => false

/-- The bytes that a write to host memory had to read have come: it is issued with its own bits merged in (R267). -/
def State.hostMerge (s : State) (p : Piece) (old : List Byte) : State :=
  let p := { p with sector := some (bytesAt (putMasked (putBytes [] 0 old) 0 p.wdata) 0 p.len), status := .heldPort }
  let s := { s with pieces := s.pieces.map fun (q : Piece) => if q.id = p.id then p else q }
  if (s.port (s.gal p.gal).home).usable then s.issueHost p else s

/-- The end of a write to host memory lets the reads go that waited for it (R267, R268). -/
def State.hostWritten (s : State) (p : Piece) : State :=
  match p.target with
  | .host _ => s.releaseHeld (s.gal p.gal).home
  | _ => s

/-- The piece meets its place: a read fetches, a write is applied. -/
def State.pieceAtPlace (s : State) (p : Piece) (ret : List Byte) : State :=
  if p.agent = .flagAdd then
    match s.fetchPiece p ret with
    | .data bs => (s.addPiece' p bs).pieceEnd p bs
    | .bad code => s.pieceFails p code
  else if p.toHost && p.readsFirst then s.hostMerge p ret
  else if p.write then ((s.applyPiece p).pieceEnd p []).hostWritten p
  else
    match s.fetchPiece p ret with
    | .data bs => s.pieceEnd p bs
    | .bad code => s.pieceFails p code

/-- The outcome of a check on the way (R716, R719, R721, R722), and then the piece's own. -/
def State.pieceChecked (s : State) (p : Piece) (ret : PieceReturn) : State :=
  match ret.check with
  | none => s.pieceAtPlace p ret.data
  | some (u, v) =>
    if !p.checkedBy u then s.pieceAtPlace p ret.data
    else
      let s := (s.checkOff u p).1.judge u v p.hearth (s.checkOff u p).2 p.wo
      match u, v with
      | .shared, .lasting | .mesh, .lasting => s.pieceFails p fEccLasting
      | _, .lasting => (s.dropPiece p.id).settlePiece p
      | _, _ => s.pieceAtPlace p ret.data

/-- The piece is at a bay. -/
def Piece.inFolio (p : Piece) : Bool := match p.target with | .folio _ _ => true | _ => false

/-- PIECE_COMPLETE (R188, R241, R268, R539, R826). -/
def State.pieceComplete (s : State) (id : Nat) (ret : PieceReturn) : State :=
  match s.piece? id with
  | none => s
  | some p =>
    if p.status ≠ .sent ∨ p.inFolio ∨ s.writeOrderHolds p then s
    else
      match p.target with
      | .exchange o =>
        let ls := linesOf o p.len
        let (t, ok) := s.askLines (.piece id) (if p.write then .devWrite else .devRead) ls
        if ok then (t.pieceChecked p ret).pumpLines ls else t
      | _ => s.pieceChecked p ret

/-- PIECE_COMPLETE. -/
def execPieceComplete (id : Nat) (ret : PieceReturn) (s : State) : Host.Outcome State Fault Refusal :=
  .next (s.pieceComplete id ret).pumpBays

/-- HOST_COMPLETION_TIMEOUT (R151): completion timeout, Unsupported Request or Completer Abort. -/
def State.hostTimeout (s : State) (id : Nat) : State :=
  match s.piece? id with
  | none => s
  | some p =>
    match p.target, p.write && !p.readsFirst, p.status with
    | .host _, false, .sent => (s.countHostFail (s.gal p.gal).home).pieceFails p fHostFail
    | _, _, _ => s

/-- HOST_COMPLETION_TIMEOUT. -/
def execHostCompletionTimeout (id : Nat) (s : State) : Host.Outcome State Fault Refusal := .next (s.hostTimeout id).pumpBays

/-! ## Sending -/

/-- PIECE_SEND (R218, R356). -/
def execPieceSend (u : SendUnit) (s : State) : Host.Outcome State Fault Refusal :=
  .next (match u with
    | .stream h k d => (s.sendStream h.val k.val d.val).pumpBays
    | .access id => ((s.sendAcc id).finishAcc id).pumpBays
    | .bay b => s.pumpBay b.val
    | .fenline p => s.drainInbox p.val)

/-! ## Halts and resumes -/

/-- The fault record is written by the queue front end. -/
def State.writeFault (s : State) (g va : Nat) (bs : List Byte) : Option Bool × State :=
  match s.writeRecord g 8 va bs with
  | .done t => (some true, t)
  | .waits t => (some false, t)
  | .failed t => (none, t)

/-- STREAM_HALT (R551, R493). -/
def State.streamHalts (s : State) (h k d : Nat) : State :=
  let t := s.streamHalt h k d State.writeFault
  match t.stream? h k d with
  | some x => if x.halted then t.handover h k d else t
  | none => t

/-- STREAM_HALT. -/
def execStreamHalt (h : HearthId) (k : StokerId) (d : Fin 16) (s : State) : Host.Outcome State Fault Refusal :=
  .next (s.streamHalts h.val k.val d.val)

/-- A write of a fault sequence number to DB_RESUME (R137, R559, R562). -/
def State.dbResume (s : State) (g : Nat) (seq : W32) : State :=
  match s.haltedOn g seq with
  | none => s.dropStale g
  | some (h, k, d) => (s.updStream h k d fun x => { x with halt := none }).updStoker h k Stoker.resumed

/-- DB_RESUME (R110, R137). -/
def execDbResume (p : Port) (g : GalleryId) (seq : W32) (s : State) : Host.Outcome State Fault Refusal :=
  .next (s.doorbell p g.val takesAbort fun s => s.dbResume g.val seq)

/-- FAULT_COMMIT (R315, R317): a fault detected in a work order, with the HEARTH, STOKER and PC of its record. -/
def execFaultCommit (wo : Nat) (code hearth : BitVec 8) (stoker : StokerId) (pc : BitVec 18) (s : State) :
    Host.Outcome State Fault Refusal :=
  .next (s.endWo wo { status := .faulted, faultCode := code, hearth := hearth, stoker := BitVec.ofNat 4 stoker.val, pc := pc })

end Sys2Proof.Machine
end

