-- ==== Sys2Proof/Machine/FolioIo.lean ====
section
/-! DEFINITION. The frames that a Folio returns, bay timeouts, the loss of a bay or of the serial clock, and the end of a
boot-flash operation (chapters 16, 18 to 20). -/

namespace Sys2Proof.Machine

def fFolioState : BitVec 8 := 0x16

/-! ## Requests (R637, R638, R651, R653, R661) -/

/-- The outstanding request with a tag. -/
def State.bayRequest (s : State) (b tag : Nat) : Option Piece :=
  s.pieces.find? fun p => decide (p.id = tag) && p.atBay b && decide (p.status = .sent)

/-- One piece changed in place. -/
def State.updPiece (s : State) (id : Nat) (f : Piece → Piece) : State :=
  { s with pieces := s.pieces.map fun p => if p.id = id then f p else p }

/-- A record about a bay. -/
def bayRecord (event cls b a x : Nat) (wo : Option (Nat × Nat × Nat)) : FaultInfo :=
  { event := event, cls := cls, unitKind := 6, unitIndex := b, wo := wo, a := a, b := x }

/-- A sector has come (RD_DATA). -/
def State.sectorCome (s : State) (b : Nat) (p : Piece) (cipher : List Byte) : State :=
  let (s, key) := s.needKey p.gal
  let plain := xts key (sectorTweak (s.bay b).unit p.sectorNo) true cipher
  let s := if p.retried then s.updBay b fun x => { x with readRetries := satAdd 65535 x.readRetries 1 } else s
  let off := match p.target with | .folio _ o => o % 512 | _ => 0
  if p.write then s.updPiece p.id fun q => { q with status := .heldBay, retried := false, sector := some (q.merged plain) }
  else s.pieceEnd p ((plain.drop off).take p.len)

/-- The thresholds of R651, judged at a WR_ACK. -/
def State.wearCheck (s : State) (b : Nat) : State :=
  let become (st : BaySt) (s : State) : State :=
    let s := s.updBay b fun x => { x with st := st, reason := .none }
    s.logFault (bayRecord 0x12 0 b st.code (s.bay b).wearPct none)
  let s := if (s.bay b).st = .good ∧ (s.bay b).wearState ≠ .good then become .worn s else s
  if (s.bay b).st = .worn ∧ (s.bay b).wearState = .readOnly then become .readOnly s else s

/-- A write has been acknowledged (WR_ACK). -/
def State.sectorWritten (s : State) (b : Nat) (p : Piece) : State :=
  ((s.updBay b fun x => { x with wear := x.wear + 1 }).wearCheck b).pieceEnd p []

/-- A request has failed: it is sent once more, or ends its work order. -/
def State.requestFails (s : State) (b : Nat) (p : Piece) : State :=
  if !p.retried then s.updPiece p.id fun q => { q with status := .heldBay, retried := true }
  else if p.wrDue then
    let s := s.updBay b fun x => { x with
      st := if x.st.readable then .readOnly else x.st
      reason := if x.st.readable then .writeFailed else x.reason
      writeFails := satAdd 65535 x.writeFails 1 }
    (s.countLasting.logFault (bayRecord 0x11 2 b 0 p.sectorNo (s.naming p.wo))).pieceFails p fFolioState
  else
    let s := s.updBay b fun x => { x with readFails := satAdd 65535 x.readFails 1 }
    (s.countLasting.logFault (bayRecord 0x10 2 b 0 p.sectorNo (s.naming p.wo))).pieceFails p fFolioRead

/-- A frame for an outstanding request. -/
def State.onRequest (s : State) (b : Nat) (h : FrameHdr) (tag : Nat) (f : State → Piece → State) : State :=
  State.pumpBays (s.withFrame b h fun s => match s.bayRequest b tag with | some p => f s p | none => s)

/-- RD_DATA (R637). -/
def execRdData (b : BayId) (h : FrameHdr) (tag : Nat) (data : List Byte) (s : State) : Host.Outcome State Fault Refusal :=
  .next (s.onRequest b.val h tag fun s p => if p.wrDue then s else s.sectorCome b.val p data)

/-- WR_ACK (R651). -/
def execWrAck (b : BayId) (h : FrameHdr) (tag : Nat) (s : State) : Host.Outcome State Fault Refusal :=
  .next (s.onRequest b.val h tag fun s p => if p.wrDue then s.sectorWritten b.val p else s)

/-- ERR (R653, R661): UNCORRECTABLE, PROGRAM_FAIL, BAD_REQUEST and BUSY are handled alike. -/
def execErr (b : BayId) (h : FrameHdr) (tag : Nat) (e : FrameErr) (s : State) : Host.Outcome State Fault Refusal :=
  .next (s.onRequest b.val h tag fun s p => match e with
    | .uncorrectable | .programFail | .badRequest | .busy => s.requestFails b.val p)

/-! ## Management (R635, R639, R640, R644, R647, R650, R659, R660, R662) -/

/-- The operation of a management request. -/
def MgJob.op : MgJob → MgOp
  | .enumIdent => .ident
  | .enumChallenge | .chal => .challenge
  | .enumLedger | .refresh _ => .ledgerRead
  | .enumSeal | .acceptRead => .metaRead
  | .commit _ | .ejectCommit => .ledgerCommit
  | .scrub => .scrubStatus
  | .retire => .retire
  | .adopt | .exportKeys | .acceptClear | .acceptSeal => .metaWrite

/-- A management request is sent, or sent again. -/
def State.sendJob (s : State) (b : Nat) (job : MgJob) : State :=
  match job with
  | .enumChallenge =>
    let n := Config.nonce s.acc.drawn
    (s.updAcc' fun x => { x with drawn := x.drawn + 1 }).sendMg b job .challenge 0 n
  | .chal => s.sendMg b job .challenge 0 (bytesAt (s.bay b).nonce 0 48)
  | .adopt | .acceptSeal => s.writeSeal b job
  | .exportKeys =>
    (s.updBay b fun x => { x with mg := x.mg ++ [job], txSeq := x.txSeq + 1 }).send (.folioRecord b (s.bay b).xferGals)
  | .acceptRead | .acceptClear => s.sendMg b job job.op 1 []
  | _ => s.sendMg b job job.op 0 []

/-- Pieces that a bay's state no longer allows fail (R643). -/
def State.rejudge (s : State) (b : Nat) : State :=
  (s.bayPieces b).foldl (fun t p => if (t.bay b).allows p.write then t else t.pieceFails p fFolioState) s

/-- Enumeration ends in a state; a Folio bay reset ends with it. -/
def State.endEnum (s : State) (b : Nat) (st : BaySt) (r : FolReason) : State :=
  let was := (s.bay b).resetting
  let s := s.updBay b fun x => { x with
    st := st, reason := r, enumerating := false, resetting := false
    busy := x.busy && !was, result := if was then .ok else x.result }
  (s.rejudge b).nextEnum

/-- The state of Table 16-5, rows 2 to 7, once the seal has come. -/
def State.sealFound (s : State) (b : Nat) (x : Seal) : State :=
  let (dev, epoch) := match x with
    | .blank => ((0 : W64), (0 : W32))
    | .made u e _ => (u, e)
  let s := s.updBay b fun y => { y with sealDev := dev, sealEpoch := epoch }
  let y := s.bay b
  if y.foundRetired then s.endEnum b .retired .none
  else match x with
    | .blank => s.endEnum b .foreign .unsealed
    | .made u _ ok => if ok && decide (u = s.dev.unit.setWidth 64) then s.endEnum b y.wearState .none else s.endEnum b .foreign .otherDevice

/-- The seal that names this device has been written. -/
def State.sealed' (s : State) (b : Nat) : State :=
  (s.updBay b fun x => { x with
    sealDev := s.dev.unit.setWidth 64, sealEpoch := x.sealEpoch + 1, st := x.wearState, reason := .none }).endFol b .ok

/-- ACCEPT has read the transfer record. -/
def State.acceptRecord (s : State) (b : Nat) (r : XferRecord) : State :=
  match r with
  | .absent => s.endFol b .noRecord
  | .present signedOk namesUs keys =>
    if !signedOk then s.endFol b .badRecord
    else if !namesUs then s.endFol b .notTarget
    else if keys.any fun k => decide ((s.gal k.1.val).st ≠ .vacant) then s.endFol b .galleryInUse
    else
      (s.updAcc' fun x => { x with
        keys := keys.foldl (fun m k => mset none m k.1.val (some k.2)) x.keys, vaultDue := true, accepting := x.accepting ++ [b] }).startFlash

/-- What a management response does; one that does not answer its request is asked for again. -/
def State.mgDone (s : State) (b : Nat) (job : MgJob) (r : MgReply) : State :=
  match job, r with
  | .enumIdent, .ident chain ok unit model =>
    let s := s.updBay b fun x => { x with cert := chain, unit := unit, model := model, known := true }
    if ok then s.sendJob b .enumChallenge else s.endEnum b .foreign .notGenuine
  | .enumChallenge, .challenge _ ok => if ok then s.sendJob b .enumLedger else s.endEnum b .foreign .notGenuine
  | .enumLedger, .ledger n retired => (s.updBay b fun x => { x with wear := n, foundRetired := retired }).sendJob b .enumSeal
  | .enumSeal, .seal x => s.sealFound b x
  | .chal, .challenge resp _ => s.updBay b fun x => { x with resp := resp, chalDone := true }
  | .commit c, .done => s.sendJob b (.refresh c)
  | .refresh c, .ledger n _ =>
    let s := s.updBay b fun x => { x with wear := n }
    if c then s.endFol b .ok else s
  | .ejectCommit, .done => s
  | .scrub, .scrub n => s.updBay b fun x => { x with scrubbed := satAdd 65535 x.scrubbed n }
  | .adopt, .done => s.sealed' b
  | .retire, .done => s.endFol b .ok
  | .exportKeys, .done => s.endFol b .ok
  | .acceptRead, .record x => s.acceptRecord b x
  | .acceptClear, .done => s.sendJob b .acceptSeal
  | .acceptSeal, .done => s.sealed' b
  | _, _ => s.sendJob b job

/-- Removes the first job that some test picks. -/
def dropFirst (f : MgJob → Bool) : List MgJob → List MgJob
  | [] => []
  | j :: js => if f j then js else j :: dropFirst f js

/-- MG_RSP: the oldest outstanding request of the operation is answered. -/
def State.mgRsp (s : State) (b : Nat) (op : MgOp) (r : MgReply) : State :=
  match (s.bay b).mg.find? fun j => decide (j.op = op) with
  | none => s
  | some j => (s.updBay b fun x => { x with mg := dropFirst (fun j => decide (j.op = op)) x.mg }).mgDone b j r

/-- MG_RSP. -/
def execMgRsp (b : BayId) (h : FrameHdr) (op : MgOp) (r : MgReply) (s : State) : Host.Outcome State Fault Refusal :=
  .next (State.pumpBays (s.withFrame b.val h fun s => s.mgRsp b.val op r))

/-- BAY_TIMEOUT (R638): the request with a tag, or the oldest management request. -/
def State.bayTimeout (s : State) (b : Nat) (tag : Option Nat) : State :=
  match tag with
  | some t =>
    match s.bayRequest b t with
    | some p => if s.tb.elapsed < p.sentAt + us 200 then s else s.requestFails b p
    | none => s
  | none =>
    match (s.bay b).mg with
    | j :: js => (s.updBay b fun x => { x with mg := js }).sendJob b j
    | [] => s

/-- BAY_TIMEOUT. -/
def execBayTimeout (b : BayId) (tag : Option Nat) (s : State) : Host.Outcome State Fault Refusal :=
  .next (s.bayTimeout b.val tag).pumpBays

/-! ## The loss of a bay (R636, R664, R666) -/

/-- The bay becomes ABSENT, and everything outstanding at it fails. -/
def State.bayGone (s : State) (b : Nat) : State :=
  let x := s.bay b
  let ps := s.bayPieces b
  let live := x.st ≠ .absent ∨ x.resetting
  let s := s.updBay b fun x => { x with
    st := .absent, reason := .none, linkUp := false, enumerating := false, inLine := false, resetting := false, ejecting := false
    ejectAt := none, mg := [] }
  let s := if x.busy then s.endFol b (if x.ejecting then .ok else .link) else s
  let s := s.updAcc' fun a => { a with accepting := a.accepting.filter fun c => decide (c ≠ b) }
  let s := ps.foldl (fun t p => t.pieceFails p (if p.write then fFolioState else fFolioRead)) s
  let s := if live then
      s.logFault (bayRecord 0x13 0 b (ps.filter fun p => p.write).length (ps.filter fun p => !p.write).length none) else s
  s.nextEnum

/-- FOLIO_LINK_DOWN (R636). -/
def execFolioLinkDown (b : BayId) (s : State) : Host.Outcome State Fault Refusal :=
  .next (if (s.bay b.val).linkUp then (s.bayGone b.val).pumpBays else s)

/-- BAY_PRESENCE_LOST (R664, R666): the bay supply goes off with the Folio. -/
def State.presenceLost (s : State) (b : Nat) : State :=
  let s := s.updBay b fun x => { x with present := false }
  if (s.bay b).supply then
    ((s.bayGone b).updBay b fun x => { x with supply := false }).send (.bayEnable b false)
  else s

/-- BAY_PRESENCE_LOST. -/
def execBayPresenceLost (b : BayId) (s : State) : Host.Outcome State Fault Refusal := .next (s.presenceLost b.val).pumpBays

/-- SERDES_REFCLK_LOSS (R770). -/
def execSerdesRefclkLoss (s : State) : Host.Outcome State Fault Refusal :=
  .next (
    let s := (List.range 6).foldl (fun t p => if (t.fenPort p).st.carries then t.portTo p .down else t) s
    State.pumpBays ((List.range 8).foldl (fun t b => if (t.bay b).linkUp then t.bayGone b else t) s))

/-! ## Boot-flash operations (R657, R747, R783, R790, R792, R802) -/

/-- The vault holds every key. -/
def State.vaultDone (s : State) : State :=
  let bs := s.acc.accepting
  let s := s.updAcc' fun x => { x with vault := x.keys, vaultDue := false, rekeyed := [], accepting := [] }
  bs.foldl (fun t b => t.sendJob b .acceptClear) s

/-- What the operation that has ended does. -/
def State.flashEnd (s : State) (op : FlashOp) (ok sigOk : Bool) : State :=
  match op with
  | .trip =>
    match s.acc.tripDue, ok with
    | some r, true => (s.updAcc' fun x => { x with tripDue := none }).bookAppend r
    | _, _ => s
  | .returnSeal => if ok then s.sealStep else s
  | .vault => if ok then s.vaultDone else s
  | .bootControl => if ok then s.bootControlEnd else s
  | .accession =>
    match s.acc.cmd with
    | some (.install target stage hash image programmed) => s.installStep target stage hash image programmed ok sigOk
    | _ => s

/-- BOOT_FLASH_OPERATION_END: `sigOk` is what verifying a staged image's signature gives. -/
def execBootFlashOperationEnd (ok sigOk : Bool) (s : State) : Host.Outcome State Fault Refusal :=
  .next (match s.acc.flash with
    | none => s
    | some op => ((s.updAcc' fun x => { x with flash := none }).flashEnd op ok sigOk).startFlash)

end Sys2Proof.Machine
end

