-- ==== Sys2Proof/Machine/RunFam.lean ====
section
/-! DEFINITION. The life of a work order between its fetch and its record: dispatch, retirement, records, Stokers
becoming READY and FREE; the ends of QUIESCE and of a gallery reset; and the events of a Hearth (chapters 2, 3 and 7). -/

namespace Sys2Proof.Machine

/-! ## Staging and fetching -/

/-- ENTRY_STAGE (R130, R834). -/
def execEntryStage (g : GalleryId) (q : QueueId) (ans : HostAnswer) (v : Verdict) (s : State) : Host.Outcome State Fault Refusal :=
  .next (if s.pace.tripped then s else s.entryStage g.val q.val ans v)

/-- ENTRY_FETCH (R113, R115, R116). -/
def execEntryFetch (s : State) : Host.Outcome State Fault Refusal := .next (if s.pace.tripped then s else s.entryFetch)

/-- QFENCE_RETIRE (R118). -/
def execQfenceRetire (wo : Nat) (s : State) : Host.Outcome State Fault Refusal := .next (s.qfenceRetire wo)

/-! ## Dispatch (R117, R284, R289, R290) -/

/-- The lowest-numbered FREE Stoker (R290). -/
def Hearth.freeStoker (x : Hearth) : Option Nat := (List.range 16).find? fun k => decide ((x.stoker k).st = .free)

/-- The gallery's program that a fetched RUN names: PLACED, or since marked REMOVING. -/
def Hearth.runProg (x : Hearth) (g : Nat) (program : BitVec 16) : Option Prog :=
  (x.progs.find? fun e => (decide (e.2.st = .placed) || decide (e.2.st = .removing)) && decide (e.2.gal = g)
    && decide (e.2.program = program)).map fun e => e.2

/-- The work order waits for its dispatch, and no earlier QFENCE holds it. -/
def State.awaitsDispatch (s : State) (w : WorkOrder) (op : Nat) : Bool :=
  !s.pace.tripped && decide (w.opcode.toNat = op) && w.decided.isNone && decide (w.phase = .waiting) && !s.heldByQfence w

/-- A Stoker is free on every Hearth of the set, and none of them is parked or waking (R74, R117). -/
def State.stokersFree (s : State) (w : WorkOrder) : Bool :=
  (hearthsOf w.hearths).all fun h =>
    !hbit s.pace.parked h && !(s.hearth h).fenced && (s.hearth h).freeStoker.isSome

/-- The Stoker that a work order is given on a Hearth. -/
def freshStoker (w : WorkOrder) : Stoker := { wo := w.id, gal := w.gal, queue := w.queue, tag := w.tag }

/-- A RUN's Stoker starts at BASE + OFFSET (R289). -/
def Hearth.startRun (x : Hearth) (w : WorkOrder) : Hearth :=
  match x.freeStoker, x.runProg w.gal w.program with
  | some k, some p =>
    x.setStoker k { freshStoker w with st := .ready, pc := p.base + w.offset, base := p.base, len := p.length }
  | _, _ => x

/-- RUN_DISPATCH. -/
def State.runDispatch (s : State) (id : Nat) : State :=
  match s.wo? id with
  | none => s
  | some w =>
    if !s.awaitsDispatch w opRun || !s.stokersFree w then s
    else
      (hearthsOf w.hearths).foldl (fun t h => t.updHearth h fun x => x.startRun w)
        (s.updWo id fun w => { w with phase := .running })

/-- RUN_DISPATCH (R117, R289, R290). -/
def execRunDispatch (wo : Nat) (s : State) : Host.Outcome State Fault Refusal := .next (s.runDispatch wo)

/-- A Hearth takes its part of a STOVE_LOAD: a Stoker in PARKED_CALL, and a load in the slice's queue (R290, R435). -/
def Hearth.startLoad (x : Hearth) (w : WorkOrder) : Hearth :=
  match x.freeStoker with
  | none => x
  | some k =>
    let l : StoveLoad := {
      gal := w.gal, wo := w.id, stoker := k, pc := 0, src := w.argAddr, len := w.length, order := true }
    let z := x.stove.setRecord w.gal (some (w.argAddr, w.length))
    { x.setStoker k { freshStoker w with st := .parkedCall, wait := .load } with
      stove := { z with queue := z.queue ++ [.load l] } }

/-- STOVE_LOAD_DISPATCH: one that names a fenced slice ends with STV_ABSENT (R732). -/
def State.stoveLoadDispatch (s : State) (id : Nat) : State :=
  match s.wo? id with
  | none => s
  | some w =>
    if !s.awaitsDispatch w opStoveLoad || !s.stokersFree w then s
    else
      match (hearthsOf w.hearths).find? fun h => (s.hearth h).stove.fenced with
      | some h => s.faultWo id fStvAbsent h ((s.hearth h).freeStoker.getD 0) 0
      | none =>
        (hearthsOf w.hearths).foldl (fun t h => t.updHearth h fun x => x.startLoad w)
          (s.updWo id fun w => { w with phase := .running })

/-- STOVE_LOAD_DISPATCH (R117, R290, R435). -/
def execStoveLoadDispatch (wo : Nat) (s : State) : Host.Outcome State Fault Refusal := .next (s.stoveLoadDispatch wo)

/-- A RUN in flight on the Hearth is executing the program, or is to. -/
def State.executes (s : State) (h : Nat) (p : Prog) : Bool :=
  s.wos.any fun w => decide (w.opcode.toNat = opRun) && decide (w.gal = p.gal) && decide (w.program = p.program)
    && bitAt w.hearths.toNat h && (decide (w.phase = .running) || w.decided.isNone)

/-- The REMOVING programs of a gallery that nothing executes are removed from a Hearth's directory (R285, R286). -/
def State.sweepProgs (s : State) (g h : Nat) : State :=
  s.updHearth h fun x => { x with progs := mmap {} (fun _ (p : Prog) =>
    if p.st = .removing ∧ p.gal = g ∧ !s.executes h p then {} else p) x.progs }

/-- Two PLACEs write the same bytes of a Program Store. -/
def WorkOrder.overlapsPlace (a b : WorkOrder) : Bool :=
  decide (a.offset < b.offset + b.length) && decide (b.offset < a.offset + a.length)

/-- The two conditions of R284. -/
def State.mayPlace (s : State) (w : WorkOrder) : Bool :=
  ((hearthsOf w.hearths).all fun h => (s.hearth h).progs.all fun e =>
    !(decide (e.2.st = .removing) && decide (e.2.gal = w.gal) && s.executes h e.2))
  && !(s.wos.any fun v => decide (v.id < w.id) && decide (v.gal = w.gal) && decide (v.opcode.toNat = opPlace) && v.overlapsPlace w)

/-- PLACE_DISPATCH: REMOVING programs go, and the copy starts. Its pieces belong to no Stoker. -/
def State.placeDispatch (s : State) (id : Nat) : State :=
  match s.wo? id with
  | none => s
  | some w =>
    if !s.awaitsDispatch w opPlace || !s.mayPlace w then s
    else
      let hs := hearthsOf w.hearths
      let s := hs.foldl (fun t h => t.sweepProgs w.gal h) (s.updWo id fun w => { w with phase := .running })
      { s with
        nextAcc := s.nextAcc + 1
        accs := s.accs ++ [{ id := s.nextAcc, gal := w.gal, wo := some id, hearth := hs.head?.getD 0, stoker := 16, pc := 0
                             seq := 0, agent := .imageRead, kind := .place, todo := byteRuns w.argAddr w.length
                             base := w.argAddr }] }

/-- PLACE_DISPATCH (R284, R285). -/
def execPlaceDispatch (wo : Nat) (s : State) : Host.Outcome State Fault Refusal := .next (s.placeDispatch wo)

/-! ## Retirement (R120, R126, R285) -/

/-- An access that writes. -/
def Acc.isWrite (a : Acc) : Bool :=
  a.agent.writes || match a.kind with | .store | .flagSet | .flagAdd _ _ | .fluWrite | .emberInit | .ember _ _ _ => true | _ => false

/-- A write of the work order has not reached its place, or a call of it has not ended (R120, R122, R131). -/
def State.writesLeft (s : State) (id : Nat) : Bool :=
  (s.accs.any fun a => decide (a.wo = some id) && a.isWrite)
  || (s.pieces.any fun p => decide (p.wo = some id) && (p.write || decide (p.agent = .flagAdd)))
  || s.hearths.any fun e => (e.2.flus.any fun f => decide (f.wo = id)) || e.2.calls.any fun c => decide (c.wo = id)

/-- Rows of the work order are in a Kindling batch. -/
def State.kindles (s : State) (id : Nat) : Bool :=
  s.hearths.any fun e => e.2.chains.any fun c => !c.key.isEmpty && c.groups.any fun g => decide (g.wo = id) && !g.discard

/-- A push of a Stoker has operations that have not completed. -/
def Stoker.pushesLeft (x : Stoker) : Bool :=
  x.handles.any fun e => match e.2 with | some z => decide (z.mode = .push) && !z.ops.isEmpty | none => false

/-- A RUN has reached its retire point. -/
def State.runDone (s : State) (w : WorkOrder) : Bool :=
  decide (w.phase = .running)
  && ((s.stokersOf w.id).all fun p => decide ((s.stoker p.1 p.2).st = .halted) && !(s.stoker p.1 p.2).pushesLeft)
  && !s.writesLeft w.id && !s.kindles w.id

/-- A PLACE has copied every byte. -/
def State.placeDone (s : State) (w : WorkOrder) : Bool :=
  decide (w.phase = .running) && !s.accs.any fun a => decide (a.wo = some w.id)

/-- A PLACE of the gallery fetched later, and still in flight, removes the program of `w` on the Hearth (R283). -/
def State.replacedBy (s : State) (w : WorkOrder) (h : Nat) : Bool :=
  s.wos.any fun v => decide (w.id < v.id) && decide (v.gal = w.gal) && decide (v.opcode.toNat = opPlace)
    && bitAt v.hearths.toNat h
    && (decide (v.program = w.program) || v.overlapsPlace w || decide (v.offset / 1024 = w.offset / 1024))

/-- The program of a PLACE is recorded, as the gallery's one program with its identifier (R282, R285). One that a later
PLACE removes is REMOVING from the start. -/
def Hearth.recordProg (x : Hearth) (w : WorkOrder) (replaced : Bool) : Hearth :=
  let j := w.offset / 1024
  let x := { x with progs := mmap {} (fun _ (p : Prog) =>
      if p.st = ProgSt.placed ∧ p.gal = w.gal ∧ p.program = w.program then { p with st := ProgSt.removing } else p) x.progs }
  { x.setProg j { st := if replaced then .removing else .placed, gal := w.gal, program := w.program, base := w.offset
                  length := w.length } with
    loading := if mget none x.loading j = some w.id then mset none x.loading j none else x.loading }

/-- RETIRE. -/
def State.retire (s : State) (id : Nat) : State :=
  match s.wo? id with
  | none => s
  | some w =>
    let done (t : State) : State := t.commit id { status := w.retireStatus }
    if w.decided.isSome then s
    else if w.opcode.toNat = opRun then (if s.runDone w then done s else s)
    else if w.opcode.toNat = opStoveLoad then
      (if w.phase = .running ∧ (s.stokersOf id).all fun p => decide ((s.stoker p.1 p.2).st = .halted) then done s else s)
    else if w.opcode.toNat = opPlace then
      (if s.placeDone w then done ((hearthsOf w.hearths).foldl (fun t h => t.updHearth h fun x => x.recordProg w (s.replacedBy w h)) s) else s)
    else s

/-- RETIRE (R120, R121, R126, R285). -/
def execRetire (wo : Nat) (s : State) : Host.Outcome State Fault Refusal := .next (s.retire wo)

/-! ## Completion records (R122 to R125, R814) -/

/-- The work order leaves: a PLACE that did not complete leaves its entry EMPTY (R286), and programs that waited for
the end of a RUN go. -/
def State.dropWo (s : State) (w : WorkOrder) : State :=
  let s := { s with wos := s.wos.filter fun v => decide (v.id ≠ w.id) }
  let place := w.opcode.toNat = opPlace
  let pending := s.wos.any fun v => decide (v.gal = w.gal) && decide (v.opcode.toNat = opPlace) && v.decided.isNone
    && decide (v.phase = .waiting)
  (hearthsOf w.hearths).foldl (fun t h =>
    let t := if place then t.updHearth h fun x => { x with
        loading := if mget none x.loading (w.offset / 1024) = some w.id then mset none x.loading (w.offset / 1024) none
          else x.loading }
      else t
    if pending then t else t.sweepProgs w.gal h) s

/-- The record is written: it is counted, the work order leaves, and its vector is raised (R122). -/
def State.recordEnds (s : State) (w : WorkOrder) (d : Decision) : State :=
  let y := (s.gal w.gal).queue w.queue
  let s := s.setQueue w.gal w.queue { y with written := y.written + 1, unread := y.unread ++ [w.tag] }
  let s := s.dropWo w
  if y.irqEn ∧ (w.notify ∨ (d.status ≠ .complete ∧ d.status ≠ .completeWarn)) then s.raiseGal w.gal y.vector.toNat else s

/-- A record for a home port that cannot carry it is lost when the port-reset grace has ended (R123, R814). -/
def State.recordLost (s : State) (g va : Nat) : Bool :=
  match (s.gal g).job with
  | some j => j.portReset && !(s.port (s.gal g).home).usable && (match s.check g .recordWrite va with | .ok (.host _) _ => true | _ => false)
  | none => false

/-- COMPLETION_RECORD. -/
def State.completionRecord (s : State) (id : Nat) : State :=
  match s.wo? id with
  | none => s
  | some w =>
    match w.decided with
    | none => s
    | some d =>
      let y := (s.gal w.gal).queue w.queue
      let va := y.cqBase.toNat + 32 * (y.written.toNat % 64)
      if s.writesLeft id then s
      else if s.recordLost w.gal va then s.dropWo w
      else
        match s.writeRecord w.gal (4 + w.queue) va (recordBytes w d (phaseOf y.written.toNat 64)) with
        | .done t => t.recordEnds w d
        | .waits t => t
        | .failed t => (t.galleryFault w.gal .cqWrite 2).dropWo w

/-- COMPLETION_RECORD (R122 to R126). -/
def execCompletionRecord (wo : Nat) (s : State) : Host.Outcome State Fault Refusal := .next (s.completionRecord wo)

/-! ## Stokers (R295, R298) -/

/-- Every instruction that the Stoker issued has finished. -/
def State.stokerIdle (s : State) (h k : Nat) : Bool :=
  let x := s.hearth h
  !x.grateBusy k && !(s.accs.any fun a => a.by h k) && !(s.pieces.any fun p => p.by h k)
    && !(x.calls.any fun c => decide (c.stoker = k))
    && !(x.stove.queue.any fun i => match i with | .load l => decide (l.stoker = k) | .call _ => false)
    && (match x.stove.cur with | some (l, _) => decide (l.stoker ≠ k) | none => true)

/-- STOKER_FREE: the Stoker holds no work order, and its registers and return stack are cleared (R298). -/
def State.stokerFree (s : State) (h k : Nat) : State :=
  let y := s.stoker h k
  if y.st = .free ∨ s.undecided y.wo ∨ !s.stokerIdle h k then s
  else
    s.updHearth h fun x => { x.setStoker k {} with
      openings := x.openings.filter fun o => decide (o.stoker ≠ k)
      claims := x.claims.filter fun c => decide (c.stoker ≠ k) }

/-- STOKER_FREE. -/
def execStokerFree (h : HearthId) (k : StokerId) (s : State) : Host.Outcome State Fault Refusal := .next (s.stokerFree h.val k.val)

/-- The Stoker is READY again, and the instruction it waited in has retired. -/
def State.wakeUp (s : State) (h k : Nat) : State := (s.parkAs h k .ready .none).retired (s.stoker h k).wo

/-- The calls that the Stoker waited for have completed: the acquire follows (R430, R436). -/
def State.wakeCall (s : State) (h k : Nat) : State :=
  let n := (s.stoker h k).seq
  if s.fenceDone h k n false then s.wakeUp h k else s.parkAs h k .parkedFence (.fence n false)

/-- A HALT that waited for a halted stream is carried out (R334). -/
def Stoker.mayHalt (x : Stoker) : Bool :=
  x.handles.all fun e => match e.2 with | some z => !z.halted && (decide (z.mode = .grate) || z.ops.isEmpty) | none => true

/-- STOKER_WAKE: a parked Stoker whose wait has ended. FLAG.WAIT and a Damper's round end by events of their own. -/
def State.stokerWake (s : State) (h k : Nat) : State :=
  let x := s.stoker h k
  match x.wait with
  | .ops d n => match x.stream? d with
    | some z => if z.waited n then s.wakeUp h k else s
    | none => s.wakeUp h k
  | .room d => match x.stream? d with
    | some z => if z.ops.length < 16 then s.parkAs h k .ready .none else s
    | none => s.parkAs h k .ready .none
  | .close d => if s.closeDone h k d then (s.setStream h k d none).wakeUp h k else s
  | .tags d =>
    if (s.hearth h).openings.any fun o => decide (o.stoker = k) && decide (o.handle = d) && !o.granted then s else s.wakeUp h k
  | .fence n w => if s.fenceDone h k n w then s.wakeUp h k else s
  | .rel n => if s.waitsOnHalt h k n then s else (s.wakeUp h k).settleRels h k
  | .damperFence n => if s.fenceDone h k n true then s.arrive h k else s
  | .cab n => if (s.hearth h).callsWaited k true n then s.wakeCall h k else s
  | .stv n => if (s.hearth h).callsWaited k false n then s.wakeCall h k else s
  | .halt =>
    if x.mayHalt then
      (((s.updStoker h k Stoker.closeAll).parkAs h k .halted .none).unbindClosed h k).retired x.wo
    else s
  | .none | .flag _ _ _ _ | .damper | .load => s

/-- STOKER_WAKE (R295). -/
def execStokerWake (h : HearthId) (k : StokerId) (s : State) : Host.Outcome State Fault Refusal := .next (s.stokerWake h.val k.val)

/-! ## Galleries: the ends of QUIESCE, of a reset and of a port-reset grace (R92, R139 to R143, R814) -/

/-- QUIESCE_DRAINED: nothing is outstanding, and every record is written. -/
def State.quiesceDrained (s : State) (g : Nat) : State :=
  let x := s.gal g
  if x.st = .quiescing ∧ (x.queues.all fun e => decide (e.2.unfetched = 0) && e.2.staged.isNone)
      ∧ !s.wos.any fun w => decide (w.gal = g) then
    s.setGal g { x with st := .dormant }
  else s

/-- QUIESCE_DRAINED (R92). -/
def execQuiesceDrained (g : GalleryId) (s : State) : Host.Outcome State Fault Refusal := .next (s.quiesceDrained g.val)

/-- A queue after a gallery reset keeps its configuration (R139, steps 3, 5 and 6). -/
def Queue.reset (q : Queue) : Queue :=
  { sqBase := q.sqBase, cqBase := q.cqBase, enable := q.enable, irqEn := q.irqEn, vector := q.vector }

/-- A gallery after a reset keeps its configuration and Catalogue (R139, R141). -/
def Gallery.afterReset (x : Gallery) (r : GalResult) : Gallery :=
  { x with
    result := r
    st := .dormant, cause := .none, busy := false, job := none, grace := none
    queues := mmap {} (fun _ q => q.reset) x.queues
    fqWritten := 0, fqHead := 0, fqSeq := 0
    staleResume := 0, badDoorbell := 0, wrongPort := 0, notOpen := 0 }

/-- SCRUB: the gallery's Hob window is zeroed on its Hearths, with the Firebox slots that no claim holds (R140). -/
def Hearth.scrub (x : Hearth) (y : Gallery) : Hearth :=
  let free := x.freePositions
  { x with
    hob := zeroBytes x.hob (y.hobBase.toNat * 65536) (y.hobSize.toNat * 65536)
    slots := mmap {} (fun i v => if free.contains (i / 8) then {} else v) x.slots }

/-- SCRUB of the bytes that a Catalogue segment places in the Shared Store or the Exchange region (R140). -/
def State.scrubSegment (s : State) (x : Segment) : State :=
  if !x.valid then s
  else if x.place = placeShared then
    { s with shared := zeroBytes s.shared x.tbase (min x.bytes (s.exchStart - x.tbase)) }
  else if x.place = placeExch then
    { s with shared := zeroBytes s.shared (s.exchStart + x.tbase) (min x.bytes (s.exchBytes - x.tbase)) }
  else s

/-- SCRUB of a gallery. -/
def State.scrub (s : State) (g : Nat) : State :=
  let y := s.gal g
  let s := (hearthsOf y.hearths).foldl (fun t h => t.updHearth h fun x => x.scrub y) s
  y.cat.segs.foldl (fun t e => t.scrubSegment e.2) s

/-- RELEASE on a Hearth: programs, granules and the recorded pattern (R288, R632). -/
def Hearth.releaseGal (x : Hearth) (g : Nat) : Hearth :=
  { x with
    progs := mmap {} (fun _ (p : Prog) => if p.gal = g then {} else p) x.progs
    psMap := mmap (false, 0) (fun _ (m : Bool × Nat) => if m.2 = g then (false, g) else m) x.psMap
    stove := x.stove.setRecord g none }

/-- RELEASE clears everything but the Folio key (R141, R288, R632, R715, R827). -/
def State.releaseGal (s : State) (g : Nat) : State :=
  let s := { s with hearths := mmap {} (fun _ x => x.releaseGal g) s.hearths }
  let s := s.updFenGal g fun _ => {}
  s.setGal g { result := .ok }

/-- Pieces that were translated by the gallery's Catalogue are in flight, or accesses of it are (R219, R827). -/
def State.galBusy (s : State) (g : Nat) : Bool :=
  (s.pieces.any fun p => decide (p.gal = g)) || (s.accs.any fun a => decide (a.gal = g))
    || s.hearths.any fun e => e.2.stokers.any fun y => decide (y.2.gal = g) && decide (y.2.st ≠ .free)

/-- GAL_RESET_DONE: once every record is written, keys are replaced, memory is scrubbed, and the gallery is DORMANT or VACANT. -/
def State.galResetDone (s : State) (g : Nat) : State :=
  let x := s.gal g
  match x.job with
  | none => s
  | some j =>
    if x.st ≠ .resetting ∨ (s.wos.any fun w => decide (w.gal = g)) ∨ s.galBusy g then s
    else if j.scrubKey then (s.setGal g { x with job := some { j with scrubKey := false } }).rekey g
    else if s.acc.rekeyed.contains g then s
    else
      let s := s.purgeFront g fun _ => true
      let s := if j.scrub then s.scrub g else s
      if j.release then s.releaseGal g else s.setGal g ((s.gal g).afterReset (if j.portReset then (s.gal g).result else .ok))

/-- GAL_RESET_DONE (R139 to R143, R657). -/
def execGalResetDone (g : GalleryId) (s : State) : Host.Outcome State Fault Refusal := .next (s.galResetDone g.val)

/-- The host requests and messages held for a gallery are discarded with the work orders that issued them (R814). -/
def State.discardHeld (s : State) (g : Nat) : State :=
  let s := { s with held := s.held.filter fun m => decide (m.1 ≠ g) }
  (s.pieces.filter fun p => decide (p.gal = g) && decide (p.status = .heldPort)).foldl (fun t p => t.pieceFails p fHostFail) s

/-- PORT_RESET_GRACE_EXPIRY: a gallery whose grace has ended is reset with REASON PORT_RESET. -/
def State.graceExpiry (s : State) (g : Nat) : State :=
  match (s.gal g).grace with
  | none => s
  | some t =>
    if s.tb.elapsed < t then s
    else
      let s := s.setGal g { s.gal g with grace := none }
      if (s.gal g).st = .resetting ∨ (s.gal g).st = .vacant then s
      else (s.startReset g 0x04 { portReset := true }).discardHeld g

/-- PORT_RESET_GRACE_EXPIRY (R814). -/
def execPortResetGraceExpiry (g : GalleryId) (s : State) : Host.Outcome State Fault Refusal := .next (s.graceExpiry g.val)

end Sys2Proof.Machine
end

