-- ==== Sys2Proof/Machine/HearthFam.lean ====
section
/-! DEFINITION. What a host writes to a Hearth's HRT_ registers, a Hearth's parking, and the 1 ms sensor sample (R65,
R71, R281, R325, R326, R783, R815). -/

namespace Sys2Proof.Machine

def State.hrtResult (s : State) (h : Nat) (r : HrtResult) : State := s.updHearth h fun x => { x with result := r }

/-! ## HRT_PS_MAP (R279 to R281) -/

/-- A program overlaps granule `j`. -/
def Prog.inGranule (p : Prog) (j : Nat) : Bool := p.overlaps (1024 * j) 1024

/-- A work order in flight on the Hearth is executing a program that overlaps the granule, or is a PLACE over it. -/
def State.granuleInUse (s : State) (h j : Nat) : Bool :=
  ((s.hearth h).progs.any fun e => e.2.inGranule j && s.executes h e.2)
  || s.wos.any fun w => decide (w.opcode.toNat = opPlace) && bitAt w.hearths.toNat h
      && decide (w.offset < 1024 * j + 1024) && decide (1024 * j < w.offset + w.length)

/-- HRT_PS_MAPj takes a value, and programs of other galleries over the granule are unplaced. -/
def Hearth.setGranule (x : Hearth) (j : Nat) (valid : Bool) (g : Nat) : Hearth :=
  { x with
    result := .ok
    psMap := mset (false, 0) x.psMap j (valid, g)
    progs := mmap {} (fun _ (p : Prog) => if p.inGranule j && !(valid && decide (p.gal = g)) then {} else p) x.progs }

/-- A write to HRT_PS_MAPj (R281). -/
def State.psMapWrite (s : State) (p : Port) (h j : Nat) (v : W32) : State :=
  if !s.holds p 0 then s.hrtResult h .notOwner
  else if s.granuleInUse h j then s.hrtResult h .inUse
  else s.updHearth h fun x => x.setGranule j (bitAt v.toNat 31) (bits v.toNat 0 10)

/-- HRT_PS_MAP (R281). -/
def execHrtPsMap (p : Port) (h : HearthId) (j : Fin 256) (v : W32) (s : State) : Host.Outcome State Fault Refusal :=
  .next (s.whenReady fun s => s.psMapWrite p h.val j.val v)

/-! ## FENCE_REQ, HRT_POST_ROUTE and HRT_RESET -/

/-- HRT_FENCE.CAUSE for a requested fence. -/
def causeRuntime : BitVec 8 := 0x10

/-- A write of 1 to HRT_FENCE.FENCE_REQ (R325, R726, R733). -/
def State.fenceReq (s : State) (p : Port) (h : Nat) : State :=
  if !s.holds p 3 then s.hrtResult h .notOwner else (s.fenceHearth h causeRuntime false false).hrtResult h .ok

/-- FENCE_REQ (R325). -/
def execFenceReq (p : Port) (h : HearthId) (s : State) : Host.Outcome State Fault Refusal :=
  .next (s.whenReady fun s => s.fenceReq p h.val)

/-- A write to HRT_POST_ROUTE.ROUTE (R326). -/
def State.postRoute (s : State) (p : Port) (h : Nat) (stove : Bool) : State :=
  if !s.holds p 0 then s.hrtResult h .notOwner
  else if !(s.hearth h).calls.isEmpty then s.hrtResult h .busy
  else s.updHearth h fun x => { x with stoveRoute := stove, result := .ok }

/-- HRT_POST_ROUTE (R326). -/
def execHrtPostRoute (p : Port) (h : HearthId) (stove : Bool) (s : State) : Host.Outcome State Fault Refusal :=
  .next (s.whenReady fun s => s.postRoute p h.val stove)

/-- HRT_STATUS.BUSY_STOKERS. -/
def Hearth.busyStokers (x : Hearth) : Nat := ((List.range 16).filter fun k => decide ((x.stoker k).st ≠ .free)).length

/-- What a Hearth reset leaves: its granule map, its post route, and the counts of its Stove slice (R815, Table 20-14). -/
def Hearth.afterReset (x : Hearth) : Hearth :=
  { psMap := x.psMap, stoveRoute := x.stoveRoute
    stove := { loads := x.stove.loads, reloads := x.stove.reloads }
    nextId := x.nextId }

/-- A Hearth reset (R815): the fence list is applied again, and a Hearth without an available Grate is fenced (R724). -/
def State.hearthReset (s : State) (h : Nat) : State :=
  let s := s.setHearth h (s.hearth h).afterReset
  let s := s.setPaceHearth h { s.paceHearth h with valid := false }
  let s := s.reapplyFences (some h)
  if s.avail h = 0 then s.fenceHearth h 0 true true else s

/-- A write of 1 to HRT_RESET.RESET. -/
def State.hrtReset (s : State) (p : Port) (h : Nat) : State :=
  if !s.holds p 3 then s.hrtResult h .notOwner
  else if !(s.hearth h).fenced || decide ((s.hearth h).busyStokers ≠ 0) then s.hrtResult h .inUse
  else s.hearthReset h

/-- HRT_RESET (R815). -/
def execHrtReset (p : Port) (h : HearthId) (s : State) : Host.Outcome State Fault Refusal :=
  .next (s.whenReady fun s => s.hrtReset p h.val)

/-! ## Parking (R70 to R76) -/

/-- Nothing of the Hearth is in use: no Stoker holds a work order, no stream is open, Stove and post channel are idle. -/
def Hearth.idle (x : Hearth) : Bool :=
  decide (x.busyStokers = 0) && (x.stokers.all fun y => y.2.handles.isEmpty) && x.calls.isEmpty && x.stove.queue.isEmpty
    && x.stove.cur.isNone

/-- HEARTH_PARK. -/
def State.hearthPark (s : State) (h : Nat) : State :=
  if hbit s.pace.park h && !hbit s.pace.parked h && (s.hearth h).idle then
    State.setPaceHearth { s with pace := { s.pace with parked := setHbit s.pace.parked h true } } h
      { s.paceHearth h with valid := false }
  else s

/-- HEARTH_PARK (R71, R76). -/
def execHearthPark (h : HearthId) (s : State) : Host.Outcome State Fault Refusal := .next (s.hearthPark h.val)

/-! ## The sensor sample (R65 to R68, R783 to R785) -/

/-- The number of a sensor: 0 to 47 for a Hearth, 0x3F for the central one, which is the last of the 49 readings. -/
def sensorCode (i : Nat) : Nat := if i = 48 then 0x3F else i

/-- The highest of the readings, each with its sensor; the first one among equals. -/
def hottestOf : List (BitVec 16 × Nat) → BitVec 16 × Nat
  | [] => (0, 0)
  | [x] => x
  | x :: xs => let y := hottestOf xs; if x.1.toInt < y.1.toInt then y else x

/-- 105 °C and 115 °C in 1/16 °C. -/
def guardAt : Int := 1680
def tripAt : Int := 1840

/-- PACE_TEMP (Table 2-9). -/
def State.paceTemp (s : State) : Nat := s.pace.hottest.toNat * 65536 + s.pace.tjMax.toNat

/-- The guard rises or falls, and a reading above 105 °C lowers PACE_VREQ.MV by 10 mV, to 550 mV at the least. -/
def State.guardSample (s : State) (hot : Bool) : State :=
  let was := s.pace.guardOn
  let s := { s with pace := { s.pace with guardOn := hot } }
  let s := if hot = was then s
    else s.logFault { event := 0x29, cls := 0, unitKind := 0, a := b2n hot, b := s.paceTemp }
  if hot ∧ 550 < s.pace.mv then s.avsRequest (max 550 (s.pace.mv - 10)) else s

/-- A record is written to the log but not queued for the book. -/
def State.logUnbooked (s : State) (f : FaultInfo) : State :=
  let t := s.logFault f
  { t with faults := { t.faults with bookQueue := s.faults.bookQueue } }

/-- The thermal trip (Table 19-9): bays are held, nothing more is issued or sent, 550 mV is requested, and the record is
to be appended ahead of any other boot-flash write; THERM_TRIP_N is driven low whether or not that has been done (R786). -/
def State.thermalTrip (s : State) (sensor : Nat) (reading : BitVec 16) : State :=
  let s := s.holdBays
  let s := { s with pace := { s.pace with tripped := true, tripOut := true } }
  let s := s.avsRequest 550
  let f : FaultInfo := { event := 0x2A, cls := 2, unitKind := 0, a := sensor, b := (reading.signExtend 32).toNat }
  let r := faultBytes s.faults.head.toNat (!s.trusted) s.timeNs.toNat f
  let s := s.countLasting.logUnbooked f
  ((s.updAcc' fun x => { x with tripDue := some r }).startFlash).send .thermTrip

/-- THERMAL_SAMPLE: the readings of the 48 Hearth sensors and of the central one, signed, in 1/16 °C. -/
def State.thermalSample (s : State) (readings : List (BitVec 16)) : State :=
  match readings.take 49 with
  | [] => s
  | r :: rs =>
    if s.pace.tripped then s
    else
      let top := hottestOf ((r :: rs).zipIdx)
      let s := { s with pace := { s.pace with tjMax := top.1, hottest := BitVec.ofNat 6 (sensorCode top.2) } }
      let s := s.guardSample (decide (guardAt < top.1.toInt))
      if tripAt ≤ top.1.toInt then s.thermalTrip (sensorCode top.2) top.1 else s

/-- THERMAL_SAMPLE (R65, R783). -/
def execThermalSample (readings : List (BitVec 16)) (s : State) : Host.Outcome State Fault Refusal :=
  .next (s.thermalSample readings)

end Sys2Proof.Machine
end

