-- ==== Sys2Proof/Machine/FaultCmd.lean ====
section
/-! DEFINITION. FAULT_COMMAND, FAULT_SEAL_ARM, FAULT_TAIL and Conservator unlocks (chapter 18). -/

namespace Sys2Proof.Machine

def State.faultResult (s : State) (r : FaultResult) : State := { s with faults := { s.faults with result := r } }

/-- The judgement of a FAULT_COMMAND write: NOT_OWNER, then BUSY (R753). -/
def State.judgeFault (s : State) (p : Port) (f : State → State) : State :=
  if !s.holds p 3 then s.faultResult .notOwner
  else if s.faults.busy then s.faultResult .busy
  else f s

/-- The unit has a valid entry: a commanded fence of it has no other effect (R733). -/
def State.listed (s : State) (kind : BitVec 3) (index : Nat) : Bool := (s.faults.entryOf kind (BitVec.ofNat 12 index)).isSome

/-- FENCE_GRATE: at once, or once the Grate's running chain has committed (R733, R753). -/
def State.cmdFenceGrate (s : State) (arg : Nat) : State :=
  let h := arg / 16
  let g := arg % 16
  if 768 ≤ arg ∨ (!(s.hearth h).fenced ∧ s.avail h = oneBit 16 g) then s.faultResult .badValue
  else if s.listed 1 arg then s.faultResult .ok
  else if (s.hearth h).chains.any fun c => decide (c.grate = some g) then
    (s.updHearth h fun x => { x with grateDue := x.grateDue ||| oneBit 16 g }).faultResult .ok
  else (s.fenceGrate h g 3 false none).faultResult .ok

/-- FENCE_GRATE (R753). -/
def execFenceGrate (p : Port) (arg : BitVec 10) (s : State) : Host.Outcome State Fault Refusal :=
  .next (s.whenReady fun s => s.judgeFault p fun s => s.cmdFenceGrate arg.toNat)

/-- FENCE_ENGINE: calls that wait for an engine fenced in all four Cabinets end (R730, R731, R733). -/
def State.cmdFenceEngine (s : State) (arg : Nat) : State :=
  if 32 ≤ arg then s.faultResult .badValue
  else if s.listed 3 arg then s.faultResult .ok
  else ((s.fenceEngine (arg / 8) (arg % 8 + 1) false none).routeGone (arg % 8 + 1)).faultResult .ok

/-- FENCE_ENGINE (R733). -/
def execFenceEngine (p : Port) (arg : BitVec 10) (s : State) : Host.Outcome State Fault Refusal :=
  .next (s.whenReady fun s => s.judgeFault p fun s => s.cmdFenceEngine arg.toNat)

/-- FENCE_STOVE: what waits for the slice ends with STV_ABSENT (R732, R733). -/
def State.cmdFenceStove (s : State) (arg : Nat) : State :=
  if 48 ≤ arg then s.faultResult .badValue
  else if s.listed 4 arg then s.faultResult .ok
  else ((s.fenceStove arg 0 false none).stoveGone arg).faultResult .ok

/-- FENCE_STOVE (R733). -/
def execFenceStove (p : Port) (arg : BitVec 10) (s : State) : Host.Outcome State Fault Refusal :=
  .next (s.whenReady fun s => s.judgeFault p fun s => s.cmdFenceStove arg.toNat)

/-- FORGET: the entry is freed, and LIST_FULL clears; a frozen list keeps its entries (R734, R749, R753). -/
def State.cmdForget (s : State) (arg : Nat) : State :=
  let e := mget {} s.faults.fences arg
  if !e.valid then s.faultResult .badValue
  else if s.faults.frozen then s.faultResult .sealed
  else
    State.faultResult { s with faults := { s.faults with
      fences := mset {} s.faults.fences arg { e with valid := false }, listFull := false } } .ok

/-- FORGET (R734). -/
def execForget (p : Port) (arg : BitVec 10) (s : State) : Host.Outcome State Fault Refusal :=
  .next (s.whenReady fun s => s.judgeFault p fun s => s.cmdForget arg.toNat)

/-- The port armed the seal within the last second (R746). -/
def State.isArmed (s : State) (p : Port) : Bool :=
  match s.faults.armed with
  | some (q, t) => decide (q = p) && decide (s.tb.elapsed ≤ t + sec 1)
  | none => false

/-- RETURN_SEAL: BUSY, then the conditions of R746 in their order, then the steps of R747. RESULT waits for their end (R830). -/
def State.returnSeal (s : State) (p : Port) : State :=
  if !(s.holds p 0 && s.holds p 1 && s.holds p 2 && s.holds p 3) then s.faultResult .notOwner
  else if s.faults.busy then s.faultResult .busy
  else if !s.isArmed p then s.faultResult .notArmed
  else if s.gals.any fun e => decide (e.2.st ≠ .vacant) then s.faultResult .inUse
  else if s.faults.sealed then s.faultResult .sealed
  else State.startFlash { s with faults := { s.faults with busy := true, armed := none, sealStage := .intentMark } }

/-- RETURN_SEAL (R746, R747). -/
def execReturnSeal (p : Port) (s : State) : Host.Outcome State Fault Refusal :=
  .next (s.whenReady fun s => s.returnSeal p)

/-- FAULT_SEAL_ARM: the UNIT arms the seal from that port; any other value arms nothing (R746). The write is accepted (R830). -/
def State.sealArm (s : State) (p : Port) (v : W32) : State :=
  { s with faults := { s.faults with armed := if v = s.dev.unit then some (p, s.tb.elapsed) else none, result := .ok } }

/-- FAULT_SEAL_ARM (R746). -/
def execFaultSealArm (p : Port) (v : W32) (s : State) : Host.Outcome State Fault Refusal :=
  .next (s.whenReady fun s => s.sealArm p v)

/-- FAULT_TAIL (R740). -/
def State.faultTail (s : State) (v : W32) : State :=
  if (s.faults.head - v).toNat ≤ (s.faults.head - s.faults.tail).toNat then
    { s with faults := { s.faults with tail := v, result := .ok } }
  else s.faultResult .badValue

/-- FAULT_TAIL (R740). -/
def execFaultTail (v : W32) (s : State) : Host.Outcome State Fault Refusal := .next (s.whenReady fun s => s.faultTail v)

/-- CONSERVATOR_UNLOCK: `signed` is whether the unlock is signed by Nortuvel and bound to this device. The spec documents
nothing of what a Conservator mode does once entered, so an accepted unlock is refused by name; every other one writes a
CONSERVATOR_REFUSED record and changes nothing else (R751). -/
def execConservatorUnlock (signed : Bool) (s : State) : Host.Outcome State Fault Refusal :=
  if signed && s.faults.sealed then .refused .conservatorMode
  else .next (s.logFault { event := 0x32, cls := 0, unitKind := 11 })

end Sys2Proof.Machine
end

