-- ==== Sys2Proof/Machine/Boot.lean ====
section
/-! DEFINITION. Device cold reset and the first second: what a cold reset clears and keeps, boot selection, and the
phases of power-up (R748, R763, R766, R806 to R813, R819, R820). -/

namespace Sys2Proof.Machine

/-! ## What a device cold reset leaves (Tables 20-14, 20-15) -/

/-- A boot-control update that a cold reset meets is made or not made, and so is the fuse burn that follows it (R790, R819). -/
def State.settleBootControl (s : State) : State :=
  match s.acc.cmd with
  | some (.activate _) | some .confirm =>
    let (s, v) := s.takeFree
    let floor := s.acc.floor
    let left := s.acc.raisesLeft
    if v.getLsbD 0 then
      let t := s.bootControlEnd
      if v.getLsbD 1 then t else t.updAcc' fun x => { x with floor := floor, raisesLeft := left }
    else s
  | _ => s

/-- A slot that was being written is INVALID (R803). -/
def Slot3.afterReset (x : Slot3) : Slot3 := if x.st = .writing then { st := .invalid } else x

/-- The boot flash and the fuses keep their content. A gallery whose new key the vault does not hold yet gets another (R657). -/
def AccState.afterReset (x : AccState) : AccState :=
  { slotA := x.slotA.afterReset, slotB := x.slotB.afterReset, golden := x.golden
    bootSeq := x.bootSeq, next := x.next, lastConfirmed := x.lastConfirmed
    floor := x.floor, raisesLeft := x.raisesLeft
    pwrWarn := x.pwrWarn
    vault := x.rekeyed.foldl (fun m g => mset none m g none) x.vault
    drawn := x.drawn, resets := x.resets + 1 }

/-- The Fault book, the fence list, the seal and its intent mark are in the boot flash (R742, R745). -/
def FaultState.afterReset (x : FaultState) : FaultState :=
  { sealed := x.sealed, frozen := x.frozen, listFull := x.listFull, fences := x.fences, intent := x.intent
    book := x.book, bookRecords := x.bookRecords, bookOldest := x.bookOldest }

/-- A host port keeps what its pins say. -/
def PortState.afterReset (x : PortState) : PortState :=
  { resetBy := x.resetBy.filter fun t => decide (t = .perst), perstHigh := x.perstHigh }

/-- The state after a device cold reset: everything on the die is cleared; what lies in the boot flash, the fuses and the
pins stays, with what the device has sent and what waits to be commanded. -/
def State.cleared (s : State) (cause : ResetCause) (low : Bool) : State :=
  { dev := { unit := s.dev.unit, grade := s.dev.grade, mfg := s.dev.mfg, cause := cause, resetLow := low }
    tb := { epoch := Config.epochAtReset (s.acc.resets + 1) }
    pace := { tripped := s.pace.tripped, tripOut := s.pace.tripOut && !low }
    portA := s.portA.afterReset
    portB := s.portB.afterReset
    bays := mmap {} (fun _ x => { present := x.present }) s.bays
    acc := s.acc.afterReset
    fen := { boot := Config.bootPart (s.acc.resets + 1) }
    tap := { s.tap with owed := false }
    faults := s.faults.afterReset
    out := s.out
    free := s.free
    pending := s.pending }

/-- BAY_ENb of every bay whose supply was on goes low (R761). -/
def State.baysOff (s : State) : State :=
  (s.bays.filter fun e => e.2.supply).foldl (fun t e => t.send (.bayEnable e.1 false)) s

/-- A device cold reset. -/
def State.coldReset (s : State) (cause : ResetCause) (low : Bool) : State := (s.settleBootControl.baysOff).cleared cause low

/-- RESET_N_LOW: a low level of 2 µs or more (R763). -/
def execResetNLow (s : State) : Host.Outcome State Fault Refusal :=
  .next (if s.dev.resetLow then s else s.coldReset .resetN true)

/-- RESET_N_RISE (R762, R810): time 0 of power-up. -/
def execResetNRise (s : State) : Host.Outcome State Fault Refusal :=
  .next (if s.dev.resetLow then { s with dev := { s.dev with resetLow := false, bootStart := s.tb.elapsed } } else s)

/-- REBOOT (R801): Keeper slot 1, and no command in progress; a sealed part reboots too. -/
def State.reboot (s : State) (p : Port) : State :=
  if !s.holds p 1 then s.updAcc' fun x => { x with result := .notOwner }
  else if s.acc.busy then s.updAcc' fun x => { x with result := .busy }
  else s.coldReset .reboot false

/-- REBOOT. -/
def execReboot (p : Port) (s : State) : Host.Outcome State Fault Refusal := .next (s.whenReadyOrRecovery fun s => s.reboot p)

/-- WATCHDOG_EXPIRY (R820). -/
def execWatchdogExpiry (s : State) : Host.Outcome State Fault Refusal :=
  .next (if s.dev.ready ∨ s.dev.recovery ∨ s.dev.resetLow ∨ s.tb.elapsed < s.dev.bootStart + sec 2 then s
    else s.coldReset .watchdog false)

/-- POWER_LOSS (R766): nothing on the die survives. The board holds RESET_N low until it restores the rails. -/
def execPowerLoss (s : State) : Host.Outcome State Fault Refusal :=
  .next (
    let t := s.coldReset .powerOn true
    { t with tap := {}, pace := {} })

/-! ## Boot selection (R806 to R808) -/

/-- An image's policies lie in the ranges that check 1 of Table 20-7 asks for (Table 20-4). -/
def policiesInRange (m : Image) : Bool :=
  decide (550 ≤ m.bootMv) && decide (m.bootMv ≤ 950) && decide (100 ≤ m.snpTimeout) && decide (m.snpTimeout ≤ 65535)
    && decide (10 ≤ m.graceMs) && decide (m.graceMs ≤ 10000)

/-- The slot's image passes Table 20-7. `bad` names the slots whose bytes fail it. -/
def State.bootable (s : State) (bad : List SlotId) (i : SlotId) : Bool :=
  let x := s.acc.slot i
  match x.image with
  | some m => !bad.contains i && decide (s.acc.floor ≤ m.svn) && policiesInRange m
      && !(decide (x.st = .empty) || decide (x.st = .invalid) || decide (x.st = .writing))
  | none => false

/-- Candidate 1 of Table 20-10 may boot. -/
def State.firstBoots (s : State) (bad : List SlotId) : Bool :=
  s.bootable bad s.acc.next && decide ((s.acc.slot s.acc.next).failed < 3)

/-- The slot that boots (Table 20-10); none is RECOVERY. -/
def State.bootChoice (s : State) (bad : List SlotId) : Option SlotId :=
  if s.firstBoots bad then some s.acc.next
  else
    match s.acc.lastConfirmed with
    | some i => if s.bootable bad i then some i else if s.bootable bad .golden then some .golden else none
    | none => if s.bootable bad .golden then some .golden else none

/-- What a skipped slot becomes (R800, R808). The golden image reads CONFIRMED or BELOW_FLOOR. -/
def State.skippedSlot (s : State) (bad : List SlotId) (i : SlotId) : Slot3 :=
  let x := s.acc.slot i
  if i = .golden ∨ x.st = .empty then x
  else if s.bootable bad i then { x with st := .rejected }
  else
    match x.image with
    | some m => if !bad.contains i ∧ m.svn < s.acc.floor then { x with st := .belowFloor } else { st := .invalid }
    | none => { st := .invalid }

/-- Candidate 1 was skipped and a later candidate boots (R808). -/
def State.rollBack (s : State) (bad : List SlotId) (dest : SlotId) : State :=
  let i := s.acc.next
  let m := (s.acc.slot i).image
  let svn := match m with | some m => m.svn | none => 0
  let date := match m with | some m => m.year * 2 ^ 16 + m.nn * 2 ^ 8 | none => 0
  let v := s.skippedSlot bad i
  let s := s.updAcc' fun x => { x.setSlot i v with next := dest }
  s.logFault { event := 0x30, cls := 0, unitKind := 11, a := slotCode i * 2 ^ 16 + svn, b := date + slotCode dest }

/-- A TRIAL slot's failed-boot count is raised before it runs (R807). -/
def AccState.countTrial (x : AccState) (i : SlotId) : AccState :=
  let v := x.slot i
  if v.st = .trial then x.setSlot i { v with failed := v.failed + 1 } else x

/-- The topology of the image that boots (R684, R686, Table 20-5). -/
def State.loadTopology (s : State) (m : Image) : State :=
  let s := s.updFen fun x => { x with pod := m.pod }
  match m.members.find? fun y => decide (y.unit = s.dev.unit.setWidth 64) with
  | none => (List.range 6).foldl (fun t p => t.updFenPort p fun x => { x with st := .disabled }) s
  | some y =>
    let s := s.updFen fun x => { x with
      valid := true, devno := y.devno
      routes := (y.routes.zipIdx).foldl (fun r e => mset (7, 7) r e.2 e.1) [] }
    (List.range 6).foldl (fun t p =>
      let on := match y.ports[p]? with | some e => decide (e.1 ≠ 0xFF) | none => false
      t.updFenPort p fun x => { x with connected := on, st := if on then .down else .disabled }) s

/-- The image that boots is in force. -/
def State.runImage (s : State) (i : SlotId) : State :=
  let m := (s.acc.slot i).image
  let s := s.updAcc' fun x => { x.countTrial i with running := some i, image := m, bootSeq := x.bootSeq + 1 }
  match m with
  | some m => s.loadTopology m
  | none => s

/-- Boot selection (R806 to R809). -/
def State.selectBoot (s : State) (bad : List SlotId) : State :=
  match s.bootChoice bad with
  | none => { s with dev := { s.dev with recovery := true } }
  | some i => (if s.firstBoots bad then s else s.rollBack bad i).runImage i

/-! ## The phases (Table 20-12) -/

/-- The INIT phase: the fence list is applied and the keys come from the vault; a Return seal whose intent mark stands is
finished (R734, R748). -/
def State.initDone (s : State) : State :=
  let s := (s.reapplyFences none).updAcc' fun x => { x with keys := x.vault }
  if s.faults.intent && !s.faults.sealed then (s.updAcc' fun x => { x with keys := [], vault := [] }).sealDone else s

/-- The default policies are applied (R797, Table 20-4). -/
def State.applyPolicies (s : State) : State :=
  match s.acc.image with
  | none => s
  | some m =>
    let s := { s with
      tb := { s.tb with ppsEn := bitAt m.timeCtrl.toNat 0, ppsStep := bitAt m.timeCtrl.toNat 1 }
      ledger := { s.ledger with snpTimeout := m.snpTimeout } }
    (s.updAcc' fun x => { x with graceMs := m.graceMs }).avsRequest m.bootMv

/-- The ports that the topology names as connected leave electrical idle and train (R684). -/
def State.startFenline (s : State) : State :=
  (List.range 6).foldl (fun t p =>
    t.updFenPort p fun x => if x.connected && !x.disable && decide (x.st = .down) then { x with st := .training } else x) s

def State.setPhase (s : State) (ph : Phase) : State := { s with dev := { s.dev with phase := ph } }

/-- The elapsed time since RESET_N rose is at least `t` ms. -/
def State.bootTime (s : State) (t : Nat) : Bool := decide (s.dev.bootStart + ms t ≤ s.tb.elapsed)

/-- POWER_UP_PHASE: power-up leaves its phase for the next. A part in RECOVERY stays once its host ports are up (R809). -/
def State.powerUp (s : State) (bad : List SlotId) : State :=
  if s.dev.resetLow then s
  else
    match s.dev.phase with
    | .rom => s.setPhase .verify
    | .verify => (s.selectBoot bad).setPhase .init
    | .init => State.setPhase { s.initDone with dev := { s.initDone.dev with configReady := true } } .ports
    | .ports => if s.dev.recovery || !s.bootTime 250 then s else s.startFenline.setPhase .fenline
    | .fenline => if s.bootTime 300 then s.setPhase .folios else s
    | .folios => if s.bootTime 700 then s.applyPolicies.setPhase .settle else s
    | .settle => (State.setPhase { s with dev := { s.dev with ready := true } } .ready).nextEnum
    | .ready => s

/-- POWER_UP_PHASE (R810). `bad` names the slots whose bytes fail Table 20-7. -/
def execPowerUpPhase (bad : List SlotId) (s : State) : Host.Outcome State Fault Refusal := .next (s.powerUp bad)

end Sys2Proof.Machine
end

