-- ==== Sys2Proof/Machine/RegRead.lean ====
section
/-! DEFINITION. What a read of each register block returns (Tables 2-7 to 20-18), as the 64 bits that stand at an offset
aligned to 8 B. Enumerated fields are read through `ctorIdx`: the constructors of each such type stand in the order of
their codes, from 0. -/

namespace Sys2Proof.Machine

/-- Two neighbouring 32-bit registers as the 64 bits of an aligned offset. -/
def pair32 (lo hi : Nat) : Nat := lo % 2 ^ 32 + hi % 2 ^ 32 * 2 ^ 32

/-! ## DEV_, TIME_ and PACE_ -/

/-- The number of bits set among the low `n`. -/
def popcount (n x : Nat) : Nat := ((List.range n).filter fun i => bitAt x i).length

/-- DEV_GRADE.MIN_GRATES (Table 0-2). -/
def State.minGrates (s : State) : Nat := ((List.range 48).map fun h => popcount 16 (s.mfg h).toNat).foldl min 16

/-- DEV_ID (Table 4-6). -/
def State.devId (s : State) : Nat := s.dev.unit.toNat * 2 ^ 32 + 0x2 * 2 ^ 24 + 0xC0 * 2 ^ 16 + 0x0048

/-- DEV_GRADE (Table 0-2). -/
def State.devGrade (s : State) : Nat := s.minGrates * 256 + s.dev.grade.toNat

/-- DEV_STATUS (Table 20-18). -/
def State.devStatus (s : State) : Nat :=
  b2n s.dev.ready * 2 ^ 31 + b2n s.dev.recovery * 2 ^ 30 + (if s.dev.recovery then 0xE else s.dev.phase.ctorIdx) * 2 ^ 24
    + s.dev.cause.ctorIdx * 2 ^ 16

/-- DEV_GRATE_MASKn (R8). -/
def State.grateMask (s : State) (n : Nat) : Nat := (s.mfg (2 * n)).toNat + (s.mfg (2 * n + 1)).toNat * 65536

def State.devWord (s : State) (o : Nat) : Nat :=
  if o = 0x00 then s.devId
  else if o = 0x08 then s.devGrade
  else if o = 0x10 then s.devStatus
  else if o = 0x18 then s.dev.earlyDoorbells * 65536 + s.dev.earlyWrites
  else if 0x100 ≤ o ∧ o < 0x160 then pair32 (s.grateMask ((o - 0x100) / 4)) (s.grateMask ((o - 0x100) / 4 + 1))
  else 0

def State.timeWord (s : State) (o : Nat) : Nat :=
  if o = 0x00 then s.timeNs.toNat
  else if o = 0x08 then s.tb.frac.toNat
  else if o = 0x10 then s.tb.epoch.toNat
  else if o = 0x18 then s.timeStatus
  else if o = 0x28 then b2n s.tb.ppsStep * 2 + b2n s.tb.ppsEn
  else if 0x100 ≤ o ∧ o < 0x1C0 then pair32 (s.paceWord ((o - 0x100) / 4)) (s.paceWord ((o - 0x100) / 4 + 1))
  else if o = 0x200 then s.paceSummary
  else if o = 0x208 then s.paceTemp
  else if o = 0x210 then s.pace.mv
  else if o = 0x218 then s.vstatus
  else if o = 0x220 then s.pace.park.toNat
  else if o = 0x228 then s.pace.parked.toNat
  else 0

/-! ## PORT_, KEEPER_ and LEDG_ -/

/-- PORT_ADOPT_STATUS (Table 4-8). -/
def PortState.adoptStatus (x : PortState) : Nat :=
  match x.adopt with
  | some (g, r) => 2 ^ 31 + (r.ctorIdx + 1) * 2 ^ 16 + g
  | none => 0

/-- 64 pending bits of the PBA. -/
def PortState.pbaWord (x : PortState) (i : Nat) : Nat :=
  (List.range 64).foldl (fun n j => n + b2n (mget false x.pba (64 * i + j)) * 2 ^ j) 0

/-- Half of an MSI-X table entry: message address, or message data and vector control. -/
def PortState.msixWord (x : PortState) (o : Nat) : Nat :=
  let e := mget {} x.msix (o / 16)
  if o % 16 = 0 then e.addr.toNat else pair32 e.data.toNat (b2n e.masked)

def State.portWord (s : State) (p : Port) (o : Nat) : Nat :=
  let x := s.port p
  let y := s.port (otherPort p)
  if o = 0x00 then x.width.toNat * 256 + x.speed.toNat * 16 + b2n x.cxlMem * 2 + portBit p
  else if o = 0x08 then b2n y.inReset * 2 + b2n y.dllUp
  else if o = 0x10 then x.hostFail * 65536 + x.badAccess
  else if o = 0x20 then x.adoptStatus
  else if o = 0x28 then x.devVec.toNat
  else if 0x4000 ≤ o ∧ o < 0x4100 then x.pbaWord ((o - 0x4000) / 8)
  else if 0x8000 ≤ o then x.msixWord (o - 0x8000)
  else 0

def State.keeperWord (s : State) (p : Port) (o : Nat) : Nat :=
  if o < 0x800 ∧ o % 0x20 = 0x10 then s.keeperOwner p (o / 0x20)
  else if o = 0x800 then s.keeper.brokenBits.toNat
  else 0

/-- LEDG_LINE_STATE (Table 4-14). -/
def Line.word (x : Line) : Nat := b2n x.pending * 32 + b2n x.poison * 16 + x.b.ctorIdx * 4 + x.a.ctorIdx

def State.ledgWord (s : State) (o : Nat) : Nat :=
  let x := s.ledger
  if o = 0x00 then x.snpTimeout * 256 + x.exchMib
  else if o = 0x08 then x.result.ctorIdx * 2 ^ 24 + s.heldLines
  else if o = 0x10 then x.poisoned * 2 ^ 48 + x.timeouts * 2 ^ 32 + x.lateRsp * 2 ^ 16 + x.crossed
  else if o = 0x18 then x.outRange
  else if o = 0x28 then (s.line x.sel.toNat).word
  else 0

/-! ## ACC_ -/

/-- A slot as ACC_ACTIVE, ACC_PREVIOUS and ACC_SLOTs show it (Table 20-18). -/
def AccState.slotWord (x : AccState) (i : SlotId) : Nat :=
  let v := x.slot i
  let m := match v.image with
    | some m => m.year * 2 ^ 48 + m.nn * 2 ^ 40 + m.svn * 2 ^ 16
    | none => 0
  m + slotCode i * 2 ^ 32 + v.st.ctorIdx

/-- ACC_STATUS (Table 20-18). -/
def AccState.statusWord (x : AccState) : Nat :=
  let failed := match x.running with
    | some i => if (x.slot i).st = .trial then (x.slot i).failed else 0
    | none => 0
  x.result.ctorIdx * 2 ^ 28 + failed * 2 ^ 24 + slotCode x.next * 2 ^ 20 + x.progress * 2 + b2n x.busy

/-- The library entry that ACC_LIB_SEL names. -/
def AccState.libBytes (x : AccState) : List Byte :=
  match x.image with
  | some m => match m.lib.find? fun e => decide (e.1 = bits x.libSel.toNat 0 32) with
    | some e => e.2
    | none => []
  | none => []

/-- The 8 bytes of a list from offset `o` on; zeros beyond its end. -/
def listWord (bs : List Byte) (o : Nat) : Nat := leNat ((bs.drop o).take 8)

def State.accWord (s : State) (o : Nat) : Nat :=
  let x := s.acc
  let hash := match x.image with | some m => m.hash | none => []
  if o = 0x00 then (match x.running with | some i => x.slotWord i | none => 0xFF * 2 ^ 32)
  else if o = 0x08 then x.slotWord s.installTarget
  else if o = 0x10 then min 255 x.raisesLeft * 65536 + x.floor
  else if o = 0x20 then x.statusWord
  else if o = 0x28 then pair32 x.srcOffset x.srcLength
  else if 0x40 ≤ o ∧ o < 0x70 then listWord hash (o - 0x40)
  else if o = 0x80 then x.slotWord .a
  else if o = 0x88 then x.slotWord .b
  else if o = 0x90 then x.slotWord .golden
  else if o = 0x100 then x.libSel.toNat
  else if 0x1000 ≤ o ∧ o < 0x2000 then listWord x.libBytes (bits x.libSel.toNat 32 32 * 4096 + (o - 0x1000))
  else 0

/-! ## FAULT_ -/

/-- FAULT_RECk: zeros unless the ring still holds record N. -/
def State.faultRec (s : State) (k : Nat) : Nat :=
  let x := s.faults
  let d := (x.head - x.readN).toNat
  if 1 ≤ d ∧ d ≤ 4096 then leNat (bytesAt s.shared (32 * (x.readN.toNat % 4096) + 8 * k) 8) else 0

/-- A fence-list entry (Table 18-6). -/
def FenceEntry.word (e : FenceEntry) : Nat :=
  b2n e.valid * 2 ^ 63 + e.kind.toNat * 2 ^ 60 + e.index.toNat * 2 ^ 48 + e.cause.toNat * 2 ^ 32 + e.record.toNat

/-- Available Grates of unfenced Hearths (R736). -/
def State.availGrates (s : State) : Nat :=
  (List.range 48).foldl (fun n h => if (s.hearth h).fenced then n else n + popcount 16 (s.avail h).toNat) 0

/-- One bit for each of 48 Hearths. -/
def hearthBits (f : Nat → Bool) : Nat := (List.range 48).foldl (fun n h => n + b2n (f h) * 2 ^ h) 0

def State.faultWord (s : State) (o : Nat) : Nat :=
  let x := s.faults
  if o = 0x00 then x.head.toNat
  else if o = 0x08 then x.tail.toNat
  else if o = 0x10 then x.result.ctorIdx * 2 ^ 28 + x.lost * 2 ^ 12 + b2n x.sealed * 2 + b2n x.busy
  else if o = 0x18 then x.readN.toNat
  else if 0x20 ≤ o ∧ o < 0x40 then s.faultRec ((o - 0x20) / 8)
  else if o = 0x40 then x.tileTransient * 2 ^ 32 + x.otherTransient * 2 ^ 16 + x.lasting
  else if o = 0x48 then x.sramCorrected.toNat
  else if o = 0x50 then hearthBits fun h => (s.hearth h).fenced
  else if o = 0x58 then
    s.availGrates * 2 ^ 32 + (List.range 4).foldl (fun n q => n + (s.cabinet q).fenced.toNat * 2 ^ (8 * q)) 0
  else if o = 0x60 then hearthBits fun h => (s.hearth h).stove.fenced
  else if o = 0x78 then
    b2n x.frozen * 2 ^ 63 + b2n x.listFull * 2 ^ 62 + (x.fences.filter fun e => e.2.valid).length * 2 ^ 32
      + x.bookRecords.toNat
  else if o = 0x80 then x.bookReadN.toNat
  else if 0x88 ≤ o ∧ o < 0xA8 then listWord (mget [] x.book x.bookReadN.toNat) (o - 0x88)
  else if 0x100 ≤ o ∧ o < 0x2100 then (mget {} x.fences ((o - 0x100) / 8)).word
  else 0

/-! ## GAL_, CAT_ and the doorbell page -/

/-- GAL_QSTATUS (Table 3-5). -/
def Gallery.qstatus (x : Gallery) : Nat :=
  (List.range 4).foldl (fun n i =>
    let q := x.queue i
    n + (b2n (q.heldAbort.isSome || q.stagedAborted) * 128 + q.outstanding) * 2 ^ (16 * i)) 0

/-- Some stream of the work order is halted on a fault. -/
def State.woInFault (s : State) (id : Nat) : Bool :=
  s.hearths.any fun e => e.2.stokers.any fun k =>
    decide (k.2.wo = id) && decide (k.2.st ≠ .free) && k.2.handles.any fun d => match d.2 with | some x => x.halted | none => false

/-- GAL_INFLIGHT (Table 3-5). -/
def State.inflight (s : State) (g : Nat) : Nat :=
  let mine := s.wos.filter fun w => decide (w.gal = g)
  (mine.filter fun w => s.woInFault w.id).length * 65536 + mine.length

/-- The configuration register of a gallery that stands at an offset (Table 3-4). -/
def galRegAt (o : Nat) : Option GalReg :=
  if o = 0x10 then some .homePort
  else if o = 0x18 then some .hearths
  else if o = 0x20 then some .hobWindow
  else if o = 0x28 then some .pasid
  else if o = 0x38 then some .cobatch
  else if 0x40 ≤ o ∧ o < 0xA0 then
    let q := Fin.ofNat 4 ((o - 0x40) / 0x18)
    if (o - 0x40) % 0x18 = 0 then some (.sqBase q) else if (o - 0x40) % 0x18 = 8 then some (.cqBase q) else some (.qcfg q)
  else if o = 0xA8 then some .faultqBase
  else if o = 0xB0 then some .faultqCfg
  else if 0xD0 ≤ o ∧ o < 0x100 then some (.cobatchHash (Fin.ofNat 6 ((o - 0xD0) / 8)))
  else none

def State.galWord (s : State) (g o : Nat) : Nat :=
  let x := s.gal g
  if o = 0x00 then x.cause.ctorIdx * 4096 + x.result.ctorIdx * 256 + b2n x.busy * 8 + x.st.ctorIdx
  else if o = 0x30 then x.kindleNs
  else if o = 0xA0 then x.qstatus
  else if o = 0xB8 then x.staleResume * 2 ^ 48 + x.badDoorbell * 2 ^ 32 + x.wrongPort * 2 ^ 16 + x.notOpen
  else if o = 0xC0 then s.inflight g
  else match galRegAt o with
    | some r => x.readReg r
    | none => 0

def State.catWord (s : State) (g o : Nat) : Nat :=
  let c := s.cat g
  if o = 0x00 then c.poolSize * 2 ^ 32 + c.poolBase
  else if o = 0x08 then b2n c.busy * 2 ^ 31 + c.result.ctorIdx * 2 ^ 16 + c.lastSeg.toNat
  else if o = 0x20 then c.e0.toNat
  else if o = 0x28 then c.e1.toNat
  else if o = 0x30 then c.e2.toNat
  else if o = 0x38 then c.e3.toNat
  else if o = 0x40 then c.selSeg.toNat * 2 ^ 24 + c.selWord.toNat
  else if o = 0x48 then s.presWord g
  else if o = 0x60 then c.protFaults * 2 ^ 32 + c.absentFaults
  else if 0x800 ≤ o then (c.seg ((o - 0x800) / 8)).w0.toNat
  else 0

/-- DB_ABORT_STATUSq (Table 3-6), the one register of a doorbell page that reads as other than 0. -/
def State.doorbellWord (s : State) (g o : Nat) : Nat :=
  if o < 0x80 ∧ o % 0x20 = 0x18 then
    match ((s.gal g).queue (o / 0x20)).abort with
    | some (r, t) => 2 ^ 31 + (r.ctorIdx + 1) * 2 ^ 16 + t.toNat
    | none => 0
  else 0

/-! ## HRT_ and CAB_ -/

/-- HRT_STOKERk (Table 7-10). -/
def Stoker.word (x : Stoker) : Nat :=
  if x.st = .free then 0
  else x.tag.toNat * 2 ^ 48 + x.queue * 2 ^ 46 + x.gal * 2 ^ 36 + x.st.ctorIdx * 2 ^ 32 + x.pc % 2 ^ 18

/-- A Stoker in a PARKED_ state or IN_FAULT. -/
def StSt.parked (x : StSt) : Bool := decide (2 ≤ x.ctorIdx) && decide (x.ctorIdx ≤ 7)

/-- HRT_STATUS.PARKED_STOKERS. -/
def Hearth.parkedMask (x : Hearth) : Nat := (List.range 16).foldl (fun n k => n + b2n (x.stoker k).st.parked * 2 ^ k) 0

/-- HRT_TAGS.BUSY: tags FILLING or HELD in the Hearth's open streams. -/
def State.busyTagCount (s : State) (h : Nat) : Nat :=
  (s.hearth h).stokers.foldl (fun n y => y.2.handles.foldl (fun m e => m + (s.busyTags h y.1 e.1).length) n) 0

/-- HRT_PROGj, its two words. -/
def Prog.word0 (x : Prog) : Nat := x.st.ctorIdx * 2 ^ 62 + x.gal * 2 ^ 32 + x.program.toNat
def Prog.word1 (x : Prog) : Nat := x.length * 2 ^ 32 + x.base

/-- HRT_PROGj as it reads: LOADING from the fetch of a PLACE until it is recorded (R283, R285, R286). -/
def State.progShown (s : State) (h j : Nat) : Prog :=
  match (mget none (s.hearth h).loading j).bind s.wo? with
  | some w => { st := .loading, gal := w.gal, program := w.program, base := w.offset, length := w.length }
  | none => (s.hearth h).prog j

/-- HRT_PS_MAPj. -/
def Hearth.psWord (x : Hearth) (j : Nat) : Nat :=
  let e := mget (false, 0) x.psMap j
  b2n e.1 * 2 ^ 31 + e.2

/-- HRT_STOVE (Table 15-7). -/
def Stove.word (x : Stove) : Nat :=
  x.st.ctorIdx * 2 ^ 62 + min 65535 x.reloads * 2 ^ 32 + x.loads.toNat % 65536 * 2 ^ 16 + x.gal

def State.hrtWord (s : State) (h o : Nat) : Nat :=
  let x := s.hearth h
  if o = 0x00 then x.result.ctorIdx * 2 ^ 28 + x.busyStokers * 2 ^ 16 + x.parkedMask
  else if o = 0x08 then b2n x.fenced * 2 ^ 31 + x.cause.toNat
  else if o = 0x10 then (s.mfg h).toNat * 65536 + (s.avail h).toNat
  else if o = 0x18 then b2n (!x.calls.isEmpty) * 2 ^ 31 + b2n x.stoveRoute
  else if o = 0x20 then s.busyTagCount h * 65536 + (256 - x.freeTags)
  else if o = 0x28 then x.pieces.toNat * 2 ^ 32 + x.halts * 2 ^ 16 + x.openWaits
  else if o = 0x30 then x.stove.word
  else if o = 0x38 then x.stove.len
  else if 0x100 ≤ o ∧ o < 0x180 then (x.stoker ((o - 0x100) / 8)).word
  else if 0x1000 ≤ o ∧ o < 0x1400 then pair32 (x.psWord ((o - 0x1000) / 4)) (x.psWord ((o - 0x1000) / 4 + 1))
  else if 0x2000 ≤ o ∧ o < 0x3000 then
    let p := s.progShown h ((o - 0x2000) / 16)
    if o % 16 = 0 then p.word0 else p.word1
  else 0

/-- Calls that wait for engine `e` of a Cabinet. -/
def State.cabWaiting (s : State) (q e : Nat) : Nat :=
  s.hearths.foldl (fun n x =>
    if (s.servedQuadrants q e).contains (x.1 / 12)
    then n + (x.2.calls.filter fun c => decide (c.engine = e) && decide (c.st = .queued)).length else n) 0

def State.cabWord (s : State) (q o : Nat) : Nat :=
  let x := s.cabinet q
  let engines := (List.range 8).map fun i => i + 1
  if o = 0x00 then engines.foldl (fun n e => n + b2n (mget none x.running e).isSome * 2 ^ (e - 1)) 0
  else if o = 0x08 then engines.foldl (fun n e => n + min 255 (s.cabWaiting q e) * 2 ^ (8 * e - 8)) 0
  else if o = 0x10 then x.faults.toNat
  else if 0x40 ≤ o ∧ o < 0x80 then (mget 0 x.done ((o - 0x40) / 8 + 1)).toNat
  else 0

/-! ## FOL_ and FEN_ -/

/-- FOL_STATE (Table 16-8). THROTTLED: a WR frame is due and R652 does not admit it yet. -/
def State.folState (s : State) (b : Nat) : Nat :=
  let x := s.bay b
  let thr := s.throttles b && (s.bayPieces b).any fun p => p.wrDue && decide (p.status = .heldBay)
  x.result.ctorIdx * 2 ^ 28 + b2n x.chalDone * 2 ^ 15 + b2n x.enumerating * 2 ^ 14 + b2n x.present * 2 ^ 13
    + b2n x.linkUp * 2 ^ 12 + b2n thr * 2 ^ 11 + b2n x.pwrHold * 2 ^ 10 + b2n x.ejecting * 2 ^ 9 + b2n x.busy * 2 ^ 8
    + x.reason.ctorIdx * 16 + x.st.code

def State.folWord (s : State) (b o : Nat) : Nat :=
  let x := s.bay b
  if o = 0x00 then s.folState b
  else if o = 0x10 then x.wear
  else if o = 0x18 then x.wearPct
  else if o = 0x20 then x.unit.toNat
  else if o = 0x28 then if x.known then 122880 * 2 ^ 32 + x.model.toNat * 2 ^ 16 + 1024 else 0
  else if o = 0x30 then x.sealDev.toNat
  else if o = 0x38 then x.scrubbed * 2 ^ 48 + x.writeFails * 2 ^ 32 + x.readFails * 2 ^ 16 + x.readRetries
  else if 0x200 ≤ o ∧ o < 0x2A0 then listWord x.resp (o - 0x200)
  else if 0x1000 ≤ o ∧ o < 0x1880 then leNat (bytesAt x.xfer (o - 0x1000) 8)
  else if 0x2000 ≤ o ∧ o < 0x3000 then listWord x.cert (o - 0x2000)
  else 0

/-- FEN_GALg (Table 17-7). -/
def FenGal.word (x : FenGal) : Nat := b2n x.fault * 2 ^ 63 + x.va + x.log2n * 256 + b2n x.accept * 2 + b2n x.enable

/-- The device-wide FEN_ registers, in instance 0. -/
def State.fenShared (s : State) (o : Nat) : Nat :=
  let x := s.fen
  if o = 0x1000 then b2n x.valid * 2 ^ 31 + x.devno
  else if o = 0x1008 then s.cfgEpoch.toNat
  else if o = 0x1010 then x.stale * 2 ^ 32 + x.hopDrops
  else if 0x1100 ≤ o ∧ o < 0x1300 then
    let r := mget (7, 7) x.routes ((o - 0x1100) / 8)
    r.2 * 8 + r.1
  else if 0x2000 ≤ o then (s.fenGal ((o - 0x2000) / 8)).word
  else 0

def State.fenWord (s : State) (p o : Nat) : Nat :=
  let x := s.fenPort p
  if 0x1000 ≤ o then (if p = 0 then s.fenShared o else 0)
  else if o = 0x00 then x.result.ctorIdx * 2 ^ 28 + x.mismatch.toNat * 2 ^ 16 + x.st.ctorIdx
  else if o = 0x08 then x.peerUnit.toNat
  else if o = 0x10 then
    x.peerTimeEpoch.toNat * 2 ^ 32 + x.peerZhema.toNat * 2 ^ 16 + x.peerPort.toNat * 2 ^ 8 + x.peerDevno.toNat
  else if o = 0x18 then x.peerEpoch.toNat
  else if o = 0x20 then b2n x.skewValid * 2 ^ 63 + x.skewOffset.toNat
  else if o = 0x28 then x.crcErrors * 2 ^ 32 + x.replays * 2 ^ 16 + x.trainings
  else if o = 0x30 then b2n x.disable
  else if 0x40 ≤ o ∧ o < 0x70 then listWord x.peerHash (o - 0x40)
  else 0

/-! ## The BAR0 map (Table 4-4) -/

/-- The blocks of BAR0, with the instance. -/
inductive Block
  | dev | time | port | keeper | acc | fault
  | gal (g : Nat) | hrt (h : Nat) | fol (b : Nat) | fen (p : Nat) | cab (q : Nat)
  | ledg | cat (g : Nat)
  | reserved
  deriving DecidableEq, Repr

/-- The block that decodes a BAR0 offset, and the offset within its instance. -/
def blockAt (off : Nat) : Block × Nat :=
  let simple (b : Block) : Block × Nat := (b, off % 0x10000)
  if off < 0x1_0000 then simple .dev
  else if off < 0x2_0000 then simple .time
  else if off < 0x3_0000 then simple .port
  else if off < 0x4_0000 then simple .keeper
  else if off < 0x5_0000 then simple .acc
  else if off < 0x6_0000 then simple .fault
  else if 0x8_0000 ≤ off ∧ off < 0xC_0000 then (.gal ((off - 0x8_0000) / 0x100), off % 0x100)
  else if 0x10_0000 ≤ off ∧ off < 0x1C_0000 then (.hrt ((off - 0x10_0000) / 0x4000), off % 0x4000)
  else if 0x20_0000 ≤ off ∧ off < 0x22_0000 then (.fol ((off - 0x20_0000) / 0x4000), off % 0x4000)
  else if 0x22_0000 ≤ off ∧ off < 0x23_8000 then (.fen ((off - 0x22_0000) / 0x4000), off % 0x4000)
  else if 0x24_0000 ≤ off ∧ off < 0x25_0000 then (.cab ((off - 0x24_0000) / 0x4000), off % 0x4000)
  else if 0x26_0000 ≤ off ∧ off < 0x27_0000 then simple .ledg
  else if 0x28_0000 ≤ off ∧ off < 0x68_0000 then (.cat ((off - 0x28_0000) / 0x1000), off % 0x1000)
  else (.reserved, off)

/-- Blocks that return their values before READY (Table 20-13). -/
def Block.early : Block → Bool
  | .dev | .time | .port | .keeper | .acc | .fault => true
  | _ => false

/-- The 64 bits at an aligned offset of BAR0, as a port reads them. -/
def State.word (s : State) (p : Port) (off : Nat) : Nat :=
  let b := (blockAt off).1
  let o := (blockAt off).2
  if !s.dev.ready && !b.early then 0
  else
    match b with
    | .dev => s.devWord o
    | .time => s.timeWord o
    | .port => s.portWord p o
    | .keeper => s.keeperWord p o
    | .acc => s.accWord o
    | .fault => s.faultWord o
    | .gal g => s.galWord g o
    | .hrt h => s.hrtWord h o
    | .fol b => s.folWord b o
    | .fen q => s.fenWord q o
    | .cab q => s.cabWord q o
    | .ledg => s.ledgWord o
    | .cat g => s.catWord g o
    | .reserved => 0

end Sys2Proof.Machine
end

