-- ==== Sys2Proof/Machine/Registers.lean ====
section
/-! DEFINITION. A host's access to BAR0 and BAR2: which accesses are well formed, how 4 B and 8 B accesses reach 32-bit and
64-bit registers, and which operation each writable register performs (R14 to R18, R154 to R162, R812, R830). -/

namespace Sys2Proof.Machine

/-! ## 32-bit registers -/

/-- TIME_STATUS: NOT_OWNER and STEPPED are W1C. PACE_VSTATUS: REJECTED_HOT, NOT_OWNER, RANGE and DONE are. -/
def State.timeWrite (s : State) (p : Port) (o v : Nat) : State :=
  if o = 0x18 then
    { s with tb := { s.tb with notOwner := s.tb.notOwner && !bitAt v 6, stepped := s.tb.stepped && !bitAt v 5 } }
  else if o = 0x28 then { s with tb := { s.tb with ppsStep := bitAt v 1, ppsEn := bitAt v 0 } }
  else if o = 0x210 then s.paceVreq p (v % 1024)
  else if o = 0x218 then
    { s with pace := { s.pace with
        rejectedHot := s.pace.rejectedHot && !bitAt v 5
        notOwner := s.pace.notOwner && !bitAt v 4
        range := s.pace.range && !bitAt v 3
        done := s.pace.done && !bitAt v 1 } }
  else s

/-- The data, or the vector control, of an MSI-X table entry; vectors that may now go out do so (R172a, R831). -/
def PortState.setMsix (x : PortState) (v : Nat) (e : MsixEntry) : PortState := { x with msix := mset {} x.msix v e }

def State.portWrite (s : State) (p : Port) (o v : Nat) : State :=
  let x := s.port p
  if o = 0x18 then s.portAdopt p (v % 1024)
  else if 0x8000 ≤ o then
    let i := (o - 0x8000) / 16
    let e := mget {} x.msix i
    if o % 16 = 8 then s.setPort p (x.setMsix i { e with data := BitVec.ofNat 32 v })
    else if o % 16 = 12 then (s.setPort p (x.setMsix i { e with masked := bitAt v 0 })).sendPending p
    else s
  else s

def State.keeperWrite (s : State) (p : Port) (o v : Nat) : State :=
  if 0x800 ≤ o then s
  else if o % 0x20 = 0x00 then s.keeperTake p (o / 0x20) (BitVec.ofNat 16 v) (bits v 16 12)
  else if o % 0x20 = 0x08 then s.keeperGive p (o / 0x20) (BitVec.ofNat 16 v)
  else s

/-- ACC_COMMAND (Table 20-9); a CMD or a SLOT that is not listed does nothing (R18). -/
def State.accWrite (s : State) (p : Port) (o v : Nat) : State :=
  if o ≠ 0x18 then s
  else
    match bits v 0 4 with
    | 1 => s.install p
    | 2 => match bits v 8 2 with
      | 0 => s.activate p .a
      | 1 => s.activate p .b
      | 2 => s.activate p .golden
      | _ => s
    | 3 => s.confirm p
    | 4 => s.reboot p
    | _ => s

/-- FAULT_COMMAND (Table 18-6). -/
def State.faultCommand (s : State) (p : Port) (v : Nat) : State :=
  match bits v 28 4 with
  | 1 => s.judgeFault p fun s => s.cmdFenceGrate (v % 1024)
  | 2 => s.judgeFault p fun s => s.cmdFenceEngine (v % 1024)
  | 3 => s.judgeFault p fun s => s.cmdFenceStove (v % 1024)
  | 4 => s.judgeFault p fun s => s.cmdForget (v % 1024)
  | 5 => s.returnSeal p
  | _ => s

def State.faultWrite (s : State) (p : Port) (o v : Nat) : State :=
  if o = 0x08 then s.faultTail (BitVec.ofNat 32 v)
  else if o = 0x18 then { s with faults := { s.faults with readN := BitVec.ofNat 32 v, result := .ok } }
  else if o = 0x68 then s.faultCommand p v
  else if o = 0x70 then s.sealArm p (BitVec.ofNat 32 v)
  else if o = 0x80 then { s with faults := { s.faults with bookReadN := BitVec.ofNat 32 v, result := .ok } }
  else s

/-- GAL_COMMAND (Table 3-5): SCRUB and SCRUB_KEY count with RESET and RELEASE alone. -/
def State.galCommand (s : State) (p : Port) (g v : Nat) : State :=
  match bits v 0 4 with
  | 1 => s.create p g
  | 2 => s.openGal p g
  | 3 => s.quiesce p g
  | 4 => s.galReset p g (bitAt v 8) (bitAt v 9)
  | 5 => s.release p g (bitAt v 8) (bitAt v 9)
  | _ => s

def State.galWrite (s : State) (p : Port) (g o v : Nat) : State :=
  if o = 0x08 then s.galCommand p g v
  else if o = 0x30 then s.kindleDeadline p g v
  else match galRegAt o with
    | some r => s.galConfig p g r v
    | none => s

/-- CAT_CMD (Table 5-4); a CMD that is not listed is judged, and sets LAST_SEG, and does nothing more. -/
def State.catCommand (s : State) (p : Port) (g v : Nat) : State :=
  let seg := bits v 8 8
  s.catCmd p g (BitVec.ofNat 8 seg) fun s =>
    match bits v 0 4 with
    | 1 => s.catWrite g seg
    | 2 => s.invalidate g seg
    | 3 => s.catRead g seg
    | 4 => s.presFill g seg
    | 5 => s.presEmpty g seg
    | _ => s.catResult g .ok

def State.catRegWrite (s : State) (p : Port) (g o v : Nat) : State :=
  if o = 0x10 then s.catCommand p g v
  else if o = 0x40 then s.catPresSel p g v
  else s

/-- HRT_FENCE, HRT_POST_ROUTE, HRT_RESET and HRT_PS_MAPj. A write of 0 to a trigger has no effect and is accepted. -/
def State.hrtWrite (s : State) (p : Port) (h o v : Nat) : State :=
  if o = 0x08 then (if bitAt v 30 then s.fenceReq p h else s.hrtResult h .ok)
  else if o = 0x18 then s.postRoute p h (bitAt v 0)
  else if o = 0x40 then (if bitAt v 0 then s.hrtReset p h else s.hrtResult h .ok)
  else if 0x1000 ≤ o ∧ o < 0x1400 then s.psMapWrite p h ((o - 0x1000) / 4) (BitVec.ofNat 32 v)
  else s

/-- FOL_COMMAND (Table 16-6). Whether EXPORT's target chain verifies up to the fused root is a fact about keys the spec
does not give: a free value. -/
def State.folWriteCommand (s : State) (p : Port) (b v : Nat) : State :=
  match bits v 0 4 with
  | 1 => s.folCommand p b .adopt true
  | 2 => s.folCommand p b .eject true
  | 3 => s.folCommand p b .retire true
  | 4 =>
    let (t, w) := s.takeFree
    t.folCommand p b .exportKeys (w.getLsbD 0)
  | 5 => s.folCommand p b .acceptKeys true
  | 6 => s.folCommand p b .commit true
  | _ => s

def State.folWrite (s : State) (p : Port) (b o v : Nat) : State :=
  if o = 0x00 then s.updBay b fun x => { x with chalDone := x.chalDone && !bitAt v 15 }
  else if o = 0x08 then s.folWriteCommand p b v
  else if o = 0x40 then (if bitAt v 0 then s.folReset p b else s)
  else s

/-- FEN_CTRL: DISABLE takes its value, and then RESET starts a port reset. -/
def State.fenCtrlWrite (s : State) (p : Port) (q v : Nat) : State :=
  s.fenCtrl p q fun s =>
    let s := if bitAt v 0 = (s.fenPort q).disable then s else s.fenDisable q (bitAt v 0)
    if bitAt v 1 then s.fenReset q else s

def State.fenWrite (s : State) (p : Port) (q o v : Nat) : State :=
  if o = 0x30 then s.fenCtrlWrite p q v
  else if q ≠ 0 then s
  else if o = 0x1008 then s.fenCfgEpoch p (BitVec.ofNat 16 (v / 65536))
  else if 0x1100 ≤ o ∧ o < 0x1300 ∧ o % 8 = 0 then s.fenRoute p ((o - 0x1100) / 8) v
  else s

/-- LEDG_CFG, and LEDG_LINE, which only selects. -/
def State.ledgWrite (s : State) (p : Port) (o v : Nat) : State :=
  if o = 0x00 then s.ledgCfg p v
  else if o = 0x20 then { s with ledger := { s.ledger with sel := BitVec.ofNat 20 v } }
  else s

/-- A 4 B write of a 32-bit register at an offset of a block. -/
def State.write32 (s : State) (p : Port) (b : Block) (o v : Nat) : State :=
  match b with
  | .time => s.timeWrite p o v
  | .port => s.portWrite p o v
  | .keeper => s.keeperWrite p o v
  | .acc => s.accWrite p o v
  | .fault => s.faultWrite p o v
  | .gal g => s.galWrite p g o v
  | .hrt h => s.hrtWrite p h o v
  | .fol b => s.folWrite p b o v
  | .fen q => s.fenWrite p q o v
  | .ledg => s.ledgWrite p o v
  | .cat g => s.catRegWrite p g o v
  | .dev | .cab _ | .reserved => s

/-! ## 64-bit registers -/

/-- How the 64 bits at an aligned offset take writes. -/
inductive WideKind
  /-- Two 32-bit registers, or none. -/
  | narrow
  /-- One 64-bit RW register, one W1C register, one WO register. -/
  | rw | w1c | wo
  deriving DecidableEq, Repr

/-- The writable 64-bit registers. -/
def wideKind (b : Block) (o : Nat) : WideKind :=
  match b with
  | .time => if o = 0x20 then .wo else if o = 0x220 then .rw else .narrow
  | .port => if o = 0x28 ∨ (0x8000 ≤ o ∧ o % 16 = 0) then .rw else .narrow
  | .keeper => if o = 0x800 then .w1c else .narrow
  | .acc => if o = 0x28 ∨ o = 0x100 then .rw else .narrow
  | .gal _ =>
    match galRegAt o with
    | some .hearths | some (.sqBase _) | some (.cqBase _) | some .faultqBase | some (.cobatchHash _) => .rw
    | _ => .narrow
  | .cat _ => if o = 0x00 ∨ (0x20 ≤ o ∧ o < 0x40) then .rw else if o = 0x50 ∨ o = 0x58 then .wo else .narrow
  | .fen q => if q = 0 ∧ 0x2000 ≤ o then .rw else .narrow
  | .dev | .fault | .hrt _ | .fol _ | .cab _ | .ledg | .reserved => .narrow

/-- PORT_DEV_VEC's fields (Table 4-8). -/
def devVecMask : W64 := 0x0FFF0FFF0FFF0FFF

/-- The MSI-X address of an entry, PORT_DEV_VEC, PACE_PARK, TIME_SET and the other 64-bit registers take a value. -/
def State.write64 (s : State) (p : Port) (b : Block) (o : Nat) (v : W64) : State :=
  match b with
  | .time => if o = 0x20 then s.timeSet p v else if o = 0x220 then s.pacePark p (v.setWidth 48) else s
  | .port =>
    let x := s.port p
    if o = 0x28 then s.setPort p { x with devVec := v &&& devVecMask }
    else
      let i := (o - 0x8000) / 16
      s.setPort p (x.setMsix i { mget {} x.msix i with addr := v })
  | .keeper => { s with keeper := { s.keeper with brokenBits := s.keeper.brokenBits &&& ~~~v } }
  | .acc =>
    s.updAcc' fun x =>
      if o = 0x28 then { x with srcOffset := bits v.toNat 0 32, srcLength := bits v.toNat 32 32, result := .ok }
      else { x with libSel := v, result := .ok }
  | .gal g => match galRegAt o with
    | some r => s.galConfig p g r v.toNat
    | none => s
  | .cat g =>
    if o = 0x00 then s.catPool p g v.toNat
    else if o = 0x50 then s.catJudge p g fun s => s.presSet g v.toNat
    else if o = 0x58 then s.catJudge p g fun s => s.presClr g v.toNat
    else s.catEntry p g ((o - 0x20) / 8) v
  | .fen _ => s.fenGalWrite p ((o - 0x2000) / 8) v.toNat
  | .dev | .fault | .hrt _ | .fol _ | .cab _ | .ledg | .reserved => s

/-! ## Byte windows (R155, Table 16-8) -/

/-- The bytes of the FOL_CHAL_NONCE window after a write; once its last byte has been written, the nonce is whole (R640). -/
def State.nonceWrite (s : State) (b o : Nat) (bs : List Byte) : State :=
  let s := s.updBay b fun x => { x with nonce := putBytes x.nonce o bs }
  if o + bs.length = 48 then s.chalNonce b (bytesAt (s.bay b).nonce 0 48) else s

/-- FOL_XFER takes writes from the port that holds Keeper slot 2 alone. -/
def State.xferWrite (s : State) (p : Port) (b o : Nat) (bs : List Byte) : State :=
  if s.holds p 2 then s.updBay b fun x => { x with xfer := putBytes x.xfer o bs, result := .ok } else s.folResult b .notOwner

/-- The window that holds an offset of a FOL_ block, if it takes writes: true is FOL_XFER. -/
def folWindow (o : Nat) : Option Bool :=
  if 0x100 ≤ o ∧ o < 0x130 then some false else if 0x1000 ≤ o ∧ o < 0x1880 then some true else none

def State.windowWrite (s : State) (p : Port) (b o : Nat) (bs : List Byte) : State :=
  match folWindow o with
  | some true => s.xferWrite p b (o - 0x1000) bs
  | some false => s.nonceWrite b (o - 0x100) bs
  | none => s

/-- A FOL_ offset that a window decodes. -/
def inWindow : Block → Nat → Bool
  | .fol _, o => (folWindow o).isSome
  | _, _ => false

/-! ## 4 B and 8 B writes (R158, R159) -/

/-- The half of a 64-bit register that a 4 B write changes, with the other half as given. -/
def withHalf (old : W64) (upper : Bool) (v : W32) : W64 :=
  if upper then v ++ old.setWidth 32 else old.extractLsb' 32 32 ++ v

/-- The lower half of a 64-bit WO register that a port holds. -/
def PortState.half (x : PortState) (off : Nat) : Option W32 := mget none x.halves off
def PortState.setHalf (x : PortState) (off : Nat) (v : Option W32) : PortState := { x with halves := mset none x.halves off v }
def State.setHalf (s : State) (p : Port) (off : Nat) (v : Option W32) : State := s.setPort p ((s.port p).setHalf off v)

/-- A 4 B write that R155 accepts. -/
def State.write4 (s : State) (p : Port) (off : Nat) (v : W32) : State :=
  let b := (blockAt off).1
  let o := (blockAt off).2
  let base := off / 8 * 8
  let o8 := o / 8 * 8
  let upper := decide (off % 8 = 4)
  if inWindow b o then
    match b with
    | .fol i => s.windowWrite p i o (natLe 4 v.toNat)
    | _ => s
  else match wideKind b o8 with
    | .narrow => s.write32 p b o v.toNat
    | .rw => s.write64 p b o8 (withHalf (BitVec.ofNat 64 (s.word p base)) upper v)
    | .w1c => s.write64 p b o8 (withHalf 0 upper v)
    | .wo =>
      if upper then
        match (s.port p).half base with
        | some lo => (s.setHalf p base none).write64 p b o8 (v ++ lo)
        | none => s
      else s.setHalf p base (some v)

/-- An 8 B write that R155 accepts. -/
def State.write8 (s : State) (p : Port) (off : Nat) (v : W64) : State :=
  let b := (blockAt off).1
  let o := (blockAt off).2
  if inWindow b o then
    match b with
    | .fol i => s.windowWrite p i o (natLe 8 v.toNat)
    | _ => s
  else match wideKind b o with
    | .narrow => (s.write32 p b o (bits v.toNat 0 32)).write32 p b (o + 4) (bits v.toNat 32 32)
    | .rw | .w1c => s.write64 p b o v
    | .wo => (s.setHalf p off none).write64 p b o v

/-! ## BAR0 (R155 to R157, R812) -/

/-- A 4 B or 8 B access that is aligned and lies in the window. -/
def wellFormed (size off n : Nat) : Bool :=
  ((decide (n = 4) && decide (off % 4 = 0)) || (decide (n = 8) && decide (off % 8 = 0))) && decide (off + n ≤ size)

/-- An access that is not well formed: counted in BAD_ACCESS and reported; a read completes with Completer Abort (R156). -/
def State.badAccess (s : State) (p : Port) (write : Bool) : State :=
  let x := s.port p
  let s := (s.setPort p { x with badAccess := satAdd 65535 x.badAccess 1 }).send (.aer p)
  if write then s else s.send (.completerAbort p)

/-- Writes that a block takes before READY, and in RECOVERY (R809, Table 20-13). -/
def State.takesWrites (s : State) (b : Block) (o : Nat) : Bool :=
  s.dev.ready || match b with
    | .port | .keeper => true
    | .acc => s.dev.recovery
    | .ledg => s.dev.recovery && decide (o < 4)
    | _ => false

/-- A well-formed BAR0 write. -/
def State.bar0Write (s : State) (p : Port) (off n : Nat) (v : W64) : State :=
  if !s.takesWrites (blockAt off).1 (blockAt off).2 then s.earlyWrite
  else if n = 8 then s.write8 p off v
  else s.write4 p off (v.setWidth 32)

/-- A well-formed BAR0 read. A read of TIME_NOW latches (R78). -/
def State.bar0Read (s : State) (p : Port) (off n : Nat) : State :=
  if off / 8 * 8 = 0x1_0000 then
    s.readTimeNow p (if n = 8 then .full else if off % 8 = 0 then .lower else .upper)
  else
    let w := s.word p (off / 8 * 8)
    s.send (.readDone p (BitVec.ofNat 64 (if n = 8 then w else if off % 8 = 0 then bits w 0 32 else bits w 32 32)))

/-! ## BAR2: the doorbell pages (R106, R162, Table 3-6) -/

/-- A well-formed 4 B write in a doorbell page. A write to DB_PUSHq of another size than 64 B fails R106. -/
def State.doorbellWrite (s : State) (p : Port) (g o : Nat) (v : W32) : State :=
  let q := o / 0x20
  let t : BitVec 16 := v.setWidth 16
  if o < 0x80 then
    if o % 0x20 = 0x00 then s.doorbell p g takesTail fun s => s.whenEnabled g q fun s => s.sqTail g q t
    else if o % 0x20 = 0x08 then s.doorbell p g takesHead fun s => s.whenEnabled g q fun s => s.cqHead g q t
    else if o % 0x20 = 0x10 then s.doorbell p g takesAbort fun s => s.whenEnabled g q fun s => s.dbAbort g q t
    else s
  else if o = 0x80 then s.doorbell p g takesAbort fun s => s.dbResume g v
  else if o = 0x88 then s.doorbell p g takesHead fun s => s.faultqHead g t
  else s

/-- An offset of a doorbell page lies in a DB_PUSHq. -/
def inPush (o : Nat) : Bool := decide (0x100 ≤ o) && decide (o < 0x200)

/-- A write to a DB_PUSHq: accepted as one aligned 64 B write. -/
def State.pushWrite (s : State) (p : Port) (g o : Nat) (data : List Byte) : State :=
  let q := (o - 0x100) / 0x40
  s.doorbell p g takesTail fun s => s.whenEnabled g q fun s => s.push g q (if o % 0x40 = 0 then data else [])

def State.bar2Write (s : State) (p : Port) (off n : Nat) (data : BitVec 512) : State :=
  let g := off / 0x1000
  let o := off % 0x1000
  if inPush o ∧ off < 0x400000 then s.pushWrite p g o (natLe n (data.toNat % 2 ^ (8 * min n 64)))
  else if !(decide (n = 4) && wellFormed 0x400000 off n) then s.badAccess p true
  else if !s.dev.ready then s.earlyDoorbell
  else s.doorbellWrite p g o (data.setWidth 32)

def State.bar2Read (s : State) (p : Port) (off n : Nat) : State :=
  if decide (n = 4) && wellFormed 0x400000 off n then
    s.send (.readDone p (BitVec.ofNat 64 (bits (s.doorbellWord (off / 0x1000) (off % 0x1000 / 8 * 8)) (if off % 8 = 0 then 0 else 32) 32)))
  else s.badAccess p false

/-! ## The row -/

/-- A host's read or write of a register window. -/
def State.access (s : State) (p : Port) (a : BusAccess) : State :=
  if s.pace.tripped then (if a.write then s else s.send (.completerAbort p))
  else
    match a.bar, a.write with
    | .bar0, true =>
      if wellFormed 0x8000000 a.off a.bytes then s.bar0Write p a.off a.bytes (a.data.setWidth 64) else s.badAccess p true
    | .bar0, false => if wellFormed 0x8000000 a.off a.bytes then s.bar0Read p a.off a.bytes else s.badAccess p false
    | .bar2, true => s.bar2Write p a.off a.bytes a.data
    | .bar2, false => s.bar2Read p a.off a.bytes

/-- REGISTER_WRITE (R14, R154 to R162). -/
def execRegisterWrite (p : Port) (a : BusAccess) (s : State) : Host.Outcome State Fault Refusal := .next (s.access p a)

end Sys2Proof.Machine
end

