-- ==== Sys2Proof/Machine/Mgmt.lean ====
section
/-! DEFINITION. The Curator's management: identity reads, MCTP control, PLDM, SPDM and DOE (R774, R812, R821 to R824), and
the test access port (R779 to R782). Codes and byte layouts that the spec leaves to the standards it names are PRESUMED from
those standards, or are the opaque bytes of `Config.mgmtBytes`. -/

namespace Sys2Proof.Machine

/-! ## When management answers (Table 20-13) -/

/-- The interface is the I3C target, in I3C or in SMBus mode. -/
def isTwoWire : MgmtIf → Bool | .i3c | .smbus => true | _ => false

/-- MCTP packets travel over the interface. -/
def carriesMctp : MgmtIf → Bool | .doe _ => false | _ => true

/-- A request on an interface: served from 400 ms on; before that, over I3C its address is not acknowledged until 20 ms and
its packets are dropped, over SMBus it is not acknowledged, and elsewhere `early` answers it. -/
def State.managed (s : State) (i : MgmtIf) (early f : State → State) : State :=
  if s.dev.resetLow then (if isTwoWire i then s.send (.notAcked i) else s)
  else if s.bootTime 400 then f s
  else
    match i with
    | .i3c => if s.bootTime 20 then s else s.send (.notAcked i)
    | .smbus => s.send (.notAcked i)
    | _ => early s

/-- The same for what MCTP carries: a DOE mailbox does not carry it. -/
def State.overMctp (s : State) (i : MgmtIf) (early f : State → State) : State := if carriesMctp i then s.managed i early f else s

/-! ## The I3C target (R774, R812) -/

/-- The identity block: 32 B. -/
def State.identityBlock (s : State) : List Byte :=
  let w := match s.acc.running, s.acc.image with
    | some _, some m => Config.identityAcc m.year m.nn m.svn
    | _, _ => Config.identityAcc 0 0 0
  natLe 8 s.devId ++ natLe 4 s.devGrade ++ natLe 4 s.devStatus ++ natLe 4 w.toNat ++ List.replicate 12 0

/-- IDENTITY_BLOCK_READ (R812): from 20 ms on. -/
def execIdentityBlockRead (smbus : Bool) (s : State) : Host.Outcome State Fault Refusal :=
  .next (
    let i : MgmtIf := if smbus then .smbus else .i3c
    if s.dev.resetLow || !s.bootTime 20 then s.send (.notAcked i) else s.send (.identity i s.identityBlock))

/-- DYNAMIC_ADDRESS_ASSIGNMENT (R774): from the static address, which is acknowledged from 20 ms on. -/
def execDynamicAddressAssignment (addr : BitVec 7) (s : State) : Host.Outcome State Fault Refusal :=
  .next (
    if s.dev.resetLow || !s.bootTime 20 then s.send (.notAcked .i3c)
    else { s with mgmt := { s.mgmt with dynAddr := some addr } })

/-! ## MCTP control (R821) -/

/-- A control command: dropped before 400 ms. -/
def State.control (s : State) (i : MgmtIf) (f : State → State) : State := s.overMctp i (fun s => s) f

/-- SET_ENDPOINT_ID. -/
def execSetEndpointId (i : MgmtIf) (eid : Byte) (s : State) : Host.Outcome State Fault Refusal :=
  .next (s.control i fun s => State.send { s with mgmt := { s.mgmt with eid := eid } } (.mctpResp i 0x01 [eid]))

/-- GET_ENDPOINT_ID. -/
def execGetEndpointId (i : MgmtIf) (s : State) : Host.Outcome State Fault Refusal :=
  .next (s.control i fun s => s.send (.mctpResp i 0x02 [s.mgmt.eid]))

/-- GET_MCTP_VERSION_SUPPORT. -/
def execGetMctpVersionSupport (i : MgmtIf) (s : State) : Host.Outcome State Fault Refusal :=
  .next (s.control i fun s => s.send (.mctpResp i 0x04 (Config.mgmtBytes 0x04 0)))

/-- GET_MESSAGE_TYPE_SUPPORT: control, PLDM and SPDM. -/
def execGetMessageTypeSupport (i : MgmtIf) (s : State) : Host.Outcome State Fault Refusal :=
  .next (s.control i fun s => s.send (.mctpResp i 0x05 [0x00, 0x01, 0x05]))

/-! ## PLDM (R822) -/

/-- A PLDM request: ERROR_NOT_READY before 400 ms. -/
def State.pldm (s : State) (i : MgmtIf) (type cmd : Nat) (f : State → State) : State :=
  s.overMctp i (fun s => s.send (.pldmResp i type cmd 0x04 [])) f

/-- A quotient by 16 whose rounding the spec does not give: a free choice between the two whole numbers about it. -/
def State.sixteenth (s : State) (v : Int) : State × Int :=
  if v % 16 = 0 then (s, v / 16)
  else
    let (t, w) := s.takeFree
    (t, v / 16 + b2n (w.getLsbD 0))

/-- A numeric sensor of Table 20-16. -/
def State.numericSensor (s : State) (id : Nat) : Option (State × Int) :=
  if id = 1 then some (s.sixteenth s.pace.tjMax.toInt)
  else if id = 2 then some (s, s.pace.mvNow)
  else if id = 3 then some (s.sixteenth (s.paceSummary % 65536))
  else if id = 4 then some (s.sixteenth (s.paceSummary / 65536))
  else if id = 5 then some (s, s.availGrates)
  else if 16 ≤ id ∧ id < 24 then some (s, (s.bay (id - 16)).wearPct)
  else none

/-- A state sensor of Table 20-16. -/
def State.stateSensor (s : State) (id : Nat) : Option Nat :=
  if id = 32 then some (bits s.devStatus 24 4)
  else if 40 ≤ id ∧ id < 48 then some (s.bay (id - 40)).st.code
  else none

/-- INVALID_SENSOR_ID. -/
def noSensor : Nat := 0x80

/-- A reading as 4 B in two's complement. -/
def reading (v : Int) : List Byte := natLe 4 (BitVec.ofInt 32 v).toNat

/-- GETPDR. -/
def execGetpdr (i : MgmtIf) (handle : BitVec 32) (s : State) : Host.Outcome State Fault Refusal :=
  .next (s.pldm i 2 0x51 fun s => s.send (.pldmResp i 2 0x51 0 (Config.mgmtBytes 0x51 handle.toNat)))

/-- GETSENSORREADING. -/
def execGetsensorreading (i : MgmtIf) (id : BitVec 16) (s : State) : Host.Outcome State Fault Refusal :=
  .next (s.pldm i 2 0x11 fun s =>
    match s.numericSensor id.toNat with
    | some (t, v) => t.send (.pldmResp i 2 0x11 0 (reading v))
    | none => s.send (.pldmResp i 2 0x11 noSensor []))

/-- GETSTATESENSORREADINGS. -/
def execGetstatesensorreadings (i : MgmtIf) (id : BitVec 16) (s : State) : Host.Outcome State Fault Refusal :=
  .next (s.pldm i 2 0x21 fun s =>
    match s.stateSensor id.toNat with
    | some v => s.send (.pldmResp i 2 0x21 0 [BitVec.ofNat 8 v])
    | none => s.send (.pldmResp i 2 0x21 noSensor []))

/-- A PLDM Type 0 request. -/
def State.pldmBase (s : State) (i : MgmtIf) (r : PldmBase) : State :=
  let answer (cmd : Nat) (bs : List Byte) (t : State) : State := t.send (.pldmResp i 0 cmd 0 bs)
  match r with
  | .setTid t => answer 0x01 [] { s with mgmt := { s.mgmt with tid := t } }
  | .getTid => answer 0x02 [s.mgmt.tid] s
  | .getVersion => answer 0x03 (Config.mgmtBytes 0x03 0) s
  | .getTypes => answer 0x04 [0x00, 0x02] s
  | .getCommands => answer 0x05 (Config.mgmtBytes 0x05 0) s

/-- The command code of a PLDM Type 0 request. -/
def pldmBaseCode : PldmBase → Nat | .setTid _ => 1 | .getTid => 2 | .getVersion => 3 | .getTypes => 4 | .getCommands => 5

/-- PLDM_BASE. -/
def execPldmBase (i : MgmtIf) (r : PldmBase) (s : State) : Host.Outcome State Fault Refusal :=
  .next (s.pldm i 0 (pldmBaseCode r) fun s => s.pldmBase i r)

/-! ## SPDM (R823, R824) -/

/-- ErrorCodes of an SPDM ERROR. -/
def spdmInvalid : Nat := 0x01
def spdmBusy : Nat := 0x03
def spdmUnexpected : Nat := 0x04
def spdmUnsupported : Nat := 0x07

/-- An SPDM request: ERROR with Busy before 400 ms. -/
def State.spdm (s : State) (i : MgmtIf) (f : State → State) : State :=
  s.managed i (fun s => s.send (.spdmError i spdmBusy)) f

/-- A request that needs the negotiation to have come so far (PRESUMED, SPDM 1.3): otherwise UnexpectedRequest. -/
def State.spdmAfter (s : State) (i : MgmtIf) (seen : List MgmtIf) (f : State → State) : State :=
  if seen.contains i then f s else s.send (.spdmError i spdmUnexpected)

/-- The interface is among those seen. -/
def seeIf (l : List MgmtIf) (i : MgmtIf) : List MgmtIf := if l.contains i then l else l ++ [i]

def dropIf (l : List MgmtIf) (i : MgmtIf) : List MgmtIf := l.filter fun j => decide (j ≠ i)

/-- GET_VERSION: version 1.3; the negotiation starts again. -/
def execGetVersion (i : MgmtIf) (s : State) : Host.Outcome State Fault Refusal :=
  .next (s.spdm i fun s =>
    State.send { s with mgmt := { s.mgmt with
      versionOn := seeIf s.mgmt.versionOn i, capsOn := dropIf s.mgmt.capsOn i, algsOn := dropIf s.mgmt.algsOn i } }
      (.spdmResp i 0x04 [0x13]))

/-- GET_CAPABILITIES. -/
def execGetCapabilities (i : MgmtIf) (s : State) : Host.Outcome State Fault Refusal :=
  .next (s.spdm i fun s => s.spdmAfter i s.mgmt.versionOn fun s =>
    State.send { s with mgmt := { s.mgmt with capsOn := seeIf s.mgmt.capsOn i } } (.spdmResp i 0x61 (Config.mgmtBytes 0x61 0)))

/-- NEGOTIATE_ALGORITHMS: `offered` is whether the request offers ECDSA P-384 and SHA-384. -/
def execNegotiateAlgorithms (i : MgmtIf) (offered : Bool) (s : State) : Host.Outcome State Fault Refusal :=
  .next (s.spdm i fun s => s.spdmAfter i s.mgmt.capsOn fun s =>
    if offered then
      State.send { s with mgmt := { s.mgmt with algsOn := seeIf s.mgmt.algsOn i } } (.spdmResp i 0x63 (Config.mgmtBytes 0x63 0))
    else s.send (.spdmError i spdmInvalid))

/-- GET_DIGESTS. -/
def execGetDigests (i : MgmtIf) (s : State) : Host.Outcome State Fault Refusal :=
  .next (s.spdm i fun s => s.spdmAfter i s.mgmt.algsOn fun s => s.send (.spdmResp i 0x01 (Config.mgmtBytes 0x01 0)))

/-- GET_CERTIFICATE: slot 0 holds the chain root, model CA, DeviceID, Alias; `len` bytes of it from `off` on. -/
def execGetCertificate (i : MgmtIf) (slot : BitVec 4) (off len : BitVec 16) (s : State) : Host.Outcome State Fault Refusal :=
  .next (s.spdm i fun s => s.spdmAfter i s.mgmt.algsOn fun s =>
    if slot = 0 then s.send (.spdmResp i 0x02 (((Config.mgmtBytes 0x02 0).drop off.toNat).take len.toNat))
    else s.send (.spdmError i spdmInvalid))

/-- SPDM_CHALLENGE: signed with the Alias key, whose signature of this nonce is opaque. -/
def execSpdmChallenge (i : MgmtIf) (slot : BitVec 4) (nonce : BitVec 256) (s : State) : Host.Outcome State Fault Refusal :=
  .next (s.spdm i fun s => s.spdmAfter i s.mgmt.algsOn fun s =>
    if slot = 0 then s.send (.spdmResp i 0x03 (Config.mgmtBytes 0x03 nonce.toNat)) else s.send (.spdmError i spdmInvalid))

/-- The measurement of an index (Table 20-17): digests for 1 and 2, and for the others the fields one after another,
each little-endian. -/
def State.measurement (s : State) (i : Nat) : List Byte :=
  let x := s.acc
  if i = 1 then Config.mgmtBytes 0x60 1
  else if i = 2 then (match x.image with | some m => m.hash | none => [])
  else if i = 3 then
    let (y, n, v) := match x.image with | some m => (m.year, m.nn, m.svn) | none => (0, 0, 0)
    let slot := match x.running with | some j => slotCode j | none => 0xFF
    natLe 2 y ++ natLe 1 n ++ natLe 2 v ++ natLe 1 slot ++ natLe 2 x.floor
  else if i = 4 then natLe 4 s.devGrade ++ natLe 8 (s.faultWord 0x58) ++ natLe 8 (s.faultWord 0x50)
  else if i = 5 then natLe 1 (b2n s.faults.sealed + b2n s.faults.frozen * 2)
  else
    let y := s.bay (i - 6)
    natLe 17 (y.unit.toNat + y.st.code * 2 ^ 64 + y.reason.ctorIdx * 2 ^ 67 + y.sealDev.toNat * 2 ^ 70)

/-- The measurements that an index asks for: one, or all of 1 to 13 for 0xFF; 0 asks how many there are. -/
def State.measured (s : State) (i : Nat) : Option (List (Nat × List Byte)) :=
  if i = 0 then some [(0, [13])]
  else if i = 0xFF then some ((List.range 13).map fun j => (j + 1, s.measurement (j + 1)))
  else if i ≤ 13 then some [(i, s.measurement i)]
  else none

/-- GET_MEASUREMENTS. -/
def execGetMeasurements (i : MgmtIf) (index : Byte) (s : State) : Host.Outcome State Fault Refusal :=
  .next (s.spdm i fun s => s.spdmAfter i s.mgmt.algsOn fun s =>
    match s.measured index.toNat with
    | some ms => s.send (.spdmMeasurements i ms)
    | none => s.send (.spdmError i spdmInvalid))

/-- KEY_EXCHANGE and PSK_EXCHANGE: UnsupportedRequest. -/
def execKeyExchange (i : MgmtIf) (_psk : Bool) (s : State) : Host.Outcome State Fault Refusal :=
  .next (s.spdm i fun s => s.send (.spdmError i spdmUnsupported))

/-! ## The DOE mailbox (R147) -/

/-- A data object in a host port's mailbox: DOE Busy is set before 400 ms. -/
def State.doe (s : State) (p : Port) (f : State → State) : State := s.managed (.doe p) (fun s => s.send (.doeBusy p)) f

/-- One protocol of the mailbox: vendor, type and the next index (PRESUMED, PCIe and CXL): DOE Discovery, CMA/SPDM and CXL
Table Access. -/
def doeProtocol (i : Nat) : List Byte :=
  match i with
  | 0 => [0x01, 0x00, 0x00, 0x01]
  | 1 => [0x01, 0x00, 0x01, 0x02]
  | 2 => [0x98, 0x1E, 0x02, 0x00]
  | _ => [0xFF, 0xFF, 0x00, 0x00]

/-- DOE_DISCOVERY. -/
def execDoeDiscovery (p : Port) (index : Byte) (s : State) : Host.Outcome State Fault Refusal :=
  .next (s.doe p fun s => s.send (.doeResp p (doeProtocol index.toNat)))

/-- CXL_TABLE_ACCESS: an entry of the CDAT. -/
def execCxlTableAccess (p : Port) (entry : BitVec 16) (s : State) : Host.Outcome State Fault Refusal :=
  .next (s.doe p fun s => s.send (.doeResp p (Config.mgmtBytes 0xCD entry.toNat)))

/-! ## The test access port (R779 to R782) -/

/-- The boundary register is scanned: what it captured from the pins is shifted out, and what was shifted in stays. -/
def TapState.scan (t : TapState) (ir : Tap) (shift : List Bool) : TapState :=
  { t with ir := ir, boundary := shift }

/-- A test that drives pins: a device cold reset is owed (R782). -/
def State.extest (s : State) (ir : Tap) (pins shift : List Bool) : State :=
  State.send { s with tap := { s.tap.scan ir shift with driven := true, highZ := false, owed := true } } (.tdo pins)

/-- EXTEST. -/
def execExtest (pins shift : List Bool) (s : State) : Host.Outcome State Fault Refusal := .next (s.extest .extest pins shift)

/-- EXTEST_PULSE. -/
def execExtestPulse (pins shift : List Bool) (s : State) : Host.Outcome State Fault Refusal :=
  .next (s.extest .extestPulse pins shift)

/-- EXTEST_TRAIN. -/
def execExtestTrain (pins shift : List Bool) (s : State) : Host.Outcome State Fault Refusal :=
  .next (s.extest .extestTrain pins shift)

/-- SAMPLE_PRELOAD: the pins are not driven. -/
def execSamplePreload (pins shift : List Bool) (s : State) : Host.Outcome State Fault Refusal :=
  .next (State.send { s with tap := { s.tap.scan .sample shift with driven := false, highZ := false } } (.tdo pins))

/-- The IDCODE register (R780): version, part, manufacturer and 1, bit 0 first. -/
def idcode : BitVec 32 := 0x20048A5B

/-- IDCODE. -/
def execIdcode (s : State) : Host.Outcome State Fault Refusal :=
  .next (State.send { s with tap := { s.tap with ir := .idcode, driven := false, highZ := false } }
    (.tdo ((List.range 32).map fun i => idcode.getLsbD i)))

/-- The bypass register: it captures 0, and delays what is shifted in by one bit. -/
def TapState.bypass (t : TapState) (shift : List Bool) : TapState := { t with bypassBit := shift.getLast?.getD false }
def bypassOut (shift : List Bool) : List Bool := (false :: shift).take shift.length

/-- CLAMP: the outputs stay at the boundary register's values, with the bypass register selected. -/
def execClamp (shift : List Bool) (s : State) : Host.Outcome State Fault Refusal :=
  .next (State.send { s with tap := { s.tap.bypass shift with ir := .clamp, driven := true, highZ := false, owed := true } }
    (.tdo (bypassOut shift)))

/-- HIGHZ: the outputs are in high impedance, with the bypass register selected. -/
def execHighz (shift : List Bool) (s : State) : Host.Outcome State Fault Refusal :=
  .next (State.send { s with tap := { s.tap.bypass shift with ir := .highz, driven := false, highZ := true, owed := true } }
    (.tdo (bypassOut shift)))

/-- BYPASS, and every opcode that Table 19-8 does not list. -/
def execBypass (shift : List Bool) (s : State) : Host.Outcome State Fault Refusal :=
  .next (State.send { s with tap := { s.tap.bypass shift with ir := .bypass, driven := false, highZ := false } }
    (.tdo (bypassOut shift)))

/-- TRST_N (R781): the test logic is reset, and IDCODE is selected (PRESUMED, IEEE 1149.1). The cold reset that R782 asks
for stays owed. -/
def execTrstN (s : State) : Host.Outcome State Fault Refusal :=
  .next { s with tap := { s.tap with ir := .idcode, driven := false, highZ := false } }

end Sys2Proof.Machine
end

