-- ==== Sys2Proof/Machine/Dispatch.lean ====
section
/-! DEFINITION. What each command does: one arm per row of the table. -/

namespace Sys2Proof.Machine

/-- A command's effect on everything but the queue. -/
def exec (i : Instr) (s : State) : Host.Outcome State Fault Refusal :=
  match i with
  | .registerWrite p a => Sys2Proof.Machine.execRegisterWrite p a s
  | .configRequest p r => Sys2Proof.Machine.execConfigRequest p r s
  | .timeNowRead p part => Sys2Proof.Machine.execTimeNowRead p part s
  | .timeSet p v => Sys2Proof.Machine.execTimeSet p v s
  | .ppsEdge => Sys2Proof.Machine.execPpsEdge s
  | .holdoverEntry => Sys2Proof.Machine.execHoldoverEntry s
  | .refTimeRelock err => Sys2Proof.Machine.execRefTimeRelock err s
  | .paceWindowEnd counts => Sys2Proof.Machine.execPaceWindowEnd counts s
  | .paceVreq p v => Sys2Proof.Machine.execPaceVreq p v s
  | .avsStatusPoll vdone mv => Sys2Proof.Machine.execAvsStatusPoll vdone mv s
  | .avsFrameFail status => Sys2Proof.Machine.execAvsFrameFail status s
  | .thermalSample readings => Sys2Proof.Machine.execThermalSample readings s
  | .pacePark p mask => Sys2Proof.Machine.execPacePark p mask s
  | .hearthPark h => Sys2Proof.Machine.execHearthPark h s
  | .hearthWake h => Sys2Proof.Machine.execHearthWake h s
  | .galCreate p g => Sys2Proof.Machine.execCreate p g s
  | .galOpen p g => Sys2Proof.Machine.execOpen p g s
  | .quiesce p g => Sys2Proof.Machine.execQuiesce p g s
  | .quiesceDrained g => Sys2Proof.Machine.execQuiesceDrained g s
  | .galReset p g scrub scrubKey => Sys2Proof.Machine.execGalReset p g scrub scrubKey s
  | .release p g scrub scrubKey => Sys2Proof.Machine.execRelease p g scrub scrubKey s
  | .galResetDone g => Sys2Proof.Machine.execGalResetDone g s
  | .galConfigWrite p g r v => Sys2Proof.Machine.execGalConfigWrite p g r v s
  | .galKindleDeadline p g v => Sys2Proof.Machine.execGalKindleDeadline p g v s
  | .dbSqTail p g q t => Sys2Proof.Machine.execDbSqTail p g q t s
  | .dbPush p g q data => Sys2Proof.Machine.execDbPush p g q data s
  | .dbCqHead p g q h => Sys2Proof.Machine.execDbCqHead p g q h s
  | .dbAbort p g q t => Sys2Proof.Machine.execDbAbort p g q t s
  | .dbResume p g seq => Sys2Proof.Machine.execDbResume p g seq s
  | .dbFaultqHead p g h => Sys2Proof.Machine.execDbFaultqHead p g h s
  | .entryStage g q ans v => Sys2Proof.Machine.execEntryStage g q ans v s
  | .entryFetch => Sys2Proof.Machine.execEntryFetch s
  | .runDispatch wo => Sys2Proof.Machine.execRunDispatch wo s
  | .stoveLoadDispatch wo => Sys2Proof.Machine.execStoveLoadDispatch wo s
  | .placeDispatch wo => Sys2Proof.Machine.execPlaceDispatch wo s
  | .qfenceRetire wo => Sys2Proof.Machine.execQfenceRetire wo s
  | .retire wo => Sys2Proof.Machine.execRetire wo s
  | .completionRecord wo => Sys2Proof.Machine.execCompletionRecord wo s
  | .msixPendingSend p => Sys2Proof.Machine.execMsixPendingSend p s
  | .stokerFree h k => Sys2Proof.Machine.execStokerFree h k s
  | .stokerWake h k => Sys2Proof.Machine.execStokerWake h k s
  | .faultCommit wo code hearth stoker pc => Sys2Proof.Machine.execFaultCommit wo code hearth stoker pc s
  | .perst p => Sys2Proof.Machine.execPerst p s
  | .hotReset p => Sys2Proof.Machine.execHotReset p s
  | .linkDisable p => Sys2Proof.Machine.execLinkDisable p s
  | .functionLevelReset p => Sys2Proof.Machine.execFunctionLevelReset p s
  | .d3hot p => Sys2Proof.Machine.execD3hot p s
  | .portResetEnd p t => Sys2Proof.Machine.execPortResetEnd p t s
  | .dllDown p => Sys2Proof.Machine.execDllDown p s
  | .dllUp p width speed => Sys2Proof.Machine.execDllUp p width speed s
  | .portResetGraceExpiry g => Sys2Proof.Machine.execPortResetGraceExpiry g s
  | .hostCompletionTimeout id => Sys2Proof.Machine.execHostCompletionTimeout id s
  | .keeperTake p n token lease => Sys2Proof.Machine.execKeeperTake p n token lease s
  | .keeperGive p n token => Sys2Proof.Machine.execKeeperGive p n token s
  | .keeperLeaseExpiry n => Sys2Proof.Machine.execKeeperLeaseExpiry n s
  | .portAdopt p g => Sys2Proof.Machine.execPortAdopt p g s
  | .ledgCfg p v => Sys2Proof.Machine.execLedgCfg p v s
  | .m2sRequest p r v => Sys2Proof.Machine.execM2sRequest p r v s
  | .bar4Access p write off data be vs => Sys2Proof.Machine.execBar4Access p write off data be vs s
  | .birsp p l st => Sys2Proof.Machine.execBirsp p l st s
  | .memclnevct p l => Sys2Proof.Machine.execMemclnevct p l s
  | .dirtyWriteBack p l data => Sys2Proof.Machine.execDirtyWriteBack p l data s
  | .biconflict p l => Sys2Proof.Machine.execBiconflict p l s
  | .snoopTimeout l => Sys2Proof.Machine.execSnoopTimeout l s
  | .catWrite p g seg => Sys2Proof.Machine.execCatWrite p g seg s
  | .invalidate p g seg => Sys2Proof.Machine.execInvalidate p g seg s
  | .catRead p g seg => Sys2Proof.Machine.execCatRead p g seg s
  | .presFill p g seg => Sys2Proof.Machine.execPresFill p g seg s
  | .presEmpty p g seg => Sys2Proof.Machine.execPresEmpty p g seg s
  | .catPresSet p g v => Sys2Proof.Machine.execCatPresSet p g v s
  | .catPresClr p g v => Sys2Proof.Machine.execCatPresClr p g v s
  | .catPool p g v => Sys2Proof.Machine.execCatPool p g v s
  | .catDrainDone g => Sys2Proof.Machine.execCatDrainDone g s
  | .pieceSend u => Sys2Proof.Machine.execPieceSend u s
  | .pieceComplete id ret => Sys2Proof.Machine.execPieceComplete id ret s
  | .hrtPsMap p h j v => Sys2Proof.Machine.execHrtPsMap p h j v s
  | .fenceReq p h => Sys2Proof.Machine.execFenceReq p h s
  | .hrtPostRoute p h stove => Sys2Proof.Machine.execHrtPostRoute p h stove s
  | .hrtReset p h => Sys2Proof.Machine.execHrtReset p h s
  | .nop h k => Sys2Proof.Machine.execNop h k s
  | .jmp h k => Sys2Proof.Machine.execJmp h k s
  | .br h k => Sys2Proof.Machine.execBr h k s
  | .call h k => Sys2Proof.Machine.execCall h k s
  | .ret h k => Sys2Proof.Machine.execRet h k s
  | .loop h k => Sys2Proof.Machine.execLoop h k s
  | .halt h k => Sys2Proof.Machine.execHalt h k s
  | .trap h k => Sys2Proof.Machine.execTrap h k s
  | .yield h k => Sys2Proof.Machine.execYield h k s
  | .add h k => Sys2Proof.Machine.execAdd h k s
  | .sub h k => Sys2Proof.Machine.execSub h k s
  | .mul h k => Sys2Proof.Machine.execMul h k s
  | .and h k => Sys2Proof.Machine.execAnd h k s
  | .or h k => Sys2Proof.Machine.execOr h k s
  | .xor h k => Sys2Proof.Machine.execXor h k s
  | .shl h k => Sys2Proof.Machine.execShl h k s
  | .shr h k => Sys2Proof.Machine.execShr h k s
  | .sra h k => Sys2Proof.Machine.execSra h k s
  | .min h k => Sys2Proof.Machine.execMin h k s
  | .max h k => Sys2Proof.Machine.execMax h k s
  | .cmpCc h k => Sys2Proof.Machine.execCmpCc h k s
  | .sel h k => Sys2Proof.Machine.execSel h k s
  | .movi h k => Sys2Proof.Machine.execMovi h k s
  | .movhi h k => Sys2Proof.Machine.execMovhi h k s
  | .moviX h k => Sys2Proof.Machine.execMoviX h k s
  | .movhiX h k => Sys2Proof.Machine.execMovhiX h k s
  | .ld h k => Sys2Proof.Machine.execLd h k s
  | .st h k => Sys2Proof.Machine.execSt h k s
  | .ldarg h k => Sys2Proof.Machine.execLdarg h k s
  | .fenceAcq h k => Sys2Proof.Machine.execFenceAcq h k s
  | .fenceRel h k => Sys2Proof.Machine.execFenceRel h k s
  | .fenceFull h k => Sys2Proof.Machine.execFenceFull h k s
  | .flagSet h k => Sys2Proof.Machine.execFlagSet h k s
  | .flagAdd h k => Sys2Proof.Machine.execFlagAdd h k s
  | .flagWaitCc h k => Sys2Proof.Machine.execFlagWaitCc h k s
  | .flagReread h k => Sys2Proof.Machine.execFlagReread h k s
  | .damper h k => Sys2Proof.Machine.execDamper h k s
  | .damperRoundEnd wo => Sys2Proof.Machine.execDamperRoundEnd wo s
  | .timeRd h k => Sys2Proof.Machine.execTimeRd h k s
  | .paceRd h k => Sys2Proof.Machine.execPaceRd h k s
  | .strOpen h k => Sys2Proof.Machine.execStrOpen h k s
  | .strOpenL h k => Sys2Proof.Machine.execStrOpenL h k s
  | .strOpenTags h => Sys2Proof.Machine.execStrOpenTags h s
  | .strPull h k => Sys2Proof.Machine.execStrPull h k s
  | .strPush h k => Sys2Proof.Machine.execStrPush h k s
  | .strWait h k => Sys2Proof.Machine.execStrWait h k s
  | .strPos h k => Sys2Proof.Machine.execStrPos h k s
  | .strClose h k => Sys2Proof.Machine.execStrClose h k s
  | .streamHalt h k d => Sys2Proof.Machine.execStreamHalt h k d s
  | .grtLoadb h k => Sys2Proof.Machine.execGrtLoadb h k s
  | .grtMm h k => Sys2Proof.Machine.execGrtMm h k s
  | .grtMmX h k => Sys2Proof.Machine.execGrtMmX h k s
  | .grtZero h k => Sys2Proof.Machine.execGrtZero h k s
  | .grtZeroC h k => Sys2Proof.Machine.execGrtZeroC h k s
  | .positionClaimGrant h => Sys2Proof.Machine.execPositionClaimGrant h s
  | .claimRelease h k => Sys2Proof.Machine.execClaimRelease h k s
  | .kindlingDeadline h chain => Sys2Proof.Machine.execKindlingDeadline h chain s
  | .chainStart h chain => Sys2Proof.Machine.execChainStart h chain s
  | .tileBroadcast h chain v f row => Sys2Proof.Machine.execTileBroadcast h chain v f row s
  | .chainCommit h chain => Sys2Proof.Machine.execChainCommit h chain s
  | .fluSt h k => Sys2Proof.Machine.execFluSt h k s
  | .fluStL h k => Sys2Proof.Machine.execFluStL h k s
  | .flueDrain h op check => Sys2Proof.Machine.execFlueDrain h op check s
  | .fluSte h k => Sys2Proof.Machine.execFluSte h k s
  | .sprEmb h k => Sys2Proof.Machine.execSprEmb h k s
  | .sprEmbC h k => Sys2Proof.Machine.execSprEmbC h k s
  | .sprMerge h k => Sys2Proof.Machine.execSprMerge h k s
  | .sprDroprd h k => Sys2Proof.Machine.execSprDroprd h k s
  | .cabCall h k => Sys2Proof.Machine.execCabCall h k s
  | .cabWait h k => Sys2Proof.Machine.execCabWait h k s
  | .engineCallStart q e => Sys2Proof.Machine.execEngineCallStart q e s
  | .engineCallComplete q e ok => Sys2Proof.Machine.execEngineCallComplete q e ok s
  | .stvLoad h k => Sys2Proof.Machine.execStvLoad h k s
  | .stvRun h k => Sys2Proof.Machine.execStvRun h k s
  | .stvWait h k => Sys2Proof.Machine.execStvWait h k s
  | .patternLoad h => Sys2Proof.Machine.execPatternLoad h s
  | .stoveCallStart h => Sys2Proof.Machine.execStoveCallStart h s
  | .stoveCallComplete h ok => Sys2Proof.Machine.execStoveCallComplete h ok s
  | .rdData b h tag data => Sys2Proof.Machine.execRdData b h tag data s
  | .wrAck b h tag => Sys2Proof.Machine.execWrAck b h tag s
  | .err b h tag e => Sys2Proof.Machine.execErr b h tag e s
  | .mgRsp b h op r => Sys2Proof.Machine.execMgRsp b h op r s
  | .folioLinkDown b => Sys2Proof.Machine.execFolioLinkDown b s
  | .bayTimeout b tag => Sys2Proof.Machine.execBayTimeout b tag s
  | .bayPresenceHeld b => Sys2Proof.Machine.execBayPresenceHeld b s
  | .bayPresenceLost b => Sys2Proof.Machine.execBayPresenceLost b s
  | .folChalNonce b nonce => Sys2Proof.Machine.execFolChalNonce b nonce s
  | .adopt p b => Sys2Proof.Machine.execAdopt p b s
  | .eject p b => Sys2Proof.Machine.execEject p b s
  | .folRetire p b => Sys2Proof.Machine.execFolRetire p b s
  | .folExport p b targetOk => Sys2Proof.Machine.execFolExport p b targetOk s
  | .accept p b => Sys2Proof.Machine.execAccept p b s
  | .folCommit p b => Sys2Proof.Machine.execFolCommit p b s
  | .ledgerCommitTimer => Sys2Proof.Machine.execLedgerCommitTimer s
  | .scrubStatus => Sys2Proof.Machine.execScrubStatus s
  | .folReset p b => Sys2Proof.Machine.execFolReset p b s
  | .pwrWarnNFall => Sys2Proof.Machine.execPwrWarnNFall s
  | .pwrWarnNRelease => Sys2Proof.Machine.execPwrWarnNRelease s
  | .idle p h => Sys2Proof.Machine.execIdle p h s
  | .putData p h va data last => Sys2Proof.Machine.execPutData p h va data last s
  | .getReq p h va len => Sys2Proof.Machine.execGetReq p h va len s
  | .getData p h data => Sys2Proof.Machine.execGetData p h data s
  | .xack p h a => Sys2Proof.Machine.execXack p h a s
  | .signal p h va addend => Sys2Proof.Machine.execSignal p h va addend s
  | .coll p h id ps first elems last => Sys2Proof.Machine.execColl p h id ps first elems last s
  | .bringup p h b => Sys2Proof.Machine.execBringup p h b s
  | .timesync p h t => Sys2Proof.Machine.execTimesync p h t s
  | .mgmt p h payload => Sys2Proof.Machine.execMgmt p h payload s
  | .leave p h id => Sys2Proof.Machine.execLeave p h id s
  | .fenlinePortDown p => Sys2Proof.Machine.execFenlinePortDown p s
  | .fenlineTrained p => Sys2Proof.Machine.execFenlineTrained p s
  | .timesyncTimer => Sys2Proof.Machine.execTimesyncTimer s
  | .epochAnnounceTimer => Sys2Proof.Machine.execEpochAnnounceTimer s
  | .fenCfgEpoch p v => Sys2Proof.Machine.execFenCfgEpoch p v s
  | .fenGal p g v => Sys2Proof.Machine.execFenGal p g v s
  | .fenCtrlReset p q => Sys2Proof.Machine.execFenCtrlReset p q s
  | .fenCtrlDisable p q on => Sys2Proof.Machine.execFenCtrlDisable p q on s
  | .ringEntryTake g => Sys2Proof.Machine.execRingEntryTake g s
  | .ringEntryComplete g ii => Sys2Proof.Machine.execRingEntryComplete g ii s
  | .fenceGrate p arg => Sys2Proof.Machine.execFenceGrate p arg s
  | .fenceEngine p arg => Sys2Proof.Machine.execFenceEngine p arg s
  | .fenceStove p arg => Sys2Proof.Machine.execFenceStove p arg s
  | .forget p arg => Sys2Proof.Machine.execForget p arg s
  | .returnSeal p => Sys2Proof.Machine.execReturnSeal p s
  | .faultSealArm p v => Sys2Proof.Machine.execFaultSealArm p v s
  | .faultTail v => Sys2Proof.Machine.execFaultTail v s
  | .faultBookAppend => Sys2Proof.Machine.execFaultBookAppend s
  | .conservatorUnlock signed => Sys2Proof.Machine.execConservatorUnlock signed s
  | .install p => Sys2Proof.Machine.execInstall p s
  | .activate p ii => Sys2Proof.Machine.execActivate p ii s
  | .confirm p => Sys2Proof.Machine.execConfirm p s
  | .reboot p => Sys2Proof.Machine.execReboot p s
  | .resetNLow => Sys2Proof.Machine.execResetNLow s
  | .resetNRise => Sys2Proof.Machine.execResetNRise s
  | .bayEnumerationSlot b => Sys2Proof.Machine.execBayEnumerationSlot b s
  | .watchdogExpiry => Sys2Proof.Machine.execWatchdogExpiry s
  | .serdesRefclkLoss => Sys2Proof.Machine.execSerdesRefclkLoss s
  | .powerLoss => Sys2Proof.Machine.execPowerLoss s
  | .identityBlockRead smbus => Sys2Proof.Machine.execIdentityBlockRead smbus s
  | .setEndpointId ii eid => Sys2Proof.Machine.execSetEndpointId ii eid s
  | .getEndpointId ii => Sys2Proof.Machine.execGetEndpointId ii s
  | .getMctpVersionSupport ii => Sys2Proof.Machine.execGetMctpVersionSupport ii s
  | .getMessageTypeSupport ii => Sys2Proof.Machine.execGetMessageTypeSupport ii s
  | .getpdr ii handle => Sys2Proof.Machine.execGetpdr ii handle s
  | .getsensorreading ii id => Sys2Proof.Machine.execGetsensorreading ii id s
  | .getstatesensorreadings ii id => Sys2Proof.Machine.execGetstatesensorreadings ii id s
  | .getVersion ii => Sys2Proof.Machine.execGetVersion ii s
  | .getCapabilities ii => Sys2Proof.Machine.execGetCapabilities ii s
  | .negotiateAlgorithms ii offered => Sys2Proof.Machine.execNegotiateAlgorithms ii offered s
  | .getDigests ii => Sys2Proof.Machine.execGetDigests ii s
  | .getCertificate ii slot off len => Sys2Proof.Machine.execGetCertificate ii slot off len s
  | .spdmChallenge ii slot nonce => Sys2Proof.Machine.execSpdmChallenge ii slot nonce s
  | .getMeasurements ii index => Sys2Proof.Machine.execGetMeasurements ii index s
  | .keyExchange ii psk => Sys2Proof.Machine.execKeyExchange ii psk s
  | .extest pins shift => Sys2Proof.Machine.execExtest pins shift s
  | .idcode => Sys2Proof.Machine.execIdcode s
  | .samplePreload pins shift => Sys2Proof.Machine.execSamplePreload pins shift s
  | .extestPulse pins shift => Sys2Proof.Machine.execExtestPulse pins shift s
  | .extestTrain pins shift => Sys2Proof.Machine.execExtestTrain pins shift s
  | .clamp shift => Sys2Proof.Machine.execClamp shift s
  | .highz shift => Sys2Proof.Machine.execHighz shift s
  | .bypass shift => Sys2Proof.Machine.execBypass shift s
  | .bayLinkTrained b => Sys2Proof.Machine.execBayLinkTrained b s
  | .powerUpPhase bad => Sys2Proof.Machine.execPowerUpPhase bad s
  | .bootFlashOperationEnd ok sigOk => Sys2Proof.Machine.execBootFlashOperationEnd ok sigOk s
  | .baySupplyOff b => Sys2Proof.Machine.execBaySupplyOff b s
  | .illegal h k => Sys2Proof.Machine.execIllegal h k s
  | .doeDiscovery p index => Sys2Proof.Machine.execDoeDiscovery p index s
  | .cxlTableAccess p entry => Sys2Proof.Machine.execCxlTableAccess p entry s
  | .pldmBase ii r => Sys2Proof.Machine.execPldmBase ii r s
  | .dynamicAddressAssignment addr => Sys2Proof.Machine.execDynamicAddressAssignment addr s
  | .trstN => Sys2Proof.Machine.execTrstN s

end Sys2Proof.Machine
end

