-- ==== Sys2Proof/Safety.lean ====
section
/-! DEFINITION. What claims about the M48 are stated in: completion of a command, the configuration that every step keeps
within its legal range, and what a host can see of a gallery. -/

namespace Sys2Proof.Safety

open Sys2Proof.Machine

/-- A command's outcome is a next state. -/
def Completes (i : Instr) (s : State) : Prop := ∃ t, exec i s = .next t

/-- The device takes host writes: it is READY and no thermal trip has stopped it (R784, R812). -/
structure Serving (s : State) : Prop where
  live : s.pace.tripped = false
  ready : s.dev.ready = true

/-- TIME_EPOCH is non-zero (R79, R81). -/
def EpochOk (s : State) : Prop := s.tb.epoch ≠ 0

/-- Keeper slots 5 to 15 are reserved and held by nobody (Table 4-9). -/
def ReservedFree (s : State) : Prop := ∀ n, 5 ≤ n → n ≤ 15 → (s.slot n).holder = none

/-- The map of the Keeper slots is in canonical form. -/
def SlotsOk (s : State) : Prop := mwf {} s.keeper.slots = true

/-- PACE_VREQ.MV lies in 550 to 950 mV (Table 2-9). -/
def VoltageOk (s : State) : Prop := 550 ≤ s.pace.mv ∧ s.pace.mv ≤ 950

/-- LEDG_CFG: EXCH_MIB is at most 64 and SNP_TIMEOUT 100 to 65,535 (Table 4-14). -/
def LedgerOk (s : State) : Prop := s.ledger.exchMib ≤ 64 ∧ 100 ≤ s.ledger.snpTimeout ∧ s.ledger.snpTimeout ≤ 65535

/-- The image in force has policies in the ranges that check 1 of Table 20-7 asks for. -/
def ImageOk (s : State) : Prop := ∀ m, s.acc.image = some m → policiesInRange m = true

/-- The configuration invariant of the device. -/
structure Inv (s : State) : Prop where
  epoch : EpochOk s
  reserved : ReservedFree s
  slots : SlotsOk s
  voltage : VoltageOk s
  ledger : LedgerOk s
  image : ImageOk s

/-! ## Canonical maps -/

/-- The maps of a Hearth are in canonical form: Stokers, Hob, Program Store, each Stoker's register files and handles, Firebox
slots and their accumulators, and the kinds and latches planned at issue. -/
structure HearthCanon (x : Hearth) : Prop where
  stokers : mwf {} x.stokers = true
  hob : mwf 0 x.hob = true
  store : mwf 0 x.ps = true
  regs : ∀ k, mwf 0 (x.stoker k).s = true
  lens : ∀ k, mwf 0 (x.stoker k).lens = true
  handles : ∀ k, mwf none (x.stoker k).handles = true
  slots : mwf {} x.slots = true
  accumulators : ∀ i, mwf 0 (mget {} x.slots i).vals = true
  planned : mwf .zero x.planned = true
  latchPlan : mwf none x.latchPlan = true

/-- The maps and memories of the device are in canonical form, so that equal contents are equal data. -/
structure Canon (s : State) : Prop where
  shared : mwf 0 s.shared = true
  gals : mwf {} s.gals = true
  queues : ∀ g, mwf {} (s.gal g).queues = true
  lines : mwf {} s.ledger.lines = true
  slots : mwf {} s.keeper.slots = true
  bays : mwf {} s.bays = true
  cabinets : mwf {} s.cabinets = true
  fenPorts : mwf {} s.fen.ports = true
  fenGals : mwf {} s.fen.gals = true
  pace : mwf {} s.pace.hearth = true
  pba : ∀ p, mwf false (s.port p).pba = true
  hearths : mwf {} s.hearths = true
  hearth : ∀ h, HearthCanon (s.hearth h)

/-- The flit waits at a Fenline port, or has left it and is not acknowledged yet. -/
def Underway (x : FenPort) (f : FlitOut) : Prop := f ∈ x.waiting ∨ ∃ n r, (n, f, r) ∈ x.unacked

/-! ## The issue of a Zhema instruction -/

/-- Stoker `k` of Hearth `h` issues the instruction word `w`, with EXT `e`: the device runs, the Hearth is not fenced, the
Stoker is READY and yields to nobody, its PC lies in the program, the guard holds, and no register of `uses` waits (R293,
R294, R305, R306, R828). -/
structure Issues (s : State) (h k w e : Nat) (uses : List Dst) : Prop where
  live : s.pace.tripped = false
  free : (s.hearth h).canIssue k = true
  inside : (s.stoker h k).inProgram (s.stoker h k).pc = true
  word : (s.hearth h).word (s.stoker h k).pc = w
  ext : zExt ((s.hearth h).word ((s.stoker h k).pc + 8)) = e
  second : 32 ≤ zOp w →
    (s.stoker h k).inProgram ((s.stoker h k).pc + 8) = true ∧ zClass ((s.hearth h).word ((s.stoker h k).pc + 8)) = 0x3F
  guard : (s.stoker h k).preg (zPred w) ≠ zPneg w
  ready : ∀ d ∈ pDst (zPred w) :: uses, d ∉ (s.stoker h k).pend

/-- The Stoker past an instruction of `n` words. -/
def past (x : Stoker) (n : Nat) : Stoker := { x with pc := x.pc + 8 * n, seq := x.seq + 1, yieldFor := [] }

/-- What an instruction of Stoker `k` of Hearth `h` does and all that it does: beside the Hearths and work orders the device
is as in `u`; Hearth `h` is `z` but for its Stokers; the Stoker is `y`; the other Stokers of the Hearth no longer yield
to it; and when it has retired (`done`) its work order's PROGRESS counts one more. -/
structure Ran (s : State) (h k : Nat) (u : State) (z : Hearth) (y : Stoker) (done : Bool) (t : State) : Prop where
  device : t = { u with hearths := t.hearths, wos := t.wos }
  orders : t.wos = if done then u.wos.map fun w => if w.id = (s.stoker h k).wo then { w with progress := w.progress + 1 } else w
    else u.wos
  elsewhere : ∀ j, j ≠ h → t.hearth j = s.hearth j
  hearth : t.hearth h = { z with stokers := (t.hearth h).stokers }
  others : ∀ j, j ≠ k → t.stoker h j = { s.stoker h j with yieldFor := (s.stoker h j).yieldFor.filter fun i => decide (i ≠ k) }
  self : t.stoker h k = y

/-- Command `c` answers such a next state. -/
def Does (c : Instr) (s : State) (h k : Nat) (u : State) (z : Hearth) (y : Stoker) (done : Bool) : Prop :=
  ∃ t, exec c s = .next t ∧ Ran s h k u z y done t

/-- A form that uses neither DST nor DSPACE leaves both zero (R307). -/
def NoDst (w : Nat) : Prop := zDst w = 0 ∧ zSpace w = 0

/-- A form that writes a register names one of its file (R307). -/
def ToReg (w : Nat) : Prop := zSpace w ≠ 3 ∧ zDstInFile w = true

/-- CLASS, OP, SRCA, SRCB, SUB and IMM24 of a word. -/
def Fields (w cls op a b sub imm : Nat) : Prop :=
  zClass w = cls ∧ zOp w = op ∧ zA w = a ∧ zB w = b ∧ zSub w = sub ∧ zImm w = imm

/-- s[SRCA] + IMM24, modulo 2^64. -/
def addressOf (x : Stoker) (w : Nat) : Nat := (x.sreg (zA w) + BitVec.ofInt 64 (signed 24 (zImm w))).toNat

/-- One more access of Stoker `k` of Hearth `h`, of the instruction at its PC, to `todo` from address `va` on. -/
def withAccess (s : State) (h k : Nat) (agent : Agent) (kind : AccKind) (va : Nat) (todo : List Run) : State :=
  { s with
    nextAcc := s.nextAcc + 1
    accs := s.accs ++ [{ id := s.nextAcc, gal := (s.stoker h k).gal, wo := some (s.stoker h k).wo, hearth := h, stoker := k
                         pc := (s.stoker h k).pc, seq := (s.stoker h k).seq, agent := agent, kind := kind, todo := todo, base := va }] }

end Sys2Proof.Safety
end

