-- ==== Sys2Proof/Certificates/Slice0/Obligations.lean ====
section
/-! DEFINITION. What is claimed of the M48: statements for the provers, from the numbered rules of the manual. -/

open Sys2Proof Sys2Proof.Machine Sys2Proof.Safety

/-! ## The machine -/

/-- A step runs the command at the front of the queue on the device with the queue's rest. -/
def Obligations.StepRunsFrontCommand : Prop :=
  ∀ (c : Instr) (rest : List Instr) (s : State), s.pending = c :: rest → step s = exec c { s with pending := rest }

/-- The model's choice (log entry 2): with nothing queued, one increment of the timebase passes. TIME and the elapsed
count take the same increment, nominally 1.25 ns, trimmed by at most 200 ppm while an error is slewed out (R83, R86).
R77, R78: a read of TIME_NOW latches the fraction; two 32-bit reads, lower half first, return one instant. R83, R84:
an enabled PPS edge slews out the error against the nearest whole second, or steps it out when PPS_STEP is set and it
exceeds 1 µs; holdover and relock set and clear HOLDOVER and LOCKED, and relock slews the error out without a step. -/
def Obligations.TimebaseRuns : Prop :=
  (∀ s : State, s.pending = [] →
      (s.dev.resetLow = true → step s = .next s) ∧
      (s.dev.resetLow = false →
        step s = .next { s with tb := { s.tb with
          time := s.tb.time + BitVec.ofNat 80 (0x14000 + max (-16) (min 16 s.tb.slew)).toNat
          elapsed := s.tb.elapsed + (0x14000 + max (-16) (min 16 s.tb.slew)).toNat
          slew := s.tb.slew - max (-16) (min 16 s.tb.slew) } })) ∧
  (∀ (p : Port) (s : State), s.pace.tripped = false →
      exec (.timeNowRead p .full) s = .next { s with
        tb := { s.tb with frac := s.tb.time.setWidth 16 }, out := s.out ++ [.readDone p ((s.tb.time >>> 16).setWidth 64)] } ∧
      (∃ lo hi : W64, lo = (s.tb.time >>> 16).setWidth 64 &&& 0xFFFFFFFF ∧ hi = ((s.tb.time >>> 16).setWidth 64) >>> 32 ∧
        hi <<< 32 ||| lo = (s.tb.time >>> 16).setWidth 64 ∧
        exec (.timeNowRead p .lower) s = .next { s with
          tb := { s.tb with frac := s.tb.time.setWidth 16, upperLatch := hi.setWidth 32 }, out := s.out ++ [.readDone p lo] } ∧
        ∀ t : State, t.pace.tripped = false → t.tb.upperLatch = hi.setWidth 32 →
          exec (.timeNowRead p .upper) t = .next { t with out := t.out ++ [.readDone p hi] })) ∧
  (∀ (s : State),
      (s.tb.ppsEn = false → exec .ppsEdge s = .next { s with tb := { s.tb with lastPps := some s.tb.elapsed } }) ∧
      (∀ n : Nat, s.tb.ppsEn = true → n * sec 1 ≤ s.tb.time.toNat + sec 1 / 2 → s.tb.time.toNat + sec 1 / 2 < (n + 1) * sec 1 →
        (s.tb.ppsStep = false ∨ ((n * sec 1 : Nat) - s.tb.time.toNat : Int).natAbs ≤ us 1 →
          exec .ppsEdge s = .next { s with tb := { s.tb with
            lastPps := some s.tb.elapsed, slew := ((n * sec 1 : Nat) : Int) - s.tb.time.toNat } }) ∧
        (s.tb.ppsStep = true → us 1 < ((n * sec 1 : Nat) - s.tb.time.toNat : Int).natAbs →
          exec .ppsEdge s = .next { s with tb := { s.tb with
            lastPps := some s.tb.elapsed, slew := 0, stepped := true
            time := (BitVec.ofNat 64 (n * 1000000000)).setWidth 80 <<< 16
            epoch := if s.tb.epoch + 1 = 0 then 1 else s.tb.epoch + 1 } })) ∧
      exec .holdoverEntry s = .next { s with tb := { s.tb with holdover := true, locked := false } } ∧
      ∀ err : Int, exec (.refTimeRelock err) s = .next { s with tb := { s.tb with holdover := false, locked := true, slew := err } })

/-- Right after reset the configuration invariant holds, every map is canonical, TIME is 0 under a non-zero epoch (R79), no
gallery exists, no Keeper slot is held, and nothing is queued, sent or stored. -/
def Obligations.ResetState : Prop :=
  Inv State.reset ∧ Canon State.reset ∧ State.reset.tb.time = 0 ∧ State.reset.tb.elapsed = 0 ∧ State.reset.tb.epoch ≠ 0 ∧
    State.reset.dev.ready = false ∧ State.reset.dev.phase = .rom ∧ (∀ g, (State.reset.gal g).st = .vacant) ∧
    (∀ n, (State.reset.slot n).holder = none) ∧ (∀ p n, State.reset.holds p n = false) ∧
    (∀ h k, (State.reset.stoker h k).st = .free) ∧ State.reset.pending = [] ∧ State.reset.out = [] ∧ State.reset.shared = []

/-- Every step keeps the configuration invariant: a non-zero TIME_EPOCH (R79, R81), Keeper slots 5 to 15 held by nobody, a
voltage request within 550 to 950 mV (R58, R65), Ledger settings within their ranges, and a running image in policy. -/
def Obligations.EveryStepKeepsInv : Prop :=
  ∀ s t : State, Inv s → step s = .next t → Inv t

/-- No command changes the device's unit number, its grade or its manufacture map. No command lowers the anti-rollback
floor (R799) or undoes a Return seal (R749). No command touches the queue, so that a step takes exactly its front
command, first in first out. -/
def Obligations.NothingIsUndone : Prop :=
  (∀ (c : Instr) (s t : State), exec c s = .next t →
      t.dev.unit = s.dev.unit ∧ t.dev.grade = s.dev.grade ∧ t.dev.mfg = s.dev.mfg) ∧
  (∀ (c : Instr) (s t : State), exec c s = .next t →
      s.acc.floor ≤ t.acc.floor ∧ (s.faults.sealed = true → t.faults.sealed = true)) ∧
  (∀ (c : Instr) (rest : List Instr) (s t : State), s.pending = c :: rest → step s = .next t → t.pending = rest)

/-- The only stop: a command answers a next state, but for a Conservator mode entered on a sealed part (R751), which ends
in a refusal because the manual documents none of what it does. -/
def Obligations.OnlyConservatorModeStops : Prop :=
  ∀ (c : Instr) (s : State),
    (c = .conservatorUnlock true ∧ s.faults.sealed = true → exec c s = .refused .conservatorMode) ∧
    (¬ (c = .conservatorUnlock true ∧ s.faults.sealed = true) → Completes c s)

/-! ## Timebase (R77 to R86) -/

/-- R81, R82: a TIME_SET write of the port that holds Keeper slot 4 steps TIME, with fraction 0, a new epoch that skips 0,
STEPPED, and the end of any slew; any other is ignored and sets NOT_OWNER. -/
def Obligations.TimeSetStepsTime : Prop :=
  ∀ (p : Port) (v : W64) (s : State), Serving s →
    (s.holds p 4 = true → exec (.timeSet p v) s = .next { s with tb := { s.tb with
      time := (v.setWidth 80) <<< 16, slew := 0, stepped := true
      epoch := if s.tb.epoch + 1 = 0 then 1 else s.tb.epoch + 1 } }) ∧
    (s.holds p 4 = false → exec (.timeSet p v) s = .next { s with tb := { s.tb with notOwner := true } })

/-! ## Pace, voltage and parking (R52 to R76) -/

/-- R57, R58, R60, R66: what becomes of a PACE_VREQ write, whose MV is bits [9:0]. -/
def Obligations.VoltageRequestRules : Prop :=
  ∀ (p : Port) (v : W32) (s : State) (mv : Nat), Serving s → mv = v.toNat % 1024 →
    (s.holds p 4 = false → exec (.paceVreq p v) s = .next { s with pace := { s.pace with notOwner := true } }) ∧
    (s.holds p 4 = true → (mv < 550 ∨ 950 < mv) →
      exec (.paceVreq p v) s = .next { s with pace := { s.pace with range := true } }) ∧
    (s.holds p 4 = true → 550 ≤ mv → mv ≤ 950 → s.pace.guardOn = true → s.pace.mv < mv →
      exec (.paceVreq p v) s = .next { s with pace := { s.pace with rejectedHot := true } }) ∧
    (s.holds p 4 = true → 550 ≤ mv → mv ≤ 950 → (s.pace.guardOn = false ∨ mv ≤ s.pace.mv) →
      (s.pace.busy = true → exec (.paceVreq p v) s = .next { s with pace := { s.pace with mv := mv, newer := some mv } }) ∧
      (s.pace.busy = false → exec (.paceVreq p v) s = .next { s with
        pace := { s.pace with mv := mv, busy := true, sending := mv, repeated := false, newer := none }
        out := s.out ++ [.avsVoltage mv] }))

/-- R59, R60, R64: a Status read ends the request once the regulator reports VDone, or starts the newest value that waits; a
failed frame is sent again once, and a second failure sets AVS_FAULT, writes a record and ends the request. -/
def Obligations.VoltageFramesSettleRequest : Prop :=
  ∀ (s : State), s.pace.busy = true →
    (∀ mv : BitVec 10, s.pace.newer = none →
      exec (.avsStatusPoll false mv) s = .next { s with
        pace := { s.pace with repeated := false, avsFault := false }, out := s.out ++ [.avsStatus] } ∧
      exec (.avsStatusPoll true mv) s = .next { s with
        pace := { s.pace with repeated := false, avsFault := false, done := true, busy := false, mvNow := mv.toNat }
        out := s.out ++ [.avsStatus] }) ∧
    (∀ (vdone : Bool) (mv : BitVec 10) (v : Nat), s.pace.newer = some v →
      exec (.avsStatusPoll vdone mv) s = .next { s with
        pace := { s.pace with
          repeated := false, avsFault := false, newer := none, sending := v
          done := s.pace.done || vdone, mvNow := if vdone then mv.toNat else s.pace.mvNow }
        out := s.out ++ [.avsStatus, .avsVoltage v] }) ∧
    ∀ st : Bool,
      (s.pace.repeated = false → exec (.avsFrameFail st) s = .next { s with
        pace := { s.pace with repeated := true }
        out := s.out ++ [if st then .avsStatus else .avsVoltage s.pace.sending] }) ∧
      (s.pace.repeated = true → ∃ u, u = State.logFault (State.countLasting { s with pace := { s.pace with avsFault := true } })
          { event := 0x28, cls := 2, unitKind := 0, b := s.pace.sending } ∧
        u.pace = { s.pace with avsFault := true } ∧
        (s.pace.newer = none →
          exec (.avsFrameFail st) s = .next { u with pace := { u.pace with busy := false, repeated := false } }) ∧
        ∀ v, s.pace.newer = some v → exec (.avsFrameFail st) s = .next { u with
          pace := { u.pace with sending := v, repeated := false, newer := none }, out := u.out ++ [.avsVoltage v] })

/-- R52, R76: at a window's end each unparked Hearth's count is reported, valid once a whole window has been counted; a
parked Hearth takes no sample. Nothing else changes. R57, R70, R71, R74, R76: PACE_PARK takes its mask and starts the
wake of each parked Hearth it leaves out; an idle Hearth whose bit is set parks, its sample no longer valid; a wake
ends with the Hearth unparked and no full window counted. -/
def Obligations.PaceWindowsAndParking : Prop :=
  (∀ (counts : List (BitVec 16)) (s : State), mwf {} s.pace.hearth = true → ∃ t,
      exec (.paceWindowEnd counts) s = .next t ∧ t = { s with pace := { s.pace with hearth := t.pace.hearth } } ∧
      (∀ h c, counts[h]? = some c → hbit s.pace.parked h = false → t.paceHearth h =
        { valid := (s.paceHearth h).valid || !(s.paceHearth h).partialWindow, pace := c, windowEnd := s.tb.elapsed
          partialWindow := false }) ∧
      ∀ h, counts.length ≤ h ∨ hbit s.pace.parked h = true → t.paceHearth h = s.paceHearth h) ∧
  (∀ (s : State),
      (∀ (p : Port) (m : W64), Serving s → s.holds p 4 = true →
        exec (.pacePark p m) s = .next { s with pace := { s.pace with
          park := m.setWidth 48, waking := s.pace.waking ||| (s.pace.parked &&& ~~~(m.setWidth 48)) } }) ∧
      (∀ (p : Port) (m : W64), Serving s → s.holds p 4 = false →
        exec (.pacePark p m) s = .next { s with pace := { s.pace with notOwner := true } }) ∧
      (∀ h : HearthId, s.pace.park.getLsbD h = true → s.pace.parked.getLsbD h = false →
        (∀ k, k < 16 → (s.stoker h k).st = .free) → (∀ e ∈ (s.hearth h).stokers, e.2.handles = []) → (s.hearth h).calls = [] →
        (s.hearth h).stove.queue = [] → (s.hearth h).stove.cur = none →
        exec (.hearthPark h) s = .next { s with pace := { s.pace with
          parked := s.pace.parked ||| BitVec.ofNat 48 (2 ^ h.val)
          hearth := mset {} s.pace.hearth h { s.paceHearth h with valid := false } } }) ∧
      ∀ h : HearthId, s.pace.waking.getLsbD h = true →
        exec (.hearthWake h) s = .next { s with pace := { s.pace with
          parked := s.pace.parked &&& ~~~(BitVec.ofNat 48 (2 ^ h.val)), waking := s.pace.waking &&& ~~~(BitVec.ofNat 48 (2 ^ h.val))
          hearth := mset {} s.pace.hearth h { s.paceHearth h with valid := false, partialWindow := true } } })

/-- R65, R67, R783: a sample reports the hottest sensor; while it reads above 105 °C the guard is on and PACE_VREQ.MV falls by
10 mV, to 550 mV at the least; at 115 °C the device trips and asks for 550 mV. -/
def Obligations.ThermalSampleRules : Prop :=
  ∀ (r : BitVec 16) (rs : List (BitVec 16)) (s : State) (top : BitVec 16) (i : Nat), rs.length = 48 →
    hottestOf ((r :: rs).zipIdx) = (top, i) → s.pace.tripped = false → Inv s →
    ∃ t, exec (.thermalSample (r :: rs)) s = .next t ∧
      t.pace.tjMax = top ∧ t.pace.hottest = BitVec.ofNat 6 (if i = 48 then 0x3F else i) ∧
      (t.pace.guardOn = true ↔ 105 * 16 < top.toInt) ∧ (t.pace.tripped = true ↔ 115 * 16 ≤ top.toInt) ∧
      (top.toInt ≤ 105 * 16 → s.pace.guardOn = false → t = { s with pace := { s.pace with
        tjMax := top, hottest := BitVec.ofNat 6 (if i = 48 then 0x3F else i) } }) ∧
      (105 * 16 < top.toInt → top.toInt < 115 * 16 → t.pace.mv = max 550 (s.pace.mv - 10)) ∧
      (115 * 16 ≤ top.toInt → t.pace.mv = 550 ∧ t.pace.tripOut = true)

/-! ## Galleries (R92 to R102, R139 to R143, R837) -/

/-- R92, R96, R97, R98, R100: a gallery command, configuration write or deadline write that is accepted changes its gallery
alone. CREATE, from the port that holds Keeper slot 0, makes a VACANT gallery DORMANT with its fault queue's counters at 0;
OPEN and QUIESCE, from the home port, take effect at once. -/
def Obligations.GalleryCommandsAccepted : Prop :=
  ∀ (p : Port) (g : GalleryId) (s : State), Serving s →
    (s.holds p 0 = true → (s.gal g).busy = false → (s.gal g).st = .vacant → s.faults.sealed = false →
      exec (.galCreate p g) s = .next { s with gals := mset {} s.gals g { s.gal g with
        st := .dormant, result := .ok, fqWritten := 0, fqHead := 0, fqSeq := 0 } }) ∧
    ((s.gal g).home = p → (s.gal g).busy = false → (s.gal g).st = .dormant → s.faults.sealed = false →
      (s.openCheck g = none → exec (.galOpen p g) s =
        .next { s with gals := mset {} s.gals g { s.gal g with st := .opened, result := .ok } }) ∧
      ∀ r, s.openCheck g = some r → exec (.galOpen p g) s = .next { s with gals := mset {} s.gals g { s.gal g with result := r } }) ∧
    ((s.gal g).home = p → (s.gal g).busy = false → (s.gal g).st = .opened → s.faults.sealed = false →
      exec (.quiesce p g) s = .next { s with gals := mset {} s.gals g { s.gal g with st := .quiescing, result := .ok } }) ∧
    (∀ (r : GalReg) (v : W64),
      ((s.gal g).st = .vacant ∨ (s.gal g).st = .dormant) → s.holds p 0 = true →
        exec (.galConfigWrite p g r v) s =
          .next { s with gals := mset {} s.gals g { (s.gal g).writeReg r v.toNat with result := .ok } }) ∧
    (∀ (r : GalReg) (v : W64),
      ((s.gal g).st ≠ .vacant ∧ (s.gal g).st ≠ .dormant) ∨ s.holds p 0 = false →
        exec (.galConfigWrite p g r v) s = .next { s with gals := mset {} s.gals g { s.gal g with result := .locked } }) ∧
    ∀ v : W32, (s.gal g).home = p → (s.gal g).st ≠ .vacant → (s.gal g).st ≠ .resetting → 1000 ≤ v.toNat → v.toNat ≤ 10000000 →
      exec (.galKindleDeadline p g v) s =
        .next { s with gals := mset {} s.gals g { s.gal g with kindleNs := v.toNat, result := .ok } }

/-- R837, R749: a GAL_COMMAND write that is not accepted records one RESULT and does nothing else: WRONG_PORT when the port is
not the one that Table 3-2 names, else BUSY, else BAD_STATE, which a sealed part gives to every command but RELEASE. -/
def Obligations.GalleryCommandsJudged : Prop :=
  ∀ (p : Port) (g : GalleryId) (a b : Bool) (s : State) (c : Instr) (portOk stateOk : Bool), Serving s →
    ((c = .galCreate p g ∧ portOk = s.holds p 0 ∧ stateOk = (decide ((s.gal g).st = .vacant) && !s.faults.sealed)) ∨
     (c = .galOpen p g ∧ portOk = decide ((s.gal g).home = p) ∧ stateOk = (decide ((s.gal g).st = .dormant) && !s.faults.sealed)) ∨
     (c = .quiesce p g ∧ portOk = decide ((s.gal g).home = p) ∧ stateOk = (decide ((s.gal g).st = .opened) && !s.faults.sealed)) ∨
     (c = .galReset p g a b ∧ portOk = decide ((s.gal g).home = p) ∧
      stateOk = (decide ((s.gal g).st = .dormant ∨ (s.gal g).st = .opened ∨ (s.gal g).st = .quiescing ∨ (s.gal g).st = .faulted)
        && !s.faults.sealed)) ∨
     (c = .release p g a b ∧ portOk = s.holds p 0 ∧ stateOk = decide ((s.gal g).st = .dormant ∨ (s.gal g).st = .faulted))) →
    (portOk = false → exec c s = .next { s with gals := mset {} s.gals g { s.gal g with result := .wrongPort } }) ∧
    (portOk = true → (s.gal g).busy = true → exec c s = .next { s with gals := mset {} s.gals g { s.gal g with result := .busy } }) ∧
    (portOk = true → (s.gal g).busy = false → stateOk = false →
      exec c s = .next { s with gals := mset {} s.gals g { s.gal g with result := .badState } })

/-- R139, R141: RESET and RELEASE put the gallery into RESETTING and keep its configuration; it stops fetching, its
entries not yet fetched and its fault records not yet consumed are discarded, RESULT stays until the end (R830), and its undecided work orders are
aborted with REASON GALLERY_RESET. No other gallery changes. R92, R139, R141: a QUIESCING gallery with nothing
outstanding becomes DORMANT. A reset ends once every record is written and nothing of the gallery is in flight: with
every count at 0 and the configuration kept it is DORMANT, and after RELEASE it is VACANT with all of it cleared. No
other gallery changes. -/
def Obligations.GalleryResets : Prop :=
  (∀ (p : Port) (g : GalleryId) (a b : Bool) (s : State) (c : Instr) (job : ResetJob), Serving s → Canon s →
      ((c = .galReset p g a b ∧ (s.gal g).home = p ∧ (s.gal g).busy = false ∧ s.faults.sealed = false ∧
        ((s.gal g).st = .dormant ∨ (s.gal g).st = .opened ∨ (s.gal g).st = .quiescing ∨ (s.gal g).st = .faulted) ∧
        job = { release := false, scrub := a, scrubKey := b }) ∨
       (c = .release p g a b ∧ s.holds p 0 = true ∧ (s.gal g).busy = false ∧ ((s.gal g).st = .dormant ∨ (s.gal g).st = .faulted) ∧
        job = { release := true, scrub := a, scrubKey := b })) →
      ∃ t, exec c s = .next t ∧ (t.gal g).st = .resetting ∧ (t.gal g).busy = true ∧ (t.gal g).job = some job ∧
        (t.gal g).grace = none ∧ (t.gal g).result = (s.gal g).result ∧ (t.gal g).fqHead = (s.gal g).fqWritten ∧ (t.gal g).cat = (s.gal g).cat ∧
        (t.gal g).hearths = (s.gal g).hearths ∧ (t.gal g).home = (s.gal g).home ∧
        (∀ q, ((t.gal g).queue q).tail = ((s.gal g).queue q).fetched ∧ ((t.gal g).queue q).staged = none ∧
          ((t.gal g).queue q).pushed = [] ∧ ((t.gal g).queue q).heldAbort = none) ∧
        (∀ j, j ≠ g.val → t.gal j = s.gal j) ∧
        ∀ w, s.wo? w.id = some w → w.gal = g.val → w.decided = none →
          ∃ v d, t.wo? w.id = some v ∧ v.decided = some d ∧ d.status = .aborted ∧ d.reason = 0x02) ∧
  (∀ (g : GalleryId) (s : State), Canon s → (∀ w ∈ s.wos, w.gal ≠ g.val) →
      ((s.gal g).st = .quiescing → (∀ e ∈ (s.gal g).queues, e.2.tail = e.2.fetched ∧ e.2.staged = none) →
        exec (.quiesceDrained g) s = .next { s with gals := mset {} s.gals g { s.gal g with st := .dormant } }) ∧
      ∀ j : ResetJob, (s.gal g).st = .resetting → (s.gal g).job = some j → j.scrubKey = false → s.galBusy g = false →
        s.acc.rekeyed.contains g.val = false → ∃ t, exec (.galResetDone g) s = .next t ∧
          (∀ i, i ≠ g.val → t.gal i = s.gal i) ∧ t.wos = s.wos ∧
          (j.release = false → t.gal g = { s.gal g with
            result := if j.portReset then (s.gal g).result else .ok
            st := .dormant, cause := .none, busy := false, job := none, grace := none, fqWritten := 0, fqHead := 0, fqSeq := 0
            staleResume := 0, badDoorbell := 0, wrongPort := 0, notOpen := 0, queues := (t.gal g).queues } ∧
            ∀ q, ((t.gal g).queue q).tail = 0 ∧ ((t.gal g).queue q).head = 0 ∧ ((t.gal g).queue q).fetched = 0 ∧
              ((t.gal g).queue q).written = 0 ∧ ((t.gal g).queue q).abort = none ∧
              ((t.gal g).queue q).enable = ((s.gal g).queue q).enable ∧ ((t.gal g).queue q).sqBase = ((s.gal g).queue q).sqBase ∧
              ((t.gal g).queue q).cqBase = ((s.gal g).queue q).cqBase) ∧
          (j.release = true → t.gal g = { result := .ok }))

/-! ## Doorbells (R104 to R110, R128 to R130, R137, R833) -/

/-- R104, R106, R108, R109: an accepted doorbell write moves its counter, and one outside its range is counted in
BAD_DOORBELL; an accepted push is the entry at the old tail. R110, R833: a doorbell write from another port than the
home port is counted in WRONG_PORT; one in a state that does not take it, in NOT_OPEN; and one to a queue that is not
enabled, in BAD_DOORBELL. Before READY all are counted in DEV_EARLY. R128, R129, R130, R137: an abort resolves at once
to one outcome of Table 3-11. ACCEPTED commits ABORTED with REASON RUNTIME for the undecided work order of the queue
that carries the tag; QUEUED is held for the entries not yet fetched. A resume restarts the stream that its sequence
number halted; one that names no halted stream is counted in STALE_RESUME. -/
def Obligations.Doorbells : Prop :=
  (∀ (p : Port) (g : GalleryId) (q : QueueId) (s : State) (x : Queue), Serving s → (s.gal g).home = p → x = (s.gal g).queue q →
      let dropped : State := { s with gals := mset {} s.gals g { s.gal g with badDoorbell := min 65535 ((s.gal g).badDoorbell + 1) } }
      (∀ t : BitVec 16, (s.gal g).st = .opened → x.enable = true →
        ((t - x.head).toNat ≤ 64 ∧ (t - x.tail).toNat ≤ 64 →
          exec (.dbSqTail p g q t) s = .next (s.setQueue g q { x with tail := t })) ∧
        (¬ ((t - x.head).toNat ≤ 64 ∧ (t - x.tail).toNat ≤ 64) → exec (.dbSqTail p g q t) s = .next dropped)) ∧
      (∀ d : List Byte, (s.gal g).st = .opened → x.enable = true →
        (d.length = 64 ∧ (x.tail + 1 - x.head).toNat ≤ 64 →
          exec (.dbPush p g q d) s = .next (s.setQueue g q { x with
            tail := x.tail + 1, pushed := mset [] x.pushed x.tail.toNat d })) ∧
        (¬ (d.length = 64 ∧ (x.tail + 1 - x.head).toNat ≤ 64) → exec (.dbPush p g q d) s = .next dropped)) ∧
      (∀ h : BitVec 16, ((s.gal g).st = .opened ∨ (s.gal g).st = .quiescing ∨ (s.gal g).st = .faulted) → x.enable = true →
        ((h - x.head).toNat ≤ (x.written - x.head).toNat →
          exec (.dbCqHead p g q h) s = .next (s.setQueue g q { x with
            head := h, unread := x.unread.drop (h - x.head).toNat })) ∧
        ((x.written - x.head).toNat < (h - x.head).toNat → exec (.dbCqHead p g q h) s = .next dropped)) ∧
      ∀ h : BitVec 16, ((s.gal g).st = .opened ∨ (s.gal g).st = .quiescing ∨ (s.gal g).st = .faulted) →
        ((h - (s.gal g).fqHead).toNat ≤ ((s.gal g).fqWritten - (s.gal g).fqHead).toNat →
          exec (.dbFaultqHead p g h) s = .next (s.setGal g { s.gal g with fqHead := h })) ∧
        (((s.gal g).fqWritten - (s.gal g).fqHead).toNat < (h - (s.gal g).fqHead).toNat →
          exec (.dbFaultqHead p g h) s = .next dropped)) ∧
  (∀ (p : Port) (g : GalleryId) (q : QueueId) (t : BitVec 16) (d : List Byte) (n : W32) (s : State) (c : Instr)
      (accepts : GalSt → Prop), s.pace.tripped = false →
      (((c = .dbSqTail p g q t ∨ c = .dbPush p g q d) ∧ accepts = fun x => x = .opened) ∨
       ((c = .dbAbort p g q t ∨ c = .dbResume p g n) ∧ accepts = fun x => x = .opened ∨ x = .quiescing) ∨
       ((c = .dbCqHead p g q t ∨ c = .dbFaultqHead p g t) ∧ accepts = fun x => x = .opened ∨ x = .quiescing ∨ x = .faulted)) →
      (s.dev.ready = false → exec c s = .next { s with dev := { s.dev with
        earlyDoorbells := min 65535 (s.dev.earlyDoorbells + 1) } }) ∧
      (s.dev.ready = true → (s.gal g).home ≠ p → exec c s =
        .next { s with gals := mset {} s.gals g { s.gal g with wrongPort := min 65535 ((s.gal g).wrongPort + 1) } }) ∧
      (s.dev.ready = true → (s.gal g).home = p → ¬ accepts (s.gal g).st → exec c s =
        .next { s with gals := mset {} s.gals g { s.gal g with notOpen := min 65535 ((s.gal g).notOpen + 1) } }) ∧
      (s.dev.ready = true → (s.gal g).home = p → accepts (s.gal g).st → ((s.gal g).queue q).enable = false →
        c ≠ .dbResume p g n → c ≠ .dbFaultqHead p g t → exec c s =
        .next { s with gals := mset {} s.gals g { s.gal g with badDoorbell := min 65535 ((s.gal g).badDoorbell + 1) } })) ∧
  (∀ (p : Port) (g : GalleryId) (q : QueueId) (t : BitVec 16) (s : State) (x : Queue), Serving s → (s.gal g).home = p →
      ((s.gal g).st = .opened ∨ (s.gal g).st = .quiescing) → x = (s.gal g).queue q →
      (x.enable = true →
        (∀ w, (s.wos.find? fun v => decide (v.gal = g.val) && decide (v.queue = q.val) && decide (v.tag = t) && v.decided.isNone) = some w →
          exec (.dbAbort p g q t) s = .next ((s.setQueue g q { x with abort := some (.accepted, t) }).endWo w.id
            { status := .aborted, reason := 0x01 })) ∧
        ((∀ w ∈ s.wos, w.gal = g.val → w.queue = q.val → w.tag = t → w.decided ≠ none) →
          ((∃ w ∈ s.wos, w.gal = g.val ∧ w.queue = q.val ∧ w.tag = t) ∨ t ∈ x.unread →
            exec (.dbAbort p g q t) s = .next (s.setQueue g q { x with abort := some (.alreadyRetired, t) })) ∧
          (¬ ((∃ w ∈ s.wos, w.gal = g.val ∧ w.queue = q.val ∧ w.tag = t) ∨ t ∈ x.unread) →
            (x.tail = x.fetched → exec (.dbAbort p g q t) s = .next (s.setQueue g q { x with abort := some (.notFound, t) })) ∧
            (x.tail ≠ x.fetched → x.staged = none → exec (.dbAbort p g q t) s =
              .next (s.setQueue g q { x with abort := some (.queued, t), heldAbort := some (t, (x.tail - x.fetched).toNat) })) ∧
            (∀ e, x.tail ≠ x.fetched → x.staged = some e → entryTag e = t → exec (.dbAbort p g q t) s =
              .next (s.setQueue g q { x with abort := some (.queued, t), heldAbort := none, stagedAborted := true })) ∧
            (∀ e, x.tail ≠ x.fetched → x.staged = some e → entryTag e ≠ t →
              ((x.tail - x.fetched).toNat = 1 →
                exec (.dbAbort p g q t) s = .next (s.setQueue g q { x with abort := some (.notFound, t), heldAbort := none })) ∧
              (1 < (x.tail - x.fetched).toNat → exec (.dbAbort p g q t) s = .next (s.setQueue g q { x with
                abort := some (.queued, t), heldAbort := some (t, (x.tail - x.fetched).toNat - 1) })))))) ∧
      ∀ n : W32,
        (s.haltedOn g n = none → exec (.dbResume p g n) s =
          .next { s with gals := mset {} s.gals g { s.gal g with staleResume := min 65535 ((s.gal g).staleResume + 1) } }) ∧
        ∀ h k d, s.haltedOn g n = some (h, k, d) →
          exec (.dbResume p g n) s = .next ((s.updStream h k d fun x => { x with halt := none }).updStoker h k Stoker.resumed))

/-! ## Work orders and queues (R111 to R126, R284, R285, R289, R290, R295, R298, R315, R834) -/

/-- R834, R130: the next entry not yet fetched of an enabled front end goes into the empty staging slot: from the push
itself, from the host, or from the Shared Store. Nothing else changes, but for what the check of a Shared word does; an
entry in a lost line faults the gallery (log entry 112). R115, R116: no entry is fetched while 4,096
work orders are in flight, and the entry that is served next has the highest PRIORITY of the entries that wait in the
staging slots of OPEN and QUIESCING galleries. R113, R115, R130: the entry served becomes a work order in flight, last
in fetch order. Its status is decided at once as REFUSED when a check of Table 3-8 fails, with the REASON of the
first, and as ABORTED when a held abort reached it. -/
def Obligations.EntriesAreFetched : Prop :=
  (∀ (g : GalleryId) (q : QueueId) (ans : HostAnswer) (v : Verdict) (e : List Byte) (s : State) (x : Queue), s.pace.tripped = false →
      x = (s.gal g).queue q → ((s.gal g).st = .opened ∨ (s.gal g).st = .quiescing) → x.staged = none → x.fetched ≠ x.tail →
      x.heldAbort = none →
      let staged (e : List Byte) : Queue := { x with
        staged := some e, stagedAborted := false, pushed := mset [] x.pushed x.fetched.toNat [] }
      (((e ≠ [] ∧ mget [] x.pushed x.fetched.toNat = e) ∨
        (mget [] x.pushed x.fetched.toNat = [] ∧ ans = .data e ∧ (s.port (s.gal g).home).usable = true ∧
         ∃ a i, s.check g .ringFetch (x.sqBase.toNat + 64 * (x.fetched.toNat % 64)) = .ok (.host a) i)) →
        exec (.entryStage g q ans v) s = .next (s.setQueue g q (staged e))) ∧
      ∀ (o i : Nat) (w : State), mget [] x.pushed x.fetched.toNat = [] →
        s.check g .ringFetch (x.sqBase.toNat + 64 * (x.fetched.toNat % 64)) = .ok (.shared o) i → w = s.judgeLine v o →
        exec (.entryStage g q ans v) s = .next
          (if w.sharedLost o 64 then w.galleryFault g .sqFetch 1 else w.setQueue g q (staged (bytesAt w.shared o 64)))) ∧
  (∀ s : State,
      (4096 ≤ s.wos.length → exec .entryFetch s = .next s) ∧
      ∀ g q, s.nextFetch = some (g, q) → ∃ e, ((s.gal g).queue q).staged = some e ∧
        ((s.gal g).st = .opened ∨ (s.gal g).st = .quiescing) ∧
        ∀ i j f, j < 4 → ((s.gal i).st = .opened ∨ (s.gal i).st = .quiescing) → ((s.gal i).queue j).staged = some f →
          entryPriority f ≤ entryPriority e) ∧
  (∀ (s : State) (g q : Nat) (e : List Byte), s.pace.tripped = false → s.wos.length < 4096 → s.nextFetch = some (g, q) →
      ((s.gal g).queue q).staged = some e → (∀ w ∈ s.wos, w.id ≠ s.nextWo) →
      ∃ t w, exec .entryFetch s = .next t ∧ t.wos = s.wos ++ [w] ∧ t.nextWo = s.nextWo + 1 ∧ t.rrGal = g ∧
        w.id = s.nextWo ∧ w.gal = g ∧ w.queue = q ∧ w.tag = entryTag e ∧ w.phase = .waiting ∧ w.progress = 0 ∧
        (((s.gal g).queue q).stagedAborted = true → ∃ d, w.decided = some d ∧ d.status = .aborted ∧ d.reason = 0x01) ∧
        (((s.gal g).queue q).stagedAborted = false →
          (∀ r, s.refusal g q e = some r → ∃ d, w.decided = some d ∧ d.status = .refused ∧ d.reason = r) ∧
          (s.refusal g q e = none → w.decided = none)))

/-- R117, R289, R290: a RUN that waits and whose Hearths each have a free Stoker takes the lowest-numbered free one on
each, READY at BASE + OFFSET of the placed program; a STOVE_LOAD takes it in PARKED_CALL and queues its load on each
slice. R284, R285: a PLACE whose destination nothing executes and which overlaps no earlier PLACE of its gallery
starts to copy: one access reads the image, and the work order runs. R282, R285: a PLACE that has copied every byte is
recorded as PLACED on each Hearth of its set, and retires; R283: where a later PLACE in flight removes it, it is
REMOVING from the start (log entry 115). -/
def Obligations.WorkOrdersDispatch : Prop :=
  (∀ (id h k : Nat) (w : WorkOrder) (s : State), s.wo? id = some w → s.pace.tripped = false → w.decided = none →
      w.phase = .waiting → s.heldByQfence w = false → s.stokersFree w = true → h < 48 → w.hearths.getLsbD h = true →
      (s.hearth h).freeStoker = some k →
      (w.opcode.toNat = 1 → ∀ p, (s.hearth h).runProg w.gal w.program = some p →
        ∃ t, exec (.runDispatch id) s = .next t ∧ t.wos = s.wos.map (fun v => if v.id = id then { v with phase := .running } else v) ∧
          t.stoker h k = { wo := w.id, gal := w.gal, queue := w.queue, tag := w.tag, st := .ready
                           pc := p.base + w.offset, base := p.base, len := p.length }) ∧
      (w.opcode.toNat = 4 → (∀ j, j < 48 → w.hearths.getLsbD j = true → (s.hearth j).stove.fenced = false) →
        ∃ t, exec (.stoveLoadDispatch id) s = .next t ∧ t.wos = s.wos.map (fun v => if v.id = id then { v with phase := .running } else v) ∧
          t.stoker h k = { wo := w.id, gal := w.gal, queue := w.queue, tag := w.tag, st := .parkedCall, wait := .load } ∧
          (t.hearth h).stove.queue = (s.hearth h).stove.queue ++ [.load { gal := w.gal, wo := w.id, stoker := k, pc := 0
                                                                          src := w.argAddr, len := w.length, order := true }])) ∧
  (∀ (id : Nat) (w : WorkOrder) (s : State), s.wo? id = some w → s.pace.tripped = false → w.opcode.toNat = 2 → w.decided = none →
      w.phase = .waiting → s.heldByQfence w = false → s.mayPlace w = true →
      ∃ t a, exec (.placeDispatch id) s = .next t ∧ t.accs = s.accs ++ [a] ∧ a.id = s.nextAcc ∧ t.nextAcc = s.nextAcc + 1 ∧
        a.wo = some id ∧ a.gal = w.gal ∧ a.kind = .place ∧ a.base = w.argAddr ∧ a.todo = byteRuns w.argAddr w.length ∧
        t.wos = s.wos.map (fun v => if v.id = id then { v with phase := .running } else v)) ∧
  (∀ (id h : Nat) (w : WorkOrder) (s : State), s.wo? id = some w → w.decided = none → w.opcode.toNat = 2 → w.phase = .running →
      (∀ a ∈ s.accs, a.wo ≠ some id) → h < 48 → w.hearths.getLsbD h = true → w.id = id →
      ∃ t, exec (.retire id) s = .next t ∧ (∃ v d, t.wo? id = some v ∧ v.decided = some d ∧ d.status = w.retireStatus) ∧
        (t.hearth h).prog (w.offset / 1024) = { st := if s.replacedBy w h then .removing else .placed, gal := w.gal,
                                                 program := w.program, base := w.offset, length := w.length })

/-- R118, R120, R121, R126: a QFENCE with no earlier record to come, and a RUN or STOVE_LOAD whose Stokers have all halted
with nothing left to write, commit COMPLETE, or COMPLETE_WARN when a warning bit is set. Nothing but that status
changes. R122, R124, R125: once the status is decided and every write has reached its place, the record is written as
one 32 B write at slot (records written) mod 64 of the completion ring, the work order leaves, and the count of
records rises by one. R180, R831: once its port can carry them, a port's pending vectors that are not masked are each
sent once, in order, and no longer pend. -/
def Obligations.RetirementAndRecords : Prop :=
  (∀ (id : Nat) (w : WorkOrder) (s : State), s.wo? id = some w → w.decided = none →
      let verdict (st : WoStatus) (v : WorkOrder) : Decision :=
        { status := st, time := (s.tb.time >>> 16).setWidth 64, trusted := s.tb.locked && !s.tb.holdover && !s.tb.skewHigh
          clamp := v.clamp, oob := v.oobDrops, sparse := v.sparseDrops }
      let commits (st : WoStatus) : State :=
        { s with wos := s.wos.map fun v =>
            if v.id = id then (if v.decided.isSome then v else { v with decided := some (verdict st v) }) else v }
      let ends : WoStatus := if w.clamp = true ∨ w.oobDrops ≠ 0 ∨ w.sparseDrops ≠ 0 then .completeWarn else .complete
      (w.opcode.toNat = 3 → (∀ v ∈ s.wos, v.id < w.id → v.gal = w.gal → w.allQueues = false ∧ v.queue ≠ w.queue) →
        exec (.qfenceRetire id) s = .next (commits .complete)) ∧
      (w.opcode.toNat = 1 → s.runDone w = true → exec (.retire id) s = .next (commits ends)) ∧
      (w.opcode.toNat = 4 → w.phase = .running → (∀ p ∈ s.stokersOf id, (s.stoker p.1 p.2).st = .halted) →
        exec (.retire id) s = .next (commits ends))) ∧
  (∀ (id a : Nat) (i : Option Nat) (w : WorkOrder) (d : Decision) (s : State) (y : Queue), s.wo? id = some w → w.decided = some d →
      s.pace.tripped = false → s.writesLeft id = false → y = (s.gal w.gal).queue w.queue → w.id = id →
      (s.port (s.gal w.gal).home).usable = true →
      s.check w.gal .recordWrite (y.cqBase.toNat + 32 * (y.written.toNat % 64)) = .ok (.host a) i →
      ∃ t, exec (.completionRecord id) s = .next t ∧ t.wos = s.wos.filter (fun v => decide (v.id ≠ id)) ∧
        ((t.gal w.gal).queue w.queue).written = y.written + 1 ∧ ((t.gal w.gal).queue w.queue).unread = y.unread ++ [w.tag] ∧
        .hostWrite (s.gal w.gal).home (s.gal w.gal).pasid a
          (recordBytes w d (decide (y.written.toNat / 64 % 2 = 0))) ∈ t.out) ∧
  (∀ (p : Port) (s : State), Canon s → (s.port p).inReset = false → (s.port p).msixEnable = true → (s.port p).dllUp = true →
      (s.port p).funcMask = false →
      let masked (e : Nat × Bool) : Bool := (mget {} (s.port p).msix e.1).masked
      exec (.msixPendingSend p) s = .next { s.setPort p { s.port p with pba := (s.port p).pba.filter masked } with
        out := s.out ++ ((s.port p).pba.filter fun e => !masked e).map fun e =>
          .msix p (mget {} (s.port p).msix e.1).addr (mget {} (s.port p).msix e.1).data })

/-- R298: a Stoker whose work order's status is decided and whose instructions have all finished returns to FREE with its
registers and return stack cleared. R295: a Stoker parked on a stream, on tags, on a fence or on calls is READY again
once what it waits for has happened, and the instruction it waited in counts as retired; until then nothing changes. A
Stoker that waited for room in a stream issues its instruction again. R121, R131, R315, R316: a fault of an undecided
work order commits FAULTED with its code and place, and its Stokers stop; one that comes after the status was decided
is discarded. -/
def Obligations.StokersAndFaults : Prop :=
  (∀ (h : HearthId) (k : StokerId) (s : State), Canon s → (s.stoker h k).st ≠ .free → s.undecided (s.stoker h k).wo = false →
      s.stokerIdle h k = true →
      ∃ t, exec (.stokerFree h k) s = .next t ∧ t.stoker h k = {} ∧ (∀ j, j ≠ k.val → t.stoker h j = s.stoker h j) ∧
        (∀ j, j ≠ h.val → t.hearth j = s.hearth j) ∧ t = { s with hearths := t.hearths }) ∧
  (∀ (h : HearthId) (k : StokerId) (s : State), Canon s →
      let woken (done : Bool) (t : State) : Prop :=
        t = { s with hearths := t.hearths, wos := if done then s.wos.map (fun w =>
          if w.id = (s.stoker h k).wo then { w with progress := w.progress + 1 } else w) else s.wos } ∧
        t.stoker h k = { s.stoker h k with st := .ready, wait := .none } ∧ (∀ j, j ≠ k.val → t.stoker h j = s.stoker h j) ∧
        ∀ j, j ≠ h.val → t.hearth j = s.hearth j
      let wakes (done b : Bool) : Prop :=
        (b = true → ∃ t, exec (.stokerWake h k) s = .next t ∧ woken done t) ∧ (b = false → exec (.stokerWake h k) s = .next s)
      (∀ d n x, (s.stoker h k).wait = .ops d n → (s.stoker h k).stream? d = some x → wakes true (x.waited n)) ∧
      (∀ d x, (s.stoker h k).wait = .room d → (s.stoker h k).stream? d = some x → wakes false (decide (x.ops.length < 16))) ∧
      (∀ d, (s.stoker h k).wait = .tags d →
        wakes true (!(s.hearth h).openings.any fun o => decide (o.stoker = k.val) && decide (o.handle = d) && !o.granted)) ∧
      (∀ n w, (s.stoker h k).wait = .fence n w → wakes true (s.fenceDone h k n w)) ∧
      (∀ n, (s.stoker h k).wait = .rel n → s.waitsOnHalt h k n = true → exec (.stokerWake h k) s = .next s) ∧
      ∀ n cab, (s.stoker h k).wait = (if cab then .cab n else .stv n) → s.fenceDone h k (s.stoker h k).seq false = true →
        wakes true ((s.hearth h).callsWaited k cab n)) ∧
  (∀ (id : Nat) (code hearth : BitVec 8) (k : StokerId) (pc : BitVec 18) (w : WorkOrder) (s : State), s.wo? id = some w →
      (w.decided ≠ none → exec (.faultCommit id code hearth k pc) s = .next s) ∧
      (w.decided = none → ∃ t v d, exec (.faultCommit id code hearth k pc) s = .next t ∧ t.wo? id = some v ∧ v.decided = some d ∧
        d.status = .faulted ∧ d.faultCode = code ∧ d.hearth = hearth ∧ d.stoker.toNat = k.val ∧ d.pc = pc ∧
        t = { s with wos := t.wos, hearths := t.hearths, accs := t.accs }))

/-! ## Host ports (R149 to R155, R171 to R175, R194, R814, R832) -/

/-- R832, R173, R171, R194: a trigger of Table 4-16 puts the port into port reset, with its PORT_ registers and MSI-X
state cleared; the Keeper slots that it holds break, the Ledger withdraws every line it holds, and its host reads are
withdrawn and held. A trigger that already holds the port changes nothing. R832: a port reset lasts until the last of
its triggers has ended; then, and when the link comes up, a port that can issue requests sends what was held for the
galleries homed on it (R173), but for the read of a partial write that waits for its instruction's earlier writes to the
same bytes (R267, R268; log entry 117). R171, R194: a link that goes down breaks the port's Keeper slots and withdraws its
lines. R151, R814: a host read that times out is counted in HOST_FAIL of its gallery's home port and ends its work
order with HOST_FAIL; a port-reset grace that has ended resets its gallery with REASON PORT_RESET and discards what
was held for it. -/
def Obligations.PortResetsAndLinks : Prop :=
  (∀ (p : Port) (tr : PortTrigger) (c : Instr) (s : State), Canon s →
      ((c = .perst p ∧ tr = .perst) ∨ (c = .hotReset p ∧ tr = .hotReset) ∨ (c = .linkDisable p ∧ tr = .linkDisable) ∨
       (c = .functionLevelReset p ∧ tr = .flr) ∨ (c = .d3hot p ∧ tr = .d3hot)) →
      (tr ∈ (s.port p).resetBy → exec c s = .next s) ∧
      (tr ∉ (s.port p).resetBy → ∃ t, exec c s = .next t ∧
        t.port p = { dllUp := (s.port p).dllUp, resetBy := (s.port p).resetBy ++ [tr], width := (s.port p).width
                     speed := (s.port p).speed, perstHigh := (s.port p).perstHigh && decide (tr ≠ .perst) } ∧
        (∀ n : Fin 64, t.holds p n = false) ∧ (∀ l, (t.line l).holdOf p = .i) ∧
        (∀ x ∈ t.pieces, ∀ a, x.target = .host a → x.write = false → (s.gal x.gal).home = p → x.status = .heldPort) ∧
        ∀ g, (s.gal g).home = p → (s.gal g).st ≠ .vacant → (s.port p).resetBy = [] → (s.gal g).grace = none →
          (t.gal g).grace = some (s.tb.elapsed + ms s.acc.graceMs))) ∧
  (∀ (p : Port) (s : State), Canon s →
      (∀ tr : PortTrigger, ((s.port p).resetBy = [] ∨ ∃ u ∈ (s.port p).resetBy, u ≠ tr) → exec (.portResetEnd p tr) s = .next (s.setPort p { s.port p with
        resetBy := (s.port p).resetBy.filter (fun u => decide (u ≠ tr)), perstHigh := (s.port p).perstHigh || decide (tr = .perst) })) ∧
      (∀ tr : PortTrigger, (s.port p).resetBy = [tr] → exec (.portResetEnd p tr) s = .next (((s.setPort p { s.port p with
        resetBy := [], perstHigh := (s.port p).perstHigh || decide (tr = .perst) }).releaseHeld p).raisePeer (otherPort p))) ∧
      (∀ (w : BitVec 8) (v : BitVec 4), ∃ t, exec (.dllUp p w v) s = .next t ∧ (t.port p).dllUp = true ∧ (t.port p).width = w ∧
        (t.port p).speed = v ∧ ((s.port p).resetBy = [] →
          (∀ m ∈ t.held, (s.gal m.1).home ≠ p) ∧
          ∀ x ∈ t.pieces, ∀ a, x.target = .host a → (s.gal x.gal).home = p → x.status = .heldPort →
            x.readsFirst = true ∧ t.writeOrderHolds x = true)) ∧
      ((s.port p).dllUp = false → exec (.dllDown p) s = .next s) ∧
      ((s.port p).dllUp = true → ∃ t, exec (.dllDown p) s = .next t ∧ (t.port p).dllUp = false ∧
        (∀ n : Fin 64, t.holds p n = false) ∧ (∀ l, (t.line l).holdOf p = .i) ∧
        ∀ x ∈ t.pieces, ∀ a, x.target = .host a → x.write = false → (s.gal x.gal).home = p → x.status = .heldPort)) ∧
  (∀ (s : State),
      (∀ (id a : Nat) (x : Piece), s.piece? id = some x → x.target = .host a → x.write = false → x.status = .sent →
        exec (.hostCompletionTimeout id) s = .next (((s.setPort (s.gal x.gal).home { s.port (s.gal x.gal).home with
          hostFail := min 65535 ((s.port (s.gal x.gal).home).hostFail + 1) }).pieceFails x 0x18).pumpBays)) ∧
      (∀ (g : GalleryId) (d : Nat), (s.gal g).grace = some d → s.tb.elapsed < d →
        exec (.portResetGraceExpiry g) s = .next s) ∧
      ∀ (g : GalleryId) (d : Nat), (s.gal g).grace = some d → d ≤ s.tb.elapsed → (s.gal g).st ≠ .vacant →
        (s.gal g).st ≠ .resetting → exec (.portResetGraceExpiry g) s =
          .next (((s.setGal g { s.gal g with grace := none }).startReset g 0x04 { portReset := true }).discardHeld g))

/-- R174, R175: PORT_ADOPT is decided in the order of Table 4-13. Adoption moves the gallery's home port, and what was held for
the gallery goes out on the adopting port. -/
def Obligations.AdoptionMovesHomePort : Prop :=
  ∀ (p : Port) (g : GalleryId) (s : State), s.pace.tripped = false →
    let answer (r : AdoptResult) : State := s.setPort p { s.port p with adopt := some (g.val, r) }
    (s.holds p 0 = false → exec (.portAdopt p g) s = .next (answer .notOwner)) ∧
    (s.holds p 0 = true → (s.gal g).st = .vacant → exec (.portAdopt p g) s = .next (answer .vacant)) ∧
    (s.holds p 0 = true → (s.gal g).st ≠ .vacant → (s.gal g).home = p → exec (.portAdopt p g) s = .next (answer .samePort)) ∧
    (s.holds p 0 = true → (s.gal g).st ≠ .vacant → (s.gal g).home ≠ p → (s.port (s.gal g).home).usable = true →
      exec (.portAdopt p g) s = .next (answer .homeUp)) ∧
    (s.holds p 0 = true → (s.gal g).st ≠ .vacant → (s.gal g).home ≠ p → (s.port (s.gal g).home).usable = false →
      exec (.portAdopt p g) s = .next (State.releaseHeld { answer .done with
        gals := mset {} s.gals g { s.gal g with home := p, grace := none } } p))

/-- R812: configuration requests get CRS until configuration is ready and PERST is released; then the identity dwords read as
the device's, other dwords as written, and MSI-X control, table entries, the completion timeout and the CXL.mem enable
take their values. -/
def Obligations.ConfigurationRequests : Prop :=
  ∀ (p : Port) (s : State),
    (∀ r, s.dev.configReady = false ∨ (s.port p).perstHigh = false →
      exec (.configRequest p r) s = .next { s with out := s.out ++ [.retryStatus p] }) ∧
    (s.dev.configReady = true → (s.port p).perstHigh = true →
      exec (.configRequest p (.read 0)) s =
        .next { s with out := s.out ++ [.configDone p (0x00480000 ||| Config.vendorId.setWidth 32)] } ∧
      (∀ d, d ≠ 0 → d ≠ 2 → exec (.configRequest p (.read d)) s =
        .next { s with out := s.out ++ [.configDone p (mget (Config.cfgSpace d) (s.port p).cfg d)] }) ∧
      (∀ d v, d ≠ 0 → d ≠ 2 → exec (.configRequest p (.write d v)) s = .next ((s.setPort p { s.port p with
        cfg := mset (Config.cfgSpace d) (s.port p).cfg d v }).send (.configDone p 0))) ∧
      (∀ en mask, exec (.configRequest p (.msixControl en mask)) s = .next (((s.setPort p { s.port p with
        msixEnable := en, funcMask := mask }).sendPending p).send (.configDone p 0))) ∧
      (∀ v a d m, v < 2048 → exec (.configRequest p (.msixEntry v a d m)) s = .next (((s.setPort p { s.port p with
        msix := mset {} (s.port p).msix v { addr := a, data := d, masked := m } }).sendPending p).send (.configDone p 0))) ∧
      (∀ v, exec (.configRequest p (.cplTimeout v)) s =
        .next ((s.setPort p { s.port p with cplTimeout := v }).send (.configDone p 0))) ∧
      ∀ en, exec (.configRequest p (.cxlMem en)) s =
        .next ((s.setPort p { s.port p with cxlMem := en }).send (.configDone p 0)))

/-! ## The Keeper (R168 to R171) -/

/-- R169, R170: the outcomes of Table 4-10, each recorded in LAST as the writing port sees it, and of a give, which frees
the slot only when the writing port holds it with that token. R171: a lease that has run out breaks its slot, which
becomes free with BROKEN set and its bit set in KEEPER_BROKEN, and a record is written to the log or counted LOST;
before then nothing happens. -/
def Obligations.KeeperTakesGivesExpires : Prop :=
  (∀ (p : Port) (n : Fin 64) (tk : BitVec 16) (lease : BitVec 12) (s : State) (x : KeeperSlot), s.pace.tripped = false →
      x = s.slot n →
      let ends : Option Nat := if lease = 0 then none else some (s.tb.elapsed + ms lease.toNat)
      (5 ≤ n.val → n.val ≤ 15 → exec (.keeperTake p n tk lease) s = .next (s.setSlot n (x.setLast p .refusedReserved))) ∧
      (¬ (5 ≤ n.val ∧ n.val ≤ 15) →
        (tk = 0 → exec (.keeperTake p n tk lease) s = .next (s.setSlot n (x.setLast p .badToken))) ∧
        (tk ≠ 0 → x.holder = none → exec (.keeperTake p n tk lease) s = .next (s.setSlot n
          ({ x with holder := some (p, tk), gen := x.gen + 1, expiry := ends }.setLast p .granted))) ∧
        (tk ≠ 0 → x.holder = some (p, tk) →
          exec (.keeperTake p n tk lease) s = .next (s.setSlot n ({ x with expiry := ends }.setLast p .granted))) ∧
        (tk ≠ 0 → x.holder ≠ none → x.holder ≠ some (p, tk) →
          exec (.keeperTake p n tk lease) s = .next (s.setSlot n (x.setLast p .refusedHeld)))) ∧
      (x.holder = some (p, tk) → exec (.keeperGive p n tk) s =
        .next (s.setSlot n ({ x with holder := none, broken := false, expiry := none }.setLast p .granted))) ∧
      (x.holder ≠ some (p, tk) → exec (.keeperGive p n tk) s = .next (s.setSlot n (x.setLast p .badToken)))) ∧
  (∀ (n : Fin 64) (d : Nat) (s : State), (s.slot n).expiry = some d → (s.slot n).holder ≠ none →
      (s.tb.elapsed < d → exec (.keeperLeaseExpiry n) s = .next s) ∧
      (d ≤ s.tb.elapsed → ∃ t, exec (.keeperLeaseExpiry n) s = .next t ∧
        t.slot n = { s.slot n with holder := none, broken := true, expiry := none } ∧ (∀ j, j ≠ n.val → t.slot j = s.slot j) ∧
        t.keeper.brokenBits = s.keeper.brokenBits ||| BitVec.ofNat 64 (2 ^ n.val) ∧
        (t.faults.head = s.faults.head + 1 ∨ t.faults.lost = min 65535 (s.faults.lost + 1)) ∧
        t.gals = s.gals ∧ t.hearths = s.hearths ∧ t.wos = s.wos))

/-! ## The Ledger (R153, R163, R181 to R196) -/

/-- R184: at most one port holds a line in E, and while it does the other port holds that line in I; every step keeps it. -/
def Obligations.LedgerHoldsOneOwner : Prop :=
  ∀ s t : State,
    let one (u : State) : Prop := mwf {} u.ledger.lines = true ∧
      ∀ l, ((u.line l).a = .e → (u.line l).b = .i) ∧ ((u.line l).b = .e → (u.line l).a = .i)
    one s → step s = .next t → one t

/-- R182: how a LEDG_CFG write is judged, in order; SNP_TIMEOUT is bits [23:8] and EXCH_MIB bits [6:0]. -/
def Obligations.LedgerConfigurationJudged : Prop :=
  ∀ (p : Port) (v : W32) (s : State) (tmo mib : Nat), s.pace.tripped = false → (s.dev.ready = true ∨ s.dev.recovery = true) →
    tmo = v.toNat / 256 % 65536 → mib = v.toNat % 128 →
    let answer (r : LedgResult) : State := { s with ledger := { s.ledger with result := r } }
    (s.holds p 0 = false → exec (.ledgCfg p v) s = .next (answer .notOwner)) ∧
    (s.holds p 0 = true → (tmo < 100 ∨ 64 < mib) → exec (.ledgCfg p v) s = .next (answer .range)) ∧
    (s.holds p 0 = true → 100 ≤ tmo → mib ≤ 64 → mib ≠ s.ledger.exchMib → s.heldLines ≠ 0 →
      exec (.ledgCfg p v) s = .next (answer .linesHeld)) ∧
    (s.holds p 0 = true → 100 ≤ tmo → mib ≤ 64 → (mib = s.ledger.exchMib ∨ s.heldLines = 0) →
      exec (.ledgCfg p v) s = .next { s with ledger := { s.ledger with snpTimeout := tmo, exchMib := mib, result := .ok } })

/-- R153, R163: an access beyond EXCH_MIB: an M2S read returns poison and a write is completed and discarded, both counted in
OUT_RANGE; a BAR4 read ends in Unsupported Request, and a write is dropped and reported through AER. -/
def Obligations.AccessBeyondExchange : Prop :=
  ∀ (p : Port) (s : State),
    (∀ (r : M2SReq) (v : Verdict), s.ledger.exchMib * 0x100000 ≤ 64 * r.line →
      exec (.m2sRequest p r v) s = .next { s with
        ledger := { s.ledger with outRange := min 0xFFFFFFFF (s.ledger.outRange + 1) }
        out := s.out ++ [match r.op with | .write _ => .s2mCmp p r.line | _ => .s2mData p r.line [] true] }) ∧
    ∀ (w : Bool) (off : Nat) (d : List Byte) (be : List Bool) (vs : List Verdict), s.pace.tripped = false →
      s.ledger.exchMib * 0x100000 < off + be.length →
      exec (.bar4Access p w off d be vs) s = .next { s with out := s.out ++ [if w then .aer p else .unsupportedReq p] }

/-- R185, R186, R187, R195: a request for a line that nothing waits for is served at once when the other port's state
admits it, and the grant is recorded; otherwise the other port is snooped, for data when it holds E and S is asked
for, and the request waits. R164, R188, R195: a BAR4 access is decided as a device-side access to its lines: it is
served at once when each line is ready for it, with a read's poison, and otherwise it waits, and what then waits ahead
is pumped. R195, R719, R721: a read that is served is judged by the check of its line, and a lost line is answered as
poison. -/
def Obligations.ExchangeRequestsServed : Prop :=
  (∀ (p : Port) (l : Nat) (v : Verdict) (s : State) (x : Line) (q : Port), Canon s → x = s.line l → q = otherPort p →
      64 * l < s.ledger.exchMib * 0x100000 → x.snoopA = none → x.snoopB = none → x.waiting = [] →
      let w := s.judgeLine v (s.exchStart + 64 * l)
      let data : Out := .s2mData p l (bytesAt w.shared (s.exchStart + 64 * l) 64)
        (x.poison || w.isLost ((s.exchStart + 64 * l) / 64))
      let served (op : M2SOp) (h : LineHold) : Prop := ∃ t, exec (.m2sRequest p ⟨l, op⟩ v) s = .next t ∧
        t = { w with ledger := { s.ledger with lines := t.ledger.lines }, out := w.out ++ [data] } ∧ t.line l = x.setHold p h ∧
        ∀ j, j ≠ l → t.line j = s.line j
      let snooped (op : M2SOp) (inv : Bool) : Prop := ∃ t, exec (.m2sRequest p ⟨l, op⟩ v) s = .next t ∧
        t = { s with ledger := { s.ledger with lines := t.ledger.lines }, out := s.out ++ [.bisnp q l inv] } ∧
        t.line l = { x.setSnoop q (some s.tb.elapsed) with waiting := [.m2s p ⟨l, op⟩ v] } ∧ ∀ j, j ≠ l → t.line j = s.line j
      (x.holdOf q ≠ .e → served .readS .s ∧ served .readI .i) ∧ (x.holdOf q = .e → snooped .readS false ∧ snooped .readI false) ∧
      (x.holdOf q = .i → served .readE .e) ∧ (x.holdOf q ≠ .i → snooped .readE true) ∧
      ∀ d : List Byte,
        (x.holdOf q = .i → exec (.m2sRequest p ⟨l, .write d⟩ v) s =
          .next ((((s.unwait (.m2s p ⟨l, .write d⟩ v) l).putExch (64 * l) (fullMask d)).send (.s2mCmp p l)).pumpLines [l])) ∧
        (x.holdOf q ≠ .i → snooped (.write d) true)) ∧
  (∀ (p : Port) (off : Nat) (d : List Byte) (be : List Bool) (vs : List Verdict) (s : State), s.pace.tripped = false →
      off + be.length ≤ s.ledger.exchMib * 0x100000 →
      let rd : Waiter := .bar4 p false off d be vs
      let wr : Waiter := .bar4 p true off d be vs
      let ls := linesOf off be.length
      ((∀ l ∈ ls, (s.line l).readyFor rd .devRead = true) → exec (.bar4Access p false off d be vs) s =
        .next (((ls.foldl (fun t l => t.unwait rd l) s).serveBar4 p false off d be vs).pumpLines ls)) ∧
      ((∀ l ∈ ls, (s.line l).readyFor wr .devWrite = true) → exec (.bar4Access p true off d be vs) s =
        .next (((ls.foldl (fun t l => t.unwait wr l) s).putExch off
          (d.zip (be.map fun b => if b then 0xFF else 0x00))).pumpLines ls)) ∧
      ((∃ l ∈ ls, (s.line l).readyFor rd .devRead = false) →
        exec (.bar4Access p false off d be vs) s = .next (ls.foldl (fun t l => t.askLine rd .devRead l) s)) ∧
      ((∃ l ∈ ls, (s.line l).readyFor wr .devWrite = false) →
        exec (.bar4Access p true off d be vs) s = .next (ls.foldl (fun t l => t.askLine wr .devWrite l) s)))

/-- R185, R189, R190, R191, R196: a BIRsp records what it reports and resolves the snoop; a late one is only counted. A
clean eviction and a dirty write-back record I and resolve an unresolved snoop, counted in CROSSED; a write-back whose
grant was not withdrawn writes its 64 B before any waiting access proceeds. R192, R194: a conflict is acknowledged. A
snoop that has been unresolved for SNP_TIMEOUT µs resolves with I recorded for the port, the line poisoned if the port
held it in E, and both counted; before then nothing happens. -/
def Obligations.SnoopsEnd : Prop :=
  (∀ (p : Port) (l : Nat) (s : State) (x : Line), x = s.line l →
      let crossed (u : State) : State := { u with ledger := { u.ledger with crossed := min 65535 (u.ledger.crossed + 1) } }
      (∀ st : BiState, x.snoopOf p ≠ none → exec (.birsp p l st) s =
        .next ((s.setLine l (x.setHold p (match st with | .i => .i | .s => .s))).resolveSnoop l p)) ∧
      (∀ st : BiState, x.snoopOf p = none → x.lateOf p = true → exec (.birsp p l st) s = .next { s with ledger := { s.ledger with
        lines := mset {} s.ledger.lines l (x.setLate p false), lateRsp := min 65535 (s.ledger.lateRsp + 1) } }) ∧
      (∀ st : BiState, x.snoopOf p = none → x.lateOf p = false → exec (.birsp p l st) s = .next s) ∧
      (Canon s → x.snoopOf p = none → exec (.memclnevct p l) s = .next (s.setLine l (x.setHold p .i))) ∧
      (Canon s → x.snoopOf p ≠ none → exec (.memclnevct p l) s =
        .next ((crossed (s.setLine l ((x.setHold p .i).setLate p true))).resolveSnoop l p)) ∧
      (∀ d, x.holdOf p = .i → exec (.dirtyWriteBack p l d) s = .next { s with out := s.out ++ [.s2mCmp p l] }) ∧
      ∀ d, x.holdOf p ≠ .i → ∃ u, u = s.putExch (64 * l) (fullMask d) ∧ exec (.dirtyWriteBack p l d) s =
        .next (((u.setLine l ((u.line l).setHold p .i)).crossSnoop p l).send (.s2mCmp p l))) ∧
  (∀ (p : Port) (l d : Nat) (s : State) (x : Line), x = s.line l →
      exec (.biconflict p l) s = .next { s with out := s.out ++ [.biConflictAck p l] } ∧
      (x.snoopOf p = some d → x.snoopOf (otherPort p) = none →
        (s.tb.elapsed < d + us s.ledger.snpTimeout → exec (.snoopTimeout l) s = .next s) ∧
        (Canon s → x.waiting = [] → d + us s.ledger.snpTimeout ≤ s.tb.elapsed → ∃ t, exec (.snoopTimeout l) s = .next t ∧
          t.line l = { (x.setHold p .i).setSnoop p none with poison := x.poison || decide (x.holdOf p = .e) } ∧
          t.ledger.timeouts = min 65535 (s.ledger.timeouts + 1) ∧
          t.ledger.poisoned = min 65535 (s.ledger.poisoned + (if x.holdOf p = .e then 1 else 0)))))

/-! ## Zhema programs (chapters 7 to 11) -/

/-- R312, R329 to R335, R296, R311: the CTL class. A transfer goes to a target that is a multiple of 8 within the program, or
raises PC_RANGE; CALL and RET raise CALL_DEPTH beyond the return stack; TRAP raises TRAP_n; a word that no list holds raises
ILLEGAL. -/
def Obligations.ControlInstructions : Prop :=
  ∀ (s : State) (h : HearthId) (k : StokerId) (w e : Nat) (x : Stoker) (goes : Instr → Stoker → Int → Prop),
    Canon s → x = s.stoker h k →
    (∀ c y (t : Int), goes c y t ↔
      (t % 8 = 0 → (x.base : Int) ≤ t → t < x.base + x.len → Does c s h k s (s.hearth h) { y with pc := t.toNat } true) ∧
      ((t % 8 ≠ 0 ∨ t < x.base ∨ (x.base : Int) + x.len ≤ t) → exec c s = .next (s.faultIssue h k fPcRange))) →
    (Issues s h k w e [] → NoDst w →
      (Fields w 0 0 0 0 0 0 → Does (.nop h k) s h k s (s.hearth h) (past x 1) true) ∧
      (Fields w 0 1 0 0 0 (zImm w) → goes (.jmp h k) (past x 1) (x.pc + 8 * signed 24 (zImm w))) ∧
      (Fields w 0 2 0 0 0 (zImm w) → goes (.br h k) (past x 1) (x.pc + 8 * signed 24 (zImm w))) ∧
      (Fields w 0 3 0 0 0 (zImm w) →
        (x.stack.length < 8 → goes (.call h k) { past x 1 with stack := (x.pc + 8) :: x.stack } (x.pc + 8 * signed 24 (zImm w))) ∧
        (8 ≤ x.stack.length → exec (.call h k) s = .next (s.faultIssue h k fCallDepth))) ∧
      (Fields w 0 4 0 0 0 0 →
        (∀ a rest, x.stack = a :: rest → goes (.ret h k) { past x 1 with stack := rest } a) ∧
        (x.stack = [] → exec (.ret h k) s = .next (s.faultIssue h k fCallDepth))) ∧
      (Fields w 0 7 0 0 0 (zImm w) → zImm w < 64 →
        exec (.trap h k) s = .next (s.faultIssue h k (BitVec.ofNat 8 (0xC0 + zImm w)))) ∧
      (Fields w 0 8 0 0 0 0 → ∃ ks : List Nat, Does (.yield h k) s h k s (s.hearth h) { past x 1 with yieldFor := ks } true ∧
        (∀ j : Nat, j ∈ ks → j < 16 ∧ j ≠ k ∧ (s.stoker h j).st = .ready ∧ (s.stoker h j).pend = []) ∧
        ∀ j : Nat, j < 16 → j ≠ k → (s.stoker h j).st = .ready → (s.stoker h j).pend = [] → (∀ i ∈ (s.stoker h j).yieldFor, i = k.val) →
          j ∈ ks)) ∧
    (Issues s h k w e [sDst (zA w)] → NoDst w →
      (Fields w 0 1 (zA w) 0 1 0 → goes (.jmp h k) (past x 1) ((x.base : Int) + (x.sreg (zA w)).toNat)) ∧
      ∀ sub, Fields w 0 2 (zA w) 0 sub (zImm w) → (sub = 1 ∨ sub = 2) →
        ((x.sreg (zA w) = 0 ↔ sub = 1) → goes (.br h k) (past x 1) (x.pc + 8 * signed 24 (zImm w))) ∧
        (¬ (x.sreg (zA w) = 0 ↔ sub = 1) → Does (.br h k) s h k s (s.hearth h) (past x 1) true)) ∧
    (Issues s h k w e [zDstReg w] → zDstInFile w = true → Fields w 0 5 0 0 0 (zImm w) → (zSpace w = 0 ∨ zSpace w = 2) →
      ∀ c : W64, c = (if zSpace w = 0 then x.sreg (zDst w) else (x.lreg (zDst w)).setWidth 64) →
        (c = 0 → Does (.loop h k) s h k s (s.hearth h) (past x 1) true) ∧
        (c = 1 → Does (.loop h k) s h k s (s.hearth h) ((past x 1).write (zDstReg w) 0) true) ∧
        (c ≠ 0 → c ≠ 1 → goes (.loop h k) ((past x 1).write (zDstReg w) (c - 1)) (x.pc + 8 * signed 24 (zImm w)))) ∧
    (s.pace.tripped = false → (s.hearth h).canIssue k = true → x.inProgram x.pc = true → (s.hearth h).word x.pc = w →
      zListed (zClass w) (zOp w) = false → (zClass w = 0x3F ∨ zClass w = 0 ∨ zOp w < 32 ∨ x.inProgram (x.pc + 8) = true) →
      exec (.illegal h k) s = .next (s.faultIssue h k fIllegal))

/-- R313, R336 to R339: the ALU class. Operand a comes from the file that ASPACE names, operand b from s[SRCB] or the
sign-extended immediate; the result goes to the register of DST, and nothing else changes. -/
def Obligations.AluInstructions : Prop :=
  ∀ (s : State) (h : HearthId) (k : StokerId) (w e : Nat) (x : Stoker) (a b : W64) (uses : List Dst)
    (gives : Instr → W64 → Prop),
    Canon s → x = s.stoker h k → ToReg w → zClass w = 1 → bits (zSub w) 5 2 ≠ 3 →
    uses = zDstReg w :: aluRegA w :: (if bitAt (zSub w) 0 then [] else [sDst (zB w)]) →
    (bits (zSub w) 5 2 = 0 → a = x.sreg (zA w)) →
    (bits (zSub w) 5 2 = 1 → zA w < 4 ∧ a = (x.lreg (zA w)).setWidth 64) →
    (bits (zSub w) 5 2 = 2 → zA w < 8 ∧ a = if x.preg (zA w) then 1 else 0) →
    (bitAt (zSub w) 0 = true → b = BitVec.ofInt 64 (signed 24 (zImm w))) →
    (bitAt (zSub w) 0 = false → b = x.sreg (zB w)) →
    (∀ c v, gives c v ↔ Does c s h k s (s.hearth h) ((past x 1).write (zDstReg w) v) true) →
    (Issues s h k w e uses → (bitAt (zSub w) 0 = true → zB w = 0) → (bitAt (zSub w) 0 = false → zImm w = 0) →
      (bits (zSub w) 1 4 = 0 →
        (zOp w = 1 → gives (.add h k) (a + b)) ∧ (zOp w = 2 → gives (.sub h k) (a - b)) ∧
        (zOp w = 3 → gives (.mul h k) (a * b)) ∧ (zOp w = 4 → gives (.and h k) (a &&& b)) ∧
        (zOp w = 5 → gives (.or h k) (a ||| b)) ∧ (zOp w = 6 → gives (.xor h k) (a ^^^ b)) ∧
        (zOp w = 7 → gives (.shl h k) (a <<< (b.toNat % 64))) ∧ (zOp w = 8 → gives (.shr h k) (a >>> (b.toNat % 64))) ∧
        (zOp w = 9 → gives (.sra h k) (a.sshiftRight (b.toNat % 64))) ∧
        (zOp w = 10 → gives (.min h k) (if b.toInt < a.toInt then b else a)) ∧
        (zOp w = 11 → gives (.max h k) (if b.toInt < a.toInt then a else b))) ∧
      (bits (zSub w) 1 4 = 1 →
        (zOp w = 10 → gives (.min h k) (if b.toNat < a.toNat then b else a)) ∧
        (zOp w = 11 → gives (.max h k) (if b.toNat < a.toNat then a else b))) ∧
      (∀ p : Prop, [a = b, a ≠ b, a.toInt < b.toInt, b.toInt ≤ a.toInt, a.toInt ≤ b.toInt, b.toInt < a.toInt, a.toNat < b.toNat,
          b.toNat ≤ a.toNat, a.toNat ≤ b.toNat, b.toNat < a.toNat][bits (zSub w) 1 4]? = some p → zOp w = 12 →
        (p → gives (.cmpCc h k) 1) ∧ (¬ p → gives (.cmpCc h k) 0)) ∧
      (∀ q, q < 8 → bits (zSub w) 1 4 = q → pDst q ∉ x.pend → zOp w = 13 → gives (.sel h k) (if x.preg q then a else b))) ∧
    (zB w = 0 → bits (zSub w) 0 5 = 0 →
      (zOp w = 14 → zSub w = 0 → zA w = 0 → Issues s h k w e [zDstReg w] →
        gives (.movi h k) (BitVec.ofInt 64 (signed 24 (zImm w)))) ∧
      (zOp w = 15 → Issues s h k w e [zDstReg w, aluRegA w] →
        gives (.movhi h k) (((BitVec.ofInt 64 (signed 24 (zImm w))) <<< 32) ||| (a &&& 0xFFFFFFFF))) ∧
      (zOp w = 32 → zSub w = 0 → zA w = 0 → e < 2 ^ 40 → Issues s h k w e [zDstReg w] →
        Does (.moviX h k) s h k s (s.hearth h) ((past x 2).write (zDstReg w) (BitVec.ofNat 64 (e * 2 ^ 24 + zImm w))) true) ∧
      (zOp w = 33 → zImm w = 0 → e < 2 ^ 32 → Issues s h k w e [zDstReg w, aluRegA w] →
        Does (.movhiX h k) s h k s (s.hearth h)
          ((past x 2).write (zDstReg w) ((BitVec.ofNat 64 e <<< 32) ||| (a &&& 0xFFFFFFFF))) true))

/-- R313, R314, R320, R341: the MEM class. A load or LDARG issues once every earlier load has returned, and its register waits
for the value; LDARG of an index of Table 7-5 needs no access; any other index raises ARG_RANGE. -/
def Obligations.MemoryInstructions : Prop :=
  ∀ (s : State) (h : HearthId) (k : StokerId) (w e : Nat) (x : Stoker), Canon s → x = s.stoker h k →
    (∀ size : Nat, size = 2 ^ bits (zSub w) 0 2 →
      (Issues s h k w e [sDst (zA w), zDstReg w] → ToReg w → Fields w 2 1 (zA w) 0 (zSub w) (zImm w) → zSub w < 7 →
        s.memReadsOut h k x.seq = false →
        Does (.ld h k) s h k
          (withAccess s h k .memLoad (.load (zDstReg w) size (bitAt (zSub w) 2)) (addressOf x w) [{ va := addressOf x w, len := size }])
          (s.hearth h) ((past x 1).await (zDstReg w)) true) ∧
      (Issues s h k w e [sDst (zA w), sDst (zB w)] → NoDst w → Fields w 2 2 (zA w) (zB w) (zSub w) (zImm w) → zSub w < 4 →
        Does (.st h k) s h k
          (withAccess s h k .memStore .store (addressOf x w)
            [{ va := addressOf x w, len := size, wdata := fullMask (natLe size (x.sreg (zB w)).toNat) }])
          (s.hearth h) (past x 1) true)) ∧
    ∀ (i : Nat) (o : WorkOrder), s.wo? x.wo = some o → ToReg w →
      ((Fields w 2 3 0 0 0 i ∧ i < 4096 ∧ Issues s h k w e [zDstReg w]) ∨
        (Fields w 2 3 (zA w) 0 1 0 ∧ i = (x.sreg (zA w)).toNat ∧ Issues s h k w e [sDst (zA w), zDstReg w])) →
      (i < o.argCount → s.memReadsOut h k x.seq = false →
        Does (.ldarg h k) s h k
          (withAccess s h k .ldarg (.ldarg (zDstReg w)) (o.argAddr + 8 * i) [{ va := o.argAddr + 8 * i, len := 8 }])
          (s.hearth h) ((past x 1).await (zDstReg w)) true) ∧
      (o.argCount ≤ i → ∀ v : Nat,
        (i = 0x100 ∧ v = ((List.range h).filter fun j => hbit o.hearths j).length) ∨
        (i = 0x101 ∧ v = ((List.range 48).filter fun j => hbit o.hearths j).length) ∨ (i = 0x102 ∧ v = h) ∨
        (i = 0x103 ∧ v = o.gal) ∨ (i = 0x104 ∧ v = o.queue) ∨ (i = 0x105 ∧ v = o.tag.toNat) ∨ (i = 0x106 ∧ v = o.argCount) →
        Does (.ldarg h k) s h k s (s.hearth h) ((past x 1).write (zDstReg w) (BitVec.ofNat 64 v)) true) ∧
      (o.argCount ≤ i → (i < 0x100 ∨ 0x106 < i) → exec (.ldarg h k) s = .next (s.faultIssue h k fArgRange))

/-- R248, R253 to R258: fences and FLAG operations. A fence parks its Stoker until its condition holds; a release holds later
writes; FLAG.ADD and FLAG.WAIT issue once every earlier load has returned; a watched flag that meets the condition is
delivered. -/
def Obligations.FencesAndFlags : Prop :=
  ∀ (s : State) (h : HearthId) (k : StokerId) (w e : Nat) (x : Stoker) (r : Rel), Canon s → x = s.stoker h k →
    r = { seq := x.seq, reads := s.streamReads h k } →
    (Issues s h k w e [] → NoDst w →
      (∀ (c : Instr) (full : Bool), (c = .fenceAcq h k ∧ full = false ∧ Fields w 3 1 0 0 0 0) ∨
          (c = .fenceFull h k ∧ full = true ∧ Fields w 3 3 0 0 0 0) →
        (s.fenceDone h k x.seq full = true → Does c s h k s (s.hearth h) (past x 1) true) ∧
        (s.fenceDone h k x.seq full = false →
          Does c s h k s (s.hearth h) { past x 1 with st := .parkedFence, wait := .fence x.seq full } false)) ∧
      (Fields w 3 2 0 0 0 0 →
        (s.waitsOnHalt h k x.seq = false → Does (.fenceRel h k) s h k s (s.hearth h)
          { past x 1 with rels := (x.rels ++ [r]).filter fun q => !s.relDone h k q } true) ∧
        (s.waitsOnHalt h k x.seq = true → Does (.fenceRel h k) s h k s (s.hearth h)
          { past x 1 with rels := x.rels ++ [r], st := .parkedFence, wait := .rel x.seq } false))) ∧
    (Issues s h k w e [sDst (zA w), sDst (zB w)] → NoDst w → Fields w 3 4 (zA w) (zB w) 0 (zImm w) →
      Does (.flagSet h k) s h k
        (withAccess s h k .flagSet .flagSet (addressOf x w)
          [{ va := addressOf x w, len := 8, wdata := fullMask (natLe 8 (x.sreg (zB w)).toNat) }])
        (s.hearth h) { past x 1 with rels := x.rels ++ [r] } true) ∧
    (Issues s h k w e [sDst (zA w), sDst (zB w), zDstReg w] → ToReg w → s.memReadsOut h k x.seq = false →
      (Fields w 3 5 (zA w) (zB w) 0 (zImm w) →
        Does (.flagAdd h k) s h k
          (withAccess s h k .flagAdd (.flagAdd (zDstReg w) (x.sreg (zB w))) (addressOf x w) [{ va := addressOf x w, len := 8 }])
          (s.hearth h) { (past x 1).await (zDstReg w) with rels := x.rels ++ [r], adds := x.adds ++ [x.seq] } true) ∧
      ∀ cc, cc < 10 → Fields w 3 6 (zA w) (zB w) (2 * cc) (zImm w) →
        Does (.flagWaitCc h k) s h k
          (withAccess s h k .flagWait (.flagWait (zDstReg w) cc (x.sreg (zB w))) (addressOf x w) [{ va := addressOf x w, len := 8 }])
          (s.hearth h) { past x 1 with st := .parkedFlag, wait := .flag (addressOf x w) (zDstReg w) cc (x.sreg (zB w)) } false) ∧
    ∀ va dst cc b o seg v, x.wait = .flag va dst cc b → (∀ a ∈ s.accs, a.hearth = h.val → a.stoker = k.val → a.agent ≠ .flagWait) →
      (∀ a ∈ s.accs, (match a.kind with | .flagWait _ _ _ => a.agent = .flagWait | _ => True)) →
      s.check x.gal .flagWait va = .ok (.shared o) seg → s.sharedLost o 8 = false →
      v = BitVec.ofNat 64 (leNat (bytesAt s.shared o 8)) →
      (condHolds cc v b = true → exec (.flagReread h k) s = .next (s.setStoker h k
        { x.write dst v with st := .parkedFence, wait := .fence x.seq false })) ∧
      (condHolds cc v b = false → exec (.flagReread h k) s = .next s)

/-- R345 to R348: DAMPER arrives once its implied FENCE.FULL is complete; when the last participant of its work order has
arrived, every Stoker parked at the round is READY again. R350, R352: TIME.RD reads the whole nanoseconds of TIME, or
TIME_EPOCH; PACE.RD reads the PACE of its own Hearth while it is valid, else 0. Both write one register and nothing
else. -/
def Obligations.DampersTimeAndPace : Prop :=
  (∀ (s : State) (h : HearthId) (k : StokerId) (w e : Nat) (x : Stoker), Canon s → x = s.stoker h k →
      (Issues s h k w e [] → NoDst w → Fields w 3 7 0 0 0 0 → (∀ n, x.wait ≠ .damperFence n) →
        (s.fenceDone h k x.seq true = true → Does (.damper h k) s h k s (s.hearth h)
          { past x 1 with st := .parkedDamper, wait := .damper, rounds := x.rounds + 1 } false) ∧
        (s.fenceDone h k x.seq true = false → Does (.damper h k) s h k s (s.hearth h)
          { past x 1 with st := .parkedFence, wait := .damperFence x.seq } false)) ∧
      (∀ n, x.wait = .damperFence n → s.fenceDone h k n true = true → exec (.damper h k) s =
        .next (s.setStoker h k { x with st := .parkedDamper, wait := .damper, rounds := x.rounds + 1 })) ∧
      ∀ (wo : Nat) (ps : List (Nat × Nat)), ps = (s.stokersOf wo).filter (fun p => decide ((s.stoker p.1 p.2).wait = .damper)) →
        ps ≠ [] → (∀ p ∈ s.stokersOf wo, s.arrived p.1 p.2 = true) →
        ∃ t, exec (.damperRoundEnd wo) s = .next t ∧ t = { s with hearths := t.hearths, wos := t.wos } ∧
          (∀ i j, t.stoker i j = if (i, j) ∈ ps then { s.stoker i j with st := .ready, wait := .none } else s.stoker i j) ∧
          t.wos = s.wos.map fun o => if o.id = wo then
            { o with damperRound := o.damperRound + 1, progress := o.progress + ps.length } else o) ∧
  (∀ (s : State) (h : HearthId) (k : StokerId) (w e : Nat) (x : Stoker), Canon s → x = s.stoker h k →
      Issues s h k w e [zDstReg w] → ToReg w →
      (Fields w 3 8 0 0 0 0 → Does (.timeRd h k) s h k s (s.hearth h)
        ((past x 1).write (zDstReg w) ((s.tb.time >>> 16).setWidth 64)) true) ∧
      (Fields w 3 8 0 0 1 0 → Does (.timeRd h k) s h k s (s.hearth h)
        ((past x 1).write (zDstReg w) (s.tb.epoch.setWidth 64)) true) ∧
      (Fields w 3 9 0 0 0 0 → Does (.paceRd h k) s h k s (s.hearth h)
        ((past x 1).write (zDstReg w) (if (s.paceHearth h).valid then (s.paceHearth h).pace.setWidth 64 else 0)) true))

/-- R359 to R365: STR.OPEN and STR.OPEN.L of an unbound handle start the read of a 128 B descriptor and ask for their tags; the
Stoker parks while they are not granted. The first opening that waits gets its tags once enough are free, and one whose
descriptor has come is then bound. -/
def Obligations.StreamsOpen : Prop :=
  ∀ (s : State) (h : HearthId) (k : StokerId) (w e : Nat) (x : Stoker) (z : Hearth), Canon s → x = s.stoker h k → z = s.hearth h →
    (∀ (c : Instr) (n : Nat) (lens : List (Nat × Nat)) (uses : List Dst) (tags : Nat) (o : Opening) (y : Stoker),
      (c = .strOpen h k ∧ zOp w = 1 ∧ n = 1 ∧ lens = [] ∧ uses = []) ∨
        (c = .strOpenL h k ∧ zOp w = 0x20 ∧ n = 2 ∧ extLegal e = true ∧ lens = extLens x e ∧ uses = extUses e) →
      Issues s h k w e (sDst (zA w) :: uses) → Fields w 8 (zOp w) (zA w) 0 0 (zImm w) → zSpace w = 3 → zDst w < 16 →
      zImm w < 1024 → bits (zImm w) 8 2 ≠ 3 → tags = bits (zImm w) 0 8 + 1 →
      x.stream? (zDst w) = none → s.opening h k (zDst w) = false → (x.sreg (zA w)).toNat % 8 = 0 →
      o = { handle := zDst w, stoker := k, pc := x.pc, tags := tags, lens := lens
            mode := (match bits (zImm w) 8 2 with | 0 => .pull | 1 => .push | _ => .grate)
            granted := decide (tags ≤ z.freeTags) && z.openings.all fun p => p.granted } →
      y = (if o.granted then past x n else { past x n with st := .parkedStream, wait := .tags (zDst w) }) →
      Does c s h k
        (withAccess s h k .streamRead (.strDesc (zDst w)) (x.sreg (zA w)).toNat (byteRuns (x.sreg (zA w)).toNat 128))
        { z with openings := z.openings ++ [o], openWaits := if o.granted then z.openWaits else satAdd 65535 z.openWaits 1 }
        y o.granted) ∧
    ∀ o, z.openings.find? (fun p => !p.granted) = some o →
      (z.freeTags < o.tags → exec (.strOpenTags h) s = .next s) ∧
      (o.tags ≤ z.freeTags → (∀ p ∈ z.openings, p.granted = true → p.desc = none) →
        (∀ p ∈ z.openings, p.stoker = o.stoker → p.handle = o.handle → p = o) →
        (o.desc = none → exec (.strOpenTags h) s = .next (s.setHearth h { z with
          openings := z.openings.map fun p => if p = o then { p with granted := true } else p })) ∧
        ∀ d raw, o.desc = some (d, raw) → ∃ t q, exec (.strOpenTags h) s = .next t ∧ t = { s with hearths := t.hearths } ∧
          t.hearth h = { z with stokers := (t.hearth h).stokers, openings := z.openings.filter fun p => decide (p ≠ o) } ∧
          (t.stoker h o.stoker).stream? o.handle = some q ∧ q.mode = o.mode ∧ q.desc = d ∧ q.cut = d.cutWith o.lens ∧
          q.tags = o.tags ∧ q.assigned = 0 ∧ q.ops = [] ∧ q.halt = none)

/-- R366 to R374, R377: STR.PULL and STR.PUSH assign at most the elements that are left and write their number, or park while 16
operations are incomplete; STR.WAIT goes on once all but the newest k have completed; STR.POS reads a field of the position
record; STR.CLOSE unbinds the handle once nothing of the stream is left. -/
def Obligations.StreamOperations : Prop :=
  ∀ (s : State) (h : HearthId) (k : StokerId) (w e d : Nat) (x : Stoker) (q : Stream), Canon s → x = s.stoker h k →
    d = bits (zSub w) 0 4 → x.stream? d = some q →
    (∀ (c : Instr) (push : Bool) (n m : Nat) (uses : List Dst), (c = .strPull h k ∧ zOp w = 2 ∧ push = false) ∨
        (c = .strPush h k ∧ zOp w = 3 ∧ push = true) →
      (zSub w = d + 16 ∧ zB w = 0 ∧ n = zImm w ∧ uses = [] ∨ zSub w = d ∧ zImm w = 0 ∧ n = (x.sreg (zB w)).toNat ∧ uses = [sDst (zB w)]) →
      Issues s h k w e (sDst (zA w) :: zDstReg w :: uses) → ToReg w → zClass w = 8 → m = min n (q.total - q.assigned) →
      (q.mode = .push ↔ push = true) → (q.mode = .grate → zA w = 0) →
      (q.desc.fmt.bits = 4 → m % 2 = 1 → m = q.total - q.assigned) →
      (q.mode ≠ .grate → (x.sreg (zA w)).toNat % q.desc.fmt.size = 0) →
      (16 ≤ q.ops.length → Does c s h k s (s.hearth h)
        { x with yieldFor := [], st := .parkedStream, wait := .room d } false) ∧
      (q.ops.length < 16 → (q.mode ≠ .grate → m ≠ 0 → hobAperture ≤ (x.sreg (zA w)).toNat ∧ (x.sreg (zA w)).toNat < 2 ^ 52 ∧
          (x.sreg (zA w)).toNat - hobAperture + (m * q.desc.fmt.bits + 7) / 8 ≤ (s.gal x.gal).hobSize.toNat * 65536) →
        Does c s h k s (s.hearth h)
          (Stoker.write { past x 1 with handles := mset none x.handles d (some { q with
              assigned := q.assigned + m, opCount := q.opCount + 1
              ops := if m = 0 then q.ops else q.ops ++ [{ first := q.assigned, count := m, hob := (x.sreg (zA w)).toNat
                                                          seq := x.seq, pc := x.pc, ord := q.opCount }] }) }
            (zDstReg w) (BitVec.ofNat 64 m)) true)) ∧
    (∀ n, n < 16 → Issues s h k w e [] → NoDst w → Fields w 8 4 0 0 d n →
      ((∀ o ∈ q.ops, q.opCount ≤ o.ord + n) → Does (.strWait h k) s h k s (s.hearth h) (past x 1) true) ∧
      (¬ (∀ o ∈ q.ops, q.opCount ≤ o.ord + n) → Does (.strWait h k) s h k s (s.hearth h)
        { past x 1 with st := if q.halted then .inFault else .parkedStream, wait := .ops d n } false)) ∧
    (∀ n, n < 8 → Issues s h k w e [zDstReg w] → ToReg w → Fields w 8 5 0 0 d n →
      ∃ v, v = s.strPosValue h k d q n ∧ (n = 6 → v = q.assigned) ∧
        Does (.strPos h k) s h k s (s.hearth h) ((past x 1).write (zDstReg w) (BitVec.ofNat 64 v)) true) ∧
    (Issues s h k w e [] → NoDst w → Fields w 8 6 0 0 d 0 →
      (s.closeDone h k d = true → Does (.strClose h k) s h k s (s.hearth h)
        { past x 1 with handles := mset none x.handles d none } true) ∧
      (s.closeDone h k d = false → Does (.strClose h k) s h k s (s.hearth h)
        { past x 1 with handles := mset none x.handles d (some { q with closing := true })
                        st := if q.halted then .inFault else .parkedStream, wait := .close d } false))

/-- R297, R334, R551, R552: HALT closes the Stoker's streams and makes it HALTED, or IN_FAULT while one is halted on an absent
page; a stream with nothing in flight that met an absent page halts: its fault record goes to the gallery's fault queue under
the next sequence number. -/
def Obligations.HaltsOfStokersAndStreams : Prop :=
  ∀ (s : State) (h : HearthId) (k : StokerId) (w e : Nat) (x : Stoker), Canon s → x = s.stoker h k →
    (Issues s h k w e [] → NoDst w → Fields w 0 6 0 0 0 0 → (∀ o ∈ (s.hearth h).openings, o.stoker ≠ k) →
      ((∀ c ∈ x.handles, ∀ q, c.2 = some q → q.halted = false) → ∃ t, exec (.halt h k) s = .next t ∧
        Ran s h k s (s.hearth h) { past x 1 with st := .halted, wait := .none, handles := (t.stoker h k).handles } true t ∧
        ∀ d, d < 16 → (t.stoker h k).stream? d =
          if s.closeDone h k d then none else (x.stream? d).map fun q => { q with closing := true }) ∧
      ((∃ c ∈ x.handles, ∃ q, c.2 = some q ∧ q.halted = true) →
        Does (.halt h k) s h k s (s.hearth h) { past x 1 with st := .inFault, wait := .halt } false)) ∧
    ∀ (d : Fin 16) (q : Stream) (z : Halt) (g : Gallery) (seq : W32) (a : Nat) (i : Option Nat),
      x.stream? d = some q → q.halt = some z → z.faultSeq = none → s.streamPieces h k d = [] → s.undecided x.wo = true →
      s.pace.tripped = false → g = s.gal x.gal → (g.fqWritten - g.fqHead).toNat ≠ 2 ^ g.fqLog2 →
      (s.port g.home).usable = true → seq = (if g.fqSeq + 1 = 0 then 1 else g.fqSeq + 1) →
      s.check x.gal .recordWrite (g.fqBase.toNat + 32 * (g.fqWritten.toNat % 2 ^ g.fqLog2)) = .ok (.host a) i →
      ∃ t u, exec (.streamHalt h k d) s = .next t ∧ (t.gal x.gal).fqSeq = seq ∧ (t.gal x.gal).fqWritten = g.fqWritten + 1 ∧
        t.stream? h k d = some u ∧ u.halt = some { z with faultSeq := some seq } ∧
        .hostWrite g.home g.pasid a (faultRecord x h k d (decide (q.mode = .push)) seq z.va z.seg
          ((s.tb.time >>> 16).setWidth 64).toNat (decide (g.fqWritten.toNat / 2 ^ g.fqLog2 % 2 = 0))) ∈ t.out ∧
        (∀ j n, x.wait = .ops d j ∨ x.wait = .close n ∧ n = d → (t.stoker h k).st = .inFault)

/-- R379 to R385, R393, R420: a claim of positions takes the lowest free ones and empties their slots and latches, or waits in
the Hearth's line until enough are free; claims are released once nothing of the Stoker's is under way on them; GRT.ZERO
makes slots ZERO; GRT.LOADB claims one tile of a B stream for a latch; SPR.DROPRD reads the dropped indices. -/
def Obligations.GratePositions : Prop :=
  ∀ (s : State) (h : HearthId) (k : StokerId) (w e : Nat) (x : Stoker) (z : Hearth), Canon s → x = s.stoker h k → z = s.hearth h →
    (∀ n, Issues s h k w e [] → NoDst w → Fields w 0x10 3 0 0 1 n → n ≤ 16 →
      (n = 0 → z.grateBusy k = false → Does (.grtZeroC h k) s h k s z { past x 1 with claim := [] } true) ∧
      (n = 0 → z.grateBusy k = true → Does (.grtZeroC h k) s h k s z { past x 1 with releasing := !x.claim.isEmpty } true) ∧
      (n ≠ 0 → x.releasing = false → x.claim = [] → (∀ c ∈ z.claims, c.ember = true) → n ≤ z.freePositions.length →
        ∃ y, Does (.grtZeroC h k) s h k s y { past x 1 with claim := z.freePositions.take n } true ∧
          y = { z with slots := y.slots, planned := y.planned, latches := y.latches, latchBy := y.latchBy, latchPlan := y.latchPlan } ∧
          ∀ i, mget {} y.slots i = if i / 8 ∈ z.freePositions.take n then {} else mget {} z.slots i) ∧
      (n ≠ 0 → x.releasing = false → x.claim = [] → (∀ c ∈ z.claims, c.ember = true ∨ c.stoker ≠ k) →
        (z.freePositions.length < n ∨ ∃ c ∈ z.claims, c.ember = false) →
        exec (.grtZeroC h k) s = .next (s.setHearth h { z with
          claims := z.claims ++ [{ stoker := k, ember := false, n := n, ashBase := 0, ashCap := 0, pc := x.pc }] }))) ∧
    (∀ c, z.claims.find? (fun c => !c.ember) = some c → (∀ d ∈ z.claims, d.ember = false) → c.n ≤ z.freePositions.length →
      ∃ y, Does (.positionClaimGrant h) s h c.stoker s y { past (s.stoker h c.stoker) 1 with claim := z.freePositions.take c.n } true ∧
        y.claims = z.claims.filter fun d => decide (d ≠ c)) ∧
    (∀ a b : Bool, a = ((x.releasing || decide (x.st = .halted) || decide (x.st = .stopping)) && !z.grateBusy k) →
      b = ((x.emberReleasing || decide (x.st = .halted) || decide (x.st = .stopping)) &&
        !s.accs.any fun r => decide (r.hearth = h.val) && decide (r.stoker = k.val) &&
          (match r.kind with | .ember _ _ _ | .emberInit | .fluWrite => true | _ => false)) →
      ∃ t, exec (.claimRelease h k) s = .next t ∧ t = { s with hearths := t.hearths } ∧
        t.hearth h = { z with stokers := (t.hearth h).stokers } ∧ (∀ j, j ≠ h.val → t.hearth j = s.hearth j) ∧
        (∀ j, j ≠ k.val → t.stoker h j = s.stoker h j) ∧
        t.stoker h k = { x with
          claim := if a then [] else x.claim, releasing := if a then false else x.releasing
          ember := if b then none else x.ember, emberReleasing := if b then false else x.emberReleasing }) ∧
    (∀ f n p, Issues s h k w e [] → NoDst w → Fields w 0x10 3 0 0 0 (zImm w) → zImm w < 1024 → x.releasing = false →
      x.claim[bits (zImm w) 0 4]? = some p → f = bits (zImm w) 4 3 → n = bits (zImm w) 7 3 + 1 → f + n ≤ 8 →
      z.slotsBusy k p f (f + n) x.seq 0 = false →
      ∃ sl pl, Does (.grtZero h k) s h k s { z with slots := sl, planned := pl } (past x 1) true ∧
        ∀ i, mget {} sl i = (if 8 * p + f ≤ i ∧ i < 8 * p + f + n then {} else mget {} z.slots i) ∧
          mget .zero pl i = (if 8 * p + f ≤ i ∧ i < 8 * p + f + n then .zero else mget .zero z.planned i)) ∧
    (∀ p b t, Issues s h k w e [] → NoDst w → Fields w 0x10 1 0 0 (zSub w) (zImm w) → (zSub w = 0 ∨ zSub w = 8) →
      gF w = 0 → gHA w = 0 → gRows w = 1 → x.releasing = false → x.claim[gJ w]? = some p → x.stream? (gHB w) = some b →
      b.mode = .grate → b.desc.latchable (decide (zSub w = 8)) = true → t = tileOf b.desc → b.claimed + t.elems ≤ b.total →
      ∃ u, exec (.grtLoadb h k) s = .next (u.settleLatches h) ∧
        Ran s h k s { z with
          loadBs := z.loadBs ++ [{ stoker := k, seq := x.seq, pos := p, hb := gHB w, bPos := b.claimed
                                   bEpoch := b.epoch + b.restarts.length, count := t.elems }]
          latchPlan := mset none z.latchPlan p (some t) }
          { past x 1 with handles := mset none x.handles (gHB w) (some { b with claimed := b.claimed + t.elems }) } true u) ∧
    (Issues s h k w e [zDstReg w] → ToReg w → Fields w 0x12 3 0 0 0 0 →
      (∀ c ∈ z.chains, c.sparse = .dense ∨ ∀ g ∈ c.groups, g.stoker ≠ k) →
      Does (.sprDroprd h k) s h k s z ((past x 1).write (zDstReg w) (BitVec.ofNat 64 x.dropped)) true)

/-- R386 to R404, R497: a checked GRT.MM or GRT.MM.X whose B comes from a stream claims its elements of both streams, batch by
batch, and one chain for each batch joins those that wait for a Grate, over the rows and chunks that are left of the plan. -/
def Obligations.GrateProducts : Prop :=
  ∀ (s : State) (h : HearthId) (k : StokerId) (w e n : Nat) (c : Instr) (m : MmShape) (x : Stoker) (z : Hearth) (a b : Stream)
    (tile : Tile) (kind : SlotKind) (pos rows chunks : Nat) (u : State), Canon s → x = s.stoker h k → z = s.hearth h →
    (c = .grtMm h k ∧ zOp w = 2 ∧ zSub w < 32 ∧ m = {} ∧ n = 1) ∨
      (c = .grtMmX h k ∧ zOp w = 0x22 ∧ e < 2 ^ 33 ∧ m = mmShape e ∧ n = 2) →
    Issues s h k w e ((if m.enr then [lDst m.lr] else []) ++ if m.enk then [lDst m.lk] else []) → NoDst w → zClass w = 0x10 →
    mmLegal w m = true → gSB w = true → gBL w = false → x.releasing = false → x.claim[gJ w]? = some pos →
    x.stream? (gHA w) = some a → a.mode = .grate → x.stream? (gHB w) = some b → b.mode = .grate → b.restarts = [] →
    b.desc.layout.isB = true → tile = tileOf b.desc → mmKind a.desc tile w = some kind →
    rows = (if m.enr then min (x.lreg m.lr).toNat (gRows w) else gRows w) →
    chunks = (if m.enk then min (((x.lreg m.lk).toNat + tile.kt - 1) / tile.kt) m.kc else m.kc) → rows ≠ 0 → chunks ≠ 0 →
    gF w + m.nb * m.ss + cover (gQ w) (gRows w) ≤ 8 →
    (∀ j i, j ≤ m.nb → i < cover (gQ w) rows → gZ w = true ∨ mget .zero z.planned (8 * pos + (gF w + j * m.ss + i)) = .zero ∨
      mget .zero z.planned (8 * pos + (gF w + j * m.ss + i)) = kind) →
    a.claimed + (m.nb + 1) * chunks * aNeed (gQ w) rows tile.kt ≤ a.total →
    b.claimed + (m.nb + 1) * chunks * tile.elems ≤ b.total → (∀ o, s.wo? x.wo = some o → o.kindle = false) →
    u = (if (m.enr = true ∧ gRows w < (x.lreg m.lr).toNat) ∨ (m.enk = true ∧ m.kc * tile.kt < (x.lreg m.lk).toNat) then
      { s with wos := s.wos.map fun o => if o.id = x.wo then { o with clamp := true } else o } else s) →
    ∃ cs pl, cs.length = m.nb + 1 ∧
      Does c s h k u { z with
          planned := pl, nextId := z.nextId + m.nb + 1, latchPlan := mset none z.latchPlan pos (some tile), chains := z.chains ++ cs }
        { past x n with
          handles := mset none
            (mset none x.handles (gHA w) (some { a with claimed := a.claimed + (m.nb + 1) * chunks * aNeed (gQ w) rows tile.kt }))
            (gHB w) (some { b with claimed := b.claimed + (m.nb + 1) * chunks * tile.elems }) } true ∧
      (∀ j i, j ≤ m.nb → i < cover (gQ w) rows → mget .zero pl (8 * pos + (gF w + j * m.ss + i)) = kind) ∧
      ∀ j v, cs[j]? = some v → v.id = z.nextId + j ∧ v.ord = j ∧ v.chunks = chunks ∧ v.kt = tile.kt ∧ v.kind = kind ∧ v.sb = true ∧
        v.fmtA = a.desc.fmt ∧ v.fmtB = b.desc.fmt ∧ v.began = false ∧ v.grate = none ∧ v.kindle = none ∧
        ∃ g, v.groups = [g] ∧ g.stoker = k.val ∧ g.wo = x.wo ∧ g.rows = rows ∧ g.ha = gHA w ∧ g.hb = gHB w ∧ g.pos = pos ∧
          g.slot = gF w + j * m.ss ∧ g.aPos = a.claimed + j * chunks * aNeed (gQ w) rows tile.kt ∧
          g.bPos = b.claimed + j * (chunks * tile.elems)

/-- R408, R437 to R452, R491: a batch is released at its deadline; a chain whose first operands have come, with nothing
earlier left on its slots, starts on its position's own Grate while that is idle, else on the lowest idle one; a tile
that passes counts one more chunk; and a chain that is done commits its working bank to its slots. R409 to R418, R499:
FLU.ST and FLU.ST.L read a descriptor and queue a drain of slots; FLUE_DRAIN makes it once everything earlier on the
slots is done, on a fenced Hearth too (log entry 114), and its pieces then go out; FLU.STE writes the smallest entries of the Ember space in key order and
removes them. -/
def Obligations.ChainsAndFlues : Prop :=
  (∀ (s : State) (h : HearthId) (id : Nat) (z : Hearth) (c : Chain), Canon s → z = s.hearth h → z.chain? id = some c →
      exec (.kindlingDeadline h id) s = .next (s.setHearth h { z with chains := z.chains.map fun d =>
        if d.id = id ∧ (d.kindle.getD (s.tb.elapsed + 1)) ≤ s.tb.elapsed then { d with kindle := none } else d }) ∧
      (∀ g0 rest latch n, z.fenced = false → c.grate = none → c.kindle = none → c.stopped = false → c.began = false →
        c.groups = g0 :: rest → latch = mget none z.latches g0.pos → z.chainFree c = true → s.aReady h c g0 0 0 1 = true →
        s.bReady h c 0 = true → (c.sb = true ∨ latch ≠ none) →
        ((g0.pos ∈ s.idleGrates h ∧ n = g0.pos) ∨ (g0.pos ∉ s.idleGrates h ∧ (s.idleGrates h).head? = some n)) →
        exec (.chainStart h id) s = .next ((s.setHearth h (z.updChain id fun d => { d with
          grate := some n, began := true, tile := if c.sb then none else latch
          bank := c.bankOf fun g _ r j => z.before g c.quad r j })).settleLatches h)) ∧
      (∀ g t row f, c.sb = false → c.tile = some t → c.grate = some g → c.stopped = false → c.done < c.chunks →
        (∀ e ∈ c.groups, s.aReady h c e c.done 0 e.rows = true) →
        ∃ u d, exec (.tileBroadcast h id .pass f row) s = .next u ∧ (u.hearth h).chain? id = some d ∧
          d = { c with done := c.done + 1, bank := s.tileBank h c t }) ∧
      ∀ g, c.groups = [g] → g.discard = false → c.began = true → c.stopped = false → c.chunks ≤ c.done →
        (∀ n, c.grate = some n → bitAt z.grateDue.toNat n = false) →
        ∃ u, exec (.chainCommit h id) s = .next u ∧ (∀ d ∈ (u.hearth h).chains, d.id ≠ id) ∧
          ∀ r n i q, r < g.bankRows c.quad → n < 32 →
            i = (if c.quad then 8 * g.pos + (g.slot + r / 2 / 16) else 8 * g.pos + (g.slot + r / 32)) →
            q = (if c.quad then 16 * (r % 2) + r / 2 % 16 else r % 32) →
            (mget {} (u.hearth h).slots i).kind = c.kind ∧ mget 0 (mget {} (u.hearth h).slots i).vals (32 * q + n) = mget 0 c.bank (32 * r + n)) ∧
  (∀ (s : State) (h : HearthId) (k : StokerId) (w e : Nat) (x : Stoker) (z : Hearth), Canon s → x = s.stoker h k → z = s.hearth h →
      (∀ (c : Instr) (n p va : Nat) (lens : List (Nat × Nat)) (uses : List Dst),
        (c = .fluSt h k ∧ zOp w = 1 ∧ n = 1 ∧ lens = [] ∧ uses = []) ∨
          (c = .fluStL h k ∧ zOp w = 0x20 ∧ n = 2 ∧ extLegal e = true ∧ lens = extLens x e ∧ uses = extUses e) →
        Issues s h k w e (sDst (zA w) :: (if bitAt (zSub w) 1 then [sDst (zB w)] else []) ++ uses) → NoDst w → zClass w = 0x11 →
        zSub w < 4 → zImm w < 1024 → (bitAt (zSub w) 1 = false → zB w = 0) → x.releasing = false → x.claim[gJ w]? = some p →
        va = (x.sreg (zA w)).toNat → va % 8 = 0 → s.fluOut h k < 8 →
        ∃ pl, (bitAt (zSub w) 0 = false → pl = z.planned) ∧
          Does c s h k (withAccess s h k .flueRead (.fluDesc z.nextId) va (byteRuns va 128))
            { z with planned := pl, nextId := z.nextId + 1, flus := z.flus ++ [{
                id := z.nextId, stoker := k, wo := x.wo, gal := x.gal, pc := x.pc, seq := x.seq, pos := p, slot := gF w
                n := bits (zImm w) 7 3 + 1, clr := bitAt (zSub w) 0, lens := lens
                scale := if bitAt (zSub w) 1 then some ((x.sreg (zB w)).setWidth 32) else none }] }
            (past x n) true) ∧
      (∀ f d es, z.flus.find? (fun f => decide (f.id = e)) = some f → f.desc = some d →
        z.slotsBusy f.stoker f.pos f.slot (f.slot + f.n) f.seq 0 = false → (s.stoker h f.stoker).st ≠ .halted →
        es = ((List.range d.plannedLen).map fun n => (d.plannedElem (d.cutWith f.lens) n, z.drained f d n)) → writeElems d.fmt es ≠ [] →
        ∃ t a, exec (.flueDrain h e none) s = .next t ∧ t.accs = s.accs ++ [a] ∧ a.kind = .fluWrite ∧ a.stoker = f.stoker ∧
          a.todo = writeElems d.fmt es ∧ (t.hearth h).flus = z.flus.filter (fun f => decide (f.id ≠ e)) ∧
          (∀ i, mget {} (t.hearth h).slots i = if f.clr = true ∧ 8 * f.pos + f.slot ≤ i ∧ i < 8 * f.pos + f.slot + f.n then {}
            else mget {} z.slots i) ∧
          t.wos = s.wos.map fun o => if o.id = f.wo then
            { o with oobDrops := o.oobDrops + (es.filter fun v => decide (v.1 = .outside)).length } else o) ∧
      ∀ b run live out, Issues s h k w e [sDst (zA w), sDst (zB w), zDstReg w] → ToReg w → Fields w 0x11 2 (zA w) (zB w) 0 0 →
        x.emberReleasing = false → x.ember = some b → (x.sreg (zA w)).toNat % 8 = 0 → s.fluOut h k < 8 → s.emberOut h k x.seq = false →
        AshRun.scan x.gal b b.ashCap 0 { s := s } [] = (run, live) → run.wait = none → run.fault = none →
        out = (emberEntries b live).take (x.sreg (zB w)).toNat →
        ∃ t, exec (.fluSte h k) s = .next t ∧
          t.stoker h k = { (past x 1).write (zDstReg w) (BitVec.ofNat 64 out.length) with
            ember := some { b with table := b.table.filter fun v => match v.2 with
              | some q => !out.any fun o => decide (o.1 = q.1)
              | none => false } } ∧
          (out = [] → t.accs = s.accs) ∧
          (out ≠ [] → ∃ a, t.accs = s.accs ++ [a] ∧ a.kind = .fluWrite ∧
            a.todo = writeRuns (x.sreg (zA w)).toNat (fullMask (out.flatMap fun o => natLe 4 o.1 ++ natLe 4 o.2))))

/-- R420 to R426, R588: SPR.EMB and SPR.MERGE read m pairs of 8 B, from the Hob window or through a stream; a claim of Ember
blocks is granted at once or waits in line, its Ash region is emptied first, and a claim of 0 blocks is a release. -/
def Obligations.EmberOperations : Prop :=
  ∀ (s : State) (h : HearthId) (k : StokerId) (w e va m : Nat) (x : Stoker) (z : Hearth), Canon s → x = s.stoker h k →
    z = s.hearth h → va = (x.sreg (zA w)).toNat → m = (x.sreg (zB w)).toNat →
    (x.ember ≠ none → x.emberReleasing = false →
      (Issues s h k w e [sDst (zA w), sDst (zB w), zDstReg w] → ToReg w → Fields w 0x12 1 (zA w) (zB w) 0 0 →
        (m = 0 → Does (.sprEmb h k) s h k s z ((past x 1).write (zDstReg w) 0) true) ∧
        (m ≠ 0 → va % 8 = 0 → hobAperture ≤ va → va < 2 ^ 52 → va - hobAperture + 8 * m ≤ (s.gal x.gal).hobSize.toNat * 65536 →
          Does (.sprEmb h k) s h k (withAccess s h k .memLoad (.ember (some (zDstReg w)) va m) va (byteRuns va (8 * m))) z
            ((past x 1).await (zDstReg w)) true)) ∧
      (Issues s h k w e [sDst (zA w), sDst (zB w)] → NoDst w → Fields w 0x12 2 (zA w) (zB w) 0 0 → va % 8 = 0 →
        (m = 0 → Does (.sprMerge h k) s h k s z (past x 1) true) ∧
        (m ≠ 0 → Does (.sprMerge h k) s h k (withAccess s h k .streamRead (.ember none va m) va (byteRuns va (8 * m))) z
          (past x 1) true))) ∧
    (∀ c, z.claims.find? (fun c => c.ember) = some c → (∀ d ∈ z.claims, d.ember = true) → c.n ≤ z.freeBlocks → c.ashCap = 0 →
      Does (.positionClaimGrant h) s h c.stoker s { z with claims := z.claims.filter fun d => decide (d ≠ c) }
        { past (s.stoker h c.stoker) 1 with ember := some { blocks := c.n, ashBase := c.ashBase, ashCap := 0, pc := c.pc } } true) ∧
    (∀ n, Issues s h k w e [sDst (zA w), sDst (zB w)] → NoDst w → Fields w 0x12 1 (zA w) (zB w) 1 n → n ≤ 64 →
      (n = 0 → s.emberOut h k x.seq = false → Does (.sprEmbC h k) s h k s z { past x 1 with ember := none } true) ∧
      (n = 0 → s.emberOut h k x.seq = true →
        Does (.sprEmbC h k) s h k s z { past x 1 with emberReleasing := x.ember.isSome } true) ∧
      (n ≠ 0 → x.emberReleasing = false → x.ember = none → m < 2 ^ 32 →
        ((∀ c ∈ z.claims, c.ember = false) → n ≤ z.freeBlocks → ∃ u,
          (m = 0 → u = s) ∧
          (m ≠ 0 → u = withAccess s h k .ash .emberInit va
            (writeRuns va (fullMask ((List.range m).flatMap fun _ => natLe 4 0xFFFFFFFF ++ natLe 4 0)))) ∧
          Does (.sprEmbC h k) s h k u z
            { past x 1 with ember := some { blocks := n, ashBase := va, ashCap := m, pc := x.pc } } true) ∧
        ((∀ c ∈ z.claims, c.ember = false ∨ c.stoker ≠ k) → (z.freeBlocks < n ∨ ∃ c ∈ z.claims, c.ember = true) →
          exec (.sprEmbC h k) s = .next (s.setHearth h { z with
            claims := z.claims ++ [{ stoker := k, ember := true, n := n, ashBase := va, ashCap := m, pc := x.pc }] }))))

/-- R428 to R431, R597, R598, R603, R605, R730, R738: CAB.CALL copies a legal parameter block into the post channel of its
Hearth, CAB.WAIT and STV.WAIT wait for all but the newest calls; a free engine takes its next call and reads its descriptors;
a call that ends well counts as done, one that fails its check runs again, and a second failure fences the engine. -/
def Obligations.CabinetCalls : Prop :=
  ∀ (s : State) (h : HearthId) (k : StokerId) (w e : Nat) (x : Stoker) (z : Hearth), Canon s → x = s.stoker h k → z = s.hearth h →
    (∀ va b, va = (x.sreg (zA w)).toNat → b = s.hobBlock h x.gal va 128 →
      Issues s h k w e [sDst (zA w)] → NoDst w → Fields w 0x18 1 (zA w) 0 0 0 →
      (z.stoveRoute = true → exec (.cabCall h k) s = .next (s.faultIssue h k fCabRoute)) ∧
      (z.stoveRoute = false → z.calls.length < 16 → (z.callsOf k true).length < 4 → s.callReleased h k = true →
        hobAperture ≤ va → va < 2 ^ 52 → va - hobAperture + 128 ≤ (s.gal x.gal).hobSize.toNat * 65536 → va % 64 = 0 →
        cabBlockOk b = true → s.engineGone (blkEngine b) = false →
        Does (.cabCall h k) s h k s
          { z with nextId := z.nextId + 1, calls := z.calls ++ [{
              id := z.nextId, gal := x.gal, wo := x.wo, hearth := h, stoker := k, pc := x.pc, seq := x.seq, engine := blkEngine b
              ord := if blkEngine b = 0 then x.stvCalls else x.cabCalls, cabinet := h / 12, block := b }] }
          (if blkEngine b = 0 then { past x 1 with stvCalls := x.stvCalls + 1 } else { past x 1 with cabCalls := x.cabCalls + 1 })
          true)) ∧
    (∀ (c : Instr) (cab : Bool) (n : Nat), (c = .cabWait h k ∧ cab = true ∧ Fields w 0x18 2 0 0 0 n) ∨
        (c = .stvWait h k ∧ cab = false ∧ Fields w 0x19 3 0 0 0 n) → n < 4 → Issues s h k w e [] → NoDst w →
      (z.callsWaited k cab n = true → s.fenceDone h k x.seq false = true → Does c s h k s z (past x 1) true) ∧
      (z.callsWaited k cab n = true → s.fenceDone h k x.seq false = false →
        Does c s h k s z { past x 1 with st := .parkedFence, wait := .fence x.seq false } false) ∧
      (z.callsWaited k cab n = false →
        Does c s h k s z { past x 1 with st := .parkedCall, wait := if cab then .cab n else .stv n } false)) ∧
    ∀ (q : Fin 4) (f : Fin 8) (c : Call) (y : Cabinet), y = s.cabinet q → s.pace.tripped = false →
      (mget none y.running (f + 1) = none → bitAt y.fenced.toNat f = false → s.nextCall q (f + 1) = some c →
        s.call? c.hearth c.id = some c → (∀ a ∈ c.descAddrs, a % 8 = 0) →
        ∃ t a d, exec (.engineCallStart q f) s = .next t ∧ t.accs = s.accs ++ [a] ∧ a.kind = .callDesc c.id ∧
          a.todo = (c.descAddrs.flatMap fun a => byteRuns a 128) ∧ t.call? c.hearth c.id = some d ∧ d.st = .desc ∧ d.cabinet = q ∧
          t.cabinet q = { y with
            running := mset none y.running (f + 1) (some (c.hearth, c.id)), last := mset (12 * q + 47) y.last (f + 1) c.hearth }) ∧
      (mget none y.running (f + 1) = some (c.hearth, c.id) → s.call? c.hearth c.id = some c → c.st = .finished →
        s.callIdle c = true → c.failed = false →
        (∃ t, exec (.engineCallComplete q f true) s = .next t ∧
          (t.hearth c.hearth).calls = (s.hearth c.hearth).calls.filter (fun d => decide (d.id ≠ c.id)) ∧
          t.cabinet q = { y with running := mset none y.running (f + 1) none
                                 done := mset 0 y.done (f + 1) (mget 0 y.done (f + 1) + 1) }) ∧
        (c.tries = 0 → exec (.engineCallComplete q f false) s =
          .next ((s.updCall c.hearth c.id fun d => { d with tries := 1 }).startCall c)) ∧
        (c.tries ≠ 0 → ∃ t, exec (.engineCallComplete q f false) s = .next t ∧ bitAt (t.cabinet q).fenced.toNat f = true ∧
          (t.cabinet q).running = mset none y.running (f + 1) none))

/-- R432 to R436, R622, R628 to R633: STV.LOAD records a pattern and queues its load; STV.RUN copies a legal block into the
slice's queue; a load reads its image, and one that passes the checks is resident; the call at the head of the queue starts
once its own pattern is resident, and leaves it when it has ended well. -/
def Obligations.StoveCalls : Prop :=
  ∀ (s : State) (h : HearthId) (k : StokerId) (w e : Nat) (x : Stoker) (z : Hearth), Canon s → x = s.stoker h k → z = s.hearth h →
    (∀ src len r, src = (x.sreg (zA w)).toNat → len = (x.sreg (zB w)).toNat → r = mset none z.stove.recorded x.gal (some (src, len)) →
      Issues s h k w e [sDst (zA w), sDst (zB w)] → NoDst w → Fields w 0x19 1 (zA w) (zB w) 0 0 →
      (z.stove.fenced = true → exec (.stvLoad h k) s = .next (s.faultIssue h k fStvAbsent)) ∧
      (z.stove.fenced = false → 8 ≤ len → len ≤ 98304 → len % 8 = 0 → src % 64 = 0 →
        ((z.stove.has x.gal (src, len) = true ∧ z.stove.queue = [] ∧ z.stove.cur = none) →
          Does (.stvLoad h k) s h k s { z with stove := { z.stove with recorded := r } } (past x 1) true) ∧
        (¬ (z.stove.has x.gal (src, len) = true ∧ z.stove.queue = [] ∧ z.stove.cur = none) →
          Does (.stvLoad h k) s h k s { z with stove := { z.stove with
            recorded := r
            queue := z.stove.queue ++ [.load { gal := x.gal, wo := x.wo, stoker := k, pc := x.pc, src := src, len := len }] } }
            (past x 1) true))) ∧
    (∀ va b pat, va = (x.sreg (zA w)).toNat → b = s.hobBlock h x.gal va 64 → z.stove.record x.gal = some pat →
      Issues s h k w e [sDst (zA w)] → NoDst w → Fields w 0x19 2 (zA w) 0 0 0 → z.stove.fenced = false →
      (z.stoveRoute = false → exec (.stvRun h k) s = .next (s.faultIssue h k fCabRoute)) ∧
      (z.stoveRoute = true → z.calls.length < 16 → (z.callsOf k false).length < 4 → s.callReleased h k = true →
        hobAperture ≤ va → va < 2 ^ 52 → va - hobAperture + 64 ≤ (s.gal x.gal).hobSize.toNat * 65536 → va % 64 = 0 →
        stvBlockOk b = true →
        Does (.stvRun h k) s h k s
          { z with nextId := z.nextId + 1, stove := { z.stove with queue := z.stove.queue ++ [.call z.nextId] }, calls := z.calls ++ [{
              id := z.nextId, gal := x.gal, wo := x.wo, hearth := h, stoker := k, pc := x.pc, seq := x.seq, engine := 0
              ord := x.stvCalls, cabinet := h / 12, block := b, pat := pat }] }
          { past x 1 with stvCalls := x.stvCalls + 1 } true)) ∧
    (∀ l rest, z.stove.cur = none → z.stove.queue = .load l :: rest → (z.stove.has l.gal (l.src, l.len) = false ∨ l.order = true) →
      ∃ t a, exec (.patternLoad h) s = .next t ∧ t.accs = s.accs ++ [a] ∧ a.kind = .pattern ∧ a.todo = byteRuns l.src l.len ∧
        (t.hearth h).stove = { z.stove with
          st := .loading, gal := l.gal, src := l.src, len := 0, image := [], cur := some (l, s.nextAcc), queue := rest
          loads := z.stove.loads + 1, reloads := if l.call.isSome then satAdd 65535 z.stove.reloads 1 else z.stove.reloads }) ∧
    (∀ l id a, z.stove.cur = some (l, id) → s.acc? id = some a → a.todo = [] → (∀ p ∈ s.pieces, p.owner ≠ .acc id) → a.err = none →
      patternOk (bytesAt a.buf l.src l.len) = true →
      ∃ t, exec (.patternLoad h) s = .next t ∧ t.accs = s.accs.filter (fun b => decide (b.id ≠ id)) ∧
        (t.hearth h).stove = { z.stove with
          st := .resident, len := l.len, image := bytesAt a.buf l.src l.len, cur := none }) ∧
    ∀ id rest c, z.stove.queue = .call id :: rest → s.call? h id = some c → c.id = id → c.hearth = h → s.pace.tripped = false →
      (∀ v, z.stove.cur = none → c.st = .queued → z.stove.has c.gal c.pat = true → z.stove.entryOf c = some v →
        (v.auxFmt.isSome = true ↔ blkAux c.block ≠ 0) → (∀ a ∈ c.descAddrs, a % 8 = 0) →
        ∃ t a d, exec (.stoveCallStart h) s = .next t ∧ t.call? h id = some d ∧ d.st = .desc ∧ t.accs = s.accs ++ [a] ∧
          a.kind = .callDesc id ∧ a.todo = (c.descAddrs.flatMap fun a => byteRuns a 128)) ∧
      (c.st = .finished → s.callIdle c = true → c.failed = false →
        ∃ t, exec (.stoveCallComplete h true) s = .next t ∧ (t.hearth h).stove.queue = rest ∧
          (t.hearth h).calls = z.calls.filter fun d => decide (d.id ≠ id))

/-- R204 to R219, R241, R243, R251, R256, R266: a piece of an access that may go is checked, translated and sent; once it has
finished, a load's value goes to its register, a store's bytes are at its place, and FLAG.ADD brings back what the flag held
and leaves the sum there. -/
def Obligations.AccessesReachTheirPlace : Prop :=
  ∀ (s : State) (id o : Nat) (i : Option Nat) (a : Acc), Canon s → s.acc? id = some a → a.id = id →
    (∀ r rest, a.todo = r :: rest → s.pace.tripped = false → s.accMaySend a = true → (a.kind.streamUnit = true → (s.hearth a.hearth).fenced = false) →
      s.check a.gal a.agent r.va = .ok (.shared o) i → a.misaligned r = false → (a.kind.mem = true → s.sameLocOut a (.shared o) r.len = false) →
      exec (.pieceSend (.access id)) s = .next (State.pumpBays { s with
        nextPiece := s.nextPiece + 1
        accs := s.accs.map fun b => if b.id = id then { b with todo := rest } else b
        pieces := s.pieces ++ [{
          id := s.nextPiece, gal := a.gal, wo := a.wo, hearth := a.hearth, stoker := a.stoker, pc := a.pc, seq := a.seq, agent := a.agent
          write := a.agent.writes, va := r.va, len := r.len, target := .shared o, seg := i, wdata := r.wdata, status := .sent
          owner := .acc id }] })) ∧
    ∀ (p : Piece) (v : Nat) (d : Dst), s.piece? p.id = some p → p.status = .sent → p.target = .shared o → p.owner = .acc id →
      p.hearth = a.hearth → p.stoker = a.stoker → (∀ q ∈ s.pieces, q.owner = .acc id → q.id = p.id) → a.todo = [] → a.err = none →
      a.buf = [] → s.writeOrderHolds p = false → s.sharedLost o p.len = false → p.va = a.base →
      v = leNat (bytesAt s.shared o p.len) →
      (∀ size sext, a.kind = .load d size sext → p.agent = .memLoad → p.write = false → p.len = size →
        (s.stoker a.hearth a.stoker).st ≠ .free → some (s.stoker a.hearth a.stoker).wo = a.wo →
        ∃ t : State, exec (.pieceComplete p.id { data := [], check := none }) s = .next t.pumpBays ∧
          t.pieces = s.pieces.filter (fun q => decide (q.id ≠ p.id)) ∧ t.accs = s.accs.filter (fun b => decide (b.id ≠ id)) ∧
          t.shared = s.shared ∧
          t.stoker a.hearth a.stoker = { (s.stoker a.hearth a.stoker).deliver d
              (if sext then BitVec.ofInt 64 (signed (8 * size) v) else BitVec.ofNat 64 v) with
            rels := (t.stoker a.hearth a.stoker).rels }) ∧
      (a.kind = .store → p.agent = .memStore → p.write = true →
        ∃ t : State, exec (.pieceComplete p.id { data := [], check := none }) s = .next t.pumpBays ∧
          t.shared = putMasked s.shared o p.wdata ∧ t.accs = s.accs.filter (fun b => decide (b.id ≠ id)) ∧
          ∀ j, j < o ∨ o + p.wdata.length ≤ j → byteAt t.shared j = byteAt s.shared j) ∧
      (∀ addend, a.kind = .flagAdd d addend → p.agent = .flagAdd → p.len = 8 →
        (s.stoker a.hearth a.stoker).st ≠ .free → some (s.stoker a.hearth a.stoker).wo = a.wo →
        ∃ t : State, exec (.pieceComplete p.id { data := [], check := none }) s = .next t.pumpBays ∧
          t.shared = putMasked s.shared o (fullMask (natLe 8 (BitVec.ofNat 64 v + addend).toNat)) ∧
          t.stoker a.hearth a.stoker = { (s.stoker a.hearth a.stoker).deliver d (BitVec.ofNat 64 v) with
            rels := (t.stoker a.hearth a.stoker).rels
            adds := (s.stoker a.hearth a.stoker).adds.filter fun n => decide (n ≠ a.seq) })

/-! ## Folios (chapter 16) -/

/-- R635 to R640, R651 to R653, R661, R664: a bay's link takes the next frame whose CRC is good and refuses any other with
a NAK; RD_DATA and WR_ACK end the request they name, ERR and a timeout send it once more; MG_RSP answers the oldest
request of its operation; a link that goes down, or a Folio that is taken out, leaves the bay ABSENT. R639, R665,
R683, R770, R811: in the FOLIOS phase each bay with a Folio is powered and enumerated from the start of its own slot;
without the SerDes reference clock every Fenline port and every bay link goes down. -/
def Obligations.FolioLinks : Prop :=
  (∀ (s : State) (b : BayId) (f : FrameHdr) (tag : Nat) (x : Bay), Canon s → x = s.bay b →
      (∀ (c : Instr), (∃ d, c = .rdData b f tag d) ∨ c = .wrAck b f tag ∨ (∃ e, c = .err b f tag e) ∨ (∃ op r, c = .mgRsp b f op r) →
        (x.linkUp = false → exec c s = .next s.pumpBays) ∧
        (x.linkUp = true → (f.crcOk = false ∨ f.seq ≠ x.rxSeq) →
          exec c s = .next (State.pumpBays { s with out := s.out ++ [.folioNak b (x.rxSeq - 1)] }))) ∧
      (x.linkUp = true → f.crcOk = true → f.seq = x.rxSeq → f.nak = false → ∀ u : State, u = s.setBay b { x with rxSeq := x.rxSeq + 1 } →
        (∀ p, s.bayRequest b tag = some p →
          (∀ d k, p.write = false → mget none s.acc.keys p.gal = some k → p.retried = false → exec (.rdData b f tag d) s =
            .next (u.pieceEnd p (((xts k (sectorTweak x.unit p.sectorNo) true d).drop
              (match p.target with | .folio _ o => o % 512 | _ => 0)).take p.len)).pumpBays) ∧
          (p.wrDue = true → exec (.wrAck b f tag) s = .next
            (State.pieceEnd (State.wearCheck (s.setBay b { x with rxSeq := x.rxSeq + 1, wear := x.wear + 1 }) b) p []).pumpBays) ∧
          (∀ e, p.retried = false → exec (.err b f tag e) s = .next (State.pumpBays { u with pieces := u.pieces.map fun q =>
            if q.id = p.id then { q with status := .heldBay, retried := true } else q }))) ∧
        ∀ resp ok js, x.mg = .chal :: js → exec (.mgRsp b f .challenge (.challenge resp ok)) s =
          .next (s.setBay b { x with rxSeq := x.rxSeq + 1, mg := js, resp := resp, chalDone := true }).pumpBays) ∧
      (∀ p, s.bayRequest b tag = some p → p.sentAt + us 200 ≤ s.tb.elapsed → p.retried = false →
        exec (.bayTimeout b (some tag)) s = .next (State.pumpBays { s with pieces := s.pieces.map fun q =>
          if q.id = p.id then { q with status := .heldBay, retried := true } else q })) ∧
      (x.linkUp = true → ∃ t : State, exec (.folioLinkDown b) s = .next t.pumpBays ∧ (t.bay b).linkUp = false ∧ (t.bay b).st = .absent ∧
        (t.bay b).reason = .none ∧ (t.bay b).mg = []) ∧
      (∃ t : State, exec (.bayPresenceLost b) s = .next t.pumpBays ∧ (t.bay b).present = false ∧
        (x.supply = true → (t.bay b).st = .absent ∧ (t.bay b).supply = false ∧ .bayEnable b false ∈ t.out)) ∧
      (s.dev.ready = true → x.st = .absent → x.enumerating = false → x.inLine = false → (∀ c, c < 8 → (s.bay c).enumerating = false) →
        (∀ c, c < 8 → (s.bay c).inLine = false) → exec (.bayPresenceHeld b) s = .next { s.setBay b { x with
          present := true, supply := true, enumerating := true, inLine := false, st := .absent, reason := .none } with
          out := s.out ++ [.bayEnable b true] }) ∧
      (x.enumerating = true → x.supply = true → x.linkUp = false → exec (.bayLinkTrained b) s = .next { s.setBay b { x with
          linkUp := true, rxSeq := 0, txSeq := 1, mg := [.enumIdent] } with out := s.out ++ [.folioMg b .ident 0 []] })) ∧
  (∀ (s : State) (b : BayId) (x : Bay), Canon s → x = s.bay b →
      (s.dev.phase ≠ .folios ∨ s.tb.elapsed - s.dev.bootStart < ms (300 + 50 * b.val) →
        exec (.bayEnumerationSlot b) s = .next s) ∧
      (s.dev.phase = .folios → ms (300 + 50 * b.val) ≤ s.tb.elapsed - s.dev.bootStart → ∃ t, exec (.bayEnumerationSlot b) s = .next t ∧
        (x.present = true → x.st = .absent → x.enumerating = false → x.inLine = false →
          t.bay b = { x with supply := true, enumerating := true, reason := .none } ∧ .bayEnable b true ∈ t.out) ∧
        (x.present = false → t.bay b = x) ∧ (∀ j, b.val < j → t.bay j = s.bay j) ∧
        ∀ j, j < b.val → (s.bay j).enumerating = true → (t.bay j).enumerating = false ∧ (t.bay j).inLine = true ∧
          (t.bay j).linkUp = false) ∧
      ∃ t, exec .serdesRefclkLoss s = .next t ∧ (∀ j, j < 8 → (t.bay j).linkUp = false) ∧
        ∀ q, q < 6 → t.fenPort q = if (s.fenPort q).st.carries then { (s.fenPort q).fresh with st := .down } else s.fenPort q)

/-- R640, R645 to R650, R659, R660, R662, R663, R667, R668, R816: a FOL_COMMAND of a port without Keeper slot 2 sets
NOT_OWNER, one while the bay is busy BUSY, one its bay's state does not allow BAD_STATE (in that order: log entry 80), and any other starts; the nonce, the
timers, FOL_RESET and the power-fail warning send what the manual lays down. -/
def Obligations.FolioCommands : Prop :=
  ∀ (s : State) (p : Port) (b : BayId) (x : Bay), Canon s → Serving s → x = s.bay b →
    (∀ (c : Instr) (f : FolCmd), (c = .adopt p b ∧ f = .adopt) ∨ (c = .eject p b ∧ f = .eject) ∨ (c = .folRetire p b ∧ f = .retire) ∨
        (c = .folExport p b true ∧ f = .exportKeys) ∨ (c = .accept p b ∧ f = .acceptKeys) ∨ (c = .folCommit p b ∧ f = .commit) →
      (s.holds p 2 = false → exec c s = .next (s.setBay b { x with result := .notOwner })) ∧
      (s.holds p 2 = true → x.busy = true → exec c s = .next (s.setBay b { x with result := .busy })) ∧
      (s.holds p 2 = true → x.busy = false → (x.allowsCmd f = false ∨ s.faults.sealed = true ∧ f.keyed = true) →
        exec c s = .next (s.setBay b { x with result := .badState })) ∧
      (s.holds p 2 = true → x.busy = false → x.allowsCmd f = true → (s.faults.sealed = false ∨ f.keyed = false) →
        x.pwrHold = true → f.keyed = true →
          exec c s = .next (s.setBay b { x with busy := true, cmd := some f, cmdHeld := true }))) ∧
    (s.holds p 2 = true → x.busy = false → x.pwrHold = false → s.faults.sealed = false →
      (x.st = .foreign → (x.reason = .unsealed ∨ x.reason = .otherDevice) → exec (.adopt p b) s = .next { s.setBay b { x with
          busy := true, cmd := some .adopt, cmdHeld := false, mg := x.mg ++ [.adopt], txSeq := x.txSeq + 1 } with
          out := s.out ++ [.folioSeal b (s.dev.unit.setWidth 64) (x.sealEpoch + 1)] }) ∧
      (x.st ≠ .absent → s.bayPieces b = [] → exec (.eject p b) s = .next { s.setBay b { x with
          busy := true, cmd := some .eject, cmdHeld := false, ejecting := true, ejectAt := some s.tb.elapsed
          mg := x.mg ++ [.ejectCommit], txSeq := x.txSeq + 1 } with out := s.out ++ [.folioMg b .ledgerCommit 0 []] }) ∧
      (x.st.readable = true →
        exec (.folRetire p b) s = .next { s.setBay b { x with
          busy := true, cmd := some .retire, cmdHeld := false, st := .retired, reason := .none
          mg := x.mg ++ [.retire], txSeq := x.txSeq + 1 } with out := s.out ++ [.folioMg b .retire 0 []] } ∧
        exec (.folCommit p b) s = .next { s.setBay b { x with
          busy := true, cmd := some .commit, cmdHeld := false, mg := x.mg ++ [.commit true], txSeq := x.txSeq + 1 } with
          out := s.out ++ [.folioMg b .ledgerCommit 0 []] } ∧
        exec (.folExport p b false) s = .next (s.setBay b { x with result := .badTarget }) ∧
        ((∀ g ∈ x.xferGals, ∃ k, mget none s.acc.keys g = some k) → exec (.folExport p b true) s = .next { s.setBay b { x with
          busy := true, cmd := some .exportKeys, cmdHeld := false, mg := x.mg ++ [.exportKeys], txSeq := x.txSeq + 1 } with
          out := s.out ++ [.folioRecord b x.xferGals] })) ∧
      (x.st = .foreign → x.reason = .otherDevice → exec (.accept p b) s = .next { s.setBay b { x with
          busy := true, cmd := some .acceptKeys, cmdHeld := false, mg := x.mg ++ [.acceptRead], txSeq := x.txSeq + 1 } with
          out := s.out ++ [.folioMg b .metaRead 1 []] })) ∧
    (∀ n : List Byte, n.length = 48 → x.st ≠ .absent → exec (.folChalNonce b n) s = .next { s.setBay b { x with
        nonce := putBytes [] 0 n, mg := x.mg ++ [.chal], txSeq := x.txSeq + 1 } with out := s.out ++ [.folioMg b .challenge 0 n] }) ∧
    (∀ (c : Instr) (j : MgJob) (op : MgOp), (c = .ledgerCommitTimer ∧ j = .commit false ∧ op = .ledgerCommit) ∨
        (c = .scrubStatus ∧ j = .scrub ∧ op = .scrubStatus) →
      ∃ t, exec c s = .next t ∧ (∀ a, 8 ≤ a ∨ (s.bay a).st.readable = false → t.bay a = s.bay a) ∧
        ∀ a, a < 8 → (s.bay a).st.readable = true → .folioMg a op 0 [] ∈ t.out ∧
          t.bay a = { s.bay a with mg := (s.bay a).mg ++ [j], txSeq := (s.bay a).txSeq + 1 }) ∧
    (s.holds p 2 = false → exec (.folReset p b) s = .next (s.setBay b { x with result := .notOwner })) ∧
    (s.holds p 2 = true → (x.st = .absent ∨ x.busy = true) → exec (.folReset p b) s = .next (s.setBay b { x with result := .badState })) ∧
    (s.holds p 2 = true → x.st ≠ .absent → x.busy = false → x.ejecting = false → x.enumerating = false →
      (∀ q ∈ s.bayPieces b, q.status ≠ .sent) → exec (.folReset p b) s = .next (s.setBay b { x with
        busy := true, resetting := true, linkUp := false, enumerating := true, st := .absent, reason := .none, mg := [] })) ∧
    (∀ t, x.ejectAt = some t → x.ejecting = true → t + ms 1 ≤ s.tb.elapsed → exec (.baySupplyOff b) s = .next { s.setBay b { x with
        st := .absent, reason := .none, supply := false, linkUp := false, ejecting := false, ejectAt := none, mg := []
        busy := false, cmd := none, cmdHeld := false, result := .ok } with out := s.out ++ [.bayEnable b false] }) ∧
    (∃ t, exec .pwrWarnNFall s = .next t ∧ t.acc.pwrWarn = true ∧ ∀ a, a < 8 → (t.bay a).pwrHold = true ∧
      ((s.bay a).linkUp = true → .folioMg a .ledgerCommit 0 [] ∈ t.out)) ∧
    (∃ t, exec .pwrWarnNRelease s = .next t ∧ t.acc.pwrWarn = false ∧ ∀ a, a < 8 → (t.bay a).pwrHold = false)

/-! ## Fenline (chapter 17) -/

/-- R671 to R679, R684 to R689, R695, R696: a port takes the next flit whose CRC is good, and answers any other with one NAK; a
replay that fails again makes it FAILED; its XOFF bits and credits are taken over; BRINGUP is checked and makes the port ACTIVE
or leaves it in QUARANTINE; TIMESYNC measures the clocks' offset; a port that goes down loses its link state. -/
def Obligations.FenlineLink : Prop :=
  ∀ (s : State) (p : FenPortId) (f : FlitHdr) (x : FenPort), Canon s → x = s.fenPort p →
    (∀ c, c = .idle p f ∨ (∃ b, c = .bringup p f b) ∨ (∃ t, c = .timesync p f t) ∨ (∃ va d l, c = .putData p f va d l) ∨
        (∃ va n, c = .getReq p f va n) ∨ (∃ d, c = .getData p f d) ∨ (∃ a, c = .xack p f a) ∨ (∃ va v, c = .signal p f va v) ∨
        (∃ i q n l b, c = .coll p f i q n l b) ∨ (∃ b, c = .mgmt p f b) ∨ (∃ i, c = .leave p f i) →
      (x.st.carries = false → exec c s = .next s) ∧
      (x.st.carries = true → f.crcOk = true → f.seq ≠ x.rxSeq →
        (x.nakSent = true → exec c s = .next (s.setFenPort p { x with crcErrors := satAdd 0xFFFFFFFF x.crcErrors 1 })) ∧
        (x.nakSent = false → exec c s = .next (State.send
          (s.setFenPort p { x with crcErrors := satAdd 0xFFFFFFFF x.crcErrors 1, nakSent := true }) (.fenNak p (x.rxSeq - 1))))) ∧
      (x.st.carries = true → f.crcOk = false → f.replay = true →
        ∃ t, exec c s = .next t ∧ (t.fenPort p).st = .failed ∧ (t.fenPort p).waiting = [] ∧ (t.fenPort p).unacked = [])) ∧
    (x.st.carries = true → f.crcOk = true → f.seq = x.rxSeq → f.nak = false → x.waiting = [] →
      ∀ y, y = { x.addCredits f.crVc.toNat f.crCount.toNat with
          rxSeq := x.rxSeq + 1, nakSent := false, replays := if x.nakSent then satAdd 65535 x.replays 1 else x.replays
          xoff := f.xoff, unacked := x.unacked.filter fun u => !seqUpTo u.1 f.ack } →
      exec (.idle p f) s = .next (s.setFenPort p y) ∧
      (∀ b, ∃ t z, exec (.bringup p f b) s = .next t ∧ z = t.fenPort p ∧ z.peerUnit = b.unit ∧ z.peerHash = b.hash ∧
        z.peerEpoch = b.epoch ∧ z.peerTimeEpoch = b.timeEpoch ∧ z.peerZhema = b.zhema ∧ z.peerPort = b.port ∧
        z.mismatch = t.mismatch p ∧ (z.st = .active ↔ z.mismatch = 0) ∧ (z.st = .quarantine ↔ z.mismatch ≠ 0)) ∧
      ∀ v : TimeSync, ∃ t, exec (.timesync p f v) s = .next t ∧
        (x.peerTimeEpoch = v.timeEpoch → v.peerSent ≠ 0 → t.fenPort p = { y with
          syncSent := v.sent, syncArrived := s.tb.time.toNat / 4096, skewValid := true
          skewOffset := BitVec.ofInt 32
            ((((v.peerArrived : Int) - v.peerSent) - ((s.tb.time.toNat / 4096 : Nat) - v.sent)).tdiv 2) }) ∧
        (x.peerTimeEpoch ≠ v.timeEpoch → t.fenPort p = { y with
          peerTimeEpoch := v.timeEpoch, syncSent := v.sent, syncArrived := s.tb.time.toNat / 4096, skewValid := false })) ∧
    (x.st.carries = true → ∃ t, exec (.fenlinePortDown p) s = .next t ∧ t.fenPort p = { x.fresh with st := .down }) ∧
    ((x.st = .down ∨ x.st = .training) → x.connected = true → x.disable = false → s.dev.bootStart + ms 250 ≤ s.tb.elapsed →
      ∃ t, exec (.fenlineTrained p) s = .next t ∧ (t.fenPort p).st = .exchanging ∧ (t.fenPort p).trainings = satAdd 65535 x.trainings 1 ∧
        .flit p 0 { body := .bringup (s.ownBringup p) } ∈ t.out) ∧
    (∃ t, exec .timesyncTimer s = .next t ∧ ((x.st = .active ∨ x.st = .quarantine) →
      ∃ n, .flit p n { body := .timesync {
        sent := s.tb.time.toNat / 4096, peerSent := x.syncSent, peerArrived := x.syncArrived, timeEpoch := s.tb.epoch } } ∈ t.out)) ∧
    ∃ t, exec .epochAnnounceTimer s = .next t ∧ ∀ d q, d < 64 → d ≠ s.fen.devno → s.outPort d = some q →
      Underway (t.fenPort q) { src := s.fen.devno, dst := d, hops := 15, srcEpoch := s.cfgEpoch, dstEpoch := 0, xtag := 0, gallery := 0
                               index := 0, body := .announce s.cfgEpoch (s.dev.unit.setWidth 64) (Fin.ofNat 64 s.fen.devno) }

/-- R256, R671 to R675, R690, R691, R693, R701, R702, R704 to R707, R711, R712: what a flit for this device does once its port
has taken it: a PUT's bytes are written, a GET is answered with what it reads, a SIGNAL joins its flag, an answer ends the
entry it is for, elements of a collective are kept, a LEAVE is noted and an announced epoch is recorded. A flit with a stale
epoch is dropped and counted. -/
def Obligations.FenlineTransfers : Prop :=
  ∀ (s : State) (p : FenPortId) (f : FlitHdr) (x : FenPort) (fresh : Prop), Canon s → x = s.fenPort p → x.st = .active →
    f.crcOk = true → f.seq = x.rxSeq → f.nak = false → x.waiting = [] → x.inbox = [] → x.stopping = 0 →
    s.fen.valid = true → f.dst.val = s.fen.devno →
    (fresh ↔ f.dstEpoch = s.cfgEpoch ∧ s.epochOf f.src.val = some f.srcEpoch) →
    (∀ c, (∃ va d l, c = .putData p f va d l) ∨ (∃ va n, c = .getReq p f va n) ∨ (∃ d, c = .getData p f d) ∨ (∃ a, c = .xack p f a) ∨
        (∃ va v, c = .signal p f va v) ∨ (∃ i q n l b, c = .coll p f i q n l b) ∨ (∃ i, c = .leave p f i) → ¬ fresh →
      ∃ t, exec c s = .next t ∧ t.fen.stale = satAdd 0xFFFFFFFF s.fen.stale 1 ∧ t.shared = s.shared ∧ t.fen.txs = s.fen.txs) ∧
    (fresh → ∀ reply : Nat → FlitBody → FlitOut, (∀ n b, reply n b = {
        src := s.fen.devno, dst := f.src, hops := 15, srcEpoch := s.cfgEpoch, dstEpoch := f.srcEpoch, xtag := f.xtag.toNat
        gallery := f.gallery, index := n, body := b }) →
      (s.fenAccepts f.gallery = true → (s.isBad f = false ∨ f.index = 0) →
        (∀ va o i (d : List (Byte × Byte)) (l : Bool), s.check f.gallery .fenWrite va = .ok (.shared o) i → d ≠ [] →
          va % 512 + d.length ≤ 512 →
          ∃ t, exec (.putData p f va d l) s = .next t ∧ t.shared = putMasked s.shared o d ∧
            (l = true → ∀ q, s.outPort f.src = some q → Underway (t.fenPort q) (reply f.index (.xack .done)))) ∧
        (∀ va n o i, s.check f.gallery .fenRead va = .ok (.shared o) i → n ≠ 0 → va % 512 + n ≤ 512 → s.sharedLost o n = false →
          ∃ t, exec (.getReq p f va n) s = .next t ∧ t.shared = s.shared ∧
            ∀ q, s.outPort f.src = some q → Underway (t.fenPort q) (reply f.index (.getData (bytesAt s.shared o n))))) ∧
      (s.fenAccepts f.gallery = true →
        (∀ va o i (v : W64), s.check f.gallery .fenAdd va = .ok (.shared o) i → va % 8 = 0 → s.sharedLost o 8 = false →
          ∃ t, exec (.signal p f va v) s = .next t ∧
            t.shared = putBytes s.shared o (natLe 8 (BitVec.ofNat 64 (leNat (bytesAt s.shared o 8)) + v).toNat) ∧
            ∀ q, s.outPort f.src = some q → Underway (t.fenPort q) (reply 0 (.xack .done))) ∧
        (∀ (id : W32) (ps : CollParams) (n : Nat) (es : List Nat) (l : Bool), s.part? f.gallery id f.src = none → s.fen.txs = [] →
          ∃ t v, exec (.coll p f id ps n es l) s = .next t ∧ t.part? f.gallery id f.src = some v ∧ v.params = ps ∧ v.whole = l ∧
            ∀ i e, es[i]? = some e → mget none v.elems (n + i) = some e) ∧
        (∀ (id : W32), s.part? f.gallery id f.src ≠ none → s.fen.txs = [] →
          ∃ t, exec (.leave p f id) s = .next t ∧ (f.gallery.val, id) ∈ t.fen.left)) ∧
      (s.fenAccepts f.gallery = false → ∀ va v, ∃ t, exec (.signal p f va v) s = .next t ∧ t.shared = s.shared ∧
        ∀ q, s.outPort f.src = some q → Underway (t.fenPort q) (reply 0 (.xack .closed))) ∧
      (∀ e, s.txOf f = some e → e.op ≠ 2 → e.local' = none → (∀ u ∈ s.fen.txs, u.gal = e.gal → u.entry = e.entry → u = e) →
        ∀ a code kind, (a = .done ∧ code = 1 ∧ kind = 0) ∨ (a = .fault kind ∧ code = 5) ∨ (a = .closed ∧ code = 6 ∧ kind = 0) →
        ∃ t, exec (.xack p f a) s = .next t ∧ { e with phase := .ended code kind } ∈ t.fen.txs) ∧
      ∀ e d, s.txOf f = some e → e.op = 2 → (∃ i, i < max 1 e.gets.length ∧ i ≠ f.index ∧ mget none e.got i = none) →
        e.src.isSome = true → e.dst.isSome = true → e.refused = none →
        ∃ t, exec (.getData p f d) s = .next t ∧ { e with got := mset none e.got f.index (some d) } ∈ t.fen.txs) ∧
    ∀ (e : W32) (unit : W64) (dev : Fin 64) m, s.memberOf dev = some m → m.unit = unit →
      ∃ t, exec (.mgmt p f ([1, 0, 0, 0] ++ natLe 4 e.toNat ++ natLe 8 unit.toNat ++ [BitVec.ofNat 8 dev])) s = .next t ∧
        t.epochOf dev = some e

/-- R686, R699 to R703, R714, R715, R817: the FEN_ registers a host writes, and the ring: the next entry is taken from its slot
when its word 7 gives its number (a reserved OP ends BAD_REQUEST), and an entry that has ended is completed by its STATUS and then by DONE. -/
def Obligations.FenlineRegistersAndRings : Prop :=
  ∀ (s : State) (p : Port) (q : FenPortId) (g : GalleryId), Canon s → Serving s →
    (s.holds p 0 = false →
      (∀ v, exec (.fenCfgEpoch p v) s = .next (s.setFenPort 0 { s.fenPort 0 with result := .notOwner })) ∧
      (∀ v, exec (.fenGal p g v) s = .next (s.setFenPort 0 { s.fenPort 0 with result := .locked })) ∧
      exec (.fenCtrlReset p q) s = .next (s.setFenPort q { s.fenPort q with result := .notOwner }) ∧
      ∀ on, exec (.fenCtrlDisable p q on) s = .next (s.setFenPort q { s.fenPort q with result := .notOwner })) ∧
    (s.holds p 0 = true →
      (∀ v : W32, ∃ t, exec (.fenCfgEpoch p v) s = .next t ∧ t.fen.pod = v.extractLsb' 16 16 ∧ (t.fenPort 0).result = .ok) ∧
      (∀ v : W64, ((s.gal g).st ≠ .vacant ∧ (s.gal g).st ≠ .dormant →
          exec (.fenGal p g v) s = .next (s.setFenPort 0 { s.fenPort 0 with result := .locked })) ∧
        ((s.gal g).st = .vacant ∨ (s.gal g).st = .dormant → (bits v.toNat 8 4 < 4 ∨ 10 < bits v.toNat 8 4) →
          exec (.fenGal p g v) s = .next (s.setFenPort 0 { s.fenPort 0 with result := .badValue })) ∧
        ((s.gal g).st = .vacant ∨ (s.gal g).st = .dormant → 4 ≤ bits v.toNat 8 4 → bits v.toNat 8 4 ≤ 10 →
          ∃ t, exec (.fenGal p g v) s = .next t ∧ (t.fenPort 0).result = .ok ∧ t.fenGal g = { s.fenGal g with
            va := bits v.toNat 12 40 * 4096, log2n := bits v.toNat 8 4, accept := bitAt v.toNat 1, enable := bitAt v.toNat 0 })) ∧
      (∃ t, exec (.fenCtrlReset p q) s = .next t ∧ t.fenPort q = { (s.fenPort q).fresh with
        result := .ok, peerUnit := 0, peerTimeEpoch := 0, peerZhema := 0, peerPort := 0, peerDevno := 0, peerEpoch := 0, peerHash := []
        mismatch := 0, skewValid := false
        st := if (s.fenPort q).disable || !(s.fenPort q).connected then .disabled else .down }) ∧
      (∃ t, exec (.fenCtrlDisable p q true) s = .next t ∧
        t.fenPort q = { (s.fenPort q).fresh with result := .ok, disable := true, st := .disabled }) ∧
      exec (.fenCtrlDisable p q false) s = .next (s.setFenPort q { s.fenPort q with
        result := .ok, disable := false
        st := if (s.fenPort q).st = .disabled ∧ (s.fenPort q).connected then .down else (s.fenPort q).st })) ∧
    (∀ (x : FenGal) (o : Nat) i bs, x = s.fenGal g → x.enable = true → x.fault = false →
      ((s.gal g).st = .opened ∨ (s.gal g).st = .quiescing) → (s.fen.txs.filter fun t => decide (t.gal = g.val)).length < 16 →
      s.check g .fenRead (x.va + 64 + 64 * (x.next % 2 ^ x.log2n)) = .ok (.shared o) i → s.sharedLost o 64 = false →
      bs = bytesAt s.shared o 64 →
      (leNat (bs.drop 56) ≠ x.next + 1 → exec (.ringEntryTake g) s = .next s) ∧
      (∀ e : FenTx, leNat (bs.drop 56) = x.next + 1 →
        e = { gal := g.val, entry := x.next, words := e.words, phase := .held, tag := s.fen.nextTag, peer := e.peer } →
        e.words = (List.range 8).map (fun i => leNat ((bs.drop (8 * i)).take 8)) →
        e.peer = (if 16 ≤ leNat (bs.take 1) then 0 else bits (leNat (bs.take 8)) 8 6) →
        (leNat (bs.take 1) = 3 ∨ s.fenBlocked g .fenRead (s.txReads e) = none) →
        ∃ t u, exec (.ringEntryTake g) s = .next t ∧ t.fenGal g = { x with next := x.next + 1 } ∧ u ∈ t.fen.txs ∧
          u.gal = g.val ∧ u.entry = x.next ∧ u.words = e.words ∧ u.tag = s.fen.nextTag ∧
          (e.legal = false → u.phase = .ended 7 0))) ∧
    ∀ (x : FenGal) (e : FenTx) (code : Nat) (kind : BitVec 8) (o1 o2 : Nat) i1 i2, x = s.fenGal g →
      s.fen.txs.find? (fun t => decide (t.gal = g.val) && decide (t.entry = e.entry)) = some e → e.phase = .ended code kind →
      ((s.gal g).st = .opened ∨ (s.gal g).st = .quiescing) → (code = 1 ∨ bitAt (e.word 0) 50 = false) →
      s.check g .fenWrite (x.va + 64 + 64 * (e.entry % 2 ^ x.log2n) + 48) = .ok (.shared o1) i1 →
      s.check g .fenWrite x.va = .ok (.shared o2) i2 → s.check g .fenRead x.va = .ok (.shared o2) i2 →
      s.sharedLost o2 8 = false → (o1 + 8 ≤ o2 ∨ o2 + 8 ≤ o1) →
      ∃ t, exec (.ringEntryComplete g e.entry) s = .next t ∧
        (∀ u ∈ t.fen.txs, u.gal ≠ g.val ∨ u.entry ≠ e.entry) ∧
        t.shared = putMasked (putMasked s.shared o1 (fullMask (natLe 8 (code + kind.toNat * 256 + min 0xFFFFFFFF e.oob * 2 ^ 32)))) o2
          (fullMask (natLe 8 (leNat (bytesAt s.shared o2 8) + 1)))

/-! ## Register files (R300, R301) -/

/-- R300, R301: s0 reads as zero and p0 as true, and a write to either is ignored. A 64-bit result written to a predicate
makes it true if the result is non-zero and false otherwise, a length register keeps bits 31 to 0 of the result, and read as a
scalar operand it is zero-extended; no other register changes. -/
def Obligations.RegisterFiles : Prop :=
  ∀ (x : Stoker) (v : W64) (i : Nat), mwf 0 x.s = true → mwf 0 x.lens = true →
    x.sreg 0 = 0 ∧ x.preg 0 = true ∧ x.write { file := .s, idx := 0 } v = x ∧ x.write { file := .p, idx := 0 } v = x ∧
    (1 ≤ i → i < 32 → (x.write { file := .s, idx := i } v).sreg i = v ∧
      x.write { file := .s, idx := i } v = { x with s := (x.write { file := .s, idx := i } v).s } ∧
      ∀ j, j ≠ i → (x.write { file := .s, idx := i } v).sreg j = x.sreg j) ∧
    (1 ≤ i → i < 8 → (x.write { file := .p, idx := i } v).preg i = decide (v ≠ 0) ∧
      x.write { file := .p, idx := i } v = { x with p := (x.write { file := .p, idx := i } v).p } ∧
      ∀ j, j < 8 → j ≠ i → (x.write { file := .p, idx := i } v).preg j = x.preg j) ∧
    (i < 4 → (x.write { file := .len, idx := i } v).lreg i = v.extractLsb' 0 32 ∧
      x.write { file := .len, idx := i } v = { x with lens := (x.write { file := .len, idx := i } v).lens } ∧
      ∀ j, j ≠ i → (x.write { file := .len, idx := i } v).lreg j = x.lreg j) ∧
    ∀ w, bits (zSub w) 5 2 = 1 → x.aluA w = (x.lreg (zA w)).setWidth 64

/-! ## The Catalogue (R212 to R221, R239, R240) -/

/-- R212, R214 to R216, R219, R221, R239, R240: every CAT_ command is judged WRONG_PORT, BAD_STATE, BUSY in that order, and one
past these sets LAST_SEG. WRITE stores an entry that passes its checks, INVALIDATE clears VALID, READ shows the entry, and
PRES_FILL, PRES_EMPTY, CAT_PRES_SET and CAT_PRES_CLR change the presence bits of their pages alone; a change that takes
something away drains, BUSY, until the pieces translated before it have finished. CAT_POOL is LOCKED, BUSY, POOL or taken. -/
def Obligations.CatalogueCommands : Prop :=
  ∀ (p : Port) (g : GalleryId) (seg : BitVec 8) (v : W64) (s : State) (x : Gallery) (y : Segment) (old : List Nat)
    (put : Catalogue → State), Canon s → Serving s → x = s.gal g → y = x.cat.seg seg.toNat →
    old = ((s.pieces.filter fun r => decide (r.gal = g.val) && decide (r.seg = some seg.toNat)).map fun r => r.id) →
    (∀ c, put c = { s with gals := mset {} s.gals g { x with cat := c } }) →
    (∀ c, c = .catWrite p g seg ∨ c = .invalidate p g seg ∨ c = .catRead p g seg ∨ c = .presFill p g seg ∨ c = .presEmpty p g seg ∨
        c = .catPresSet p g v ∨ c = .catPresClr p g v →
      (x.home ≠ p → exec c s = .next (put { x.cat with result := .wrongPort })) ∧
      (x.home = p → (x.st = .vacant ∨ x.st = .resetting) → exec c s = .next (put { x.cat with result := .badState })) ∧
      (x.home = p → x.st ≠ .vacant → x.st ≠ .resetting → x.cat.busy = true →
        exec c s = .next (put { x.cat with result := .busy }))) ∧
    (x.home = p → x.st ≠ .vacant → x.st ≠ .resetting → x.cat.busy = false →
      (∀ r, x.cat.writeCheck seg.toNat = some r →
        exec (.catWrite p g seg) s = .next (put { x.cat with lastSeg := seg, result := r })) ∧
      (x.cat.writeCheck seg.toNat = none → ∃ z P,
        z = { w0 := x.cat.e0, w1 := x.cat.e1 &&& 0x7FFFFFFFFFFFFFFF, w2 := x.cat.e2 } ∧
        (∀ j, j ≠ seg.toNat → (x.cat.seg j).valid = true →
          z.vbase + z.bytes ≤ (x.cat.seg j).vbase ∨ (x.cat.seg j).vbase + (x.cat.seg j).bytes ≤ z.vbase) ∧
        (∀ i, P.testBit i = if x.cat.presBase z ≤ i ∧ i < x.cat.presBase z + z.pages then x.cat.e1.getLsbD 63 else s.presence.testBit i) ∧
        exec (.catWrite p g seg) s = .next { put { x.cat with
          lastSeg := seg, segs := mset {} x.cat.segs seg.toNat z, busy := true, draining := old } with presence := P }) ∧
      exec (.catRead p g seg) s = .next (put { x.cat with
        lastSeg := seg, e0 := y.w0, e1 := y.w1, e2 := y.w2, e3 := 0, result := .ok }) ∧
      (y.valid = false → ∀ c, c = .invalidate p g seg ∨ c = .presFill p g seg ∨ c = .presEmpty p g seg →
        exec c s = .next (put { x.cat with lastSeg := seg, result := .noSeg })) ∧
      (y.valid = true →
        exec (.invalidate p g seg) s = .next (put { x.cat with
          lastSeg := seg, segs := mset {} x.cat.segs seg.toNat { y with w0 := y.w0 &&& 0x7FFFFFFFFFFFFFFF }
          busy := true, draining := old }) ∧
        (∃ P, (∀ i, P.testBit i = (s.presence.testBit i || decide (x.cat.presBase y ≤ i ∧ i < x.cat.presBase y + y.pages))) ∧
          exec (.presFill p g seg) s = .next { put { x.cat with lastSeg := seg, result := .ok } with presence := P }) ∧
        ∃ P, (∀ i, P.testBit i = (s.presence.testBit i && !decide (x.cat.presBase y ≤ i ∧ i < x.cat.presBase y + y.pages))) ∧
          exec (.presEmpty p g seg) s = .next { put { x.cat with lastSeg := seg, busy := true, draining := old } with presence := P }) ∧
      ∀ z first, z = x.cat.seg x.cat.selSeg.toNat → first = x.cat.selWord.toNat * 64 →
        (z.valid = false ∨ z.pages ≤ first → ∀ c, c = .catPresSet p g v ∨ c = .catPresClr p g v →
          exec c s = .next (put { x.cat with result := .noSeg })) ∧
        (z.valid = true → first < z.pages → ∀ sel : Nat → Bool, (∀ i, sel i = (decide (x.cat.presBase z + first ≤ i ∧
            i < x.cat.presBase z + min (first + 64) z.pages) && v.getLsbD (i - (x.cat.presBase z + first)))) →
          (∃ P, (∀ i, P.testBit i = (s.presence.testBit i || sel i)) ∧
            exec (.catPresSet p g v) s = .next { put { x.cat with result := .ok } with presence := P }) ∧
          ((∀ i, sel i = false) → exec (.catPresClr p g v) s = .next (put { x.cat with result := .ok })) ∧
          ((∃ i, sel i = true) → ∃ P ids, (∀ i, P.testBit i = (s.presence.testBit i && !sel i)) ∧
            (∀ r ∈ s.pieces, r.id ∈ ids ↔ ∃ u ∈ s.pieces, u.id = r.id ∧ u.gal = g.val ∧ u.seg = some x.cat.selSeg.toNat ∧
              sel (x.cat.presBase z + (u.va - z.vbase) / 65536) = true) ∧
            exec (.catPresClr p g v) s = .next { put { x.cat with busy := true, draining := ids } with presence := P }))) ∧
    (∀ base size locked, base = bits v.toNat 0 15 → size = bits v.toNat 32 16 →
        (locked ↔ (x.st ≠ .vacant ∧ x.st ≠ .dormant) ∨ s.holds p 0 = false ∨ ∃ e ∈ x.cat.segs, e.2.valid = true) →
      (locked → exec (.catPool p g v) s = .next (put { x.cat with result := .locked })) ∧
      (¬ locked → x.cat.busy = true → exec (.catPool p g v) s = .next (put { x.cat with result := .busy })) ∧
      ∀ taken, (taken ↔ ∃ e ∈ s.gals, e.1 ≠ g.val ∧ e.2.st ≠ .vacant ∧ base < e.2.cat.poolBase + e.2.cat.poolSize ∧
          e.2.cat.poolBase < base + size) →
        (¬ locked → x.cat.busy = false → (32768 < base + size ∨ taken) →
          exec (.catPool p g v) s = .next (put { x.cat with result := .pool })) ∧
        (¬ locked → x.cat.busy = false → base + size ≤ 32768 → ¬ taken →
          exec (.catPool p g v) s = .next (put { x.cat with poolBase := base, poolSize := size, result := .ok }))) ∧
    (x.cat.busy = true → (∀ r ∈ s.pieces, r.id ∉ x.cat.draining) →
      exec (.catDrainDone g) s = .next (put { x.cat with busy := false, result := .ok, draining := [] })) ∧
    (x.cat.busy = false ∨ (∃ r ∈ s.pieces, r.id ∈ x.cat.draining) → exec (.catDrainDone g) s = .next s)

/-! ## What a host writes to a Hearth (R281, R325, R326, R734, R815) -/

/-- R281, R325, R326, R815: HRT_ writes take effect from the holder of Keeper slot 0, or 3, alone. A granule in use keeps its
owner; an accepted HRT_PS_MAP unplaces the programs of other galleries over it. FENCE_REQ fences the Hearth without an entry in
the fence list and ends its undecided work orders. A Hearth reset, of a fenced Hearth with no busy Stoker, clears it, and a
listed Hearth is fenced again with the cause in its entry. -/
def Obligations.HearthRegisters : Prop :=
  ∀ (p : Port) (h : HearthId) (j : Fin 256) (v : W32) (s : State) (x : Hearth), Canon s → Serving s → x = s.hearth h →
    mwf {} x.progs = true →
    (s.holds p 0 = false → exec (.hrtPsMap p h j v) s = .next (s.setHearth h { x with result := .notOwner }) ∧
      ∀ on, exec (.hrtPostRoute p h on) s = .next (s.setHearth h { x with result := .notOwner })) ∧
    (s.holds p 3 = false → exec (.fenceReq p h) s = .next (s.setHearth h { x with result := .notOwner }) ∧
      exec (.hrtReset p h) s = .next (s.setHearth h { x with result := .notOwner })) ∧
    (s.holds p 0 = true →
      (∀ inUse, (inUse ↔ (∃ e ∈ x.progs, e.2.overlaps (1024 * j.val) 1024 = true ∧ s.executes h e.2 = true) ∨
          ∃ w ∈ s.wos, w.opcode.toNat = opPlace ∧ bitAt w.hearths.toNat h = true ∧
            w.offset < 1024 * j.val + 1024 ∧ 1024 * j.val < w.offset + w.length) →
        (inUse → exec (.hrtPsMap p h j v) s = .next (s.setHearth h { x with result := .inUse })) ∧
        (¬ inUse → ∃ P, exec (.hrtPsMap p h j v) s = .next (s.setHearth h { x with
            result := .ok, psMap := mset (false, 0) x.psMap j (v.getLsbD 31, bits v.toNat 0 10), progs := P }) ∧
          ∀ n, mget {} P n = if (mget {} x.progs n).overlaps (1024 * j.val) 1024 = true ∧
            ¬ (v.getLsbD 31 = true ∧ (mget {} x.progs n).gal = bits v.toNat 0 10) then {} else mget {} x.progs n)) ∧
      ∀ on, (x.calls ≠ [] → exec (.hrtPostRoute p h on) s = .next (s.setHearth h { x with result := .busy })) ∧
        (x.calls = [] → exec (.hrtPostRoute p h on) s = .next (s.setHearth h { x with stoveRoute := on, result := .ok }))) ∧
    (s.holds p 3 = true →
      (∃ t, exec (.fenceReq p h) s = .next t ∧ (t.hearth h).fenced = true ∧ (t.hearth h).result = .ok ∧
        (t.hearth h).cause = (if x.fenced then x.cause else 0x10) ∧ t.faults.fences = s.faults.fences ∧
        (x.fenced = false → ∀ w ∈ s.wos, s.wo? w.id = some w → bitAt w.hearths.toNat h = true → w.decided = none →
          ∃ u d, t.wo? w.id = some u ∧ u.decided = some d ∧ d.status = .remap ∧ d.hearth = BitVec.ofNat 8 h)) ∧
      (x.fenced = false ∨ (∃ k, k < 16 ∧ (x.stoker k).st ≠ .free) →
        exec (.hrtReset p h) s = .next (s.setHearth h { x with result := .inUse })) ∧
      (x.fenced = true → (∀ k, k < 16 → (x.stoker k).st = .free) →
        (s.mfg h ≠ 0 → (∀ e ∈ s.faults.fences, e.2.valid = false) →
          exec (.hrtReset p h) s = .next ((s.setHearth h {
            psMap := x.psMap, stoveRoute := x.stoveRoute, nextId := x.nextId
            stove := { loads := x.stove.loads, reloads := x.stove.reloads } }).setPaceHearth h { s.paceHearth h with valid := false })) ∧
        ∀ n, (mget {} s.faults.fences n).valid = true → (mget {} s.faults.fences n).kind = 2 →
          (mget {} s.faults.fences n).index.toNat = h.val →
          (∀ e ∈ s.faults.fences, e.2.valid = true → e.2.kind = 2 → e.2.index.toNat = h.val → e.2.cause = (mget {} s.faults.fences n).cause) →
          ∃ t, exec (.hrtReset p h) s = .next t ∧ (t.hearth h).fenced = true ∧
            (t.hearth h).cause = (mget {} s.faults.fences n).cause ∧ (t.hearth h).hob = [] ∧ (t.hearth h).ps = [] ∧
            (t.hearth h).progs = [] ∧ (t.hearth h).slots = [] ∧ (t.hearth h).stokers = []))

/-! ## The Fault log's commands (R733 to R735, R739, R740, R743, R746, R749, R751, R753) -/

/-- R733, R734, R740, R742, R743, R746, R751, R753: FAULT_COMMAND fences a Grate, an engine or a Stove slice, enters it in the
fence list under the lowest free entry and records it, but not twice (a Grate whose chain runs, once that has committed); FORGET frees an entry; the Return seal's conditions are
judged in their order and an accepted seal starts. FAULT_TAIL takes a value up to the head, and the boot flash appends the
oldest record that waits to the book. -/
def Obligations.FaultCommands : Prop :=
  ∀ (p : Port) (arg : BitVec 10) (s : State) (x : FaultState) (put : FaultResult → State), Canon s → Serving s → x = s.faults →
    mwf {} x.fences = true → (∀ r, put r = { s with faults := { x with result := r } }) →
    (∀ c, c = .fenceGrate p arg ∨ c = .fenceEngine p arg ∨ c = .fenceStove p arg ∨ c = .forget p arg →
      (s.holds p 3 = false → exec c s = .next (put .notOwner)) ∧
      (s.holds p 3 = true → x.busy = true → exec c s = .next (put .busy))) ∧
    (s.holds p 3 = true → x.busy = false →
      (∀ (c : Instr) (kind : BitVec 3) (limit : Nat), (c = .fenceGrate p arg ∧ kind = 1 ∧ limit = 768) ∨ (c = .fenceEngine p arg ∧ kind = 3 ∧ limit = 32) ∨
          (c = .fenceStove p arg ∧ kind = 4 ∧ limit = 48) →
        (limit ≤ arg.toNat → exec c s = .next (put .badValue)) ∧
        (arg.toNat < limit →
          (c = .fenceGrate p arg → (s.hearth (arg.toNat / 16)).fenced = true ∨
            (s.mfg (arg.toNat / 16) &&& ~~~(s.hearth (arg.toNat / 16)).grateFenced ≠ BitVec.ofNat 16 (2 ^ (arg.toNat % 16)) ∧
              s.mfg (arg.toNat / 16) &&& ~~~(s.hearth (arg.toNat / 16)).grateFenced ≠ 0)) →
          ((∃ e ∈ x.fences, e.2.valid = true ∧ e.2.kind = kind ∧ e.2.index = arg.setWidth 12) → exec c s = .next (put .ok)) ∧
          (∀ z, z = s.hearth (arg.toNat / 16) → c = .fenceGrate p arg →
            (∀ e ∈ x.fences, e.2.valid = true → e.2.kind = kind → e.2.index ≠ arg.setWidth 12) →
            (∃ r ∈ z.chains, r.grate = some (arg.toNat % 16)) → exec c s = .next { s with
              faults := { x with result := .ok }
              hearths := mset {} s.hearths (arg.toNat / 16) { z with
                grateDue := z.grateDue ||| BitVec.ofNat 16 (2 ^ (arg.toNat % 16)) } }) ∧
          (∀ n, (∀ e ∈ x.fences, e.2.valid = true → e.2.kind = kind → e.2.index ≠ arg.setWidth 12) → x.frozen = false →
            (c = .fenceGrate p arg → ∀ r ∈ (s.hearth (arg.toNat / 16)).chains, r.grate ≠ some (arg.toNat % 16)) →
            n < 1024 → (mget {} x.fences n).valid = false → (∀ m, m < n → (mget {} x.fences m).valid = true) →
            ∃ t, exec c s = .next t ∧ t.faults.result = .ok ∧
              t.faults.fences = mset {} x.fences n { valid := true, kind := kind, index := arg.setWidth 12, cause := 0
                                                     record := x.bookRecords + BitVec.ofNat 32 x.bookQueue.length } ∧
              (kind = 1 → ((t.hearth (arg.toNat / 16)).grateFenced).getLsbD (arg.toNat % 16) = true) ∧
              (kind = 3 → ((t.cabinet (arg.toNat / 8)).fenced).getLsbD (arg.toNat % 8) = true) ∧
              (kind = 4 → (t.hearth arg.toNat).stove.fenced = true)))) ∧
      ((s.hearth (arg.toNat / 16)).fenced = false → arg.toNat < 768 →
        s.mfg (arg.toNat / 16) &&& ~~~(s.hearth (arg.toNat / 16)).grateFenced = BitVec.ofNat 16 (2 ^ (arg.toNat % 16)) →
        exec (.fenceGrate p arg) s = .next (put .badValue)) ∧
      ((mget {} x.fences arg.toNat).valid = false → exec (.forget p arg) s = .next (put .badValue)) ∧
      ((mget {} x.fences arg.toNat).valid = true → x.frozen = true → exec (.forget p arg) s = .next (put .sealed)) ∧
      ((mget {} x.fences arg.toNat).valid = true → x.frozen = false →
        exec (.forget p arg) s = .next { s with faults := { x with
          fences := mset {} x.fences arg.toNat { mget {} x.fences arg.toNat with valid := false }, listFull := false, result := .ok } })) ∧
    (∀ owner armed vacant, (owner ↔ ∀ n, n < 4 → s.holds p n = true) →
        (armed ↔ ∃ n, x.armed = some (p, n) ∧ s.tb.elapsed ≤ n + sec 1) → (vacant ↔ ∀ e ∈ s.gals, e.2.st = .vacant) →
      (¬ owner → exec (.returnSeal p) s = .next (put .notOwner)) ∧
      (owner → x.busy = true → exec (.returnSeal p) s = .next (put .busy)) ∧
      (owner → x.busy = false → ¬ armed → exec (.returnSeal p) s = .next (put .notArmed)) ∧
      (owner → x.busy = false → armed → ¬ vacant → exec (.returnSeal p) s = .next (put .inUse)) ∧
      (owner → x.busy = false → armed → vacant → x.sealed = true → exec (.returnSeal p) s = .next (put .sealed)) ∧
      (owner → x.busy = false → armed → vacant → x.sealed = false → ∃ t, exec (.returnSeal p) s = .next t ∧
        t.faults = { x with busy := true, armed := none, sealStage := .intentMark })) ∧
    (∀ v, exec (.faultSealArm p v) s = .next { s with faults := { x with
      result := .ok, armed := if v = s.dev.unit then some (p, s.tb.elapsed) else none } }) ∧
    (∀ v, ((x.head - v).toNat ≤ (x.head - x.tail).toNat → exec (.faultTail v) s = .next { s with faults := { x with
        tail := v, result := .ok } }) ∧
      ((x.head - x.tail).toNat < (x.head - v).toNat → exec (.faultTail v) s = .next (put .badValue))) ∧
    (∀ b, (b = false ∨ x.sealed = false) → ∃ t, exec (.conservatorUnlock b) s = .next t ∧ t.gals = s.gals ∧ t.hearths = s.hearths ∧
      ((x.head - x.tail).toNat = 4096 → t.faults.lost = satAdd 65535 x.lost 1 ∧ t.shared = s.shared) ∧
      ((x.head - x.tail).toNat ≠ 4096 → t.faults.head = x.head + 1)) ∧
    (s.acc.pwrWarn = false →
      (x.bookQueue = [] → exec .faultBookAppend s = .next s) ∧
      ∀ r rest, x.bookQueue = r :: rest → ∃ t, exec .faultBookAppend s = .next t ∧ t.faults.bookQueue = rest ∧
        (x.frozen = true → t.faults.book = x.book ∧ t.faults.bookRecords = x.bookRecords) ∧
        (x.frozen = false → t.faults.bookRecords = x.bookRecords + 1 ∧
          (r.length = 32 → (mget [] t.faults.book x.bookRecords.toNat).length = 32 ∧
            (mget [] t.faults.book x.bookRecords.toNat).take 28 = natLe 4 x.bookRecords.toNat ++ (r.take 28).drop 4)))

/-! ## Accessions (R790 to R805, R747, R657, R783) -/

/-- R749, R801, R802, R804, R805: an ACC_COMMAND write is judged NOT_OWNER, BUSY, SEALED, BAD_STATE in that order, and one
that is allowed sets BUSY and starts: INSTALL at its check of the source, ACTIVATE and CONFIRM at their boot-control
update. R657, R743, R747, R783, R790, R792, R802, R804, R805: what a boot-flash operation does when it ends. A
boot-control update that failed is made again. ACTIVATE names the slot booted next; CONFIRM marks the running slot and
raises the floor; INSTALL erases, programs and reads back its target slot alone, which becomes VERIFIED, or INVALID on
an error or a changed hash; a Return seal writes its mark, erases the vault and then freezes the book. -/
def Obligations.Accessions : Prop :=
  (∀ (p : Port) (i : SlotId) (s : State) (x : AccState) (c : Instr) (cmd : AccCmd) (op : FlashOp) (allowed : Prop),
      s.pace.tripped = false → (s.dev.ready = true ∨ s.dev.recovery = true) → x = s.acc →
      ((c = .install p ∧ op = .accession ∧ allowed = True ∧ cmd = .install
          (if s.dev.recovery = false ∧ x.running = some .a then .b else .a) .check [] none []) ∨
        (c = .activate p i ∧ op = .bootControl ∧ cmd = .activate i ∧
          allowed = ((x.slot i).st = .verified ∨ (x.slot i).st = .confirmed ∨ (x.slot i).st = .rejected)) ∨
        (c = .confirm p ∧ op = .bootControl ∧ cmd = .confirm ∧
          allowed = (s.dev.ready = true ∧ ∃ j, x.running = some j ∧ (x.slot j).st = .trial))) →
      (s.holds p 1 = false → exec c s = .next { s with acc := { x with result := .notOwner } }) ∧
      (s.holds p 1 = true → x.busy = true → exec c s = .next { s with acc := { x with result := .busy } }) ∧
      (s.holds p 1 = true → x.busy = false → s.faults.sealed = true → exec c s = .next { s with acc := { x with result := .sealed } }) ∧
      (s.holds p 1 = true → x.busy = false → s.faults.sealed = false → ¬ allowed →
        exec c s = .next { s with acc := { x with result := .badState } }) ∧
      (s.holds p 1 = true → x.busy = false → s.faults.sealed = false → allowed → ∃ f,
        exec c s = .next { s with acc := { x with busy := true, cmd := some cmd, progress := 0, flash := f } } ∧
        (x.flash = none → x.tripDue = none → x.pwrWarn = false → x.vaultDue = false → s.faults.sealStage = .none → f = some op))) ∧
  (∀ (s : State) (sig : Bool) (x : AccState), Canon s → x = s.acc →
      (x.flash = none → ∀ ok, exec (.bootFlashOperationEnd ok sig) s = .next s) ∧
      (x.tripDue = none → x.pwrWarn = false →
        (∀ i, x.flash = some .bootControl → x.cmd = some (.activate i) →
          ∃ t, exec (.bootFlashOperationEnd true sig) s = .next t ∧ t.acc.next = i ∧ t.acc.bootSeq = x.bootSeq + 1 ∧
            t.acc.busy = false ∧ t.acc.cmd = none ∧ t.acc.result = .ok ∧ t.acc.running = x.running ∧ t.acc.image = x.image ∧
            t.acc.slot i = (if (x.slot i).st = .confirmed then x.slot i else { x.slot i with st := .trial, failed := 0 }) ∧
            ∀ j, j ≠ i → t.acc.slot j = x.slot j) ∧
        (∀ i m, x.flash = some .bootControl → x.cmd = some .confirm → x.running = some i → x.image = some m →
          ∃ t, exec (.bootFlashOperationEnd true sig) s = .next t ∧ t.acc.lastConfirmed = some i ∧ t.acc.bootSeq = x.bootSeq + 1 ∧
            t.acc.busy = false ∧ t.acc.result = .ok ∧
            t.acc.floor = (if x.floor < m.floorTo ∧ 0 < x.raisesLeft then m.floorTo else x.floor) ∧
            ∀ j v, v = (if j = i then { x.slot j with st := .confirmed, failed := 0 } else x.slot j) →
              t.acc.slot j = if (∃ n, v.image = some n ∧ n.svn < t.acc.floor) ∧ v.st ≠ .empty ∧ v.st ≠ .invalid ∧ v.st ≠ .writing then
                { v with st := .belowFloor } else v) ∧
        (∀ c, x.flash = some .bootControl → (c = .confirm ∨ ∃ i, c = .activate i) → x.cmd = some c → x.vaultDue = false →
          s.faults.sealStage = .none → exec (.bootFlashOperationEnd false sig) s = .next s) ∧
        (∀ i st hash image programmed, x.flash = some .accession → x.cmd = some (.install i st hash image programmed) →
          (st = .check → (x.srcOffset % 4096 ≠ 0 ∨ s.ledger.exchMib * 2 ^ 20 < x.srcOffset + x.srcLength) → ∀ ok,
            ∃ t, exec (.bootFlashOperationEnd ok sig) s = .next t ∧ t.acc.result = .badSource ∧ t.acc.busy = false ∧
              ∀ j, t.acc.slot j = x.slot j) ∧
          (st = .erase → ∃ t, exec (.bootFlashOperationEnd true sig) s = .next t ∧
            t.acc.cmd = some (.install i .program hash none []) ∧ t.acc.busy = x.busy ∧ ∀ j, t.acc.slot j = x.slot j) ∧
          (st ≠ .check → ∃ t, exec (.bootFlashOperationEnd false sig) s = .next t ∧ t.acc.result = .flashFail ∧ t.acc.busy = false ∧
            t.acc.slot i = { st := .invalid } ∧ ∀ j, j ≠ i → t.acc.slot j = x.slot j) ∧
          (st = .readBack → programmed ≠ hash → ∃ t, exec (.bootFlashOperationEnd true sig) s = .next t ∧ t.acc.result = .badSource ∧
            t.acc.busy = false ∧ t.acc.slot i = { st := .invalid } ∧ ∀ j, j ≠ i → t.acc.slot j = x.slot j) ∧
          (st = .readBack → programmed = hash → ∃ t, exec (.bootFlashOperationEnd true sig) s = .next t ∧ t.acc.result = .ok ∧
            t.acc.busy = false ∧ t.acc.slot i = { st := .verified, image := image } ∧ ∀ j, j ≠ i → t.acc.slot j = x.slot j)) ∧
        (x.flash = some .returnSeal →
          (s.faults.sealStage = .intentMark → ∃ t, exec (.bootFlashOperationEnd true sig) s = .next t ∧ t.faults.intent = true ∧
            t.acc.keys = [] ∧ t.faults.sealStage = .eraseVault) ∧
          (s.faults.sealStage = .eraseVault → ∃ t, exec (.bootFlashOperationEnd true sig) s = .next t ∧ t.acc.vault = [] ∧
            t.faults.sealStage = .appendRecord) ∧
          (s.faults.sealStage = .appendRecord → ∃ t, exec (.bootFlashOperationEnd true sig) s = .next t ∧ t.faults.sealed = true ∧
            t.faults.frozen = true ∧ t.faults.busy = false ∧ t.faults.bookQueue = [] ∧
            (s.faults.frozen = false → t.faults.bookRecords = s.faults.bookRecords + BitVec.ofNat 32 (s.faults.bookQueue.length + 1)))) ∧
        (x.flash = some .vault → ∃ t, exec (.bootFlashOperationEnd true sig) s = .next t ∧ t.acc.vault = x.keys ∧
          t.acc.vaultDue = false ∧ t.acc.rekeyed = [])) ∧
      ∀ r, x.flash = some .trip → x.tripDue = some r → ∃ t, exec (.bootFlashOperationEnd true sig) s = .next t ∧ t.acc.tripDue = none ∧
        (s.faults.frozen = false → t.faults.bookRecords = s.faults.bookRecords + 1))

/-! ## Resets of the device (R79, R763, R766, R790, R801, R803, R813, R819, R820) -/

/-- R79, R745, R763, R766, R801, R813, R819, R820: RESET_N low, REBOOT by the holder of Keeper slot 1, the watchdog before READY and a
loss of power start a device cold reset. It clears everything on the die and keeps the boot flash, the fuses and what the
pins say; a slot being written is INVALID. RESET_N's rise starts power-up. -/
def Obligations.DeviceColdReset : Prop :=
  ∀ (p : Port) (s : State) (c : Instr) (cause : ResetCause) (low : Bool), Canon s →
    ((c = .resetNLow ∧ cause = .resetN ∧ low = true ∧ s.dev.resetLow = false) ∨
      (c = .powerLoss ∧ cause = .powerOn ∧ low = true) ∨
      (c = .reboot p ∧ cause = .reboot ∧ low = false ∧ s.pace.tripped = false ∧ (s.dev.ready = true ∨ s.dev.recovery = true) ∧
        s.holds p 1 = true ∧ s.acc.busy = false) ∨
      (c = .watchdogExpiry ∧ cause = .watchdog ∧ low = false ∧ s.dev.ready = false ∧ s.dev.recovery = false ∧
        s.dev.resetLow = false ∧ s.dev.bootStart + sec 2 ≤ s.tb.elapsed)) →
    (∃ t, exec c s = .next t ∧
      t.dev = { unit := s.dev.unit, grade := s.dev.grade, mfg := s.dev.mfg, cause := cause, resetLow := low } ∧
      t.tb = { epoch := t.tb.epoch } ∧ t.tb.epoch ≠ 0 ∧ t.gals = [] ∧ t.wos = [] ∧ t.held = [] ∧ t.presence = 0 ∧
      t.hearths = [] ∧ t.cabinets = [] ∧ t.pieces = [] ∧ t.accs = [] ∧ t.shared = [] ∧ t.lostLines = [] ∧ t.sparesUsed = [] ∧
      t.keeper = {} ∧ t.ledger = {} ∧ t.mgmt = {} ∧ t.fen = { boot := t.fen.boot } ∧
      t.pace = { tripped := t.pace.tripped, tripOut := t.pace.tripOut } ∧
      (∀ b, t.bay b = { present := (s.bay b).present }) ∧
      t.acc.keys = [] ∧ t.acc.running = none ∧ t.acc.image = none ∧ t.acc.busy = false ∧ t.acc.cmd = none ∧ t.acc.flash = none ∧
      t.acc.pwrWarn = s.acc.pwrWarn ∧ (s.acc.rekeyed = [] → t.acc.vault = s.acc.vault) ∧
      t.faults = { sealed := s.faults.sealed, frozen := s.faults.frozen, listFull := s.faults.listFull, fences := s.faults.fences
                   intent := s.faults.intent, book := s.faults.book, bookRecords := s.faults.bookRecords
                   bookOldest := s.faults.bookOldest } ∧
      t.pending = s.pending ∧
      (∀ q, t.port q = { resetBy := (s.port q).resetBy.filter (fun r => decide (r = .perst)), perstHigh := (s.port q).perstHigh }) ∧
      (s.acc.cmd = none ∨ (∃ i st h m q, s.acc.cmd = some (.install i st h m q)) → t.free = s.free ∧
        t.acc.bootSeq = s.acc.bootSeq ∧ t.acc.next = s.acc.next ∧ t.acc.lastConfirmed = s.acc.lastConfirmed ∧
        t.acc.floor = s.acc.floor ∧ t.acc.golden = s.acc.golden ∧
        ∀ i, i ≠ .golden → t.acc.slot i = if (s.acc.slot i).st = .writing then { st := .invalid } else s.acc.slot i)) ∧
    (s.pace.tripped = false → (s.dev.ready = true ∨ s.dev.recovery = true) → s.holds p 1 = false →
      exec (.reboot p) s = .next { s with acc := { s.acc with result := .notOwner } }) ∧
    (s.pace.tripped = false → (s.dev.ready = true ∨ s.dev.recovery = true) → s.holds p 1 = true → s.acc.busy = true →
      exec (.reboot p) s = .next { s with acc := { s.acc with result := .busy } }) ∧
    (s.dev.ready = true ∨ s.dev.recovery = true ∨ s.tb.elapsed < s.dev.bootStart + sec 2 → exec .watchdogExpiry s = .next s) ∧
    (s.dev.resetLow = true → exec .resetNLow s = .next s ∧
      exec .resetNRise s = .next { s with dev := { s.dev with resetLow := false, bootStart := s.tb.elapsed } })

/-! ## Power-up (R684, R734, R748, R770, R797, R806 to R811) -/

/-- R684, R734, R748, R797, R800, R806 to R810: power-up passes through its phases in their order, not before their times. VERIFY boots the
first image of Table 20-10 that may boot, or enters RECOVERY; a TRIAL slot's failed-boot count is raised first, and a skipped
slot becomes REJECTED or INVALID. INIT applies the fence list, loads the keys and finishes a Return seal. -/
def Obligations.PowerUpPhases : Prop :=
  ∀ (s : State) (bad : List SlotId) (x : AccState) (boots : SlotId → Prop) (go : State → Prop), Canon s → s.dev.resetLow = false →
    x = s.acc → (∀ t, go t ↔ exec (.powerUpPhase bad) s = .next t) →
    (∀ i, boots i ↔ ∃ m, (x.slot i).image = some m ∧ i ∉ bad ∧ x.floor ≤ m.svn ∧ policiesInRange m = true ∧
      (x.slot i).st ≠ .empty ∧ (x.slot i).st ≠ .invalid ∧ (x.slot i).st ≠ .writing) →
    (s.dev.phase = .rom → go { s with dev := { s.dev with phase := .verify } }) ∧
    (s.dev.phase = .verify → ∀ first i, (first ↔ boots x.next ∧ (x.slot x.next).failed < 3) →
      ((first ∧ i = some x.next) ∨ (¬ first ∧ ∃ j, x.lastConfirmed = some j ∧ boots j ∧ i = some j) ∨
        (¬ first ∧ (∀ j, x.lastConfirmed = some j → ¬ boots j) ∧ boots .golden ∧ i = some .golden) ∨
        (¬ first ∧ (∀ j, x.lastConfirmed = some j → ¬ boots j) ∧ ¬ boots .golden ∧ i = none)) →
      (i = none → go { s with dev := { s.dev with phase := .init, recovery := true } }) ∧
      ∀ j, i = some j → ∃ t, go t ∧ t.dev = { s.dev with phase := .init } ∧ t.acc.running = some j ∧ t.acc.image = (x.slot j).image ∧
        t.acc.bootSeq = x.bootSeq + 1 ∧
        (first → t.acc.next = x.next ∧ t.faults = s.faults ∧
          t.acc.slot j = { x.slot j with failed := (x.slot j).failed + (if (x.slot j).st = .trial then 1 else 0) }) ∧
        (¬ first → t.acc.next = j ∧ t.faults.head = s.faults.head + (if (s.faults.head - s.faults.tail).toNat = 4096 then 0 else 1) ∧
          (x.next ≠ .golden → j ≠ x.next → (x.slot x.next).st ≠ .empty →
            (boots x.next → (t.acc.slot x.next).st = .rejected) ∧
            (¬ boots x.next → (t.acc.slot x.next).st = .belowFloor ∨ (t.acc.slot x.next).st = .invalid))) ∧
        ∀ m y, t.acc.image = some m → (m.members.find? fun v => decide (v.unit = s.dev.unit.setWidth 64)) = some y →
          t.fen.valid = true ∧ t.fen.devno = y.devno ∧ t.fen.pod = m.pod) ∧
    (s.dev.phase = .init →
      (s.faults.intent = true → s.faults.sealed = false → ∃ t, go t ∧ t.faults.sealed = true ∧ t.faults.frozen = true ∧
        t.acc.keys = [] ∧ t.acc.vault = []) ∧
      (s.faults.intent = false ∨ s.faults.sealed = true → ∃ t, go t ∧ t.dev = { s.dev with phase := .ports, configReady := true } ∧
        t.acc = { x with keys := x.vault } ∧ t.faults = s.faults ∧
        ∀ n e, mget {} s.faults.fences n = e → e.valid = true →
          (e.kind = 1 → ((t.hearth (e.index.toNat / 16)).grateFenced).getLsbD (e.index.toNat % 16) = true) ∧
          (e.kind = 2 → (t.hearth e.index.toNat).fenced = true) ∧
          (e.kind = 3 → ((t.cabinet (e.index.toNat / 8)).fenced).getLsbD (e.index.toNat % 8) = true) ∧
          (e.kind = 4 → (t.hearth e.index.toNat).stove.fenced = true))) ∧
    (s.dev.phase = .ports →
      (s.dev.recovery = true ∨ s.tb.elapsed < s.dev.bootStart + ms 250 → go s) ∧
      (s.dev.recovery = false → s.dev.bootStart + ms 250 ≤ s.tb.elapsed → ∃ t, go t ∧ t.dev.phase = .fenline ∧ ∀ p, p < 6 →
        t.fenPort p = if (s.fenPort p).connected ∧ (s.fenPort p).disable = false ∧ (s.fenPort p).st = .down then
          { s.fenPort p with st := .training } else s.fenPort p)) ∧
    (s.dev.phase = .fenline →
      (s.tb.elapsed < s.dev.bootStart + ms 300 → go s) ∧
      (s.dev.bootStart + ms 300 ≤ s.tb.elapsed → go { s with dev := { s.dev with phase := .folios } })) ∧
    (s.dev.phase = .folios →
      (s.tb.elapsed < s.dev.bootStart + ms 700 → go s) ∧
      (s.dev.bootStart + ms 700 ≤ s.tb.elapsed → ∀ m, x.image = some m → ∃ t, go t ∧ t.dev.phase = .settle ∧
        t.acc.graceMs = m.graceMs ∧ t.ledger.snpTimeout = m.snpTimeout ∧ t.tb.ppsEn = m.timeCtrl.getLsbD 0 ∧
        t.tb.ppsStep = m.timeCtrl.getLsbD 1 ∧
        t.pace.mv = m.bootMv ∧ (s.pace.busy = false → .avsVoltage m.bootMv ∈ t.out))) ∧
    (s.dev.phase = .settle → ∃ t, go t ∧ t.dev = { s.dev with phase := .ready, ready := true } ∧ t.gals = s.gals) ∧
    (s.dev.phase = .ready → go s)

/-! ## Management and the test access port (R774, R779 to R782, R812, R821 to R824, R147) -/

/-- R774, R812, Table 20-13: until 400 ms the Curator drops MCTP control, answers PLDM with ERROR_NOT_READY (0x04), SPDM
with Busy (0x03) and a mailbox with DOE Busy, and the two-wire target does not acknowledge its address before 20 ms;
its identity block is read from 20 ms on. R147, R821 to R824: what management answers from 400 ms on: endpoint
identifiers, the message types, sensor readings of Table 20-16, and SPDM 1.3 without KEY_EXCHANGE, with certificates
and measurements of slot 0. Command and error codes are the model's, from the standards that these rules name (log
entry 60). -/
def Obligations.ManagementAnswers : Prop :=
  (∀ (s : State) (i : MgmtIf) (p q : Port), s.dev.resetLow = false → s.tb.elapsed < s.dev.bootStart + ms 400 →
      (∀ c, ((∃ e, c = .setEndpointId i e) ∨ c = .getEndpointId i ∨ c = .getMctpVersionSupport i ∨ c = .getMessageTypeSupport i →
          i = .vdm p → exec c s = .next s) ∧
        (∀ ty n, ((∃ r, c = .getpdr i r) ∧ ty = 2 ∧ n = 0x51) ∨ ((∃ r, c = .getsensorreading i r) ∧ ty = 2 ∧ n = 0x11) ∨
            ((∃ r, c = .getstatesensorreadings i r) ∧ ty = 2 ∧ n = 0x21) ∨ (c = .pldmBase i .getTid ∧ ty = 0 ∧ n = 2) →
          i = .vdm p → exec c s = .next { s with out := s.out ++ [.pldmResp i ty n 0x04 []] }) ∧
        (c = .getVersion i ∨ c = .getCapabilities i ∨ (∃ b, c = .negotiateAlgorithms i b) ∨ c = .getDigests i ∨
            (∃ n a b, c = .getCertificate i n a b) ∨ (∃ n a, c = .spdmChallenge i n a) ∨ (∃ n, c = .getMeasurements i n) ∨
            (∃ b, c = .keyExchange i b) →
          (i = .vdm p ∨ i = .doe p) → exec c s = .next { s with out := s.out ++ [.spdmError i 0x03] }) ∧
        ((∃ n, c = .doeDiscovery q n) ∨ (∃ n, c = .cxlTableAccess q n) → exec c s = .next { s with out := s.out ++ [.doeBusy q] }) ∧
        (s.tb.elapsed < s.dev.bootStart + ms 20 →
          ((∃ b, c = .identityBlockRead b ∧ i = if b then .smbus else .i3c) ∨ ((∃ a, c = .dynamicAddressAssignment a) ∧ i = .i3c) ∨
            ((i = .i3c ∨ i = .smbus) ∧ (c = .getEndpointId i ∨ c = .getVersion i ∨ c = .pldmBase i .getTid)) →
            exec c s = .next { s with out := s.out ++ [.notAcked i] }))) ∧
      (s.dev.bootStart + ms 20 ≤ s.tb.elapsed →
        (∀ b, ∃ w : W32, exec (.identityBlockRead b) s = .next { s with out := s.out ++ [.identity (if b then .smbus else .i3c)
          (natLe 8 s.devId ++ natLe 4 s.devGrade ++ natLe 4 s.devStatus ++ natLe 4 w.toNat ++ List.replicate 12 0)] }) ∧
        ∀ a, exec (.dynamicAddressAssignment a) s = .next { s with mgmt := { s.mgmt with dynAddr := some a } })) ∧
  (∀ (s : State) (i : MgmtIf) (p : Port) (say : State → Out → State), s.dev.resetLow = false → s.dev.bootStart + ms 400 ≤ s.tb.elapsed →
      (∀ t o, say t o = { t with out := t.out ++ [o] }) →
      ((∀ p, i ≠ .doe p) →
        (∀ e, exec (.setEndpointId i e) s = .next (say { s with mgmt := { s.mgmt with eid := e } } (.mctpResp i 1 [e]))) ∧
        exec (.getEndpointId i) s = .next (say s (.mctpResp i 2 [s.mgmt.eid])) ∧
        (∃ bs, exec (.getMctpVersionSupport i) s = .next (say s (.mctpResp i 4 bs))) ∧
        exec (.getMessageTypeSupport i) s = .next (say s (.mctpResp i 5 [0, 1, 5])) ∧
        (∀ e, exec (.pldmBase i (.setTid e)) s = .next (say { s with mgmt := { s.mgmt with tid := e } } (.pldmResp i 0 1 0 []))) ∧
        exec (.pldmBase i .getTid) s = .next (say s (.pldmResp i 0 2 0 [s.mgmt.tid])) ∧
        exec (.pldmBase i .getTypes) s = .next (say s (.pldmResp i 0 4 0 [0, 2])) ∧
        (∀ n, ∃ bs, exec (.getpdr i n) s = .next (say s (.pldmResp i 2 0x51 0 bs))) ∧
        (∀ v : Int, (∀ t, t = say s (.pldmResp i 2 0x11 0 (natLe 4 (BitVec.ofInt 32 v).toNat)) →
          (v = s.pace.mvNow → exec (.getsensorreading i 2) s = .next t) ∧
          (v = s.availGrates → exec (.getsensorreading i 5) s = .next t) ∧
          (∀ b : BayId, v = (s.bay b).wearPct → exec (.getsensorreading i (16 + BitVec.ofNat 16 b)) s = .next t) ∧
          (16 * v = s.pace.tjMax.toInt → exec (.getsensorreading i 1) s = .next t))) ∧
        (∀ n : BitVec 16, (n.toNat = 0 ∨ (5 < n.toNat ∧ n.toNat < 16) ∨ 23 < n.toNat) →
          exec (.getsensorreading i n) s = .next (say s (.pldmResp i 2 0x11 0x80 []))) ∧
        exec (.getstatesensorreadings i 32) s = .next (say s (.pldmResp i 2 0x21 0 [BitVec.ofNat 8 (bits s.devStatus 24 4)])) ∧
        (∀ b : BayId, exec (.getstatesensorreadings i (40 + BitVec.ofNat 16 b)) s =
          .next (say s (.pldmResp i 2 0x21 0 [BitVec.ofNat 8 (s.bay b).st.code]))) ∧
        ∀ n : BitVec 16, n ≠ 32 → (n.toNat < 40 ∨ 47 < n.toNat) →
          exec (.getstatesensorreadings i n) s = .next (say s (.pldmResp i 2 0x21 0x80 []))) ∧
      (∃ t, exec (.getVersion i) s = .next t ∧ i ∈ t.mgmt.versionOn ∧ i ∉ t.mgmt.capsOn ∧ i ∉ t.mgmt.algsOn ∧
        t.out = s.out ++ [.spdmResp i 0x04 [0x13]]) ∧
      (i ∈ s.mgmt.versionOn → ∃ t bs, exec (.getCapabilities i) s = .next t ∧ i ∈ t.mgmt.capsOn ∧ t.out = s.out ++ [.spdmResp i 0x61 bs]) ∧
      (i ∈ s.mgmt.capsOn → (∃ t bs, exec (.negotiateAlgorithms i true) s = .next t ∧ i ∈ t.mgmt.algsOn ∧
          t.out = s.out ++ [.spdmResp i 0x63 bs]) ∧
        exec (.negotiateAlgorithms i false) s = .next (say s (.spdmError i 0x01))) ∧
      (i ∈ s.mgmt.algsOn →
        (∃ bs, exec (.getDigests i) s = .next (say s (.spdmResp i 0x01 bs))) ∧
        (∃ chain : List Byte, ∀ off len, exec (.getCertificate i 0 off len) s =
          .next (say s (.spdmResp i 0x02 ((chain.drop off.toNat).take len.toNat)))) ∧
        (∀ n, ∃ bs, exec (.spdmChallenge i 0 n) s = .next (say s (.spdmResp i 0x03 bs))) ∧
        (∀ slot off len n, slot ≠ 0 → exec (.getCertificate i slot off len) s = .next (say s (.spdmError i 0x01)) ∧
          exec (.spdmChallenge i slot n) s = .next (say s (.spdmError i 0x01))) ∧
        (∀ m, s.acc.image = some m → exec (.getMeasurements i 2) s = .next (say s (.spdmMeasurements i [(2, m.hash)]))) ∧
        exec (.getMeasurements i 5) s = .next (say s (.spdmMeasurements i
          [(5, [(if s.faults.sealed then 1 else 0) + (if s.faults.frozen then 2 else 0)])])) ∧
        (∃ ms, exec (.getMeasurements i 0xFF) s = .next (say s (.spdmMeasurements i ms)) ∧ ms.map Prod.fst = List.range' 1 13) ∧
        exec (.getMeasurements i 0) s = .next (say s (.spdmMeasurements i [(0, [13])])) ∧
        ∀ n : Byte, 13 < n.toNat → n.toNat < 255 → exec (.getMeasurements i n) s = .next (say s (.spdmError i 0x01))) ∧
      (i ∉ s.mgmt.algsOn → ∀ c, c = .getDigests i ∨ (∃ n a b, c = .getCertificate i n a b) ∨ (∃ n a, c = .spdmChallenge i n a) ∨
        (∃ n, c = .getMeasurements i n) → exec c s = .next (say s (.spdmError i 0x04))) ∧
      (∀ b, exec (.keyExchange i b) s = .next (say s (.spdmError i 0x07))) ∧
      (∀ n, ∃ bs, exec (.doeDiscovery p n) s = .next (say s (.doeResp p bs))) ∧
      ∀ n, ∃ bs, exec (.cxlTableAccess p n) s = .next (say s (.doeResp p bs)))

/-- R779 to R782: a boundary scan shifts out what the pins held and keeps what is shifted in; EXTEST, its AC forms, CLAMP and
HIGHZ leave a device cold reset owed; IDCODE shifts out 0x2004_8A5B, bit 0 first; BYPASS delays by one bit. The rest of the
device stays as it is. -/
def Obligations.TestAccessPort : Prop :=
  ∀ (s : State) (pins shift : List Bool) (put : TapState → List Bool → State),
    (∀ t bs, put t bs = { s with tap := t, out := s.out ++ [.tdo bs] }) →
    (∀ c ir, (c = .extest pins shift ∧ ir = .extest) ∨ (c = .extestPulse pins shift ∧ ir = .extestPulse) ∨
        (c = .extestTrain pins shift ∧ ir = .extestTrain) →
      exec c s = .next (put { s.tap with ir := ir, boundary := shift, driven := true, highZ := false, owed := true } pins)) ∧
    exec (.samplePreload pins shift) s =
      .next (put { s.tap with ir := .sample, boundary := shift, driven := false, highZ := false } pins) ∧
    (∃ bs, bs.length = 32 ∧ (∀ n, n < 32 → bs[n]? = some ((0x20048A5B : BitVec 32).getLsbD n)) ∧
      exec .idcode s = .next (put { s.tap with ir := .idcode, driven := false, highZ := false } bs)) ∧
    (∀ bs last, bs = (false :: shift).take shift.length → last = (false :: shift).getLast (by simp) →
      exec (.clamp shift) s =
        .next (put { s.tap with ir := .clamp, bypassBit := last, driven := true, highZ := false, owed := true } bs) ∧
      exec (.highz shift) s =
        .next (put { s.tap with ir := .highz, bypassBit := last, driven := false, highZ := true, owed := true } bs) ∧
      exec (.bypass shift) s = .next (put { s.tap with ir := .bypass, bypassBit := last, driven := false, highZ := false } bs)) ∧
    exec .trstN s = .next { s with tap := { s.tap with ir := .idcode, driven := false, highZ := false } }

/-! ## Register accesses (R154 to R159, R809, R812) -/

/-- R14, R155, R156, R158, R159, R162, R809, R812: a host write of a register in BAR0 or a doorbell page is the command that the
register's row gives, a read answers the register's value, and a read of TIME_NOW latches. An access that is not an aligned
4 B or 8 B one within the window is counted in BAD_ACCESS and reported; a write that comes before READY is counted and dropped. -/
def Obligations.RegisterAccesses : Prop :=
  ∀ (p : Port) (s : State) (acc : Bar → Bool → Nat → Nat → BitVec 512 → Instr), s.pace.tripped = false →
    (∀ bar write off n v, acc bar write off n v = .registerWrite p { bar := bar, write := write, off := off, bytes := n, data := v }) →
    (∀ off n v, ¬ (((n = 4 ∧ off % 4 = 0) ∨ (n = 8 ∧ off % 8 = 0)) ∧ off + n ≤ 0x8000000) → ∀ t : State,
      t = s.setPort p { s.port p with badAccess := min 65535 ((s.port p).badAccess + 1) } →
      exec (acc .bar0 true off n v) s = .next { t with out := s.out ++ [.aer p] } ∧
      exec (acc .bar0 false off n v) s = .next { t with out := s.out ++ [.aer p, .completerAbort p] }) ∧
    (∀ off v, off % 4 = 0 → off + 4 ≤ 0x8000000 → s.dev.ready = false → s.dev.recovery = false →
      (off < 0x20000 ∨ 0x40000 ≤ off) → exec (acc .bar0 true off 4 v) s =
        .next { s with dev := { s.dev with earlyWrites := min 65535 (s.dev.earlyWrites + 1) } }) ∧
    (exec (acc .bar0 false 0x10000 8 0) s = exec (.timeNowRead p .full) s ∧
      exec (acc .bar0 false 0x10000 4 0) s = exec (.timeNowRead p .lower) s ∧
      exec (acc .bar0 false 0x10004 4 0) s = exec (.timeNowRead p .upper) s) ∧
    exec (acc .bar0 false 0 8 0) s = .next { s with out := s.out ++ [.readDone p (s.dev.unit ++ (0x02C00048 : W32))] } ∧
    (∀ off v, off % 8 = 0 → off + 8 ≤ 0x8000000 → off ≠ 0x10000 → ∃ w : W64,
      exec (acc .bar0 false off 8 v) s = .next { s with out := s.out ++ [.readDone p w] } ∧
      exec (acc .bar0 false off 4 v) s = .next { s with out := s.out ++ [.readDone p (w &&& 0xFFFFFFFF)] } ∧
      exec (acc .bar0 false (off + 4) 4 v) s = .next { s with out := s.out ++ [.readDone p (w >>> 32)] }) ∧
    (s.dev.ready = true → ∀ (v : W32) (off : Nat) (c : Instr),
      ((off = 0x10210 ∧ c = .paceVreq p v) ∨
        (∃ g : GalleryId, g.val = v.toNat % 1024 ∧ off = 0x20018 ∧ c = .portAdopt p g) ∨
        (∃ n : Fin 64, (off = 0x30000 + 0x20 * n.val ∧ c = .keeperTake p n (v.setWidth 16) (v.extractLsb' 16 12)) ∨
          (off = 0x30008 + 0x20 * n.val ∧ c = .keeperGive p n (v.setWidth 16))) ∨
        (off = 0x40018 ∧ ((v.toNat % 16 = 1 ∧ c = .install p) ∨ (v.toNat % 16 = 3 ∧ c = .confirm p) ∨
          (v.toNat % 16 = 4 ∧ c = .reboot p) ∨ (v.toNat % 16 = 2 ∧ ∃ i, (bits v.toNat 8 2, i) ∈ [(0, SlotId.a), (1, .b), (2, .golden)] ∧
            c = .activate p i))) ∨
        (off = 0x50008 ∧ c = .faultTail v) ∨ (off = 0x50070 ∧ c = .faultSealArm p v) ∨
        (off = 0x50068 ∧ (bits v.toNat 28 4, c) ∈ [(1, Instr.fenceGrate p (v.setWidth 10)), (2, .fenceEngine p (v.setWidth 10)),
          (3, .fenceStove p (v.setWidth 10)), (4, .forget p (v.setWidth 10)), (5, .returnSeal p)]) ∨
        (∃ g : GalleryId, (off = 0x80008 + 0x100 * g.val ∧ (v.toNat % 16, c) ∈ [(1, Instr.galCreate p g), (2, .galOpen p g),
            (3, .quiesce p g), (4, .galReset p g (v.getLsbD 8) (v.getLsbD 9)), (5, .release p g (v.getLsbD 8) (v.getLsbD 9))]) ∨
          (off = 0x80030 + 0x100 * g.val ∧ c = .galKindleDeadline p g v) ∨
          (off = 0x80028 + 0x100 * g.val ∧ c = .galConfigWrite p g .pasid (v.setWidth 64)) ∨
          (off = 0x280010 + 0x1000 * g.val ∧ (v.toNat % 16, c) ∈ [(1, Instr.catWrite p g (v.extractLsb' 8 8)),
            (2, .invalidate p g (v.extractLsb' 8 8)), (3, .catRead p g (v.extractLsb' 8 8)),
            (4, .presFill p g (v.extractLsb' 8 8)), (5, .presEmpty p g (v.extractLsb' 8 8))])) ∨
        (∃ h : HearthId, (off = 0x100008 + 0x4000 * h.val ∧ v.getLsbD 30 = true ∧ c = .fenceReq p h) ∨
          (off = 0x100018 + 0x4000 * h.val ∧ c = .hrtPostRoute p h (v.getLsbD 0)) ∨
          (off = 0x100040 + 0x4000 * h.val ∧ v.getLsbD 0 = true ∧ c = .hrtReset p h) ∨
          ∃ j : Fin 256, off = 0x101000 + 0x4000 * h.val + 4 * j.val ∧ c = .hrtPsMap p h j v) ∨
        (∃ b : BayId, (off = 0x200008 + 0x4000 * b.val ∧ (v.toNat % 16, c) ∈ [(1, Instr.adopt p b), (2, .eject p b),
            (3, .folRetire p b), (5, .accept p b), (6, .folCommit p b)]) ∨
          (off = 0x200040 + 0x4000 * b.val ∧ v.getLsbD 0 = true ∧ c = .folReset p b)) ∨
        (off = 0x221008 ∧ c = .fenCfgEpoch p v) ∨ (off = 0x260000 ∧ c = .ledgCfg p v)) →
      exec (acc .bar0 true off 4 (v.setWidth 512)) s = exec c s) ∧
    (s.dev.ready = true → (s.port p).halves = [] → ∀ (v : W64) (off : Nat) (c : Instr),
      ((off = 0x10020 ∧ c = .timeSet p v) ∨ (off = 0x10220 ∧ c = .pacePark p v) ∨
        ∃ g : GalleryId, (off = 0x80018 + 0x100 * g.val ∧ c = .galConfigWrite p g .hearths v) ∨
          (off = 0x222000 + 8 * g.val ∧ c = .fenGal p g v) ∨ (off = 0x280000 + 0x1000 * g.val ∧ c = .catPool p g v) ∨
          (off = 0x280050 + 0x1000 * g.val ∧ c = .catPresSet p g v) ∨ (off = 0x280058 + 0x1000 * g.val ∧ c = .catPresClr p g v)) →
      exec (acc .bar0 true off 8 (v.setWidth 512)) s = exec c s) ∧
    (s.dev.ready = true → ∀ (g : GalleryId) (q : QueueId) (v : W32) (d : BitVec 512),
      exec (acc .bar2 true (0x1000 * g.val + 0x20 * q.val) 4 (v.setWidth 512)) s = exec (.dbSqTail p g q (v.setWidth 16)) s ∧
      exec (acc .bar2 true (0x1000 * g.val + 0x20 * q.val + 8) 4 (v.setWidth 512)) s = exec (.dbCqHead p g q (v.setWidth 16)) s ∧
      exec (acc .bar2 true (0x1000 * g.val + 0x20 * q.val + 16) 4 (v.setWidth 512)) s = exec (.dbAbort p g q (v.setWidth 16)) s ∧
      exec (acc .bar2 true (0x1000 * g.val + 0x80) 4 (v.setWidth 512)) s = exec (.dbResume p g v) s ∧
      exec (acc .bar2 true (0x1000 * g.val + 0x88) 4 (v.setWidth 512)) s = exec (.dbFaultqHead p g (v.setWidth 16)) s ∧
      exec (acc .bar2 true (0x1000 * g.val + 0x100 + 0x40 * q.val) 64 d) s = exec (.dbPush p g q (natLe 64 d.toNat)) s)

/-! ## The whole machine -/

/-- R58, R81, R169 to R171, R182, R801, R813: the frame of all other commands. TIME_EPOCH, the Keeper's slots, the voltage request,
LEDG_CFG, the image in force, the rollback floor and the Return seal change only by the commands meant for them, by port
resets, a thermal trip, power-up and cold resets; no command changes the queue or the part's identity. -/
def Obligations.OtherCommandsKeepSettings : Prop :=
  ∀ (c : Instr) (s t : State), exec c s = .next t →
    (t.pending = s.pending ∧ t.dev.unit = s.dev.unit ∧ t.dev.grade = s.dev.grade ∧ t.dev.mfg = s.dev.mfg) ∧
    ((∀ p v, c ≠ .timeSet p v) → c ≠ .ppsEdge → (∀ p v, c ≠ .paceVreq p v) → (∀ r, c ≠ .thermalSample r) →
      (∀ p, c ≠ .perst p ∧ c ≠ .hotReset p ∧ c ≠ .linkDisable p ∧ c ≠ .functionLevelReset p ∧ c ≠ .d3hot p ∧ c ≠ .dllDown p) →
      (∀ p n k l, c ≠ .keeperTake p n k l ∧ c ≠ .keeperGive p n k ∧ c ≠ .keeperLeaseExpiry n) → (∀ p v, c ≠ .ledgCfg p v) →
      (∀ a b, c ≠ .bootFlashOperationEnd a b) → c ≠ .resetNLow → (∀ p, c ≠ .reboot p) → c ≠ .watchdogExpiry → c ≠ .powerLoss →
      (∀ bad, c ≠ .powerUpPhase bad) → (∀ p a, c ≠ .registerWrite p a) →
      t.tb.epoch = s.tb.epoch ∧ t.keeper.slots = s.keeper.slots ∧ t.pace.mv = s.pace.mv ∧ t.ledger.exchMib = s.ledger.exchMib ∧
        t.ledger.snpTimeout = s.ledger.snpTimeout ∧ t.acc.image = s.acc.image ∧ t.acc.floor = s.acc.floor ∧
        t.faults.sealed = s.faults.sealed)

/-- Every step keeps the canonical form of every map and memory, so that equal contents are equal data: the Shared Store, the
galleries and their queues, the Ledger's lines, the Keeper's slots, the bays, the Cabinets, the Fenline ports and rings, and
each Hearth with its Hob, Program Store, Stokers, register files, stream handles, Firebox slots and accumulators. -/
def Obligations.EveryStepKeepsCanon : Prop :=
  ∀ s t : State, Canon s → step s = .next t → Canon t
end

