-- ==== Sys2Proof/Laws/Maps.lean ====
section
/-! SUPPORT. The laws of sparse maps and of the memories built on them: a read after a write, and the canonical form. -/

namespace Sys2Proof.Machine

variable {α : Type} [DecidableEq α]

/-! ## Reading after writing -/

theorem mget_below (d : α) (m : Sparse α) (lo k : Nat) (h : mwfFrom d lo m = true) (hk : k < lo) : mget d m k = d := by
  induction m generalizing lo with
  | nil => rfl
  | cons e m ih =>
    obtain ⟨k', v⟩ := e
    simp only [mwfFrom, Bool.and_eq_true, decide_eq_true_eq] at h
    have hne : k ≠ k' := by omega
    simp only [mget, if_neg hne]
    exact ih (k' + 1) h.2 (by omega)

/-- A read of the key written gives the value written, in a map of canonical form. -/
theorem mget_mset_same_of (d : α) (m : Sparse α) (lo k : Nat) (v : α) (h : mwfFrom d lo m = true) :
    mget d (mset d m k v) k = v := by
  induction m generalizing lo with
  | nil => by_cases hv : v = d <;> simp [mset, mget, hv]
  | cons e m ih =>
    obtain ⟨k', v'⟩ := e
    simp only [mwfFrom, Bool.and_eq_true, decide_eq_true_eq] at h
    unfold mset
    by_cases h1 : k < k'
    · by_cases hv : v = d
      · simp only [if_pos h1, if_pos hv, mget, if_neg (by omega : k ≠ k')]
        rw [mget_below d m (k' + 1) k h.2 (by omega), hv]
      · simp [h1, hv, mget]
    · by_cases h2 : k = k'
      · by_cases hv : v = d
        · simp only [if_neg h1, if_pos h2, if_pos hv]
          rw [mget_below d m (k' + 1) k h.2 (by omega), hv]
        · simp [h2, hv, mget]
      · simp only [if_neg h1, if_neg h2, mget]
        exact ih (k' + 1) h.2

theorem mget_mset_same (d : α) (m : Sparse α) (k : Nat) (v : α) (h : mwf d m = true) : mget d (mset d m k v) k = v :=
  mget_mset_same_of d m 0 k v h

/-- A read of a key to which a value other than the default was written, in any map. -/
theorem mget_mset_self (d : α) (m : Sparse α) (k : Nat) (v : α) (hv : v ≠ d) : mget d (mset d m k v) k = v := by
  induction m with
  | nil => simp [mset, mget, hv]
  | cons e m ih =>
    obtain ⟨k', v'⟩ := e
    unfold mset
    by_cases h1 : k < k'
    · simp [h1, hv, mget]
    · by_cases h2 : k = k'
      · simp [h2, hv, mget]
      · simp [h1, h2, mget, ih]

theorem mset_none (d : α) (m : Sparse α) (lo k : Nat) (h : mwfFrom d lo m = true) (hk : k < lo) : mset d m k d = m := by
  cases m with
  | nil => simp [mset]
  | cons e m =>
    obtain ⟨k', v'⟩ := e
    simp only [mwfFrom, Bool.and_eq_true, decide_eq_true_eq] at h
    simp [mset, show k < k' by omega]

theorem mset_front (d : α) (m : Sparse α) (lo k : Nat) (v : α) (h : mwfFrom d lo m = true) (hk : k < lo) (hv : v ≠ d) :
    mset d m k v = (k, v) :: m := by
  cases m with
  | nil => simp [mset, hv]
  | cons e m =>
    obtain ⟨k', v'⟩ := e
    simp only [mwfFrom, Bool.and_eq_true, decide_eq_true_eq] at h
    simp [mset, show k < k' by omega, hv]

/-- A write leaves every other key alone. -/
@[simp] theorem mget_mset_ne (d : α) (m : Sparse α) (k j : Nat) (v : α) (hj : j ≠ k) :
    mget d (mset d m k v) j = mget d m j := by
  induction m with
  | nil => by_cases hv : v = d <;> simp [mset, mget, hv, hj]
  | cons e m ih =>
    obtain ⟨k', v'⟩ := e
    unfold mset
    by_cases h1 : k < k'
    · by_cases hv : v = d <;> simp [h1, hv, mget, hj]
    · by_cases h2 : k = k'
      · subst h2
        by_cases hv : v = d <;> simp [hv, mget, hj]
      · simp only [if_neg h1, if_neg h2, mget]
        by_cases h3 : j = k' <;> simp [h3, ih]

/-- A second write of a key replaces the first. -/
theorem mset_mset_of (d : α) (m : Sparse α) (lo k : Nat) (v w : α) (h : mwfFrom d lo m = true) :
    mset d (mset d m k v) k w = mset d m k w := by
  induction m generalizing lo with
  | nil => by_cases hv : v = d <;> by_cases hw : w = d <;> simp [mset, hv, hw]
  | cons e m ih =>
    obtain ⟨k', v'⟩ := e
    simp only [mwfFrom, Bool.and_eq_true, decide_eq_true_eq] at h
    by_cases h1 : k < k'
    · by_cases hv : v = d <;> by_cases hw : w = d <;> simp [mset, h1, hv, hw]
    · by_cases h2 : k = k'
      · subst h2
        by_cases hv : v = d
        · by_cases hw : w = d
          · simp only [mset, lt_irrefl, if_false, if_true, hv, hw]
            exact mset_none d m (k + 1) k h.2 (by omega)
          · simp only [mset, lt_irrefl, if_false, if_true, hv, hw]
            exact mset_front d m (k + 1) k w h.2 (by omega) hw
        · by_cases hw : w = d <;> simp [mset, hv, hw]
      · simp only [mset, if_neg h1, if_neg h2]
        rw [ih (k' + 1) h.2]

theorem mset_mset (d : α) (m : Sparse α) (k : Nat) (v w : α) (h : mwf d m = true) :
    mset d (mset d m k v) k w = mset d m k w := mset_mset_of d m 0 k v w h

/-! ## The canonical form -/

theorem mwfFrom_mono (d : α) (m : Sparse α) (lo lo' : Nat) (h : mwfFrom d lo m = true) (hl : lo' ≤ lo) :
    mwfFrom d lo' m = true := by
  cases m with
  | nil => rfl
  | cons e m =>
    obtain ⟨k, v⟩ := e
    simp only [mwfFrom, Bool.and_eq_true, decide_eq_true_eq] at h ⊢
    exact ⟨⟨by omega, h.1.2⟩, h.2⟩

theorem mwfFrom_mset (d : α) (m : Sparse α) (lo k : Nat) (v : α) (h : mwfFrom d lo m = true) (hk : lo ≤ k) :
    mwfFrom d lo (mset d m k v) = true := by
  induction m generalizing lo with
  | nil => by_cases hv : v = d <;> simp [mset, mwfFrom, hv, hk]
  | cons e m ih =>
    obtain ⟨k', v'⟩ := e
    simp only [mwfFrom, Bool.and_eq_true, decide_eq_true_eq] at h
    obtain ⟨⟨hl, hne⟩, hm⟩ := h
    unfold mset
    by_cases h1 : k < k'
    · by_cases hv : v = d
      · simp [h1, hv, mwfFrom, hl, hne, hm]
      · simp only [if_pos h1, if_neg hv, mwfFrom, Bool.and_eq_true, decide_eq_true_eq]
        exact ⟨⟨hk, hv⟩, ⟨⟨by omega, hne⟩, hm⟩⟩
    · by_cases h2 : k = k'
      · by_cases hv : v = d
        · simp only [if_neg h1, if_pos h2, if_pos hv]
          exact mwfFrom_mono d m (k' + 1) lo hm (by omega)
        · simp only [if_neg h1, if_pos h2, if_neg hv, mwfFrom, Bool.and_eq_true, decide_eq_true_eq]
          exact ⟨⟨hk, hv⟩, h2 ▸ hm⟩
      · simp only [if_neg h1, if_neg h2, mwfFrom, Bool.and_eq_true, decide_eq_true_eq]
        exact ⟨⟨hl, hne⟩, ih (k' + 1) hm (by omega)⟩

/-- A write keeps the canonical form. -/
@[simp] theorem mwf_mset (d : α) (m : Sparse α) (k : Nat) (v : α) (h : mwf d m = true) : mwf d (mset d m k v) = true :=
  mwfFrom_mset d m 0 k v h (Nat.zero_le k)

theorem mwfFrom_mmap (d : α) (f : Nat → α → α) (m : Sparse α) (lo : Nat) (h : mwfFrom d lo m = true) :
    mwfFrom d lo (mmap d f m) = true := by
  induction m generalizing lo with
  | nil => rfl
  | cons e m ih =>
    obtain ⟨k, v⟩ := e
    simp only [mwfFrom, Bool.and_eq_true, decide_eq_true_eq] at h
    by_cases hv : f k v = d
    · simp only [mmap, if_pos hv]
      exact mwfFrom_mono d _ (k + 1) lo (ih (k + 1) h.2) (by omega)
    · simp only [mmap, if_neg hv, mwfFrom, Bool.and_eq_true, decide_eq_true_eq]
      exact ⟨⟨h.1.1, hv⟩, ih (k + 1) h.2⟩

/-- A change of every listed value keeps the canonical form. -/
@[simp] theorem mwf_mmap (d : α) (f : Nat → α → α) (m : Sparse α) (h : mwf d m = true) : mwf d (mmap d f m) = true :=
  mwfFrom_mmap d f m 0 h

theorem mwfFrom_filter (d : α) (p : Nat × α → Bool) (m : Sparse α) (lo : Nat) (h : mwfFrom d lo m = true) :
    mwfFrom d lo (m.filter p) = true := by
  induction m generalizing lo with
  | nil => rfl
  | cons e m ih =>
    obtain ⟨k, v⟩ := e
    simp only [mwfFrom, Bool.and_eq_true, decide_eq_true_eq] at h
    by_cases hp : p (k, v) = true
    · simp only [List.filter_cons, hp, if_true, mwfFrom, Bool.and_eq_true, decide_eq_true_eq]
      exact ⟨h.1, ih (k + 1) h.2⟩
    · simp only [List.filter_cons, hp]
      exact mwfFrom_mono d _ (k + 1) lo (ih (k + 1) h.2) (by omega)

/-! ## Memories -/

/-- One byte read after one byte written. -/
theorem byteAt_putByte (m : Sparse Byte) (a c : Nat) (b : Byte) (h : mwf 0 m = true) :
    byteAt (putByte m a b) c = if c = a then b else byteAt m c := by
  by_cases hc : c = a
  · subst hc
    simpa [byteAt, putByte] using mget_mset_same 0 m c b h
  · simp [byteAt, putByte, hc]

@[simp] theorem mwf_putByte (m : Sparse Byte) (a : Nat) (b : Byte) (h : mwf 0 m = true) : mwf 0 (putByte m a b) = true :=
  mwf_mset 0 m a b h

@[simp] theorem mwf_putBytes (m : Sparse Byte) (a : Nat) (bs : List Byte) (h : mwf 0 m = true) :
    mwf 0 (putBytes m a bs) = true := by
  induction bs generalizing m a with
  | nil => exact h
  | cons b bs ih => exact ih _ _ (mwf_putByte m a b h)

@[simp] theorem mwf_putMasked (m : Sparse Byte) (a : Nat) (bs : List (Byte × Byte)) (h : mwf 0 m = true) :
    mwf 0 (putMasked m a bs) = true := by
  induction bs generalizing m a with
  | nil => exact h
  | cons b bs ih =>
    obtain ⟨v, k⟩ := b
    exact ih _ _ (mwf_putByte m a _ h)

@[simp] theorem mwf_zeroBytes (m : Sparse Byte) (a n : Nat) (h : mwf 0 m = true) : mwf 0 (zeroBytes m a n) = true :=
  mwfFrom_filter 0 _ m 0 h

/-- Bytes outside the range written read as before. -/
theorem byteAt_putBytes_ne (m : Sparse Byte) (a : Nat) (bs : List Byte) (c : Nat) (hc : c < a ∨ a + bs.length ≤ c) :
    byteAt (putBytes m a bs) c = byteAt m c := by
  induction bs generalizing m a with
  | nil => rfl
  | cons b bs ih =>
    simp only [List.length_cons] at hc
    simp only [putBytes]
    rw [ih (putByte m a b) (a + 1) (by omega)]
    simp [byteAt, putByte, show c ≠ a by omega]

theorem byteAt_putMasked_ne (m : Sparse Byte) (a : Nat) (bs : List (Byte × Byte)) (c : Nat)
    (hc : c < a ∨ a + bs.length ≤ c) : byteAt (putMasked m a bs) c = byteAt m c := by
  induction bs generalizing m a with
  | nil => rfl
  | cons b bs ih =>
    obtain ⟨v, k⟩ := b
    simp only [List.length_cons] at hc
    simp only [putMasked]
    rw [ih _ (a + 1) (by omega)]
    simp [byteAt, putByte, show c ≠ a by omega]

@[simp] theorem bytesAt_length (m : Sparse Byte) (a n : Nat) : (bytesAt m a n).length = n := by
  induction n generalizing a with
  | zero => rfl
  | succ n ih => simp [bytesAt, ih]

end Sys2Proof.Machine
end

