-- ==== Sys2Proof/Laws/Canon.lean ====
section
/-! SUPPORT. Canonical form as a check that evaluates: what the listed entries of a state must satisfy for `Canon`. -/

namespace Sys2Proof.Laws

open Sys2Proof.Machine Sys2Proof.Safety

/-- A map gives its default or a listed value. -/
theorem mget_listed {α : Type} (d : α) (m : Sparse α) (k : Nat) : mget d m k = d ∨ ∃ e ∈ m, e.2 = mget d m k := by
  induction m with
  | nil => exact .inl rfl
  | cons e m ih =>
    by_cases h : k = e.1
    · exact .inr ⟨e, by simp, by simp [mget, h]⟩
    · have : mget d (e :: m) k = mget d m k := by simp [mget, h]
      rw [this]
      rcases ih with ih | ⟨f, hf, he⟩
      · exact .inl ih
      · exact .inr ⟨f, by simp [hf], he⟩

/-- What holds of the default and of every listed value holds of every value of a map. -/
theorem mget_all {α : Type} (P : α → Bool) (d : α) (m : Sparse α) (hd : P d = true) (hm : (m.all fun e => P e.2) = true) (k : Nat) :
    P (mget d m k) = true := by
  rcases mget_listed d m k with h | ⟨e, he, h⟩
  · rw [h]; exact hd
  · rw [← h]; exact List.all_eq_true.mp hm e he

def stokerCanonB (x : Stoker) : Bool := mwf 0 x.s && mwf 0 x.lens && mwf none x.handles

def hearthCanonB (x : Hearth) : Bool :=
  mwf {} x.stokers && mwf 0 x.hob && mwf 0 x.ps && (x.stokers.all fun e => stokerCanonB e.2) && mwf {} x.slots
    && (x.slots.all fun e => mwf 0 e.2.vals) && mwf .zero x.planned && mwf none x.latchPlan

def canonB (s : State) : Bool :=
  mwf 0 s.shared && mwf {} s.gals && (s.gals.all fun e => mwf {} e.2.queues) && mwf {} s.ledger.lines && mwf {} s.keeper.slots
    && mwf {} s.bays && mwf {} s.cabinets && mwf {} s.fen.ports && mwf {} s.fen.gals && mwf {} s.pace.hearth
    && mwf false s.portA.pba && mwf false s.portB.pba && mwf {} s.hearths && s.hearths.all fun e => hearthCanonB e.2

theorem hearthCanon_of (x : Hearth) (h : hearthCanonB x = true) : HearthCanon x := by
  simp only [hearthCanonB, Bool.and_eq_true] at h
  obtain ⟨⟨⟨⟨⟨⟨⟨h1, h2⟩, h3⟩, h4⟩, h5⟩, h6⟩, h7⟩, h8⟩ := h
  have hs : ∀ k, stokerCanonB (x.stoker k) = true := mget_all _ _ _ (by decide) h4
  have hs' := fun k => by simpa only [stokerCanonB, Bool.and_eq_true] using hs k
  exact ⟨h1, h2, h3, fun k => (hs' k).1.1, fun k => (hs' k).1.2, fun k => (hs' k).2, h5,
    mget_all (fun v : Slot => mwf 0 v.vals) _ _ (by decide) h6, h7, h8⟩

theorem canon_of (s : State) (h : canonB s = true) : Canon s := by
  simp only [canonB, Bool.and_eq_true] at h
  obtain ⟨⟨⟨⟨⟨⟨⟨⟨⟨⟨⟨⟨⟨h1, h2⟩, h3⟩, h4⟩, h5⟩, h6⟩, h7⟩, h8⟩, h9⟩, h10⟩, h11⟩, h12⟩, h13⟩, h14⟩ := h
  exact ⟨h1, h2, mget_all (fun v : Gallery => mwf {} v.queues) _ _ (by decide) h3, h4, h5, h6, h7, h8, h9, h10,
    fun p => by cases p <;> assumption, h13, fun i => hearthCanon_of _ (mget_all hearthCanonB _ _ (by decide) h14 i)⟩

end Sys2Proof.Laws
end

