-- ==== Sys2Proof/Laws/Frame.lean ====
section
/-! SUPPORT. The part of the state that few commands touch, `State.cfg`, and the rules by which an operation is seen to leave
it alone. -/

namespace Sys2Proof.Machine

/-- The queue, the fused identity, and the configuration that the invariant of `Sys2Proof.Safety` is about. -/
structure Cfg where
  pending : List Instr
  unit : W32
  grade : BitVec 4
  mfg : Sparse (BitVec 16)
  epoch : W32
  slots : Sparse KeeperSlot
  mv : Nat
  exchMib : Nat
  snpTimeout : Nat
  image : Option Image
  floor : Nat
  sealed : Bool

def State.cfg (s : State) : Cfg :=
  ⟨s.pending, s.dev.unit, s.dev.grade, s.dev.mfg, s.tb.epoch, s.keeper.slots, s.pace.mv, s.ledger.exchMib,
    s.ledger.snpTimeout, s.acc.image, s.acc.floor, s.faults.sealed⟩

@[simp] theorem State.cfg_mk (dev tb pace portA portB keeper ledger gals presence wos nextWo rrGal held shared lostLines
    sparesUsed sparesNoted hearths cabinets pieces nextPiece accs nextAcc bays acc fen mgmt tap faults out free pending) :
    State.cfg ⟨dev, tb, pace, portA, portB, keeper, ledger, gals, presence, wos, nextWo, rrGal, held, shared, lostLines,
      sparesUsed, sparesNoted, hearths, cabinets, pieces, nextPiece, accs, nextAcc, bays, acc, fen, mgmt, tap, faults, out,
      free, pending⟩ =
    ⟨pending, dev.unit, dev.grade, dev.mfg, tb.epoch, keeper.slots, pace.mv, ledger.exchMib, ledger.snpTimeout, acc.image,
      acc.floor, faults.sealed⟩ := rfl

@[simp] theorem State.cfg_eta (s : State) :
    (⟨s.pending, s.dev.unit, s.dev.grade, s.dev.mfg, s.tb.epoch, s.keeper.slots, s.pace.mv, s.ledger.exchMib,
      s.ledger.snpTimeout, s.acc.image, s.acc.floor, s.faults.sealed⟩ : Cfg) = s.cfg := rfl

/-- A fold of an operation that leaves the configuration alone. -/
@[simp] theorem cfg_foldl {β : Type} (f : State → β → State) (l : List β) (s : State)
    (h : ∀ t x, (f t x).cfg = t.cfg) : (l.foldl f s).cfg = s.cfg := by
  induction l generalizing s with
  | nil => rfl
  | cons x l ih => rw [List.foldl_cons, ih, h]

/-- A fold that carries something beside the state. -/
theorem cfg_foldl_fst {α β : Type} (f : State × α → β → State × α) (l : List β) (a : State × α)
    (h : ∀ b x, (f b x).1.cfg = b.1.cfg) : (l.foldl f a).1.cfg = a.1.cfg := by
  induction l generalizing a with
  | nil => rfl
  | cons x l ih => rw [List.foldl_cons, ih, h]

/-- The state of an operation that answers something beside it. -/
theorem cfg_fst {α : Type} {p : State × α} {t : State} {x : α} (h : p = (t, x)) : t.cfg = p.1.cfg := by rw [h]

end Sys2Proof.Machine
end

