-- ==== Sys2Proof/Laws/Frame/Ops.lean ====
section
/-! SUPPORT. Operations that leave `State.cfg` alone: Ops. -/

namespace Sys2Proof.Machine

@[simp] theorem State.setPort_cfg (s : State) (p : Port) (x : PortState) : (State.setPort s p x).cfg = s.cfg := by
  unfold State.setPort; split <;> simp [apply_ite State.cfg]
@[simp] theorem State.setGal_cfg (s : State) (g : Nat) (x : Gallery) : (State.setGal s g x).cfg = s.cfg := by
  simp [State.setGal]
@[simp] theorem State.setQueue_cfg (s : State) (g q : Nat) (y : Queue) : (State.setQueue s g q y).cfg = s.cfg := by
  simp [State.setQueue]
@[simp] theorem State.setHearth_cfg (s : State) (h : Nat) (x : Hearth) : (State.setHearth s h x).cfg = s.cfg := by
  simp [State.setHearth]
@[simp] theorem State.setStoker_cfg (s : State) (h k : Nat) (y : Stoker) : (State.setStoker s h k y).cfg = s.cfg := by
  simp [State.setStoker]
@[simp] theorem State.setBay_cfg (s : State) (b : Nat) (x : Bay) : (State.setBay s b x).cfg = s.cfg := by
  simp [State.setBay]
@[simp] theorem State.send_cfg (s : State) (o : Out) : (State.send s o).cfg = s.cfg := by simp [State.send]
@[simp] theorem State.updWo_cfg (s : State) (id : Nat) (f : WorkOrder → WorkOrder) : (State.updWo s id f).cfg =
    s.cfg := by
  simp [State.updWo]
@[simp] theorem State.takeFree_cfg (s : State) : (State.takeFree s).1.cfg = s.cfg := by simp [State.takeFree]
@[simp] theorem State.tick_cfg (s : State) : (State.tick s).cfg = s.cfg := by simp [State.tick, apply_ite State.cfg]
@[simp] theorem State.reached_cfg (s : State) (f : State → State) (hf : ∀ t, (f t).cfg = t.cfg) :
    (State.reached s f).cfg = s.cfg := by
  unfold State.reached; grind [State.cfg_mk, State.cfg_eta]
@[simp] theorem State.raise_cfg (s : State) (p : Port) (v : Nat) : (State.raise s p v).cfg = s.cfg := by
  simp [State.raise, apply_ite State.cfg]
@[simp] theorem State.raiseGal_cfg (s : State) (g v : Nat) : (State.raiseGal s g v).cfg = s.cfg := by
  simp [State.raiseGal, apply_ite State.cfg]
@[simp] theorem State.raiseDev_cfg (s : State) (p : Port) (lo : Nat) : (State.raiseDev s p lo).cfg = s.cfg := by
  simp [State.raiseDev, apply_ite State.cfg]
@[simp] theorem State.raiseBoth_cfg (s : State) (lo : Nat) : (State.raiseBoth s lo).cfg = s.cfg := by
  simp [State.raiseBoth]
@[simp] theorem State.raisePeer_cfg (s : State) (p : Port) : (State.raisePeer s p).cfg = s.cfg := by
  simp [State.raisePeer]
@[simp] theorem State.logFault_cfg (s : State) (f : FaultInfo) : (State.logFault s f).cfg = s.cfg := by
  simp [State.logFault, apply_ite State.cfg]
@[simp] theorem State.countLasting_cfg (s : State) : (State.countLasting s).cfg = s.cfg := by simp [State.countLasting]
@[simp] theorem State.logTransient_cfg (s : State) (key : Nat) (f : FaultInfo) : (State.logTransient s key
    f).cfg = s.cfg := by
  simp [State.logTransient, apply_ite State.cfg]
@[simp] theorem State.countTransient_cfg (s : State) : (State.countTransient s).cfg = s.cfg := by
  simp [State.countTransient]
@[simp] theorem State.transient_cfg (s : State) (u : CheckUnit) (h off : Nat) (wo : Option Nat) :
    (State.transient s u h off wo).cfg = s.cfg := by
  unfold State.transient; split <;> simp [apply_ite State.cfg]
@[simp] theorem State.loseLine_cfg (s : State) (off : Nat) : (State.loseLine s off).cfg = s.cfg := by
  simp [State.loseLine, apply_ite State.cfg]
@[simp] theorem State.countCorrected_cfg (s : State) (u : CheckUnit) : (State.countCorrected s u).cfg = s.cfg := by
  unfold State.countCorrected; split <;> rfl
@[simp] theorem State.lastingLogged_cfg (s : State) (u : CheckUnit) (h off : Nat) (wo : Option Nat) :
    (State.lastingLogged s u h off wo).cfg = s.cfg := by
  unfold State.lastingLogged; dsimp only; split <;> simp
@[simp] theorem State.judgeLine_cfg (s : State) (v : Verdict) (off : Nat) : (State.judgeLine s v off).cfg = s.cfg := by
  unfold State.judgeLine; split <;> simp
@[simp] theorem State.setLine_cfg (s : State) (l : Nat) (x : Line) : (State.setLine s l x).cfg = s.cfg := by
  simp [State.setLine]
@[simp] theorem State.sendSnoop_cfg (s : State) (l : Nat) (p : Port) (inv : Bool) : (State.sendSnoop s l p
    inv).cfg = s.cfg := by
  simp [State.sendSnoop]
@[simp] theorem State.askLine_cfg (s : State) (w : Waiter) (u : LineUse) (l : Nat) : (State.askLine s w u
    l).cfg = s.cfg := by
  unfold State.askLine; dsimp only; (repeat' split) <;> simp_all [apply_ite State.cfg]
@[simp] theorem State.unwait_cfg (s : State) (w : Waiter) (l : Nat) : (State.unwait s w l).cfg = s.cfg := by
  simp [State.unwait]
@[simp] theorem State.askLines_cfg (s : State) (w : Waiter) (u : LineUse) (ls : List Nat) : (State.askLines s w
    u ls).1.cfg = s.cfg := by
  unfold State.askLines; split <;> simp [apply_ite State.cfg]
@[simp] theorem State.putShared_cfg (s : State) (off : Nat) (bs : List (Byte × Byte)) : (State.putShared s off
    bs).cfg = s.cfg := by
  simp [State.putShared]
@[simp] theorem State.putExch_cfg (s : State) (off : Nat) (bs : List (Byte × Byte)) : (State.putExch s off
    bs).cfg = s.cfg := by
  simp [State.putExch]
@[simp] theorem State.serveM2S_cfg (s : State) (p : Port) (r : M2SReq) (v : Verdict) :
    (State.serveM2S s p r v).cfg = s.cfg := by
  unfold State.serveM2S; dsimp only; (repeat' split) <;> simp [apply_ite State.cfg]
@[simp] theorem State.serveBar4_cfg (s : State) (p : Port) (write : Bool) (off : Nat) (data : List Byte) (be :
    List Bool) (vs : List Verdict) : (State.serveBar4 s p write off data be vs).cfg = s.cfg := by
  unfold State.serveBar4; dsimp only; split
  · simp
  · rw [State.send_cfg]; exact cfg_foldl _ _ _ fun t x => by simp
@[simp] theorem State.tryHost_cfg (s : State) (w : Waiter) : (State.tryHost s w).1.cfg = s.cfg := by
  unfold State.tryHost; dsimp only; (repeat' split) <;> simp_all [apply_ite State.cfg]
@[simp] theorem State.snoopForPiece_cfg (s : State) (l : Nat) (w : Waiter) : (State.snoopForPiece s l w).cfg =
    s.cfg := by
  unfold State.snoopForPiece; (repeat' split) <;> simp [apply_ite State.cfg]
@[simp] theorem State.pumpLine_cfg (l n : Nat) (s : State) : (State.pumpLine l n s).cfg = s.cfg := by
  induction n generalizing s with
  | zero => rfl
  | succ n ih => unfold State.pumpLine; grind [State.tryHost_cfg, State.snoopForPiece_cfg]
@[simp] theorem State.pumpLines_cfg (s : State) (ls : List Nat) : (State.pumpLines s ls).cfg = s.cfg := by
  simp [State.pumpLines]
@[simp] theorem State.purgeFront_cfg (s : State) (g : Nat) (gone : Nat → Bool) : (State.purgeFront s g
    gone).cfg = s.cfg := by
  simp [State.purgeFront]
@[simp] theorem State.resolveSnoop_cfg (s : State) (l : Nat) (p : Port) : (State.resolveSnoop s l p).cfg = s.cfg := by
  simp [State.resolveSnoop]
@[simp] theorem State.withdrawPort_cfg (s : State) (p : Port) : (State.withdrawPort s p).cfg = s.cfg := by
  unfold State.withdrawPort; dsimp only; (repeat' split) <;> simp_all [apply_ite State.cfg]

end Sys2Proof.Machine
end

