-- ==== Sys2Proof/Laws/Frame/Issue.lean ====
section
/-! SUPPORT. Operations that leave `State.cfg` alone: Translate, Commit, Flags, Operands, Alu, Ctl, Fence. -/

namespace Sys2Proof.Machine

@[simp] theorem State.countProt_cfg (s : State) (g : Nat) : (State.countProt s g).cfg = s.cfg := by
  simp [State.countProt]
@[simp] theorem State.countAbsent_cfg (s : State) (g : Nat) : (State.countAbsent s g).cfg = s.cfg := by
  simp [State.countAbsent]
@[simp] theorem State.stopStokers_cfg (s : State) (id : Nat) : (State.stopStokers s id).cfg = s.cfg := by
  simp [State.stopStokers]
@[simp] theorem State.commit_cfg (s : State) (id : Nat) (d : Decision) : (State.commit s id d).cfg = s.cfg := by
  simp [State.commit]
@[simp] theorem State.endWo_cfg (s : State) (id : Nat) (d : Decision) : (State.endWo s id d).cfg = s.cfg := by
  simp [State.endWo, apply_ite State.cfg]
@[simp] theorem State.abortWo_cfg (s : State) (id : Nat) (reason : BitVec 8) : (State.abortWo s id reason).cfg
    = s.cfg := by
  simp [State.abortWo]
@[simp] theorem State.abortGal_cfg (s : State) (g : Nat) (reason : BitVec 8) : (State.abortGal s g reason).cfg
    = s.cfg := by
  simp [State.abortGal]
@[simp] theorem State.faultWo_cfg (s : State) (id : Nat) (code : BitVec 8) (h k pc : Nat) : (State.faultWo s id
    code h k pc).cfg = s.cfg := by
  simp [State.faultWo]
@[simp] theorem State.galleryFault_cfg (s : State) (g : Nat) (cause : GalCause) (code : Nat) :
    (State.galleryFault s g cause code).cfg = s.cfg := by
  simp [State.galleryFault, apply_ite State.cfg]
@[simp] theorem State.updStoker_cfg (s : State) (h k : Nat) (f : Stoker → Stoker) : (State.updStoker s h k
    f).cfg = s.cfg := by
  simp [State.updStoker]
@[simp] theorem State.updHearth_cfg (s : State) (h : Nat) (f : Hearth → Hearth) : (State.updHearth s h f).cfg =
    s.cfg := by
  simp [State.updHearth]
@[simp] theorem State.faultIssue_cfg (s : State) (h k : Nat) (code : BitVec 8) : (State.faultIssue s h k
    code).cfg = s.cfg := by
  simp [State.faultIssue]
@[simp] theorem State.retired_cfg (s : State) (wo : Nat) : (State.retired s wo).cfg = s.cfg := by simp [State.retired]
@[simp] theorem State.advance_cfg (s : State) (h k n : Nat) : (State.advance s h k n).cfg = s.cfg := by
  simp [State.advance]
/-- Every state that an issue's outcome carries has the configuration `c`. -/
def Issued.keeps (x : Issued) (c : Cfg) : Prop :=
  match x with
  | .next t | .park t | .queue t => t.cfg = c
  | .fault _ | .hold => True
@[simp] theorem Issued.keeps_next (t : State) (c : Cfg) : (Issued.next t).keeps c ↔ t.cfg = c := Iff.rfl
@[simp] theorem Issued.keeps_park (t : State) (c : Cfg) : (Issued.park t).keeps c ↔ t.cfg = c := Iff.rfl
@[simp] theorem Issued.keeps_queue (t : State) (c : Cfg) : (Issued.queue t).keeps c ↔ t.cfg = c := Iff.rfl
@[simp] theorem Issued.keeps_fault (v : BitVec 8) (c : Cfg) : (Issued.fault v).keeps c := trivial
@[simp] theorem Issued.keeps_hold (c : Cfg) : Issued.hold.keeps c := trivial
@[simp] theorem Issued.keeps_ite (p : Prop) [Decidable p] (x y : Issued) (c : Cfg) :
    (if p then x else y).keeps c ↔ (p → x.keeps c) ∧ (¬ p → y.keeps c) := by split <;> simp [*]
theorem cfg_ite {p : Prop} [Decidable p] {x y : State} {c : Cfg} (hx : x.cfg = c) (hy : y.cfg = c) :
    (if p then x else y).cfg = c := by split <;> assumption
theorem State.issue_cfg (s : State) (h k cls op : Nat) (row : Nat → Bool) (du : DstUse) (legal : Nat → Nat → Bool)
    (bad : Nat → Bool) (uses : Nat → List Dst) (run : Nat → Nat → State → Issued)
    (hr : ∀ w e t, t.cfg = s.cfg → (run w e t).keeps s.cfg) : (State.issue s h k cls op row du legal bad uses run).cfg = s.cfg := by
  unfold State.issue
  refine cfg_ite rfl (cfg_ite (by simp) (cfg_ite rfl (cfg_ite (by simp) (cfg_ite (by simp) (cfg_ite (by simp)
    (cfg_ite (by simp) (cfg_ite rfl (cfg_ite (by simp) (cfg_ite rfl ?_)))))))))
  have hx := hr ((s.hearth h).word ((s.hearth h).stoker k).pc) (zExt ((s.hearth h).word (((s.hearth h).stoker k).pc + 8)))
    (s.advance h k (if decide (32 ≤ op) then 2 else 1)) (State.advance_cfg ..)
  split <;> rename_i heq <;> rw [heq] at hx
  · rw [State.retired_cfg]; exact hx
  · exact hx
  · simp
  · exact hx
@[simp] theorem State.issueIllegal_cfg (s : State) (h k : Nat) : (State.issueIllegal s h k).cfg = s.cfg := by
  simp [State.issueIllegal, apply_ite State.cfg]
@[simp] theorem State.parkAs_cfg (s : State) (h k : Nat) (st : StSt) (wait : Wait) : (State.parkAs s h k st
    wait).cfg = s.cfg := by
  simp [State.parkAs]
@[simp] theorem State.alu_cfg (s : State) (h k op : Nat) (sub : Nat → Bool) (f : Nat → Stoker → W64 → W64 →
    W64) : (State.alu s h k op sub f).cfg = s.cfg := by
  unfold State.alu; apply State.issue_cfg; intro w e t ht; simp [ht]
@[simp] theorem State.branch_cfg (s : State) (h k : Nat) (t : Int) {c : Cfg} (hc : s.cfg = c) : (State.branch s
    h k t).keeps c := by
  subst hc; simp [State.branch]
@[simp] theorem State.jmp_cfg (s : State) (h k : Nat) : (State.jmp s h k).cfg = s.cfg := by
  unfold State.jmp; apply State.issue_cfg; intro w e t ht; simp [ht]
@[simp] theorem State.br_cfg (s : State) (h k : Nat) : (State.br s h k).cfg = s.cfg := by
  unfold State.br; apply State.issue_cfg; intro w e t ht; simp [ht]
@[simp] theorem State.callInstr_cfg (s : State) (h k : Nat) : (State.callInstr s h k).cfg = s.cfg := by
  unfold State.callInstr; apply State.issue_cfg; intro w e t ht; simp [ht]
@[simp] theorem State.ret_cfg (s : State) (h k : Nat) : (State.ret s h k).cfg = s.cfg := by
  unfold State.ret; apply State.issue_cfg; intro w e t ht; (try dsimp only); (repeat' split) <;> simp [ht]
@[simp] theorem State.loop_cfg (s : State) (h k : Nat) : (State.loop s h k).cfg = s.cfg := by
  unfold State.loop; apply State.issue_cfg; intro w e t ht; simp [ht]
@[simp] theorem State.setCabinet_cfg (s : State) (q : Nat) (x : Cabinet) : (State.setCabinet s q x).cfg = s.cfg := by
  simp [State.setCabinet]
@[simp] theorem State.enterFence_cfg (s : State) (kind : BitVec 3) (index : Nat) (cause : BitVec 8) (rec : Nat
    → FaultInfo) : (State.enterFence s kind index cause rec).cfg = s.cfg := by
  unfold State.enterFence; (repeat' split) <;> simp [apply_ite State.cfg]
@[simp] theorem State.remapAll_cfg (s : State) (h : Nat) : (State.remapAll s h).cfg = s.cfg := by simp [State.remapAll]
@[simp] theorem State.fenceHearth_cfg (s : State) (h : Nat) (cause : BitVec 8) (lasting listed : Bool) :
    (State.fenceHearth s h cause lasting listed).cfg = s.cfg := by
  simp [State.fenceHearth, apply_ite State.cfg]
@[simp] theorem State.fenceGrate_cfg (s : State) (h g a : Nat) (lasting : Bool) (wo : Option (Nat × Nat × Nat))
    : (State.fenceGrate s h g a lasting wo).cfg = s.cfg := by
  simp [State.fenceGrate, apply_ite State.cfg]
@[simp] theorem State.fenceEngine_cfg (s : State) (q e : Nat) (lasting : Bool) (wo : Option (Nat × Nat × Nat))
    : (State.fenceEngine s q e lasting wo).cfg = s.cfg := by
  simp [State.fenceEngine]
@[simp] theorem State.fenceStove_cfg (s : State) (h entry : Nat) (lasting : Bool) (wo : Option (Nat × Nat ×
    Nat)) : (State.fenceStove s h entry lasting wo).cfg = s.cfg := by
  simp [State.fenceStove]
@[simp] theorem State.reapplyFences_cfg (s : State) (only : Option Nat) : (State.reapplyFences s only).cfg = s.cfg := by
  unfold State.reapplyFences
  apply cfg_foldl
  intro t x
  dsimp only
  (repeat' split) <;> simp
@[simp] theorem State.lastingFault_cfg (s : State) (u : CheckUnit) (h off : Nat) (wo : Option Nat) :
    (State.lastingFault s u h off wo).cfg = s.cfg := by
  unfold State.lastingFault; (repeat' split) <;> simp [apply_ite State.cfg]
@[simp] theorem State.judge_cfg (s : State) (u : CheckUnit) (v : Verdict) (h off : Nat) (wo : Option Nat) :
    (State.judge s u v h off wo).cfg = s.cfg := by
  unfold State.judge; split <;> simp

end Sys2Proof.Machine
end

