-- ==== Sys2Proof/Laws/Frame/Access.lean ====
section
/-! SUPPORT. Operations that leave `State.cfg` alone: Fp, Layout, Gallery, Time, PortFam, Access. -/

namespace Sys2Proof.Machine

@[simp] theorem State.earlyWrite_cfg (s : State) : (State.earlyWrite s).cfg = s.cfg := by simp [State.earlyWrite]
@[simp] theorem State.whenReady_cfg (s : State) (f : State → State) (hf : ∀ t, (f t).cfg = t.cfg) :
    (State.whenReady s f).cfg = s.cfg := by
  unfold State.whenReady; grind [State.cfg_mk, State.cfg_eta, State.reached_cfg, State.earlyWrite_cfg]
@[simp] theorem State.galResult_cfg (s : State) (g : Nat) (r : GalResult) : (State.galResult s g r).cfg = s.cfg := by
  simp [State.galResult]
@[simp] theorem State.judgeGal_cfg (s : State) (g : Nat) (portOk stateOk : Bool) (f : State → State) (hf : ∀ t,
    (f t).cfg = t.cfg) : (State.judgeGal s g portOk stateOk f).cfg = s.cfg := by
  unfold State.judgeGal; grind [State.cfg_mk, State.cfg_eta, State.galResult_cfg]
@[simp] theorem State.create_cfg (s : State) (p : Port) (g : Nat) : (State.create s p g).cfg = s.cfg := by
  simp [State.create]
@[simp] theorem State.openGal_cfg (s : State) (p : Port) (g : Nat) : (State.openGal s p g).cfg = s.cfg := by
  unfold State.openGal
  apply State.judgeGal_cfg
  intro t
  split <;> simp
@[simp] theorem State.quiesce_cfg (s : State) (p : Port) (g : Nat) : (State.quiesce s p g).cfg = s.cfg := by
  simp [State.quiesce]
@[simp] theorem State.startReset_cfg (s : State) (g : Nat) (reason : BitVec 8) (job : ResetJob) :
    (State.startReset s g reason job).cfg = s.cfg := by
  simp [State.startReset]
@[simp] theorem State.galReset_cfg (s : State) (p : Port) (g : Nat) (scrub scrubKey : Bool) : (State.galReset s
    p g scrub scrubKey).cfg = s.cfg := by
  simp [State.galReset]
@[simp] theorem State.release_cfg (s : State) (p : Port) (g : Nat) (scrub scrubKey : Bool) : (State.release s p
    g scrub scrubKey).cfg = s.cfg := by
  simp [State.release]
@[simp] theorem State.galConfig_cfg (s : State) (p : Port) (g : Nat) (r : GalReg) (v : Nat) : (State.galConfig
    s p g r v).cfg = s.cfg := by
  simp [State.galConfig, apply_ite State.cfg]
@[simp] theorem State.kindleDeadline_cfg (s : State) (p : Port) (g v : Nat) : (State.kindleDeadline s p g
    v).cfg = s.cfg := by
  simp [State.kindleDeadline, apply_ite State.cfg]
@[simp] theorem State.readTimeNow_cfg (s : State) (p : Port) (part : TimeRead) : (State.readTimeNow s p
    part).cfg = s.cfg := by
  unfold State.readTimeNow; split <;> simp [apply_ite State.cfg]
@[simp] theorem State.holdoverEntry_cfg (s : State) : (State.holdoverEntry s).cfg = s.cfg := by
  simp [State.holdoverEntry]
@[simp] theorem State.relock_cfg (s : State) (err : Int) : (State.relock s err).cfg = s.cfg := by simp [State.relock]
@[simp] theorem State.avsStart_cfg (s : State) (mv : Nat) : (State.avsStart s mv).cfg = s.cfg := by
  simp [State.avsStart]
@[simp] theorem State.avsPoll_cfg (s : State) (vdone : Bool) (mv : Nat) : (State.avsPoll s vdone mv).cfg = s.cfg := by
  unfold State.avsPoll; dsimp only; (repeat' split) <;> simp_all [apply_ite State.cfg]
@[simp] theorem State.avsFail_cfg (s : State) (status : Bool) : (State.avsFail s status).cfg = s.cfg := by
  unfold State.avsFail; dsimp only; (repeat' split) <;> simp_all [apply_ite State.cfg]
@[simp] theorem State.setPaceHearth_cfg (s : State) (h : Nat) (x : PaceHearth) : (State.setPaceHearth s h
    x).cfg = s.cfg := by
  simp [State.setPaceHearth]
@[simp] theorem State.windowEnd_cfg (s : State) (h : Nat) (count : BitVec 16) : (State.windowEnd s h count).cfg
    = s.cfg := by
  simp [State.windowEnd, apply_ite State.cfg]
@[simp] theorem State.windowEndAll_cfg (s : State) (counts : List (BitVec 16)) : (State.windowEndAll s
    counts).cfg = s.cfg := by
  simp [State.windowEndAll]
@[simp] theorem State.pacePark_cfg (s : State) (p : Port) (mask : BitVec 48) : (State.pacePark s p mask).cfg =
    s.cfg := by
  simp [State.pacePark, apply_ite State.cfg]
@[simp] theorem State.hearthWake_cfg (s : State) (h : Nat) : (State.hearthWake s h).cfg = s.cfg := by
  simp [State.hearthWake, apply_ite State.cfg]
@[simp] theorem State.withdrawReads_cfg (s : State) (p : Port) : (State.withdrawReads s p).cfg = s.cfg := by
  simp [State.withdrawReads]
@[simp] theorem State.setPieceStatus_cfg (s : State) (id : Nat) (st : PieceStatus) : (State.setPieceStatus s id
    st).cfg = s.cfg := by
  simp [State.setPieceStatus]
@[simp] theorem State.issueHost_cfg (s : State) (x : Piece) : (State.issueHost s x).cfg = s.cfg := by
  unfold State.issueHost; split <;> simp [apply_ite State.cfg]
@[simp] theorem State.releaseHeld_cfg (s : State) (p : Port) : (State.releaseHeld s p).cfg = s.cfg := by
  simp [State.releaseHeld, apply_ite State.cfg]
@[simp] theorem State.sendPending_cfg (s : State) (p : Port) : (State.sendPending s p).cfg = s.cfg := by
  simp [State.sendPending, apply_ite State.cfg]
@[simp] theorem State.dllUpEvent_cfg (s : State) (p : Port) (width : BitVec 8) (speed : BitVec 4) :
    (State.dllUpEvent s p width speed).cfg = s.cfg := by
  simp [State.dllUpEvent]
@[simp] theorem State.startGrace_cfg (s : State) (p : Port) : (State.startGrace s p).cfg = s.cfg := by
  simp [State.startGrace]
@[simp] theorem State.portResetEnd_cfg (s : State) (p : Port) (t : PortTrigger) : (State.portResetEnd s p
    t).cfg = s.cfg := by
  simp [State.portResetEnd, apply_ite State.cfg]
@[simp] theorem State.adoptResult_cfg (s : State) (p : Port) (g : Nat) (r : AdoptResult) : (State.adoptResult s
    p g r).cfg = s.cfg := by
  simp [State.adoptResult]
@[simp] theorem State.portAdopt_cfg (s : State) (p : Port) (g : Nat) : (State.portAdopt s p g).cfg = s.cfg := by
  simp [State.portAdopt, apply_ite State.cfg]
@[simp] theorem State.countHostFail_cfg (s : State) (p : Port) : (State.countHostFail s p).cfg = s.cfg := by
  simp [State.countHostFail]
@[simp] theorem State.cfgApply_cfg (s : State) (p : Port) (r : CfgReq) : (State.cfgApply s p r).cfg = s.cfg := by
  unfold State.cfgApply; split <;> simp [apply_ite State.cfg]
@[simp] theorem State.updAcc_cfg (s : State) (id : Nat) (f : Acc → Acc) : (State.updAcc s id f).cfg = s.cfg := by
  simp [State.updAcc]
@[simp] theorem State.dropAcc_cfg (s : State) (id : Nat) : (State.dropAcc s id).cfg = s.cfg := by simp [State.dropAcc]
@[simp] theorem State.dropPiece_cfg (s : State) (id : Nat) : (State.dropPiece s id).cfg = s.cfg := by
  simp [State.dropPiece]
@[simp] theorem State.newAcc_cfg (s : State) (h k pc seq : Nat) (a : Agent) (kind : AccKind) (todo : List Run)
    : (State.newAcc s h k pc seq a kind todo).cfg = s.cfg := by
  simp [State.newAcc]
@[simp] theorem State.settleRels_cfg (s : State) (h k : Nat) : (State.settleRels s h k).cfg = s.cfg := by
  simp [State.settleRels, apply_ite State.cfg]
@[simp] theorem State.countCabFault_cfg (s : State) (h id : Nat) : (State.countCabFault s h id).cfg = s.cfg := by
  unfold State.countCabFault; split <;> simp [apply_ite State.cfg]
@[simp] theorem State.accFault_cfg (s : State) (id : Nat) (code : BitVec 8) : (State.accFault s id code).cfg =
    s.cfg := by
  unfold State.accFault; (repeat' split) <;> simp [apply_ite State.cfg]
@[simp] theorem State.pieceFault_cfg (s : State) (p : Piece) (code : BitVec 8) : (State.pieceFault s p
    code).cfg = s.cfg := by
  unfold State.pieceFault; (repeat' split) <;> simp [apply_ite State.cfg]
@[simp] theorem State.failCheck_cfg (s : State) (p : Piece) (code : BitVec 8) : (State.failCheck s p code).cfg
    = s.cfg := by
  simp [State.failCheck]
@[simp] theorem State.addPiece_cfg (s : State) (p : Piece) : (State.addPiece s p).cfg = s.cfg := by
  simp [State.addPiece]
@[simp] theorem State.launch_cfg (s : State) (p : Piece) : (State.launch s p).cfg = s.cfg := by
  unfold State.launch; split <;> simp [apply_ite State.cfg]
@[simp] theorem State.sendAcc_cfg (s : State) (id : Nat) : (State.sendAcc s id).cfg = s.cfg := by
  unfold State.sendAcc; (repeat' split) <;> simp [apply_ite State.cfg]
@[simp] theorem State.putHob_cfg (s : State) (h off : Nat) (bs : List (Byte × Byte)) : (State.putHob s h off
    bs).cfg = s.cfg := by
  simp [State.putHob]
@[simp] theorem State.applyPiece_cfg (s : State) (p : Piece) : (State.applyPiece s p).cfg = s.cfg := by
  unfold State.applyPiece; split <;> simp [apply_ite State.cfg]

end Sys2Proof.Machine
end

