-- ==== Sys2Proof/Laws/Frame/Str.lean ====
section
/-! SUPPORT. Operations that leave `State.cfg` alone: Mem, Syn, Str. -/

namespace Sys2Proof.Machine

@[simp] theorem State.ld_cfg (s : State) (h k : Nat) : (State.ld s h k).cfg = s.cfg := by
  unfold State.ld; apply State.issue_cfg; intro w e t ht; simp [ht]
@[simp] theorem State.st_cfg (s : State) (h k : Nat) : (State.st s h k).cfg = s.cfg := by
  unfold State.st; apply State.issue_cfg; intro w e t ht; simp [ht]
@[simp] theorem State.ldarg_cfg (s : State) (h k : Nat) : (State.ldarg s h k).cfg = s.cfg := by
  unfold State.ldarg; apply State.issue_cfg; intro w e t ht; (try dsimp only); (repeat' split) <;> simp [ht]
@[simp] theorem State.deliver_cfg (s : State) (a : Acc) (d : Dst) (v : Nat) : (State.deliver s a d v).cfg = s.cfg := by
  simp [State.deliver]
@[simp] theorem State.fence_cfg (s : State) (h k op : Nat) (writes : Bool) : (State.fence s h k op writes).cfg
    = s.cfg := by
  unfold State.fence; apply State.issue_cfg; intro w e t ht; simp [ht]
@[simp] theorem State.release1_cfg (s t : State) (h k : Nat) : (State.release1 s t h k).cfg = t.cfg := by
  simp [State.release1]
@[simp] theorem State.fenceRel_cfg (s : State) (h k : Nat) : (State.fenceRel s h k).cfg = s.cfg := by
  unfold State.fenceRel; apply State.issue_cfg; intro w e t ht; simp [ht]
@[simp] theorem State.flagSetOp_cfg (s : State) (h k : Nat) : (State.flagSetOp s h k).cfg = s.cfg := by
  unfold State.flagSetOp; apply State.issue_cfg; intro w e t ht; simp [ht]
@[simp] theorem State.flagAddOp_cfg (s : State) (h k : Nat) : (State.flagAddOp s h k).cfg = s.cfg := by
  unfold State.flagAddOp; apply State.issue_cfg; intro w e t ht; simp [ht]
@[simp] theorem State.flagWaitOp_cfg (s : State) (h k : Nat) : (State.flagWaitOp s h k).cfg = s.cfg := by
  unfold State.flagWaitOp; apply State.issue_cfg; intro w e t ht; simp [ht]
@[simp] theorem State.flagSeen_cfg (s : State) (h k : Nat) (v : W64) : (State.flagSeen s h k v).cfg = s.cfg := by
  unfold State.flagSeen; dsimp only; (repeat' split) <;> simp_all [apply_ite State.cfg]
@[simp] theorem State.flagReread_cfg (s : State) (h k : Nat) : (State.flagReread s h k).cfg = s.cfg := by
  unfold State.flagReread; dsimp only; (repeat' split) <;> simp_all [apply_ite State.cfg]
@[simp] theorem State.arrive_cfg (s : State) (h k : Nat) : (State.arrive s h k).cfg = s.cfg := by simp [State.arrive]
@[simp] theorem State.damperOp_cfg (s : State) (h k : Nat) : (State.damperOp s h k).cfg = s.cfg := by
  unfold State.damperOp
  split
  · split <;> simp
  · apply State.issue_cfg; intro w e t ht; simp [ht]
@[simp] theorem State.roundEnd_cfg (s : State) (wo : Nat) : (State.roundEnd s wo).cfg = s.cfg := by
  simp [State.roundEnd, apply_ite State.cfg]
@[simp] theorem State.timeRd_cfg (s : State) (h k : Nat) : (State.timeRd s h k).cfg = s.cfg := by
  unfold State.timeRd; apply State.issue_cfg; intro w e t ht; simp [ht]
@[simp] theorem State.paceRd_cfg (s : State) (h k : Nat) : (State.paceRd s h k).cfg = s.cfg := by
  unfold State.paceRd; apply State.issue_cfg; intro w e t ht; simp [ht]
@[simp] theorem State.setStream_cfg (s : State) (h k d : Nat) (v : Option Stream) : (State.setStream s h k d
    v).cfg = s.cfg := by
  simp [State.setStream]
@[simp] theorem State.updStream_cfg (s : State) (h k d : Nat) (f : Stream → Stream) : (State.updStream s h k d
    f).cfg = s.cfg := by
  simp [State.updStream]
@[simp] theorem State.hobPut_cfg (s : State) (h g hob : Nat) (f : Fmt) (i v : Nat) : (State.hobPut s h g hob f
    i v).cfg = s.cfg := by
  simp [State.hobPut]
@[simp] theorem State.deliverElem_cfg (s : State) (h k d n v : Nat) : (State.deliverElem s h k d n v).cfg = s.cfg := by
  unfold State.deliverElem; (repeat' split) <;> simp [apply_ite State.cfg]
@[simp] theorem State.settleStream_cfg (s : State) (h k d : Nat) : (State.settleStream s h k d).cfg = s.cfg := by
  unfold State.settleStream; split <;> simp [apply_ite State.cfg]
@[simp] theorem State.skipElems_cfg (h k d n : Nat) (s : State) : (State.skipElems h k d n s).cfg = s.cfg := by
  induction n generalizing s with
  | zero => rfl
  | succ n ih =>
    unfold State.skipElems
    (repeat' split) <;> simp_all [apply_ite State.cfg] <;> intros <;> split <;> simp_all [apply_ite State.cfg]
@[simp] theorem State.sendPiece_cfg (s : State) (h k d : Nat) (x : Stream) (o : StrOp) (va len : Nat) (wdata :
    List (Byte × Byte)) (owner : Owner) (next : Nat) : (State.sendPiece s h k d x o va len wdata owner next).cfg = s.cfg := by
  unfold State.sendPiece; dsimp only; (repeat' split) <;> simp_all [apply_ite State.cfg]
theorem takeFree_to {s t : State} {v : W64} (h : s.takeFree = (t, v)) : t.cfg = s.cfg := by
  rw [← State.takeFree_cfg s, h]
@[simp] theorem State.freeBytes_cfg (n : Nat) (s : State) : (State.freeBytes n s).1.cfg = s.cfg := by
  induction n generalizing s with
  | zero => rfl
  | succ n ih => simp [State.freeBytes, ih]
theorem freeBytes_to {n : Nat} {s t : State} {v : List Byte} (h : State.freeBytes n s = (t, v)) : t.cfg = s.cfg := by
  rw [← State.freeBytes_cfg n s, h]
@[simp] theorem State.rewind_cfg (s : State) (h k d : Nat) : (State.rewind s h k d).cfg = s.cfg := by
  unfold State.rewind; (repeat' split) <;> simp [apply_ite State.cfg]
@[simp] theorem State.sendStream_cfg (s : State) (h k d : Nat) : (State.sendStream s h k d).cfg = s.cfg := by
  unfold State.sendStream
  split
  · rfl
  · apply cfg_ite rfl
    extract_lets s1 s2 s3 busy
    have h2 : s2.cfg = s.cfg := by
      unfold s2; split <;> simp [s1]
    split
    · exact h2
    · extract_lets n pos room
      split
      · simp [h2]
      · have h3 : s3.cfg = s.cfg := by simp [s3, h2]
        refine cfg_ite h3 (cfg_ite h3 (cfg_ite ?_ ?_))
        · split
          · simp [h3]
          · split
            · simp [h3]
            · refine cfg_ite h3 ?_
              split
              rename_i heq
              split at heq
              · simp [freeBytes_to heq, h3]
              · cases heq; simp [h3]
        · extract_lets c
          split
          · simp [h3]
          · refine cfg_ite h3 ?_
            split <;> simp [h3]
@[simp] theorem State.streamArrive_cfg (s : State) (p : Piece) (bs : List Byte) : (State.streamArrive s p bs).cfg = s.cfg := by
  unfold State.streamArrive
  extract_lets h k
  (repeat' split)
  all_goals first
    | rfl
    | (extract_lets; simp +zetaDelta; done)
    | (extract_lets; simp +zetaDelta [apply_ite State.cfg]; intros; apply cfg_foldl; intro t x; split <;> simp; done)
    | (rename_i heq; extract_lets; have := takeFree_to heq; simp +zetaDelta [this])
@[simp] theorem State.strOpen_cfg (s : State) (h k op : Nat) : (State.strOpen s h k op).cfg = s.cfg := by
  unfold State.strOpen
  extract_lets
  apply State.issue_cfg
  intro w e t ht
  extract_lets
  simp only [Issued.keeps_ite, Issued.keeps_fault, Issued.keeps_hold, implies_true, true_and]
  intros
  simp +zetaDelta [apply_ite State.cfg, ht]
@[simp] theorem State.bindAll_cfg (s : State) (h : Nat) : (State.bindAll s h).cfg = s.cfg := by simp [State.bindAll]
@[simp] theorem State.strOpenTags_cfg (s : State) (h : Nat) : (State.strOpenTags s h).cfg = s.cfg := by
  unfold State.strOpenTags; dsimp only; (repeat' split) <;> simp_all [apply_ite State.cfg]
@[simp] theorem State.openDesc_cfg (s : State) (a : Acc) (handle : Nat) (raw : List Byte) : (State.openDesc s a
    handle raw).cfg = s.cfg := by
  unfold State.openDesc; dsimp only; (repeat' split) <;> simp_all [apply_ite State.cfg]
@[simp] theorem State.withStream_cfg (s : State) (h k d : Nat) (f : Stream → Issued) {c : Cfg}
    (hf : ∀ z, (f z).keeps c) : (State.withStream s h k d f).keeps c := by
  unfold State.withStream; (repeat' split) <;> simp_all
@[simp] theorem State.strAssign_cfg (s : State) (h k op : Nat) (push : Bool) : (State.strAssign s h k op push).cfg = s.cfg := by
  unfold State.strAssign; apply State.issue_cfg; intro w e t ht; apply State.withStream_cfg; intro x
  extract_lets
  simp only [Issued.keeps_ite, Issued.keeps_fault, implies_true, true_and]
  intros
  split
  · simp [ht]
  · simp [ht]
@[simp] theorem State.strWait_cfg (s : State) (h k : Nat) : (State.strWait s h k).cfg = s.cfg := by
  unfold State.strWait; apply State.issue_cfg; intro w e t ht; apply State.withStream_cfg; intro x; simp [ht]
@[simp] theorem State.strPos_cfg (s : State) (h k : Nat) : (State.strPos s h k).cfg = s.cfg := by
  unfold State.strPos; apply State.issue_cfg; intro w e t ht; apply State.withStream_cfg; intro x; simp [ht]
@[simp] theorem State.strClose_cfg (s : State) (h k : Nat) : (State.strClose s h k).cfg = s.cfg := by
  unfold State.strClose; apply State.issue_cfg; intro w e t ht; apply State.withStream_cfg; intro x; simp [ht]
@[simp] theorem State.unbindClosed_cfg (s : State) (h k : Nat) : (State.unbindClosed s h k).cfg = s.cfg := by
  simp [State.unbindClosed, apply_ite State.cfg]
@[simp] theorem State.haltOp_cfg (s : State) (h k : Nat) : (State.haltOp s h k).cfg = s.cfg := by
  unfold State.haltOp; apply State.issue_cfg; intro w e t ht; simp [ht]
@[simp] theorem State.parkHalted_cfg (s : State) (h k d : Nat) : (State.parkHalted s h k d).cfg = s.cfg := by
  unfold State.parkHalted; dsimp only; (repeat' split) <;> simp_all [apply_ite State.cfg]
@[simp] theorem State.streamHalt_cfg (s : State) (h k d : Nat) (wr : State → Nat → Nat → List Byte → Option Bool × State)
    (hw : ∀ t g va bs, (wr t g va bs).2.cfg = t.cfg) : (State.streamHalt s h k d wr).cfg = s.cfg := by
  unfold State.streamHalt
  extract_lets y g seq slot phase
  split
  · rfl
  · split
    · extract_lets pc bs
      refine cfg_ite rfl (cfg_ite (by simp) ?_)
      have hx := hw s y.gal (g.fqBase.toNat + 32 * slot) bs
      split <;> rename_i heq <;> rw [heq] at hx
      · simp at hx; simp [hx]
      · exact hx
      · simp at hx; simp [hx, apply_ite State.cfg]
    · rfl

end Sys2Proof.Machine
end

