-- ==== Sys2Proof/Laws/Frame/Engines.lean ====
section
/-! SUPPORT. Operations that leave `State.cfg` alone: Cab, Sha, Sparse, Engines, Grt, Ember, Flu. -/

namespace Sys2Proof.Machine

@[simp] theorem State.updCall_cfg (s : State) (h id : Nat) (f : Call → Call) : (State.updCall s h id f).cfg =
    s.cfg := by
  simp [State.updCall]
@[simp] theorem State.dropCall_cfg (s : State) (h id : Nat) : (State.dropCall s h id).cfg = s.cfg := by
  simp [State.dropCall]
@[simp] theorem State.acquireAfter_cfg (s t : State) (h k seq : Nat) {c : Cfg} (hc : t.cfg = c) :
    (State.acquireAfter s t h k seq).keeps c := by
  subst hc; simp [State.acquireAfter]
@[simp] theorem State.callWait_cfg (s : State) (h k cls : Nat) (cab : Bool) : (State.callWait s h k cls
    cab).cfg = s.cfg := by
  unfold State.callWait; apply State.issue_cfg; intro w e t ht; simp [ht]
@[simp] theorem State.postCall_cfg (s t : State) (h k engine : Nat) (block : List Byte) (pat : Nat × Nat) :
    (State.postCall s t h k engine block pat).cfg = t.cfg := by
  simp [State.postCall]
@[simp] theorem State.cabCall_cfg (s : State) (h k : Nat) : (State.cabCall s h k).cfg = s.cfg := by
  unfold State.cabCall; apply State.issue_cfg; intro w e t ht; (try dsimp only); (repeat' split) <;> simp [ht]
@[simp] theorem State.zeroC_cfg (s : State) (h k : Nat) : (State.zeroC s h k).cfg = s.cfg := by
  unfold State.zeroC; apply State.issue_cfg; intro w e t ht; simp [ht]
@[simp] theorem State.grtZero_cfg (s : State) (h k : Nat) : (State.grtZero s h k).cfg = s.cfg := by
  unfold State.grtZero; apply State.issue_cfg; intro w e t ht; (try dsimp only); (repeat' split) <;> simp [ht]
@[simp] theorem State.withGrate_cfg (s : State) (h k d : Nat) (f : Stream → Issued) {c : Cfg}
    (hf : ∀ z, (f z).keeps c) : (State.withGrate s h k d f).keeps c := by
  unfold State.withGrate; apply State.withStream_cfg; intro x; simp [hf]
@[simp] theorem State.grtLoadb_cfg (s : State) (h k : Nat) : (State.grtLoadb s h k).cfg = s.cfg := by
  unfold State.grtLoadb; apply State.issue_cfg; intro w e t ht; (try dsimp only); (repeat' split) <;> simp [ht]
@[simp] theorem State.kindleEnter_cfg (s : State) (h : Nat) (new : Chain) (g : Group) : (State.kindleEnter s h
    new g).cfg = s.cfg := by
  unfold State.kindleEnter; dsimp only; (repeat' split) <;> simp_all [apply_ite State.cfg]
@[simp] theorem State.mmClaim_cfg (s t : State) (h k w : Nat) (m : MmShape) (p : MmPlan) (list : List Nat) :
    (State.mmClaim s t h k w m p list).cfg = t.cfg := by
  simp [State.mmClaim, apply_ite State.cfg]
@[simp] theorem State.settleRestart_cfg (s : State) (h k d : Nat) : (State.settleRestart s h k d).cfg = s.cfg := by
  unfold State.settleRestart; (repeat' split) <;> simp [apply_ite State.cfg]
@[simp] theorem State.mmRun_cfg (s t : State) (h k w : Nat) (m : MmShape) (p : MmPlan) (kinds : List (Nat × SlotKind))
    (list : List Nat) : (State.mmRun s t h k w m p kinds list).cfg = t.cfg := by
  unfold State.mmRun
  extract_lets y x t1 t2 t3 t4 c0 kindle
  have h1 : t1.cfg = t.cfg := by simp [t1, apply_ite State.cfg]
  have h2 : t2.cfg = t.cfg := by simp [t2, h1]
  refine cfg_ite h2 (cfg_ite ?_ ?_)
  · simp [apply_ite State.cfg, h2]
  · split <;> simp [t4, t3, h2]
@[simp] theorem State.mmB_cfg (s : State) (h k w pos : Nat) (f : Tile → Option Stream → Issued) {c : Cfg}
    (hf : ∀ x y, (f x y).keeps c) : (State.mmB s h k w pos f).keeps c := by
  unfold State.mmB
  split
  · simp [hf]
  · split <;> simp [hf]
@[simp] theorem State.mm_cfg (s t : State) (h k w : Nat) (m : MmShape) {c : Cfg} (hc : t.cfg = c) :
    (State.mm s t h k w m).keeps c := by
  unfold State.mm
  extract_lets x y
  split
  · simp
  · apply State.withGrate_cfg; intro a
    apply State.mmB_cfg; intro b bs
    split
    · simp
    · extract_lets kt r p runs list needB lackA lackB
      clear_value list
      simp only [Issued.keeps_ite, Issued.keeps_fault, implies_true, true_and]
      intro _
      split
      · simp
      · simp only [Issued.keeps_ite, Issued.keeps_hold, implies_true, true_and]
        intro _
        cases list <;> simp [hc]
@[simp] theorem State.grtMm_cfg (s : State) (h k : Nat) : (State.grtMm s h k).cfg = s.cfg := by
  unfold State.grtMm; apply State.issue_cfg; intro w e t ht; simp [ht]
@[simp] theorem State.grtMmX_cfg (s : State) (h k : Nat) : (State.grtMmX s h k).cfg = s.cfg := by
  unfold State.grtMmX; grind [State.cfg_mk, State.cfg_eta, State.issue_cfg, State.mm_cfg]
theorem free_fold {α : Type} (f : State × List Nat → α → State × List Nat) (l : List α) (a : State × List Nat)
    (h : ∀ a x, (f a x).1.cfg = a.1.cfg) : (l.foldl f a).1.cfg = a.1.cfg := by
  induction l generalizing a with
  | nil => rfl
  | cons x l ih => rw [List.foldl_cons, ih, h]
@[simp] theorem State.takeTile_cfg (s : State) (x : Stream) (pos : Nat) (trans : Bool) :
    (State.takeTile s x pos trans).1.cfg = s.cfg := by
  unfold State.takeTile
  extract_lets b data r
  split
  · rfl
  · split
    · simp only [r]; rw [free_fold]; intro a x; simp
    · rfl
@[simp] theorem State.consume_cfg (s : State) (h k d a n : Nat) : (State.consume s h k d a n).cfg = s.cfg := by
  simp [State.consume]
@[simp] theorem State.fillLoadB_cfg (s : State) (h : Nat) (l : LoadB) : (State.fillLoadB s h l).cfg = s.cfg := by
  unfold State.fillLoadB; split <;> simp [apply_ite State.cfg]
@[simp] theorem State.settleLatches_cfg (s : State) (h : Nat) : (State.settleLatches s h).cfg = s.cfg := by
  simp [State.settleLatches]
@[simp] theorem State.kindlingDeadline_cfg (s : State) (h id : Nat) : (State.kindlingDeadline s h id).cfg = s.cfg := by
  simp [State.kindlingDeadline]
@[simp] theorem State.claimRelease_cfg (s : State) (h k : Nat) : (State.claimRelease s h k).cfg = s.cfg := by
  simp [State.claimRelease, apply_ite State.cfg]
@[simp] theorem State.chainStart_cfg (s : State) (h id : Nat) : (State.chainStart s h id).cfg = s.cfg := by
  unfold State.chainStart; dsimp only; (repeat' split) <;> simp_all [apply_ite State.cfg]
@[simp] theorem State.passTile_cfg (s : State) (h : Nat) (c : Chain) : (State.passTile s h c).cfg = s.cfg := by
  unfold State.passTile; dsimp only; (repeat' split) <;> simp_all [apply_ite State.cfg]
@[simp] theorem State.tileBroadcast_cfg (s : State) (h id : Nat) (v : Verdict) (f : TileFault) (row : Nat) :
    (State.tileBroadcast s h id v f row).cfg = s.cfg := by
  unfold State.tileBroadcast; dsimp only; (repeat' split) <;> simp_all [apply_ite State.cfg]
@[simp] theorem State.unbindHalted_cfg (s : State) (h k : Nat) : (State.unbindHalted s h k).cfg = s.cfg := by
  simp [State.unbindHalted, apply_ite State.cfg]
@[simp] theorem State.chainCommit_cfg (s : State) (h id : Nat) : (State.chainCommit s h id).cfg = s.cfg := by
  unfold State.chainCommit; dsimp only; (repeat' split) <;> simp_all [apply_ite State.cfg]
@[simp] theorem State.handover_cfg (s : State) (h k d : Nat) : (State.handover s h k d).cfg = s.cfg := by
  simp [State.handover]
@[simp] theorem State.askAsh_cfg (s : State) (g l : Nat) : (State.askAsh s g l).cfg = s.cfg := by simp [State.askAsh]
theorem AshRun.target_to {r q : AshRun} {g va : Nat} {o : Option Target} (h : r.target g va = (q, o)) : q.s.cfg = r.s.cfg := by
  unfold AshRun.target at h
  (repeat' split at h) <;> cases h <;> simp
@[simp] theorem AshRun.read_cfg (r : AshRun) (g va : Nat) : (r.read g va).1.s.cfg = r.s.cfg := by
  unfold AshRun.read
  split <;> rename_i h <;> exact AshRun.target_to h
@[simp] theorem AshRun.write_cfg (r : AshRun) (g va key val : Nat) : (r.write g va key val).s.cfg = r.s.cfg := by
  unfold AshRun.write
  split <;> rename_i h <;> simp [AshRun.target_to h]
@[simp] theorem AshRun.probe_cfg (r : AshRun) (g : Nat) (e : Ember) (key i n : Nat) (hole : Option Nat) :
    (r.probe g e key i n hole).1.s.cfg = r.s.cfg := by
  induction n generalizing r i hole with
  | zero => rfl
  | succ n ih => 
    unfold AshRun.probe
    extract_lets a q
    have hq : q.1.s.cfg = r.s.cfg := AshRun.read_cfg ..
    clear_value a q
    split
    · exact hq
    · split
      · exact hq
      · split
        · exact hq
        · rw [ih]; exact hq
@[simp] theorem AshRun.insert_cfg (r : AshRun) (g : Nat) (e : Ember) (key val : Nat) :
    (r.insert g e key val).s.cfg = r.s.cfg := by
  have h := AshRun.probe_cfg r g e key 0 e.ashCap none
  unfold AshRun.insert
  split <;> rename_i heq <;> rw [heq] at h <;> simp [← h]
  split <;> rfl
@[simp] theorem spillFrom_cfg (g b n i : Nat) (r : AshRun) (e : Ember) : (spillFrom g b n i r e).1.s.cfg = r.s.cfg := by
  induction n generalizing r e i with
  | zero => rfl
  | succ n ih => unfold spillFrom; (repeat' split) <;> simp_all +zetaDelta <;> split <;> simp_all
@[simp] theorem applyPair_cfg (g wo : Nat) (r : AshRun) (e : Ember) (key val : Nat) :
    (applyPair g wo r e key val).1.s.cfg = r.s.cfg := by
  unfold applyPair
  extract_lets b at' q
  clear_value at'
  split
  · rfl
  · split
    · rfl
    · cases at' with
      | some i => rfl
      | none =>
        dsimp only
        split
        · rfl
        · split <;> simp [q]
@[simp] theorem applyPairs_cfg (g wo : Nat) (l : List (Nat × Nat)) (r : AshRun) (e : Ember) :
    (applyPairs g wo l r e).1.s.cfg = r.s.cfg := by
  induction l generalizing r e with
  | nil => rfl
  | cons x l ih => obtain ⟨k, v⟩ := x; simp [applyPairs, ih]
theorem State.finishEmber_to {s t : State} {a : Acc} {dst : Option Dst} {va m : Nat} (h : s.finishEmber a dst va m = some t) :
    t.cfg = s.cfg := by
  revert h
  unfold State.finishEmber
  extract_lets hh k
  split
  · simp
  · split
    · extract_lets q t1 t2
      have h1 : t1.cfg = s.cfg := by simp [t1, q]
      have h2 : t2.cfg = s.cfg := by
        simp only [t2]
        split
        · simp [h1]
        · split <;> simp [h1]
      clear_value t2
      split
      · simp
      · intro h
        simp only [Option.some.injEq] at h
        rw [← h]
        exact h2
    · intro h
      simp only [Option.some.injEq] at h
      rw [h]
@[simp] theorem State.sprEmb_cfg (s : State) (h k : Nat) : (State.sprEmb s h k).cfg = s.cfg := by
  unfold State.sprEmb; apply State.issue_cfg; intro w e t ht; (try dsimp only); (repeat' split) <;> simp [ht]
@[simp] theorem State.sprMerge_cfg (s : State) (h k : Nat) : (State.sprMerge s h k).cfg = s.cfg := by
  unfold State.sprMerge; apply State.issue_cfg; intro w e t ht; simp [ht]
@[simp] theorem State.claimEmber_cfg (s : State) (h k pc seq n base cap : Nat) : (State.claimEmber s h k pc seq
    n base cap).cfg = s.cfg := by
  simp [State.claimEmber, apply_ite State.cfg]
@[simp] theorem State.sprEmbC_cfg (s : State) (h k : Nat) : (State.sprEmbC s h k).cfg = s.cfg := by
  unfold State.sprEmbC; apply State.issue_cfg; intro w e t ht; simp [ht]
@[simp] theorem State.sprDroprd_cfg (s : State) (h k : Nat) : (State.sprDroprd s h k).cfg = s.cfg := by
  unfold State.sprDroprd; apply State.issue_cfg; intro w e t ht; simp [ht]
@[simp] theorem State.fluSt_cfg (s : State) (h k op : Nat) : (State.fluSt s h k op).cfg = s.cfg := by
  unfold State.fluSt
  extract_lets ext
  apply State.issue_cfg; intro w e t ht
  extract_lets x y va n
  split
  · simp
  · simp [ht]
@[simp] theorem State.dropFlu_cfg (s : State) (h id : Nat) : (State.dropFlu s h id).cfg = s.cfg := by
  simp [State.dropFlu]
@[simp] theorem State.fluDescRead_cfg (s : State) (a : Acc) (op : Nat) (raw : List Byte) : (State.fluDescRead s
    a op raw).cfg = s.cfg := by
  unfold State.fluDescRead; dsimp only; (repeat' split) <;> simp_all [apply_ite State.cfg]
@[simp] theorem State.flueDrain_cfg (s : State) (h id : Nat) (check : Option (CheckUnit × Verdict)) :
    (State.flueDrain s h id check).cfg = s.cfg := by
  unfold State.flueDrain; dsimp only; (repeat' split) <;> simp_all [apply_ite State.cfg]
@[simp] theorem AshRun.scan_cfg (g : Nat) (e : Ember) (n i : Nat) (r : AshRun) (acc : List (Nat × Nat × Nat)) :
    (AshRun.scan g e n i r acc).1.s.cfg = r.s.cfg := by
  induction n generalizing r i acc with
  | zero => rfl
  | succ n ih => unfold AshRun.scan; extract_lets a q; split <;> simp [q, ih]
theorem ash_fold {α : Type} (f : AshRun → α → AshRun) (l : List α) (a : AshRun)
    (h : ∀ a x, (f a x).s.cfg = a.s.cfg) : (l.foldl f a).s.cfg = a.s.cfg := by
  induction l generalizing a with
  | nil => rfl
  | cons x l ih => rw [List.foldl_cons, ih, h]
@[simp] theorem State.fluSte_cfg (s : State) (h k : Nat) : (State.fluSte s h k).cfg = s.cfg := by
  unfold State.fluSte
  apply State.issue_cfg; intro w e t ht
  extract_lets y va
  split
  · simp
  · split
    · simp
    · split
      · simp
      · split
        · simp
        · extract_lets q out gone r e2 t2
          have hr : r.s.cfg = t.cfg := by
            simp only [r]; rw [ash_fold]; intro a x; split <;> simp
          have h2 : t2.cfg = s.cfg := by simp [t2, hr, ht]
          clear_value t2
          split
          · simp
          · simp
          · split <;> simp [h2]

end Sys2Proof.Machine
end

