-- ==== Sys2Proof/Laws/Frame/Queue.lean ====
section
/-! SUPPORT. Operations that leave `State.cfg` alone: KeeperFam, CatFam, Doorbell, Queue. -/

namespace Sys2Proof.Machine

@[simp] theorem State.whenReadyOrRecovery_cfg (s : State) (f : State → State) (hf : ∀ t, (f t).cfg = t.cfg) :
    (State.whenReadyOrRecovery s f).cfg = s.cfg := by
  unfold State.whenReadyOrRecovery; grind [State.cfg_mk, State.cfg_eta, State.reached_cfg, State.earlyWrite_cfg]
@[simp] theorem State.ledgResult_cfg (s : State) (r : LedgResult) : (State.ledgResult s r).cfg = s.cfg := by
  simp [State.ledgResult]
@[simp] theorem State.m2sRequest_cfg (s : State) (p : Port) (r : M2SReq) (v : Verdict) :
    (State.m2sRequest s p r v).cfg = s.cfg := by
  unfold State.m2sRequest; dsimp only; (repeat' split) <;> simp_all [apply_ite State.cfg]
@[simp] theorem State.bar4Access_cfg (s : State) (p : Port) (write : Bool) (off : Nat) (data : List Byte) (be :
    List Bool) (vs : List Verdict) : (State.bar4Access s p write off data be vs).cfg = s.cfg := by
  simp [State.bar4Access, apply_ite State.cfg]
@[simp] theorem State.biRsp_cfg (s : State) (p : Port) (l : Nat) (st : BiState) : (State.biRsp s p l st).cfg =
    s.cfg := by
  simp [State.biRsp, apply_ite State.cfg]
@[simp] theorem State.crossSnoop_cfg (s : State) (p : Port) (l : Nat) : (State.crossSnoop s p l).cfg = s.cfg := by
  simp [State.crossSnoop, apply_ite State.cfg]
@[simp] theorem State.cleanEvict_cfg (s : State) (p : Port) (l : Nat) : (State.cleanEvict s p l).cfg = s.cfg := by
  simp [State.cleanEvict]
@[simp] theorem State.dirtyWriteBack_cfg (s : State) (p : Port) (l : Nat) (data : List Byte) :
    (State.dirtyWriteBack s p l data).cfg = s.cfg := by
  simp [State.dirtyWriteBack, apply_ite State.cfg]
@[simp] theorem State.snoopExpire_cfg (s : State) (l : Nat) (p : Port) : (State.snoopExpire s l p).cfg = s.cfg := by
  unfold State.snoopExpire; split <;> simp [apply_ite State.cfg]
@[simp] theorem State.setCat_cfg (s : State) (g : Nat) (c : Catalogue) : (State.setCat s g c).cfg = s.cfg := by
  simp [State.setCat]
@[simp] theorem State.catResult_cfg (s : State) (g : Nat) (r : CatResult) : (State.catResult s g r).cfg = s.cfg := by
  simp [State.catResult]
@[simp] theorem State.catHome_cfg (s : State) (p : Port) (g : Nat) (f : State → State) (hf : ∀ t, (f t).cfg =
    t.cfg) : (State.catHome s p g f).cfg = s.cfg := by
  unfold State.catHome; dsimp only; (repeat' split) <;> simp_all [apply_ite State.cfg]
@[simp] theorem State.catJudge_cfg (s : State) (p : Port) (g : Nat) (f : State → State) (hf : ∀ t, (f t).cfg =
    t.cfg) : (State.catJudge s p g f).cfg = s.cfg := by
  unfold State.catJudge; grind [State.cfg_mk, State.cfg_eta, State.catHome_cfg, State.catResult_cfg]
@[simp] theorem State.catCmd_cfg (s : State) (p : Port) (g : Nat) (seg : BitVec 8) (f : State → State) (hf : ∀
    t, (f t).cfg = t.cfg) : (State.catCmd s p g seg f).cfg = s.cfg := by
  unfold State.catCmd; dsimp only; (repeat' split) <;> simp_all [apply_ite State.cfg]
@[simp] theorem State.drain_cfg (s : State) (g : Nat) (ids : List Nat) : (State.drain s g ids).cfg = s.cfg := by
  simp [State.drain]
@[simp] theorem State.catWrite_cfg (s : State) (g seg : Nat) : (State.catWrite s g seg).cfg = s.cfg := by
  unfold State.catWrite; dsimp only; (repeat' split) <;> simp_all [apply_ite State.cfg]
@[simp] theorem State.onValid_cfg (s : State) (g seg : Nat) (f : State → Segment → State) (hf : ∀ t x, (f t
    x).cfg = t.cfg) : (State.onValid s g seg f).cfg = s.cfg := by
  unfold State.onValid; dsimp only; (repeat' split) <;> simp_all [apply_ite State.cfg]
@[simp] theorem State.invalidate_cfg (s : State) (g seg : Nat) : (State.invalidate s g seg).cfg = s.cfg := by
  simp [State.invalidate]
@[simp] theorem State.catRead_cfg (s : State) (g seg : Nat) : (State.catRead s g seg).cfg = s.cfg := by
  simp [State.catRead]
@[simp] theorem State.presFill_cfg (s : State) (g seg : Nat) : (State.presFill s g seg).cfg = s.cfg := by
  simp [State.presFill]
@[simp] theorem State.presEmpty_cfg (s : State) (g seg : Nat) : (State.presEmpty s g seg).cfg = s.cfg := by
  simp [State.presEmpty]
@[simp] theorem State.presSet_cfg (s : State) (g : Nat) (v : Nat) : (State.presSet s g v).cfg = s.cfg := by
  unfold State.presSet; split <;> simp [apply_ite State.cfg]
@[simp] theorem State.presClr_cfg (s : State) (g : Nat) (v : Nat) : (State.presClr s g v).cfg = s.cfg := by
  unfold State.presClr; split <;> simp [apply_ite State.cfg]
@[simp] theorem State.catPool_cfg (s : State) (p : Port) (g v : Nat) : (State.catPool s p g v).cfg = s.cfg := by
  simp [State.catPool, apply_ite State.cfg]
@[simp] theorem State.drainDone_cfg (s : State) (g : Nat) : (State.drainDone s g).cfg = s.cfg := by
  simp [State.drainDone, apply_ite State.cfg]
@[simp] theorem State.catEntry_cfg (s : State) (p : Port) (g k : Nat) (v : W64) : (State.catEntry s p g k
    v).cfg = s.cfg := by
  simp [State.catEntry]
@[simp] theorem State.catPresSel_cfg (s : State) (p : Port) (g v : Nat) : (State.catPresSel s p g v).cfg = s.cfg := by
  simp [State.catPresSel]
@[simp] theorem State.dropBad_cfg (s : State) (g : Nat) : (State.dropBad s g).cfg = s.cfg := by simp [State.dropBad]
@[simp] theorem State.dropWrongPort_cfg (s : State) (g : Nat) : (State.dropWrongPort s g).cfg = s.cfg := by
  simp [State.dropWrongPort]
@[simp] theorem State.dropNotOpen_cfg (s : State) (g : Nat) : (State.dropNotOpen s g).cfg = s.cfg := by
  simp [State.dropNotOpen]
@[simp] theorem State.dropStale_cfg (s : State) (g : Nat) : (State.dropStale s g).cfg = s.cfg := by
  simp [State.dropStale]
@[simp] theorem State.earlyDoorbell_cfg (s : State) : (State.earlyDoorbell s).cfg = s.cfg := by
  simp [State.earlyDoorbell]
@[simp] theorem State.doorbell_cfg (s : State) (p : Port) (g : Nat) (accepts : GalSt → Bool) (f : State →
    State) (hf : ∀ t, (f t).cfg = t.cfg) : (State.doorbell s p g accepts f).cfg = s.cfg := by
  unfold State.doorbell; grind [State.cfg_mk, State.cfg_eta, State.earlyDoorbell_cfg, State.dropWrongPort_cfg, State.st_cfg, State.dropNotOpen_cfg]
@[simp] theorem State.whenEnabled_cfg (s : State) (g q : Nat) (f : State → State) (hf : ∀ t, (f t).cfg = t.cfg)
    : (State.whenEnabled s g q f).cfg = s.cfg := by
  unfold State.whenEnabled; grind [State.cfg_mk, State.cfg_eta, State.dropBad_cfg]
@[simp] theorem State.sqTail_cfg (s : State) (g q : Nat) (t : BitVec 16) : (State.sqTail s g q t).cfg = s.cfg := by
  simp [State.sqTail, apply_ite State.cfg]
@[simp] theorem State.push_cfg (s : State) (g q : Nat) (data : List Byte) : (State.push s g q data).cfg = s.cfg := by
  simp [State.push, apply_ite State.cfg]
@[simp] theorem State.cqHead_cfg (s : State) (g q : Nat) (h : BitVec 16) : (State.cqHead s g q h).cfg = s.cfg := by
  simp [State.cqHead, apply_ite State.cfg]
@[simp] theorem State.faultqHead_cfg (s : State) (g : Nat) (h : BitVec 16) : (State.faultqHead s g h).cfg = s.cfg := by
  simp [State.faultqHead, apply_ite State.cfg]
@[simp] theorem State.dbAbort_cfg (s : State) (g q : Nat) (t : BitVec 16) : (State.dbAbort s g q t).cfg = s.cfg := by
  unfold State.dbAbort; dsimp only; (repeat' split) <;> simp_all [apply_ite State.cfg]
@[simp] theorem State.stageShared_cfg (s : State) (g q off : Nat) : (State.stageShared s g q off).cfg = s.cfg := by
  unfold State.stageShared; split <;> simp
@[simp] theorem State.entryStage_cfg (s : State) (g q : Nat) (ans : HostAnswer) (v : Verdict) :
    (State.entryStage s g q ans v).cfg = s.cfg := by
  unfold State.entryStage; dsimp only; (repeat' split) <;> simp_all [apply_ite State.cfg]
@[simp] theorem State.fetch_cfg (s : State) (g q : Nat) (e : List Byte) : (State.fetch s g q e).cfg = s.cfg := by
  unfold State.fetch; dsimp only; (repeat' split) <;> simp_all [apply_ite State.cfg]
@[simp] theorem State.entryFetch_cfg (s : State) : (State.entryFetch s).cfg = s.cfg := by
  unfold State.entryFetch; (repeat' split) <;> simp [apply_ite State.cfg]
@[simp] theorem State.qfenceRetire_cfg (s : State) (id : Nat) : (State.qfenceRetire s id).cfg = s.cfg := by
  unfold State.qfenceRetire; split <;> simp [apply_ite State.cfg]
/-- The state that a record write leaves. -/
def Wrote.state : Wrote → State
  | .done t | .waits t | .failed t => t
@[simp] theorem Wrote.state_done (t : State) : (Wrote.done t).state = t := rfl
@[simp] theorem Wrote.state_waits (t : State) : (Wrote.waits t).state = t := rfl
@[simp] theorem Wrote.state_failed (t : State) : (Wrote.failed t).state = t := rfl
@[simp] theorem State.writeRecord_cfg (s : State) (g slot va : Nat) (bs : List Byte) :
    (State.writeRecord s g slot va bs).state.cfg = s.cfg := by
  unfold State.writeRecord
  split
  · rfl
  · split
    · simp
    · simp
    · split <;> simp
    · simp
    · split
      rename_i h
      split <;> simp [cfg_fst h]
    · rfl

end Sys2Proof.Machine
end

