-- ==== Sys2Proof/Laws/Frame/Fen.lean ====
section
/-! SUPPORT. Operations that leave `State.cfg` alone: Fenline, FenRing, FenRecv. -/

namespace Sys2Proof.Machine

@[simp] theorem State.updFen_cfg (s : State) (f : FenState → FenState) : (State.updFen s f).cfg = s.cfg := by
  simp [State.updFen]
@[simp] theorem State.setFenPort_cfg (s : State) (p : Nat) (x : FenPort) : (State.setFenPort s p x).cfg = s.cfg := by
  simp [State.setFenPort]
@[simp] theorem State.updFenPort_cfg (s : State) (p : Nat) (f : FenPort → FenPort) : (State.updFenPort s p
    f).cfg = s.cfg := by
  simp [State.updFenPort]
@[simp] theorem State.updFenGal_cfg (s : State) (g : Nat) (f : FenGal → FenGal) : (State.updFenGal s g f).cfg =
    s.cfg := by
  simp [State.updFenGal]
@[simp] theorem State.updTx_cfg (s : State) (g i : Nat) (f : FenTx → FenTx) : (State.updTx s g i f).cfg = s.cfg := by
  simp [State.updTx]
@[simp] theorem State.transmit_cfg (s : State) (p : Nat) (f : FlitOut) : (State.transmit s p f).cfg = s.cfg := by
  simp [State.transmit]
@[simp] theorem State.pumpPort_cfg (s : State) (p : Nat) : (State.pumpPort s p).cfg = s.cfg := by
  unfold State.pumpPort
  extract_lets r
  have h : r.1.cfg = s.cfg := by
    simp only [r]
    rw [cfg_foldl_fst]
    intro b x
    extract_lets
    split <;> simp
  simp [h]
@[simp] theorem State.sendFlit_cfg (s : State) (p : Nat) (f : FlitOut) : (State.sendFlit s p f).cfg = s.cfg := by
  simp [State.sendFlit]
@[simp] theorem State.sendTo_cfg (s : State) (d tag g index : Nat) (body : FlitBody) : (State.sendTo s d tag g
    index body).cfg = s.cfg := by
  unfold State.sendTo; split <;> simp [apply_ite State.cfg]
@[simp] theorem State.recheckColls_cfg (s : State) : (State.recheckColls s).cfg = s.cfg := by simp [State.recheckColls]
@[simp] theorem State.leavePort_cfg (s : State) (p : Nat) : (State.leavePort s p).cfg = s.cfg := by
  simp [State.leavePort]
@[simp] theorem State.recordEpoch_cfg (s : State) (d : Nat) (e : W32) : (State.recordEpoch s d e).cfg = s.cfg := by
  unfold State.recordEpoch; dsimp only; (repeat' split) <;> simp_all [apply_ite State.cfg]
@[simp] theorem State.skewCheck_cfg (s : State) : (State.skewCheck s).cfg = s.cfg := by
  simp [State.skewCheck, apply_ite State.cfg]
@[simp] theorem State.judgePort_cfg (s : State) (p : Nat) : (State.judgePort s p).cfg = s.cfg := by
  simp [State.judgePort, apply_ite State.cfg]
@[simp] theorem State.sendBringup_cfg (s : State) (p : Nat) : (State.sendBringup s p).cfg = s.cfg := by
  simp [State.sendBringup]
@[simp] theorem State.bringup_cfg (s : State) (p : Nat) (b : Bringup) : (State.bringup s p b).cfg = s.cfg := by
  simp [State.bringup, apply_ite State.cfg]
@[simp] theorem State.portTo_cfg (s : State) (p : Nat) (st : FenSt) : (State.portTo s p st).cfg = s.cfg := by
  simp [State.portTo, apply_ite State.cfg]
@[simp] theorem State.failPort_cfg (s : State) (p : Nat) : (State.failPort s p).cfg = s.cfg := by simp [State.failPort]
@[simp] theorem State.linkFields_cfg (s : State) (p : Nat) (h : FlitHdr) : (State.linkFields s p h).cfg = s.cfg := by
  simp [State.linkFields, apply_ite State.cfg]
@[simp] theorem State.xoffCheck_cfg (s : State) (p : Nat) : (State.xoffCheck s p).cfg = s.cfg := by
  simp [State.xoffCheck, apply_ite State.cfg]
@[simp] theorem State.dropStale'_cfg (s : State) : (State.dropStale' s).cfg = s.cfg := by simp [State.dropStale']
@[simp] theorem State.forward_cfg (s : State) (h : FlitHdr) (body : FlitBody) : (State.forward s h body).cfg =
    s.cfg := by
  unfold State.forward; (repeat' split) <;> simp [apply_ite State.cfg]
@[simp] theorem State.timesync_cfg (s : State) (p : Nat) (t : TimeSync) : (State.timesync s p t).cfg = s.cfg := by
  simp [State.timesync, apply_ite State.cfg]
@[simp] theorem State.announced_cfg (s : State) (e : W32) (unit : W64) (d : Nat) : (State.announced s e unit
    d).cfg = s.cfg := by
  unfold State.announced; split <;> simp [apply_ite State.cfg]
@[simp] theorem State.fenResult_cfg (s : State) (p : Nat) (r : FenResult) : (State.fenResult s p r).cfg = s.cfg := by
  simp [State.fenResult]
@[simp] theorem State.fenCfgEpoch_cfg (s : State) (p : Port) (pod : BitVec 16) : (State.fenCfgEpoch s p
    pod).cfg = s.cfg := by
  simp [State.fenCfgEpoch, apply_ite State.cfg]
@[simp] theorem State.fenGalWrite_cfg (s : State) (p : Port) (g v : Nat) : (State.fenGalWrite s p g v).cfg =
    s.cfg := by
  simp [State.fenGalWrite, apply_ite State.cfg]
@[simp] theorem State.fenReset_cfg (s : State) (p : Nat) : (State.fenReset s p).cfg = s.cfg := by simp [State.fenReset]
@[simp] theorem State.fenCtrl_cfg (s : State) (p : Port) (q : Nat) (f : State → State) (hf : ∀ t, (f t).cfg =
    t.cfg) : (State.fenCtrl s p q f).cfg = s.cfg := by
  unfold State.fenCtrl; grind [State.cfg_mk, State.cfg_eta, State.fenResult_cfg]
@[simp] theorem State.fenDisable_cfg (s : State) (q : Nat) (on : Bool) : (State.fenDisable s q on).cfg = s.cfg := by
  simp [State.fenDisable, apply_ite State.cfg]
@[simp] theorem State.fenRoute_cfg (s : State) (p : Port) (d v : Nat) : (State.fenRoute s p d v).cfg = s.cfg := by
  simp [State.fenRoute, apply_ite State.cfg]
@[simp] theorem State.askFen_cfg (s : State) (a : Agent) (l : Nat) : (State.askFen s a l).cfg = s.cfg := by
  simp [State.askFen]
@[simp] theorem State.fenGet_cfg (s : State) (g : Nat) (r : Run) : (State.fenGet s g r).1.cfg = s.cfg := by
  unfold State.fenGet; (repeat' split) <;> simp [apply_ite State.cfg]
@[simp] theorem State.fenPut_cfg (s : State) (g : Nat) (r : Run) : (State.fenPut s g r).1.cfg = s.cfg := by
  unfold State.fenPut; split <;> simp [apply_ite State.cfg]
@[simp] theorem State.fenReads_cfg (s : State) (g : Nat) (rs : List Run) : (State.fenReads s g rs).1.cfg = s.cfg := by
  unfold State.fenReads
  rw [cfg_foldl_fst]
  intro b x
  split
  · rfl
  · split <;> rename_i h <;> simp [cfg_fst h]
@[simp] theorem State.fenWrites_cfg (s : State) (g : Nat) (rs : List Run) : (State.fenWrites s g rs).1.cfg = s.cfg := by
  unfold State.fenWrites
  rw [cfg_foldl_fst]
  intro b x
  split <;> simp
@[simp] theorem State.ringFault_cfg (s : State) (g : Nat) (code : BitVec 8) : (State.ringFault s g code).cfg =
    s.cfg := by
  simp [State.ringFault]
@[simp] theorem State.endTx_cfg (s : State) (g i code : Nat) (kind : BitVec 8) : (State.endTx s g i code
    kind).cfg = s.cfg := by
  simp [State.endTx]
@[simp] theorem State.startPut_cfg (s : State) (t : FenTx) (l r : Desc) : (State.startPut s t l r).cfg = s.cfg := by
  simp [State.startPut, apply_ite State.cfg]
@[simp] theorem State.startGet_cfg (s : State) (t : FenTx) (r : Desc) : (State.startGet s t r).cfg = s.cfg := by
  simp [State.startGet]
@[simp] theorem State.pumpSignals_cfg (s : State) (g : Nat) : (State.pumpSignals s g).cfg = s.cfg := by
  unfold State.pumpSignals
  rw [cfg_foldl]
  intro b x
  (repeat' split) <;> simp
@[simp] theorem State.addPart_cfg (s : State) (g : Nat) (id : W32) (d : Nat) (ps : CollParams) (first : Nat)
    (elems : List Nat) (last : Bool) : (State.addPart s g id d ps first elems last).cfg = s.cfg := by
  simp [State.addPart]
@[simp] theorem State.collStep_cfg (s : State) (t : FenTx) : (State.collStep s t).cfg = s.cfg := by
  unfold State.collStep; dsimp only; (repeat' split) <;> simp_all [apply_ite State.cfg]
@[simp] theorem State.collSteps_cfg (s : State) : (State.collSteps s).cfg = s.cfg := by
  unfold State.collSteps
  rw [cfg_foldl]
  intro b x
  split <;> simp
@[simp] theorem State.startColl_cfg (s : State) (t : FenTx) (l r : Desc) (shard : List Byte) : (State.startColl
    s t l r shard).cfg = s.cfg := by
  unfold State.startColl; dsimp only; (repeat' split) <;> simp_all [apply_ite State.cfg]
@[simp] theorem State.startTx_cfg (s : State) (t : FenTx) : (State.startTx s t).cfg = s.cfg := by
  unfold State.startTx
  extract_lets g stop others rd
  have hrd : ∀ a n s, (rd a n s).1.cfg = s.cfg := by
    intro a n s
    simp only [rd]
    split <;> rename_i h <;> simp [cfg_fst h]
  clear_value rd
  split
  · simp [stop]
  · split
    · simp
    · split
      · simp [stop]
      · split
        · rename_i h; simp [cfg_fst h, hrd]
        · rename_i h
          have h1 := cfg_fst h
          rw [hrd] at h1
          split
          · rename_i h; simp [cfg_fst h, hrd, h1]
          · rename_i h
            have h2 := cfg_fst h
            rw [hrd, h1] at h2
            split
            · split
              · split
                · split <;> simp [h2]
                · split
                  · rename_i h; simp [cfg_fst h, hrd, h2]
                  · rename_i h
                    have h3 := cfg_fst h
                    rw [hrd, h2] at h3
                    split
                    · simp [h3]
                    · split <;> simp [h3]
              · split
                · simp [h2]
                · split <;> simp [h2]
            · simp [h2]
@[simp] theorem State.ringTake_cfg (s : State) (g : Nat) : (State.ringTake s g).cfg = s.cfg := by
  unfold State.ringTake; grind [State.cfg_mk, State.cfg_eta, State.st_cfg, State.askFen_cfg, State.fenGet_cfg, State.ringFault_cfg, State.updFenGal_cfg, State.updFen_cfg, State.startTx_cfg]
@[simp] theorem State.fenClosed_cfg (s : State) (g : Nat) : (State.fenClosed s g).cfg = s.cfg := by
  unfold State.fenClosed
  refine cfg_ite rfl ?_
  rw [cfg_foldl]
  intro b x
  split
  · simp
  · split <;> simp
  · rfl
@[simp] theorem State.fenFaultWo_cfg (s : State) (t : FenTx) (code : Nat) : (State.fenFaultWo s t code).cfg =
    s.cfg := by
  unfold State.fenFaultWo; dsimp only; (repeat' split) <;> simp_all [apply_ite State.cfg]
@[simp] theorem State.ringComplete_cfg (s : State) (g i : Nat) : (State.ringComplete s g i).cfg = s.cfg := by
  unfold State.ringComplete
  extract_lets s0
  have h0 : s0.cfg = s.cfg := by simp [s0]
  clear_value s0
  split
  · exact h0
  · split
    · extract_lets drop status sr s1
      have hd : ∀ u, (drop u).cfg = u.cfg := by intro u; simp [drop]
      have h1 : s1.cfg = s.cfg := by simp [s1, h0]
      clear_value drop s1
      split
      · simp [h0]
      · split
        · rename_i h; simp [hd, cfg_fst h, h1]
        · rename_i h
          have h2 := cfg_fst h
          simp only [State.fenPut_cfg, h1] at h2
          split
          · rename_i h; simp [hd, cfg_fst h, h2]
          · rename_i h
            have h3 := cfg_fst h
            simp only [State.fenGet_cfg, h2] at h3
            split <;> rename_i h <;> simp [hd, cfg_fst h, h3]
    · exact h0
@[simp] theorem State.setBad_cfg (s : State) (h : FlitHdr) (v : Bool) : (State.setBad s h v).cfg = s.cfg := by
  simp [State.setBad]
@[simp] theorem State.answer_cfg (s : State) (h : FlitHdr) (index : Nat) (body : FlitBody) : (State.answer s h
    index body).cfg = s.cfg := by
  simp [State.answer]
@[simp] theorem State.begun_cfg (s : State) (h : FlitHdr) : (State.begun s h).cfg = s.cfg := by
  simp [State.begun, apply_ite State.cfg]
@[simp] theorem State.takePut_cfg (s : State) (h : FlitHdr) (va : Nat) (data : List (Byte × Byte)) (last : Bool) :
    (State.takePut s h va data last).1.cfg = s.cfg := by
  unfold State.takePut
  extract_lets g s1 rs
  have h1 : s1.cfg = s.cfg := by simp [s1]
  clear_value s1
  split
  · split <;> simp [h1]
  · split
    · simp [h1]
    · split
      · simp [h1]
      · split
        · rename_i h; simp [cfg_fst h, h1]
        · rename_i h; split <;> simp [cfg_fst h, h1]
@[simp] theorem State.takeGet_cfg (s : State) (h : FlitHdr) (va len : Nat) : (State.takeGet s h va len).1.cfg =
    s.cfg := by
  unfold State.takeGet; grind [State.cfg_mk, State.cfg_eta, State.begun_cfg, State.setBad_cfg, State.answer_cfg, State.askFen_cfg, State.fenReads_cfg]
@[simp] theorem State.takeSignal_cfg (s : State) (h : FlitHdr) (va : Nat) (addend : W64) : (State.takeSignal s
    h va addend).1.cfg = s.cfg := by
  unfold State.takeSignal; dsimp only; (repeat' split) <;> simp_all [apply_ite State.cfg]
@[simp] theorem State.getStep_cfg (s : State) (t : FenTx) : (State.getStep s t).1.cfg = s.cfg := by
  unfold State.getStep; dsimp only; (repeat' split) <;> simp_all [apply_ite State.cfg]
@[simp] theorem State.takeData_cfg (s : State) (h : FlitHdr) (data : List Byte) : (State.takeData s h
    data).1.cfg = s.cfg := by
  unfold State.takeData; split <;> simp [apply_ite State.cfg]
@[simp] theorem State.takeAck_cfg (s : State) (h : FlitHdr) (a : FenAck) : (State.takeAck s h a).1.cfg = s.cfg := by
  unfold State.takeAck; (repeat' split) <;> simp [apply_ite State.cfg]
@[simp] theorem State.takeColl_cfg (s : State) (h : FlitHdr) (id : W32) (ps : CollParams) (first : Nat) (elems
    : List Nat) (last : Bool) : (State.takeColl s h id ps first elems last).cfg = s.cfg := by
  simp [State.takeColl, apply_ite State.cfg]
@[simp] theorem State.takeLeave_cfg (s : State) (h : FlitHdr) (id : W32) : (State.takeLeave s h id).cfg = s.cfg := by
  simp [State.takeLeave, apply_ite State.cfg]
@[simp] theorem State.handleFlit_cfg (s : State) (h : FlitHdr) (body : FlitBody) : (State.handleFlit s h body).1.cfg = s.cfg := by
  unfold State.handleFlit
  cases body <;> dsimp only <;> first | rfl | (simp; done) | (split <;> simp)
@[simp] theorem State.drainPort_cfg (p n : Nat) (s : State) : (State.drainPort p n s).cfg = s.cfg := by
  induction n generalizing s with
  | zero => rfl
  | succ n ih =>
    unfold State.drainPort
    split
    · rfl
    · split <;> rename_i h
      · rw [ih]; simp [cfg_fst h]
      · simp [cfg_fst h]
@[simp] theorem State.drainInbox_cfg (s : State) (p : Nat) : (State.drainInbox s p).cfg = s.cfg := by
  simp [State.drainInbox]
@[simp] theorem State.credited_cfg (s : State) (p : Nat) (h : FlitHdr) (body : FlitBody) : (State.credited s p
    h body).cfg = s.cfg := by
  simp [State.credited, apply_ite State.cfg]
@[simp] theorem State.receive_cfg (s : State) (p : Nat) (h : FlitHdr) (body : FlitBody) : (State.receive s p h
    body).cfg = s.cfg := by
  unfold State.receive; (repeat' split) <;> simp [apply_ite State.cfg]

end Sys2Proof.Machine
end

