-- ==== Sys2Proof/Laws/Frame/Folio.lean ====
section
/-! SUPPORT. Operations that leave `State.cfg` alone: Aes, Accession, Flash, Folio, EngineRun. -/

namespace Sys2Proof.Machine

@[simp] theorem AccState.setSlot_image (x : AccState) (i : SlotId) (v : Slot3) : (x.setSlot i v).image = x.image := by
  cases i <;> rfl
@[simp] theorem AccState.setSlot_floor (x : AccState) (i : SlotId) (v : Slot3) : (x.setSlot i v).floor = x.floor := by
  cases i <;> rfl
@[simp] theorem State.updAcc'_cfg (s : State) (f : AccState → AccState) (hi : (f s.acc).image = s.acc.image)
    (hf : (f s.acc).floor = s.acc.floor) : (State.updAcc' s f).cfg = s.cfg := by
  unfold State.updAcc'
  simp [hi, hf]
@[simp] theorem State.bookAppend_cfg (s : State) (r : List Byte) : (State.bookAppend s r).cfg = s.cfg := by
  simp [State.bookAppend, apply_ite State.cfg]
@[simp] theorem State.bookNext_cfg (s : State) : (State.bookNext s).cfg = s.cfg := by
  unfold State.bookNext; split <;> simp [apply_ite State.cfg]
@[simp] theorem State.bookAll_cfg (s : State) : (State.bookAll s).cfg = s.cfg := by simp [State.bookAll]
@[simp] theorem State.startFlash_cfg (s : State) : (State.startFlash s).cfg = s.cfg := by
  unfold State.startFlash; split <;> simp [apply_ite State.cfg]
@[simp] theorem State.needKey_cfg (s : State) (g : Nat) : (State.needKey s g).1.cfg = s.cfg := by
  unfold State.needKey; split <;> simp [apply_ite State.cfg]
@[simp] theorem State.rekey_cfg (s : State) (g : Nat) : (State.rekey s g).cfg = s.cfg := by simp [State.rekey]
@[simp] theorem State.endAcc_cfg (s : State) (r : AccResult) : (State.endAcc s r).cfg = s.cfg := by simp [State.endAcc]
@[simp] theorem State.stagedImage_cfg (s : State) : (State.stagedImage s).1.cfg = s.cfg := by
  unfold State.stagedImage; dsimp only; (repeat' split) <;> simp_all [apply_ite State.cfg]
@[simp] theorem State.installFails_cfg (s : State) (target : SlotId) (r : AccResult) : (State.installFails s
    target r).cfg = s.cfg := by
  simp [State.installFails]
@[simp] theorem AccState.floorSlot_image (x : AccState) (i : SlotId) : (x.floorSlot i).image = x.image := by
  unfold AccState.floorSlot; extract_lets; (repeat' split) <;> simp
@[simp] theorem AccState.floorSlot_floor (x : AccState) (i : SlotId) : (x.floorSlot i).floor = x.floor := by
  unfold AccState.floorSlot; extract_lets; (repeat' split) <;> simp
@[simp] theorem AccState.floorAll_image (x : AccState) : x.floorAll.image = x.image := by simp [AccState.floorAll]
@[simp] theorem AccState.floorAll_floor (x : AccState) : x.floorAll.floor = x.floor := by simp [AccState.floorAll]
@[simp] theorem State.installStep_cfg (s : State) (target : SlotId) (stage : InstallStage) (hash : List Byte) (image : Option Image)
    (programmed : List Byte) (ok sigOk : Bool) : (State.installStep s target stage hash image programmed ok sigOk).cfg = s.cfg := by
  unfold State.installStep
  cases stage
  · dsimp only
    refine cfg_ite (by simp) ?_
    split
    · rename_i h; simp [cfg_fst h]
    · rename_i h
      refine cfg_ite (by simp [cfg_fst h]) ?_
      split <;> simp [cfg_fst h]
  · dsimp only
    refine cfg_ite (by simp) (by simp)
  · dsimp only
    refine cfg_ite (by simp) (cfg_ite (by simp) ?_)
    split <;> rename_i h <;> simp [cfg_fst h]
  · dsimp only
    refine cfg_ite (by simp) (cfg_ite (by simp) (by simp))
@[simp] theorem State.judgeAcc_cfg (s : State) (p : Port) (allowed : Bool) (f : State → State) (hf : ∀ t, (f
    t).cfg = t.cfg) : (State.judgeAcc s p allowed f).cfg = s.cfg := by
  unfold State.judgeAcc; dsimp only; (repeat' split) <;> simp_all [apply_ite State.cfg]
@[simp] theorem State.startAcc_cfg (s : State) (c : AccCmd) : (State.startAcc s c).cfg = s.cfg := by
  simp [State.startAcc]
@[simp] theorem State.install_cfg (s : State) (p : Port) : (State.install s p).cfg = s.cfg := by simp [State.install]
@[simp] theorem State.activate_cfg (s : State) (p : Port) (i : SlotId) : (State.activate s p i).cfg = s.cfg := by
  simp [State.activate]
@[simp] theorem State.confirm_cfg (s : State) (p : Port) : (State.confirm s p).cfg = s.cfg := by simp [State.confirm]
@[simp] theorem State.updBay_cfg (s : State) (b : Nat) (f : Bay → Bay) : (State.updBay s b f).cfg = s.cfg := by
  simp [State.updBay]
@[simp] theorem State.sendRequest_cfg (s : State) (b : Nat) (p : Piece) : (State.sendRequest s b p).cfg = s.cfg := by
  simp [State.sendRequest, apply_ite State.cfg]
@[simp] theorem State.sendMg_cfg (s : State) (b : Nat) (job : MgJob) (op : MgOp) (arg : Nat) (payload : List
    Byte) : (State.sendMg s b job op arg payload).cfg = s.cfg := by
  simp [State.sendMg]
@[simp] theorem State.bayDrained_cfg (s : State) (b : Nat) : (State.bayDrained s b).cfg = s.cfg := by
  simp [State.bayDrained, apply_ite State.cfg]
@[simp] theorem State.pumpBay_cfg (s : State) (b : Nat) : (State.pumpBay s b).cfg = s.cfg := by
  simp [State.pumpBay, apply_ite State.cfg]
@[simp] theorem State.pumpBays_cfg (s : State) : (State.pumpBays s).cfg = s.cfg := by simp [State.pumpBays]
@[simp] theorem State.withFrame_cfg (s : State) (b : Nat) (h : FrameHdr) (f : State → State) (hf : ∀ t, (f
    t).cfg = t.cfg) : (State.withFrame s b h f).cfg = s.cfg := by
  unfold State.withFrame; dsimp only; (repeat' split) <;> simp_all [apply_ite State.cfg]
@[simp] theorem State.startEnum_cfg (s : State) (b : Nat) : (State.startEnum s b).cfg = s.cfg := by
  simp [State.startEnum]
@[simp] theorem State.nextEnum_cfg (s : State) : (State.nextEnum s).cfg = s.cfg := by
  unfold State.nextEnum; (repeat' split) <;> simp [apply_ite State.cfg]
@[simp] theorem State.powerBay_cfg (s : State) (b : Nat) : (State.powerBay s b).cfg = s.cfg := by simp [State.powerBay]
@[simp] theorem State.folResult_cfg (s : State) (b : Nat) (r : FolResult) : (State.folResult s b r).cfg = s.cfg := by
  simp [State.folResult]
@[simp] theorem State.endFol_cfg (s : State) (b : Nat) (r : FolResult) : (State.endFol s b r).cfg = s.cfg := by
  simp [State.endFol]
@[simp] theorem State.writeSeal_cfg (s : State) (b : Nat) (job : MgJob) : (State.writeSeal s b job).cfg = s.cfg := by
  simp [State.writeSeal]
@[simp] theorem State.beginFol_cfg (s : State) (b : Nat) (c : FolCmd) : (State.beginFol s b c).cfg = s.cfg := by
  unfold State.beginFol; split <;> simp [apply_ite State.cfg]
@[simp] theorem State.folCommand_cfg (s : State) (p : Port) (b : Nat) (c : FolCmd) (targetOk : Bool) :
    (State.folCommand s p b c targetOk).cfg = s.cfg := by
  simp [State.folCommand, apply_ite State.cfg]
@[simp] theorem State.baySupplyOff_cfg (s : State) (b : Nat) : (State.baySupplyOff s b).cfg = s.cfg := by
  unfold State.baySupplyOff; split <;> simp [apply_ite State.cfg]
@[simp] theorem State.chalNonce_cfg (s : State) (b : Nat) (n : List Byte) : (State.chalNonce s b n).cfg = s.cfg := by
  simp [State.chalNonce, apply_ite State.cfg]
@[simp] theorem State.folReset_cfg (s : State) (p : Port) (b : Nat) : (State.folReset s p b).cfg = s.cfg := by
  simp [State.folReset, apply_ite State.cfg]
@[simp] theorem State.holdBays_cfg (s : State) : (State.holdBays s).cfg = s.cfg := by
  simp [State.holdBays, apply_ite State.cfg]
@[simp] theorem State.callAcc_cfg (s : State) (c : Call) (a : Agent) (kind : AccKind) (todo : List Run) :
    (State.callAcc s c a kind todo).cfg = s.cfg := by
  simp [State.callAcc]
@[simp] theorem State.failCall_cfg (s : State) (c : Call) (code : BitVec 8) : (State.failCall s c code).cfg =
    s.cfg := by
  simp [State.failCall]
@[simp] theorem State.startCall_cfg (s : State) (c : Call) : (State.startCall s c).cfg = s.cfg := by
  simp [State.startCall, apply_ite State.cfg]
@[simp] theorem State.engineCallStart_cfg (s : State) (q e : Nat) : (State.engineCallStart s q e).cfg = s.cfg := by
  unfold State.engineCallStart; split <;> simp [apply_ite State.cfg]
@[simp] theorem State.callWrites_cfg (s : State) (c : Call) (result : (Nat → Nat) → (List Run → Bool) →
    EngineOut) : (State.callWrites s c result).cfg = s.cfg := by
  simp [State.callWrites, apply_ite State.cfg]
@[simp] theorem State.callNext_cfg (c : Call) (n : Nat) (s : State) : (State.callNext c n s).cfg = s.cfg := by
  induction n generalizing s c with
  | zero => rfl
  | succ n ih => unfold State.callNext; split <;> simp [ih]
@[simp] theorem State.callDescs_cfg (s : State) (c : Call) (ds : List Desc) : (State.callDescs s c ds).cfg =
    s.cfg := by
  unfold State.callDescs; dsimp only; (repeat' split) <;> simp_all [apply_ite State.cfg]
@[simp] theorem State.moverVerify_cfg (s : State) (c : Call) (buf : Sparse Byte) : (State.moverVerify s c
    buf).cfg = s.cfg := by
  unfold State.moverVerify; dsimp only; (repeat' split) <;> simp_all [apply_ite State.cfg]
@[simp] theorem State.callWritten_cfg (s : State) (c : Call) : (State.callWritten s c).cfg = s.cfg := by
  simp [State.callWritten, apply_ite State.cfg]
@[simp] theorem State.freeEngine_cfg (s : State) (q e : Nat) : (State.freeEngine s q e).cfg = s.cfg := by
  simp [State.freeEngine]
@[simp] theorem State.routeGone_cfg (s : State) (e : Nat) : (State.routeGone s e).cfg = s.cfg := by
  simp [State.routeGone, apply_ite State.cfg]
@[simp] theorem State.engineCallComplete_cfg (s : State) (q e : Nat) (ok : Bool) : (State.engineCallComplete s
    q e ok).cfg = s.cfg := by
  unfold State.engineCallComplete; (repeat' split) <;> simp [apply_ite State.cfg]

end Sys2Proof.Machine
end

