-- ==== Sys2Proof/Laws/Frame/Run.lean ====
section
/-! SUPPORT. Operations that leave `State.cfg` alone: Stove, Complete, FolioIo, RunFam, HearthFam, FaultCmd. -/

namespace Sys2Proof.Machine

@[simp] theorem State.updStove_cfg (s : State) (h : Nat) (f : Stove → Stove) : (State.updStove s h f).cfg = s.cfg := by
  simp [State.updStove]
@[simp] theorem State.stvLoad_cfg (s : State) (h k : Nat) : (State.stvLoad s h k).cfg = s.cfg := by
  unfold State.stvLoad; apply State.issue_cfg; intro w e t ht; simp [ht]
@[simp] theorem State.stvRun_cfg (s : State) (h k : Nat) : (State.stvRun s h k).cfg = s.cfg := by
  unfold State.stvRun; apply State.issue_cfg; intro w e t ht; (try dsimp only); (repeat' split) <;> simp [ht]
@[simp] theorem State.popStove_cfg (s : State) (h : Nat) : (State.popStove s h).cfg = s.cfg := by simp [State.popStove]
@[simp] theorem State.startLoad_cfg (s : State) (h : Nat) (l : StoveLoad) : (State.startLoad s h l).cfg = s.cfg := by
  simp [State.startLoad]
@[simp] theorem State.orderLoaded_cfg (s : State) (l : StoveLoad) : (State.orderLoaded s l).cfg = s.cfg := by
  simp [State.orderLoaded, apply_ite State.cfg]
@[simp] theorem State.endLoad_cfg (s : State) (h : Nat) (l : StoveLoad) (image : Option (List Byte)) :
    (State.endLoad s h l image).cfg = s.cfg := by
  unfold State.endLoad; split <;> simp [apply_ite State.cfg]
@[simp] theorem State.checkLoad_cfg (s : State) (h : Nat) (l : StoveLoad) (id : Nat) : (State.checkLoad s h l
    id).cfg = s.cfg := by
  unfold State.checkLoad; split <;> simp [apply_ite State.cfg]
@[simp] theorem State.refuseStoveCall_cfg (s : State) (c : Call) (code : BitVec 8) : (State.refuseStoveCall s c
    code).cfg = s.cfg := by
  simp [State.refuseStoveCall]
@[simp] theorem State.patternLoad_cfg (s : State) (h : Nat) : (State.patternLoad s h).cfg = s.cfg := by
  unfold State.patternLoad; dsimp only; (repeat' split) <;> simp_all [apply_ite State.cfg]
@[simp] theorem State.stoveCallStart_cfg (s : State) (h : Nat) : (State.stoveCallStart s h).cfg = s.cfg := by
  unfold State.stoveCallStart; dsimp only; (repeat' split) <;> simp_all [apply_ite State.cfg]
@[simp] theorem State.stoveDescs_cfg (s : State) (c : Call) (ds : List Desc) : (State.stoveDescs s c ds).cfg =
    s.cfg := by
  unfold State.stoveDescs; split <;> simp [apply_ite State.cfg]
@[simp] theorem State.stoveRead_cfg (s : State) (c : Call) : (State.stoveRead s c).cfg = s.cfg := by
  unfold State.stoveRead; dsimp only; (repeat' split) <;> simp_all [apply_ite State.cfg]
@[simp] theorem State.stoveGone_cfg (s : State) (h : Nat) : (State.stoveGone s h).cfg = s.cfg := by
  unfold State.stoveGone
  extract_lets items run keep s1
  have h1 : s1.cfg = s.cfg := by simp [s1]
  clear_value s1
  rw [cfg_foldl, h1]
  intro t x
  split
  · rfl
  · split
    · simp
    · split <;> simp
@[simp] theorem State.stoveCallComplete_cfg (s : State) (h : Nat) (ok : Bool) : (State.stoveCallComplete s h
    ok).cfg = s.cfg := by
  unfold State.stoveCallComplete; (repeat' split) <;> simp [apply_ite State.cfg]
@[simp] theorem State.callDescsCome_cfg (s : State) (a : Acc) (c : Call) : (State.callDescsCome s a c).cfg =
    s.cfg := by
  unfold State.callDescsCome; split <;> simp [apply_ite State.cfg]
@[simp] theorem State.callPassCome_cfg (s : State) (a : Acc) (c : Call) : (State.callPassCome s a c).cfg = s.cfg := by
  simp [State.callPassCome, apply_ite State.cfg]
@[simp] theorem State.callAccEnds_cfg (s : State) (a : Acc) (id : Nat) (f : State → Call → State) (hf : ∀ t x,
    (f t x).cfg = t.cfg) : (State.callAccEnds s a id f).cfg = s.cfg := by
  unfold State.callAccEnds; grind [State.cfg_mk, State.cfg_eta, State.updCall_cfg]
@[simp] theorem State.emberCome_cfg (s : State) (a : Acc) (dst : Option Dst) (va m : Nat) : (State.emberCome s a dst va m).cfg = s.cfg := by
  unfold State.emberCome
  split
  · rename_i h; simp [State.finishEmber_to h]
  · split
    · split <;> simp
    · rfl
@[simp] theorem State.finishAcc_cfg (s : State) (id : Nat) : (State.finishAcc s id).cfg = s.cfg := by
  unfold State.finishAcc; (repeat' split) <;> simp [apply_ite State.cfg]
@[simp] theorem State.placeBytes_cfg (s : State) (p : Piece) (bs : List Byte) : (State.placeBytes s p bs).cfg =
    s.cfg := by
  unfold State.placeBytes; (repeat' split) <;> simp [apply_ite State.cfg]
@[simp] theorem State.accData_cfg (s : State) (p : Piece) (id : Nat) (bs : List Byte) : (State.accData s p id
    bs).cfg = s.cfg := by
  unfold State.accData; (repeat' split) <;> simp [apply_ite State.cfg]
@[simp] theorem State.settlePiece_cfg (s : State) (p : Piece) : (State.settlePiece s p).cfg = s.cfg := by
  unfold State.settlePiece; split <;> simp [apply_ite State.cfg]
@[simp] theorem State.pieceEnd_cfg (s : State) (p : Piece) (bs : List Byte) : (State.pieceEnd s p bs).cfg = s.cfg := by
  unfold State.pieceEnd; split <;> simp [apply_ite State.cfg]
@[simp] theorem State.pieceFails_cfg (s : State) (p : Piece) (code : BitVec 8) : (State.pieceFails s p
    code).cfg = s.cfg := by
  simp [State.pieceFails]
@[simp] theorem State.addPiece'_cfg (s : State) (p : Piece) (old : List Byte) : (State.addPiece' s p old).cfg =
    s.cfg := by
  unfold State.addPiece'; (repeat' split) <;> simp [apply_ite State.cfg]
@[simp] theorem State.hostMerge_cfg (s : State) (p : Piece) (old : List Byte) : (State.hostMerge s p old).cfg = s.cfg := by
  unfold State.hostMerge; dsimp only; split <;> simp
@[simp] theorem State.hostWritten_cfg (s : State) (p : Piece) : (State.hostWritten s p).cfg = s.cfg := by
  unfold State.hostWritten; split <;> simp
@[simp] theorem State.pieceAtPlace_cfg (s : State) (p : Piece) (ret : List Byte) : (State.pieceAtPlace s p
    ret).cfg = s.cfg := by
  unfold State.pieceAtPlace; (repeat' split) <;> simp [apply_ite State.cfg]
@[simp] theorem State.checkOff_cfg (s : State) (u : CheckUnit) (p : Piece) : (State.checkOff s u p).1.cfg = s.cfg := by
  unfold State.checkOff; split <;> simp
@[simp] theorem State.pieceChecked_cfg (s : State) (p : Piece) (ret : PieceReturn) : (State.pieceChecked s p
    ret).cfg = s.cfg := by
  unfold State.pieceChecked; (repeat' split) <;> simp [apply_ite State.cfg]
@[simp] theorem State.pieceComplete_cfg (s : State) (id : Nat) (ret : PieceReturn) : (State.pieceComplete s id
    ret).cfg = s.cfg := by
  unfold State.pieceComplete; (repeat' split) <;> simp [apply_ite State.cfg]
@[simp] theorem State.hostTimeout_cfg (s : State) (id : Nat) : (State.hostTimeout s id).cfg = s.cfg := by
  unfold State.hostTimeout; (repeat' split) <;> simp [apply_ite State.cfg]
theorem Wrote.cfg_of {w : Wrote} {t : State} {c : Cfg} (h : w.state.cfg = c) (ht : w.state = t) : t.cfg = c := ht ▸ h
@[simp] theorem State.writeFault_cfg (s : State) (g va : Nat) (bs : List Byte) : (State.writeFault s g va bs).2.cfg = s.cfg := by
  have h := State.writeRecord_cfg s g 8 va bs
  unfold State.writeFault
  split <;> rename_i heq <;> rw [heq] at h <;> exact h
@[simp] theorem State.streamHalts_cfg (s : State) (h k d : Nat) : (State.streamHalts s h k d).cfg = s.cfg := by
  unfold State.streamHalts
  extract_lets t
  have ht : t.cfg = s.cfg := by simp [t]
  clear_value t
  split
  · split <;> simp [ht]
  · exact ht
@[simp] theorem State.dbResume_cfg (s : State) (g : Nat) (seq : W32) : (State.dbResume s g seq).cfg = s.cfg := by
  unfold State.dbResume; split <;> simp [apply_ite State.cfg]
@[simp] theorem State.updPiece_cfg (s : State) (id : Nat) (f : Piece → Piece) : (State.updPiece s id f).cfg =
    s.cfg := by
  simp [State.updPiece]
@[simp] theorem State.sectorCome_cfg (s : State) (b : Nat) (p : Piece) (cipher : List Byte) : (State.sectorCome
    s b p cipher).cfg = s.cfg := by
  simp [State.sectorCome, apply_ite State.cfg]
@[simp] theorem State.wearCheck_cfg (s : State) (b : Nat) : (State.wearCheck s b).cfg = s.cfg := by
  simp [State.wearCheck, apply_ite State.cfg]
@[simp] theorem State.sectorWritten_cfg (s : State) (b : Nat) (p : Piece) : (State.sectorWritten s b p).cfg =
    s.cfg := by
  simp [State.sectorWritten]
@[simp] theorem State.requestFails_cfg (s : State) (b : Nat) (p : Piece) : (State.requestFails s b p).cfg = s.cfg := by
  simp [State.requestFails, apply_ite State.cfg]
@[simp] theorem State.onRequest_cfg (s : State) (b : Nat) (h : FrameHdr) (tag : Nat) (f : State → Piece →
    State) (hf : ∀ t x, (f t x).cfg = t.cfg) : (State.onRequest s b h tag f).cfg = s.cfg := by
  unfold State.onRequest; grind [State.cfg_mk, State.cfg_eta, State.pumpBays_cfg, State.withFrame_cfg]
@[simp] theorem State.sendJob_cfg (s : State) (b : Nat) (job : MgJob) : (State.sendJob s b job).cfg = s.cfg := by
  unfold State.sendJob; split <;> simp [apply_ite State.cfg]
@[simp] theorem State.rejudge_cfg (s : State) (b : Nat) : (State.rejudge s b).cfg = s.cfg := by
  simp [State.rejudge, apply_ite State.cfg]
@[simp] theorem State.endEnum_cfg (s : State) (b : Nat) (st : BaySt) (r : FolReason) : (State.endEnum s b st
    r).cfg = s.cfg := by
  simp [State.endEnum]
@[simp] theorem State.sealFound_cfg (s : State) (b : Nat) (x : Seal) : (State.sealFound s b x).cfg = s.cfg := by
  unfold State.sealFound; (repeat' split) <;> simp [apply_ite State.cfg]
@[simp] theorem State.sealed'_cfg (s : State) (b : Nat) : (State.sealed' s b).cfg = s.cfg := by simp [State.sealed']
@[simp] theorem State.acceptRecord_cfg (s : State) (b : Nat) (r : XferRecord) : (State.acceptRecord s b r).cfg
    = s.cfg := by
  unfold State.acceptRecord; split <;> simp [apply_ite State.cfg]
@[simp] theorem State.mgDone_cfg (s : State) (b : Nat) (job : MgJob) (r : MgReply) : (State.mgDone s b job
    r).cfg = s.cfg := by
  unfold State.mgDone; split <;> simp [apply_ite State.cfg]
@[simp] theorem State.mgRsp_cfg (s : State) (b : Nat) (op : MgOp) (r : MgReply) : (State.mgRsp s b op r).cfg =
    s.cfg := by
  unfold State.mgRsp; split <;> simp [apply_ite State.cfg]
@[simp] theorem State.bayTimeout_cfg (s : State) (b : Nat) (tag : Option Nat) : (State.bayTimeout s b tag).cfg
    = s.cfg := by
  unfold State.bayTimeout; (repeat' split) <;> simp [apply_ite State.cfg]
@[simp] theorem State.bayGone_cfg (s : State) (b : Nat) : (State.bayGone s b).cfg = s.cfg := by
  simp [State.bayGone, apply_ite State.cfg]
@[simp] theorem State.presenceLost_cfg (s : State) (b : Nat) : (State.presenceLost s b).cfg = s.cfg := by
  simp [State.presenceLost, apply_ite State.cfg]
@[simp] theorem State.vaultDone_cfg (s : State) : (State.vaultDone s).cfg = s.cfg := by simp [State.vaultDone]
@[simp] theorem State.runDispatch_cfg (s : State) (id : Nat) : (State.runDispatch s id).cfg = s.cfg := by
  unfold State.runDispatch; split <;> simp [apply_ite State.cfg]
@[simp] theorem State.stoveLoadDispatch_cfg (s : State) (id : Nat) : (State.stoveLoadDispatch s id).cfg = s.cfg := by
  unfold State.stoveLoadDispatch; (repeat' split) <;> simp [apply_ite State.cfg]
@[simp] theorem State.sweepProgs_cfg (s : State) (g h : Nat) : (State.sweepProgs s g h).cfg = s.cfg := by
  simp [State.sweepProgs]
@[simp] theorem State.placeDispatch_cfg (s : State) (id : Nat) : (State.placeDispatch s id).cfg = s.cfg := by
  unfold State.placeDispatch; split <;> simp [apply_ite State.cfg]
@[simp] theorem State.retire_cfg (s : State) (id : Nat) : (State.retire s id).cfg = s.cfg := by
  unfold State.retire; split <;> simp [apply_ite State.cfg]
@[simp] theorem State.dropWo_cfg (s : State) (w : WorkOrder) : (State.dropWo s w).cfg = s.cfg := by
  simp [State.dropWo, apply_ite State.cfg]
@[simp] theorem State.recordEnds_cfg (s : State) (w : WorkOrder) (d : Decision) : (State.recordEnds s w d).cfg
    = s.cfg := by
  simp [State.recordEnds, apply_ite State.cfg]
@[simp] theorem State.completionRecord_cfg (s : State) (id : Nat) : (State.completionRecord s id).cfg = s.cfg := by
  unfold State.completionRecord
  split
  · rfl
  · rename_i w _
    split
    · rfl
    · rename_i d _
      extract_lets y va
      refine cfg_ite rfl (cfg_ite (by simp) ?_)
      have h := State.writeRecord_cfg s w.gal (4 + w.queue) va (recordBytes w d (phaseOf y.written.toNat 64))
      split <;> rename_i heq <;> rw [heq] at h
      · simp at h; simp [h]
      · exact h
      · simp at h; simp [h]
@[simp] theorem State.stokerFree_cfg (s : State) (h k : Nat) : (State.stokerFree s h k).cfg = s.cfg := by
  simp [State.stokerFree, apply_ite State.cfg]
@[simp] theorem State.wakeUp_cfg (s : State) (h k : Nat) : (State.wakeUp s h k).cfg = s.cfg := by simp [State.wakeUp]
@[simp] theorem State.wakeCall_cfg (s : State) (h k : Nat) : (State.wakeCall s h k).cfg = s.cfg := by
  simp [State.wakeCall, apply_ite State.cfg]
@[simp] theorem State.stokerWake_cfg (s : State) (h k : Nat) : (State.stokerWake s h k).cfg = s.cfg := by
  unfold State.stokerWake; dsimp only; (repeat' split) <;> simp_all [apply_ite State.cfg]
@[simp] theorem State.quiesceDrained_cfg (s : State) (g : Nat) : (State.quiesceDrained s g).cfg = s.cfg := by
  simp [State.quiesceDrained, apply_ite State.cfg]
@[simp] theorem State.scrubSegment_cfg (s : State) (x : Segment) : (State.scrubSegment s x).cfg = s.cfg := by
  simp [State.scrubSegment, apply_ite State.cfg]
@[simp] theorem State.scrub_cfg (s : State) (g : Nat) : (State.scrub s g).cfg = s.cfg := by simp [State.scrub]
@[simp] theorem State.releaseGal_cfg (s : State) (g : Nat) : (State.releaseGal s g).cfg = s.cfg := by
  simp [State.releaseGal]
@[simp] theorem State.galResetDone_cfg (s : State) (g : Nat) : (State.galResetDone s g).cfg = s.cfg := by
  unfold State.galResetDone; dsimp only; (repeat' split) <;> simp_all [apply_ite State.cfg]
@[simp] theorem State.discardHeld_cfg (s : State) (g : Nat) : (State.discardHeld s g).cfg = s.cfg := by
  simp [State.discardHeld]
@[simp] theorem State.graceExpiry_cfg (s : State) (g : Nat) : (State.graceExpiry s g).cfg = s.cfg := by
  unfold State.graceExpiry; split <;> simp [apply_ite State.cfg]
@[simp] theorem State.hrtResult_cfg (s : State) (h : Nat) (r : HrtResult) : (State.hrtResult s h r).cfg = s.cfg := by
  simp [State.hrtResult]
@[simp] theorem State.psMapWrite_cfg (s : State) (p : Port) (h j : Nat) (v : W32) : (State.psMapWrite s p h j
    v).cfg = s.cfg := by
  simp [State.psMapWrite, apply_ite State.cfg]
@[simp] theorem State.fenceReq_cfg (s : State) (p : Port) (h : Nat) : (State.fenceReq s p h).cfg = s.cfg := by
  simp [State.fenceReq, apply_ite State.cfg]
@[simp] theorem State.postRoute_cfg (s : State) (p : Port) (h : Nat) (stove : Bool) : (State.postRoute s p h
    stove).cfg = s.cfg := by
  simp [State.postRoute, apply_ite State.cfg]
@[simp] theorem State.hearthReset_cfg (s : State) (h : Nat) : (State.hearthReset s h).cfg = s.cfg := by
  simp [State.hearthReset, apply_ite State.cfg]
@[simp] theorem State.hrtReset_cfg (s : State) (p : Port) (h : Nat) : (State.hrtReset s p h).cfg = s.cfg := by
  simp [State.hrtReset, apply_ite State.cfg]
@[simp] theorem State.hearthPark_cfg (s : State) (h : Nat) : (State.hearthPark s h).cfg = s.cfg := by
  simp [State.hearthPark, apply_ite State.cfg]
@[simp] theorem State.logUnbooked_cfg (s : State) (f : FaultInfo) : (State.logUnbooked s f).cfg = s.cfg := by
  simp [State.logUnbooked]
@[simp] theorem State.faultResult_cfg (s : State) (r : FaultResult) : (State.faultResult s r).cfg = s.cfg := by
  simp [State.faultResult]
@[simp] theorem State.judgeFault_cfg (s : State) (p : Port) (f : State → State) (hf : ∀ t, (f t).cfg = t.cfg) :
    (State.judgeFault s p f).cfg = s.cfg := by
  unfold State.judgeFault; grind [State.cfg_mk, State.cfg_eta, State.faultResult_cfg]
@[simp] theorem State.cmdFenceGrate_cfg (s : State) (arg : Nat) : (State.cmdFenceGrate s arg).cfg = s.cfg := by
  simp [State.cmdFenceGrate, apply_ite State.cfg]
@[simp] theorem State.cmdFenceEngine_cfg (s : State) (arg : Nat) : (State.cmdFenceEngine s arg).cfg = s.cfg := by
  simp [State.cmdFenceEngine, apply_ite State.cfg]
@[simp] theorem State.cmdFenceStove_cfg (s : State) (arg : Nat) : (State.cmdFenceStove s arg).cfg = s.cfg := by
  simp [State.cmdFenceStove, apply_ite State.cfg]
@[simp] theorem State.cmdForget_cfg (s : State) (arg : Nat) : (State.cmdForget s arg).cfg = s.cfg := by
  simp [State.cmdForget, apply_ite State.cfg]
@[simp] theorem State.returnSeal_cfg (s : State) (p : Port) : (State.returnSeal s p).cfg = s.cfg := by
  simp [State.returnSeal, apply_ite State.cfg]
@[simp] theorem State.sealArm_cfg (s : State) (p : Port) (v : W32) : (State.sealArm s p v).cfg = s.cfg := by
  simp [State.sealArm]
@[simp] theorem State.faultTail_cfg (s : State) (v : W32) : (State.faultTail s v).cfg = s.cfg := by
  simp [State.faultTail, apply_ite State.cfg]

end Sys2Proof.Machine
end

