-- ==== Sys2Proof/Laws/Frame/Boot.lean ====
section
/-! SUPPORT. Operations that leave `State.cfg` alone: Boot, RegRead, Registers, Mgmt. -/

namespace Sys2Proof.Machine

@[simp] theorem State.baysOff_cfg (s : State) : (State.baysOff s).cfg = s.cfg := by simp [State.baysOff]
@[simp] theorem State.rollBack_cfg (s : State) (bad : List SlotId) (dest : SlotId) : (State.rollBack s bad
    dest).cfg = s.cfg := by
  simp [State.rollBack]
@[simp] theorem State.loadTopology_cfg (s : State) (m : Image) : (State.loadTopology s m).cfg = s.cfg := by
  unfold State.loadTopology; dsimp only; (repeat' split) <;> simp_all [apply_ite State.cfg]
@[simp] theorem State.startFenline_cfg (s : State) : (State.startFenline s).cfg = s.cfg := by simp [State.startFenline]
@[simp] theorem State.setPhase_cfg (s : State) (ph : Phase) : (State.setPhase s ph).cfg = s.cfg := by
  simp [State.setPhase]
@[simp] theorem State.portWrite_cfg (s : State) (p : Port) (o v : Nat) : (State.portWrite s p o v).cfg = s.cfg := by
  simp [State.portWrite, apply_ite State.cfg]
@[simp] theorem State.faultCommand_cfg (s : State) (p : Port) (v : Nat) : (State.faultCommand s p v).cfg = s.cfg := by
  unfold State.faultCommand; split <;> simp [apply_ite State.cfg]
@[simp] theorem State.faultWrite_cfg (s : State) (p : Port) (o v : Nat) : (State.faultWrite s p o v).cfg = s.cfg := by
  simp [State.faultWrite, apply_ite State.cfg]
@[simp] theorem State.galCommand_cfg (s : State) (p : Port) (g v : Nat) : (State.galCommand s p g v).cfg = s.cfg := by
  unfold State.galCommand; split <;> simp [apply_ite State.cfg]
@[simp] theorem State.galWrite_cfg (s : State) (p : Port) (g o v : Nat) : (State.galWrite s p g o v).cfg = s.cfg := by
  unfold State.galWrite; (repeat' split) <;> simp [apply_ite State.cfg]
@[simp] theorem State.catCommand_cfg (s : State) (p : Port) (g v : Nat) : (State.catCommand s p g v).cfg = s.cfg := by
  unfold State.catCommand; split <;> simp [apply_ite State.cfg]
@[simp] theorem State.catRegWrite_cfg (s : State) (p : Port) (g o v : Nat) : (State.catRegWrite s p g o v).cfg
    = s.cfg := by
  simp [State.catRegWrite, apply_ite State.cfg]
@[simp] theorem State.hrtWrite_cfg (s : State) (p : Port) (h o v : Nat) : (State.hrtWrite s p h o v).cfg = s.cfg := by
  simp [State.hrtWrite, apply_ite State.cfg]
@[simp] theorem State.folWriteCommand_cfg (s : State) (p : Port) (b v : Nat) : (State.folWriteCommand s p b
    v).cfg = s.cfg := by
  unfold State.folWriteCommand; split <;> simp [apply_ite State.cfg]
@[simp] theorem State.folWrite_cfg (s : State) (p : Port) (b o v : Nat) : (State.folWrite s p b o v).cfg = s.cfg := by
  simp [State.folWrite, apply_ite State.cfg]
@[simp] theorem State.fenCtrlWrite_cfg (s : State) (p : Port) (q v : Nat) : (State.fenCtrlWrite s p q v).cfg =
    s.cfg := by
  simp [State.fenCtrlWrite, apply_ite State.cfg]
@[simp] theorem State.fenWrite_cfg (s : State) (p : Port) (q o v : Nat) : (State.fenWrite s p q o v).cfg = s.cfg := by
  simp [State.fenWrite, apply_ite State.cfg]
@[simp] theorem State.nonceWrite_cfg (s : State) (b o : Nat) (bs : List Byte) : (State.nonceWrite s b o bs).cfg
    = s.cfg := by
  simp [State.nonceWrite, apply_ite State.cfg]
@[simp] theorem State.xferWrite_cfg (s : State) (p : Port) (b o : Nat) (bs : List Byte) : (State.xferWrite s p
    b o bs).cfg = s.cfg := by
  simp [State.xferWrite, apply_ite State.cfg]
@[simp] theorem State.windowWrite_cfg (s : State) (p : Port) (b o : Nat) (bs : List Byte) : (State.windowWrite
    s p b o bs).cfg = s.cfg := by
  unfold State.windowWrite; split <;> simp [apply_ite State.cfg]
@[simp] theorem State.setHalf_cfg (s : State) (p : Port) (off : Nat) (v : Option W32) : (State.setHalf s p off
    v).cfg = s.cfg := by
  simp [State.setHalf]
@[simp] theorem State.badAccess_cfg (s : State) (p : Port) (write : Bool) : (State.badAccess s p write).cfg =
    s.cfg := by
  simp [State.badAccess, apply_ite State.cfg]
@[simp] theorem State.bar0Read_cfg (s : State) (p : Port) (off n : Nat) : (State.bar0Read s p off n).cfg = s.cfg := by
  simp [State.bar0Read, apply_ite State.cfg]
@[simp] theorem State.doorbellWrite_cfg (s : State) (p : Port) (g o : Nat) (v : W32) : (State.doorbellWrite s p
    g o v).cfg = s.cfg := by
  simp [State.doorbellWrite, apply_ite State.cfg]
@[simp] theorem State.pushWrite_cfg (s : State) (p : Port) (g o : Nat) (data : List Byte) : (State.pushWrite s
    p g o data).cfg = s.cfg := by
  simp [State.pushWrite]
@[simp] theorem State.bar2Write_cfg (s : State) (p : Port) (off n : Nat) (data : BitVec 512) : (State.bar2Write
    s p off n data).cfg = s.cfg := by
  simp [State.bar2Write, apply_ite State.cfg]
@[simp] theorem State.bar2Read_cfg (s : State) (p : Port) (off n : Nat) : (State.bar2Read s p off n).cfg = s.cfg := by
  simp [State.bar2Read, apply_ite State.cfg]
@[simp] theorem State.managed_cfg (s : State) (i : MgmtIf) (early f : State → State) (he : ∀ t, (early t).cfg = t.cfg)
    (hf : ∀ t, (f t).cfg = t.cfg) : (State.managed s i early f).cfg = s.cfg := by
  unfold State.managed
  (repeat' split) <;> simp [he, hf]
@[simp] theorem State.overMctp_cfg (s : State) (i : MgmtIf) (early f : State → State) (he : ∀ t, (early t).cfg = t.cfg)
    (hf : ∀ t, (f t).cfg = t.cfg) : (State.overMctp s i early f).cfg = s.cfg := by
  unfold State.overMctp
  split <;> simp [he, hf]
@[simp] theorem State.control_cfg (s : State) (i : MgmtIf) (f : State → State) (hf : ∀ t, (f t).cfg = t.cfg) :
    (State.control s i f).cfg = s.cfg := by
  unfold State.control
  simp [hf]
@[simp] theorem State.pldm_cfg (s : State) (i : MgmtIf) (type cmd : Nat) (f : State → State) (hf : ∀ t, (f
    t).cfg = t.cfg) : (State.pldm s i type cmd f).cfg = s.cfg := by
  unfold State.pldm; grind [State.cfg_mk, State.cfg_eta, State.overMctp_cfg, State.send_cfg]
@[simp] theorem State.sixteenth_cfg (s : State) (v : Int) : (State.sixteenth s v).1.cfg = s.cfg := by
  unfold State.sixteenth; split <;> simp [apply_ite State.cfg]
@[simp] theorem State.pldmBase_cfg (s : State) (i : MgmtIf) (r : PldmBase) : (State.pldmBase s i r).cfg = s.cfg := by
  unfold State.pldmBase; split <;> simp [apply_ite State.cfg]
@[simp] theorem State.spdm_cfg (s : State) (i : MgmtIf) (f : State → State) (hf : ∀ t, (f t).cfg = t.cfg) :
    (State.spdm s i f).cfg = s.cfg := by
  unfold State.spdm; grind [State.cfg_mk, State.cfg_eta, State.managed_cfg, State.send_cfg]
@[simp] theorem State.spdmAfter_cfg (s : State) (i : MgmtIf) (seen : List MgmtIf) (f : State → State) (hf : ∀
    t, (f t).cfg = t.cfg) : (State.spdmAfter s i seen f).cfg = s.cfg := by
  unfold State.spdmAfter; grind [State.cfg_mk, State.cfg_eta, State.send_cfg]
@[simp] theorem State.doe_cfg (s : State) (p : Port) (f : State → State) (hf : ∀ t, (f t).cfg = t.cfg) :
    (State.doe s p f).cfg = s.cfg := by
  unfold State.doe; grind [State.cfg_mk, State.cfg_eta, State.managed_cfg, State.send_cfg]
@[simp] theorem State.extest_cfg (s : State) (ir : Tap) (pins shift : List Bool) : (State.extest s ir pins
    shift).cfg = s.cfg := by
  simp [State.extest]

end Sys2Proof.Machine
end

