-- ==== Sys2Proof/Laws/Keeps.lean ====
section
/-! SUPPORT. What every command keeps: the queue, the fused identity, a floor that never falls, the seal, and the
configuration invariant of `Sys2Proof.Safety`; with the operations that write a part of `State.cfg`. -/

namespace Sys2Proof.Machine

open Sys2Proof.Safety

@[simp] theorem State.cfg_pending (s : State) : s.cfg.pending = s.pending := rfl
@[simp] theorem State.cfg_unit (s : State) : s.cfg.unit = s.dev.unit := rfl
@[simp] theorem State.cfg_grade (s : State) : s.cfg.grade = s.dev.grade := rfl
@[simp] theorem State.cfg_mfg (s : State) : s.cfg.mfg = s.dev.mfg := rfl
@[simp] theorem State.cfg_epoch (s : State) : s.cfg.epoch = s.tb.epoch := rfl
@[simp] theorem State.cfg_slots (s : State) : s.cfg.slots = s.keeper.slots := rfl
@[simp] theorem State.cfg_mv (s : State) : s.cfg.mv = s.pace.mv := rfl
@[simp] theorem State.cfg_exchMib (s : State) : s.cfg.exchMib = s.ledger.exchMib := rfl
@[simp] theorem State.cfg_snpTimeout (s : State) : s.cfg.snpTimeout = s.ledger.snpTimeout := rfl
@[simp] theorem State.cfg_image (s : State) : s.cfg.image = s.acc.image := rfl
@[simp] theorem State.cfg_floor (s : State) : s.cfg.floor = s.acc.floor := rfl
@[simp] theorem State.cfg_sealed (s : State) : s.cfg.sealed = s.faults.sealed := rfl

/-- The configuration invariant, said of the configuration. -/
structure Cfg.Inv (c : Cfg) : Prop where
  epoch : c.epoch ≠ 0
  reserved : ∀ n, 5 ≤ n → n ≤ 15 → (mget {} c.slots n).holder = none
  slots : mwf {} c.slots = true
  voltage : 550 ≤ c.mv ∧ c.mv ≤ 950
  ledger : c.exchMib ≤ 64 ∧ 100 ≤ c.snpTimeout ∧ c.snpTimeout ≤ 65535
  image : ∀ m, c.image = some m → policiesInRange m = true

theorem inv_iff (s : State) : Inv s ↔ s.cfg.Inv :=
  ⟨fun h => ⟨h.epoch, h.reserved, h.slots, h.voltage, h.ledger, h.image⟩,
    fun h => ⟨h.epoch, h.reserved, h.slots, h.voltage, h.ledger, h.image⟩⟩

/-- What every command keeps, from one configuration to the next. -/
structure Cfg.Keeps (c d : Cfg) : Prop where
  pending : d.pending = c.pending
  unit : d.unit = c.unit
  grade : d.grade = c.grade
  mfg : d.mfg = c.mfg
  floor : c.floor ≤ d.floor
  sealed : c.sealed = true → d.sealed = true
  inv : c.Inv → d.Inv

/-- What every command keeps, from one state to the next. -/
def Keeps (s t : State) : Prop := s.cfg.Keeps t.cfg

theorem Keeps.of_cfg {s t : State} (h : t.cfg = s.cfg) : Keeps s t := by
  unfold Keeps
  rw [h]
  exact ⟨rfl, rfl, rfl, rfl, Nat.le_refl _, id, id⟩

theorem Keeps.rfl' {s : State} : Keeps s s := .of_cfg rfl

theorem Keeps.trans {s t u : State} (h : Keeps s t) (k : Keeps t u) : Keeps s u :=
  ⟨k.pending.trans h.pending, k.unit.trans h.unit, k.grade.trans h.grade, k.mfg.trans h.mfg, Nat.le_trans h.floor k.floor,
    fun x => k.sealed (h.sealed x), fun x => k.inv (h.inv x)⟩

/-- A change of the configuration that follows an operation which leaves it alone. -/
theorem Keeps.after {s t u : State} (h : t.cfg = s.cfg) (k : Keeps t u) : Keeps s u := (Keeps.of_cfg h).trans k

/-- An operation that leaves the configuration alone, after a change. -/
theorem Keeps.then {s t u : State} (k : Keeps s t) (h : u.cfg = t.cfg) : Keeps s u := k.trans (Keeps.of_cfg h)

/-! Each rule below is for one field of the configuration. -/

theorem Keeps.of_epoch {s t : State} (e : W32) (h : t.cfg = { s.cfg with epoch := e }) (he : e ≠ 0) : Keeps s t := by
  unfold Keeps
  rw [h]
  exact ⟨rfl, rfl, rfl, rfl, Nat.le_refl _, id, fun i => ⟨he, i.reserved, i.slots, i.voltage, i.ledger, i.image⟩⟩

theorem Keeps.of_mv {s t : State} (v : Nat) (h : t.cfg = { s.cfg with mv := v }) (hv : s.cfg.Inv → 550 ≤ v ∧ v ≤ 950) :
    Keeps s t := by
  unfold Keeps
  rw [h]
  exact ⟨rfl, rfl, rfl, rfl, Nat.le_refl _, id, fun i => ⟨i.epoch, i.reserved, i.slots, hv i, i.ledger, i.image⟩⟩

theorem Keeps.of_slot {s t : State} (n : Nat) (x : KeeperSlot) (h : t.cfg = { s.cfg with slots := mset {} s.cfg.slots n x })
    (hx : s.cfg.Inv → 5 ≤ n → n ≤ 15 → x.holder = none) : Keeps s t := by
  unfold Keeps
  rw [h]
  refine ⟨rfl, rfl, rfl, rfl, Nat.le_refl _, id, fun i =>
    ⟨i.epoch, fun m h5 h15 => ?_, mwf_mset _ _ _ _ i.slots, i.voltage, i.ledger, i.image⟩⟩
  by_cases hm : m = n
  · subst hm
    rw [mget_mset_same _ _ _ _ i.slots]
    exact hx i h5 h15
  · rw [mget_mset_ne _ _ _ _ _ hm]
    exact i.reserved m h5 h15

theorem Keeps.of_ledger {s t : State} (x n : Nat) (h : t.cfg = { s.cfg with exchMib := x, snpTimeout := n })
    (hx : s.cfg.Inv → x ≤ 64 ∧ 100 ≤ n ∧ n ≤ 65535) : Keeps s t := by
  unfold Keeps
  rw [h]
  exact ⟨rfl, rfl, rfl, rfl, Nat.le_refl _, id, fun i => ⟨i.epoch, i.reserved, i.slots, i.voltage, hx i, i.image⟩⟩

theorem Keeps.of_floor {s t : State} (f : Nat) (h : t.cfg = { s.cfg with floor := f }) (hf : s.acc.floor ≤ f) : Keeps s t := by
  unfold Keeps
  rw [h]
  exact ⟨rfl, rfl, rfl, rfl, hf, id, fun i => ⟨i.epoch, i.reserved, i.slots, i.voltage, i.ledger, i.image⟩⟩

theorem Keeps.of_image {s t : State} (m : Option Image) (h : t.cfg = { s.cfg with image := m })
    (hm : ∀ x, m = some x → policiesInRange x = true) : Keeps s t := by
  unfold Keeps
  rw [h]
  exact ⟨rfl, rfl, rfl, rfl, Nat.le_refl _, id, fun i => ⟨i.epoch, i.reserved, i.slots, i.voltage, i.ledger, hm⟩⟩

theorem Keeps.of_sealed {s t : State} (h : t.cfg = { s.cfg with sealed := true }) : Keeps s t := by
  unfold Keeps
  rw [h]
  exact ⟨rfl, rfl, rfl, rfl, Nat.le_refl _, fun _ => rfl, fun i => ⟨i.epoch, i.reserved, i.slots, i.voltage, i.ledger, i.image⟩⟩

theorem Keeps.ite {s x y : State} {p : Prop} [Decidable p] (hx : p → Keeps s x) (hy : ¬ p → Keeps s y) :
    Keeps s (if p then x else y) := by
  split
  · exact hx ‹_›
  · exact hy ‹_›

theorem Keeps.foldl {β : Type} (f : State → β → State) (l : List β) (s : State) (h : ∀ t x, Keeps t (f t x)) :
    Keeps s (l.foldl f s) := by
  induction l generalizing s with
  | nil => exact .rfl'
  | cons x l ih => exact (h s x).trans (ih _)

/-! ## TIME -/

theorem nextEpoch_ne (e : W32) : nextEpoch e ≠ 0 := by
  unfold nextEpoch
  split
  · decide
  · assumption

theorem State.stepTime_keeps (s : State) (v : W64) : Keeps s (s.stepTime v) :=
  .of_epoch (nextEpoch s.tb.epoch) (by simp +zetaDelta [State.stepTime]) (nextEpoch_ne _)

theorem State.timeSet_keeps (s : State) (p : Port) (v : W64) : Keeps s (s.timeSet p v) :=
  .ite (fun _ => s.stepTime_keeps v) fun _ => .of_cfg (by simp +zetaDelta)

theorem State.ppsEdge_keeps (s : State) : Keeps s s.ppsEdge := by
  unfold State.ppsEdge
  extract_lets _ s1 t near err
  have h1 : s1.cfg = s.cfg := by simp +zetaDelta [s1]
  refine .after h1 (.ite (fun _ => .rfl') fun _ => .ite (fun _ => s1.stepTime_keeps _) fun _ => .of_cfg (by simp +zetaDelta))

/-! ## PACE -/

theorem State.avsRequest_keeps (s : State) (mv : Nat) (h : Inv s → 550 ≤ mv ∧ mv ≤ 950) : Keeps s (s.avsRequest mv) := by
  unfold State.avsRequest
  extract_lets _ s1
  have h1 : Keeps s s1 := .of_mv mv (by simp +zetaDelta [s1]) fun i => h ((inv_iff s).2 i)
  exact .ite (fun _ => h1.then (by simp +zetaDelta)) fun _ => h1.then (by simp +zetaDelta)

theorem State.paceVreq_keeps (s : State) (p : Port) (v : Nat) : Keeps s (s.paceVreq p v) := by
  unfold State.paceVreq
  refine .ite (fun _ => .of_cfg (by simp +zetaDelta)) fun _ => .ite (fun _ => .of_cfg (by simp +zetaDelta)) fun hv =>
    .ite (fun _ => .of_cfg (by simp +zetaDelta)) fun _ => s.avsRequest_keeps v fun _ => by omega

theorem State.guardSample_keeps (s : State) (hot : Bool) : Keeps s (s.guardSample hot) := by
  unfold State.guardSample
  extract_lets was _ s1 s2
  have h2 : s2.cfg = s.cfg := by simp +zetaDelta [s2, s1, apply_ite State.cfg]
  refine .after h2 (.ite (fun hh => s2.avsRequest_keeps _ fun hi => ?_) fun _ => .rfl')
  have := hi.voltage
  simp only [VoltageOk] at this
  omega

theorem State.thermalTrip_keeps (s : State) (sensor : Nat) (reading : BitVec 16) : Keeps s (s.thermalTrip sensor reading) := by
  unfold State.thermalTrip
  extract_lets s1 _ s2 s3 f r s4
  have h2 : s2.cfg = s.cfg := by simp +zetaDelta [s2, s1]
  have h3 : Keeps s2 s3 := s2.avsRequest_keeps 550 fun _ => by omega
  exact (Keeps.after h2 h3).then (by simp +zetaDelta [s4])

theorem State.thermalSample_keeps (s : State) (l : List (BitVec 16)) : Keeps s (s.thermalSample l) := by
  unfold State.thermalSample
  split
  · exact .rfl'
  · refine .ite (fun _ => .rfl') fun _ => ?_
    extract_lets top _ s1 s2
    have h1 : s1.cfg = s.cfg := by simp +zetaDelta [s1]
    have h2 : Keeps s s2 := .after h1 (s1.guardSample_keeps _)
    exact .ite (fun _ => h2.trans (s2.thermalTrip_keeps _ _)) fun _ => h2

/-! ## The Keeper -/

/-- A slot is written: what it holds is nothing where the slot is reserved. -/
theorem State.setSlot_keeps (s : State) (n : Nat) (x : KeeperSlot) (h : Inv s → 5 ≤ n → n ≤ 15 → x.holder = none) :
    Keeps s (s.setSlot n x) :=
  .of_slot n x (by simp +zetaDelta [State.setSlot]) fun i => h ((inv_iff s).2 i)

@[simp] theorem KeeperSlot.setLast_holder (x : KeeperSlot) (p : Port) (r : TakeResult) : (x.setLast p r).holder = x.holder := by
  cases p <;> rfl

theorem State.breakSlot_keeps (s : State) (n cause : Nat) : Keeps s (s.breakSlot n cause) := by
  unfold State.breakSlot
  extract_lets x s1 s2
  refine .ite (fun _ => .rfl') fun _ => ?_
  have h1 : Keeps s s1 := s.setSlot_keeps _ _ fun _ _ _ => rfl
  exact h1.then (by simp +zetaDelta [s2])

theorem State.breakSlotsOf_keeps (s : State) (p : Port) (cause : Nat) : Keeps s (s.breakSlotsOf p cause) :=
  .foldl _ _ _ fun t n => .ite (fun _ => t.breakSlot_keeps n cause) fun _ => .rfl'

theorem State.keeperTake_keeps (s : State) (p : Port) (n : Nat) (token : BitVec 16) (lease : Nat) :
    Keeps s (s.keeperTake p n token lease) := by
  unfold State.keeperTake
  extract_lets x
  refine .ite (fun _ => s.setSlot_keeps _ _ fun hs h5 h15 => by simpa using hs.reserved n h5 h15) fun hn => .ite
    (fun _ => s.setSlot_keeps _ _ fun hs h5 h15 => by simpa using hs.reserved n h5 h15) fun _ => ?_
  split
  · exact s.setSlot_keeps _ _ fun _ h5 h15 => absurd ⟨h5, h15⟩ hn
  · exact .ite (fun _ => s.setSlot_keeps _ _ fun _ h5 h15 => absurd ⟨h5, h15⟩ hn) fun _ =>
      s.setSlot_keeps _ _ fun _ h5 h15 => absurd ⟨h5, h15⟩ hn

theorem State.keeperGive_keeps (s : State) (p : Port) (n : Nat) (token : BitVec 16) : Keeps s (s.keeperGive p n token) := by
  unfold State.keeperGive
  extract_lets x
  exact .ite (fun _ => s.setSlot_keeps _ _ fun _ _ _ => by simp) fun _ => s.setSlot_keeps _ _ fun hs h5 h15 => by simpa using hs.reserved n h5 h15

theorem State.ledgCfg_keeps (s : State) (p : Port) (v : Nat) : Keeps s (s.ledgCfg p v) := by
  unfold State.ledgCfg
  extract_lets t m
  refine .ite (fun _ => .of_cfg (by simp +zetaDelta)) fun _ => .ite (fun _ => .of_cfg (by simp +zetaDelta)) fun hr => .ite
    (fun _ => .of_cfg (by simp +zetaDelta)) fun _ => ?_
  refine .of_ledger m t (by simp +zetaDelta) fun _ => ?_
  have h16 : t < 65536 := Nat.mod_lt _ (by decide)
  omega

/-! ## The ports -/

theorem State.dllDown_keeps (s : State) (p : Port) : Keeps s (s.dllDown p) := by
  unfold State.dllDown
  extract_lets _ s1 s2 s3
  refine .ite (fun _ => .rfl') fun _ => ?_
  have h1 : s1.cfg = s.cfg := by simp +zetaDelta [s1]
  have h2 : Keeps s s2 := .after h1 (s1.breakSlotsOf_keeps p 1)
  exact h2.then (by simp +zetaDelta [s3])

theorem State.portReset_keeps (s : State) (p : Port) (t : PortTrigger) : Keeps s (s.portReset p t) := by
  unfold State.portReset
  extract_lets x fresh _ s1 s2 s3 s4
  refine .ite (fun _ => .rfl') fun _ => ?_
  have h1 : s1.cfg = s.cfg := by simp +zetaDelta [s1]
  have h2 : Keeps s s2 := .after h1 (s1.breakSlotsOf_keeps p 2)
  exact h2.then (by simp +zetaDelta [s4, s3, apply_ite State.cfg])

/-! ## The boot flash -/

theorem State.sealDone_keeps (s : State) : Keeps s s.sealDone := by
  unfold State.sealDone
  extract_lets s1
  have h1 : s1.cfg = s.cfg := by simp +zetaDelta [s1]
  clear_value s1
  exact .after h1 (.of_sealed (by simp +zetaDelta))

theorem State.sealStep_keeps (s : State) : Keeps s s.sealStep := by
  unfold State.sealStep
  split
  · exact .rfl'
  · exact .of_cfg (by simp +zetaDelta)
  · exact .of_cfg (by simp +zetaDelta)
  · exact s.sealDone_keeps

/-- A confirmed image's floor, once raised, lies above the one before. -/
theorem AccState.raised_floor (x : AccState) (m : Image) :
    x.floor ≤ if (decide (x.floor < m.floorTo) && decide (0 < x.raisesLeft)) = true then m.floorTo else x.floor := by
  split
  · simp_all
    omega
  · exact Nat.le_refl _

theorem State.bootControlEnd_keeps (s : State) : Keeps s s.bootControlEnd := by
  unfold State.bootControlEnd
  split
  · exact .of_cfg (by simp)
  · split
    · rename_i i m _ _
      extract_lets _ x raise y
      have hx : x.floor = s.acc.floor := by simp [x]
      have hi : y.image = s.acc.image := by simp [y, x]
      have hf : s.acc.floor ≤ y.floor := hx ▸ AccState.raised_floor x m
      clear_value y
      refine Keeps.then (t := { s with acc := y.floorAll }) (.of_floor y.floor ?_ hf) (by simp)
      simp [hi]
    · exact .of_cfg (by simp)
  · exact .rfl'

theorem State.flashEnd_keeps (s : State) (op : FlashOp) (ok sigOk : Bool) : Keeps s (s.flashEnd op ok sigOk) := by
  unfold State.flashEnd
  split
  · split
    · exact .of_cfg (by simp +zetaDelta)
    · exact .rfl'
  · exact .ite (fun _ => s.sealStep_keeps) fun _ => .rfl'
  · exact .of_cfg (by simp +zetaDelta [apply_ite State.cfg])
  · exact .ite (fun _ => s.bootControlEnd_keeps) fun _ => .rfl'
  · split
    · exact .of_cfg (by simp +zetaDelta)
    · exact .rfl'

/-! ## Cold reset and power-up -/

theorem State.settleBootControl_keeps (s : State) : Keeps s s.settleBootControl := by
  have key : Keeps s (match s.takeFree with
      | (s, v) =>
        let floor := s.acc.floor
        let left := s.acc.raisesLeft
        if v.getLsbD 0 then
          let t := s.bootControlEnd
          if v.getLsbD 1 then t else t.updAcc' fun x => { x with floor := floor, raisesLeft := left }
        else s) := by
    split
    rename_i t v h
    have ht : t.cfg = s.cfg := by simp [cfg_fst h]
    refine .after ht ?_
    extract_lets floor left u
    refine .ite (fun _ => ?_) fun _ => .rfl'
    have hu : Keeps t u := t.bootControlEnd_keeps
    refine .ite (fun _ => hu) fun _ => ?_
    clear_value u
    unfold Keeps at hu ⊢
    have e : (u.updAcc' fun x => { x with floor := floor, raisesLeft := left }).cfg = { u.cfg with floor := t.cfg.floor } := by
      simp [State.updAcc', floor]
    rw [e]
    refine ⟨hu.pending, hu.unit, hu.grade, hu.mfg, Nat.le_refl _, hu.sealed, fun i => ?_⟩
    have j := hu.inv i
    exact ⟨j.epoch, j.reserved, j.slots, j.voltage, j.ledger, j.image⟩
  unfold State.settleBootControl
  split
  · exact key
  · exact key
  · exact .rfl'

theorem epochAtReset_ne (n : Nat) : Config.epochAtReset n ≠ 0 := by
  unfold Config.epochAtReset
  split
  · decide
  · assumption

theorem State.cleared_keeps (s : State) (cause : ResetCause) (low : Bool) : Keeps s (s.cleared cause low) := by
  refine ⟨rfl, rfl, rfl, rfl, Nat.le_refl _, id, fun _ => ⟨epochAtReset_ne _, fun _ _ _ => rfl, rfl, ?_, ?_, ?_⟩⟩
  · show 550 ≤ 800 ∧ 800 ≤ 950
    decide
  · show 0 ≤ 64 ∧ 100 ≤ 2000 ∧ 2000 ≤ 65535
    decide
  · intro m h; cases h

theorem State.coldReset_keeps (s : State) (cause : ResetCause) (low : Bool) : Keeps s (s.coldReset cause low) :=
  (s.settleBootControl_keeps.then (by simp)).trans (State.cleared_keeps _ _ _)

theorem State.reboot_keeps (s : State) (p : Port) : Keeps s (s.reboot p) := by
  unfold State.reboot
  exact .ite (fun _ => .of_cfg (by simp)) fun _ => .ite (fun _ => .of_cfg (by simp)) fun _ => s.coldReset_keeps _ _

theorem State.runImage_keeps (s : State) (i : SlotId) (h : ∀ m, (s.acc.slot i).image = some m → policiesInRange m = true) :
    Keeps s (s.runImage i) := by
  unfold State.runImage
  extract_lets m s1
  have h1 : Keeps s s1 := .of_image m (by simp [s1, State.updAcc', m, AccState.countTrial, apply_ite]) h
  clear_value s1 m
  cases m
  · exact h1
  · exact h1.then (by simp)

/-- A slot that may boot holds an image with policies in range. -/
theorem State.bootable_image {s : State} {bad : List SlotId} {i : SlotId} (h : s.bootable bad i = true) :
    ∀ m, (s.acc.slot i).image = some m → policiesInRange m = true := by
  intro m hm
  unfold State.bootable at h
  simp_all

theorem State.bootChoice_bootable {s : State} {bad : List SlotId} {i : SlotId} (h : s.bootChoice bad = some i) :
    s.bootable bad i = true := by
  unfold State.bootChoice at h
  unfold State.firstBoots at h
  grind

@[simp] theorem State.setPort_accSame (s : State) (p : Port) (x : PortState) : (s.setPort p x).acc = s.acc := by
  cases p <;> rfl
@[simp] theorem State.send_accSame (s : State) (o : Out) : (s.send o).acc = s.acc := rfl
@[simp] theorem State.raise_acc (s : State) (p : Port) (v : Nat) : (s.raise p v).acc = s.acc := by
  simp [State.raise, apply_ite State.acc]
@[simp] theorem State.raiseDev_acc (s : State) (p : Port) (lo : Nat) : (s.raiseDev p lo).acc = s.acc := by
  simp [State.raiseDev, apply_ite State.acc]
@[simp] theorem State.raiseBoth_acc (s : State) (lo : Nat) : (s.raiseBoth lo).acc = s.acc := by
  simp [State.raiseBoth]
@[simp] theorem State.logFault_acc (s : State) (f : FaultInfo) : (s.logFault f).acc = s.acc := by
  simp [State.logFault, apply_ite State.acc]

/-- The image of a slot is what it was where the slot is another one, or its new content has the same image. -/
theorem AccState.setSlot_slot_image (x : AccState) (j i : SlotId) (v : Slot3) (h : j = i → v.image = (x.slot i).image) :
    ((x.setSlot j v).slot i).image = (x.slot i).image := by
  cases j <;> cases i <;> first | rfl | exact h rfl

theorem State.rollBack_image (s : State) (bad : List SlotId) (dest i : SlotId) (h : s.bootable bad i = true) :
    ((s.rollBack bad dest).acc.slot i).image = (s.acc.slot i).image := by
  unfold State.rollBack
  extract_lets j m svn date v s1
  rw [State.logFault_acc]
  have e : ((s1.acc).slot i).image = (((s.acc.setSlot j v)).slot i).image := by cases i <;> rfl
  rw [e]
  refine AccState.setSlot_slot_image _ _ _ _ fun hj => ?_
  subst hj
  have hb : s.bootable bad j = true := h
  simp only [v, State.skippedSlot, hb, if_true]
  split <;> rfl

theorem State.selectBoot_keeps (s : State) (bad : List SlotId) : Keeps s (s.selectBoot bad) := by
  unfold State.selectBoot
  split
  · exact .of_cfg (by simp)
  · rename_i i hi
    have hb := State.bootChoice_bootable hi
    by_cases hf : s.firstBoots bad = true
    · rw [if_pos hf]
      exact s.runImage_keeps i (State.bootable_image hb)
    · rw [if_neg hf]
      refine .after (by simp) (State.runImage_keeps _ _ fun m hm => ?_)
      rw [s.rollBack_image bad i i hb] at hm
      exact State.bootable_image hb m hm

theorem State.initDone_keeps (s : State) : Keeps s s.initDone := by
  unfold State.initDone
  extract_lets s1
  have h1 : s1.cfg = s.cfg := by simp [s1]
  exact .after h1 (.ite (fun _ => .after (by simp) (State.sealDone_keeps _)) fun _ => .rfl')

theorem State.applyPolicies_keeps (s : State) : Keeps s s.applyPolicies := by
  unfold State.applyPolicies
  split
  · exact .rfl'
  · rename_i m hm
    extract_lets _ _ s1
    have key : s.cfg.Inv → policiesInRange m = true := fun i => i.image m hm
    have h1 : Keeps s s1 := .of_ledger s.ledger.exchMib m.snpTimeout (by simp +zetaDelta) fun i => by
      have := key i
      have := i.ledger
      simp_all [policiesInRange]
    refine (h1.then (by simp)).trans (State.avsRequest_keeps _ _ fun i => ?_)
    have hi : policiesInRange m = true := ((inv_iff _).1 i).image m (by simpa [State.updAcc', s1] using hm)
    simp_all [policiesInRange]

theorem State.powerUp_keeps (s : State) (bad : List SlotId) : Keeps s (s.powerUp bad) := by
  unfold State.powerUp
  refine .ite (fun _ => .rfl') fun _ => ?_
  split
  · exact .of_cfg (by simp)
  · exact (s.selectBoot_keeps bad).then (by simp)
  · exact s.initDone_keeps.then (by simp)
  · exact .of_cfg (by simp [apply_ite State.cfg])
  · exact .of_cfg (by simp [apply_ite State.cfg])
  · exact .ite (fun _ => s.applyPolicies_keeps.then (by simp)) fun _ => .rfl'
  · exact .of_cfg (by simp)
  · exact .rfl'

/-! ## Registers -/

theorem State.timeWrite_keeps (s : State) (p : Port) (o v : Nat) : Keeps s (s.timeWrite p o v) := by
  unfold State.timeWrite
  refine .ite (fun _ => .of_cfg (by simp)) fun _ => .ite (fun _ => .of_cfg (by simp)) fun _ => .ite
    (fun _ => s.paceVreq_keeps _ _) fun _ => .ite (fun _ => .of_cfg (by simp)) fun _ => .rfl'

theorem State.keeperWrite_keeps (s : State) (p : Port) (o v : Nat) : Keeps s (s.keeperWrite p o v) := by
  unfold State.keeperWrite
  exact .ite (fun _ => .rfl') fun _ => .ite (fun _ => s.keeperTake_keeps ..) fun _ => .ite
    (fun _ => s.keeperGive_keeps ..) fun _ => .rfl'

theorem State.accWrite_keeps (s : State) (p : Port) (o v : Nat) : Keeps s (s.accWrite p o v) := by
  unfold State.accWrite
  refine .ite (fun _ => .rfl') fun _ => ?_
  split
  · exact .of_cfg (by simp)
  · split <;> exact .of_cfg (by simp)
  · exact .of_cfg (by simp)
  · exact s.reboot_keeps p
  · exact .rfl'

theorem State.ledgWrite_keeps (s : State) (p : Port) (o v : Nat) : Keeps s (s.ledgWrite p o v) := by
  unfold State.ledgWrite
  exact .ite (fun _ => s.ledgCfg_keeps ..) fun _ => .of_cfg (by simp [apply_ite State.cfg])

theorem State.write32_keeps (s : State) (p : Port) (b : Block) (o v : Nat) : Keeps s (s.write32 p b o v) := by
  unfold State.write32
  split
  case h_1 => exact s.timeWrite_keeps ..
  case h_3 => exact s.keeperWrite_keeps ..
  case h_4 => exact s.accWrite_keeps ..
  case h_10 => exact s.ledgWrite_keeps ..
  all_goals exact .of_cfg (by simp)

theorem State.write64_keeps (s : State) (p : Port) (b : Block) (o : Nat) (v : W64) : Keeps s (s.write64 p b o v) := by
  unfold State.write64
  split
  · exact .ite (fun _ => s.timeSet_keeps ..) fun _ => .of_cfg (by simp [apply_ite State.cfg])
  all_goals exact .of_cfg (by (repeat' split) <;> simp [apply_ite State.cfg])

theorem State.write4_keeps (s : State) (p : Port) (off : Nat) (v : W32) : Keeps s (s.write4 p off v) := by
  unfold State.write4
  extract_lets b o base o8 upper
  split
  · clear_value b
    cases b <;> exact .of_cfg (by simp)
  · split
    · exact s.write32_keeps ..
    · exact s.write64_keeps ..
    · exact s.write64_keeps ..
    · split
      · split
        · exact .after (by simp) (State.write64_keeps ..)
        · exact .rfl'
      · exact .of_cfg (by simp)

theorem State.write8_keeps (s : State) (p : Port) (off : Nat) (v : W64) : Keeps s (s.write8 p off v) := by
  unfold State.write8
  extract_lets b o
  split
  · clear_value b
    cases b <;> exact .of_cfg (by simp)
  · split
    · exact (s.write32_keeps ..).trans (State.write32_keeps ..)
    · exact s.write64_keeps ..
    · exact s.write64_keeps ..
    · exact .after (by simp) (State.write64_keeps ..)

theorem State.access_keeps (s : State) (p : Port) (a : BusAccess) : Keeps s (s.access p a) := by
  unfold State.access
  split
  · exact .of_cfg (by simp [apply_ite State.cfg])
  · split
    · refine .ite (fun _ => ?_) fun _ => .of_cfg (by simp)
      unfold State.bar0Write
      exact .ite (fun _ => .of_cfg (by simp)) fun _ => .ite (fun _ => s.write8_keeps ..) fun _ => s.write4_keeps ..
    all_goals exact .of_cfg (by simp [apply_ite State.cfg])

theorem State.reached_keeps (s : State) (f : State → State) (h : ∀ t, Keeps t (f t)) : Keeps s (s.reached f) :=
  .ite (fun _ => .rfl') fun _ => h s

theorem State.whenReady_keeps (s : State) (f : State → State) (h : ∀ t, Keeps t (f t)) : Keeps s (s.whenReady f) :=
  s.reached_keeps _ fun t => .ite (fun _ => h t) fun _ => .of_cfg (by simp)

theorem State.whenReadyOrRecovery_keeps (s : State) (f : State → State) (h : ∀ t, Keeps t (f t)) :
    Keeps s (s.whenReadyOrRecovery f) :=
  s.reached_keeps _ fun t => .ite (fun _ => h t) fun _ => .of_cfg (by simp)

theorem State.powerLost_keeps (s : State) :
    Keeps s (let t := s.coldReset .powerOn true; { t with tap := {}, pace := {} }) := by
  refine (s.coldReset_keeps .powerOn true).trans (.of_mv 800 (by simp) fun _ => by decide)

theorem State.grantEmber_to {s t : State} {h : Nat} {c : ClaimWait} (e : s.grantEmber h c = some t) : t.cfg = s.cfg := by
  unfold State.grantEmber at e
  split at e
  · simp only [Option.some.injEq] at e
    rw [← e]
    simp
  · cases e

@[simp] theorem State.claimGrant_cfg (s : State) (h : Nat) (f : State → ClaimWait → Option State)
    (hf : ∀ t c u, f t c = some u → u.cfg = t.cfg) : (s.claimGrant h f).cfg = s.cfg := by
  unfold State.claimGrant
  extract_lets x done s1
  have hd : ∀ t c n, (done t c n).cfg = t.cfg := fun t c n => by simp [done]
  have h1 : s1.cfg = s.cfg := by
    simp only [s1]
    (repeat' split) <;> simp [hd]
  clear_value done s1
  split
  · split
    · rename_i e
      rw [hd, hf _ _ _ e, h1]
    · exact h1
  · exact h1

theorem State.numericSensor_to {s t : State} {id : Nat} {v : Int} (e : s.numericSensor id = some (t, v)) : t.cfg = s.cfg := by
  have h := fun x => State.sixteenth_cfg s x
  unfold State.numericSensor at e
  (repeat' split at e) <;> simp only [Option.some.injEq, reduceCtorEq] at e <;>
    first | (rw [cfg_fst e]; simp) | (cases e; rfl)

end Sys2Proof.Machine
end

