-- ==== Sys2Proof/Laws/ExecKeeps.lean ====
section
/-! SUPPORT. Which commands leave `State.cfg` alone, and that the others keep the queue, the fused identity, the
    floor, the seal
and the invariant. -/

namespace Sys2Proof.Machine

theorem execAdd_cfg (h : HearthId) (k : StokerId) {s s' : State} (h : execAdd h k s = .next s') : s'.cfg = s.cfg := by
  unfold execAdd at h
  simp only [Host.Outcome.next.injEq] at h
  subst h
  simp
theorem execSub_cfg (h : HearthId) (k : StokerId) {s s' : State} (h : execSub h k s = .next s') : s'.cfg = s.cfg := by
  unfold execSub at h
  simp only [Host.Outcome.next.injEq] at h
  subst h
  simp
theorem execMul_cfg (h : HearthId) (k : StokerId) {s s' : State} (h : execMul h k s = .next s') : s'.cfg = s.cfg := by
  unfold execMul at h
  simp only [Host.Outcome.next.injEq] at h
  subst h
  simp
theorem execAnd_cfg (h : HearthId) (k : StokerId) {s s' : State} (h : execAnd h k s = .next s') : s'.cfg = s.cfg := by
  unfold execAnd at h
  simp only [Host.Outcome.next.injEq] at h
  subst h
  simp
theorem execOr_cfg (h : HearthId) (k : StokerId) {s s' : State} (h : execOr h k s = .next s') : s'.cfg = s.cfg := by
  unfold execOr at h
  simp only [Host.Outcome.next.injEq] at h
  subst h
  simp
theorem execXor_cfg (h : HearthId) (k : StokerId) {s s' : State} (h : execXor h k s = .next s') : s'.cfg = s.cfg := by
  unfold execXor at h
  simp only [Host.Outcome.next.injEq] at h
  subst h
  simp
theorem execShl_cfg (h : HearthId) (k : StokerId) {s s' : State} (h : execShl h k s = .next s') : s'.cfg = s.cfg := by
  unfold execShl at h
  simp only [Host.Outcome.next.injEq] at h
  subst h
  simp
theorem execShr_cfg (h : HearthId) (k : StokerId) {s s' : State} (h : execShr h k s = .next s') : s'.cfg = s.cfg := by
  unfold execShr at h
  simp only [Host.Outcome.next.injEq] at h
  subst h
  simp
theorem execSra_cfg (h : HearthId) (k : StokerId) {s s' : State} (h : execSra h k s = .next s') : s'.cfg = s.cfg := by
  unfold execSra at h
  simp only [Host.Outcome.next.injEq] at h
  subst h
  simp
theorem execMin_cfg (h : HearthId) (k : StokerId) {s s' : State} (h : execMin h k s = .next s') : s'.cfg = s.cfg := by
  unfold execMin at h
  simp only [Host.Outcome.next.injEq] at h
  subst h
  simp
theorem execMax_cfg (h : HearthId) (k : StokerId) {s s' : State} (h : execMax h k s = .next s') : s'.cfg = s.cfg := by
  unfold execMax at h
  simp only [Host.Outcome.next.injEq] at h
  subst h
  simp
theorem execCmpCc_cfg (h : HearthId) (k : StokerId) {s s' : State} (h : execCmpCc h k s = .next s') : s'.cfg = s.cfg
    := by
  unfold execCmpCc at h
  simp only [Host.Outcome.next.injEq] at h
  subst h
  simp
theorem execSel_cfg (h : HearthId) (k : StokerId) {s s' : State} (h : execSel h k s = .next s') : s'.cfg = s.cfg := by
  unfold execSel at h
  simp only [Host.Outcome.next.injEq] at h
  subst h
  simp
theorem execMovi_cfg (h : HearthId) (k : StokerId) {s s' : State} (h : execMovi h k s = .next s') : s'.cfg = s.cfg := by
  unfold execMovi at h
  simp only [Host.Outcome.next.injEq] at h
  subst h
  refine (State.issue_cfg _ _ _ _ _ _ _ _ _ _ _ fun w e t ht => ?_)
  simp [ht]
theorem execMovhi_cfg (h : HearthId) (k : StokerId) {s s' : State} (h : execMovhi h k s = .next s') : s'.cfg = s.cfg
    := by
  unfold execMovhi at h
  simp only [Host.Outcome.next.injEq] at h
  subst h
  refine (State.issue_cfg _ _ _ _ _ _ _ _ _ _ _ fun w e t ht => ?_)
  simp [ht]
theorem execMoviX_cfg (h : HearthId) (k : StokerId) {s s' : State} (h : execMoviX h k s = .next s') : s'.cfg = s.cfg
    := by
  unfold execMoviX at h
  simp only [Host.Outcome.next.injEq] at h
  subst h
  refine (State.issue_cfg _ _ _ _ _ _ _ _ _ _ _ fun w e t ht => ?_)
  simp [ht]
theorem execMovhiX_cfg (h : HearthId) (k : StokerId) {s s' : State} (h : execMovhiX h k s = .next s') : s'.cfg =
    s.cfg := by
  unfold execMovhiX at h
  simp only [Host.Outcome.next.injEq] at h
  subst h
  refine (State.issue_cfg _ _ _ _ _ _ _ _ _ _ _ fun w e t ht => ?_)
  simp [ht]
theorem execNop_cfg (h : HearthId) (k : StokerId) {s s' : State} (h : execNop h k s = .next s') : s'.cfg = s.cfg := by
  unfold execNop at h
  simp only [Host.Outcome.next.injEq] at h
  subst h
  exact (State.issue_cfg _ _ _ _ _ _ _ _ _ _ _ fun w e t ht => ht)
theorem execJmp_cfg (h : HearthId) (k : StokerId) {s s' : State} (h : execJmp h k s = .next s') : s'.cfg = s.cfg := by
  unfold execJmp at h
  simp only [Host.Outcome.next.injEq] at h
  subst h
  simp
theorem execBr_cfg (h : HearthId) (k : StokerId) {s s' : State} (h : execBr h k s = .next s') : s'.cfg = s.cfg := by
  unfold execBr at h
  simp only [Host.Outcome.next.injEq] at h
  subst h
  simp
theorem execCall_cfg (h : HearthId) (k : StokerId) {s s' : State} (h : execCall h k s = .next s') : s'.cfg = s.cfg := by
  unfold execCall at h
  simp only [Host.Outcome.next.injEq] at h
  subst h
  simp
theorem execRet_cfg (h : HearthId) (k : StokerId) {s s' : State} (h : execRet h k s = .next s') : s'.cfg = s.cfg := by
  unfold execRet at h
  simp only [Host.Outcome.next.injEq] at h
  subst h
  simp
theorem execLoop_cfg (h : HearthId) (k : StokerId) {s s' : State} (h : execLoop h k s = .next s') : s'.cfg = s.cfg := by
  unfold execLoop at h
  simp only [Host.Outcome.next.injEq] at h
  subst h
  simp
theorem execTrap_cfg (h : HearthId) (k : StokerId) {s s' : State} (h : execTrap h k s = .next s') : s'.cfg = s.cfg := by
  unfold execTrap at h
  simp only [Host.Outcome.next.injEq] at h
  subst h
  exact (State.issue_cfg _ _ _ _ _ _ _ _ _ _ _ fun w e t ht => trivial)
theorem execYield_cfg (h : HearthId) (k : StokerId) {s s' : State} (h : execYield h k s = .next s') : s'.cfg = s.cfg
    := by
  unfold execYield at h
  simp only [Host.Outcome.next.injEq] at h
  subst h
  refine (State.issue_cfg _ _ _ _ _ _ _ _ _ _ _ fun w e t ht => ?_)
  simp [ht]
theorem execIllegal_cfg (h : HearthId) (k : StokerId) {s s' : State} (h : execIllegal h k s = .next s') :
    s'.cfg = s.cfg := by
  unfold execIllegal at h
  simp only [Host.Outcome.next.injEq] at h
  subst h
  simp
theorem execCreate_cfg (p : Port) (g : GalleryId) {s s' : State} (h : execCreate p g s = .next s') : s'.cfg = s.cfg
    := by
  unfold execCreate at h
  simp only [Host.Outcome.next.injEq] at h
  subst h
  simp
theorem execOpen_cfg (p : Port) (g : GalleryId) {s s' : State} (h : execOpen p g s = .next s') : s'.cfg = s.cfg := by
  unfold execOpen at h
  simp only [Host.Outcome.next.injEq] at h
  subst h
  simp
theorem execQuiesce_cfg (p : Port) (g : GalleryId) {s s' : State} (h : execQuiesce p g s = .next s') : s'.cfg = s.cfg
    := by
  unfold execQuiesce at h
  simp only [Host.Outcome.next.injEq] at h
  subst h
  simp
theorem execGalReset_cfg (p : Port) (g : GalleryId) (scrub scrubKey : Bool) {s s' : State} (h : execGalReset
    p g scrub scrubKey s = .next s') : s'.cfg = s.cfg := by
  unfold execGalReset at h
  simp only [Host.Outcome.next.injEq] at h
  subst h
  simp
theorem execRelease_cfg (p : Port) (g : GalleryId) (scrub scrubKey : Bool) {s s' : State} (h : execRelease p
    g scrub scrubKey s = .next s') : s'.cfg = s.cfg := by
  unfold execRelease at h
  simp only [Host.Outcome.next.injEq] at h
  subst h
  simp
theorem execGalConfigWrite_cfg (p : Port) (g : GalleryId) (r : GalReg) (v : W64) {s s' : State} (h :
    execGalConfigWrite p g r v s = .next s') : s'.cfg = s.cfg := by
  unfold execGalConfigWrite at h
  simp only [Host.Outcome.next.injEq] at h
  subst h
  simp
theorem execGalKindleDeadline_cfg (p : Port) (g : GalleryId) (v : W32) {s s' : State} (h :
    execGalKindleDeadline p g v s = .next s') : s'.cfg = s.cfg := by
  unfold execGalKindleDeadline at h
  simp only [Host.Outcome.next.injEq] at h
  subst h
  simp
theorem execTimeNowRead_cfg (p : Port) (part : TimeRead) {s s' : State} (h : execTimeNowRead p part s = .next
    s') : s'.cfg = s.cfg := by
  unfold execTimeNowRead at h
  simp only [Host.Outcome.next.injEq] at h
  subst h
  exact (by simp [apply_ite State.cfg])
theorem execTimeSet_keeps (p : Port) (v : W64) {s s' : State} (h : execTimeSet p v s = .next s') : Keeps s s' := by
  unfold execTimeSet at h
  simp only [Host.Outcome.next.injEq] at h
  subst h
  exact State.whenReady_keeps s _ fun t => t.timeSet_keeps ..
theorem execPpsEdge_keeps {s s' : State} (h : execPpsEdge s = .next s') : Keeps s s' := by
  unfold execPpsEdge at h
  simp only [Host.Outcome.next.injEq] at h
  subst h
  exact s.ppsEdge_keeps
theorem execHoldoverEntry_cfg {s s' : State} (h : execHoldoverEntry s = .next s') : s'.cfg = s.cfg := by
  unfold execHoldoverEntry at h
  simp only [Host.Outcome.next.injEq] at h
  subst h
  simp
theorem execRefTimeRelock_cfg (err : Int) {s s' : State} (h : execRefTimeRelock err s = .next s') : s'.cfg = s.cfg := by
  unfold execRefTimeRelock at h
  simp only [Host.Outcome.next.injEq] at h
  subst h
  simp
theorem execPaceWindowEnd_cfg (counts : List (BitVec 16)) {s s' : State} (h : execPaceWindowEnd counts s =
    .next s') : s'.cfg = s.cfg := by
  unfold execPaceWindowEnd at h
  simp only [Host.Outcome.next.injEq] at h
  subst h
  simp
theorem execPaceVreq_keeps (p : Port) (v : W32) {s s' : State} (h : execPaceVreq p v s = .next s') : Keeps s s' := by
  unfold execPaceVreq at h
  simp only [Host.Outcome.next.injEq] at h
  subst h
  exact State.whenReady_keeps s _ fun t => t.paceVreq_keeps ..
theorem execAvsStatusPoll_cfg (vdone : Bool) (mv : BitVec 10) {s s' : State} (h : execAvsStatusPoll vdone mv
    s = .next s') : s'.cfg = s.cfg := by
  unfold execAvsStatusPoll at h
  simp only [Host.Outcome.next.injEq] at h
  subst h
  simp
theorem execAvsFrameFail_cfg (status : Bool) {s s' : State} (h : execAvsFrameFail status s = .next s') :
    s'.cfg = s.cfg := by
  unfold execAvsFrameFail at h
  simp only [Host.Outcome.next.injEq] at h
  subst h
  simp
theorem execPacePark_cfg (p : Port) (mask : W64) {s s' : State} (h : execPacePark p mask s = .next s') :
    s'.cfg = s.cfg := by
  unfold execPacePark at h
  simp only [Host.Outcome.next.injEq] at h
  subst h
  simp
theorem execHearthWake_cfg (h : HearthId) {s s' : State} (h : execHearthWake h s = .next s') : s'.cfg = s.cfg := by
  unfold execHearthWake at h
  simp only [Host.Outcome.next.injEq] at h
  subst h
  simp
theorem execConfigRequest_cfg (p : Port) (r : CfgReq) {s s' : State} (h : execConfigRequest p r s = .next s')
    : s'.cfg = s.cfg := by
  unfold execConfigRequest at h
  simp only [Host.Outcome.next.injEq] at h
  subst h
  exact (by simp [apply_ite State.cfg])
theorem execPerst_keeps (p : Port) {s s' : State} (h : execPerst p s = .next s') : Keeps s s' := by
  unfold execPerst at h
  simp only [Host.Outcome.next.injEq] at h
  subst h
  exact s.portReset_keeps ..
theorem execHotReset_keeps (p : Port) {s s' : State} (h : execHotReset p s = .next s') : Keeps s s' := by
  unfold execHotReset at h
  simp only [Host.Outcome.next.injEq] at h
  subst h
  exact s.portReset_keeps ..
theorem execLinkDisable_keeps (p : Port) {s s' : State} (h : execLinkDisable p s = .next s') : Keeps s s' := by
  unfold execLinkDisable at h
  simp only [Host.Outcome.next.injEq] at h
  subst h
  exact s.portReset_keeps ..
theorem execFunctionLevelReset_keeps (p : Port) {s s' : State} (h : execFunctionLevelReset p s = .next s') : Keeps s
    s' := by
  unfold execFunctionLevelReset at h
  simp only [Host.Outcome.next.injEq] at h
  subst h
  exact s.portReset_keeps ..
theorem execD3hot_keeps (p : Port) {s s' : State} (h : execD3hot p s = .next s') : Keeps s s' := by
  unfold execD3hot at h
  simp only [Host.Outcome.next.injEq] at h
  subst h
  exact s.portReset_keeps ..
theorem execPortResetEnd_cfg (p : Port) (t : PortTrigger) {s s' : State} (h : execPortResetEnd p t s = .next s') :
    s'.cfg = s.cfg := by
  unfold execPortResetEnd at h
  simp only [Host.Outcome.next.injEq] at h
  subst h
  simp
theorem execDllDown_keeps (p : Port) {s s' : State} (h : execDllDown p s = .next s') : Keeps s s' := by
  unfold execDllDown at h
  simp only [Host.Outcome.next.injEq] at h
  subst h
  exact s.dllDown_keeps ..
theorem execDllUp_cfg (p : Port) (width : BitVec 8) (speed : BitVec 4) {s s' : State} (h : execDllUp p width
    speed s = .next s') : s'.cfg = s.cfg := by
  unfold execDllUp at h
  simp only [Host.Outcome.next.injEq] at h
  subst h
  simp
theorem execPortAdopt_cfg (p : Port) (g : GalleryId) {s s' : State} (h : execPortAdopt p g s = .next s') :
    s'.cfg = s.cfg := by
  unfold execPortAdopt at h
  simp only [Host.Outcome.next.injEq] at h
  subst h
  simp
theorem execMsixPendingSend_cfg (p : Port) {s s' : State} (h : execMsixPendingSend p s = .next s') : s'.cfg = s.cfg
    := by
  unfold execMsixPendingSend at h
  simp only [Host.Outcome.next.injEq] at h
  subst h
  simp
theorem execLd_cfg (h : HearthId) (k : StokerId) {s s' : State} (h : execLd h k s = .next s') : s'.cfg = s.cfg := by
  unfold execLd at h
  simp only [Host.Outcome.next.injEq] at h
  subst h
  simp
theorem execSt_cfg (h : HearthId) (k : StokerId) {s s' : State} (h : execSt h k s = .next s') : s'.cfg = s.cfg := by
  unfold execSt at h
  simp only [Host.Outcome.next.injEq] at h
  subst h
  simp
theorem execLdarg_cfg (h : HearthId) (k : StokerId) {s s' : State} (h : execLdarg h k s = .next s') : s'.cfg = s.cfg
    := by
  unfold execLdarg at h
  simp only [Host.Outcome.next.injEq] at h
  subst h
  simp
theorem execFenceAcq_cfg (h : HearthId) (k : StokerId) {s s' : State} (h : execFenceAcq h k s = .next s') :
    s'.cfg = s.cfg := by
  unfold execFenceAcq at h
  simp only [Host.Outcome.next.injEq] at h
  subst h
  simp
theorem execFenceFull_cfg (h : HearthId) (k : StokerId) {s s' : State} (h : execFenceFull h k s = .next s') :
    s'.cfg = s.cfg := by
  unfold execFenceFull at h
  simp only [Host.Outcome.next.injEq] at h
  subst h
  simp
theorem execFenceRel_cfg (h : HearthId) (k : StokerId) {s s' : State} (h : execFenceRel h k s = .next s') :
    s'.cfg = s.cfg := by
  unfold execFenceRel at h
  simp only [Host.Outcome.next.injEq] at h
  subst h
  simp
theorem execFlagSet_cfg (h : HearthId) (k : StokerId) {s s' : State} (h : execFlagSet h k s = .next s') :
    s'.cfg = s.cfg := by
  unfold execFlagSet at h
  simp only [Host.Outcome.next.injEq] at h
  subst h
  simp
theorem execFlagAdd_cfg (h : HearthId) (k : StokerId) {s s' : State} (h : execFlagAdd h k s = .next s') :
    s'.cfg = s.cfg := by
  unfold execFlagAdd at h
  simp only [Host.Outcome.next.injEq] at h
  subst h
  simp
theorem execFlagWaitCc_cfg (h : HearthId) (k : StokerId) {s s' : State} (h : execFlagWaitCc h k s = .next s')
    : s'.cfg = s.cfg := by
  unfold execFlagWaitCc at h
  simp only [Host.Outcome.next.injEq] at h
  subst h
  simp
theorem execFlagReread_cfg (h : HearthId) (k : StokerId) {s s' : State} (h : execFlagReread h k s = .next s')
    : s'.cfg = s.cfg := by
  unfold execFlagReread at h
  simp only [Host.Outcome.next.injEq] at h
  subst h
  simp
theorem execDamper_cfg (h : HearthId) (k : StokerId) {s s' : State} (h : execDamper h k s = .next s') : s'.cfg =
    s.cfg := by
  unfold execDamper at h
  simp only [Host.Outcome.next.injEq] at h
  subst h
  simp
theorem execDamperRoundEnd_cfg (wo : Nat) {s s' : State} (h : execDamperRoundEnd wo s = .next s') : s'.cfg = s.cfg := by
  unfold execDamperRoundEnd at h
  simp only [Host.Outcome.next.injEq] at h
  subst h
  simp
theorem execTimeRd_cfg (h : HearthId) (k : StokerId) {s s' : State} (h : execTimeRd h k s = .next s') : s'.cfg =
    s.cfg := by
  unfold execTimeRd at h
  simp only [Host.Outcome.next.injEq] at h
  subst h
  simp
theorem execPaceRd_cfg (h : HearthId) (k : StokerId) {s s' : State} (h : execPaceRd h k s = .next s') : s'.cfg =
    s.cfg := by
  unfold execPaceRd at h
  simp only [Host.Outcome.next.injEq] at h
  subst h
  simp
theorem execStrOpen_cfg (h : HearthId) (k : StokerId) {s s' : State} (h : execStrOpen h k s = .next s') :
    s'.cfg = s.cfg := by
  unfold execStrOpen at h
  simp only [Host.Outcome.next.injEq] at h
  subst h
  simp
theorem execStrOpenL_cfg (h : HearthId) (k : StokerId) {s s' : State} (h : execStrOpenL h k s = .next s') :
    s'.cfg = s.cfg := by
  unfold execStrOpenL at h
  simp only [Host.Outcome.next.injEq] at h
  subst h
  simp
theorem execStrOpenTags_cfg (h : HearthId) {s s' : State} (h : execStrOpenTags h s = .next s') : s'.cfg = s.cfg := by
  unfold execStrOpenTags at h
  simp only [Host.Outcome.next.injEq] at h
  subst h
  simp
theorem execStrPull_cfg (h : HearthId) (k : StokerId) {s s' : State} (h : execStrPull h k s = .next s') :
    s'.cfg = s.cfg := by
  unfold execStrPull at h
  simp only [Host.Outcome.next.injEq] at h
  subst h
  simp
theorem execStrPush_cfg (h : HearthId) (k : StokerId) {s s' : State} (h : execStrPush h k s = .next s') :
    s'.cfg = s.cfg := by
  unfold execStrPush at h
  simp only [Host.Outcome.next.injEq] at h
  subst h
  simp
theorem execStrWait_cfg (h : HearthId) (k : StokerId) {s s' : State} (h : execStrWait h k s = .next s') :
    s'.cfg = s.cfg := by
  unfold execStrWait at h
  simp only [Host.Outcome.next.injEq] at h
  subst h
  simp
theorem execStrPos_cfg (h : HearthId) (k : StokerId) {s s' : State} (h : execStrPos h k s = .next s') : s'.cfg =
    s.cfg := by
  unfold execStrPos at h
  simp only [Host.Outcome.next.injEq] at h
  subst h
  simp
theorem execStrClose_cfg (h : HearthId) (k : StokerId) {s s' : State} (h : execStrClose h k s = .next s') :
    s'.cfg = s.cfg := by
  unfold execStrClose at h
  simp only [Host.Outcome.next.injEq] at h
  subst h
  simp
theorem execHalt_cfg (h : HearthId) (k : StokerId) {s s' : State} (h : execHalt h k s = .next s') : s'.cfg = s.cfg := by
  unfold execHalt at h
  simp only [Host.Outcome.next.injEq] at h
  subst h
  simp
theorem execCabWait_cfg (h : HearthId) (k : StokerId) {s s' : State} (h : execCabWait h k s = .next s') :
    s'.cfg = s.cfg := by
  unfold execCabWait at h
  simp only [Host.Outcome.next.injEq] at h
  subst h
  simp
theorem execCabCall_cfg (h : HearthId) (k : StokerId) {s s' : State} (h : execCabCall h k s = .next s') :
    s'.cfg = s.cfg := by
  unfold execCabCall at h
  simp only [Host.Outcome.next.injEq] at h
  subst h
  simp
theorem execGrtZeroC_cfg (h : HearthId) (k : StokerId) {s s' : State} (h : execGrtZeroC h k s = .next s') :
    s'.cfg = s.cfg := by
  unfold execGrtZeroC at h
  simp only [Host.Outcome.next.injEq] at h
  subst h
  simp
theorem execGrtZero_cfg (h : HearthId) (k : StokerId) {s s' : State} (h : execGrtZero h k s = .next s') :
    s'.cfg = s.cfg := by
  unfold execGrtZero at h
  simp only [Host.Outcome.next.injEq] at h
  subst h
  simp
theorem execGrtMm_cfg (h : HearthId) (k : StokerId) {s s' : State} (h : execGrtMm h k s = .next s') : s'.cfg = s.cfg
    := by
  unfold execGrtMm at h
  simp only [Host.Outcome.next.injEq] at h
  subst h
  simp
theorem execGrtMmX_cfg (h : HearthId) (k : StokerId) {s s' : State} (h : execGrtMmX h k s = .next s') : s'.cfg =
    s.cfg := by
  unfold execGrtMmX at h
  simp only [Host.Outcome.next.injEq] at h
  subst h
  simp
theorem execGrtLoadb_cfg (h : HearthId) (k : StokerId) {s s' : State} (h : execGrtLoadb h k s = .next s') :
    s'.cfg = s.cfg := by
  unfold execGrtLoadb at h
  simp only [Host.Outcome.next.injEq] at h
  subst h
  simp
theorem execKindlingDeadline_cfg (h : HearthId) (chain : Nat) {s s' : State} (h : execKindlingDeadline h
    chain s = .next s') : s'.cfg = s.cfg := by
  unfold execKindlingDeadline at h
  simp only [Host.Outcome.next.injEq] at h
  subst h
  simp
theorem execClaimRelease_cfg (h : HearthId) (k : StokerId) {s s' : State} (h : execClaimRelease h k s = .next
    s') : s'.cfg = s.cfg := by
  unfold execClaimRelease at h
  simp only [Host.Outcome.next.injEq] at h
  subst h
  simp
theorem execChainStart_cfg (h : HearthId) (chain : Nat) {s s' : State} (h : execChainStart h chain s = .next
    s') : s'.cfg = s.cfg := by
  unfold execChainStart at h
  simp only [Host.Outcome.next.injEq] at h
  subst h
  simp
theorem execTileBroadcast_cfg (h : HearthId) (chain : Nat) (v : Verdict) (f : TileFault) (row : Nat) {s s' :
    State} (h : execTileBroadcast h chain v f row s = .next s') : s'.cfg = s.cfg := by
  unfold execTileBroadcast at h
  simp only [Host.Outcome.next.injEq] at h
  subst h
  simp
theorem execChainCommit_cfg (h : HearthId) (chain : Nat) {s s' : State} (h : execChainCommit h chain s =
    .next s') : s'.cfg = s.cfg := by
  unfold execChainCommit at h
  simp only [Host.Outcome.next.injEq] at h
  subst h
  simp
theorem execSprEmb_cfg (h : HearthId) (k : StokerId) {s s' : State} (h : execSprEmb h k s = .next s') : s'.cfg =
    s.cfg := by
  unfold execSprEmb at h
  simp only [Host.Outcome.next.injEq] at h
  subst h
  simp
theorem execSprMerge_cfg (h : HearthId) (k : StokerId) {s s' : State} (h : execSprMerge h k s = .next s') :
    s'.cfg = s.cfg := by
  unfold execSprMerge at h
  simp only [Host.Outcome.next.injEq] at h
  subst h
  simp
theorem execSprEmbC_cfg (h : HearthId) (k : StokerId) {s s' : State} (h : execSprEmbC h k s = .next s') :
    s'.cfg = s.cfg := by
  unfold execSprEmbC at h
  simp only [Host.Outcome.next.injEq] at h
  subst h
  simp
theorem execPositionClaimGrant_cfg (h : HearthId) {s s' : State} (h : execPositionClaimGrant h s = .next s') : s'.cfg
    = s.cfg := by
  unfold execPositionClaimGrant at h
  simp only [Host.Outcome.next.injEq] at h
  subst h
  exact (State.claimGrant_cfg _ _ _ fun t c u => State.grantEmber_to)
theorem execSprDroprd_cfg (h : HearthId) (k : StokerId) {s s' : State} (h : execSprDroprd h k s = .next s') :
    s'.cfg = s.cfg := by
  unfold execSprDroprd at h
  simp only [Host.Outcome.next.injEq] at h
  subst h
  simp
theorem execFluSt_cfg (h : HearthId) (k : StokerId) {s s' : State} (h : execFluSt h k s = .next s') : s'.cfg = s.cfg
    := by
  unfold execFluSt at h
  simp only [Host.Outcome.next.injEq] at h
  subst h
  simp
theorem execFluStL_cfg (h : HearthId) (k : StokerId) {s s' : State} (h : execFluStL h k s = .next s') : s'.cfg =
    s.cfg := by
  unfold execFluStL at h
  simp only [Host.Outcome.next.injEq] at h
  subst h
  simp
theorem execFlueDrain_cfg (h : HearthId) (op : Nat) (check : Option (CheckUnit × Verdict)) {s s' : State} (h
    : execFlueDrain h op check s = .next s') : s'.cfg = s.cfg := by
  unfold execFlueDrain at h
  simp only [Host.Outcome.next.injEq] at h
  subst h
  simp
theorem execFluSte_cfg (h : HearthId) (k : StokerId) {s s' : State} (h : execFluSte h k s = .next s') : s'.cfg =
    s.cfg := by
  unfold execFluSte at h
  simp only [Host.Outcome.next.injEq] at h
  subst h
  simp
theorem execKeeperTake_keeps (p : Port) (n : Fin 64) (token : BitVec 16) (lease : BitVec 12) {s s' : State} (h :
    execKeeperTake p n token lease s = .next s') : Keeps s s' := by
  unfold execKeeperTake at h
  simp only [Host.Outcome.next.injEq] at h
  subst h
  exact State.reached_keeps s _ fun t => t.keeperTake_keeps ..
theorem execKeeperGive_keeps (p : Port) (n : Fin 64) (token : BitVec 16) {s s' : State} (h : execKeeperGive p n token
    s = .next s') : Keeps s s' := by
  unfold execKeeperGive at h
  simp only [Host.Outcome.next.injEq] at h
  subst h
  exact State.reached_keeps s _ fun t => t.keeperGive_keeps ..
theorem execKeeperLeaseExpiry_keeps (n : Fin 64) {s s' : State} (h : execKeeperLeaseExpiry n s = .next s') : Keeps s
    s' := by
  unfold execKeeperLeaseExpiry at h
  simp only [Host.Outcome.next.injEq] at h
  subst h
  split
  · exact .rfl'
  · exact .ite (fun _ => .rfl') fun _ => s.breakSlot_keeps ..
theorem execLedgCfg_keeps (p : Port) (v : W32) {s s' : State} (h : execLedgCfg p v s = .next s') : Keeps s s' := by
  unfold execLedgCfg at h
  simp only [Host.Outcome.next.injEq] at h
  subst h
  exact State.whenReadyOrRecovery_keeps s _ fun t => t.ledgCfg_keeps ..
theorem execM2sRequest_cfg (p : Port) (r : M2SReq) (v : Verdict) {s s' : State} (h : execM2sRequest p r v s = .next s') :
    s'.cfg = s.cfg := by
  unfold execM2sRequest at h
  simp only [Host.Outcome.next.injEq] at h
  subst h
  simp
theorem execBar4Access_cfg (p : Port) (write : Bool) (off : Nat) (data : List Byte) (be : List Bool) (vs : List Verdict)
    {s s' : State} (h : execBar4Access p write off data be vs s = .next s') : s'.cfg = s.cfg := by
  unfold execBar4Access at h
  simp only [Host.Outcome.next.injEq] at h
  subst h
  simp
theorem execBirsp_cfg (p : Port) (l : Nat) (st : BiState) {s s' : State} (h : execBirsp p l st s = .next s')
    : s'.cfg = s.cfg := by
  unfold execBirsp at h
  simp only [Host.Outcome.next.injEq] at h
  subst h
  simp
theorem execMemclnevct_cfg (p : Port) (l : Nat) {s s' : State} (h : execMemclnevct p l s = .next s') : s'.cfg = s.cfg
    := by
  unfold execMemclnevct at h
  simp only [Host.Outcome.next.injEq] at h
  subst h
  simp
theorem execDirtyWriteBack_cfg (p : Port) (l : Nat) (data : List Byte) {s s' : State} (h : execDirtyWriteBack
    p l data s = .next s') : s'.cfg = s.cfg := by
  unfold execDirtyWriteBack at h
  simp only [Host.Outcome.next.injEq] at h
  subst h
  simp
theorem execBiconflict_cfg (p : Port) (l : Nat) {s s' : State} (h : execBiconflict p l s = .next s') : s'.cfg = s.cfg
    := by
  unfold execBiconflict at h
  simp only [Host.Outcome.next.injEq] at h
  subst h
  simp
theorem execSnoopTimeout_cfg (l : Nat) {s s' : State} (h : execSnoopTimeout l s = .next s') : s'.cfg = s.cfg := by
  unfold execSnoopTimeout at h
  simp only [Host.Outcome.next.injEq] at h
  subst h
  simp
theorem execCatWrite_cfg (p : Port) (g : GalleryId) (seg : BitVec 8) {s s' : State} (h : execCatWrite p g seg
    s = .next s') : s'.cfg = s.cfg := by
  unfold execCatWrite at h
  simp only [Host.Outcome.next.injEq] at h
  subst h
  simp
theorem execInvalidate_cfg (p : Port) (g : GalleryId) (seg : BitVec 8) {s s' : State} (h : execInvalidate p g
    seg s = .next s') : s'.cfg = s.cfg := by
  unfold execInvalidate at h
  simp only [Host.Outcome.next.injEq] at h
  subst h
  simp
theorem execCatRead_cfg (p : Port) (g : GalleryId) (seg : BitVec 8) {s s' : State} (h : execCatRead p g seg s
    = .next s') : s'.cfg = s.cfg := by
  unfold execCatRead at h
  simp only [Host.Outcome.next.injEq] at h
  subst h
  simp
theorem execPresFill_cfg (p : Port) (g : GalleryId) (seg : BitVec 8) {s s' : State} (h : execPresFill p g seg
    s = .next s') : s'.cfg = s.cfg := by
  unfold execPresFill at h
  simp only [Host.Outcome.next.injEq] at h
  subst h
  simp
theorem execPresEmpty_cfg (p : Port) (g : GalleryId) (seg : BitVec 8) {s s' : State} (h : execPresEmpty p g
    seg s = .next s') : s'.cfg = s.cfg := by
  unfold execPresEmpty at h
  simp only [Host.Outcome.next.injEq] at h
  subst h
  simp
theorem execCatPresSet_cfg (p : Port) (g : GalleryId) (v : W64) {s s' : State} (h : execCatPresSet p g v s =
    .next s') : s'.cfg = s.cfg := by
  unfold execCatPresSet at h
  simp only [Host.Outcome.next.injEq] at h
  subst h
  simp
theorem execCatPresClr_cfg (p : Port) (g : GalleryId) (v : W64) {s s' : State} (h : execCatPresClr p g v s =
    .next s') : s'.cfg = s.cfg := by
  unfold execCatPresClr at h
  simp only [Host.Outcome.next.injEq] at h
  subst h
  simp
theorem execCatPool_cfg (p : Port) (g : GalleryId) (v : W64) {s s' : State} (h : execCatPool p g v s = .next
    s') : s'.cfg = s.cfg := by
  unfold execCatPool at h
  simp only [Host.Outcome.next.injEq] at h
  subst h
  simp
theorem execCatDrainDone_cfg (g : GalleryId) {s s' : State} (h : execCatDrainDone g s = .next s') : s'.cfg = s.cfg := by
  unfold execCatDrainDone at h
  simp only [Host.Outcome.next.injEq] at h
  subst h
  simp
theorem execDbSqTail_cfg (p : Port) (g : GalleryId) (q : QueueId) (t : BitVec 16) {s s' : State} (h : execDbSqTail p
    g q t s = .next s') : s'.cfg = s.cfg := by
  unfold execDbSqTail at h
  simp only [Host.Outcome.next.injEq] at h
  subst h
  exact (State.doorbell_cfg _ _ _ _ _ fun t => State.whenEnabled_cfg _ _ _ _ fun t => by simp)
theorem execDbPush_cfg (p : Port) (g : GalleryId) (q : QueueId) (data : List Byte) {s s' : State} (h :
    execDbPush p g q data s = .next s') : s'.cfg = s.cfg := by
  unfold execDbPush at h
  simp only [Host.Outcome.next.injEq] at h
  subst h
  simp
theorem execDbCqHead_cfg (p : Port) (g : GalleryId) (q : QueueId) (h : BitVec 16) {s s' : State} (h :
    execDbCqHead p g q h s = .next s') : s'.cfg = s.cfg := by
  unfold execDbCqHead at h
  simp only [Host.Outcome.next.injEq] at h
  subst h
  simp
theorem execDbAbort_cfg (p : Port) (g : GalleryId) (q : QueueId) (t : BitVec 16) {s s' : State} (h : execDbAbort p g
    q t s = .next s') : s'.cfg = s.cfg := by
  unfold execDbAbort at h
  simp only [Host.Outcome.next.injEq] at h
  subst h
  exact (State.doorbell_cfg _ _ _ _ _ fun t => State.whenEnabled_cfg _ _ _ _ fun t => by simp)
theorem execDbFaultqHead_cfg (p : Port) (g : GalleryId) (h : BitVec 16) {s s' : State} (h : execDbFaultqHead
    p g h s = .next s') : s'.cfg = s.cfg := by
  unfold execDbFaultqHead at h
  simp only [Host.Outcome.next.injEq] at h
  subst h
  simp
theorem execTimesyncTimer_cfg {s s' : State} (h : execTimesyncTimer s = .next s') : s'.cfg = s.cfg := by
  unfold execTimesyncTimer at h
  simp only [Host.Outcome.next.injEq] at h
  subst h
  exact (by simp [apply_ite State.cfg])
theorem execEpochAnnounceTimer_cfg {s s' : State} (h : execEpochAnnounceTimer s = .next s') : s'.cfg = s.cfg := by
  unfold execEpochAnnounceTimer at h
  simp only [Host.Outcome.next.injEq] at h
  subst h
  refine (cfg_foldl _ _ _ fun t d => ?_)
  extract_lets
  (repeat' split) <;> simp
theorem execFenlinePortDown_cfg (p : FenPortId) {s s' : State} (h : execFenlinePortDown p s = .next s') :
    s'.cfg = s.cfg := by
  unfold execFenlinePortDown at h
  simp only [Host.Outcome.next.injEq] at h
  subst h
  exact (by simp [apply_ite State.cfg])
theorem execFenlineTrained_cfg (p : FenPortId) {s s' : State} (h : execFenlineTrained p s = .next s') : s'.cfg =
    s.cfg := by
  unfold execFenlineTrained at h
  simp only [Host.Outcome.next.injEq] at h
  subst h
  exact (by simp [apply_ite State.cfg])
theorem execFenCfgEpoch_cfg (p : Port) (v : W32) {s s' : State} (h : execFenCfgEpoch p v s = .next s') :
    s'.cfg = s.cfg := by
  unfold execFenCfgEpoch at h
  simp only [Host.Outcome.next.injEq] at h
  subst h
  simp
theorem execFenGal_cfg (p : Port) (g : GalleryId) (v : W64) {s s' : State} (h : execFenGal p g v s = .next
    s') : s'.cfg = s.cfg := by
  unfold execFenGal at h
  simp only [Host.Outcome.next.injEq] at h
  subst h
  simp
theorem execFenCtrlReset_cfg (p : Port) (q : FenPortId) {s s' : State} (h : execFenCtrlReset p q s = .next
    s') : s'.cfg = s.cfg := by
  unfold execFenCtrlReset at h
  simp only [Host.Outcome.next.injEq] at h
  subst h
  simp
theorem execFenCtrlDisable_cfg (p : Port) (q : FenPortId) (on : Bool) {s s' : State} (h : execFenCtrlDisable
    p q on s = .next s') : s'.cfg = s.cfg := by
  unfold execFenCtrlDisable at h
  simp only [Host.Outcome.next.injEq] at h
  subst h
  simp
theorem execRingEntryTake_cfg (g : GalleryId) {s s' : State} (h : execRingEntryTake g s = .next s') : s'.cfg = s.cfg
    := by
  unfold execRingEntryTake at h
  simp only [Host.Outcome.next.injEq] at h
  subst h
  simp
theorem execRingEntryComplete_cfg (g : GalleryId) (i : Nat) {s s' : State} (h : execRingEntryComplete g i s =
    .next s') : s'.cfg = s.cfg := by
  unfold execRingEntryComplete at h
  simp only [Host.Outcome.next.injEq] at h
  subst h
  simp
theorem execIdle_cfg (p : FenPortId) (h : FlitHdr) {s s' : State} (h : execIdle p h s = .next s') : s'.cfg = s.cfg := by
  unfold execIdle at h
  simp only [Host.Outcome.next.injEq] at h
  subst h
  simp
theorem execPutData_cfg (p : FenPortId) (h : FlitHdr) (va : Nat) (data : List (Byte × Byte)) (last : Bool) {s
    s' : State} (h : execPutData p h va data last s = .next s') : s'.cfg = s.cfg := by
  unfold execPutData at h
  simp only [Host.Outcome.next.injEq] at h
  subst h
  simp
theorem execGetReq_cfg (p : FenPortId) (h : FlitHdr) (va len : Nat) {s s' : State} (h : execGetReq p h va len
    s = .next s') : s'.cfg = s.cfg := by
  unfold execGetReq at h
  simp only [Host.Outcome.next.injEq] at h
  subst h
  simp
theorem execGetData_cfg (p : FenPortId) (h : FlitHdr) (data : List Byte) {s s' : State} (h : execGetData p h
    data s = .next s') : s'.cfg = s.cfg := by
  unfold execGetData at h
  simp only [Host.Outcome.next.injEq] at h
  subst h
  simp
theorem execXack_cfg (p : FenPortId) (h : FlitHdr) (a : FenAck) {s s' : State} (h : execXack p h a s = .next
    s') : s'.cfg = s.cfg := by
  unfold execXack at h
  simp only [Host.Outcome.next.injEq] at h
  subst h
  simp
theorem execSignal_cfg (p : FenPortId) (h : FlitHdr) (va : Nat) (addend : W64) {s s' : State} (h : execSignal
    p h va addend s = .next s') : s'.cfg = s.cfg := by
  unfold execSignal at h
  simp only [Host.Outcome.next.injEq] at h
  subst h
  simp
theorem execColl_cfg (p : FenPortId) (h : FlitHdr) (id : W32) (ps : CollParams) (first : Nat) (elems : List
    Nat) (last : Bool) {s s' : State} (h : execColl p h id ps first elems last s = .next s') : s'.cfg = s.cfg := by
  unfold execColl at h
  simp only [Host.Outcome.next.injEq] at h
  subst h
  simp
theorem execBringup_cfg (p : FenPortId) (h : FlitHdr) (b : Bringup) {s s' : State} (h : execBringup p h b s =
    .next s') : s'.cfg = s.cfg := by
  unfold execBringup at h
  simp only [Host.Outcome.next.injEq] at h
  subst h
  simp
theorem execTimesync_cfg (p : FenPortId) (h : FlitHdr) (t : TimeSync) {s s' : State} (h : execTimesync p h t s =
    .next s') : s'.cfg = s.cfg := by
  unfold execTimesync at h
  simp only [Host.Outcome.next.injEq] at h
  subst h
  simp
theorem execMgmt_cfg (p : FenPortId) (h : FlitHdr) (payload : List Byte) {s s' : State} (h : execMgmt p h
    payload s = .next s') : s'.cfg = s.cfg := by
  unfold execMgmt at h
  simp only [Host.Outcome.next.injEq] at h
  subst h
  simp
theorem execLeave_cfg (p : FenPortId) (h : FlitHdr) (id : W32) {s s' : State} (h : execLeave p h id s = .next
    s') : s'.cfg = s.cfg := by
  unfold execLeave at h
  simp only [Host.Outcome.next.injEq] at h
  subst h
  simp
theorem execInstall_cfg (p : Port) {s s' : State} (h : execInstall p s = .next s') : s'.cfg = s.cfg := by
  unfold execInstall at h
  simp only [Host.Outcome.next.injEq] at h
  subst h
  simp
theorem execActivate_cfg (p : Port) (i : SlotId) {s s' : State} (h : execActivate p i s = .next s') : s'.cfg = s.cfg
    := by
  unfold execActivate at h
  simp only [Host.Outcome.next.injEq] at h
  subst h
  simp
theorem execConfirm_cfg (p : Port) {s s' : State} (h : execConfirm p s = .next s') : s'.cfg = s.cfg := by
  unfold execConfirm at h
  simp only [Host.Outcome.next.injEq] at h
  subst h
  simp
theorem execFaultBookAppend_cfg {s s' : State} (h : execFaultBookAppend s = .next s') : s'.cfg = s.cfg := by
  unfold execFaultBookAppend at h
  simp only [Host.Outcome.next.injEq] at h
  subst h
  exact (by simp [apply_ite State.cfg])
theorem execBayPresenceHeld_cfg (b : BayId) {s s' : State} (h : execBayPresenceHeld b s = .next s') : s'.cfg = s.cfg
    := by
  unfold execBayPresenceHeld at h
  simp only [Host.Outcome.next.injEq] at h
  subst h
  exact (by simp [apply_ite State.cfg])
theorem execBayLinkTrained_cfg (b : BayId) {s s' : State} (h : execBayLinkTrained b s = .next s') : s'.cfg = s.cfg := by
  unfold execBayLinkTrained at h
  simp only [Host.Outcome.next.injEq] at h
  subst h
  exact (by simp [apply_ite State.cfg])
theorem execBayEnumerationSlot_cfg (b : BayId) {s s' : State} (h : execBayEnumerationSlot b s = .next s') :
    s'.cfg = s.cfg := by
  unfold execBayEnumerationSlot at h
  simp only [Host.Outcome.next.injEq] at h
  subst h
  exact (by simp [apply_ite State.cfg])
theorem execAdopt_cfg (p : Port) (b : BayId) {s s' : State} (h : execAdopt p b s = .next s') : s'.cfg = s.cfg := by
  unfold execAdopt at h
  simp only [Host.Outcome.next.injEq] at h
  subst h
  simp
theorem execEject_cfg (p : Port) (b : BayId) {s s' : State} (h : execEject p b s = .next s') : s'.cfg = s.cfg := by
  unfold execEject at h
  simp only [Host.Outcome.next.injEq] at h
  subst h
  simp
theorem execFolRetire_cfg (p : Port) (b : BayId) {s s' : State} (h : execFolRetire p b s = .next s') : s'.cfg = s.cfg
    := by
  unfold execFolRetire at h
  simp only [Host.Outcome.next.injEq] at h
  subst h
  simp
theorem execFolExport_cfg (p : Port) (b : BayId) (targetOk : Bool) {s s' : State} (h : execFolExport p b
    targetOk s = .next s') : s'.cfg = s.cfg := by
  unfold execFolExport at h
  simp only [Host.Outcome.next.injEq] at h
  subst h
  simp
theorem execAccept_cfg (p : Port) (b : BayId) {s s' : State} (h : execAccept p b s = .next s') : s'.cfg = s.cfg := by
  unfold execAccept at h
  simp only [Host.Outcome.next.injEq] at h
  subst h
  simp
theorem execFolCommit_cfg (p : Port) (b : BayId) {s s' : State} (h : execFolCommit p b s = .next s') : s'.cfg = s.cfg
    := by
  unfold execFolCommit at h
  simp only [Host.Outcome.next.injEq] at h
  subst h
  simp
theorem execBaySupplyOff_cfg (b : BayId) {s s' : State} (h : execBaySupplyOff b s = .next s') : s'.cfg = s.cfg := by
  unfold execBaySupplyOff at h
  simp only [Host.Outcome.next.injEq] at h
  subst h
  simp
theorem execFolChalNonce_cfg (b : BayId) (nonce : List Byte) {s s' : State} (h : execFolChalNonce b nonce s =
    .next s') : s'.cfg = s.cfg := by
  unfold execFolChalNonce at h
  simp only [Host.Outcome.next.injEq] at h
  subst h
  simp
theorem execLedgerCommitTimer_cfg {s s' : State} (h : execLedgerCommitTimer s = .next s') : s'.cfg = s.cfg := by
  unfold execLedgerCommitTimer at h
  simp only [Host.Outcome.next.injEq] at h
  subst h
  exact (by simp [apply_ite State.cfg])
theorem execScrubStatus_cfg {s s' : State} (h : execScrubStatus s = .next s') : s'.cfg = s.cfg := by
  unfold execScrubStatus at h
  simp only [Host.Outcome.next.injEq] at h
  subst h
  exact (by simp [apply_ite State.cfg])
theorem execFolReset_cfg (p : Port) (b : BayId) {s s' : State} (h : execFolReset p b s = .next s') : s'.cfg = s.cfg
    := by
  unfold execFolReset at h
  simp only [Host.Outcome.next.injEq] at h
  subst h
  simp
theorem execPwrWarnNFall_cfg {s s' : State} (h : execPwrWarnNFall s = .next s') : s'.cfg = s.cfg := by
  unfold execPwrWarnNFall at h
  simp only [Host.Outcome.next.injEq] at h
  subst h
  simp
theorem execPwrWarnNRelease_cfg {s s' : State} (h : execPwrWarnNRelease s = .next s') : s'.cfg = s.cfg := by
  unfold execPwrWarnNRelease at h
  simp only [Host.Outcome.next.injEq] at h
  subst h
  split
  · simp
  · refine (cfg_foldl _ _ _ fun t b => ?_).trans (by simp)
    rw [State.pumpBay_cfg]
    split <;> simp
theorem execEngineCallStart_cfg (q : Fin 4) (e : Fin 8) {s s' : State} (h : execEngineCallStart q e s = .next
    s') : s'.cfg = s.cfg := by
  unfold execEngineCallStart at h
  simp only [Host.Outcome.next.injEq] at h
  subst h
  simp
theorem execEngineCallComplete_cfg (q : Fin 4) (e : Fin 8) (ok : Bool) {s s' : State} (h :
    execEngineCallComplete q e ok s = .next s') : s'.cfg = s.cfg := by
  unfold execEngineCallComplete at h
  simp only [Host.Outcome.next.injEq] at h
  subst h
  simp
theorem execStvLoad_cfg (h : HearthId) (k : StokerId) {s s' : State} (h : execStvLoad h k s = .next s') :
    s'.cfg = s.cfg := by
  unfold execStvLoad at h
  simp only [Host.Outcome.next.injEq] at h
  subst h
  simp
theorem execStvRun_cfg (h : HearthId) (k : StokerId) {s s' : State} (h : execStvRun h k s = .next s') : s'.cfg =
    s.cfg := by
  unfold execStvRun at h
  simp only [Host.Outcome.next.injEq] at h
  subst h
  simp
theorem execStvWait_cfg (h : HearthId) (k : StokerId) {s s' : State} (h : execStvWait h k s = .next s') :
    s'.cfg = s.cfg := by
  unfold execStvWait at h
  simp only [Host.Outcome.next.injEq] at h
  subst h
  simp
theorem execPatternLoad_cfg (h : HearthId) {s s' : State} (h : execPatternLoad h s = .next s') : s'.cfg = s.cfg := by
  unfold execPatternLoad at h
  simp only [Host.Outcome.next.injEq] at h
  subst h
  simp
theorem execStoveCallStart_cfg (h : HearthId) {s s' : State} (h : execStoveCallStart h s = .next s') : s'.cfg = s.cfg
    := by
  unfold execStoveCallStart at h
  simp only [Host.Outcome.next.injEq] at h
  subst h
  simp
theorem execStoveCallComplete_cfg (h : HearthId) (ok : Bool) {s s' : State} (h : execStoveCallComplete h ok s
    = .next s') : s'.cfg = s.cfg := by
  unfold execStoveCallComplete at h
  simp only [Host.Outcome.next.injEq] at h
  subst h
  simp
theorem execPieceComplete_cfg (id : Nat) (ret : PieceReturn) {s s' : State} (h : execPieceComplete id ret s =
    .next s') : s'.cfg = s.cfg := by
  unfold execPieceComplete at h
  simp only [Host.Outcome.next.injEq] at h
  subst h
  simp
theorem execHostCompletionTimeout_cfg (id : Nat) {s s' : State} (h : execHostCompletionTimeout id s = .next
    s') : s'.cfg = s.cfg := by
  unfold execHostCompletionTimeout at h
  simp only [Host.Outcome.next.injEq] at h
  subst h
  simp
theorem execPieceSend_cfg (u : SendUnit) {s s' : State} (h : execPieceSend u s = .next s') : s'.cfg = s.cfg := by
  unfold execPieceSend at h
  simp only [Host.Outcome.next.injEq] at h
  subst h
  exact (by (repeat' split) <;> simp [apply_ite State.cfg])
theorem execStreamHalt_cfg (h : HearthId) (k : StokerId) (d : Fin 16) {s s' : State} (h : execStreamHalt h k
    d s = .next s') : s'.cfg = s.cfg := by
  unfold execStreamHalt at h
  simp only [Host.Outcome.next.injEq] at h
  subst h
  simp
theorem execDbResume_cfg (p : Port) (g : GalleryId) (seq : W32) {s s' : State} (h : execDbResume p g seq s =
    .next s') : s'.cfg = s.cfg := by
  unfold execDbResume at h
  simp only [Host.Outcome.next.injEq] at h
  subst h
  simp
theorem execFaultCommit_cfg (wo : Nat) (code hearth : BitVec 8) (stoker : StokerId) (pc : BitVec 18) {s s' :
    State} (h : execFaultCommit wo code hearth stoker pc s = .next s') : s'.cfg = s.cfg := by
  unfold execFaultCommit at h
  simp only [Host.Outcome.next.injEq] at h
  subst h
  simp
theorem execRdData_cfg (b : BayId) (h : FrameHdr) (tag : Nat) (data : List Byte) {s s' : State} (h :
    execRdData b h tag data s = .next s') : s'.cfg = s.cfg := by
  unfold execRdData at h
  simp only [Host.Outcome.next.injEq] at h
  subst h
  exact (by simp [apply_ite State.cfg])
theorem execWrAck_cfg (b : BayId) (h : FrameHdr) (tag : Nat) {s s' : State} (h : execWrAck b h tag s = .next
    s') : s'.cfg = s.cfg := by
  unfold execWrAck at h
  simp only [Host.Outcome.next.injEq] at h
  subst h
  exact (by simp [apply_ite State.cfg])
theorem execErr_cfg (b : BayId) (h : FrameHdr) (tag : Nat) (e : FrameErr) {s s' : State} (h : execErr b h tag
    e s = .next s') : s'.cfg = s.cfg := by
  unfold execErr at h
  simp only [Host.Outcome.next.injEq] at h
  subst h
  exact (by (repeat' split) <;> simp [apply_ite State.cfg])
theorem execMgRsp_cfg (b : BayId) (h : FrameHdr) (op : MgOp) (r : MgReply) {s s' : State} (h : execMgRsp b h
    op r s = .next s') : s'.cfg = s.cfg := by
  unfold execMgRsp at h
  simp only [Host.Outcome.next.injEq] at h
  subst h
  simp
theorem execBayTimeout_cfg (b : BayId) (tag : Option Nat) {s s' : State} (h : execBayTimeout b tag s = .next
    s') : s'.cfg = s.cfg := by
  unfold execBayTimeout at h
  simp only [Host.Outcome.next.injEq] at h
  subst h
  simp
theorem execFolioLinkDown_cfg (b : BayId) {s s' : State} (h : execFolioLinkDown b s = .next s') : s'.cfg = s.cfg := by
  unfold execFolioLinkDown at h
  simp only [Host.Outcome.next.injEq] at h
  subst h
  exact (by simp [apply_ite State.cfg])
theorem execBayPresenceLost_cfg (b : BayId) {s s' : State} (h : execBayPresenceLost b s = .next s') : s'.cfg = s.cfg
    := by
  unfold execBayPresenceLost at h
  simp only [Host.Outcome.next.injEq] at h
  subst h
  simp
theorem execSerdesRefclkLoss_cfg {s s' : State} (h : execSerdesRefclkLoss s = .next s') : s'.cfg = s.cfg := by
  unfold execSerdesRefclkLoss at h
  simp only [Host.Outcome.next.injEq] at h
  subst h
  exact (by simp [apply_ite State.cfg])
theorem execBootFlashOperationEnd_keeps (ok sigOk : Bool) {s s' : State} (h : execBootFlashOperationEnd ok sigOk s =
    .next s') : Keeps s s' := by
  unfold execBootFlashOperationEnd at h
  simp only [Host.Outcome.next.injEq] at h
  subst h
  split
  · exact .rfl'
  · rename_i op _
    have h1 : (s.updAcc' fun x => { x with flash := none }).cfg = s.cfg := by simp
    exact (Keeps.after h1 (State.flashEnd_keeps _ op ok sigOk)).then (by simp)
theorem execEntryStage_cfg (g : GalleryId) (q : QueueId) (ans : HostAnswer) (v : Verdict) {s s' : State} (h :
    execEntryStage g q ans v s = .next s') : s'.cfg = s.cfg := by
  unfold execEntryStage at h
  simp only [Host.Outcome.next.injEq] at h
  subst h
  exact (by simp [apply_ite State.cfg])
theorem execEntryFetch_cfg {s s' : State} (h : execEntryFetch s = .next s') : s'.cfg = s.cfg := by
  unfold execEntryFetch at h
  simp only [Host.Outcome.next.injEq] at h
  subst h
  exact (by simp [apply_ite State.cfg])
theorem execQfenceRetire_cfg (wo : Nat) {s s' : State} (h : execQfenceRetire wo s = .next s') : s'.cfg = s.cfg := by
  unfold execQfenceRetire at h
  simp only [Host.Outcome.next.injEq] at h
  subst h
  simp
theorem execRunDispatch_cfg (wo : Nat) {s s' : State} (h : execRunDispatch wo s = .next s') : s'.cfg = s.cfg := by
  unfold execRunDispatch at h
  simp only [Host.Outcome.next.injEq] at h
  subst h
  simp
theorem execStoveLoadDispatch_cfg (wo : Nat) {s s' : State} (h : execStoveLoadDispatch wo s = .next s') :
    s'.cfg = s.cfg := by
  unfold execStoveLoadDispatch at h
  simp only [Host.Outcome.next.injEq] at h
  subst h
  simp
theorem execPlaceDispatch_cfg (wo : Nat) {s s' : State} (h : execPlaceDispatch wo s = .next s') : s'.cfg = s.cfg := by
  unfold execPlaceDispatch at h
  simp only [Host.Outcome.next.injEq] at h
  subst h
  simp
theorem execRetire_cfg (wo : Nat) {s s' : State} (h : execRetire wo s = .next s') : s'.cfg = s.cfg := by
  unfold execRetire at h
  simp only [Host.Outcome.next.injEq] at h
  subst h
  simp
theorem execCompletionRecord_cfg (wo : Nat) {s s' : State} (h : execCompletionRecord wo s = .next s') : s'.cfg =
    s.cfg := by
  unfold execCompletionRecord at h
  simp only [Host.Outcome.next.injEq] at h
  subst h
  simp
theorem execStokerFree_cfg (h : HearthId) (k : StokerId) {s s' : State} (h : execStokerFree h k s = .next s')
    : s'.cfg = s.cfg := by
  unfold execStokerFree at h
  simp only [Host.Outcome.next.injEq] at h
  subst h
  simp
theorem execStokerWake_cfg (h : HearthId) (k : StokerId) {s s' : State} (h : execStokerWake h k s = .next s')
    : s'.cfg = s.cfg := by
  unfold execStokerWake at h
  simp only [Host.Outcome.next.injEq] at h
  subst h
  simp
theorem execQuiesceDrained_cfg (g : GalleryId) {s s' : State} (h : execQuiesceDrained g s = .next s') : s'.cfg =
    s.cfg := by
  unfold execQuiesceDrained at h
  simp only [Host.Outcome.next.injEq] at h
  subst h
  simp
theorem execGalResetDone_cfg (g : GalleryId) {s s' : State} (h : execGalResetDone g s = .next s') : s'.cfg = s.cfg := by
  unfold execGalResetDone at h
  simp only [Host.Outcome.next.injEq] at h
  subst h
  simp
theorem execPortResetGraceExpiry_cfg (g : GalleryId) {s s' : State} (h : execPortResetGraceExpiry g s = .next
    s') : s'.cfg = s.cfg := by
  unfold execPortResetGraceExpiry at h
  simp only [Host.Outcome.next.injEq] at h
  subst h
  simp
theorem execHrtPsMap_cfg (p : Port) (h : HearthId) (j : Fin 256) (v : W32) {s s' : State} (h : execHrtPsMap p
    h j v s = .next s') : s'.cfg = s.cfg := by
  unfold execHrtPsMap at h
  simp only [Host.Outcome.next.injEq] at h
  subst h
  simp
theorem execFenceReq_cfg (p : Port) (h : HearthId) {s s' : State} (h : execFenceReq p h s = .next s') : s'.cfg =
    s.cfg := by
  unfold execFenceReq at h
  simp only [Host.Outcome.next.injEq] at h
  subst h
  simp
theorem execHrtPostRoute_cfg (p : Port) (h : HearthId) (stove : Bool) {s s' : State} (h : execHrtPostRoute p
    h stove s = .next s') : s'.cfg = s.cfg := by
  unfold execHrtPostRoute at h
  simp only [Host.Outcome.next.injEq] at h
  subst h
  simp
theorem execHrtReset_cfg (p : Port) (h : HearthId) {s s' : State} (h : execHrtReset p h s = .next s') : s'.cfg =
    s.cfg := by
  unfold execHrtReset at h
  simp only [Host.Outcome.next.injEq] at h
  subst h
  simp
theorem execHearthPark_cfg (h : HearthId) {s s' : State} (h : execHearthPark h s = .next s') : s'.cfg = s.cfg := by
  unfold execHearthPark at h
  simp only [Host.Outcome.next.injEq] at h
  subst h
  simp
theorem execThermalSample_keeps (readings : List (BitVec 16)) {s s' : State} (h : execThermalSample readings s =
    .next s') : Keeps s s' := by
  unfold execThermalSample at h
  simp only [Host.Outcome.next.injEq] at h
  subst h
  exact s.thermalSample_keeps ..
theorem execFenceGrate_cfg (p : Port) (arg : BitVec 10) {s s' : State} (h : execFenceGrate p arg s = .next
    s') : s'.cfg = s.cfg := by
  unfold execFenceGrate at h
  simp only [Host.Outcome.next.injEq] at h
  subst h
  simp
theorem execFenceEngine_cfg (p : Port) (arg : BitVec 10) {s s' : State} (h : execFenceEngine p arg s = .next
    s') : s'.cfg = s.cfg := by
  unfold execFenceEngine at h
  simp only [Host.Outcome.next.injEq] at h
  subst h
  simp
theorem execFenceStove_cfg (p : Port) (arg : BitVec 10) {s s' : State} (h : execFenceStove p arg s = .next
    s') : s'.cfg = s.cfg := by
  unfold execFenceStove at h
  simp only [Host.Outcome.next.injEq] at h
  subst h
  simp
theorem execForget_cfg (p : Port) (arg : BitVec 10) {s s' : State} (h : execForget p arg s = .next s') :
    s'.cfg = s.cfg := by
  unfold execForget at h
  simp only [Host.Outcome.next.injEq] at h
  subst h
  simp
theorem execReturnSeal_cfg (p : Port) {s s' : State} (h : execReturnSeal p s = .next s') : s'.cfg = s.cfg := by
  unfold execReturnSeal at h
  simp only [Host.Outcome.next.injEq] at h
  subst h
  simp
theorem execFaultSealArm_cfg (p : Port) (v : W32) {s s' : State} (h : execFaultSealArm p v s = .next s') :
    s'.cfg = s.cfg := by
  unfold execFaultSealArm at h
  simp only [Host.Outcome.next.injEq] at h
  subst h
  simp
theorem execFaultTail_cfg (v : W32) {s s' : State} (h : execFaultTail v s = .next s') : s'.cfg = s.cfg := by
  unfold execFaultTail at h
  simp only [Host.Outcome.next.injEq] at h
  subst h
  simp
theorem execConservatorUnlock_cfg (signed : Bool) {s s' : State} (h : execConservatorUnlock signed s = .next s') :
    s'.cfg = s.cfg := by
  unfold execConservatorUnlock at h
  split at h
  · cases h
  · simp only [Host.Outcome.next.injEq] at h
    subst h
    simp
theorem execResetNLow_keeps {s s' : State} (h : execResetNLow s = .next s') : Keeps s s' := by
  unfold execResetNLow at h
  simp only [Host.Outcome.next.injEq] at h
  subst h
  exact .ite (fun _ => .rfl') fun _ => s.coldReset_keeps ..
theorem execResetNRise_cfg {s s' : State} (h : execResetNRise s = .next s') : s'.cfg = s.cfg := by
  unfold execResetNRise at h
  simp only [Host.Outcome.next.injEq] at h
  subst h
  exact (by simp [apply_ite State.cfg])
theorem execReboot_keeps (p : Port) {s s' : State} (h : execReboot p s = .next s') : Keeps s s' := by
  unfold execReboot at h
  simp only [Host.Outcome.next.injEq] at h
  subst h
  exact State.whenReadyOrRecovery_keeps s _ fun t => t.reboot_keeps ..
theorem execWatchdogExpiry_keeps {s s' : State} (h : execWatchdogExpiry s = .next s') : Keeps s s' := by
  unfold execWatchdogExpiry at h
  simp only [Host.Outcome.next.injEq] at h
  subst h
  exact .ite (fun _ => .rfl') fun _ => s.coldReset_keeps ..
theorem execPowerLoss_keeps {s s' : State} (h : execPowerLoss s = .next s') : Keeps s s' := by
  unfold execPowerLoss at h
  simp only [Host.Outcome.next.injEq] at h
  subst h
  exact State.powerLost_keeps s
theorem execPowerUpPhase_keeps (bad : List SlotId) {s s' : State} (h : execPowerUpPhase bad s = .next s') : Keeps s
    s' := by
  unfold execPowerUpPhase at h
  simp only [Host.Outcome.next.injEq] at h
  subst h
  exact s.powerUp_keeps ..
theorem execRegisterWrite_keeps (p : Port) (a : BusAccess) {s s' : State} (h : execRegisterWrite p a s = .next s') :
    Keeps s s' := by
  unfold execRegisterWrite at h
  simp only [Host.Outcome.next.injEq] at h
  subst h
  exact s.access_keeps ..
theorem execIdentityBlockRead_cfg (smbus : Bool) {s s' : State} (h : execIdentityBlockRead smbus s = .next
    s') : s'.cfg = s.cfg := by
  unfold execIdentityBlockRead at h
  simp only [Host.Outcome.next.injEq] at h
  subst h
  exact (by simp [apply_ite State.cfg])
theorem execDynamicAddressAssignment_cfg (addr : BitVec 7) {s s' : State} (h : execDynamicAddressAssignment
    addr s = .next s') : s'.cfg = s.cfg := by
  unfold execDynamicAddressAssignment at h
  simp only [Host.Outcome.next.injEq] at h
  subst h
  exact (by simp [apply_ite State.cfg])
theorem execSetEndpointId_cfg (i : MgmtIf) (eid : Byte) {s s' : State} (h : execSetEndpointId i eid s = .next
    s') : s'.cfg = s.cfg := by
  unfold execSetEndpointId at h
  simp only [Host.Outcome.next.injEq] at h
  subst h
  simp
theorem execGetEndpointId_cfg (i : MgmtIf) {s s' : State} (h : execGetEndpointId i s = .next s') : s'.cfg = s.cfg := by
  unfold execGetEndpointId at h
  simp only [Host.Outcome.next.injEq] at h
  subst h
  simp
theorem execGetMctpVersionSupport_cfg (i : MgmtIf) {s s' : State} (h : execGetMctpVersionSupport i s = .next
    s') : s'.cfg = s.cfg := by
  unfold execGetMctpVersionSupport at h
  simp only [Host.Outcome.next.injEq] at h
  subst h
  simp
theorem execGetMessageTypeSupport_cfg (i : MgmtIf) {s s' : State} (h : execGetMessageTypeSupport i s = .next
    s') : s'.cfg = s.cfg := by
  unfold execGetMessageTypeSupport at h
  simp only [Host.Outcome.next.injEq] at h
  subst h
  simp
theorem execGetpdr_cfg (i : MgmtIf) (handle : BitVec 32) {s s' : State} (h : execGetpdr i handle s = .next
    s') : s'.cfg = s.cfg := by
  unfold execGetpdr at h
  simp only [Host.Outcome.next.injEq] at h
  subst h
  simp
theorem execGetsensorreading_cfg (i : MgmtIf) (id : BitVec 16) {s s' : State} (h : execGetsensorreading i id s =
    .next s') : s'.cfg = s.cfg := by
  unfold execGetsensorreading at h
  simp only [Host.Outcome.next.injEq] at h
  subst h
  refine (State.pldm_cfg _ _ _ _ _ fun t => ?_)
  split
  · rename_i e; simp [State.numericSensor_to e]
  · simp
theorem execGetstatesensorreadings_cfg (i : MgmtIf) (id : BitVec 16) {s s' : State} (h : execGetstatesensorreadings i
    id s = .next s') : s'.cfg = s.cfg := by
  unfold execGetstatesensorreadings at h
  simp only [Host.Outcome.next.injEq] at h
  subst h
  exact (State.pldm_cfg _ _ _ _ _ fun t => by split <;> simp)
theorem execPldmBase_cfg (i : MgmtIf) (r : PldmBase) {s s' : State} (h : execPldmBase i r s = .next s') :
    s'.cfg = s.cfg := by
  unfold execPldmBase at h
  simp only [Host.Outcome.next.injEq] at h
  subst h
  simp
theorem execGetVersion_cfg (i : MgmtIf) {s s' : State} (h : execGetVersion i s = .next s') : s'.cfg = s.cfg := by
  unfold execGetVersion at h
  simp only [Host.Outcome.next.injEq] at h
  subst h
  simp
theorem execGetCapabilities_cfg (i : MgmtIf) {s s' : State} (h : execGetCapabilities i s = .next s') : s'.cfg = s.cfg
    := by
  unfold execGetCapabilities at h
  simp only [Host.Outcome.next.injEq] at h
  subst h
  simp
theorem execNegotiateAlgorithms_cfg (i : MgmtIf) (offered : Bool) {s s' : State} (h : execNegotiateAlgorithms
    i offered s = .next s') : s'.cfg = s.cfg := by
  unfold execNegotiateAlgorithms at h
  simp only [Host.Outcome.next.injEq] at h
  subst h
  exact (by simp [apply_ite State.cfg])
theorem execGetDigests_cfg (i : MgmtIf) {s s' : State} (h : execGetDigests i s = .next s') : s'.cfg = s.cfg := by
  unfold execGetDigests at h
  simp only [Host.Outcome.next.injEq] at h
  subst h
  simp
theorem execGetCertificate_cfg (i : MgmtIf) (slot : BitVec 4) (off len : BitVec 16) {s s' : State} (h :
    execGetCertificate i slot off len s = .next s') : s'.cfg = s.cfg := by
  unfold execGetCertificate at h
  simp only [Host.Outcome.next.injEq] at h
  subst h
  exact (by simp [apply_ite State.cfg])
theorem execSpdmChallenge_cfg (i : MgmtIf) (slot : BitVec 4) (nonce : BitVec 256) {s s' : State} (h :
    execSpdmChallenge i slot nonce s = .next s') : s'.cfg = s.cfg := by
  unfold execSpdmChallenge at h
  simp only [Host.Outcome.next.injEq] at h
  subst h
  exact (by simp [apply_ite State.cfg])
theorem execGetMeasurements_cfg (i : MgmtIf) (index : Byte) {s s' : State} (h : execGetMeasurements i index s = .next
    s') : s'.cfg = s.cfg := by
  unfold execGetMeasurements at h
  simp only [Host.Outcome.next.injEq] at h
  subst h
  exact (State.spdm_cfg _ _ _ fun t => State.spdmAfter_cfg _ _ _ _ fun t => by split <;> simp)
theorem execKeyExchange_cfg (i : MgmtIf) (_psk : Bool) {s s' : State} (h : execKeyExchange i _psk s = .next
    s') : s'.cfg = s.cfg := by
  unfold execKeyExchange at h
  simp only [Host.Outcome.next.injEq] at h
  subst h
  simp
theorem execDoeDiscovery_cfg (p : Port) (index : Byte) {s s' : State} (h : execDoeDiscovery p index s = .next
    s') : s'.cfg = s.cfg := by
  unfold execDoeDiscovery at h
  simp only [Host.Outcome.next.injEq] at h
  subst h
  simp
theorem execCxlTableAccess_cfg (p : Port) (entry : BitVec 16) {s s' : State} (h : execCxlTableAccess p entry
    s = .next s') : s'.cfg = s.cfg := by
  unfold execCxlTableAccess at h
  simp only [Host.Outcome.next.injEq] at h
  subst h
  simp
theorem execExtest_cfg (pins shift : List Bool) {s s' : State} (h : execExtest pins shift s = .next s') :
    s'.cfg = s.cfg := by
  unfold execExtest at h
  simp only [Host.Outcome.next.injEq] at h
  subst h
  simp
theorem execExtestPulse_cfg (pins shift : List Bool) {s s' : State} (h : execExtestPulse pins shift s = .next
    s') : s'.cfg = s.cfg := by
  unfold execExtestPulse at h
  simp only [Host.Outcome.next.injEq] at h
  subst h
  simp
theorem execExtestTrain_cfg (pins shift : List Bool) {s s' : State} (h : execExtestTrain pins shift s = .next
    s') : s'.cfg = s.cfg := by
  unfold execExtestTrain at h
  simp only [Host.Outcome.next.injEq] at h
  subst h
  simp
theorem execSamplePreload_cfg (pins shift : List Bool) {s s' : State} (h : execSamplePreload pins shift s =
    .next s') : s'.cfg = s.cfg := by
  unfold execSamplePreload at h
  simp only [Host.Outcome.next.injEq] at h
  subst h
  simp
theorem execIdcode_cfg {s s' : State} (h : execIdcode s = .next s') : s'.cfg = s.cfg := by
  unfold execIdcode at h
  simp only [Host.Outcome.next.injEq] at h
  subst h
  simp
theorem execClamp_cfg (shift : List Bool) {s s' : State} (h : execClamp shift s = .next s') : s'.cfg = s.cfg := by
  unfold execClamp at h
  simp only [Host.Outcome.next.injEq] at h
  subst h
  simp
theorem execHighz_cfg (shift : List Bool) {s s' : State} (h : execHighz shift s = .next s') : s'.cfg = s.cfg := by
  unfold execHighz at h
  simp only [Host.Outcome.next.injEq] at h
  subst h
  simp
theorem execBypass_cfg (shift : List Bool) {s s' : State} (h : execBypass shift s = .next s') : s'.cfg = s.cfg := by
  unfold execBypass at h
  simp only [Host.Outcome.next.injEq] at h
  subst h
  simp
theorem execTrstN_cfg {s s' : State} (h : execTrstN s = .next s') : s'.cfg = s.cfg := by
  unfold execTrstN at h
  simp only [Host.Outcome.next.injEq] at h
  subst h
  simp

end Sys2Proof.Machine
end

