-- ==== Sys2Proof/Laws/State.lean ====
section
/-! SUPPORT. What each update of the state leaves alone: one lemma per field per update, so that no proof unfolds a record
update. -/

namespace Sys2Proof.Machine

variable (s : State)

/-! ### `State.setGal` -/

@[simp] theorem State.setGal_dev (g : Nat) (x : Gallery) : (s.setGal g x).dev = s.dev := rfl
@[simp] theorem State.setGal_tb (g : Nat) (x : Gallery) : (s.setGal g x).tb = s.tb := rfl
@[simp] theorem State.setGal_pace (g : Nat) (x : Gallery) : (s.setGal g x).pace = s.pace := rfl
@[simp] theorem State.setGal_portA (g : Nat) (x : Gallery) : (s.setGal g x).portA = s.portA := rfl
@[simp] theorem State.setGal_portB (g : Nat) (x : Gallery) : (s.setGal g x).portB = s.portB := rfl
@[simp] theorem State.setGal_keeper (g : Nat) (x : Gallery) : (s.setGal g x).keeper = s.keeper := rfl
@[simp] theorem State.setGal_ledger (g : Nat) (x : Gallery) : (s.setGal g x).ledger = s.ledger := rfl
@[simp] theorem State.setGal_presence (g : Nat) (x : Gallery) : (s.setGal g x).presence = s.presence := rfl
@[simp] theorem State.setGal_wos (g : Nat) (x : Gallery) : (s.setGal g x).wos = s.wos := rfl
@[simp] theorem State.setGal_nextWo (g : Nat) (x : Gallery) : (s.setGal g x).nextWo = s.nextWo := rfl
@[simp] theorem State.setGal_rrGal (g : Nat) (x : Gallery) : (s.setGal g x).rrGal = s.rrGal := rfl
@[simp] theorem State.setGal_held (g : Nat) (x : Gallery) : (s.setGal g x).held = s.held := rfl
@[simp] theorem State.setGal_shared (g : Nat) (x : Gallery) : (s.setGal g x).shared = s.shared := rfl
@[simp] theorem State.setGal_lostLines (g : Nat) (x : Gallery) : (s.setGal g x).lostLines = s.lostLines := rfl
@[simp] theorem State.setGal_sparesUsed (g : Nat) (x : Gallery) : (s.setGal g x).sparesUsed = s.sparesUsed := rfl
@[simp] theorem State.setGal_sparesNoted (g : Nat) (x : Gallery) : (s.setGal g x).sparesNoted = s.sparesNoted := rfl
@[simp] theorem State.setGal_hearths (g : Nat) (x : Gallery) : (s.setGal g x).hearths = s.hearths := rfl
@[simp] theorem State.setGal_cabinets (g : Nat) (x : Gallery) : (s.setGal g x).cabinets = s.cabinets := rfl
@[simp] theorem State.setGal_pieces (g : Nat) (x : Gallery) : (s.setGal g x).pieces = s.pieces := rfl
@[simp] theorem State.setGal_nextPiece (g : Nat) (x : Gallery) : (s.setGal g x).nextPiece = s.nextPiece := rfl
@[simp] theorem State.setGal_accs (g : Nat) (x : Gallery) : (s.setGal g x).accs = s.accs := rfl
@[simp] theorem State.setGal_nextAcc (g : Nat) (x : Gallery) : (s.setGal g x).nextAcc = s.nextAcc := rfl
@[simp] theorem State.setGal_bays (g : Nat) (x : Gallery) : (s.setGal g x).bays = s.bays := rfl
@[simp] theorem State.setGal_acc (g : Nat) (x : Gallery) : (s.setGal g x).acc = s.acc := rfl
@[simp] theorem State.setGal_fen (g : Nat) (x : Gallery) : (s.setGal g x).fen = s.fen := rfl
@[simp] theorem State.setGal_mgmt (g : Nat) (x : Gallery) : (s.setGal g x).mgmt = s.mgmt := rfl
@[simp] theorem State.setGal_tap (g : Nat) (x : Gallery) : (s.setGal g x).tap = s.tap := rfl
@[simp] theorem State.setGal_faults (g : Nat) (x : Gallery) : (s.setGal g x).faults = s.faults := rfl
@[simp] theorem State.setGal_out (g : Nat) (x : Gallery) : (s.setGal g x).out = s.out := rfl
@[simp] theorem State.setGal_free (g : Nat) (x : Gallery) : (s.setGal g x).free = s.free := rfl
@[simp] theorem State.setGal_pending (g : Nat) (x : Gallery) : (s.setGal g x).pending = s.pending := rfl

/-! ### `State.setQueue` -/

@[simp] theorem State.setQueue_dev (g q : Nat) (y : Queue) : (s.setQueue g q y).dev = s.dev := rfl
@[simp] theorem State.setQueue_tb (g q : Nat) (y : Queue) : (s.setQueue g q y).tb = s.tb := rfl
@[simp] theorem State.setQueue_pace (g q : Nat) (y : Queue) : (s.setQueue g q y).pace = s.pace := rfl
@[simp] theorem State.setQueue_portA (g q : Nat) (y : Queue) : (s.setQueue g q y).portA = s.portA := rfl
@[simp] theorem State.setQueue_portB (g q : Nat) (y : Queue) : (s.setQueue g q y).portB = s.portB := rfl
@[simp] theorem State.setQueue_keeper (g q : Nat) (y : Queue) : (s.setQueue g q y).keeper = s.keeper := rfl
@[simp] theorem State.setQueue_ledger (g q : Nat) (y : Queue) : (s.setQueue g q y).ledger = s.ledger := rfl
@[simp] theorem State.setQueue_presence (g q : Nat) (y : Queue) : (s.setQueue g q y).presence = s.presence := rfl
@[simp] theorem State.setQueue_wos (g q : Nat) (y : Queue) : (s.setQueue g q y).wos = s.wos := rfl
@[simp] theorem State.setQueue_nextWo (g q : Nat) (y : Queue) : (s.setQueue g q y).nextWo = s.nextWo := rfl
@[simp] theorem State.setQueue_rrGal (g q : Nat) (y : Queue) : (s.setQueue g q y).rrGal = s.rrGal := rfl
@[simp] theorem State.setQueue_held (g q : Nat) (y : Queue) : (s.setQueue g q y).held = s.held := rfl
@[simp] theorem State.setQueue_shared (g q : Nat) (y : Queue) : (s.setQueue g q y).shared = s.shared := rfl
@[simp] theorem State.setQueue_lostLines (g q : Nat) (y : Queue) : (s.setQueue g q y).lostLines = s.lostLines := rfl
@[simp] theorem State.setQueue_sparesUsed (g q : Nat) (y : Queue) : (s.setQueue g q y).sparesUsed = s.sparesUsed := rfl
@[simp] theorem State.setQueue_sparesNoted (g q : Nat) (y : Queue) : (s.setQueue g q y).sparesNoted = s.sparesNoted := rfl
@[simp] theorem State.setQueue_hearths (g q : Nat) (y : Queue) : (s.setQueue g q y).hearths = s.hearths := rfl
@[simp] theorem State.setQueue_cabinets (g q : Nat) (y : Queue) : (s.setQueue g q y).cabinets = s.cabinets := rfl
@[simp] theorem State.setQueue_pieces (g q : Nat) (y : Queue) : (s.setQueue g q y).pieces = s.pieces := rfl
@[simp] theorem State.setQueue_nextPiece (g q : Nat) (y : Queue) : (s.setQueue g q y).nextPiece = s.nextPiece := rfl
@[simp] theorem State.setQueue_accs (g q : Nat) (y : Queue) : (s.setQueue g q y).accs = s.accs := rfl
@[simp] theorem State.setQueue_nextAcc (g q : Nat) (y : Queue) : (s.setQueue g q y).nextAcc = s.nextAcc := rfl
@[simp] theorem State.setQueue_bays (g q : Nat) (y : Queue) : (s.setQueue g q y).bays = s.bays := rfl
@[simp] theorem State.setQueue_acc (g q : Nat) (y : Queue) : (s.setQueue g q y).acc = s.acc := rfl
@[simp] theorem State.setQueue_fen (g q : Nat) (y : Queue) : (s.setQueue g q y).fen = s.fen := rfl
@[simp] theorem State.setQueue_mgmt (g q : Nat) (y : Queue) : (s.setQueue g q y).mgmt = s.mgmt := rfl
@[simp] theorem State.setQueue_tap (g q : Nat) (y : Queue) : (s.setQueue g q y).tap = s.tap := rfl
@[simp] theorem State.setQueue_faults (g q : Nat) (y : Queue) : (s.setQueue g q y).faults = s.faults := rfl
@[simp] theorem State.setQueue_out (g q : Nat) (y : Queue) : (s.setQueue g q y).out = s.out := rfl
@[simp] theorem State.setQueue_free (g q : Nat) (y : Queue) : (s.setQueue g q y).free = s.free := rfl
@[simp] theorem State.setQueue_pending (g q : Nat) (y : Queue) : (s.setQueue g q y).pending = s.pending := rfl

/-! ### `State.setHearth` -/

@[simp] theorem State.setHearth_dev (h : Nat) (x : Hearth) : (s.setHearth h x).dev = s.dev := rfl
@[simp] theorem State.setHearth_tb (h : Nat) (x : Hearth) : (s.setHearth h x).tb = s.tb := rfl
@[simp] theorem State.setHearth_pace (h : Nat) (x : Hearth) : (s.setHearth h x).pace = s.pace := rfl
@[simp] theorem State.setHearth_portA (h : Nat) (x : Hearth) : (s.setHearth h x).portA = s.portA := rfl
@[simp] theorem State.setHearth_portB (h : Nat) (x : Hearth) : (s.setHearth h x).portB = s.portB := rfl
@[simp] theorem State.setHearth_keeper (h : Nat) (x : Hearth) : (s.setHearth h x).keeper = s.keeper := rfl
@[simp] theorem State.setHearth_ledger (h : Nat) (x : Hearth) : (s.setHearth h x).ledger = s.ledger := rfl
@[simp] theorem State.setHearth_gals (h : Nat) (x : Hearth) : (s.setHearth h x).gals = s.gals := rfl
@[simp] theorem State.setHearth_presence (h : Nat) (x : Hearth) : (s.setHearth h x).presence = s.presence := rfl
@[simp] theorem State.setHearth_wos (h : Nat) (x : Hearth) : (s.setHearth h x).wos = s.wos := rfl
@[simp] theorem State.setHearth_nextWo (h : Nat) (x : Hearth) : (s.setHearth h x).nextWo = s.nextWo := rfl
@[simp] theorem State.setHearth_rrGal (h : Nat) (x : Hearth) : (s.setHearth h x).rrGal = s.rrGal := rfl
@[simp] theorem State.setHearth_held (h : Nat) (x : Hearth) : (s.setHearth h x).held = s.held := rfl
@[simp] theorem State.setHearth_shared (h : Nat) (x : Hearth) : (s.setHearth h x).shared = s.shared := rfl
@[simp] theorem State.setHearth_lostLines (h : Nat) (x : Hearth) : (s.setHearth h x).lostLines = s.lostLines := rfl
@[simp] theorem State.setHearth_sparesUsed (h : Nat) (x : Hearth) : (s.setHearth h x).sparesUsed = s.sparesUsed := rfl
@[simp] theorem State.setHearth_sparesNoted (h : Nat) (x : Hearth) : (s.setHearth h x).sparesNoted = s.sparesNoted := rfl
@[simp] theorem State.setHearth_cabinets (h : Nat) (x : Hearth) : (s.setHearth h x).cabinets = s.cabinets := rfl
@[simp] theorem State.setHearth_pieces (h : Nat) (x : Hearth) : (s.setHearth h x).pieces = s.pieces := rfl
@[simp] theorem State.setHearth_nextPiece (h : Nat) (x : Hearth) : (s.setHearth h x).nextPiece = s.nextPiece := rfl
@[simp] theorem State.setHearth_accs (h : Nat) (x : Hearth) : (s.setHearth h x).accs = s.accs := rfl
@[simp] theorem State.setHearth_nextAcc (h : Nat) (x : Hearth) : (s.setHearth h x).nextAcc = s.nextAcc := rfl
@[simp] theorem State.setHearth_bays (h : Nat) (x : Hearth) : (s.setHearth h x).bays = s.bays := rfl
@[simp] theorem State.setHearth_acc (h : Nat) (x : Hearth) : (s.setHearth h x).acc = s.acc := rfl
@[simp] theorem State.setHearth_fen (h : Nat) (x : Hearth) : (s.setHearth h x).fen = s.fen := rfl
@[simp] theorem State.setHearth_mgmt (h : Nat) (x : Hearth) : (s.setHearth h x).mgmt = s.mgmt := rfl
@[simp] theorem State.setHearth_tap (h : Nat) (x : Hearth) : (s.setHearth h x).tap = s.tap := rfl
@[simp] theorem State.setHearth_faults (h : Nat) (x : Hearth) : (s.setHearth h x).faults = s.faults := rfl
@[simp] theorem State.setHearth_out (h : Nat) (x : Hearth) : (s.setHearth h x).out = s.out := rfl
@[simp] theorem State.setHearth_free (h : Nat) (x : Hearth) : (s.setHearth h x).free = s.free := rfl
@[simp] theorem State.setHearth_pending (h : Nat) (x : Hearth) : (s.setHearth h x).pending = s.pending := rfl

/-! ### `State.setStoker` -/

@[simp] theorem State.setStoker_dev (h k : Nat) (y : Stoker) : (s.setStoker h k y).dev = s.dev := rfl
@[simp] theorem State.setStoker_tb (h k : Nat) (y : Stoker) : (s.setStoker h k y).tb = s.tb := rfl
@[simp] theorem State.setStoker_pace (h k : Nat) (y : Stoker) : (s.setStoker h k y).pace = s.pace := rfl
@[simp] theorem State.setStoker_portA (h k : Nat) (y : Stoker) : (s.setStoker h k y).portA = s.portA := rfl
@[simp] theorem State.setStoker_portB (h k : Nat) (y : Stoker) : (s.setStoker h k y).portB = s.portB := rfl
@[simp] theorem State.setStoker_keeper (h k : Nat) (y : Stoker) : (s.setStoker h k y).keeper = s.keeper := rfl
@[simp] theorem State.setStoker_ledger (h k : Nat) (y : Stoker) : (s.setStoker h k y).ledger = s.ledger := rfl
@[simp] theorem State.setStoker_gals (h k : Nat) (y : Stoker) : (s.setStoker h k y).gals = s.gals := rfl
@[simp] theorem State.setStoker_presence (h k : Nat) (y : Stoker) : (s.setStoker h k y).presence = s.presence := rfl
@[simp] theorem State.setStoker_wos (h k : Nat) (y : Stoker) : (s.setStoker h k y).wos = s.wos := rfl
@[simp] theorem State.setStoker_nextWo (h k : Nat) (y : Stoker) : (s.setStoker h k y).nextWo = s.nextWo := rfl
@[simp] theorem State.setStoker_rrGal (h k : Nat) (y : Stoker) : (s.setStoker h k y).rrGal = s.rrGal := rfl
@[simp] theorem State.setStoker_held (h k : Nat) (y : Stoker) : (s.setStoker h k y).held = s.held := rfl
@[simp] theorem State.setStoker_shared (h k : Nat) (y : Stoker) : (s.setStoker h k y).shared = s.shared := rfl
@[simp] theorem State.setStoker_lostLines (h k : Nat) (y : Stoker) : (s.setStoker h k y).lostLines = s.lostLines := rfl
@[simp] theorem State.setStoker_sparesUsed (h k : Nat) (y : Stoker) : (s.setStoker h k y).sparesUsed = s.sparesUsed := rfl
@[simp] theorem State.setStoker_sparesNoted (h k : Nat) (y : Stoker) : (s.setStoker h k y).sparesNoted = s.sparesNoted := rfl
@[simp] theorem State.setStoker_cabinets (h k : Nat) (y : Stoker) : (s.setStoker h k y).cabinets = s.cabinets := rfl
@[simp] theorem State.setStoker_pieces (h k : Nat) (y : Stoker) : (s.setStoker h k y).pieces = s.pieces := rfl
@[simp] theorem State.setStoker_nextPiece (h k : Nat) (y : Stoker) : (s.setStoker h k y).nextPiece = s.nextPiece := rfl
@[simp] theorem State.setStoker_accs (h k : Nat) (y : Stoker) : (s.setStoker h k y).accs = s.accs := rfl
@[simp] theorem State.setStoker_nextAcc (h k : Nat) (y : Stoker) : (s.setStoker h k y).nextAcc = s.nextAcc := rfl
@[simp] theorem State.setStoker_bays (h k : Nat) (y : Stoker) : (s.setStoker h k y).bays = s.bays := rfl
@[simp] theorem State.setStoker_acc (h k : Nat) (y : Stoker) : (s.setStoker h k y).acc = s.acc := rfl
@[simp] theorem State.setStoker_fen (h k : Nat) (y : Stoker) : (s.setStoker h k y).fen = s.fen := rfl
@[simp] theorem State.setStoker_mgmt (h k : Nat) (y : Stoker) : (s.setStoker h k y).mgmt = s.mgmt := rfl
@[simp] theorem State.setStoker_tap (h k : Nat) (y : Stoker) : (s.setStoker h k y).tap = s.tap := rfl
@[simp] theorem State.setStoker_faults (h k : Nat) (y : Stoker) : (s.setStoker h k y).faults = s.faults := rfl
@[simp] theorem State.setStoker_out (h k : Nat) (y : Stoker) : (s.setStoker h k y).out = s.out := rfl
@[simp] theorem State.setStoker_free (h k : Nat) (y : Stoker) : (s.setStoker h k y).free = s.free := rfl
@[simp] theorem State.setStoker_pending (h k : Nat) (y : Stoker) : (s.setStoker h k y).pending = s.pending := rfl

/-! ### `State.updHearth` -/

@[simp] theorem State.updHearth_dev (h : Nat) (f : Hearth → Hearth) : (s.updHearth h f).dev = s.dev := rfl
@[simp] theorem State.updHearth_tb (h : Nat) (f : Hearth → Hearth) : (s.updHearth h f).tb = s.tb := rfl
@[simp] theorem State.updHearth_pace (h : Nat) (f : Hearth → Hearth) : (s.updHearth h f).pace = s.pace := rfl
@[simp] theorem State.updHearth_portA (h : Nat) (f : Hearth → Hearth) : (s.updHearth h f).portA = s.portA := rfl
@[simp] theorem State.updHearth_portB (h : Nat) (f : Hearth → Hearth) : (s.updHearth h f).portB = s.portB := rfl
@[simp] theorem State.updHearth_keeper (h : Nat) (f : Hearth → Hearth) : (s.updHearth h f).keeper = s.keeper := rfl
@[simp] theorem State.updHearth_ledger (h : Nat) (f : Hearth → Hearth) : (s.updHearth h f).ledger = s.ledger := rfl
@[simp] theorem State.updHearth_gals (h : Nat) (f : Hearth → Hearth) : (s.updHearth h f).gals = s.gals := rfl
@[simp] theorem State.updHearth_presence (h : Nat) (f : Hearth → Hearth) : (s.updHearth h f).presence = s.presence := rfl
@[simp] theorem State.updHearth_wos (h : Nat) (f : Hearth → Hearth) : (s.updHearth h f).wos = s.wos := rfl
@[simp] theorem State.updHearth_nextWo (h : Nat) (f : Hearth → Hearth) : (s.updHearth h f).nextWo = s.nextWo := rfl
@[simp] theorem State.updHearth_rrGal (h : Nat) (f : Hearth → Hearth) : (s.updHearth h f).rrGal = s.rrGal := rfl
@[simp] theorem State.updHearth_held (h : Nat) (f : Hearth → Hearth) : (s.updHearth h f).held = s.held := rfl
@[simp] theorem State.updHearth_shared (h : Nat) (f : Hearth → Hearth) : (s.updHearth h f).shared = s.shared := rfl
@[simp] theorem State.updHearth_lostLines (h : Nat) (f : Hearth → Hearth) : (s.updHearth h f).lostLines = s.lostLines := rfl
@[simp] theorem State.updHearth_sparesUsed (h : Nat) (f : Hearth → Hearth) : (s.updHearth h f).sparesUsed = s.sparesUsed := rfl
@[simp] theorem State.updHearth_sparesNoted (h : Nat) (f : Hearth → Hearth) : (s.updHearth h f).sparesNoted = s.sparesNoted := rfl
@[simp] theorem State.updHearth_cabinets (h : Nat) (f : Hearth → Hearth) : (s.updHearth h f).cabinets = s.cabinets := rfl
@[simp] theorem State.updHearth_pieces (h : Nat) (f : Hearth → Hearth) : (s.updHearth h f).pieces = s.pieces := rfl
@[simp] theorem State.updHearth_nextPiece (h : Nat) (f : Hearth → Hearth) : (s.updHearth h f).nextPiece = s.nextPiece := rfl
@[simp] theorem State.updHearth_accs (h : Nat) (f : Hearth → Hearth) : (s.updHearth h f).accs = s.accs := rfl
@[simp] theorem State.updHearth_nextAcc (h : Nat) (f : Hearth → Hearth) : (s.updHearth h f).nextAcc = s.nextAcc := rfl
@[simp] theorem State.updHearth_bays (h : Nat) (f : Hearth → Hearth) : (s.updHearth h f).bays = s.bays := rfl
@[simp] theorem State.updHearth_acc (h : Nat) (f : Hearth → Hearth) : (s.updHearth h f).acc = s.acc := rfl
@[simp] theorem State.updHearth_fen (h : Nat) (f : Hearth → Hearth) : (s.updHearth h f).fen = s.fen := rfl
@[simp] theorem State.updHearth_mgmt (h : Nat) (f : Hearth → Hearth) : (s.updHearth h f).mgmt = s.mgmt := rfl
@[simp] theorem State.updHearth_tap (h : Nat) (f : Hearth → Hearth) : (s.updHearth h f).tap = s.tap := rfl
@[simp] theorem State.updHearth_faults (h : Nat) (f : Hearth → Hearth) : (s.updHearth h f).faults = s.faults := rfl
@[simp] theorem State.updHearth_out (h : Nat) (f : Hearth → Hearth) : (s.updHearth h f).out = s.out := rfl
@[simp] theorem State.updHearth_free (h : Nat) (f : Hearth → Hearth) : (s.updHearth h f).free = s.free := rfl
@[simp] theorem State.updHearth_pending (h : Nat) (f : Hearth → Hearth) : (s.updHearth h f).pending = s.pending := rfl

/-! ### `State.updStoker` -/

@[simp] theorem State.updStoker_dev (h k : Nat) (f : Stoker → Stoker) : (s.updStoker h k f).dev = s.dev := rfl
@[simp] theorem State.updStoker_tb (h k : Nat) (f : Stoker → Stoker) : (s.updStoker h k f).tb = s.tb := rfl
@[simp] theorem State.updStoker_pace (h k : Nat) (f : Stoker → Stoker) : (s.updStoker h k f).pace = s.pace := rfl
@[simp] theorem State.updStoker_portA (h k : Nat) (f : Stoker → Stoker) : (s.updStoker h k f).portA = s.portA := rfl
@[simp] theorem State.updStoker_portB (h k : Nat) (f : Stoker → Stoker) : (s.updStoker h k f).portB = s.portB := rfl
@[simp] theorem State.updStoker_keeper (h k : Nat) (f : Stoker → Stoker) : (s.updStoker h k f).keeper = s.keeper := rfl
@[simp] theorem State.updStoker_ledger (h k : Nat) (f : Stoker → Stoker) : (s.updStoker h k f).ledger = s.ledger := rfl
@[simp] theorem State.updStoker_gals (h k : Nat) (f : Stoker → Stoker) : (s.updStoker h k f).gals = s.gals := rfl
@[simp] theorem State.updStoker_presence (h k : Nat) (f : Stoker → Stoker) : (s.updStoker h k f).presence = s.presence := rfl
@[simp] theorem State.updStoker_wos (h k : Nat) (f : Stoker → Stoker) : (s.updStoker h k f).wos = s.wos := rfl
@[simp] theorem State.updStoker_nextWo (h k : Nat) (f : Stoker → Stoker) : (s.updStoker h k f).nextWo = s.nextWo := rfl
@[simp] theorem State.updStoker_rrGal (h k : Nat) (f : Stoker → Stoker) : (s.updStoker h k f).rrGal = s.rrGal := rfl
@[simp] theorem State.updStoker_held (h k : Nat) (f : Stoker → Stoker) : (s.updStoker h k f).held = s.held := rfl
@[simp] theorem State.updStoker_shared (h k : Nat) (f : Stoker → Stoker) : (s.updStoker h k f).shared = s.shared := rfl
@[simp] theorem State.updStoker_lostLines (h k : Nat) (f : Stoker → Stoker) : (s.updStoker h k f).lostLines = s.lostLines := rfl
@[simp] theorem State.updStoker_sparesUsed (h k : Nat) (f : Stoker → Stoker) : (s.updStoker h k f).sparesUsed = s.sparesUsed := rfl
@[simp] theorem State.updStoker_sparesNoted (h k : Nat) (f : Stoker → Stoker) : (s.updStoker h k f).sparesNoted = s.sparesNoted := rfl
@[simp] theorem State.updStoker_cabinets (h k : Nat) (f : Stoker → Stoker) : (s.updStoker h k f).cabinets = s.cabinets := rfl
@[simp] theorem State.updStoker_pieces (h k : Nat) (f : Stoker → Stoker) : (s.updStoker h k f).pieces = s.pieces := rfl
@[simp] theorem State.updStoker_nextPiece (h k : Nat) (f : Stoker → Stoker) : (s.updStoker h k f).nextPiece = s.nextPiece := rfl
@[simp] theorem State.updStoker_accs (h k : Nat) (f : Stoker → Stoker) : (s.updStoker h k f).accs = s.accs := rfl
@[simp] theorem State.updStoker_nextAcc (h k : Nat) (f : Stoker → Stoker) : (s.updStoker h k f).nextAcc = s.nextAcc := rfl
@[simp] theorem State.updStoker_bays (h k : Nat) (f : Stoker → Stoker) : (s.updStoker h k f).bays = s.bays := rfl
@[simp] theorem State.updStoker_acc (h k : Nat) (f : Stoker → Stoker) : (s.updStoker h k f).acc = s.acc := rfl
@[simp] theorem State.updStoker_fen (h k : Nat) (f : Stoker → Stoker) : (s.updStoker h k f).fen = s.fen := rfl
@[simp] theorem State.updStoker_mgmt (h k : Nat) (f : Stoker → Stoker) : (s.updStoker h k f).mgmt = s.mgmt := rfl
@[simp] theorem State.updStoker_tap (h k : Nat) (f : Stoker → Stoker) : (s.updStoker h k f).tap = s.tap := rfl
@[simp] theorem State.updStoker_faults (h k : Nat) (f : Stoker → Stoker) : (s.updStoker h k f).faults = s.faults := rfl
@[simp] theorem State.updStoker_out (h k : Nat) (f : Stoker → Stoker) : (s.updStoker h k f).out = s.out := rfl
@[simp] theorem State.updStoker_free (h k : Nat) (f : Stoker → Stoker) : (s.updStoker h k f).free = s.free := rfl
@[simp] theorem State.updStoker_pending (h k : Nat) (f : Stoker → Stoker) : (s.updStoker h k f).pending = s.pending := rfl

/-! ### `State.setBay` -/

@[simp] theorem State.setBay_dev (b : Nat) (x : Bay) : (s.setBay b x).dev = s.dev := rfl
@[simp] theorem State.setBay_tb (b : Nat) (x : Bay) : (s.setBay b x).tb = s.tb := rfl
@[simp] theorem State.setBay_pace (b : Nat) (x : Bay) : (s.setBay b x).pace = s.pace := rfl
@[simp] theorem State.setBay_portA (b : Nat) (x : Bay) : (s.setBay b x).portA = s.portA := rfl
@[simp] theorem State.setBay_portB (b : Nat) (x : Bay) : (s.setBay b x).portB = s.portB := rfl
@[simp] theorem State.setBay_keeper (b : Nat) (x : Bay) : (s.setBay b x).keeper = s.keeper := rfl
@[simp] theorem State.setBay_ledger (b : Nat) (x : Bay) : (s.setBay b x).ledger = s.ledger := rfl
@[simp] theorem State.setBay_gals (b : Nat) (x : Bay) : (s.setBay b x).gals = s.gals := rfl
@[simp] theorem State.setBay_presence (b : Nat) (x : Bay) : (s.setBay b x).presence = s.presence := rfl
@[simp] theorem State.setBay_wos (b : Nat) (x : Bay) : (s.setBay b x).wos = s.wos := rfl
@[simp] theorem State.setBay_nextWo (b : Nat) (x : Bay) : (s.setBay b x).nextWo = s.nextWo := rfl
@[simp] theorem State.setBay_rrGal (b : Nat) (x : Bay) : (s.setBay b x).rrGal = s.rrGal := rfl
@[simp] theorem State.setBay_held (b : Nat) (x : Bay) : (s.setBay b x).held = s.held := rfl
@[simp] theorem State.setBay_shared (b : Nat) (x : Bay) : (s.setBay b x).shared = s.shared := rfl
@[simp] theorem State.setBay_lostLines (b : Nat) (x : Bay) : (s.setBay b x).lostLines = s.lostLines := rfl
@[simp] theorem State.setBay_sparesUsed (b : Nat) (x : Bay) : (s.setBay b x).sparesUsed = s.sparesUsed := rfl
@[simp] theorem State.setBay_sparesNoted (b : Nat) (x : Bay) : (s.setBay b x).sparesNoted = s.sparesNoted := rfl
@[simp] theorem State.setBay_hearths (b : Nat) (x : Bay) : (s.setBay b x).hearths = s.hearths := rfl
@[simp] theorem State.setBay_cabinets (b : Nat) (x : Bay) : (s.setBay b x).cabinets = s.cabinets := rfl
@[simp] theorem State.setBay_pieces (b : Nat) (x : Bay) : (s.setBay b x).pieces = s.pieces := rfl
@[simp] theorem State.setBay_nextPiece (b : Nat) (x : Bay) : (s.setBay b x).nextPiece = s.nextPiece := rfl
@[simp] theorem State.setBay_accs (b : Nat) (x : Bay) : (s.setBay b x).accs = s.accs := rfl
@[simp] theorem State.setBay_nextAcc (b : Nat) (x : Bay) : (s.setBay b x).nextAcc = s.nextAcc := rfl
@[simp] theorem State.setBay_acc (b : Nat) (x : Bay) : (s.setBay b x).acc = s.acc := rfl
@[simp] theorem State.setBay_fen (b : Nat) (x : Bay) : (s.setBay b x).fen = s.fen := rfl
@[simp] theorem State.setBay_mgmt (b : Nat) (x : Bay) : (s.setBay b x).mgmt = s.mgmt := rfl
@[simp] theorem State.setBay_tap (b : Nat) (x : Bay) : (s.setBay b x).tap = s.tap := rfl
@[simp] theorem State.setBay_faults (b : Nat) (x : Bay) : (s.setBay b x).faults = s.faults := rfl
@[simp] theorem State.setBay_out (b : Nat) (x : Bay) : (s.setBay b x).out = s.out := rfl
@[simp] theorem State.setBay_free (b : Nat) (x : Bay) : (s.setBay b x).free = s.free := rfl
@[simp] theorem State.setBay_pending (b : Nat) (x : Bay) : (s.setBay b x).pending = s.pending := rfl

/-! ### `State.updBay` -/

@[simp] theorem State.updBay_dev (b : Nat) (f : Bay → Bay) : (s.updBay b f).dev = s.dev := rfl
@[simp] theorem State.updBay_tb (b : Nat) (f : Bay → Bay) : (s.updBay b f).tb = s.tb := rfl
@[simp] theorem State.updBay_pace (b : Nat) (f : Bay → Bay) : (s.updBay b f).pace = s.pace := rfl
@[simp] theorem State.updBay_portA (b : Nat) (f : Bay → Bay) : (s.updBay b f).portA = s.portA := rfl
@[simp] theorem State.updBay_portB (b : Nat) (f : Bay → Bay) : (s.updBay b f).portB = s.portB := rfl
@[simp] theorem State.updBay_keeper (b : Nat) (f : Bay → Bay) : (s.updBay b f).keeper = s.keeper := rfl
@[simp] theorem State.updBay_ledger (b : Nat) (f : Bay → Bay) : (s.updBay b f).ledger = s.ledger := rfl
@[simp] theorem State.updBay_gals (b : Nat) (f : Bay → Bay) : (s.updBay b f).gals = s.gals := rfl
@[simp] theorem State.updBay_presence (b : Nat) (f : Bay → Bay) : (s.updBay b f).presence = s.presence := rfl
@[simp] theorem State.updBay_wos (b : Nat) (f : Bay → Bay) : (s.updBay b f).wos = s.wos := rfl
@[simp] theorem State.updBay_nextWo (b : Nat) (f : Bay → Bay) : (s.updBay b f).nextWo = s.nextWo := rfl
@[simp] theorem State.updBay_rrGal (b : Nat) (f : Bay → Bay) : (s.updBay b f).rrGal = s.rrGal := rfl
@[simp] theorem State.updBay_held (b : Nat) (f : Bay → Bay) : (s.updBay b f).held = s.held := rfl
@[simp] theorem State.updBay_shared (b : Nat) (f : Bay → Bay) : (s.updBay b f).shared = s.shared := rfl
@[simp] theorem State.updBay_lostLines (b : Nat) (f : Bay → Bay) : (s.updBay b f).lostLines = s.lostLines := rfl
@[simp] theorem State.updBay_sparesUsed (b : Nat) (f : Bay → Bay) : (s.updBay b f).sparesUsed = s.sparesUsed := rfl
@[simp] theorem State.updBay_sparesNoted (b : Nat) (f : Bay → Bay) : (s.updBay b f).sparesNoted = s.sparesNoted := rfl
@[simp] theorem State.updBay_hearths (b : Nat) (f : Bay → Bay) : (s.updBay b f).hearths = s.hearths := rfl
@[simp] theorem State.updBay_cabinets (b : Nat) (f : Bay → Bay) : (s.updBay b f).cabinets = s.cabinets := rfl
@[simp] theorem State.updBay_pieces (b : Nat) (f : Bay → Bay) : (s.updBay b f).pieces = s.pieces := rfl
@[simp] theorem State.updBay_nextPiece (b : Nat) (f : Bay → Bay) : (s.updBay b f).nextPiece = s.nextPiece := rfl
@[simp] theorem State.updBay_accs (b : Nat) (f : Bay → Bay) : (s.updBay b f).accs = s.accs := rfl
@[simp] theorem State.updBay_nextAcc (b : Nat) (f : Bay → Bay) : (s.updBay b f).nextAcc = s.nextAcc := rfl
@[simp] theorem State.updBay_acc (b : Nat) (f : Bay → Bay) : (s.updBay b f).acc = s.acc := rfl
@[simp] theorem State.updBay_fen (b : Nat) (f : Bay → Bay) : (s.updBay b f).fen = s.fen := rfl
@[simp] theorem State.updBay_mgmt (b : Nat) (f : Bay → Bay) : (s.updBay b f).mgmt = s.mgmt := rfl
@[simp] theorem State.updBay_tap (b : Nat) (f : Bay → Bay) : (s.updBay b f).tap = s.tap := rfl
@[simp] theorem State.updBay_faults (b : Nat) (f : Bay → Bay) : (s.updBay b f).faults = s.faults := rfl
@[simp] theorem State.updBay_out (b : Nat) (f : Bay → Bay) : (s.updBay b f).out = s.out := rfl
@[simp] theorem State.updBay_free (b : Nat) (f : Bay → Bay) : (s.updBay b f).free = s.free := rfl
@[simp] theorem State.updBay_pending (b : Nat) (f : Bay → Bay) : (s.updBay b f).pending = s.pending := rfl

/-! ### `State.setCabinet` -/

@[simp] theorem State.setCabinet_dev (q : Nat) (x : Cabinet) : (s.setCabinet q x).dev = s.dev := rfl
@[simp] theorem State.setCabinet_tb (q : Nat) (x : Cabinet) : (s.setCabinet q x).tb = s.tb := rfl
@[simp] theorem State.setCabinet_pace (q : Nat) (x : Cabinet) : (s.setCabinet q x).pace = s.pace := rfl
@[simp] theorem State.setCabinet_portA (q : Nat) (x : Cabinet) : (s.setCabinet q x).portA = s.portA := rfl
@[simp] theorem State.setCabinet_portB (q : Nat) (x : Cabinet) : (s.setCabinet q x).portB = s.portB := rfl
@[simp] theorem State.setCabinet_keeper (q : Nat) (x : Cabinet) : (s.setCabinet q x).keeper = s.keeper := rfl
@[simp] theorem State.setCabinet_ledger (q : Nat) (x : Cabinet) : (s.setCabinet q x).ledger = s.ledger := rfl
@[simp] theorem State.setCabinet_gals (q : Nat) (x : Cabinet) : (s.setCabinet q x).gals = s.gals := rfl
@[simp] theorem State.setCabinet_presence (q : Nat) (x : Cabinet) : (s.setCabinet q x).presence = s.presence := rfl
@[simp] theorem State.setCabinet_wos (q : Nat) (x : Cabinet) : (s.setCabinet q x).wos = s.wos := rfl
@[simp] theorem State.setCabinet_nextWo (q : Nat) (x : Cabinet) : (s.setCabinet q x).nextWo = s.nextWo := rfl
@[simp] theorem State.setCabinet_rrGal (q : Nat) (x : Cabinet) : (s.setCabinet q x).rrGal = s.rrGal := rfl
@[simp] theorem State.setCabinet_held (q : Nat) (x : Cabinet) : (s.setCabinet q x).held = s.held := rfl
@[simp] theorem State.setCabinet_shared (q : Nat) (x : Cabinet) : (s.setCabinet q x).shared = s.shared := rfl
@[simp] theorem State.setCabinet_lostLines (q : Nat) (x : Cabinet) : (s.setCabinet q x).lostLines = s.lostLines := rfl
@[simp] theorem State.setCabinet_sparesUsed (q : Nat) (x : Cabinet) : (s.setCabinet q x).sparesUsed = s.sparesUsed := rfl
@[simp] theorem State.setCabinet_sparesNoted (q : Nat) (x : Cabinet) : (s.setCabinet q x).sparesNoted = s.sparesNoted := rfl
@[simp] theorem State.setCabinet_hearths (q : Nat) (x : Cabinet) : (s.setCabinet q x).hearths = s.hearths := rfl
@[simp] theorem State.setCabinet_pieces (q : Nat) (x : Cabinet) : (s.setCabinet q x).pieces = s.pieces := rfl
@[simp] theorem State.setCabinet_nextPiece (q : Nat) (x : Cabinet) : (s.setCabinet q x).nextPiece = s.nextPiece := rfl
@[simp] theorem State.setCabinet_accs (q : Nat) (x : Cabinet) : (s.setCabinet q x).accs = s.accs := rfl
@[simp] theorem State.setCabinet_nextAcc (q : Nat) (x : Cabinet) : (s.setCabinet q x).nextAcc = s.nextAcc := rfl
@[simp] theorem State.setCabinet_bays (q : Nat) (x : Cabinet) : (s.setCabinet q x).bays = s.bays := rfl
@[simp] theorem State.setCabinet_acc (q : Nat) (x : Cabinet) : (s.setCabinet q x).acc = s.acc := rfl
@[simp] theorem State.setCabinet_fen (q : Nat) (x : Cabinet) : (s.setCabinet q x).fen = s.fen := rfl
@[simp] theorem State.setCabinet_mgmt (q : Nat) (x : Cabinet) : (s.setCabinet q x).mgmt = s.mgmt := rfl
@[simp] theorem State.setCabinet_tap (q : Nat) (x : Cabinet) : (s.setCabinet q x).tap = s.tap := rfl
@[simp] theorem State.setCabinet_faults (q : Nat) (x : Cabinet) : (s.setCabinet q x).faults = s.faults := rfl
@[simp] theorem State.setCabinet_out (q : Nat) (x : Cabinet) : (s.setCabinet q x).out = s.out := rfl
@[simp] theorem State.setCabinet_free (q : Nat) (x : Cabinet) : (s.setCabinet q x).free = s.free := rfl
@[simp] theorem State.setCabinet_pending (q : Nat) (x : Cabinet) : (s.setCabinet q x).pending = s.pending := rfl

/-! ### `State.send` -/

@[simp] theorem State.send_dev (o : Out) : (s.send o).dev = s.dev := rfl
@[simp] theorem State.send_tb (o : Out) : (s.send o).tb = s.tb := rfl
@[simp] theorem State.send_pace (o : Out) : (s.send o).pace = s.pace := rfl
@[simp] theorem State.send_portA (o : Out) : (s.send o).portA = s.portA := rfl
@[simp] theorem State.send_portB (o : Out) : (s.send o).portB = s.portB := rfl
@[simp] theorem State.send_keeper (o : Out) : (s.send o).keeper = s.keeper := rfl
@[simp] theorem State.send_ledger (o : Out) : (s.send o).ledger = s.ledger := rfl
@[simp] theorem State.send_gals (o : Out) : (s.send o).gals = s.gals := rfl
@[simp] theorem State.send_presence (o : Out) : (s.send o).presence = s.presence := rfl
@[simp] theorem State.send_wos (o : Out) : (s.send o).wos = s.wos := rfl
@[simp] theorem State.send_nextWo (o : Out) : (s.send o).nextWo = s.nextWo := rfl
@[simp] theorem State.send_rrGal (o : Out) : (s.send o).rrGal = s.rrGal := rfl
@[simp] theorem State.send_held (o : Out) : (s.send o).held = s.held := rfl
@[simp] theorem State.send_shared (o : Out) : (s.send o).shared = s.shared := rfl
@[simp] theorem State.send_lostLines (o : Out) : (s.send o).lostLines = s.lostLines := rfl
@[simp] theorem State.send_sparesUsed (o : Out) : (s.send o).sparesUsed = s.sparesUsed := rfl
@[simp] theorem State.send_sparesNoted (o : Out) : (s.send o).sparesNoted = s.sparesNoted := rfl
@[simp] theorem State.send_hearths (o : Out) : (s.send o).hearths = s.hearths := rfl
@[simp] theorem State.send_cabinets (o : Out) : (s.send o).cabinets = s.cabinets := rfl
@[simp] theorem State.send_pieces (o : Out) : (s.send o).pieces = s.pieces := rfl
@[simp] theorem State.send_nextPiece (o : Out) : (s.send o).nextPiece = s.nextPiece := rfl
@[simp] theorem State.send_accs (o : Out) : (s.send o).accs = s.accs := rfl
@[simp] theorem State.send_nextAcc (o : Out) : (s.send o).nextAcc = s.nextAcc := rfl
@[simp] theorem State.send_bays (o : Out) : (s.send o).bays = s.bays := rfl
@[simp] theorem State.send_acc (o : Out) : (s.send o).acc = s.acc := rfl
@[simp] theorem State.send_fen (o : Out) : (s.send o).fen = s.fen := rfl
@[simp] theorem State.send_mgmt (o : Out) : (s.send o).mgmt = s.mgmt := rfl
@[simp] theorem State.send_tap (o : Out) : (s.send o).tap = s.tap := rfl
@[simp] theorem State.send_faults (o : Out) : (s.send o).faults = s.faults := rfl
@[simp] theorem State.send_free (o : Out) : (s.send o).free = s.free := rfl
@[simp] theorem State.send_pending (o : Out) : (s.send o).pending = s.pending := rfl

/-! ### `State.updWo` -/

@[simp] theorem State.updWo_dev (n : Nat) (f : WorkOrder → WorkOrder) : (s.updWo n f).dev = s.dev := rfl
@[simp] theorem State.updWo_tb (n : Nat) (f : WorkOrder → WorkOrder) : (s.updWo n f).tb = s.tb := rfl
@[simp] theorem State.updWo_pace (n : Nat) (f : WorkOrder → WorkOrder) : (s.updWo n f).pace = s.pace := rfl
@[simp] theorem State.updWo_portA (n : Nat) (f : WorkOrder → WorkOrder) : (s.updWo n f).portA = s.portA := rfl
@[simp] theorem State.updWo_portB (n : Nat) (f : WorkOrder → WorkOrder) : (s.updWo n f).portB = s.portB := rfl
@[simp] theorem State.updWo_keeper (n : Nat) (f : WorkOrder → WorkOrder) : (s.updWo n f).keeper = s.keeper := rfl
@[simp] theorem State.updWo_ledger (n : Nat) (f : WorkOrder → WorkOrder) : (s.updWo n f).ledger = s.ledger := rfl
@[simp] theorem State.updWo_gals (n : Nat) (f : WorkOrder → WorkOrder) : (s.updWo n f).gals = s.gals := rfl
@[simp] theorem State.updWo_presence (n : Nat) (f : WorkOrder → WorkOrder) : (s.updWo n f).presence = s.presence := rfl
@[simp] theorem State.updWo_nextWo (n : Nat) (f : WorkOrder → WorkOrder) : (s.updWo n f).nextWo = s.nextWo := rfl
@[simp] theorem State.updWo_rrGal (n : Nat) (f : WorkOrder → WorkOrder) : (s.updWo n f).rrGal = s.rrGal := rfl
@[simp] theorem State.updWo_held (n : Nat) (f : WorkOrder → WorkOrder) : (s.updWo n f).held = s.held := rfl
@[simp] theorem State.updWo_shared (n : Nat) (f : WorkOrder → WorkOrder) : (s.updWo n f).shared = s.shared := rfl
@[simp] theorem State.updWo_lostLines (n : Nat) (f : WorkOrder → WorkOrder) : (s.updWo n f).lostLines = s.lostLines := rfl
@[simp] theorem State.updWo_sparesUsed (n : Nat) (f : WorkOrder → WorkOrder) : (s.updWo n f).sparesUsed = s.sparesUsed := rfl
@[simp] theorem State.updWo_sparesNoted (n : Nat) (f : WorkOrder → WorkOrder) : (s.updWo n f).sparesNoted = s.sparesNoted := rfl
@[simp] theorem State.updWo_hearths (n : Nat) (f : WorkOrder → WorkOrder) : (s.updWo n f).hearths = s.hearths := rfl
@[simp] theorem State.updWo_cabinets (n : Nat) (f : WorkOrder → WorkOrder) : (s.updWo n f).cabinets = s.cabinets := rfl
@[simp] theorem State.updWo_pieces (n : Nat) (f : WorkOrder → WorkOrder) : (s.updWo n f).pieces = s.pieces := rfl
@[simp] theorem State.updWo_nextPiece (n : Nat) (f : WorkOrder → WorkOrder) : (s.updWo n f).nextPiece = s.nextPiece := rfl
@[simp] theorem State.updWo_accs (n : Nat) (f : WorkOrder → WorkOrder) : (s.updWo n f).accs = s.accs := rfl
@[simp] theorem State.updWo_nextAcc (n : Nat) (f : WorkOrder → WorkOrder) : (s.updWo n f).nextAcc = s.nextAcc := rfl
@[simp] theorem State.updWo_bays (n : Nat) (f : WorkOrder → WorkOrder) : (s.updWo n f).bays = s.bays := rfl
@[simp] theorem State.updWo_acc (n : Nat) (f : WorkOrder → WorkOrder) : (s.updWo n f).acc = s.acc := rfl
@[simp] theorem State.updWo_fen (n : Nat) (f : WorkOrder → WorkOrder) : (s.updWo n f).fen = s.fen := rfl
@[simp] theorem State.updWo_mgmt (n : Nat) (f : WorkOrder → WorkOrder) : (s.updWo n f).mgmt = s.mgmt := rfl
@[simp] theorem State.updWo_tap (n : Nat) (f : WorkOrder → WorkOrder) : (s.updWo n f).tap = s.tap := rfl
@[simp] theorem State.updWo_faults (n : Nat) (f : WorkOrder → WorkOrder) : (s.updWo n f).faults = s.faults := rfl
@[simp] theorem State.updWo_out (n : Nat) (f : WorkOrder → WorkOrder) : (s.updWo n f).out = s.out := rfl
@[simp] theorem State.updWo_free (n : Nat) (f : WorkOrder → WorkOrder) : (s.updWo n f).free = s.free := rfl
@[simp] theorem State.updWo_pending (n : Nat) (f : WorkOrder → WorkOrder) : (s.updWo n f).pending = s.pending := rfl

/-! ### `State.setSlot` -/

@[simp] theorem State.setSlot_dev (n : Nat) (x : KeeperSlot) : (s.setSlot n x).dev = s.dev := rfl
@[simp] theorem State.setSlot_tb (n : Nat) (x : KeeperSlot) : (s.setSlot n x).tb = s.tb := rfl
@[simp] theorem State.setSlot_pace (n : Nat) (x : KeeperSlot) : (s.setSlot n x).pace = s.pace := rfl
@[simp] theorem State.setSlot_portA (n : Nat) (x : KeeperSlot) : (s.setSlot n x).portA = s.portA := rfl
@[simp] theorem State.setSlot_portB (n : Nat) (x : KeeperSlot) : (s.setSlot n x).portB = s.portB := rfl
@[simp] theorem State.setSlot_ledger (n : Nat) (x : KeeperSlot) : (s.setSlot n x).ledger = s.ledger := rfl
@[simp] theorem State.setSlot_gals (n : Nat) (x : KeeperSlot) : (s.setSlot n x).gals = s.gals := rfl
@[simp] theorem State.setSlot_presence (n : Nat) (x : KeeperSlot) : (s.setSlot n x).presence = s.presence := rfl
@[simp] theorem State.setSlot_wos (n : Nat) (x : KeeperSlot) : (s.setSlot n x).wos = s.wos := rfl
@[simp] theorem State.setSlot_nextWo (n : Nat) (x : KeeperSlot) : (s.setSlot n x).nextWo = s.nextWo := rfl
@[simp] theorem State.setSlot_rrGal (n : Nat) (x : KeeperSlot) : (s.setSlot n x).rrGal = s.rrGal := rfl
@[simp] theorem State.setSlot_held (n : Nat) (x : KeeperSlot) : (s.setSlot n x).held = s.held := rfl
@[simp] theorem State.setSlot_shared (n : Nat) (x : KeeperSlot) : (s.setSlot n x).shared = s.shared := rfl
@[simp] theorem State.setSlot_lostLines (n : Nat) (x : KeeperSlot) : (s.setSlot n x).lostLines = s.lostLines := rfl
@[simp] theorem State.setSlot_sparesUsed (n : Nat) (x : KeeperSlot) : (s.setSlot n x).sparesUsed = s.sparesUsed := rfl
@[simp] theorem State.setSlot_sparesNoted (n : Nat) (x : KeeperSlot) : (s.setSlot n x).sparesNoted = s.sparesNoted := rfl
@[simp] theorem State.setSlot_hearths (n : Nat) (x : KeeperSlot) : (s.setSlot n x).hearths = s.hearths := rfl
@[simp] theorem State.setSlot_cabinets (n : Nat) (x : KeeperSlot) : (s.setSlot n x).cabinets = s.cabinets := rfl
@[simp] theorem State.setSlot_pieces (n : Nat) (x : KeeperSlot) : (s.setSlot n x).pieces = s.pieces := rfl
@[simp] theorem State.setSlot_nextPiece (n : Nat) (x : KeeperSlot) : (s.setSlot n x).nextPiece = s.nextPiece := rfl
@[simp] theorem State.setSlot_accs (n : Nat) (x : KeeperSlot) : (s.setSlot n x).accs = s.accs := rfl
@[simp] theorem State.setSlot_nextAcc (n : Nat) (x : KeeperSlot) : (s.setSlot n x).nextAcc = s.nextAcc := rfl
@[simp] theorem State.setSlot_bays (n : Nat) (x : KeeperSlot) : (s.setSlot n x).bays = s.bays := rfl
@[simp] theorem State.setSlot_acc (n : Nat) (x : KeeperSlot) : (s.setSlot n x).acc = s.acc := rfl
@[simp] theorem State.setSlot_fen (n : Nat) (x : KeeperSlot) : (s.setSlot n x).fen = s.fen := rfl
@[simp] theorem State.setSlot_mgmt (n : Nat) (x : KeeperSlot) : (s.setSlot n x).mgmt = s.mgmt := rfl
@[simp] theorem State.setSlot_tap (n : Nat) (x : KeeperSlot) : (s.setSlot n x).tap = s.tap := rfl
@[simp] theorem State.setSlot_faults (n : Nat) (x : KeeperSlot) : (s.setSlot n x).faults = s.faults := rfl
@[simp] theorem State.setSlot_out (n : Nat) (x : KeeperSlot) : (s.setSlot n x).out = s.out := rfl
@[simp] theorem State.setSlot_free (n : Nat) (x : KeeperSlot) : (s.setSlot n x).free = s.free := rfl
@[simp] theorem State.setSlot_pending (n : Nat) (x : KeeperSlot) : (s.setSlot n x).pending = s.pending := rfl

/-! ### `State.setLine` -/

@[simp] theorem State.setLine_dev (l : Nat) (x : Line) : (s.setLine l x).dev = s.dev := rfl
@[simp] theorem State.setLine_tb (l : Nat) (x : Line) : (s.setLine l x).tb = s.tb := rfl
@[simp] theorem State.setLine_pace (l : Nat) (x : Line) : (s.setLine l x).pace = s.pace := rfl
@[simp] theorem State.setLine_portA (l : Nat) (x : Line) : (s.setLine l x).portA = s.portA := rfl
@[simp] theorem State.setLine_portB (l : Nat) (x : Line) : (s.setLine l x).portB = s.portB := rfl
@[simp] theorem State.setLine_keeper (l : Nat) (x : Line) : (s.setLine l x).keeper = s.keeper := rfl
@[simp] theorem State.setLine_gals (l : Nat) (x : Line) : (s.setLine l x).gals = s.gals := rfl
@[simp] theorem State.setLine_presence (l : Nat) (x : Line) : (s.setLine l x).presence = s.presence := rfl
@[simp] theorem State.setLine_wos (l : Nat) (x : Line) : (s.setLine l x).wos = s.wos := rfl
@[simp] theorem State.setLine_nextWo (l : Nat) (x : Line) : (s.setLine l x).nextWo = s.nextWo := rfl
@[simp] theorem State.setLine_rrGal (l : Nat) (x : Line) : (s.setLine l x).rrGal = s.rrGal := rfl
@[simp] theorem State.setLine_held (l : Nat) (x : Line) : (s.setLine l x).held = s.held := rfl
@[simp] theorem State.setLine_shared (l : Nat) (x : Line) : (s.setLine l x).shared = s.shared := rfl
@[simp] theorem State.setLine_lostLines (l : Nat) (x : Line) : (s.setLine l x).lostLines = s.lostLines := rfl
@[simp] theorem State.setLine_sparesUsed (l : Nat) (x : Line) : (s.setLine l x).sparesUsed = s.sparesUsed := rfl
@[simp] theorem State.setLine_sparesNoted (l : Nat) (x : Line) : (s.setLine l x).sparesNoted = s.sparesNoted := rfl
@[simp] theorem State.setLine_hearths (l : Nat) (x : Line) : (s.setLine l x).hearths = s.hearths := rfl
@[simp] theorem State.setLine_cabinets (l : Nat) (x : Line) : (s.setLine l x).cabinets = s.cabinets := rfl
@[simp] theorem State.setLine_pieces (l : Nat) (x : Line) : (s.setLine l x).pieces = s.pieces := rfl
@[simp] theorem State.setLine_nextPiece (l : Nat) (x : Line) : (s.setLine l x).nextPiece = s.nextPiece := rfl
@[simp] theorem State.setLine_accs (l : Nat) (x : Line) : (s.setLine l x).accs = s.accs := rfl
@[simp] theorem State.setLine_nextAcc (l : Nat) (x : Line) : (s.setLine l x).nextAcc = s.nextAcc := rfl
@[simp] theorem State.setLine_bays (l : Nat) (x : Line) : (s.setLine l x).bays = s.bays := rfl
@[simp] theorem State.setLine_acc (l : Nat) (x : Line) : (s.setLine l x).acc = s.acc := rfl
@[simp] theorem State.setLine_fen (l : Nat) (x : Line) : (s.setLine l x).fen = s.fen := rfl
@[simp] theorem State.setLine_mgmt (l : Nat) (x : Line) : (s.setLine l x).mgmt = s.mgmt := rfl
@[simp] theorem State.setLine_tap (l : Nat) (x : Line) : (s.setLine l x).tap = s.tap := rfl
@[simp] theorem State.setLine_faults (l : Nat) (x : Line) : (s.setLine l x).faults = s.faults := rfl
@[simp] theorem State.setLine_out (l : Nat) (x : Line) : (s.setLine l x).out = s.out := rfl
@[simp] theorem State.setLine_free (l : Nat) (x : Line) : (s.setLine l x).free = s.free := rfl
@[simp] theorem State.setLine_pending (l : Nat) (x : Line) : (s.setLine l x).pending = s.pending := rfl

/-! ### `State.updAcc'` -/

@[simp] theorem State.updAcc'_dev (f : AccState → AccState) : (s.updAcc' f).dev = s.dev := rfl
@[simp] theorem State.updAcc'_tb (f : AccState → AccState) : (s.updAcc' f).tb = s.tb := rfl
@[simp] theorem State.updAcc'_pace (f : AccState → AccState) : (s.updAcc' f).pace = s.pace := rfl
@[simp] theorem State.updAcc'_portA (f : AccState → AccState) : (s.updAcc' f).portA = s.portA := rfl
@[simp] theorem State.updAcc'_portB (f : AccState → AccState) : (s.updAcc' f).portB = s.portB := rfl
@[simp] theorem State.updAcc'_keeper (f : AccState → AccState) : (s.updAcc' f).keeper = s.keeper := rfl
@[simp] theorem State.updAcc'_ledger (f : AccState → AccState) : (s.updAcc' f).ledger = s.ledger := rfl
@[simp] theorem State.updAcc'_gals (f : AccState → AccState) : (s.updAcc' f).gals = s.gals := rfl
@[simp] theorem State.updAcc'_presence (f : AccState → AccState) : (s.updAcc' f).presence = s.presence := rfl
@[simp] theorem State.updAcc'_wos (f : AccState → AccState) : (s.updAcc' f).wos = s.wos := rfl
@[simp] theorem State.updAcc'_nextWo (f : AccState → AccState) : (s.updAcc' f).nextWo = s.nextWo := rfl
@[simp] theorem State.updAcc'_rrGal (f : AccState → AccState) : (s.updAcc' f).rrGal = s.rrGal := rfl
@[simp] theorem State.updAcc'_held (f : AccState → AccState) : (s.updAcc' f).held = s.held := rfl
@[simp] theorem State.updAcc'_shared (f : AccState → AccState) : (s.updAcc' f).shared = s.shared := rfl
@[simp] theorem State.updAcc'_lostLines (f : AccState → AccState) : (s.updAcc' f).lostLines = s.lostLines := rfl
@[simp] theorem State.updAcc'_sparesUsed (f : AccState → AccState) : (s.updAcc' f).sparesUsed = s.sparesUsed := rfl
@[simp] theorem State.updAcc'_sparesNoted (f : AccState → AccState) : (s.updAcc' f).sparesNoted = s.sparesNoted := rfl
@[simp] theorem State.updAcc'_hearths (f : AccState → AccState) : (s.updAcc' f).hearths = s.hearths := rfl
@[simp] theorem State.updAcc'_cabinets (f : AccState → AccState) : (s.updAcc' f).cabinets = s.cabinets := rfl
@[simp] theorem State.updAcc'_pieces (f : AccState → AccState) : (s.updAcc' f).pieces = s.pieces := rfl
@[simp] theorem State.updAcc'_nextPiece (f : AccState → AccState) : (s.updAcc' f).nextPiece = s.nextPiece := rfl
@[simp] theorem State.updAcc'_accs (f : AccState → AccState) : (s.updAcc' f).accs = s.accs := rfl
@[simp] theorem State.updAcc'_nextAcc (f : AccState → AccState) : (s.updAcc' f).nextAcc = s.nextAcc := rfl
@[simp] theorem State.updAcc'_bays (f : AccState → AccState) : (s.updAcc' f).bays = s.bays := rfl
@[simp] theorem State.updAcc'_fen (f : AccState → AccState) : (s.updAcc' f).fen = s.fen := rfl
@[simp] theorem State.updAcc'_mgmt (f : AccState → AccState) : (s.updAcc' f).mgmt = s.mgmt := rfl
@[simp] theorem State.updAcc'_tap (f : AccState → AccState) : (s.updAcc' f).tap = s.tap := rfl
@[simp] theorem State.updAcc'_faults (f : AccState → AccState) : (s.updAcc' f).faults = s.faults := rfl
@[simp] theorem State.updAcc'_out (f : AccState → AccState) : (s.updAcc' f).out = s.out := rfl
@[simp] theorem State.updAcc'_free (f : AccState → AccState) : (s.updAcc' f).free = s.free := rfl
@[simp] theorem State.updAcc'_pending (f : AccState → AccState) : (s.updAcc' f).pending = s.pending := rfl

/-! ### `State.updFen` -/

@[simp] theorem State.updFen_dev (f : FenState → FenState) : (s.updFen f).dev = s.dev := rfl
@[simp] theorem State.updFen_tb (f : FenState → FenState) : (s.updFen f).tb = s.tb := rfl
@[simp] theorem State.updFen_pace (f : FenState → FenState) : (s.updFen f).pace = s.pace := rfl
@[simp] theorem State.updFen_portA (f : FenState → FenState) : (s.updFen f).portA = s.portA := rfl
@[simp] theorem State.updFen_portB (f : FenState → FenState) : (s.updFen f).portB = s.portB := rfl
@[simp] theorem State.updFen_keeper (f : FenState → FenState) : (s.updFen f).keeper = s.keeper := rfl
@[simp] theorem State.updFen_ledger (f : FenState → FenState) : (s.updFen f).ledger = s.ledger := rfl
@[simp] theorem State.updFen_gals (f : FenState → FenState) : (s.updFen f).gals = s.gals := rfl
@[simp] theorem State.updFen_presence (f : FenState → FenState) : (s.updFen f).presence = s.presence := rfl
@[simp] theorem State.updFen_wos (f : FenState → FenState) : (s.updFen f).wos = s.wos := rfl
@[simp] theorem State.updFen_nextWo (f : FenState → FenState) : (s.updFen f).nextWo = s.nextWo := rfl
@[simp] theorem State.updFen_rrGal (f : FenState → FenState) : (s.updFen f).rrGal = s.rrGal := rfl
@[simp] theorem State.updFen_held (f : FenState → FenState) : (s.updFen f).held = s.held := rfl
@[simp] theorem State.updFen_shared (f : FenState → FenState) : (s.updFen f).shared = s.shared := rfl
@[simp] theorem State.updFen_lostLines (f : FenState → FenState) : (s.updFen f).lostLines = s.lostLines := rfl
@[simp] theorem State.updFen_sparesUsed (f : FenState → FenState) : (s.updFen f).sparesUsed = s.sparesUsed := rfl
@[simp] theorem State.updFen_sparesNoted (f : FenState → FenState) : (s.updFen f).sparesNoted = s.sparesNoted := rfl
@[simp] theorem State.updFen_hearths (f : FenState → FenState) : (s.updFen f).hearths = s.hearths := rfl
@[simp] theorem State.updFen_cabinets (f : FenState → FenState) : (s.updFen f).cabinets = s.cabinets := rfl
@[simp] theorem State.updFen_pieces (f : FenState → FenState) : (s.updFen f).pieces = s.pieces := rfl
@[simp] theorem State.updFen_nextPiece (f : FenState → FenState) : (s.updFen f).nextPiece = s.nextPiece := rfl
@[simp] theorem State.updFen_accs (f : FenState → FenState) : (s.updFen f).accs = s.accs := rfl
@[simp] theorem State.updFen_nextAcc (f : FenState → FenState) : (s.updFen f).nextAcc = s.nextAcc := rfl
@[simp] theorem State.updFen_bays (f : FenState → FenState) : (s.updFen f).bays = s.bays := rfl
@[simp] theorem State.updFen_acc (f : FenState → FenState) : (s.updFen f).acc = s.acc := rfl
@[simp] theorem State.updFen_mgmt (f : FenState → FenState) : (s.updFen f).mgmt = s.mgmt := rfl
@[simp] theorem State.updFen_tap (f : FenState → FenState) : (s.updFen f).tap = s.tap := rfl
@[simp] theorem State.updFen_faults (f : FenState → FenState) : (s.updFen f).faults = s.faults := rfl
@[simp] theorem State.updFen_out (f : FenState → FenState) : (s.updFen f).out = s.out := rfl
@[simp] theorem State.updFen_free (f : FenState → FenState) : (s.updFen f).free = s.free := rfl
@[simp] theorem State.updFen_pending (f : FenState → FenState) : (s.updFen f).pending = s.pending := rfl

/-! ### `State.setPaceHearth` -/

@[simp] theorem State.setPaceHearth_dev (h : Nat) (x : PaceHearth) : (s.setPaceHearth h x).dev = s.dev := rfl
@[simp] theorem State.setPaceHearth_tb (h : Nat) (x : PaceHearth) : (s.setPaceHearth h x).tb = s.tb := rfl
@[simp] theorem State.setPaceHearth_portA (h : Nat) (x : PaceHearth) : (s.setPaceHearth h x).portA = s.portA := rfl
@[simp] theorem State.setPaceHearth_portB (h : Nat) (x : PaceHearth) : (s.setPaceHearth h x).portB = s.portB := rfl
@[simp] theorem State.setPaceHearth_keeper (h : Nat) (x : PaceHearth) : (s.setPaceHearth h x).keeper = s.keeper := rfl
@[simp] theorem State.setPaceHearth_ledger (h : Nat) (x : PaceHearth) : (s.setPaceHearth h x).ledger = s.ledger := rfl
@[simp] theorem State.setPaceHearth_gals (h : Nat) (x : PaceHearth) : (s.setPaceHearth h x).gals = s.gals := rfl
@[simp] theorem State.setPaceHearth_presence (h : Nat) (x : PaceHearth) : (s.setPaceHearth h x).presence = s.presence := rfl
@[simp] theorem State.setPaceHearth_wos (h : Nat) (x : PaceHearth) : (s.setPaceHearth h x).wos = s.wos := rfl
@[simp] theorem State.setPaceHearth_nextWo (h : Nat) (x : PaceHearth) : (s.setPaceHearth h x).nextWo = s.nextWo := rfl
@[simp] theorem State.setPaceHearth_rrGal (h : Nat) (x : PaceHearth) : (s.setPaceHearth h x).rrGal = s.rrGal := rfl
@[simp] theorem State.setPaceHearth_held (h : Nat) (x : PaceHearth) : (s.setPaceHearth h x).held = s.held := rfl
@[simp] theorem State.setPaceHearth_shared (h : Nat) (x : PaceHearth) : (s.setPaceHearth h x).shared = s.shared := rfl
@[simp] theorem State.setPaceHearth_lostLines (h : Nat) (x : PaceHearth) : (s.setPaceHearth h x).lostLines = s.lostLines := rfl
@[simp] theorem State.setPaceHearth_sparesUsed (h : Nat) (x : PaceHearth) : (s.setPaceHearth h x).sparesUsed = s.sparesUsed := rfl
@[simp] theorem State.setPaceHearth_sparesNoted (h : Nat) (x : PaceHearth) : (s.setPaceHearth h x).sparesNoted = s.sparesNoted := rfl
@[simp] theorem State.setPaceHearth_hearths (h : Nat) (x : PaceHearth) : (s.setPaceHearth h x).hearths = s.hearths := rfl
@[simp] theorem State.setPaceHearth_cabinets (h : Nat) (x : PaceHearth) : (s.setPaceHearth h x).cabinets = s.cabinets := rfl
@[simp] theorem State.setPaceHearth_pieces (h : Nat) (x : PaceHearth) : (s.setPaceHearth h x).pieces = s.pieces := rfl
@[simp] theorem State.setPaceHearth_nextPiece (h : Nat) (x : PaceHearth) : (s.setPaceHearth h x).nextPiece = s.nextPiece := rfl
@[simp] theorem State.setPaceHearth_accs (h : Nat) (x : PaceHearth) : (s.setPaceHearth h x).accs = s.accs := rfl
@[simp] theorem State.setPaceHearth_nextAcc (h : Nat) (x : PaceHearth) : (s.setPaceHearth h x).nextAcc = s.nextAcc := rfl
@[simp] theorem State.setPaceHearth_bays (h : Nat) (x : PaceHearth) : (s.setPaceHearth h x).bays = s.bays := rfl
@[simp] theorem State.setPaceHearth_acc (h : Nat) (x : PaceHearth) : (s.setPaceHearth h x).acc = s.acc := rfl
@[simp] theorem State.setPaceHearth_fen (h : Nat) (x : PaceHearth) : (s.setPaceHearth h x).fen = s.fen := rfl
@[simp] theorem State.setPaceHearth_mgmt (h : Nat) (x : PaceHearth) : (s.setPaceHearth h x).mgmt = s.mgmt := rfl
@[simp] theorem State.setPaceHearth_tap (h : Nat) (x : PaceHearth) : (s.setPaceHearth h x).tap = s.tap := rfl
@[simp] theorem State.setPaceHearth_faults (h : Nat) (x : PaceHearth) : (s.setPaceHearth h x).faults = s.faults := rfl
@[simp] theorem State.setPaceHearth_out (h : Nat) (x : PaceHearth) : (s.setPaceHearth h x).out = s.out := rfl
@[simp] theorem State.setPaceHearth_free (h : Nat) (x : PaceHearth) : (s.setPaceHearth h x).free = s.free := rfl
@[simp] theorem State.setPaceHearth_pending (h : Nat) (x : PaceHearth) : (s.setPaceHearth h x).pending = s.pending := rfl

/-! ### `State.setPort` -/

@[simp] theorem State.setPort_dev (p : Port) (x : PortState) : (s.setPort p x).dev = s.dev := by cases p <;> rfl
@[simp] theorem State.setPort_tb (p : Port) (x : PortState) : (s.setPort p x).tb = s.tb := by cases p <;> rfl
@[simp] theorem State.setPort_pace (p : Port) (x : PortState) : (s.setPort p x).pace = s.pace := by cases p <;> rfl
@[simp] theorem State.setPort_keeper (p : Port) (x : PortState) : (s.setPort p x).keeper = s.keeper := by cases p <;> rfl
@[simp] theorem State.setPort_ledger (p : Port) (x : PortState) : (s.setPort p x).ledger = s.ledger := by cases p <;> rfl
@[simp] theorem State.setPort_gals (p : Port) (x : PortState) : (s.setPort p x).gals = s.gals := by cases p <;> rfl
@[simp] theorem State.setPort_presence (p : Port) (x : PortState) : (s.setPort p x).presence = s.presence := by cases p <;> rfl
@[simp] theorem State.setPort_wos (p : Port) (x : PortState) : (s.setPort p x).wos = s.wos := by cases p <;> rfl
@[simp] theorem State.setPort_nextWo (p : Port) (x : PortState) : (s.setPort p x).nextWo = s.nextWo := by cases p <;> rfl
@[simp] theorem State.setPort_rrGal (p : Port) (x : PortState) : (s.setPort p x).rrGal = s.rrGal := by cases p <;> rfl
@[simp] theorem State.setPort_held (p : Port) (x : PortState) : (s.setPort p x).held = s.held := by cases p <;> rfl
@[simp] theorem State.setPort_shared (p : Port) (x : PortState) : (s.setPort p x).shared = s.shared := by cases p <;> rfl
@[simp] theorem State.setPort_lostLines (p : Port) (x : PortState) : (s.setPort p x).lostLines = s.lostLines := by cases p <;> rfl
@[simp] theorem State.setPort_sparesUsed (p : Port) (x : PortState) : (s.setPort p x).sparesUsed = s.sparesUsed := by cases p <;> rfl
@[simp] theorem State.setPort_sparesNoted (p : Port) (x : PortState) : (s.setPort p x).sparesNoted = s.sparesNoted := by cases p <;> rfl
@[simp] theorem State.setPort_hearths (p : Port) (x : PortState) : (s.setPort p x).hearths = s.hearths := by cases p <;> rfl
@[simp] theorem State.setPort_cabinets (p : Port) (x : PortState) : (s.setPort p x).cabinets = s.cabinets := by cases p <;> rfl
@[simp] theorem State.setPort_pieces (p : Port) (x : PortState) : (s.setPort p x).pieces = s.pieces := by cases p <;> rfl
@[simp] theorem State.setPort_nextPiece (p : Port) (x : PortState) : (s.setPort p x).nextPiece = s.nextPiece := by cases p <;> rfl
@[simp] theorem State.setPort_accs (p : Port) (x : PortState) : (s.setPort p x).accs = s.accs := by cases p <;> rfl
@[simp] theorem State.setPort_nextAcc (p : Port) (x : PortState) : (s.setPort p x).nextAcc = s.nextAcc := by cases p <;> rfl
@[simp] theorem State.setPort_bays (p : Port) (x : PortState) : (s.setPort p x).bays = s.bays := by cases p <;> rfl
@[simp] theorem State.setPort_acc (p : Port) (x : PortState) : (s.setPort p x).acc = s.acc := by cases p <;> rfl
@[simp] theorem State.setPort_fen (p : Port) (x : PortState) : (s.setPort p x).fen = s.fen := by cases p <;> rfl
@[simp] theorem State.setPort_mgmt (p : Port) (x : PortState) : (s.setPort p x).mgmt = s.mgmt := by cases p <;> rfl
@[simp] theorem State.setPort_tap (p : Port) (x : PortState) : (s.setPort p x).tap = s.tap := by cases p <;> rfl
@[simp] theorem State.setPort_faults (p : Port) (x : PortState) : (s.setPort p x).faults = s.faults := by cases p <;> rfl
@[simp] theorem State.setPort_out (p : Port) (x : PortState) : (s.setPort p x).out = s.out := by cases p <;> rfl
@[simp] theorem State.setPort_free (p : Port) (x : PortState) : (s.setPort p x).free = s.free := by cases p <;> rfl
@[simp] theorem State.setPort_pending (p : Port) (x : PortState) : (s.setPort p x).pending = s.pending := by cases p <;> rfl

end Sys2Proof.Machine
end

