-- ==== Sys2Proof/Laws/Issue.lean ====
section
/-! SUPPORT. Parts of the state after they were written, and what the issue of one instruction does. -/

namespace Sys2Proof.Machine

open Sys2Proof.Safety

/-! ## Maps -/

theorem mget_mmap_of {α : Type} [DecidableEq α] (d : α) (f : Nat → α → α) (m : Sparse α) (lo k : Nat)
    (h : mwfFrom d lo m = true) (hd : f k d = d) : mget d (mmap d f m) k = f k (mget d m k) := by
  induction m generalizing lo with
  | nil => simp [mmap, mget, hd]
  | cons e m ih =>
    obtain ⟨k', v⟩ := e
    simp only [mwfFrom, Bool.and_eq_true, decide_eq_true_eq] at h
    unfold mmap
    by_cases hk : k = k'
    · by_cases hv : f k' v = d
      · subst hk
        rw [if_pos hv, ih (k + 1) h.2, mget_below d m (k + 1) k h.2 (by omega), hd]
        simp [mget, hv]
      · subst hk
        simp [hv, mget]
    · by_cases hv : f k' v = d
      · simp only [if_pos hv, mget, if_neg hk]
        exact ih (k' + 1) h.2
      · simp only [if_neg hv, mget, if_neg hk]
        exact ih (k' + 1) h.2

/-- A map changed at every key, read at one that keeps the default. -/
theorem mget_mmap {α : Type} [DecidableEq α] (d : α) (f : Nat → α → α) (m : Sparse α) (k : Nat) (h : mwf d m = true)
    (hd : f k d = d) : mget d (mmap d f m) k = f k (mget d m k) := mget_mmap_of d f m 0 k h hd

/-! ## Hearths and Stokers -/

variable (s : State)

@[simp] theorem State.setHearth_hearth_ne (h j : Nat) (x : Hearth) (hj : j ≠ h) : (s.setHearth h x).hearth j = s.hearth j := by
  simp [State.hearth, State.setHearth, hj]

theorem State.setHearth_hearth (h : Nat) (x : Hearth) (c : mwf {} s.hearths = true) : (s.setHearth h x).hearth h = x :=
  mget_mset_same _ _ _ _ c

@[simp] theorem Hearth.setStoker_stoker_ne (x : Hearth) (k j : Nat) (y : Stoker) (hj : j ≠ k) :
    (x.setStoker k y).stoker j = x.stoker j := by
  simp [Hearth.stoker, Hearth.setStoker, hj]

theorem Hearth.setStoker_stoker (x : Hearth) (k : Nat) (y : Stoker) (c : mwf {} x.stokers = true) :
    (x.setStoker k y).stoker k = y := mget_mset_same _ _ _ _ c

theorem Hearth.setStoker_eta (x : Hearth) (k : Nat) (y : Stoker) : x.setStoker k y = { x with stokers := (x.setStoker k y).stokers } := rfl

theorem Hearth.issued_stoker (x : Hearth) (k j : Nat) (c : mwf {} x.stokers = true) :
    (x.issued k).stoker j =
      { x.stoker j with yieldFor := if j = k then [] else (x.stoker j).yieldFor.filter fun i => decide (i ≠ k) } := by
  unfold Hearth.issued Hearth.stoker
  rw [mget_mmap _ _ _ _ c]
  by_cases hj : j = k <;> simp [hj]

theorem Hearth.issued_canon (x : Hearth) (k : Nat) (c : mwf {} x.stokers = true) : mwf {} (x.issued k).stokers = true :=
  mwf_mmap _ _ _ c

/-! ## The issue of an instruction -/

/-- The fields DSPACE and DST suit the way the instruction uses them. -/
def DstUse.fits (du : DstUse) (w : Nat) : Bool :=
  match du with
  | .none => decide (zDst w = 0) && decide (zSpace w = 0)
  | .reg => decide (zSpace w ≠ 3)
  | .handle => decide (zSpace w = 3)

/-- The register that is written waits for nothing either. -/
def DstUse.dst (du : DstUse) (w : Nat) : List Dst := match du with | .reg => [zDstReg w] | _ => []

/-- What becomes of an issued instruction. -/
def Issued.settle (r : Issued) (s : State) (h k : Nat) : State :=
  match r with
  | .next t => t.retired (s.stoker h k).wo
  | .park t => t
  | .fault code => s.faultIssue h k code
  | .hold => s
  | .queue t => t

/-- An instruction whose Stoker may issue it, whose word is legal and whose guard holds does what `run` says. -/
theorem State.issue_run {s : State} {h k cls op w e : Nat} {row : Nat → Bool} {du : DstUse} {legal : Nat → Nat → Bool}
    {bad : Nat → Bool} {uses : Nat → List Dst} {run : Nat → Nat → State → Issued}
    (hi : Issues s h k w e (uses w ++ du.dst w)) (hc : zClass w = cls) (ho : zOp w = op) (hr : row w = true)
    (hd : du.fits w = true) (hl : legal w e = true) (hf : zDstInFile w = true) (hb : bad w = false) :
    s.issue h k cls op row du legal bad uses run = (run w e (s.advance h k (if 32 ≤ op then 2 else 1))).settle s h k := by
  have hw : (s.hearth h).word ((s.hearth h).stoker k).pc = w := hi.word
  have he : zExt ((s.hearth h).word (((s.hearth h).stoker k).pc + 8)) = e := hi.ext
  have hin : ((s.hearth h).stoker k).inProgram ((s.hearth h).stoker k).pc = true := hi.inside
  have hg : ((s.hearth h).stoker k).preg (zPred w) ≠ zPneg w := hi.guard
  have hp : ((s.hearth h).stoker k).pend.contains (pDst (zPred w)) = false := by
    have := hi.ready (pDst (zPred w)) (by simp)
    simpa [State.stoker] using this
  have hu : ((uses w ++ du.dst w).any fun d => ((s.hearth h).stoker k).pend.contains d) = false := by
    rw [List.any_eq_false]
    intro d hd
    have := hi.ready d (by simp only [List.mem_cons]; exact .inr hd)
    simpa [State.stoker] using this
  have h2 : 32 ≤ op → ((s.hearth h).stoker k).inProgram (((s.hearth h).stoker k).pc + 8) = true
      ∧ zClass ((s.hearth h).word (((s.hearth h).stoker k).pc + 8)) = 0x3F := by
    intro h32
    exact hi.second (by omega)
  unfold State.issue Issued.settle State.stoker
  have two : decide (32 ≤ op) = true →
      ((s.hearth h).stoker k).inProgram (((s.hearth h).stoker k).pc + 8) = true
      ∧ zClass ((s.hearth h).word (((s.hearth h).stoker k).pc + 8)) = 0x3F := fun x => h2 (of_decide_eq_true x)
  by_cases h32 : 32 ≤ op <;> cases du <;> simp only [DstUse.fits] at hd <;>
    simp only [DstUse.dst, List.append_nil] at hu <;>
    simp only [hi.live, hi.free, hw, he, hin, hc, ho, hr, hl, hf, hb, hp, hd, hg, hu, h32, h2, ne_self_iff_false,
      decide_true, decide_false, Bool.or_self, Bool.not_true, Bool.false_and, Bool.true_and, Bool.false_eq_true,
      false_or, if_false, if_true, List.append_nil] <;> rfl

/-! ## The Stoker and the device after it -/

theorem State.setHearth_setHearth (h : Nat) (x y : Hearth) (c : mwf {} s.hearths = true) :
    (s.setHearth h x).setHearth h y = s.setHearth h y := by
  unfold State.setHearth
  simp only [mset_mset _ _ _ _ _ c]

theorem State.advance_eq (h k n : Nat) (c : Canon s) :
    s.advance h k n = s.setHearth h (((s.hearth h).issued k).setStoker k (past (s.stoker h k) n)) := by
  have hs := (c.hearth h).stokers
  unfold State.advance State.updStoker State.setStoker State.updHearth State.stoker
  rw [State.setHearth_hearth _ _ _ c.hearths, Hearth.issued_stoker _ _ _ hs, State.setHearth_setHearth _ _ _ _ c.hearths]
  simp only [past, if_true]

/-- The maps of Hearths, and of the Stokers of one Hearth, are in canonical form. -/
structure Neat (t : State) (h : Nat) : Prop where
  hearths : mwf {} t.hearths = true
  stokers : mwf {} (t.hearth h).stokers = true

theorem Safety.Canon.neat {s : State} (c : Canon s) (h : Nat) : Neat s h := ⟨c.hearths, (c.hearth h).stokers⟩

theorem Neat.setHearth {t : State} {h : Nat} (n : Neat t h) (x : Hearth) (c : mwf {} x.stokers = true) : Neat (t.setHearth h x) h :=
  ⟨mwf_mset _ _ _ _ n.hearths, by rw [State.setHearth_hearth _ _ _ n.hearths]; exact c⟩

theorem Neat.updStoker {t : State} {h : Nat} (n : Neat t h) (k : Nat) (f : Stoker → Stoker) : Neat (t.updStoker h k f) h :=
  n.setHearth _ (mwf_mset _ _ _ _ n.stokers)

theorem Neat.advance {t : State} {h : Nat} (n : Neat t h) (k m : Nat) : Neat (t.advance h k m) h :=
  (n.setHearth _ (Hearth.issued_canon _ _ n.stokers)).updStoker k _

theorem State.updStoker_stoker (h k : Nat) (f : Stoker → Stoker) (n : Neat s h) :
    (s.updStoker h k f).stoker h k = f (s.stoker h k) := by
  unfold State.updStoker State.setStoker State.stoker
  rw [State.setHearth_hearth _ _ _ n.hearths, Hearth.setStoker_stoker _ _ _ n.stokers]

theorem State.updStoker_stoker_ne (h k j : Nat) (f : Stoker → Stoker) (n : Neat s h) (hj : j ≠ k) :
    (s.updStoker h k f).stoker h j = s.stoker h j := by
  unfold State.updStoker State.setStoker State.stoker
  rw [State.setHearth_hearth _ _ _ n.hearths, Hearth.setStoker_stoker_ne _ _ _ _ hj]

theorem State.updStoker_hearth (h k : Nat) (f : Stoker → Stoker) (n : Neat s h) :
    (s.updStoker h k f).hearth h = (s.hearth h).setStoker k (f (s.stoker h k)) := by
  unfold State.updStoker State.setStoker
  rw [State.setHearth_hearth _ _ _ n.hearths]

theorem State.updStoker_hearth_ne (h k j : Nat) (f : Stoker → Stoker) (hj : j ≠ h) :
    (s.updStoker h k f).hearth j = s.hearth j := by
  unfold State.updStoker State.setStoker
  exact State.setHearth_hearth_ne _ _ _ _ hj

variable {s} {t u u' : State} {h k n : Nat} {z : Hearth} {y : Stoker} {d : Bool}

/-- The Stoker moves on. -/
theorem ran_advance (c : Canon s) : Ran s h k s (s.hearth h) (past (s.stoker h k) n) false (s.advance h k n) := by
  have hs := (c.hearth h).stokers
  have hi := Hearth.issued_canon (s.hearth h) k hs
  rw [State.advance_eq _ _ _ _ c]
  refine ⟨rfl, rfl, fun j hj => State.setHearth_hearth_ne _ _ _ _ hj, ?_, ?_, ?_⟩
  · rw [State.setHearth_hearth _ _ _ c.hearths]; rfl
  · intro j hj
    unfold State.stoker
    rw [State.setHearth_hearth _ _ _ c.hearths, Hearth.setStoker_stoker_ne _ _ _ _ hj, Hearth.issued_stoker _ _ _ hs, if_neg hj]
  · unfold State.stoker
    rw [State.setHearth_hearth _ _ _ c.hearths, Hearth.setStoker_stoker _ _ _ hi]

/-- The Stoker changes further. -/
theorem Safety.Ran.upd (r : Ran s h k u z y d t) (c : Neat t h) (f : Stoker → Stoker) :
    Ran s h k u z (f y) d (t.updStoker h k f) := by
  refine ⟨?_, r.orders, ?_, ?_, ?_, ?_⟩
  · conv_lhs => unfold State.updStoker State.setStoker State.setHearth; rw [r.device]
    rfl
  · intro j hj
    rw [State.updStoker_hearth_ne _ _ _ _ _ hj, r.elsewhere j hj]
  · rw [State.updStoker_hearth _ _ _ _ c, r.hearth]; rfl
  · intro j hj
    rw [State.updStoker_stoker_ne _ _ _ _ _ c hj, r.others j hj]
  · rw [State.updStoker_stoker _ _ _ _ c, r.self]

/-- Another part of the device changes. -/
theorem Safety.Ran.dev (r : Ran s h k u z y d t) (hw : u'.wos = u.wos) :
    Ran s h k u' z y d { u' with hearths := t.hearths, wos := t.wos } :=
  ⟨rfl, by rw [hw]; exact r.orders, r.elsewhere, r.hearth, r.others, r.self⟩

/-- The Hearth changes beside its Stokers. -/
theorem Safety.Ran.hearthUpd (r : Ran s h k u z y d t) (c : Neat t h) (x : Hearth) (hx : x.stokers = (t.hearth h).stokers) :
    Ran s h k u x y d (t.setHearth h x) := by
  have hst : ∀ j, (t.setHearth h x).stoker h j = t.stoker h j := by
    intro j
    unfold State.stoker
    rw [State.setHearth_hearth _ _ _ c.hearths]
    unfold Hearth.stoker
    rw [hx]
  refine ⟨?_, r.orders, ?_, ?_, ?_, ?_⟩
  · conv_lhs => unfold State.setHearth; rw [r.device]
    rfl
  · intro j hj
    rw [State.setHearth_hearth_ne _ _ _ _ hj, r.elsewhere j hj]
  · rw [State.setHearth_hearth _ _ _ c.hearths]
  · intro j hj
    rw [hst, r.others j hj]
  · rw [hst, r.self]

/-- The instruction retires. -/
theorem Safety.Ran.retire (r : Ran s h k u z y false t) : Ran s h k u z y true (t.retired (s.stoker h k).wo) := by
  refine ⟨?_, ?_, r.elsewhere, r.hearth, r.others, r.self⟩
  · conv_lhs => unfold State.retired State.updWo; rw [r.device]
    rfl
  · have := r.orders
    simp only [Bool.false_eq_true, if_false] at this
    simp only [State.retired, State.updWo, this, if_true]

end Sys2Proof.Machine
end

