-- ==== Sys2Proof/WellFormed.lean ====
section
/-! DEFINITION. Which commands are well formed: what the interface that carries a command can put into its operands. -/

namespace Sys2Proof

/-- Lines of the Exchange region at its largest, 64 MiB (R182). -/
def exchLines : Nat := 2 ^ 20

/-- The size of a BAR (Table 4-2). -/
def barBytes : Bar → Nat | .bar0 => 0x8000000 | .bar2 => 0x400000

/-- A register access lies in its BAR and moves 1 to 64 B. -/
def accessOk (a : BusAccess) : Bool :=
  decide (1 ≤ a.bytes) && decide (a.bytes ≤ 64) && decide (a.off + a.bytes ≤ barBytes a.bar)

/-- A configuration dword of 4 KiB, or one of 2,048 vectors. -/
def cfgOk : CfgReq → Bool
  | .read d => decide (d < 1024)
  | .write d _ => decide (d < 1024)
  | .msixEntry v _ _ _ => decide (v < 2048)
  | .msixControl _ _ | .cplTimeout _ | .cxlMem _ => true

/-- Host memory answers with as many bytes as were asked for. -/
def answerOk (a : HostAnswer) (n : Nat) : Bool :=
  match a with
  | .data bs => decide (bs.length = n)
  | .failed => true

/-- An M2S request names one 64 B line, and a write brings its bytes. -/
def m2sOk (r : M2SReq) : Bool :=
  decide (r.line < exchLines) && match r.op with | .write d => decide (d.length = 64) | _ => true

/-- A BAR4 access is at most the maximum payload size, with one enable for each byte (R163). -/
def bar4Ok (write : Bool) (off : Nat) (data : List Byte) (be : List Bool) : Bool :=
  decide (1 ≤ be.length) && decide (be.length ≤ 512) && decide (off + be.length ≤ 0x4000000)
    && (!write || decide (data.length = be.length))

/-- INDEX of a flit has 30 bits (Table 17-1). -/
def flitOk (h : FlitHdr) : Bool := decide (h.index < 2 ^ 30)

/-- A management reply carries what its operation returns (Table 16-2). -/
def replyOk (op : MgOp) (r : MgReply) : Bool :=
  match op, r with
  | _, .failed _ => true
  | .ident, .ident c _ _ _ => decide (c.length ≤ 4096)
  | .challenge, .challenge bs _ => decide (bs.length = 160)
  | .ledgerRead, .ledger _ _ => true
  | .metaRead, .seal _ | .metaRead, .record _ => true
  | .scrubStatus, .scrub _ => true
  | .ledgerCommit, .done | .metaWrite, .done | .retire, .done => true
  | _, _ => false

/-- The operands of a command are ones that its interface can carry. -/
def Instr.wellFormed : Instr → Bool
  | .registerWrite _ a => accessOk a
  | .configRequest _ r => cfgOk r
  | .paceWindowEnd cs => decide (cs.length = 48)
  | .thermalSample rs => decide (rs.length = 49)
  | .entryStage _ _ a _ => answerOk a 64
  | .m2sRequest _ r _ => m2sOk r
  | .bar4Access _ w off d be vs => bar4Ok w off d be && decide (vs.length ≤ 9)
  | .birsp _ l _ => decide (l < exchLines)
  | .memclnevct _ l => decide (l < exchLines)
  | .dirtyWriteBack _ l d => decide (l < exchLines) && decide (d.length = 64)
  | .biconflict _ l => decide (l < exchLines)
  | .snoopTimeout l => decide (l < exchLines)
  | .tileBroadcast _ _ _ _ row => decide (row < 1024)
  | .rdData _ _ _ d => decide (d.length = 512)
  | .mgRsp _ _ op r => replyOk op r
  | .folChalNonce _ n => decide (n.length = 48)
  | .putData _ h va d _ => flitOk h && decide (va < 2 ^ 52) && decide (d.length ≤ 224)
  | .getReq _ h va len => flitOk h && decide (va < 2 ^ 52) && decide (1 ≤ len)
  | .getData _ h d => flitOk h && decide (d.length ≤ 224)
  | .idle _ h => flitOk h
  | .xack _ h _ => flitOk h
  | .signal _ h va _ => flitOk h && decide (va < 2 ^ 52) && decide (va % 8 = 0)
  | .coll _ h _ _ _ es _ => flitOk h && decide (es.length ≤ 224)
  | .bringup _ h b => flitOk h && decide (b.hash.length = 48)
  | .timesync _ h _ => flitOk h
  | .mgmt _ h bs => flitOk h && decide (bs.length ≤ 224)
  | .leave _ h _ => flitOk h
  | .powerUpPhase bad => decide bad.Nodup
  | .timeNowRead .. | .timeSet .. | .ppsEdge .. | .holdoverEntry .. | .refTimeRelock .. | .paceVreq .. |
    .avsStatusPoll .. | .avsFrameFail .. | .pacePark .. | .hearthPark .. | .hearthWake .. | .galCreate .. |
    .galOpen .. | .quiesce .. | .quiesceDrained .. | .galReset .. | .release .. | .galResetDone .. |
    .galConfigWrite .. | .galKindleDeadline .. | .dbSqTail .. | .dbPush .. | .dbCqHead .. | .dbAbort .. |
    .dbResume .. | .dbFaultqHead .. | .entryFetch .. | .runDispatch .. | .stoveLoadDispatch .. | .placeDispatch .. |
    .qfenceRetire .. | .retire .. | .completionRecord .. | .msixPendingSend .. | .stokerFree .. | .stokerWake .. |
    .faultCommit .. | .perst .. | .hotReset .. | .linkDisable .. | .functionLevelReset .. | .d3hot .. |
    .portResetEnd .. | .dllDown .. | .dllUp .. | .portResetGraceExpiry .. | .hostCompletionTimeout .. |
    .keeperTake .. | .keeperGive .. | .keeperLeaseExpiry .. | .portAdopt .. | .ledgCfg .. | .catWrite .. |
    .invalidate .. | .catRead .. | .presFill .. | .presEmpty .. | .catPresSet .. | .catPresClr .. | .catPool .. |
    .catDrainDone .. | .pieceSend .. | .pieceComplete .. | .hrtPsMap .. | .fenceReq .. | .hrtPostRoute .. |
    .hrtReset .. | .nop .. | .jmp .. | .br .. | .call .. | .ret .. | .loop .. | .halt .. | .trap .. | .yield .. |
    .add .. | .sub .. | .mul .. | .and .. | .or .. | .xor .. | .shl .. | .shr .. | .sra .. | .min .. | .max .. |
    .cmpCc .. | .sel .. | .movi .. | .movhi .. | .moviX .. | .movhiX .. | .ld .. | .st .. | .ldarg .. | .fenceAcq .. |
    .fenceRel .. | .fenceFull .. | .flagSet .. | .flagAdd .. | .flagWaitCc .. | .flagReread .. | .damper .. |
    .damperRoundEnd .. | .timeRd .. | .paceRd .. | .strOpen .. | .strOpenL .. | .strOpenTags .. | .strPull .. |
    .strPush .. | .strWait .. | .strPos .. | .strClose .. | .streamHalt .. | .grtLoadb .. | .grtMm .. | .grtMmX .. |
    .grtZero .. | .grtZeroC .. | .positionClaimGrant .. | .claimRelease .. | .kindlingDeadline .. | .chainStart .. |
    .chainCommit .. | .fluSt .. | .fluStL .. | .flueDrain .. | .fluSte .. | .sprEmb .. | .sprEmbC .. | .sprMerge .. |
    .sprDroprd .. | .cabCall .. | .cabWait .. | .engineCallStart .. | .engineCallComplete .. | .stvLoad .. |
    .stvRun .. | .stvWait .. | .patternLoad .. | .stoveCallStart .. | .stoveCallComplete .. | .wrAck .. | .err .. |
    .folioLinkDown .. | .bayTimeout .. | .bayPresenceHeld .. | .bayPresenceLost .. | .adopt .. | .eject .. |
    .folRetire .. | .folExport .. | .accept .. | .folCommit .. | .ledgerCommitTimer .. | .scrubStatus .. |
    .folReset .. | .pwrWarnNFall .. | .pwrWarnNRelease .. | .fenlinePortDown .. | .fenlineTrained .. |
    .timesyncTimer .. | .epochAnnounceTimer .. | .fenCfgEpoch .. | .fenGal .. | .fenCtrlReset .. |
    .fenCtrlDisable .. | .ringEntryTake .. | .ringEntryComplete .. | .fenceGrate .. | .fenceEngine .. |
    .fenceStove .. | .forget .. | .returnSeal .. | .faultSealArm .. | .faultTail .. | .faultBookAppend .. |
    .conservatorUnlock .. | .install .. | .activate .. | .confirm .. | .reboot .. | .resetNLow .. | .resetNRise .. |
    .bayEnumerationSlot .. | .watchdogExpiry .. | .serdesRefclkLoss .. | .powerLoss .. | .identityBlockRead .. |
    .setEndpointId .. | .getEndpointId .. | .getMctpVersionSupport .. | .getMessageTypeSupport .. | .getpdr .. |
    .getsensorreading .. | .getstatesensorreadings .. | .getVersion .. | .getCapabilities .. |
    .negotiateAlgorithms .. | .getDigests .. | .getCertificate .. | .spdmChallenge .. | .getMeasurements .. |
    .keyExchange .. | .extest .. | .idcode .. | .samplePreload .. | .extestPulse .. | .extestTrain .. | .clamp .. |
    .highz .. | .bypass .. | .bayLinkTrained .. | .bootFlashOperationEnd .. | .baySupplyOff .. | .illegal .. |
    .doeDiscovery .. | .cxlTableAccess .. | .pldmBase .. | .dynamicAddressAssignment .. | .trstN .. => true

end Sys2Proof
end

