-- ==== Sys2Proof/Tests/Slice0.lean ====
section
/-! SUPPORT. Tests: ill-formed commands that the check refuses, values that the manual and its standards fix, and, for
every statement with hypotheses, states and operands that meet them. -/

namespace Sys2Proof.Tests

open Sys2Proof.Machine Sys2Proof.Safety Sys2Proof.Laws

set_option Elab.async false

/-! ## Ill-formed commands -/

def hdr : FlitHdr :=
  { seq := 0, ack := 0, nak := false, xoff := 0, crVc := 0, crCount := 0, src := 1, dst := 0, hops := 15, srcEpoch := 0
    dstEpoch := 0, xtag := 0, gallery := 1, index := 0, crcOk := true, replay := false }

def frame : FrameHdr := { seq := 0, ack := 0, nak := false, crcOk := true }

def collParams : CollParams := { op := 4, redOp := 0, group := 0, fmt := 0, walkL := 0, walkR := 0, shard := [] }

def bringup (n : Nat) : Bringup :=
  { hash := List.replicate n 0, zhema := 1, timeEpoch := 1, epoch := 0, unit := 0, devno := 1, valid := true, port := 0 }

theorem test_wf_refuses_access :
    (Instr.registerWrite .a ⟨.bar0, true, 0, 0, 0⟩).wellFormed = false ∧
    (Instr.registerWrite .a ⟨.bar0, true, 0, 65, 0⟩).wellFormed = false ∧
    (Instr.registerWrite .a ⟨.bar2, true, 0x3FFFFD, 4, 0⟩).wellFormed = false ∧
    (Instr.registerWrite .a ⟨.bar2, true, 0x3FFFFC, 4, 0⟩).wellFormed = true := by decide

theorem test_wf_refuses_config :
    (Instr.configRequest .a (.read 1024)).wellFormed = false ∧ (Instr.configRequest .a (.write 1024 0)).wellFormed = false ∧
    (Instr.configRequest .a (.msixEntry 2048 0 0 true)).wellFormed = false ∧
    (Instr.configRequest .a (.msixEntry 2047 0 0 true)).wellFormed = true := by decide

theorem test_wf_refuses_samples :
    (Instr.paceWindowEnd (List.replicate 47 0)).wellFormed = false ∧ (Instr.paceWindowEnd (List.replicate 48 0)).wellFormed = true ∧
    (Instr.thermalSample (List.replicate 48 0)).wellFormed = false ∧
    (Instr.thermalSample (List.replicate 49 0)).wellFormed = true := by decide

theorem test_wf_refuses_host :
    (Instr.entryStage 0 0 (.data (List.replicate 63 0)) .pass).wellFormed = false ∧
    (Instr.m2sRequest .a ⟨2 ^ 20, .readS⟩ .pass).wellFormed = false ∧ (Instr.m2sRequest .a ⟨0, .write []⟩ .pass).wellFormed = false ∧
    (Instr.bar4Access .a false 0 [] [] []).wellFormed = false ∧ (Instr.bar4Access .a true 0 [] [true] []).wellFormed = false ∧
    (Instr.bar4Access .a false 0x3FFFFFF [] [true, true] []).wellFormed = false ∧
    (Instr.bar4Access .a false 0 [] [true] (List.replicate 10 .pass)).wellFormed = false ∧
    (Instr.bar4Access .a false 0x3FFFFFE [] [true, true] [.pass]).wellFormed = true := by decide

theorem test_wf_refuses_lines :
    (Instr.birsp .a (2 ^ 20) .i).wellFormed = false ∧ (Instr.memclnevct .a (2 ^ 20)).wellFormed = false ∧
    (Instr.dirtyWriteBack .a 0 []).wellFormed = false ∧
    (Instr.dirtyWriteBack .a (2 ^ 20) (List.replicate 64 0)).wellFormed = false ∧
    (Instr.biconflict .a (2 ^ 20)).wellFormed = false ∧ (Instr.snoopTimeout (2 ^ 20)).wellFormed = false ∧
    (Instr.snoopTimeout (2 ^ 20 - 1)).wellFormed = true := by decide

theorem test_wf_refuses_units :
    (Instr.tileBroadcast 0 0 .pass .tally 1024).wellFormed = false ∧
    (Instr.powerUpPhase [.a, .a]).wellFormed = false ∧ (Instr.powerUpPhase [.a, .golden]).wellFormed = true := by decide

theorem test_wf_refuses_bays :
    (Instr.rdData 0 frame 0 []).wellFormed = false ∧ (Instr.folChalNonce 0 (List.replicate 47 0)).wellFormed = false ∧
    (Instr.mgRsp 0 frame .challenge (.challenge [] true)).wellFormed = false ∧
    (Instr.mgRsp 0 frame .ident .done).wellFormed = false ∧
    (Instr.mgRsp 0 frame .ident (.failed .busy)).wellFormed = true := by decide

theorem test_wf_refuses_flits :
    (Instr.idle 0 { hdr with index := 2 ^ 30 }).wellFormed = false ∧
    (Instr.putData 0 hdr (2 ^ 52) [] true).wellFormed = false ∧
    (Instr.putData 0 hdr 0 (List.replicate 225 (0, 0)) true).wellFormed = false ∧
    (Instr.getReq 0 hdr 0 0).wellFormed = false ∧ (Instr.getReq 0 hdr (2 ^ 52) 1).wellFormed = false ∧
    (Instr.getData 0 hdr (List.replicate 225 0)).wellFormed = false ∧
    (Instr.xack 0 { hdr with index := 2 ^ 30 } .done).wellFormed = false ∧ (Instr.signal 0 hdr 4 0).wellFormed = false ∧
    (Instr.coll 0 hdr 0 collParams 0 (List.replicate 225 0) true).wellFormed = false ∧
    (Instr.bringup 0 hdr (bringup 47)).wellFormed = false ∧
    (Instr.timesync 0 { hdr with index := 2 ^ 30 } ⟨0, 0, 0, 0⟩).wellFormed = false ∧
    (Instr.mgmt 0 hdr (List.replicate 225 0)).wellFormed = false ∧
    (Instr.leave 0 { hdr with index := 2 ^ 30 } 0).wellFormed = false ∧
    (Instr.bringup 0 hdr (bringup 48)).wellFormed = true := by decide +kernel

/-! ## States -/

/-- A device that is READY, with TIME_EPOCH 1. -/
def up : State := { dev := { phase := .ready, ready := true, configReady := true }, tb := { epoch := 1 } }

/-- Port A holds Keeper slot `n`. -/
def held (n : Nat) (s : State := up) : State := s.setSlot n { holder := some (.a, 1) }

/-- Gallery 1 is `x`. -/
def withGal (x : Gallery) (s : State := up) : State := s.setGal 1 x

def sealedUp : State := { up with faults := { sealed := true } }

/-- The checks on a piece gave a place. -/
def gives (c : Checked) (t : Target) (i : Option Nat) : Bool :=
  match c with
  | .ok u j => decide (u = t) && decide (j = i)
  | _ => false

theorem ok_of (c : Checked) (t : Target) (i : Option Nat) (h : gives c t i = true) : c = .ok t i := by
  cases c <;> simp_all [gives]

/-! ## The machine -/

theorem witness_StepRunsFrontCommand : ({ up with pending := [.trstN] } : State).pending = .trstN :: [] := rfl

theorem up_inv : Inv up :=
  ⟨by simp [EpochOk, up], fun _ _ _ => rfl, rfl, by simp [VoltageOk, up], by simp [LedgerOk, up], fun _ h => by simp [up] at h⟩

theorem witness_EveryStepKeepsInv : Inv up ∧ ∃ t, step up = .next t := ⟨up_inv, _, rfl⟩

theorem witness_EveryStepKeepsCanon : Canon up ∧ ∃ t, step up = .next t := ⟨canon_of _ (by decide), _, rfl⟩

theorem witness_NothingIsUndone : sealedUp.faults.sealed = true ∧ (∃ t, exec .holdoverEntry sealedUp = .next t) ∧
    ∃ t, step { up with pending := [.trstN] } = .next t := ⟨rfl, ⟨_, rfl⟩, _, rfl⟩

theorem witness_OnlyConservatorModeStops : sealedUp.faults.sealed = true ∧ ¬ (up.faults.sealed = true) := by decide

/-! ## Timebase and Pace -/

/-- PPS is enabled and TIME is `n` units. -/
def pps (step : Bool) (n : Nat) : State := { up with tb := { epoch := 1, ppsEn := true, ppsStep := step, time := BitVec.ofNat 80 n } }

theorem witness_TimebaseRuns : up.pending = [] ∧ up.dev.resetLow = false ∧ up.pace.tripped = false ∧
    ({ up with dev := { resetLow := true } } : State).dev.resetLow = true ∧ up.tb.ppsEn = false ∧
    (pps false (sec 1 / 2 - 1)).tb.ppsEn = true ∧
    0 * sec 1 ≤ (pps false (sec 1 / 2 - 1)).tb.time.toNat + sec 1 / 2 ∧
    (pps false (sec 1 / 2 - 1)).tb.time.toNat + sec 1 / 2 < (0 + 1) * sec 1 ∧
    1 * sec 1 ≤ (pps false (sec 1 / 2)).tb.time.toNat + sec 1 / 2 ∧ (pps false 0).tb.ppsStep = false ∧
    ((0 * sec 1 : Nat) - (pps true (us 1)).tb.time.toNat : Int).natAbs ≤ us 1 ∧
    (pps true (us 1)).tb.ppsStep = true ∧ us 1 < ((0 * sec 1 : Nat) - (pps true (us 1 + 1)).tb.time.toNat : Int).natAbs := by decide

theorem witness_TimeSetStepsTime : Serving up ∧ up.holds .a 4 = false ∧ Serving (held 4) ∧ (held 4).holds .a 4 = true :=
  ⟨⟨rfl, rfl⟩, by decide, ⟨rfl, rfl⟩, by decide⟩

/-- Port A holds Keeper slot 4, and the Pace registers are `x`. -/
def paceWith (x : Pace) : State := held 4 { up with pace := x }

theorem witness_VoltageRequestRules : Serving up ∧ up.holds .a 4 = false ∧
    Serving (paceWith {}) ∧ (paceWith {}).holds .a 4 = true ∧ (paceWith {}).pace.guardOn = false ∧ (paceWith {}).pace.busy = false ∧
    549 = (549 : W32).toNat % 1024 ∧ 550 = (550 : W32).toNat % 1024 ∧ 950 = (950 : W32).toNat % 1024 ∧
    951 = (951 : W32).toNat % 1024 ∧ Serving (paceWith { guardOn := true, mv := 700, busy := true }) ∧
    (paceWith { guardOn := true, mv := 700, busy := true }).holds .a 4 = true ∧
    (paceWith { guardOn := true, mv := 700, busy := true }).pace.mv < 701 ∧
    700 ≤ (paceWith { guardOn := true, mv := 700, busy := true }).pace.mv :=
  ⟨⟨rfl, rfl⟩, by decide, ⟨rfl, rfl⟩, by decide, rfl, rfl, by decide, by decide, by decide, by decide, ⟨rfl, rfl⟩, by decide,
    by decide, by decide⟩

theorem witness_VoltageFramesSettleRequest :
    (paceWith { busy := true }).pace.busy = true ∧ (paceWith { busy := true }).pace.newer = none ∧
    (paceWith { busy := true }).pace.repeated = false ∧
    (paceWith { busy := true, newer := some 900, repeated := true }).pace.busy = true ∧
    (paceWith { busy := true, newer := some 900, repeated := true }).pace.newer = some 900 ∧
    (paceWith { busy := true, newer := some 900, repeated := true }).pace.repeated = true := by decide

theorem witness_PaceWindowsAndParking : mwf {} up.pace.hearth = true ∧ (List.replicate 48 (7 : BitVec 16))[47]? = some 7 ∧
    hbit up.pace.parked 47 = false ∧ hbit (paceWith { parked := 1 }).pace.parked 0 = true ∧
    Serving (held 4) ∧ (held 4).holds .a 4 = true ∧ Serving up ∧ up.holds .a 4 = false ∧
    (paceWith { park := 1 }).pace.park.getLsbD 0 = true ∧ (paceWith { park := 1 }).pace.parked.getLsbD 0 = false ∧
    (∀ k, k < 16 → ((paceWith { park := 1 }).stoker 0 k).st = .free) ∧
    (∀ e ∈ ((paceWith { park := 1 }).hearth 0).stokers, e.2.handles = []) ∧ ((paceWith { park := 1 }).hearth 0).calls = [] ∧
    ((paceWith { park := 1 }).hearth 0).stove.queue = [] ∧ ((paceWith { park := 1 }).hearth 0).stove.cur = none ∧
    (paceWith { parked := 1, waking := 1 }).pace.waking.getLsbD 0 = true := by
  repeat' apply And.intro
  all_goals first | exact ⟨rfl, rfl⟩ | decide

/-- 49 samples whose hottest, at position 48, reads `n`. -/
def samples (n : BitVec 16) : List (BitVec 16) := List.replicate 48 480 ++ [n]

theorem witness_ThermalSampleRules : (List.replicate 47 (480 : BitVec 16) ++ [1680]).length = 48 ∧
    hottestOf ((samples 1680).zipIdx) = (1680, 48) ∧ hottestOf ((samples 1681).zipIdx) = (1681, 48) ∧
    hottestOf ((samples 1839).zipIdx) = (1839, 48) ∧ hottestOf ((samples 1840).zipIdx) = (1840, 48) ∧
    up.pace.tripped = false ∧ Inv up ∧ up.pace.guardOn = false :=
  ⟨by simp, by decide +kernel, by decide +kernel, by decide +kernel, by decide +kernel, rfl, up_inv, rfl⟩

/-! ## Galleries, doorbells and work orders -/

/-- A segment of 16 pages with R and W. -/
def seg (place va target : Nat) : Segment :=
  { w0 := BitVec.ofNat 64 (2 ^ 63 + place * 2 ^ 60 + 2 ^ 57 + 2 ^ 56 + va), w1 := 16, w2 := BitVec.ofNat 64 target }

/-- A gallery of Hearth 0 and port A with one queue: host memory from address 0 on, the Shared Store from 0x1000_0000 on. -/
def gallery (st : GalSt) (q : Queue := {}) : Gallery :=
  { st := st, hearths := 1, hobSize := 16, pasidValid := true, fqBase := 0x4000
    queues := [(0, { q with enable := true, sqBase := 0x1000, cqBase := 0x2000 })]
    cat := { poolSize := 2, segs := [(0, seg 1 0 0x10000000), (1, seg 2 0x10000000 0x100000)] } }

/-- Port A is up, and gallery 1 is such a gallery. -/
def world (st : GalSt := .opened) (q : Queue := {}) (s : State := up) : State :=
  { s with portA := { dllUp := true }, presence := 0xFFFF, gals := [(1, gallery st q)] }

theorem witness_GalleryCommandsAccepted : Serving (held 0) ∧ (held 0).holds .a 0 = true ∧ ((held 0).gal 1).busy = false ∧
    ((held 0).gal 1).st = .vacant ∧ (held 0).faults.sealed = false ∧ Serving (world .dormant) ∧ ((world .dormant).gal 1).home = .a ∧
    ((world .dormant).gal 1).busy = false ∧ ((world .dormant).gal 1).st = .dormant ∧ (world .dormant).faults.sealed = false ∧
    (world .dormant).openCheck 1 = none ∧ (withGal { st := .dormant }).openCheck 1 = some .badConfig ∧
    ((withGal { st := .dormant }).gal 1).home = .a ∧ Serving (withGal { st := .dormant }) ∧
    ((withGal { st := .dormant }).gal 1).busy = false ∧ (withGal { st := .dormant }).faults.sealed = false ∧
    Serving world ∧ (world.gal 1).home = .a ∧ (world.gal 1).busy = false ∧ (world.gal 1).st = .opened ∧
    (((world.gal 1).st ≠ .vacant ∧ (world.gal 1).st ≠ .dormant) ∨ world.holds .a 0 = false) ∧
    (1000 : W32).toNat = 1000 ∧ (10000000 : W32).toNat = 10000000 ∧ (world.gal 1).st ≠ .resetting := by
  repeat' apply And.intro
  all_goals first | exact ⟨rfl, rfl⟩ | decide +kernel

theorem witness_GalleryCommandsJudged : Serving up ∧ up.holds .b 0 = false ∧ ((up.gal 1).home = .b) = False ∧
    Serving (held 0 (withGal { busy := true })) ∧ (held 0 (withGal { busy := true })).holds .a 0 = true ∧
    ((held 0 (withGal { busy := true })).gal 1).busy = true ∧ ((held 0 (withGal { busy := true })).gal 1).home = .a ∧
    Serving (held 0 sealedUp) ∧ (held 0 sealedUp).holds .a 0 = true ∧ ((held 0 sealedUp).gal 1).busy = false ∧
    ((held 0 sealedUp).gal 1).home = .a ∧ ((held 0 sealedUp).gal 1).st = .vacant ∧ (held 0 sealedUp).faults.sealed = true := by
  repeat' apply And.intro
  all_goals first | exact ⟨rfl, rfl⟩ | decide +kernel | simp [up, State.gal, mget]

/-- An undecided RUN of gallery 1 with tag 7. -/
def order : WorkOrder := { id := 5, gal := 1, queue := 0, opcode := 1, tag := 7, hearths := 1 }

theorem witness_GalleryResets : Serving (world .opened { tail := 3, fetched := 1 } { up with wos := [order] }) ∧
    Canon (world .opened { tail := 3, fetched := 1 } { up with wos := [order] }) ∧ (world.gal 1).home = .a ∧
    (world.gal 1).busy = false ∧ (world.gal 1).st = .opened ∧ world.faults.sealed = false ∧
    (world .opened { tail := 3, fetched := 1 } { up with wos := [order] }).wo? order.id = some order ∧ order.gal = 1 ∧
    order.decided = none ∧ Serving (held 0 (world .faulted)) ∧ Canon (held 0 (world .faulted)) ∧
    (held 0 (world .faulted)).holds .a 0 = true ∧ ((held 0 (world .faulted)).gal 1).st = .faulted ∧
    Canon (world .quiescing) ∧ (∀ w ∈ (world .quiescing).wos, w.gal ≠ 1) ∧ ((world .quiescing).gal 1).st = .quiescing ∧
    (∀ e ∈ ((world .quiescing).gal 1).queues, e.2.tail = e.2.fetched ∧ e.2.staged = none) ∧
    Canon (withGal { st := .resetting, busy := true, job := some { release := true } }) ∧
    ((withGal { st := .resetting, busy := true, job := some { release := true } }).gal 1).job = some { release := true } ∧
    (withGal { st := .resetting, busy := true, job := some { release := true } }).galBusy 1 = false ∧
    ((withGal { st := .resetting, busy := true, job := some {} }).gal 1).job = some {} ∧
    (withGal { st := .resetting, busy := true, job := some {} }).galBusy 1 = false ∧
    (withGal { st := .resetting, busy := true, job := some {} }).acc.rekeyed.contains 1 = false := by
  repeat' apply And.intro
  all_goals first | exact ⟨rfl, rfl⟩ | exact canon_of _ (by decide +kernel) | decide +kernel

/-- A submission entry of a QFENCE with tag 7 and PRIORITY 3. -/
def fenceEntry : List Byte := natLe 8 (3 + 3 * 2 ^ 16 + 7 * 2 ^ 32) ++ List.replicate 56 0

theorem witness_Doorbells : Serving world ∧ (world.gal 1).home = .a ∧ (world.gal 1).st = .opened ∧
    ((world.gal 1).queue 0).enable = true ∧ ((64 : BitVec 16) - ((world.gal 1).queue 0).head).toNat ≤ 64 ∧
    ¬ (((65 : BitVec 16) - ((world.gal 1).queue 0).head).toNat ≤ 64) ∧ fenceEntry.length = 64 ∧
    (((world.gal 1).queue 0).tail + 1 - ((world.gal 1).queue 0).head).toNat ≤ 64 ∧
    ¬ ((((world .opened { tail := 64 }).gal 1).queue 0).tail + 1 - (((world .opened { tail := 64 }).gal 1).queue 0).head).toNat ≤ 64 ∧
    ((world .faulted).gal 1).st = .faulted ∧
    (((world.gal 1).queue 0).written - ((world.gal 1).queue 0).head).toNat < ((1 : BitVec 16) - ((world.gal 1).queue 0).head).toNat ∧
    ((0 : BitVec 16) - ((world.gal 1).queue 0).head).toNat ≤ (((world.gal 1).queue 0).written - ((world.gal 1).queue 0).head).toNat ∧
    ({} : State).dev.ready = false ∧ ({} : State).pace.tripped = false ∧ (world.gal 1).home ≠ .b ∧
    ((world .dormant).gal 1).st = .dormant ∧ ((world.gal 1).queue 1).enable = false := by
  repeat' apply And.intro
  all_goals first | exact ⟨rfl, rfl⟩ | decide +kernel

/-- The witnesses of the abort's outcomes: the tag is in flight, its record is unread, and entries wait. -/
theorem witness_Doorbells_abort :
    ((world .opened {} { up with wos := [order] }).wos.find? fun v =>
      decide (v.gal = 1) && decide (v.queue = 0) && decide (v.tag = 7) && v.decided.isNone) = some order ∧
    (∀ w ∈ (world .opened { unread := [7] }).wos, w.gal = 1 → w.queue = 0 → w.tag = 7 → w.decided ≠ none) ∧
    7 ∈ (((world .opened { unread := [7] }).gal 1).queue 0).unread ∧
    ((world.gal 1).queue 0).tail = ((world.gal 1).queue 0).fetched ∧ (7 : BitVec 16) ∉ ((world.gal 1).queue 0).unread ∧
    (((world .opened { tail := 1 }).gal 1).queue 0).staged = none ∧
    (((world .opened { tail := 1 }).gal 1).queue 0).tail ≠ (((world .opened { tail := 1 }).gal 1).queue 0).fetched ∧
    (((world .opened { tail := 1, staged := some fenceEntry }).gal 1).queue 0).staged = some fenceEntry ∧ entryTag fenceEntry = 7 ∧
    entryTag fenceEntry ≠ 8 ∧ ((((world .opened { tail := 2, staged := some fenceEntry }).gal 1).queue 0).tail - 0).toNat = 2 ∧
    up.haltedOn 1 3 = none := by
  repeat' apply And.intro
  all_goals decide +kernel

theorem witness_EntriesAreFetched : up.pace.tripped = false ∧ ((world .opened { tail := 1 }).gal 1).st = .opened ∧
    (((world .opened { tail := 1 }).gal 1).queue 0).staged = none ∧
    (((world .opened { tail := 1 }).gal 1).queue 0).fetched ≠ (((world .opened { tail := 1 }).gal 1).queue 0).tail ∧
    (((world .opened { tail := 1 }).gal 1).queue 0).heldAbort = none ∧
    mget [] (((world .opened { tail := 1, pushed := [(0, fenceEntry)] }).gal 1).queue 0).pushed 0 = fenceEntry ∧ fenceEntry ≠ [] ∧
    mget [] (((world .opened { tail := 1 }).gal 1).queue 0).pushed 0 = [] ∧
    ((world .opened { tail := 1 }).port ((world .opened { tail := 1 }).gal 1).home).usable = true ∧
    (world .opened { tail := 1 }).check 1 .ringFetch 0x1000 = .ok (.host 0x10001000) (some 0) ∧
    (world .opened { tail := 1 }).check 1 .ringFetch 0x10000000 = .ok (.shared 0x100000) (some 1) ∧
    ((world .opened { tail := 1 }).judgeLine .lasting 0x100000).sharedLost 0x100000 64 = true ∧
    ((world .opened { tail := 1 }).judgeLine .pass 0x100000).sharedLost 0x100000 64 = false ∧
    (world .opened { tail := 1, staged := some fenceEntry }).nextFetch = some (1, 0) ∧
    (world .opened { tail := 1, staged := some fenceEntry }).wos.length < 4096 ∧
    (∀ w ∈ (world .opened { tail := 1, staged := some fenceEntry }).wos,
      w.id ≠ (world .opened { tail := 1, staged := some fenceEntry }).nextWo) ∧
    (world .opened { tail := 1, staged := some fenceEntry }).refusal 1 0 fenceEntry = none ∧
    (world .opened { tail := 1, unread := [7] }).refusal 1 0 fenceEntry = some 0x16 := by
  repeat' apply And.intro
  all_goals first | decide +kernel | exact ok_of _ _ _ (by decide +kernel)

/-- Work order `w` is in flight, its program is placed on Hearth 0, and the Program Store is mapped. -/
def ordered (w : WorkOrder) : State :=
  (world .opened {} { up with wos := [w] }).setHearth 0 {
    progs := [(1, { st := .placed, gal := 1, program := 9, base := 1024, length := 64 })], psMap := [(1, (true, 1)), (2, (true, 1))] }

theorem witness_WorkOrdersDispatch : (ordered { order with program := 9 }).wo? 5 = some { order with program := 9 } ∧
    (ordered { order with program := 9 }).pace.tripped = false ∧ (ordered { order with program := 9 }).heldByQfence order = false ∧
    (ordered { order with program := 9 }).stokersFree order = true ∧ order.hearths.getLsbD 0 = true ∧
    ((ordered { order with program := 9 }).hearth 0).freeStoker = some 0 ∧ order.opcode.toNat = 1 ∧
    ((ordered { order with program := 9 }).hearth 0).runProg 1 9 =
      some { st := .placed, gal := 1, program := 9, base := 1024, length := 64 } ∧
    (ordered { order with opcode := 4 }).wo? 5 = some { order with opcode := 4 } ∧ (4 : BitVec 8).toNat = 4 ∧
    (∀ j, j < 48 → order.hearths.getLsbD j = true → ((ordered { order with opcode := 4 }).hearth j).stove.fenced = false) ∧
    (ordered { order with opcode := 2, offset := 2048, length := 8 }).wo? 5 = some { order with opcode := 2, offset := 2048, length := 8 } ∧
    (ordered { order with opcode := 2, offset := 2048, length := 8 }).mayPlace { order with opcode := 2, offset := 2048, length := 8 } = true ∧
    (ordered { order with opcode := 2, phase := .running, length := 8 }).wo? 5 =
      some { order with opcode := 2, phase := .running, length := 8 } ∧
    (∀ a ∈ (ordered { order with opcode := 2, phase := .running, length := 8 }).accs, a.wo ≠ some 5) ∧
    (ordered { order with opcode := 2, phase := .running, length := 8 }).replacedBy { order with opcode := 2, length := 8 } 0 = false ∧
    (ordered { order with opcode := 2, phase := .running, length := 8 }).replacedBy { order with id := 4, opcode := 2, length := 8 } 0 = true := by
  repeat' apply And.intro
  all_goals decide +kernel

/-- The record that a decided work order waits for. -/
def doneOrder : WorkOrder := { order with decided := some { status := .complete } }

theorem witness_RetirementAndRecords : (ordered { order with opcode := 3 }).wo? 5 = some { order with opcode := 3 } ∧
    (∀ v ∈ (ordered { order with opcode := 3 }).wos, v.id < 5 → v.gal = 1 → False) ∧
    (ordered { order with phase := .running }).wo? 5 = some { order with phase := .running } ∧
    (ordered { order with phase := .running }).runDone { order with phase := .running } = true ∧
    (ordered { order with opcode := 4, phase := .running }).wo? 5 = some { order with opcode := 4, phase := .running } ∧
    (∀ p ∈ (ordered { order with opcode := 4, phase := .running }).stokersOf 5,
      ((ordered { order with opcode := 4, phase := .running }).stoker p.1 p.2).st = .halted) ∧
    (ordered doneOrder).wo? 5 = some doneOrder ∧ doneOrder.decided = some { status := .complete } ∧
    (ordered doneOrder).writesLeft 5 = false ∧ ((ordered doneOrder).port ((ordered doneOrder).gal 1).home).usable = true ∧
    (ordered doneOrder).check 1 .recordWrite 0x2000 = .ok (.host 0x10002000) (some 0) ∧
    Canon { up with portA := { dllUp := true, msixEnable := true, pba := [(3, true)] } } ∧
    (({ up with portA := { dllUp := true, msixEnable := true, pba := [(3, true)] } } : State).port .a).msixEnable = true ∧
    (({ up with portA := { dllUp := true, msixEnable := true, pba := [(3, true)] } } : State).port .a).inReset = false ∧
    (({ up with portA := { dllUp := true, msixEnable := true, pba := [(3, true)] } } : State).port .a).funcMask = false := by
  repeat' apply And.intro
  all_goals first | decide +kernel | exact canon_of _ (by decide +kernel) | exact ok_of _ _ _ (by decide +kernel)

/-- Stoker 0 of Hearth 0 is `x`, on the work order `w`. -/
def stoking (x : Stoker) (w : WorkOrder := order) (z : Hearth := {}) : State :=
  (world .opened {} { up with wos := [w] }).setHearth 0 { z with stokers := [(0, { x with wo := 5, gal := 1, tag := 7 })] }

/-- A row of four FP16 elements of the Shared Store. -/
def row4 : Desc :=
  { base := 0x10000000, fmt := .fp16, layout := .strided, sparse := .dense, dims := [{ extent := 4, stride := 2, tile := 1 }], scale := 0
    sfmt := .none, fill := 0 }

def stream (m : StrMode) : Stream := { mode := m, desc := row4, raw := [], cut := [4], tags := 1 }

theorem witness_StokersAndFaults : Canon (stoking { st := .halted } doneOrder) ∧
    ((stoking { st := .halted } doneOrder).stoker 0 0).st ≠ .free ∧
    (stoking { st := .halted } doneOrder).undecided ((stoking { st := .halted } doneOrder).stoker 0 0).wo = false ∧
    (stoking { st := .halted } doneOrder).stokerIdle 0 0 = true ∧
    Canon (stoking { st := .parkedStream, wait := .ops 2 0, handles := [(2, some (stream .pull))] }) ∧
    ((stoking { st := .parkedStream, wait := .ops 2 0, handles := [(2, some (stream .pull))] }).stoker 0 0).stream? 2 =
      some (stream .pull) ∧
    (stream .pull).waited 0 = true ∧ (stream .pull).ops.length < 16 ∧
    ((stoking { st := .parkedStream, wait := .room 2, handles := [(2, some (stream .pull))] }).stoker 0 0).wait = .room 2 ∧
    ((stoking { st := .parkedStream, wait := .tags 2 }).stoker 0 0).wait = .tags 2 ∧
    (stoking { st := .parkedFence, wait := .fence 3 true, seq := 3 }).fenceDone 0 0 3 true = true ∧
    (stoking { st := .parkedFence, wait := .rel 3, seq := 4, handles := [(2, some { stream .push with
      ops := [⟨0, 4, 0, 1, 0, 0⟩], opCount := 1, halt := some ⟨0, 1, some 1⟩ })] }).waitsOnHalt 0 0 3 = true ∧
    ((stoking { st := .parkedCall, wait := .cab 0 }).hearth 0).callsWaited 0 true 0 = true ∧
    (stoking { st := .parkedCall, wait := .cab 0 }).fenceDone 0 0 0 false = true ∧
    (stoking {}).wo? 5 = some order ∧ order.decided = none ∧ (stoking {} doneOrder).wo? 5 = some doneOrder := by
  repeat' apply And.intro
  all_goals first | exact canon_of _ (by decide +kernel) | decide +kernel

/-! ## Host ports, the Keeper and the Ledger -/

/-- A piece of gallery 1 that reads host memory. -/
def hostPiece : Piece :=
  { id := 9, gal := 1, wo := some 5, hearth := 0, stoker := 0, pc := 0, seq := 0, agent := .streamRead, write := false, va := 0, len := 8
    target := .host 0x10000000, seg := some 0, wdata := [], status := .sent, owner := .stream 2 0 4 }

/-- Port A is in the resets `tr` and the piece is in flight. -/
def resetting (tr : List PortTrigger) : State :=
  { (stoking {}) with portA := { dllUp := true, resetBy := tr }, pieces := [hostPiece] }

theorem witness_PortResetsAndLinks : Canon (resetting [.flr]) ∧ .flr ∈ ((resetting [.flr]).port .a).resetBy ∧
    .perst ∉ ((resetting [.flr]).port .a).resetBy ∧ Canon (resetting []) ∧ ((resetting []).port .a).resetBy = [] ∧
    hostPiece ∈ (resetting []).pieces ∧ hostPiece.write = false ∧ ((resetting []).gal hostPiece.gal).home = .a ∧
    ((resetting []).gal 1).st ≠ .vacant ∧ ((resetting []).gal 1).grace = none ∧
    (∃ u ∈ ((resetting [.flr, .perst]).port .a).resetBy, u ≠ .flr) ∧ ((resetting [.flr]).port .a).resetBy = [.flr] ∧
    ((resetting []).port .a).dllUp = true ∧ (up.port .a).dllUp = false ∧ (resetting []).piece? 9 = some hostPiece ∧
    hostPiece.target = .host 0x10000000 ∧ hostPiece.status = .sent ∧
    ({ hostPiece with write := true, wdata := [(1, 0x0F)], status := .heldPort } : Piece).readsFirst = true ∧
    ({ up with pieces := [{ hostPiece with id := 8, write := true, wdata := [(1, 0x0F)] }] } : State).writeOrderHolds
      { hostPiece with write := true, wdata := [(1, 0x0F)], status := .heldPort } = true ∧
    ((withGal { st := .opened, grace := some 1 }).gal 1).grace = some 1 ∧ (withGal { st := .opened, grace := some 1 }).tb.elapsed < 1 ∧
    ((withGal { st := .opened, grace := some 0 }).gal 1).grace = some 0 ∧ 0 ≤ (withGal { st := .opened, grace := some 0 }).tb.elapsed ∧
    ((withGal { st := .opened, grace := some 0 }).gal 1).st ≠ .resetting := by
  repeat' apply And.intro
  all_goals first | decide +kernel | exact canon_of _ (by decide +kernel)

theorem witness_AdoptionMovesHomePort : up.pace.tripped = false ∧ up.holds .a 0 = false ∧ (held 0).holds .a 0 = true ∧
    ((held 0).gal 1).st = .vacant ∧ ((held 0 world).gal 1).st ≠ .vacant ∧ ((held 0 world).gal 1).home = .a ∧
    (held 0 world).holds .a 0 = true ∧ ((held 0 (withGal { st := .opened, home := .b })).gal 1).home ≠ .a ∧
    ((held 0 (withGal { st := .opened, home := .b })).port .b).usable = false ∧
    ((held 0 (withGal { st := .opened, home := .b } { up with portB := { dllUp := true } })).port .b).usable = true := by decide +kernel

theorem witness_ConfigurationRequests : ({} : State).dev.configReady = false ∧ up.dev.configReady = true ∧
    (({ up with portA := { perstHigh := true } } : State).port .a).perstHigh = true ∧ (1 : Nat) ≠ 0 ∧ (1023 : Nat) ≠ 2 := by decide

theorem witness_KeeperTakesGivesExpires : up.pace.tripped = false ∧ (5 ≤ (5 : Fin 64).val ∧ (5 : Fin 64).val ≤ 15) ∧
    (5 ≤ (15 : Fin 64).val ∧ (15 : Fin 64).val ≤ 15) ∧ ¬ (5 ≤ (4 : Fin 64).val ∧ (4 : Fin 64).val ≤ 15) ∧
    ¬ (5 ≤ (16 : Fin 64).val ∧ (16 : Fin 64).val ≤ 15) ∧ (up.slot 4).holder = none ∧ ((held 4).slot 4).holder = some (.a, 1) ∧
    ((held 4).slot 4).holder ≠ some (.b, 1) ∧ ((up.setSlot 4 { holder := some (.a, 1), expiry := some 1 }).slot 4).expiry = some 1 ∧
    ((up.setSlot 4 { holder := some (.a, 1), expiry := some 1 }).slot 4).holder ≠ none ∧
    (up.setSlot 4 { holder := some (.a, 1), expiry := some 1 }).tb.elapsed < 1 ∧
    ((up.setSlot 4 { holder := some (.a, 1), expiry := some 0 }).slot 4).expiry = some 0 ∧
    0 ≤ (up.setSlot 4 { holder := some (.a, 1), expiry := some 0 }).tb.elapsed := by decide +kernel

/-- Exchange line 3 is `x`, in an Exchange region of 1 MiB. -/
def lined (x : Line) : State := { up with ledger := { exchMib := 1, lines := mset {} [] 3 x } }

theorem witness_LedgerHoldsOneOwner : mwf {} (lined { a := .e }).ledger.lines = true ∧ ((lined { a := .e }).line 3).a = .e ∧
    (∀ l, (((lined { a := .e }).line l).a = .e → ((lined { a := .e }).line l).b = .i) ∧
      (((lined { a := .e }).line l).b = .e → ((lined { a := .e }).line l).a = .i)) ∧
    ∃ t, step (lined { a := .e }) = .next t := by
  refine ⟨by decide +kernel, by decide +kernel, fun l => ?_, _, rfl⟩
  by_cases h : l = 3 <;> simp [lined, State.line, mget, mset, h]

theorem witness_LedgerConfigurationJudged : up.pace.tripped = false ∧ up.dev.ready = true ∧ up.holds .a 0 = false ∧
    (held 0).holds .a 0 = true ∧ (99 : Nat) = (99 * 256 : W32).toNat / 256 % 65536 ∧ (100 : Nat) = (100 * 256 + 64 : W32).toNat / 256 % 65536 ∧
    (64 : Nat) = (100 * 256 + 64 : W32).toNat % 128 ∧ (65 : Nat) = (100 * 256 + 65 : W32).toNat % 128 ∧
    (64 : Nat) ≠ (held 0).ledger.exchMib ∧ (held 0).heldLines = 0 ∧ (held 0 (lined { a := .s })).heldLines ≠ 0 ∧
    (held 0 (lined { a := .s })).ledger.exchMib = 1 := by decide +kernel

theorem witness_AccessBeyondExchange : (lined {}).ledger.exchMib * 0x100000 ≤ 64 * 16384 ∧ (lined {}).pace.tripped = false ∧
    (lined {}).ledger.exchMib * 0x100000 < 0xFFFFF + [true, true].length := by decide

/-- R721: a read that finds a lasting fault is answered as poison, and a write of the whole line clears the loss. -/
theorem test_lost_line_is_poison :
    (((lined {}).serveBar4 .a false 0 [] [true] [.lasting]).out.any fun o => match o with | .bar4Data _ _ b => b | _ => false) = true ∧
    (((lined {}).serveBar4 .a false 0 [] [true] [.lasting]).putExch 0 (fullMask (List.replicate 64 1))).sharedLost
      (lined {}).exchStart 64 = false ∧
    ((lined {}).serveBar4 .a false 0 [] [true] [.lasting]).faults.lasting = 1 := by decide +kernel

theorem witness_ExchangeRequestsServed : Canon (lined {}) ∧ 64 * 16383 < (lined {}).ledger.exchMib * 0x100000 ∧
    ((lined {}).line 3).snoopA = none ∧ ((lined {}).line 3).waiting = [] ∧ ((lined { b := .e }).line 3).holdOf .b = .e ∧
    ((lined { b := .s }).line 3).holdOf .b ≠ .e ∧ ((lined { b := .s }).line 3).holdOf .b ≠ .i ∧ ((lined {}).line 3).holdOf .b = .i ∧
    (lined {}).pace.tripped = false ∧ 0xFFFC0 + (List.replicate 64 true).length ≤ (lined {}).ledger.exchMib * 0x100000 ∧
    (∀ l ∈ linesOf 192 64, ((lined { b := .s }).line l).readyFor (.bar4 .a false 192 [] (List.replicate 64 true) []) .devRead = true) ∧
    (∀ l ∈ linesOf 192 64, ((lined {}).line l).readyFor (.bar4 .a true 192 [] (List.replicate 64 true) []) .devWrite = true) ∧
    (∃ l ∈ linesOf 192 64, ((lined { b := .e }).line l).readyFor (.bar4 .a false 192 [] (List.replicate 64 true) []) .devRead = false) ∧
    (∃ l ∈ linesOf 192 64, ((lined { b := .s }).line l).readyFor (.bar4 .a true 192 [] (List.replicate 64 true) []) .devWrite = false) := by
  repeat' apply And.intro
  all_goals first | decide +kernel | exact canon_of _ (by decide +kernel)

theorem witness_SnoopsEnd : ((lined { snoopA := some 0 }).line 3).snoopOf .a ≠ none ∧ ((lined {}).line 3).snoopOf .a = none ∧
    ((lined { lateA := true }).line 3).lateOf .a = true ∧ ((lined {}).line 3).lateOf .a = false ∧ Canon (lined {}) ∧
    Canon (lined { snoopA := some 0 }) ∧ ((lined { a := .e }).line 3).holdOf .a ≠ .i ∧ ((lined {}).line 3).holdOf .a = .i ∧
    ((lined { snoopA := some 0 }).line 3).snoopOf .a = some 0 ∧ ((lined { snoopA := some 0 }).line 3).snoopOf (otherPort .a) = none ∧
    (lined { snoopA := some 0 }).tb.elapsed < 0 + us (lined { snoopA := some 0 }).ledger.snpTimeout ∧
    0 + us (lined { snoopA := some 0 }).ledger.snpTimeout ≤
      ({ (lined { snoopA := some 0 }) with tb := { elapsed := us 2000 } } : State).tb.elapsed ∧
    ((lined { snoopA := some 0 }).line 3).waiting = [] := by
  repeat' apply And.intro
  all_goals first | decide +kernel | exact canon_of _ (by decide +kernel)

/-! ## Zhema programs -/

/-- The conditions of `Issues` as a check. -/
def issuesB (s : State) (h k w e : Nat) (uses : List Dst) : Bool :=
  !s.pace.tripped && (s.hearth h).canIssue k && (s.stoker h k).inProgram (s.stoker h k).pc
    && decide ((s.hearth h).word (s.stoker h k).pc = w) && decide (zExt ((s.hearth h).word ((s.stoker h k).pc + 8)) = e)
    && (decide (zOp w < 32) || ((s.stoker h k).inProgram ((s.stoker h k).pc + 8)
      && decide (zClass ((s.hearth h).word ((s.stoker h k).pc + 8)) = 0x3F)))
    && decide ((s.stoker h k).preg (zPred w) ≠ zPneg w) && (pDst (zPred w) :: uses).all fun d => decide (d ∉ (s.stoker h k).pend)

theorem issues_of (s : State) (h k w e : Nat) (uses : List Dst) (t : issuesB s h k w e uses = true) : Issues s h k w e uses := by
  simp only [issuesB, Bool.and_eq_true, Bool.or_eq_true, decide_eq_true_eq, List.all_eq_true, Bool.not_eq_true'] at t
  obtain ⟨⟨⟨⟨⟨⟨⟨h1, h2⟩, h3⟩, h4⟩, h5⟩, h6⟩, h7⟩, h8⟩ := t
  refine ⟨h1, h2, h3, h4, h5, fun hw => ?_, h7, h8⟩
  rcases h6 with h6 | h6
  · omega
  · exact h6

/-- An instruction word with p0 as its guard. -/
def iw (cls op dst a b space sub imm : Nat) : Nat :=
  cls * 2 ^ 58 + op * 2 ^ 52 + dst * 2 ^ 47 + a * 2 ^ 42 + b * 2 ^ 37 + space * 2 ^ 31 + sub * 2 ^ 24 + imm

/-- Stoker 0 of Hearth 0 is about to issue `w`, with EXT `e` behind it. -/
def zs (w : Nat) (e : Nat := 0) (x : Stoker := {}) (z : Hearth := {}) (o : WorkOrder := order) : State :=
  (world .opened {} { up with wos := [o] }).setHearth 0 { z with
    ps := putBytes [] 0 (natLe 8 w ++ natLe 8 (0x3F * 2 ^ 58 + e))
    stokers := [(0, { x with st := .ready, wo := 5, gal := 1, tag := 7, base := 0, len := 64 })] }

/-- Such a state issues the word. -/
def Ready (w e : Nat) (uses : List Dst) (x : Stoker := {}) (z : Hearth := {}) : Prop :=
  Canon (zs w e x z) ∧ Issues (zs w e x z) 0 0 w e uses

theorem ready_of (w e : Nat) (uses : List Dst) (x : Stoker) (z : Hearth) (h : canonB (zs w e x z) = true)
    (i : issuesB (zs w e x z) 0 0 w e uses = true) : Ready w e uses x z := ⟨canon_of _ h, issues_of _ _ _ _ _ _ i⟩

/-- s1 holds a value, and the return stack one address. -/
def regs (v : W64) : Stoker := { s := mset 0 [] 1 v, stack := [8] }

theorem witness_ControlInstructions :
    Ready (iw 0 0 0 0 0 0 0 0) 0 [] ∧ Fields (iw 0 0 0 0 0 0 0 0) 0 0 0 0 0 0 ∧ NoDst (iw 0 0 0 0 0 0 0 0) ∧
    Ready (iw 0 1 0 0 0 0 0 7) 0 [] ∧ Fields (iw 0 1 0 0 0 0 0 7) 0 1 0 0 0 7 ∧ Ready (iw 0 2 0 0 0 0 0 8) 0 [] ∧
    Fields (iw 0 2 0 0 0 0 0 8) 0 2 0 0 0 8 ∧ Ready (iw 0 3 0 0 0 0 0 1) 0 [] ∧ Fields (iw 0 3 0 0 0 0 0 1) 0 3 0 0 0 1 ∧
    Ready (iw 0 3 0 0 0 0 0 1) 0 [] { stack := List.replicate 8 8 } ∧ Ready (iw 0 4 0 0 0 0 0 0) 0 [] ∧
    Ready (iw 0 4 0 0 0 0 0 0) 0 [] (regs 0) ∧ Fields (iw 0 4 0 0 0 0 0 0) 0 4 0 0 0 0 ∧ Ready (iw 0 7 0 0 0 0 0 63) 0 [] ∧
    Fields (iw 0 7 0 0 0 0 0 63) 0 7 0 0 0 63 ∧ Ready (iw 0 8 0 0 0 0 0 0) 0 [] ∧ Fields (iw 0 8 0 0 0 0 0 0) 0 8 0 0 0 0 ∧
    Ready (iw 0 1 0 1 0 0 1 0) 0 [sDst 1] (regs 56) ∧ Fields (iw 0 1 0 1 0 0 1 0) 0 1 1 0 1 0 ∧
    Ready (iw 0 2 0 1 0 0 1 1) 0 [sDst 1] (regs 0) ∧ Ready (iw 0 2 0 1 0 0 2 1) 0 [sDst 1] (regs 0) ∧
    Fields (iw 0 2 0 1 0 0 2 1) 0 2 1 0 2 1 ∧ Ready (iw 0 5 1 0 0 0 0 1) 0 [zDstReg (iw 0 5 1 0 0 0 0 1)] (regs 2) ∧
    Ready (iw 0 5 1 0 0 0 0 1) 0 [zDstReg (iw 0 5 1 0 0 0 0 1)] (regs 1) ∧
    Ready (iw 0 5 1 0 0 2 0 1) 0 [zDstReg (iw 0 5 1 0 0 2 0 1)] { lens := [(1, 2)] } ∧
    zDstInFile (iw 0 5 1 0 0 2 0 1) = true ∧ Fields (iw 0 5 1 0 0 2 0 1) 0 5 0 0 0 1 ∧
    zListed (zClass (iw 0x3F 0 0 0 0 0 0 0)) (zOp (iw 0x3F 0 0 0 0 0 0 0)) = false ∧ Ready (iw 0x3F 0 0 0 0 0 0 0) 0 [] ∧
    zListed (zClass (iw 2 4 0 0 0 0 0 0)) (zOp (iw 2 4 0 0 0 0 0 0)) = false := by
  repeat' apply And.intro
  all_goals first | decide +kernel | exact canon_of _ (by decide +kernel) | exact issues_of _ _ _ _ _ _ (by decide +kernel)

/-- ALU words: operand a in s1, operand b in s2 or IMM24, the result in s3. -/
theorem witness_AluInstructions :
    (∀ op, op ∈ List.range' 1 13 → ToReg (iw 1 op 3 1 2 0 0 0) ∧ zClass (iw 1 op 3 1 2 0 0 0) = 1 ∧ zOp (iw 1 op 3 1 2 0 0 0) = op ∧
      bits (zSub (iw 1 op 3 1 2 0 0 0)) 5 2 = 0 ∧ bits (zSub (iw 1 op 3 1 2 0 0 0)) 1 4 = 0 ∧
      bitAt (zSub (iw 1 op 3 1 2 0 0 0)) 0 = false ∧ zImm (iw 1 op 3 1 2 0 0 0) = 0) ∧
    Ready (iw 1 1 3 1 2 0 0 0) 0 [zDstReg (iw 1 1 3 1 2 0 0 0), aluRegA (iw 1 1 3 1 2 0 0 0), sDst 2] (regs 5) ∧
    Ready (iw 1 10 3 1 2 0 2 0) 0 [zDstReg (iw 1 10 3 1 2 0 2 0), aluRegA (iw 1 10 3 1 2 0 2 0), sDst 2] (regs 5) ∧
    Ready (iw 1 12 3 1 2 1 18 0) 0 [zDstReg (iw 1 12 3 1 2 1 18 0), aluRegA (iw 1 12 3 1 2 1 18 0), sDst 2] (regs 5) ∧
    bits (zSub (iw 1 12 3 1 2 1 18 0)) 1 4 = 9 ∧ bits (zSub (iw 1 13 3 1 2 0 14 0)) 1 4 = 7 ∧
    Ready (iw 1 13 3 1 2 0 14 0) 0 [zDstReg (iw 1 13 3 1 2 0 14 0), aluRegA (iw 1 13 3 1 2 0 14 0), sDst 2] (regs 5) ∧
    Ready (iw 1 1 3 3 0 0 0x21 0xFFFFFF) 0 [zDstReg (iw 1 1 3 3 0 0 0x21 0xFFFFFF), aluRegA (iw 1 1 3 3 0 0 0x21 0xFFFFFF)] ∧
    bits (zSub (iw 1 1 3 3 0 0 0x21 0xFFFFFF)) 5 2 = 1 ∧ zA (iw 1 1 3 3 0 0 0x21 0xFFFFFF) < 4 ∧
    bitAt (zSub (iw 1 1 3 3 0 0 0x21 0xFFFFFF)) 0 = true ∧ zB (iw 1 1 3 3 0 0 0x21 0xFFFFFF) = 0 ∧
    Ready (iw 1 1 3 7 0 0 0x41 1) 0 [zDstReg (iw 1 1 3 7 0 0 0x41 1), aluRegA (iw 1 1 3 7 0 0 0x41 1)] ∧
    bits (zSub (iw 1 1 3 7 0 0 0x41 1)) 5 2 = 2 ∧ zA (iw 1 1 3 7 0 0 0x41 1) < 8 ∧
    Ready (iw 1 14 3 0 0 0 0 5) 0 [zDstReg (iw 1 14 3 0 0 0 0 5)] ∧
    Ready (iw 1 15 3 1 0 0 0 5) 0 [zDstReg (iw 1 15 3 1 0 0 0 5), aluRegA (iw 1 15 3 1 0 0 0 5)] (regs 9) ∧
    Ready (iw 1 32 3 0 0 0 0 5) (2 ^ 40 - 1) [zDstReg (iw 1 32 3 0 0 0 0 5)] ∧
    Ready (iw 1 33 3 1 0 0 0 0) (2 ^ 32 - 1) [zDstReg (iw 1 33 3 1 0 0 0 0), aluRegA (iw 1 33 3 1 0 0 0 0)] (regs 9) := by
  repeat' apply And.intro
  all_goals first | decide +kernel | (unfold ToReg; decide +kernel) | exact canon_of _ (by decide +kernel) | exact issues_of _ _ _ _ _ _ (by decide +kernel)

theorem witness_MemoryInstructions :
    Ready (iw 2 1 3 1 0 0 6 8) 0 [sDst 1, zDstReg (iw 2 1 3 1 0 0 6 8)] (regs 0x10000000) ∧ ToReg (iw 2 1 3 1 0 0 6 8) ∧
    Fields (iw 2 1 3 1 0 0 6 8) 2 1 1 0 6 8 ∧ (zs (iw 2 1 3 1 0 0 6 8) 0 (regs 0x10000000)).memReadsOut 0 0 0 = false ∧
    Ready (iw 2 2 0 1 2 0 3 8) 0 [sDst 1, sDst 2] (regs 0x10000000) ∧ NoDst (iw 2 2 0 1 2 0 3 8) ∧
    Fields (iw 2 2 0 1 2 0 3 8) 2 2 1 2 3 8 ∧ (zs 0).wo? 5 = some order ∧ (zs 0 0 {} {} { order with argCount := 1 }).wo? 5 =
      some { order with argCount := 1 } ∧
    Ready (iw 2 3 3 0 0 0 0 0) 0 [zDstReg (iw 2 3 3 0 0 0 0 0)] ∧ ToReg (iw 2 3 3 0 0 0 0 0) ∧ Fields (iw 2 3 3 0 0 0 0 0) 2 3 0 0 0 0 ∧
    Ready (iw 2 3 3 0 0 0 0 0x106) 0 [zDstReg (iw 2 3 3 0 0 0 0 0x106)] ∧ Fields (iw 2 3 3 0 0 0 0 0x106) 2 3 0 0 0 0x106 ∧
    Ready (iw 2 3 3 1 0 0 1 0) 0 [sDst 1, zDstReg (iw 2 3 3 1 0 0 1 0)] (regs 0x107) ∧ Fields (iw 2 3 3 1 0 0 1 0) 2 3 1 0 1 0 ∧
    ((zs (iw 2 3 3 1 0 0 1 0) 0 (regs 0x107)).stoker 0 0).sreg 1 = 0x107 := by
  repeat' apply And.intro
  all_goals first | decide +kernel | exact canon_of _ (by decide +kernel) | exact issues_of _ _ _ _ _ _ (by decide +kernel)

/-- An access of the Stoker that has not finished. -/
def flying (kind : AccKind) (agent : Agent) (todo : List Run) : Acc :=
  { id := 3, gal := 1, wo := some 5, hearth := 0, stoker := 0, pc := 0, seq := 0, agent := agent, kind := kind, todo := todo
    base := 0x10000000 }

def flagWaiting : Stoker := { seq := 4, st := .parkedFlag, wait := .flag 0x10000000 (sDst 3) 0 0 }

theorem witness_FencesAndFlags :
    Ready (iw 3 1 0 0 0 0 0 0) 0 [] ∧ NoDst (iw 3 1 0 0 0 0 0 0) ∧ Fields (iw 3 1 0 0 0 0 0 0) 3 1 0 0 0 0 ∧
    (zs (iw 3 1 0 0 0 0 0 0)).fenceDone 0 0 0 false = true ∧ Ready (iw 3 3 0 0 0 0 0 0) 0 [] ∧
    Fields (iw 3 3 0 0 0 0 0 0) 3 3 0 0 0 0 ∧
    ({ zs (iw 3 3 0 0 0 0 0 0) 0 { seq := 1 } with accs := [flying .store .memStore [{ va := 0x10000000, len := 8 }]] } : State).fenceDone 0 0 1 true =
      false ∧
    Ready (iw 3 2 0 0 0 0 0 0) 0 [] ∧ Fields (iw 3 2 0 0 0 0 0 0) 3 2 0 0 0 0 ∧ (zs (iw 3 2 0 0 0 0 0 0)).waitsOnHalt 0 0 0 = false ∧
    Ready (iw 3 4 0 1 2 0 0 8) 0 [sDst 1, sDst 2] (regs 0x10000000) ∧ Fields (iw 3 4 0 1 2 0 0 8) 3 4 1 2 0 8 ∧
    Ready (iw 3 5 3 1 2 0 0 8) 0 [sDst 1, sDst 2, zDstReg (iw 3 5 3 1 2 0 0 8)] (regs 0x10000000) ∧ ToReg (iw 3 5 3 1 2 0 0 8) ∧
    Fields (iw 3 5 3 1 2 0 0 8) 3 5 1 2 0 8 ∧ (zs (iw 3 5 3 1 2 0 0 8) 0 (regs 0x10000000)).memReadsOut 0 0 0 = false ∧
    Ready (iw 3 6 3 1 2 0 18 8) 0 [sDst 1, sDst 2, zDstReg (iw 3 6 3 1 2 0 18 8)] (regs 0x10000000) ∧
    Fields (iw 3 6 3 1 2 0 18 8) 3 6 1 2 (2 * 9) 8 ∧
    ((stoking flagWaiting).stoker 0 0).wait = .flag 0x10000000 (sDst 3) 0 0 ∧ (stoking flagWaiting).accs = [] ∧
    (stoking flagWaiting).check 1 .flagWait 0x10000000 = .ok (.shared 0x100000) (some 1) ∧
    (stoking flagWaiting).sharedLost 0x100000 8 = false ∧
    condHolds 0 (BitVec.ofNat 64 (leNat (bytesAt (stoking flagWaiting).shared 0x100000 8))) 0 = true ∧
    condHolds 1 (BitVec.ofNat 64 (leNat (bytesAt (stoking flagWaiting).shared 0x100000 8))) 0 = false := by
  repeat' apply And.intro
  all_goals first | decide +kernel | exact canon_of _ (by decide +kernel) | exact issues_of _ _ _ _ _ _ (by decide +kernel) |
    exact ok_of _ _ _ (by decide +kernel)

theorem damper_waits (n : Nat) : ((zs (iw 3 7 0 0 0 0 0 0)).stoker 0 0).wait ≠ .damperFence n := by
  have h : ((zs (iw 3 7 0 0 0 0 0 0)).stoker 0 0).wait = .none := by decide +kernel
  rw [h]
  simp

theorem witness_DampersTimeAndPace :
    Ready (iw 3 7 0 0 0 0 0 0) 0 [] ∧ NoDst (iw 3 7 0 0 0 0 0 0) ∧ Fields (iw 3 7 0 0 0 0 0 0) 3 7 0 0 0 0 ∧
    (∀ n, ((zs (iw 3 7 0 0 0 0 0 0)).stoker 0 0).wait ≠ .damperFence n) ∧ (zs (iw 3 7 0 0 0 0 0 0)).fenceDone 0 0 0 true = true ∧
    ({ zs (iw 3 7 0 0 0 0 0 0) 0 { seq := 1 } with accs := [flying .store .memStore [{ va := 0x10000000, len := 8 }]] } : State).fenceDone 0 0 1 true =
      false ∧
    ((stoking { st := .parkedFence, wait := .damperFence 3, seq := 4 }).stoker 0 0).wait = .damperFence 3 ∧
    (stoking { st := .parkedFence, wait := .damperFence 3, seq := 4 }).fenceDone 0 0 3 true = true ∧
    ((stoking { st := .parkedDamper, wait := .damper, rounds := 1 } ).stokersOf 5).filter (fun p =>
      decide (((stoking { st := .parkedDamper, wait := .damper, rounds := 1 }).stoker p.1 p.2).wait = .damper)) = [(0, 0)] ∧
    (∀ p ∈ (stoking { st := .parkedDamper, wait := .damper, rounds := 1 }).stokersOf 5,
      (stoking { st := .parkedDamper, wait := .damper, rounds := 1 }).arrived p.1 p.2 = true) ∧
    Ready (iw 3 8 3 0 0 0 0 0) 0 [zDstReg (iw 3 8 3 0 0 0 0 0)] ∧ ToReg (iw 3 8 3 0 0 0 0 0) ∧ Fields (iw 3 8 3 0 0 0 0 0) 3 8 0 0 0 0 ∧
    Ready (iw 3 8 3 0 0 0 1 0) 0 [zDstReg (iw 3 8 3 0 0 0 1 0)] ∧ Fields (iw 3 8 3 0 0 0 1 0) 3 8 0 0 1 0 ∧
    Ready (iw 3 9 3 0 0 0 0 0) 0 [zDstReg (iw 3 9 3 0 0 0 0 0)] ∧ Fields (iw 3 9 3 0 0 0 0 0) 3 9 0 0 0 0 := by
  repeat' apply And.intro
  all_goals first | decide +kernel | exact damper_waits | exact canon_of _ (by decide +kernel) |
    exact issues_of _ _ _ _ _ _ (by decide +kernel)

/-- Stoker 0 with stream `q` on handle 2, `a` in s1 and `b` in s2. -/
def bound (q : Stream) (a : W64 := 0) (b : W64 := 0) : Stoker :=
  { handles := [(2, some q)], s := mset 0 (mset 0 [] 1 a) 2 b, seq := 5 }

def waitingOpen (t : Nat) : Opening := { handle := 7, stoker := 0, pc := 0, tags := t, mode := .pull, lens := [], granted := false }

/-- STR.OPEN and STR.OPEN.L of handle 2, with 256 tags, and the grant of tags. -/
theorem witness_StreamsOpen :
    Ready (iw 8 1 2 1 0 3 0 255) 0 [sDst 1] (regs 0x10000000) ∧ Fields (iw 8 1 2 1 0 3 0 255) 8 1 1 0 0 255 ∧
    zSpace (iw 8 1 2 1 0 3 0 255) = 3 ∧ zDst (iw 8 1 2 1 0 3 0 255) < 16 ∧ bits (zImm (iw 8 1 2 1 0 3 0 0x2FF)) 8 2 ≠ 3 ∧
    ((zs (iw 8 1 2 1 0 3 0 255) 0 (regs 0x10000000)).stoker 0 0).stream? 2 = none ∧
    (zs (iw 8 1 2 1 0 3 0 255) 0 (regs 0x10000000)).opening 0 0 2 = false ∧ ((regs 0x10000000).sreg 1).toNat % 8 = 0 ∧
    (256 ≤ ((zs (iw 8 1 2 1 0 3 0 255) 0 (regs 0x10000000)).hearth 0).freeTags) ∧
    Ready (iw 8 1 2 1 0 3 0 255) 0 [sDst 1] (regs 0x10000000) { openings := [waitingOpen 256] } ∧
    Ready (iw 8 0x20 2 1 0 3 0 0x1FF) 8 (sDst 1 :: extUses 8) (regs 0x10000000) ∧ extLegal 8 = true ∧
    Fields (iw 8 0x20 2 1 0 3 0 0x1FF) 8 0x20 1 0 0 0x1FF ∧
    [waitingOpen 256].find? (fun p => !p.granted) = some (waitingOpen 256) ∧
    ({ openings := [waitingOpen 256] } : Hearth).freeTags = 256 ∧
    ({ openings := [{ waitingOpen 1 with handle := 8, granted := true }, waitingOpen 256] } : Hearth).freeTags < 256 ∧
    (∀ p ∈ [{ waitingOpen 1 with handle := 8, granted := true }, waitingOpen 255], p.granted = true → p.desc = none) ∧
    [{ waitingOpen 256 with desc := some (row4, []) }].find? (fun p => !p.granted) = some { waitingOpen 256 with desc := some (row4, []) } ∧
    (∀ p ∈ [{ waitingOpen 1 with handle := 8, granted := true }, waitingOpen 255], p.stoker = 0 → p.handle = 7 → p = waitingOpen 255) := by
  repeat' apply And.intro
  all_goals first | decide +kernel | exact canon_of _ (by decide +kernel) | exact issues_of _ _ _ _ _ _ (by decide +kernel)

def fullOps : Stream :=
  { stream .pull with opCount := 16, ops := (List.range 16).map fun i => ⟨0, 1, 0, 0, 0, i⟩ }

/-- Positions of four elements, the last of them a tail, and of none; a stream with sixteen operations, and a halted one. -/
theorem witness_StreamOperations :
    Ready (iw 8 2 3 1 0 0 18 4) 0 [sDst 1, zDstReg (iw 8 2 3 1 0 0 18 4)] (bound (stream .pull) 0xFFFFFFFC00000) ∧
    ToReg (iw 8 2 3 1 0 0 18 4) ∧ zClass (iw 8 2 3 1 0 0 18 4) = 8 ∧ zOp (iw 8 2 3 1 0 0 18 4) = 2 ∧
    zSub (iw 8 2 3 1 0 0 18 4) = 2 + 16 ∧ zB (iw 8 2 3 1 0 0 18 4) = 0 ∧ (bound (stream .pull)).stream? 2 = some (stream .pull) ∧
    2 = bits (zSub (iw 8 2 3 1 0 0 18 4)) 0 4 ∧ 4 = min 4 ((stream .pull).total - (stream .pull).assigned) ∧
    hobAperture ≤ ((bound (stream .pull) 0xFFFFFFFC00000).sreg 1).toNat ∧
    ((bound (stream .pull) 0xFFFFFFFC00000).sreg 1).toNat < 2 ^ 52 ∧
    ((bound (stream .pull) 0xFFFFFFFC00000).sreg 1).toNat - hobAperture + (4 * (stream .pull).desc.fmt.bits + 7) / 8 ≤
      ((zs 0).gal 1).hobSize.toNat * 65536 ∧
    ((bound (stream .pull) 0xFFFFFFFC00000).sreg 1).toNat % (stream .pull).desc.fmt.size = 0 ∧
    Ready (iw 8 3 3 1 2 0 2 0) 0 [sDst 1, zDstReg (iw 8 3 3 1 2 0 2 0), sDst 2] (bound (stream .push) 0xFFFFFFFC00000 9) ∧
    zSub (iw 8 3 3 1 2 0 2 0) = 2 ∧ zImm (iw 8 3 3 1 2 0 2 0) = 0 ∧ (stream .push).mode = .push ∧
    Ready (iw 8 2 3 0 0 0 18 0) 0 [sDst 0, zDstReg (iw 8 2 3 0 0 0 18 0)] (bound (stream .grate)) ∧ (stream .grate).mode = .grate ∧
    zA (iw 8 2 3 0 0 0 18 0) = 0 ∧ Ready (iw 8 2 3 1 0 0 18 4) 0 [sDst 1, zDstReg (iw 8 2 3 1 0 0 18 4)] (bound fullOps) ∧
    16 ≤ fullOps.ops.length ∧ (stream .pull).ops.length < 16 ∧
    Ready (iw 8 4 0 0 0 0 2 15) 0 [] (bound fullOps) ∧ NoDst (iw 8 4 0 0 0 0 2 15) ∧ Fields (iw 8 4 0 0 0 0 2 15) 8 4 0 0 2 15 ∧
    ¬ (∀ o ∈ fullOps.ops, fullOps.opCount ≤ o.ord + 15) ∧ (∀ o ∈ (stream .pull).ops, (stream .pull).opCount ≤ o.ord + 15) ∧
    Ready (iw 8 5 3 0 0 0 2 7) 0 [zDstReg (iw 8 5 3 0 0 0 2 7)] (bound (stream .pull)) ∧ Fields (iw 8 5 3 0 0 0 2 7) 8 5 0 0 2 7 ∧
    Ready (iw 8 6 0 0 0 0 2 0) 0 [] (bound (stream .pull)) ∧ Fields (iw 8 6 0 0 0 0 2 0) 8 6 0 0 2 0 ∧
    (zs (iw 8 6 0 0 0 0 2 0) 0 (bound (stream .pull))).closeDone 0 0 2 = true ∧
    (zs (iw 8 6 0 0 0 0 2 0) 0 (bound fullOps)).closeDone 0 0 2 = false := by
  repeat' apply And.intro
  all_goals first | decide +kernel | exact canon_of _ (by decide +kernel) | exact issues_of _ _ _ _ _ _ (by decide +kernel)

def absentHalt : Halt := { va := 0x10000000, seg := 1, faultSeq := none }

theorem witness_HaltsOfStokersAndStreams :
    Ready (iw 0 6 0 0 0 0 0 0) 0 [] (bound (stream .pull)) ∧ NoDst (iw 0 6 0 0 0 0 0 0) ∧ Fields (iw 0 6 0 0 0 0 0 0) 0 6 0 0 0 0 ∧
    (∀ o ∈ ((zs (iw 0 6 0 0 0 0 0 0) 0 (bound (stream .pull))).hearth 0).openings, o.stoker ≠ 0) ∧
    (∀ c ∈ (bound (stream .pull)).handles, ∀ q, c.2 = some q → q.halted = false) ∧
    ({ stream .pull with halt := some { absentHalt with faultSeq := some 1 } }).halted = true ∧
    Ready (iw 0 6 0 0 0 0 0 0) 0 [] (bound { stream .pull with halt := some { absentHalt with faultSeq := some 1 } }) ∧
    ((stoking (bound { stream .pull with halt := some absentHalt })).stoker 0 0).stream? 2 =
      some { stream .pull with halt := some absentHalt } ∧ absentHalt.faultSeq = none ∧
    (stoking (bound { stream .pull with halt := some absentHalt })).streamPieces 0 0 2 = [] ∧
    (stoking (bound { stream .pull with halt := some absentHalt })).undecided 5 = true ∧
    ((gallery .opened).fqWritten - (gallery .opened).fqHead).toNat ≠ 2 ^ (gallery .opened).fqLog2 ∧
    ((stoking (bound { stream .pull with halt := some absentHalt })).port .a).usable = true ∧
    (1 : W32) = (if (gallery .opened).fqSeq + 1 = 0 then 1 else (gallery .opened).fqSeq + 1) ∧
    (stoking (bound { stream .pull with halt := some absentHalt })).check 1 .recordWrite 0x4000 = .ok (.host 0x10004000) (some 0) := by
  repeat' apply And.intro
  all_goals first | decide +kernel | exact canon_of _ (by decide +kernel) |
    exact fun c h q e => by simp [bound] at h; subst h; cases e; rfl | exact issues_of _ _ _ _ _ _ (by decide +kernel) |
    exact ok_of _ _ _ (by decide +kernel)

/-- A B operand of 32 by 32 and an A operand of one row, FP16, and streams of them. -/
def tileB : Desc :=
  { base := 0x10000000, fmt := .fp16, layout := .ilB32, sparse := .dense, scale := 0, sfmt := .none, fill := 0
    dims := [{ extent := 32, stride := 1024, tile := 32 }, { extent := 32, stride := 1024, tile := 32 }] }
def rowsA : Desc :=
  { base := 0x10000000, fmt := .fp16, layout := .ilA32, sparse := .dense, scale := 0, sfmt := .none, fill := 0
    dims := [{ extent := 32, stride := 32, tile := 32 }, { extent := 1, stride := 32, tile := 1 }] }
def streamA : Stream := { mode := .grate, desc := rowsA, raw := [], cut := [32, 1], tags := 1 }
def streamB : Stream := { mode := .grate, desc := tileB, raw := [], cut := [32, 32], tags := 4 }

/-- Stoker 0 holds position 5, A on handle 2 and B on handle 3. -/
def grating : Stoker := { claim := [5], handles := [(2, some streamA), (3, some streamB)], seq := 5 }

def claimFor (k n : Nat) : ClaimWait := { stoker := k, ember := false, n := n, ashBase := 0, ashCap := 0, pc := 0 }

theorem witness_GratePositions :
    Ready (iw 0x10 3 0 0 0 0 1 0) 0 [] ∧ NoDst (iw 0x10 3 0 0 0 0 1 0) ∧ Fields (iw 0x10 3 0 0 0 0 1 0) 0x10 3 0 0 1 0 ∧
    ((zs (iw 0x10 3 0 0 0 0 1 0)).hearth 0).grateBusy 0 = false ∧
    Ready (iw 0x10 3 0 0 0 0 1 0) 0 [] grating { loadBs := [⟨0, 1, 5, 3, 0, 0, 1024⟩] } ∧
    ((zs (iw 0x10 3 0 0 0 0 1 0) 0 grating { loadBs := [⟨0, 1, 5, 3, 0, 0, 1024⟩] }).hearth 0).grateBusy 0 = true ∧
    Ready (iw 0x10 3 0 0 0 0 1 16) 0 [] ∧ Fields (iw 0x10 3 0 0 0 0 1 16) 0x10 3 0 0 1 16 ∧
    16 ≤ ((zs (iw 0x10 3 0 0 0 0 1 16)).hearth 0).freePositions.length ∧
    Ready (iw 0x10 3 0 0 0 0 1 1) 0 [] {} { claims := [claimFor 1 16] } ∧ (∀ c ∈ [claimFor 1 16], c.ember = true ∨ c.stoker ≠ 0) ∧
    (∃ c ∈ [claimFor 1 16], c.ember = false) ∧ [claimFor 0 16].find? (fun c => !c.ember) = some (claimFor 0 16) ∧
    (∀ d ∈ [claimFor 0 16], d.ember = false) ∧ Canon (zs 0 0 {} { claims := [claimFor 0 16] }) ∧
    Ready (iw 0x10 3 0 0 0 0 0 (7 * 128)) 0 [] grating ∧ Fields (iw 0x10 3 0 0 0 0 0 (7 * 128)) 0x10 3 0 0 0 (7 * 128) ∧
    grating.releasing = false ∧ grating.claim[bits (zImm (iw 0x10 3 0 0 0 0 0 (7 * 128))) 0 4]? = some 5 ∧
    ((zs (iw 0x10 3 0 0 0 0 0 (7 * 128)) 0 grating).hearth 0).slotsBusy 0 5 0 8 5 0 = false ∧
    Ready (iw 0x10 1 0 0 0 0 0 (3 * 2048)) 0 [] grating ∧ Fields (iw 0x10 1 0 0 0 0 0 (3 * 2048)) 0x10 1 0 0 0 (3 * 2048) ∧
    gF (iw 0x10 1 0 0 0 0 0 (3 * 2048)) = 0 ∧ gHA (iw 0x10 1 0 0 0 0 0 (3 * 2048)) = 0 ∧ gRows (iw 0x10 1 0 0 0 0 0 (3 * 2048)) = 1 ∧
    grating.claim[gJ (iw 0x10 1 0 0 0 0 0 (3 * 2048))]? = some 5 ∧
    grating.stream? (gHB (iw 0x10 1 0 0 0 0 0 (3 * 2048))) = some streamB ∧ tileB.latchable (decide ((0 : Nat) = 8)) = true ∧
    streamB.claimed + (tileOf tileB).elems ≤ streamB.total ∧
    Ready (iw 0x12 3 3 0 0 0 0 0) 0 [zDstReg (iw 0x12 3 3 0 0 0 0 0)] ∧ ToReg (iw 0x12 3 3 0 0 0 0 0) ∧
    Fields (iw 0x12 3 3 0 0 0 0 0) 0x12 3 0 0 0 0 := by
  repeat' apply And.intro
  all_goals first | decide +kernel | exact canon_of _ (by decide +kernel) | exact issues_of _ _ _ _ _ _ (by decide +kernel)

/-- GRT.MM with Z and SB, and GRT.MM.X with one chunk, of one row. -/
theorem witness_GrateProducts :
    Ready (iw 0x10 2 0 0 0 0 17 (2 * 128 + 3 * 2048)) 0 [] grating ∧ NoDst (iw 0x10 2 0 0 0 0 17 (2 * 128 + 3 * 2048)) ∧
    zClass (iw 0x10 2 0 0 0 0 17 (2 * 128 + 3 * 2048)) = 0x10 ∧ mmLegal (iw 0x10 2 0 0 0 0 17 (2 * 128 + 3 * 2048)) {} = true ∧
    gSB (iw 0x10 2 0 0 0 0 17 (2 * 128 + 3 * 2048)) = true ∧ gBL (iw 0x10 2 0 0 0 0 17 (2 * 128 + 3 * 2048)) = false ∧
    grating.stream? (gHA (iw 0x10 2 0 0 0 0 17 (2 * 128 + 3 * 2048))) = some streamA ∧
    grating.stream? (gHB (iw 0x10 2 0 0 0 0 17 (2 * 128 + 3 * 2048))) = some streamB ∧
    mmKind rowsA (tileOf tileB) (iw 0x10 2 0 0 0 0 17 (2 * 128 + 3 * 2048)) = some .fp ∧ tileB.layout.isB = true ∧
    gF (iw 0x10 2 0 0 0 0 17 (2 * 128 + 3 * 2048)) + 0 * 0 + cover false 1 ≤ 8 ∧
    streamA.claimed + (0 + 1) * 1 * aNeed false 1 (tileOf tileB).kt ≤ streamA.total ∧
    streamB.claimed + (0 + 1) * 1 * (tileOf tileB).elems ≤ streamB.total ∧ order.kindle = false ∧
    Ready (iw 0x10 0x22 0 0 0 0 17 (2 * 128 + 3 * 2048)) (1 + 2 ^ 16) [lDst 0] { grating with lens := [(0, 1)] } ∧
    mmLegal (iw 0x10 0x22 0 0 0 0 17 (2 * 128 + 3 * 2048)) (mmShape (1 + 2 ^ 16)) = true ∧ (mmShape (1 + 2 ^ 16)).kc = 1 ∧
    (mmShape (1 + 2 ^ 16)).enr = true ∧ (mmShape (1 + 2 ^ 16)).enk = false := by
  repeat' apply And.intro
  all_goals first | decide +kernel | exact canon_of _ (by decide +kernel) | exact issues_of _ _ _ _ _ _ (by decide +kernel)

/-- One row of A on handle 2, in the tags, for a chain whose B tile is in the latch of position 5. -/
def readyA : Stream := { streamA with data := (List.range 32).map fun i => (i, some 0x3C00) }
def ones : Tile := { tileOf tileB with data := List.replicate 1024 0x3C00 }
def chain0 : Chain :=
  { id := 4, ord := 0, chunks := 1, kt := 32, planned := 1, fmtA := .fp16, sfmtA := .none, fmtB := .fp16, sfmtB := .none, sparse := .dense
    quad := false, trans := false, sb := false, kind := .fp
    groups := [{ gal := 1, wo := 5, stoker := 0, pc := 0, seq := 1, rows := 1, ha := 2, aPos := 0, hb := 0, bPos := 0, pos := 5, slot := 0 }] }

/-- Chain `c` waits or runs on Hearth 0, and latch 5 holds a tile. -/
def chained (c : Chain) : State :=
  stoking { st := .ready, claim := [5], seq := 5, handles := [(2, some readyA)] } order { chains := [c], latches := [(5, some ones)] }

/-- A drain of one slot into a row of four elements, whose descriptor has come. -/
def drain : FluOp :=
  { id := 4, stoker := 0, wo := 5, gal := 1, pc := 0, seq := 1, pos := 5, slot := 0, n := 1, clr := true, scale := none, lens := []
    desc := some row4 }
def draining : State := stoking { st := .ready, claim := [5], seq := 5 } order { flus := [drain], slots := [(40, { kind := .fp, vals := [(0, 0x3F800000)] })] }

def embered : Stoker :=
  { ember := some { blocks := 1, ashBase := 0x10000000, ashCap := 0, table := [(0, some (3, 0x3F800000))] }, seq := 5
    s := [(1, 0x10000000), (2, 1)] }

theorem witness_ChainsAndFlues : Canon (chained chain0) ∧ ((chained chain0).hearth 0).chain? 4 = some chain0 ∧
    ((chained chain0).hearth 0).fenced = false ∧ mget none ((chained chain0).hearth 0).latches 5 = some ones ∧
    ((chained chain0).hearth 0).chainFree chain0 = true ∧
    (∀ g, chain0.groups.head? = some g → (chained chain0).aReady 0 chain0 g 0 0 1 = true) ∧ (chained chain0).bReady 0 chain0 0 = true ∧
    5 ∈ (chained chain0).idleGrates 0 ∧ (chained { chain0 with began := true, grate := some 5 }).idleGrates 0 =
      [0, 1, 2, 3, 4, 6, 7, 8, 9, 10, 11, 12, 13, 14, 15] ∧
    ((chained { chain0 with began := true, grate := some 5, tile := some ones }).hearth 0).chain? 4 =
      some { chain0 with began := true, grate := some 5, tile := some ones } ∧
    (∀ e ∈ chain0.groups, (chained { chain0 with began := true, grate := some 5, tile := some ones }).aReady 0
      { chain0 with began := true, grate := some 5, tile := some ones } e 0 0 1 = true) ∧
    bitAt ((chained { chain0 with began := true, grate := some 5, done := 1 }).hearth 0).grateDue.toNat 5 = false ∧
    Ready (iw 0x11 1 0 1 2 0 3 (7 * 128)) 0 [sDst 1, sDst 2] { regs 0x10000000 with claim := [5] } ∧
    NoDst (iw 0x11 1 0 1 2 0 3 (7 * 128)) ∧ zClass (iw 0x11 1 0 1 2 0 3 (7 * 128)) = 0x11 ∧
    (zs (iw 0x11 1 0 1 2 0 3 (7 * 128)) 0 { regs 0x10000000 with claim := [5] }).fluOut 0 0 < 8 ∧
    Ready (iw 0x11 0x20 0 1 0 0 0 0) 8 (sDst 1 :: extUses 8) { regs 0x10000000 with claim := [5] } ∧
    Canon draining ∧ (draining.hearth 0).flus.find? (fun f => decide (f.id = 4)) = some drain ∧
    (draining.hearth 0).slotsBusy 0 5 0 1 1 0 = false ∧
    writeElems row4.fmt ((List.range row4.plannedLen).map fun n =>
      (row4.plannedElem (row4.cutWith []) n, (draining.hearth 0).drained drain row4 n)) ≠ [] ∧
    Ready (iw 0x11 2 3 1 2 0 0 0) 0 [sDst 1, sDst 2, zDstReg (iw 0x11 2 3 1 2 0 0 0)] embered ∧ ToReg (iw 0x11 2 3 1 2 0 0 0) ∧
    Fields (iw 0x11 2 3 1 2 0 0 0) 0x11 2 1 2 0 0 ∧ (zs (iw 0x11 2 3 1 2 0 0 0) 0 embered).emberOut 0 0 5 = false := by
  repeat' apply And.intro
  all_goals first | decide +kernel | exact canon_of _ (by decide +kernel) |
    exact fun g e => by simp only [chain0, List.head?_cons, Option.some.injEq] at e; subst e; decide +kernel |
    exact issues_of _ _ _ _ _ _ (by decide +kernel)

/-- The scan of an Ash region of no slots stops nowhere. -/
theorem witness_ChainsAndFlues_scan (s : State) : (AshRun.scan 1 { blocks := 1, ashBase := 0, ashCap := 0 } 0 0 { s := s } []).1.wait = none ∧
    (AshRun.scan 1 { blocks := 1, ashBase := 0, ashCap := 0 } 0 0 { s := s } []).1.fault = none := ⟨rfl, rfl⟩

def emberClaim (k cap : Nat) : ClaimWait := { stoker := k, ember := true, n := 64, ashBase := 0x10000000, ashCap := cap, pc := 0 }

/-- Two pairs in the Hob window and none; claims of 64 blocks, granted, queued and released. -/
theorem witness_EmberOperations :
    Ready (iw 0x12 1 3 1 2 0 0 0) 0 [sDst 1, sDst 2, zDstReg (iw 0x12 1 3 1 2 0 0 0)] { embered with s := [(1, 0xFFFFFFFC00000), (2, 2)] } ∧
    ToReg (iw 0x12 1 3 1 2 0 0 0) ∧ Fields (iw 0x12 1 3 1 2 0 0 0) 0x12 1 1 2 0 0 ∧
    ((0xFFFFFFFC00000 : W64)).toNat % 8 = 0 ∧ hobAperture ≤ (0xFFFFFFFC00000 : W64).toNat ∧ (0xFFFFFFFC00000 : W64).toNat < 2 ^ 52 ∧
    (0xFFFFFFFC00000 : W64).toNat - hobAperture + 8 * 2 ≤ ((zs 0).gal 1).hobSize.toNat * 65536 ∧ embered.ember ≠ none ∧
    embered.emberReleasing = false ∧ Ready (iw 0x12 1 3 1 0 0 0 0) 0 [sDst 1, sDst 0, zDstReg (iw 0x12 1 3 1 0 0 0 0)] embered ∧
    Ready (iw 0x12 2 0 1 2 0 0 0) 0 [sDst 1, sDst 2] embered ∧ NoDst (iw 0x12 2 0 1 2 0 0 0) ∧ Fields (iw 0x12 2 0 1 2 0 0 0) 0x12 2 1 2 0 0 ∧
    [emberClaim 0 0].find? (fun c => c.ember) = some (emberClaim 0 0) ∧ (∀ d ∈ [emberClaim 0 0], d.ember = true) ∧
    64 ≤ ((zs 0 0 {} { claims := [emberClaim 0 0] }).hearth 0).freeBlocks ∧ Canon (zs 0 0 {} { claims := [emberClaim 0 0] }) ∧
    Ready (iw 0x12 1 0 1 2 0 1 64) 0 [sDst 1, sDst 2] (regs 0x10000000) ∧ Fields (iw 0x12 1 0 1 2 0 1 64) 0x12 1 1 2 1 64 ∧
    64 ≤ ((zs (iw 0x12 1 0 1 2 0 1 64) 0 (regs 0x10000000)).hearth 0).freeBlocks ∧
    Ready (iw 0x12 1 0 1 2 0 1 64) 0 [sDst 1, sDst 2] (regs 0x10000000) { claims := [emberClaim 1 0] } ∧
    (∀ c ∈ [emberClaim 1 0], c.ember = false ∨ c.stoker ≠ 0) ∧ (∃ c ∈ [emberClaim 1 0], c.ember = true) ∧
    Ready (iw 0x12 1 0 1 2 0 1 0) 0 [sDst 1, sDst 2] embered ∧ Fields (iw 0x12 1 0 1 2 0 1 0) 0x12 1 1 2 1 0 ∧
    (zs (iw 0x12 1 0 1 2 0 1 0) 0 embered).emberOut 0 0 5 = false ∧
    ({ zs (iw 0x12 1 0 1 2 0 1 0) 0 embered with accs := [flying .emberInit .ash []] } : State).emberOut 0 0 5 = true := by
  repeat' apply And.intro
  all_goals first | decide +kernel | exact canon_of _ (by decide +kernel) | exact issues_of _ _ _ _ _ _ (by decide +kernel)

/-! ## The Cabinets and the Stove -/

/-- The Hob window begins with a block that passes the checks of both: a call of engine 4, or an entry 0. -/
def hobVa : W64 := 0xFFFFFFFC00000
def blocked (n : Nat) (r : Bool := false) (cs : List Call := []) (v : Stove := {}) : Hearth :=
  { hob := putBytes [] 0 [BitVec.ofNat 8 n], stoveRoute := r, calls := cs, stove := v }

/-- A call of engine 4, or of the Stove, by Stoker 0 of Hearth 0. -/
def call0 : Call :=
  { id := 6, gal := 1, wo := 5, hearth := 0, stoker := 0, pc := 0, seq := 1, engine := 4, ord := 0, cabinet := 0
    block := 4 :: List.replicate 127 0 }

/-- The call runs on the Cabinet of quadrant 0, or waits. -/
def calling (c : Call) (runs : Bool) : State :=
  (stoking { st := .ready, seq := 2, cabCalls := 1 } order { calls := [c] }).setCabinet 0
    { running := if runs then [(4, some (0, 6))] else [] }

theorem witness_CabinetCalls :
    Ready (iw 0x18 1 0 1 0 0 0 0) 0 [sDst 1] (regs hobVa) (blocked 4 true) ∧ NoDst (iw 0x18 1 0 1 0 0 0 0) ∧
    Fields (iw 0x18 1 0 1 0 0 0 0) 0x18 1 1 0 0 0 ∧ (blocked 4 true).stoveRoute = true ∧
    Ready (iw 0x18 1 0 1 0 0 0 0) 0 [sDst 1] (regs hobVa) (blocked 4) ∧
    (zs (iw 0x18 1 0 1 0 0 0 0) 0 (regs hobVa) (blocked 4)).callReleased 0 0 = true ∧ hobAperture ≤ hobVa.toNat ∧
    hobVa.toNat < 2 ^ 52 ∧ hobVa.toNat - hobAperture + 128 ≤ ((zs 0).gal 1).hobSize.toNat * 65536 ∧ hobVa.toNat % 64 = 0 ∧
    cabBlockOk ((zs (iw 0x18 1 0 1 0 0 0 0) 0 (regs hobVa) (blocked 4)).hobBlock 0 1 hobVa.toNat 128) = true ∧
    (zs 0).engineGone 4 = false ∧
    Ready (iw 0x18 2 0 0 0 0 0 3) 0 [] ∧ NoDst (iw 0x18 2 0 0 0 0 0 3) ∧ Fields (iw 0x18 2 0 0 0 0 0 3) 0x18 2 0 0 0 3 ∧
    Ready (iw 0x19 3 0 0 0 0 0 0) 0 [] ∧ Fields (iw 0x19 3 0 0 0 0 0 0) 0x19 3 0 0 0 0 ∧
    ((zs (iw 0x18 2 0 0 0 0 0 3)).hearth 0).callsWaited 0 true 3 = true ∧ (zs (iw 0x18 2 0 0 0 0 0 3)).fenceDone 0 0 0 false = true ∧
    ({ zs (iw 0x18 2 0 0 0 0 0 3) 0 { seq := 1 } with accs := [flying (.load (sDst 1) 8 false) .memLoad [{ va := 0x10000000, len := 8 }]] } :
      State).fenceDone 0 0 1 false = false ∧
    ((zs (iw 0x18 2 0 0 0 0 0 0) 0 { cabCalls := 1 } { calls := [call0] }).hearth 0).callsWaited 0 true 0 = false ∧
    Canon (calling call0 false) ∧ mget none ((calling call0 false).cabinet 0).running 4 = none ∧
    bitAt ((calling call0 false).cabinet 0).fenced.toNat 3 = false ∧ (calling call0 false).nextCall 0 4 = some call0 ∧
    (calling call0 false).call? 0 6 = some call0 ∧ (∀ a ∈ call0.descAddrs, a % 8 = 0) ∧
    Canon (calling { call0 with st := .finished } true) ∧
    mget none ((calling { call0 with st := .finished } true).cabinet 0).running 4 = some (0, 6) ∧
    (calling { call0 with st := .finished } true).callIdle call0 = true ∧ call0.failed = false ∧ call0.tries = 0 ∧
    (calling { call0 with st := .finished, tries := 1 } true).call? 0 6 = some { call0 with st := .finished, tries := 1 } := by
  repeat' apply And.intro
  all_goals first | decide +kernel | exact canon_of _ (by decide +kernel) | exact issues_of _ _ _ _ _ _ (by decide +kernel)

def patLoad : StoveLoad := { gal := 1, wo := 5, stoker := 0, pc := 0, src := 0x10000000, len := 3552 }

/-- An image of one entry of one step, one lane and one cell that does nothing, with its CRC32C. -/
def patHead : List Byte := [83, 84, 79, 86, 1, 0, 1, 0, 224, 13, 0, 0, 1, 0, 0, 0, 204, 163, 102, 153]
def patBuf : Sparse Byte := putBytes (putBytes [] 0x10000000 patHead) 0x10000102 [1, 32, 0, 120]
def patAcc : Acc := { flying .pattern .stoveRead [] with wo := some 5, buf := patBuf }

/-- A load waits for the image that has come. -/
def loadingOne : State :=
  { (stoking { st := .ready } order { stove := { st := .loading, gal := 1, src := 0x10000000, cur := some (patLoad, 3) } }) with accs := [patAcc] }

def stvCall : Call := { call0 with engine := 0, ord := 0, block := List.replicate 64 0, pat := (0x10000000, 3552) }

/-- The call is at the head of the queue, and its pattern is resident. -/
def stoved (c : Call) : State :=
  stoking { st := .ready, stvCalls := 1, seq := 2 } order { calls := [c], stove := {
    st := .resident, gal := 1, src := 0x10000000, len := 3552, image := bytesAt patBuf 0x10000000 3552, queue := [.call 6] } }

/-- A left fold whose value is computed at each element. -/
def foldNow (f : Nat → Byte → Nat) : Nat → List Byte → Nat
  | c, [] => c
  | 0, b :: bs => foldNow f (f 0 b) bs
  | c + 1, b :: bs => foldNow f (f (c + 1) b) bs

theorem foldNow_cons (f : Nat → Byte → Nat) (c : Nat) (b : Byte) (bs : List Byte) : foldNow f c (b :: bs) = foldNow f (f c b) bs := by
  cases c <;> rfl

theorem foldNow_nil (f : Nat → Byte → Nat) (c : Nat) : foldNow f c [] = c := by cases c <;> rfl

theorem foldl_now (f : Nat → Byte → Nat) (bs : List Byte) : ∀ c, bs.foldl f c = foldNow f c bs := by
  induction bs with
  | nil => intro c; rw [foldNow_nil, List.foldl_nil]
  | cons b bs ih => intro c; rw [foldNow_cons, List.foldl_cons, ih]

theorem patternOk_of (m : List Byte) (n : Nat) (hl : m.length = n) (hc : (m.drop 20).foldl crc32cByte 0xFFFFFFFF = imageNat m 16 4 ^^^ 0xFFFFFFFF)
    (hx : (imageNat m 16 4 ^^^ 0xFFFFFFFF) ^^^ 0xFFFFFFFF = imageNat m 16 4)
    (h : (decide (imageNat m 0 4 = 0x564F5453) && decide (imageNat m 4 2 = 1) && decide (1 ≤ imageEntries m) && decide (imageEntries m ≤ 56)
      && decide (imageNat m 8 4 = n) && decide (1 ≤ imageCells m) && decide (imageCells m ≤ 64) && decide (imageNat m 14 2 = 0)
      && decide (n = 2048 + imageCells m * 1504) && allZero (imageBytes m 20 236)
      && allZero (imageBytes m (256 + 32 * imageEntries m) (32 * (56 - imageEntries m)))
      && (((List.range (imageEntries m)).map (stvEntry m)).all fun e => e.isSome)
      && decide ((((List.range (imageEntries m)).map (stvEntry m)).filterMap fun e => e.map fun x => x.id).Nodup)
      && (List.range (imageCells m)).all fun c => allZero (imageBytes m (2048 + 1504 * c + 1472) 32)) = true) : patternOk m = true := by
  unfold patternOk
  simp only [Bool.and_eq_true, decide_eq_true_eq] at h ⊢
  have e : imageNat m 16 4 = crc32c 0 (m.drop 20) := by
    unfold crc32c
    rw [show (0 : Nat) ^^^ 0xFFFFFFFF = 0xFFFFFFFF from rfl, hc, hx]
  simp only [hl, ← e]
  tauto

theorem pat_ok : patternOk (bytesAt patBuf 0x10000000 3552) = true :=
  patternOk_of _ 3552 (bytesAt_length _ _ _) (by rw [foldl_now]; decide +kernel) (by decide +kernel) (by decide +kernel)

theorem entry_auxless (v : StvEntry) (e : ((stoved stvCall).hearth 0).stove.entryOf stvCall = some v) : v.auxFmt = none := by
  have h : ((((stoved stvCall).hearth 0).stove.entryOf stvCall).map fun v => v.auxFmt) = some none := by decide +kernel
  rw [e] at h
  simpa using h

theorem witness_StoveCalls :
    Ready (iw 0x19 1 0 1 2 0 0 0) 0 [sDst 1, sDst 2] { s := [(1, 0x10000000), (2, 3552)] } ∧ NoDst (iw 0x19 1 0 1 2 0 0 0) ∧
    Fields (iw 0x19 1 0 1 2 0 0 0) 0x19 1 1 2 0 0 ∧
    Ready (iw 0x19 1 0 1 2 0 0 0) 0 [sDst 1, sDst 2] {} { stove := { fenced := true } } ∧
    Ready (iw 0x19 1 0 1 2 0 0 0) 0 [sDst 1, sDst 2] { s := [(1, 0x10000000), (2, 3552)] }
      { stove := { st := .resident, gal := 1, src := 0x10000000, len := 3552 } } ∧
    ({ st := .resident, gal := 1, src := 0x10000000, len := 3552 } : Stove).has 1 (0x10000000, 3552) = true ∧
    8 ≤ (3552 : W64).toNat ∧ (3552 : W64).toNat ≤ 98304 ∧ (3552 : W64).toNat % 8 = 0 ∧ (0x10000000 : W64).toNat % 64 = 0 ∧
    Ready (iw 0x19 2 0 1 0 0 0 0) 0 [sDst 1] (regs hobVa) (blocked 0 true [] { recorded := [(1, some (0x10000000, 3552))] }) ∧
    Ready (iw 0x19 2 0 1 0 0 0 0) 0 [sDst 1] (regs hobVa) (blocked 0 false [] { recorded := [(1, some (0x10000000, 3552))] }) ∧
    NoDst (iw 0x19 2 0 1 0 0 0 0) ∧ Fields (iw 0x19 2 0 1 0 0 0 0) 0x19 2 1 0 0 0 ∧
    ({ recorded := [(1, some (0x10000000, 3552))] } : Stove).record 1 = some (0x10000000, 3552) ∧
    (zs 0 0 (regs hobVa) (blocked 0 true)).callReleased 0 0 = true ∧
    stvBlockOk ((zs 0 0 (regs hobVa) (blocked 0 true)).hobBlock 0 1 hobVa.toNat 64) = true ∧
    Canon (stoking {} order { stove := { queue := [.load patLoad] } }) ∧ ({} : Stove).has 1 (0x10000000, 3552) = false ∧
    Canon loadingOne ∧ (loadingOne.hearth 0).stove.cur = some (patLoad, 3) ∧ loadingOne.acc? 3 = some patAcc ∧
    loadingOne.pieces = [] ∧ patternOk (bytesAt patBuf 0x10000000 3552) = true ∧
    Canon (stoved stvCall) ∧ (stoved stvCall).call? 0 6 = some stvCall ∧ ((stoved stvCall).hearth 0).stove.has 1 stvCall.pat = true ∧
    (((stoved stvCall).hearth 0).stove.entryOf stvCall).isSome = true ∧ blkAux stvCall.block = 0 ∧
    (∀ v, ((stoved stvCall).hearth 0).stove.entryOf stvCall = some v → v.auxFmt = none) ∧ (∀ a ∈ stvCall.descAddrs, a % 8 = 0) ∧
    Canon (stoved { stvCall with st := .finished }) ∧ (stoved { stvCall with st := .finished }).callIdle stvCall = true := by
  repeat' apply And.intro
  all_goals first
    | decide +kernel
    | exact canon_of _ (by decide +kernel)
    | exact issues_of _ _ _ _ _ _ (by decide +kernel)
    | exact pat_ok
    | exact fun v e => entry_auxless v e

/-! ## Accesses -/

/-- An access of kind `k` of Stoker 0 of Hearth 0, which is ready. -/
def flight (k : AccKind) (a : Agent) (todo : List Run) (ps : List Piece := []) : State :=
  { (stoking { st := .ready, seq := 2, pend := [sDst 3] }) with accs := [flying k a todo], pieces := ps, nextPiece := 12, nextAcc := 9 }

/-- The access's one piece, of 8 bytes of the Shared Store. -/
def flown (a : Agent) (w : Bool) : Piece :=
  { hostPiece with agent := a, write := w, va := 0x10000000, target := .shared 0x100000, seg := some 1, owner := .acc 3
                   wdata := if w then List.replicate 8 (1, 255) else [] }

theorem witness_AccessesReachTheirPlace :
    Canon (flight (.load (sDst 3) 8 false) .memLoad [{ va := 0x10000000, len := 8 }]) ∧
    (flight (.load (sDst 3) 8 false) .memLoad [{ va := 0x10000000, len := 8 }]).acc? 3 =
      some (flying (.load (sDst 3) 8 false) .memLoad [{ va := 0x10000000, len := 8 }]) ∧
    (flight (.load (sDst 3) 8 false) .memLoad [{ va := 0x10000000, len := 8 }]).accMaySend
      (flying (.load (sDst 3) 8 false) .memLoad [{ va := 0x10000000, len := 8 }]) = true ∧
    (flight (.load (sDst 3) 8 false) .memLoad [{ va := 0x10000000, len := 8 }]).check 1 .memLoad 0x10000000 = .ok (.shared 0x100000) (some 1) ∧
    (flying (.load (sDst 3) 8 false) .memLoad []).misaligned { va := 0x10000000, len := 8 } = false ∧
    (flight (.load (sDst 3) 8 false) .memLoad [{ va := 0x10000000, len := 8 }]).sameLocOut
      (flying (.load (sDst 3) 8 false) .memLoad [{ va := 0x10000000, len := 8 }]) (.shared 0x100000) 8 = false ∧
    Canon (flight (.load (sDst 3) 8 false) .memLoad [] [flown .memLoad false]) ∧
    (flight (.load (sDst 3) 8 false) .memLoad [] [flown .memLoad false]).piece? 9 = some (flown .memLoad false) ∧
    (flight (.load (sDst 3) 8 false) .memLoad [] [flown .memLoad false]).writeOrderHolds (flown .memLoad false) = false ∧
    (flight (.load (sDst 3) 8 false) .memLoad [] [flown .memLoad false]).sharedLost 0x100000 8 = false ∧
    (flown .memLoad false).va = (flying .store .memStore []).base ∧ (flown .memLoad false).status = .sent ∧
    ((flight (.load (sDst 3) 8 false) .memLoad [] [flown .memLoad false]).stoker 0 0).st = .ready ∧
    ((flight (.load (sDst 3) 8 false) .memLoad [] [flown .memLoad false]).stoker 0 0).wo = 5 ∧
    Canon (flight .store .memStore [] [flown .memStore true]) ∧
    (flight .store .memStore [] [flown .memStore true]).piece? 9 = some (flown .memStore true) ∧
    (flight .store .memStore [] [flown .memStore true]).writeOrderHolds (flown .memStore true) = false ∧
    Canon (flight (.flagAdd (sDst 3) 5) .flagAdd [] [flown .flagAdd false]) ∧
    (flight (.flagAdd (sDst 3) 5) .flagAdd [] [flown .flagAdd false]).piece? 9 = some (flown .flagAdd false) ∧
    (flight (.flagAdd (sDst 3) 5) .flagAdd [] [flown .flagAdd false]).writeOrderHolds (flown .flagAdd false) = false := by
  repeat' apply And.intro
  all_goals first | decide +kernel | exact canon_of _ (by decide +kernel) | exact ok_of _ _ _ (by decide +kernel)

/-! ## Folios -/

/-- Bay 2 is `x`, with the pieces `ps`; gallery 1 has a key. -/
def bayed (x : Bay) (ps : List Piece := []) (s : State := world) : State :=
  { (s.setBay 2 x) with pieces := ps, acc := { s.acc with keys := [(1, some 7)] } }

/-- A read, or a whole sector's write, of sector 3 of the Folio in bay 2. -/
def folioPiece (w : Bool) : Piece :=
  { hostPiece with write := w, len := 512, target := .folio 2 1536, seg := some 1, wdata := if w then List.replicate 512 (5, 255) else [] }

def goodBay : Bay := { st := .good, present := true, supply := true, linkUp := true }

theorem witness_FolioLinks :
    Canon (bayed {}) ∧ ((bayed {}).bay 2).linkUp = false ∧ Canon (bayed goodBay [folioPiece false]) ∧
    ((bayed goodBay [folioPiece false]).bay 2).linkUp = true ∧ frame.crcOk = true ∧ frame.nak = false ∧
    frame.seq = ((bayed goodBay [folioPiece false]).bay 2).rxSeq ∧ ({ frame with seq := 1 } : FrameHdr).seq ≠ goodBay.rxSeq ∧
    (bayed goodBay [folioPiece false]).bayRequest 2 9 = some (folioPiece false) ∧ (folioPiece false).write = false ∧
    mget none (bayed goodBay [folioPiece false]).acc.keys (folioPiece false).gal = some 7 ∧ (folioPiece false).retried = false ∧
    (bayed goodBay [folioPiece true]).bayRequest 2 9 = some (folioPiece true) ∧ (folioPiece true).wrDue = true ∧
    ((bayed { goodBay with mg := [.chal] }).bay 2).mg = .chal :: [] ∧
    (folioPiece false).sentAt + us 200 ≤ ({ bayed goodBay [folioPiece false] with tb := { elapsed := us 200 } } : State).tb.elapsed ∧
    ((bayed goodBay).bay 2).supply = true ∧ (bayed {}).dev.ready = true ∧ ((bayed {}).bay 2).st = .absent ∧
    ((bayed {}).bay 2).enumerating = false ∧ ((bayed {}).bay 2).inLine = false ∧ (∀ c, c < 8 → ((bayed {}).bay c).enumerating = false) ∧
    (∀ c, c < 8 → ((bayed {}).bay c).inLine = false) ∧ ((bayed { supply := true, enumerating := true }).bay 2).enumerating = true ∧
    ((bayed { supply := true, enumerating := true }).bay 2).supply = true ∧
    ((bayed { supply := true, enumerating := true }).bay 2).linkUp = false := by
  repeat' apply And.intro
  all_goals first | decide +kernel | exact canon_of _ (by decide +kernel)

/-- The FOLIOS phase, 400 ms after the boot: bay 2's slot begins. -/
def foliosAt (n : Nat) : State :=
  { (bayed { present := true }).setBay 1 { supply := true, enumerating := true } with dev := { phase := .folios }, tb := { elapsed := ms n } }

theorem witness_FolioLinks_slots : Canon (foliosAt 400) ∧ (foliosAt 400).dev.phase = .folios ∧
    ms (300 + 50 * 2) ≤ (foliosAt 400).tb.elapsed - (foliosAt 400).dev.bootStart ∧
    (foliosAt 399).tb.elapsed - (foliosAt 399).dev.bootStart < ms (300 + 50 * 2) ∧ up.dev.phase ≠ .folios ∧
    ((foliosAt 400).bay 2).present = true ∧ ((foliosAt 400).bay 2).st = .absent ∧ ((foliosAt 400).bay 2).enumerating = false ∧
    ((foliosAt 400).bay 2).inLine = false ∧ ((foliosAt 400).bay 1).enumerating = true ∧ ((foliosAt 400).bay 3).present = false := by
  repeat' apply And.intro
  all_goals first | decide +kernel | exact canon_of _ (by decide +kernel)

/-- Port A holds Keeper slot 2 and bay 2 is `x`. -/
def foliod (x : Bay) : State := held 2 (bayed x)

theorem witness_FolioCommands :
    Canon (bayed goodBay) ∧ Serving (bayed goodBay) ∧ (bayed goodBay).holds .a 2 = false ∧ Serving (foliod goodBay) ∧ Canon (foliod goodBay) ∧
    (foliod goodBay).holds .a 2 = true ∧ goodBay.allowsCmd .adopt = false ∧ goodBay.allowsCmd .commit = true ∧
    ((foliod { goodBay with st := .foreign, reason := .otherDevice }).bay 2).allowsCmd .acceptKeys = true ∧ FolCmd.acceptKeys.keyed = true ∧
    ({ foliod goodBay with faults := { sealed := true } } : State).faults.sealed = true ∧ FolCmd.commit.keyed = false ∧
    (foliod goodBay).faults.sealed = false ∧ ((foliod { goodBay with busy := true }).bay 2).busy = true ∧ goodBay.busy = false ∧
    ((foliod { goodBay with pwrHold := true }).bay 2).pwrHold = true ∧ goodBay.pwrHold = false ∧ goodBay.allowsCmd .exportKeys = true ∧
    ((foliod { goodBay with st := .foreign, reason := .unsealed }).bay 2).reason = .unsealed ∧ (foliod goodBay).bayPieces 2 = [] ∧
    ((foliod goodBay).bay 2).st.readable = true ∧
    ({ goodBay with xfer := [(0, 2)] } : Bay).xferGals = [1] ∧ mget none (foliod goodBay).acc.keys 1 = some 7 ∧
    (List.replicate 48 (1 : Byte)).length = 48 ∧ ((foliod {}).bay 2).st = .absent ∧ ((foliod goodBay).bay 3).st.readable = false ∧
    goodBay.ejecting = false ∧ goodBay.enumerating = false ∧ ((foliod { goodBay with ejecting := true, ejectAt := some 0 }).bay 2).ejectAt = some 0 ∧
    0 + ms 1 ≤ ({ foliod goodBay with tb := { elapsed := ms 1 } } : State).tb.elapsed := by
  repeat' apply And.intro
  all_goals first
    | exact ⟨rfl, rfl⟩
    | decide +kernel
    | exact canon_of _ (by decide +kernel)

/-! ## Fenline -/

def activePort : FenPort := { st := .active, connected := true, peerEpoch := 0x10002 }
def fenState (x : FenPort) (f : FenState := {}) : FenState :=
  { f with ports := mset {} [] 0 x, valid := true, devno := 0, pod := 1, boot := 1, routes := [(1, (0, 7))], epochs := [(1, some 0x10002)]
           gals := [(1, { va := 0x10001000, accept := true, enable := true })] }

/-- Port 0 is `x`, and gallery 1 accepts transfers. -/
def fenned (x : FenPort := activePort) (f : FenState := {}) (s : State := world) : State := { s with fen := fenState x f }

/-- A flit of device 1 with the epochs of both ends. -/
def now : FlitHdr := { hdr with srcEpoch := 0x10002, dstEpoch := 0x10001 }

theorem witness_FenlineLink :
    Canon fenned ∧ ((fenned { activePort with st := .down }).fenPort 0).st.carries = false ∧ (fenned.fenPort 0).st.carries = true ∧
    hdr.crcOk = true ∧ ({ hdr with seq := 1 } : FlitHdr).seq ≠ (fenned.fenPort 0).rxSeq ∧
    ((fenned { activePort with nakSent := true }).fenPort 0).nakSent = true ∧ (fenned.fenPort 0).nakSent = false ∧
    ({ hdr with crcOk := false, replay := true } : FlitHdr).replay = true ∧ hdr.seq = (fenned.fenPort 0).rxSeq ∧ hdr.nak = false ∧
    (fenned.fenPort 0).waiting = [] ∧ ((fenned { activePort with peerTimeEpoch := 4 }).fenPort 0).peerTimeEpoch = (⟨0, 5, 6, 4⟩ : TimeSync).timeEpoch ∧
    (⟨0, 5, 6, 4⟩ : TimeSync).peerSent ≠ 0 ∧ (fenned.fenPort 0).peerTimeEpoch ≠ (⟨0, 5, 6, 4⟩ : TimeSync).timeEpoch ∧
    Canon (fenned { activePort with st := .down } {} { world with tb := { elapsed := ms 250 } }) ∧
    ((fenned { activePort with st := .down }).fenPort 0).connected = true ∧ ((fenned { activePort with st := .down }).fenPort 0).disable = false ∧
    (fenned {} {} { world with tb := { elapsed := ms 250 } }).dev.bootStart + ms 250 ≤ ({ elapsed := ms 250 } : Timebase).elapsed ∧
    (1 ≠ fenned.fen.devno ∧ fenned.outPort 1 = some 0) := by
  repeat' apply And.intro
  all_goals first | decide +kernel | exact canon_of _ (by decide +kernel)

/-- An entry to device 1 of operation `op`, and two GET requests. -/
def fenTx (op : Nat) : FenTx :=
  { gal := 1, entry := 0, words := [op + 256, 0, 0, 0, 0, 0, 0, 1], phase := .started, tag := 0, peer := 1, port := some 0, src := some row4
    dst := some row4, gets := if op = 2 then [{ va := 0, len := 8 }, { va := 8, len := 8 }] else [] }

def image2 : Image :=
  { year := 2026, nn := 1, svn := 0, floorTo := 0, hash := [], timeCtrl := 0, bootMv := 800, snpTimeout := 2000, graceMs := 10, pod := 1
    members := [{ unit := 77, devno := 1, ports := [], routes := [] }], lib := [] }

theorem witness_FenlineTransfers :
    Canon fenned ∧ (fenned.fenPort 0).st = .active ∧ now.crcOk = true ∧ now.seq = (fenned.fenPort 0).rxSeq ∧ now.nak = false ∧
    (fenned.fenPort 0).waiting = [] ∧ (fenned.fenPort 0).inbox = [] ∧ (fenned.fenPort 0).stopping = 0 ∧ fenned.fen.valid = true ∧
    now.dst.val = fenned.fen.devno ∧ now.dstEpoch = fenned.cfgEpoch ∧ fenned.epochOf now.src.val = some now.srcEpoch ∧
    hdr.dstEpoch ≠ fenned.cfgEpoch ∧ fenned.fenAccepts now.gallery = true ∧ fenned.isBad now = false ∧
    fenned.check now.gallery .fenWrite 0x10000000 = .ok (.shared 0x100000) (some 1) ∧
    fenned.check now.gallery .fenRead 0x10000000 = .ok (.shared 0x100000) (some 1) ∧
    fenned.check now.gallery .fenAdd 0x10000000 = .ok (.shared 0x100000) (some 1) ∧ fenned.sharedLost 0x100000 224 = false ∧
    0x10000000 % 512 + (List.replicate 224 ((1, 255) : Byte × Byte)).length ≤ 512 ∧ fenned.outPort now.src = some 0 ∧
    fenned.part? now.gallery 9 now.src = none ∧ fenned.fen.txs = [] ∧
    ((fenned activePort { parts := [{ gal := 1, id := 9, dev := 1, params := collParams }] }).part? now.gallery 9 now.src).isSome = true ∧
    (fenned activePort {} (world .quiescing)).fenAccepts now.gallery = true ∧ (fenned activePort {} (world .dormant)).fenAccepts now.gallery = false ∧
    (fenned activePort { txs := [fenTx 1] }).txOf now = some (fenTx 1) ∧ (fenTx 1).op ≠ 2 ∧ (fenTx 1).local' = none ∧
    (∀ u ∈ [fenTx 1], u.gal = 1 → u.entry = 0 → u = fenTx 1) ∧ Canon (fenned activePort { txs := [fenTx 2] }) ∧
    (fenned activePort { txs := [fenTx 2] }).txOf now = some (fenTx 2) ∧ (fenTx 2).op = 2 ∧ (fenTx 2).gets.length = 2 ∧
    1 ≠ now.index ∧ mget none (fenTx 2).got 1 = none ∧ (fenTx 2).src.isSome = true ∧ (fenTx 2).dst.isSome = true ∧ (fenTx 2).refused = none ∧
    (fenned activePort {} { world with acc := { image := some image2, floor := 0 } }).memberOf 1 =
      some { unit := 77, devno := 1, ports := [], routes := [] } := by
  repeat' apply And.intro
  all_goals first | decide +kernel | exact canon_of _ (by decide +kernel) | exact ok_of _ _ _ (by decide +kernel)

/-- Entry 0 of the ring holds those words, and the entries in work are `txs`. -/
def ringed (ws : List Nat) (txs : List FenTx := []) : State :=
  held 0 (fenned activePort { txs := txs } { world with shared := putBytes [] 0x101040 (ws.flatMap (natLe 8)) })

/-- A SIGNAL to device 1, and a reserved OP. -/
def signalWords : List Nat := [3 + 256, 0x10000000, 0, 0, 0, 0x10000000, 0, 1]
def badWords : List Nat := [0x7F, 0, 0, 0, 0, 0, 0, 1]
def taken (ws : List Nat) (peer : Nat) : FenTx := { gal := 1, entry := 0, words := ws, phase := .held, tag := 0, peer := peer }

theorem witness_FenlineRegistersAndRings :
    Serving fenned ∧ Canon fenned ∧ fenned.holds .a 0 = false ∧ Serving (held 0 fenned) ∧ Canon (held 0 fenned) ∧
    (held 0 fenned).holds .a 0 = true ∧ ((held 0 fenned).gal 1).st = .opened ∧ ((held 0 (fenned activePort {} (world .dormant))).gal 1).st = .dormant ∧
    bits (3 * 256 : W64).toNat 8 4 < 4 ∧ 4 ≤ bits (4 * 256 : W64).toNat 8 4 ∧ bits (10 * 256 : W64).toNat 8 4 ≤ 10 ∧
    10 < bits (11 * 256 : W64).toNat 8 4 ∧
    Canon (ringed signalWords) ∧ ((ringed signalWords).fenGal 1).enable = true ∧ ((ringed signalWords).fenGal 1).fault = false ∧
    ((ringed signalWords).gal 1).st = .opened ∧ (ringed signalWords).fen.txs = [] ∧
    (ringed signalWords).check 1 .fenRead (0x10001000 + 64 + 64 * (0 % 2 ^ 4)) = .ok (.shared 0x101040) (some 1) ∧
    (ringed signalWords).sharedLost 0x101040 64 = false ∧ bytesAt (ringed signalWords).shared 0x101040 64 = signalWords.flatMap (natLe 8) ∧
    leNat ((signalWords.flatMap (natLe 8)).drop 56) = 0 + 1 ∧ leNat ((([] : List Nat).flatMap (natLe 8)).drop 56) ≠ 0 + 1 ∧
    (taken signalWords 1).words = (List.range 8).map (fun i => leNat (((signalWords.flatMap (natLe 8)).drop (8 * i)).take 8)) ∧
    (taken signalWords 1).peer = (if 16 ≤ leNat ((signalWords.flatMap (natLe 8)).take 1) then 0
      else bits (leNat ((signalWords.flatMap (natLe 8)).take 8)) 8 6) ∧
    leNat ((signalWords.flatMap (natLe 8)).take 1) = 3 ∧ (taken signalWords 1).legal = true ∧ (taken badWords 0).legal = false ∧
    (ringed badWords).fenBlocked 1 .fenRead ((ringed badWords).txReads (taken badWords 0)) = none ∧
    (taken badWords 0).peer = (if 16 ≤ leNat ((badWords.flatMap (natLe 8)).take 1) then 0
      else bits (leNat ((badWords.flatMap (natLe 8)).take 8)) 8 6) ∧
    Canon (ringed [] [{ fenTx 1 with phase := .ended 1 0 }]) ∧
    (ringed [] [{ fenTx 1 with phase := .ended 1 0 }]).fen.txs.find? (fun t => decide (t.gal = 1) && decide (t.entry = 0)) =
      some { fenTx 1 with phase := .ended 1 0 } ∧ bitAt ((fenTx 1).word 0) 50 = false ∧
    (ringed []).check 1 .fenWrite (0x10001000 + 64 + 64 * (0 % 2 ^ 4) + 48) = .ok (.shared 0x101070) (some 1) ∧
    (ringed []).check 1 .fenWrite 0x10001000 = .ok (.shared 0x101000) (some 1) ∧
    (ringed []).check 1 .fenRead 0x10001000 = .ok (.shared 0x101000) (some 1) ∧ (ringed []).sharedLost 0x101000 8 = false ∧
    (0x101070 + 8 ≤ 0x101000 ∨ 0x101000 + 8 ≤ 0x101070) := by
  repeat' apply And.intro
  all_goals first | exact ⟨rfl, rfl⟩ | decide +kernel | exact canon_of _ (by decide +kernel) | exact ok_of _ _ _ (by decide +kernel)

/-! ## Register files -/

theorem witness_RegisterFiles : mwf 0 (regs 5).s = true ∧ mwf 0 ({ lens := [(1, 2)] } : Stoker).lens = true ∧
    bits (zSub (iw 1 1 3 3 0 0 0x21 0)) 5 2 = 1 := by decide +kernel

/-! ## The Catalogue and what a host writes to a Hearth -/

/-- Gallery 1 in state `st` with the Catalogue `c` changed by `f`. -/
def catted (f : Catalogue → Catalogue := id) (st : GalSt := .opened) (ps : List Piece := []) : State :=
  held 0 { world with gals := [(1, { gallery st with cat := f (gallery st).cat })], pieces := ps }

/-- CAT_ENTRY0 to 2 hold a third segment, behind the others. -/
def staging (c : Catalogue) : Catalogue :=
  { c with poolSize := 4, e0 := (seg 2 0x20000000 0x200000).w0, e1 := 2 ^ 63 + 16 + 2 ^ 40, e2 := 0x200000 }

theorem witness_CatalogueCommands :
    Canon catted ∧ Serving catted ∧ (catted.gal 1).home = .a ∧ (catted.gal 1).home ≠ .b ∧ ((catted id .resetting).gal 1).st = .resetting ∧
    ((catted fun c => { c with busy := true }).gal 1).cat.busy = true ∧ (catted.gal 1).st ≠ .vacant ∧ (catted.gal 1).st ≠ .resetting ∧
    (catted.gal 1).cat.busy = false ∧ (catted.gal 1).cat.writeCheck 2 = some .badEntry ∧ ((catted staging).gal 1).cat.writeCheck 2 = none ∧
    (catted.gal 1).cat.segs.length = 2 ∧ ((catted.gal 1).cat.seg 3).valid = false ∧ ((catted.gal 1).cat.seg 1).valid = true ∧
    ((catted fun c => { c with selSeg := 3 }).gal 1).cat.selSeg = 3 ∧
    ((catted fun c => { c with selSeg := 1 }).gal 1).cat.selWord.toNat * 64 < ((catted.gal 1).cat.seg 1).pages ∧
    ((catted fun c => { c with selWord := 1 }).gal 1).cat.selWord.toNat * 64 ≥ ((catted.gal 1).cat.seg 0).pages ∧
    (1 : W64).getLsbD 0 = true ∧ (0 : W64).getLsbD 0 = false ∧
    ((catted id .dormant).gal 1).st = .dormant ∧ (catted id .dormant).holds .a 0 = true ∧
    (∀ e ∈ ((catted (fun c => { c with segs := [] }) .dormant).gal 1).cat.segs, e.2.valid = false) ∧ ((catted id .opened).gal 1).st ≠ .dormant ∧
    bits (4 * 2 ^ 32 + 32764 : W64).toNat 0 15 + bits (4 * 2 ^ 32 + 32764 : W64).toNat 32 16 = 32768 ∧
    32768 < bits (5 * 2 ^ 32 + 32764 : W64).toNat 0 15 + bits (5 * 2 ^ 32 + 32764 : W64).toNat 32 16 ∧
    (∀ e ∈ catted.gals, e.1 = 1) ∧
    ({ catted with gals := [(1, gallery .dormant), (2, gallery .dormant)] } : State).gals.length = 2 ∧
    ((catted (fun c => { c with busy := true, draining := [9] })).gal 1).cat.draining = [9] ∧
    hostPiece.id ∈ ((catted (fun c => { c with busy := true, draining := [9] }) .opened [hostPiece]).gal 1).cat.draining := by
  repeat' apply And.intro
  all_goals first | exact ⟨rfl, rfl⟩ | decide +kernel | exact canon_of _ (by decide +kernel)

/-- Port A holds Keeper slots 0 and 3, Hearth 0 is `x`, and RUNs of program 9 wait. -/
def hearthed (x : Hearth) (f : FaultState := {}) : State :=
  held 0 (held 3 ({ up with faults := f, wos := [{ order with program := 9 }], dev := { up.dev with mfg := [] } }.setHearth 0 x))

def placed (n base : Nat) (st : ProgSt := .placed) : Sparse Prog := [(n, { st := st, gal := 1, program := 9, base := base, length := 1024 })]

theorem witness_HearthRegisters :
    Canon (hearthed {}) ∧ Serving (hearthed {}) ∧ mwf {} ((hearthed { progs := placed 1 1024 }).hearth 0).progs = true ∧ up.holds .a 0 = false ∧
    up.holds .a 3 = false ∧ (hearthed {}).holds .a 0 = true ∧ (hearthed {}).holds .a 3 = true ∧ Canon (hearthed { progs := placed 1 1024 }) ∧
    (∃ e ∈ placed 1 1024, e.2.overlaps (1024 * 1) 1024 = true ∧ (hearthed { progs := placed 1 1024 }).executes 0 e.2 = true) ∧
    (∀ e ∈ placed 1 1024, e.2.overlaps (1024 * 2) 1024 = false) ∧ (∀ w ∈ (hearthed {}).wos, w.opcode.toNat ≠ opPlace) ∧
    ((hearthed { calls := [call0] }).hearth 0).calls ≠ [] ∧ ((hearthed {}).hearth 0).calls = [] ∧ ((hearthed {}).hearth 0).fenced = false ∧
    (∀ w ∈ (hearthed {}).wos, (hearthed {}).wo? w.id = some w ∧ bitAt w.hearths.toNat 0 = true ∧ w.decided = none) ∧
    ((hearthed { stokers := [(0, { st := .ready })] }).stoker 0 0).st ≠ .free ∧ ((hearthed { fenced := true, cause := 3 }).hearth 0).fenced = true ∧
    (∀ k, k < 16 → ((hearthed { fenced := true, cause := 3 }).stoker 0 k).st = .free) ∧ (hearthed {}).mfg 0 ≠ 0 ∧
    (hearthed {}).faults.fences = [] ∧ Canon (hearthed { fenced := true, cause := 3 } { fences := [(4, { valid := true, kind := 2, cause := 3 })] }) ∧
    (mget {} [(4, { valid := true, kind := 2, cause := 3 : FenceEntry })] 4).index.toNat = 0 := by
  repeat' apply And.intro
  all_goals first | exact ⟨rfl, rfl⟩ | decide +kernel | exact canon_of _ (by decide +kernel)

/-! ## The Fault log's commands -/

/-- Port A holds Keeper slots 0 to 3, and the Fault log is `f`. -/
def logged (f : FaultState) (x : Hearth := {}) : State := held 1 (held 2 (hearthed x f))

theorem witness_FaultCommands :
    Canon (logged {}) ∧ Serving (logged {}) ∧ mwf {} (logged {}).faults.fences = true ∧ up.holds .a 3 = false ∧ (logged {}).holds .a 3 = true ∧
    (logged { busy := true }).faults.busy = true ∧ (logged {}).faults.busy = false ∧ (768 : BitVec 10).toNat = 768 ∧ (767 : BitVec 10).toNat < 768 ∧
    (31 : BitVec 10).toNat < 32 ∧ (47 : BitVec 10).toNat < 48 ∧ ((logged {} { fenced := true }).hearth 0).fenced = true ∧
    ((logged {}).hearth 0).fenced = false ∧
    (logged {}).mfg 0 &&& ~~~((logged {}).hearth 0).grateFenced ≠ BitVec.ofNat 16 (2 ^ ((5 : BitVec 10).toNat % 16)) ∧
    (logged {}).mfg 0 &&& ~~~((logged {}).hearth 0).grateFenced ≠ 0 ∧
    (logged {} { grateFenced := 0xFFDF }).mfg 0 &&& ~~~((logged {} { grateFenced := 0xFFDF }).hearth 0).grateFenced =
      BitVec.ofNat 16 (2 ^ ((5 : BitVec 10).toNat % 16)) ∧
    Canon (logged { fences := [(0, { valid := true, kind := 1, index := 5 })] }) ∧ (5 : BitVec 12) = (5 : BitVec 10).setWidth 12 ∧
    (∃ r ∈ ((logged {} { chains := [{ chain0 with grate := some 5 }] }).hearth 0).chains, r.grate = some ((5 : BitVec 10).toNat % 16)) ∧ (logged {}).faults.frozen = false ∧
    (mget {} (logged {}).faults.fences 0).valid = false ∧
    (∀ m, m < 1 → (mget {} (logged { fences := [(0, { valid := true, kind := 1, index := 5 })] }).faults.fences m).valid = true) ∧
    (mget {} (logged { fences := [(0, { valid := true, kind := 1, index := 5 })], frozen := true }).faults.fences (0 : BitVec 10).toNat).valid = true ∧
    (∀ n, n < 4 → (logged {}).holds .a n = true) ∧ (hearthed {}).holds .a 1 = false ∧ (logged { armed := some (.a, 0) }).faults.armed = some (.a, 0) ∧
    (logged {}).tb.elapsed ≤ 0 + sec 1 ∧ (logged {}).gals = [] ∧ (world.gal 1).st ≠ .vacant ∧ (logged { sealed := true }).faults.sealed = true ∧
    ((3 : W32) - 2).toNat ≤ ((3 : W32) - 1).toNat ∧ ((3 : W32) - 1).toNat < ((3 : W32) - 0).toNat ∧ ((4096 : W32) - 0).toNat = 4096 ∧
    (logged { bookQueue := [List.replicate 32 1] }).faults.bookQueue = List.replicate 32 1 :: [] ∧ (List.replicate 32 (1 : Byte)).length = 32 ∧
    (logged { frozen := true }).faults.frozen = true ∧ (logged {}).acc.pwrWarn = false := by
  repeat' apply And.intro
  all_goals first | exact ⟨rfl, rfl⟩ | decide +kernel | exact canon_of _ (by decide +kernel)

/-! ## Accessions, resets and power-up -/

/-- Port A holds Keeper slot 1, and the Curator's state is `x`. -/
def acceding (x : AccState) (f : FaultState := {}) (s : State := up) : State := held 1 { s with acc := x, faults := f }

/-- Slot A holds an image and is in state `st`; the other slots are empty. -/
def withA (st : SlotSt) (failed : Nat := 0) : AccState :=
  { slotA := { st := st, image := some image2, failed := failed }, golden := {}, floor := 0, image := some image2 }

def installing (st : InstallStage) (programmed : List Byte := []) : AccState :=
  { golden := {}, floor := 0, flash := some .accession, busy := true, cmd := some (.install .a st [1] (some image2) programmed), srcOffset := 1 }

theorem witness_Accessions_commands :
    (acceding (withA .trial)).pace.tripped = false ∧ (acceding (withA .trial)).dev.ready = true ∧
    ({ up with dev := { up.dev with ready := false, recovery := true } } : State).dev.recovery = true ∧ (withA .verified).slotA.st = .verified ∧
    ((withA .verified).slot .b).st = .empty ∧ ({ withA .trial with running := some .a } : AccState).running = some .a ∧
    up.holds .a 1 = false ∧ (acceding (withA .trial)).holds .a 1 = true ∧ ({ withA .trial with busy := true } : AccState).busy = true ∧
    (acceding (withA .trial) { sealed := true }).faults.sealed = true ∧ (acceding (withA .trial)).faults.sealed = false ∧
    (withA .trial).flash = none ∧ (withA .trial).tripDue = none ∧ (withA .trial).pwrWarn = false ∧ (withA .trial).vaultDue = false ∧
    (acceding (withA .trial)).faults.sealStage = .none := by
  repeat' apply And.intro
  all_goals decide +kernel

theorem witness_Accessions_steps :
    Canon (acceding (withA .verified)) ∧ Canon (acceding { withA .verified with flash := some .bootControl, cmd := some (.activate .a) }) ∧
    Canon (acceding { withA .trial with flash := some .bootControl, cmd := some .confirm, running := some .a }) ∧ (withA .trial).image = some image2 ∧
    Canon (acceding (installing .check)) ∧ (installing .check).srcOffset % 4096 ≠ 0 ∧ Canon (acceding (installing .erase)) ∧
    (installing .erase).cmd = some (.install .a .erase [1] (some image2) []) ∧ Canon (acceding (installing .readBack [2])) ∧
    ([2] : List Byte) ≠ [1] ∧ Canon (acceding (installing .readBack [1])) ∧
    Canon (acceding { withA .confirmed with flash := some .returnSeal } { sealStage := .intentMark, busy := true }) ∧
    Canon (acceding { withA .confirmed with flash := some .returnSeal } { sealStage := .eraseVault, busy := true }) ∧
    Canon (acceding { withA .confirmed with flash := some .returnSeal } { sealStage := .appendRecord, busy := true }) ∧
    Canon (acceding { withA .confirmed with flash := some .vault, vaultDue := true, keys := [(1, some 7)] }) ∧
    Canon (acceding { withA .confirmed with flash := some .trip, tripDue := some (List.replicate 32 0) }) := by
  repeat' apply And.intro
  all_goals first | decide +kernel | exact canon_of _ (by decide +kernel)

theorem witness_DeviceColdReset :
    Canon (acceding (withA .confirmed)) ∧ (acceding (withA .confirmed)).dev.resetLow = false ∧ (acceding (withA .confirmed)).holds .a 1 = true ∧
    (acceding (withA .confirmed)).acc.busy = false ∧ up.holds .a 1 = false ∧ (acceding { withA .confirmed with busy := true }).acc.busy = true ∧
    Canon { up with dev := { phase := .verify }, tb := { elapsed := sec 2 } } ∧
    ({ up with dev := { phase := .verify }, tb := { elapsed := sec 2 } } : State).dev.bootStart + sec 2 ≤ ({ elapsed := sec 2 } : Timebase).elapsed ∧
    ({ phase := .verify } : Dev).ready = false ∧ (withA .confirmed).rekeyed = [] ∧ (withA .confirmed).cmd = none ∧
    up.tb.elapsed < up.dev.bootStart + sec 2 ∧ ({ resetLow := true } : Dev).resetLow = true := by
  repeat' apply And.intro
  all_goals first | decide +kernel | exact canon_of _ (by decide +kernel)

/-- Power-up has come to `ph`, `n` ms after its start. -/
def phased (ph : Phase) (x : AccState := withA .trial) (n : Nat := 0) (f : FaultState := {}) : State :=
  { dev := { phase := ph }, tb := { epoch := 1, elapsed := ms n }, acc := x, faults := f, fen := { ports := [(0, { connected := true })], boot := 1 } }

/-- Image 2 boots from slot A, as candidate 1, or as the one confirmed last. -/
theorem witness_PowerUpPhases :
    Canon (phased .rom) ∧ (phased .rom).dev.resetLow = false ∧ (phased .rom).dev.phase = .rom ∧ (phased .verify).dev.phase = .verify ∧
    ((withA .trial).slot .a).image = some image2 ∧ SlotId.a ∉ [SlotId.b] ∧ SlotId.a ∈ [SlotId.a] ∧ (withA .trial).floor ≤ image2.svn ∧
    policiesInRange image2 = true ∧ ((withA .trial).slot .a).st ≠ .empty ∧ ((withA .trial).slot .a).st ≠ .invalid ∧
    ((withA .trial).slot .a).st ≠ .writing ∧ (withA .trial 2).slotA.failed < 3 ∧ ¬ ((withA .trial 3).slotA.failed < 3) ∧
    ({ withA .trial 3 with next := .a, lastConfirmed := some .b } : AccState).lastConfirmed = some .b ∧ ((withA .trial).slot .golden).image = none ∧
    (image2.members.find? fun v => decide (v.unit = 77)) = some { unit := 77, devno := 1, ports := [], routes := [] } ∧
    Canon (phased .init (withA .confirmed) 0 { intent := true }) ∧ (phased .init (withA .confirmed) 0 { intent := true }).faults.sealed = false ∧
    Canon (phased .init (withA .confirmed) 0 { fences := [(0, { valid := true, kind := 1, index := 5 })] }) ∧
    (phased .ports (withA .confirmed) 249).tb.elapsed < (phased .ports).dev.bootStart + ms 250 ∧
    (phased .ports).dev.bootStart + ms 250 ≤ (phased .ports (withA .confirmed) 250).tb.elapsed ∧
    ((phased .ports).fenPort 0).connected = true ∧ ((phased .ports).fenPort 0).st = .down ∧
    (phased .fenline (withA .confirmed) 299).tb.elapsed < (phased .fenline).dev.bootStart + ms 300 ∧
    (phased .fenline).dev.bootStart + ms 300 ≤ (phased .fenline (withA .confirmed) 300).tb.elapsed ∧
    (phased .folios (withA .confirmed) 699).tb.elapsed < (phased .folios).dev.bootStart + ms 700 ∧
    (phased .folios).dev.bootStart + ms 700 ≤ (phased .folios (withA .confirmed) 700).tb.elapsed ∧ (phased .folios).acc.image = some image2 ∧
    (phased .folios).pace.busy = false ∧ (phased .settle).dev.phase = .settle ∧ up.dev.phase = .ready := by
  repeat' apply And.intro
  all_goals first | decide +kernel | exact canon_of _ (by decide +kernel)

/-! ## Management and register accesses -/

/-- `n` ms after the boot, with SPDM negotiated on the I3C target. -/
def managed (n : Nat) (x : AccState := withA .confirmed) : State :=
  { up with tb := { epoch := 1, elapsed := ms n }, acc := x, mgmt := { versionOn := [.i3c], capsOn := [.i3c], algsOn := [.i3c] } }

theorem witness_ManagementAnswers :
    (managed 399).dev.resetLow = false ∧ (managed 399).tb.elapsed < (managed 399).dev.bootStart + ms 400 ∧
    (managed 19).tb.elapsed < (managed 19).dev.bootStart + ms 20 ∧ (managed 20).dev.bootStart + ms 20 ≤ (managed 20).tb.elapsed ∧
    (managed 400).dev.bootStart + ms 400 ≤ (managed 400).tb.elapsed ∧ MgmtIf.i3c ∈ (managed 400).mgmt.versionOn ∧
    MgmtIf.i3c ∈ (managed 400).mgmt.capsOn ∧ MgmtIf.i3c ∈ (managed 400).mgmt.algsOn ∧ MgmtIf.smbus ∉ (managed 400).mgmt.algsOn ∧
    (managed 400).acc.image = some image2 ∧
    (∀ q : Port, MgmtIf.i3c ≠ .doe q) ∧ (5 : BitVec 16).toNat = 5 ∧ (6 : BitVec 16).toNat = 6 ∧ (24 : BitVec 16).toNat = 24 ∧
    (47 : BitVec 16).toNat = 47 ∧ (48 : BitVec 16) ≠ 32 ∧ (14 : Byte).toNat = 14 ∧ (254 : Byte).toNat < 255 ∧ (1 : Byte) ≠ 0 := by
  repeat' apply And.intro
  all_goals first | decide +kernel | (intro q; cases q <;> decide)

theorem witness_TestAccessPort : (({} : TapState).ir = .idcode) ∧ [true, false].length = 2 := by decide

theorem witness_OtherCommandsKeepSettings : ∃ t, exec .trstN up = .next t := ⟨_, rfl⟩

theorem witness_RegisterAccesses :
    up.pace.tripped = false ∧ ¬ (((2 = 4 ∧ 0x10000 % 4 = 0) ∨ (2 = 8 ∧ 0x10000 % 8 = 0)) ∧ 0x10000 + 2 ≤ 0x8000000) ∧
    ¬ (((8 = 4 ∧ 4 % 4 = 0) ∨ (8 = 8 ∧ 4 % 8 = 0)) ∧ 4 + 8 ≤ 0x8000000) ∧ 0x7FFFFFC % 4 = 0 ∧ 0x7FFFFFC + 4 ≤ 0x8000000 ∧
    (phased .verify).dev.ready = false ∧ (phased .verify).dev.recovery = false ∧ 0x1FFFC < 0x20000 ∧ 0x7FFFFF8 % 8 = 0 ∧
    0x7FFFFF8 + 8 ≤ 0x8000000 ∧ 0x7FFFFF8 ≠ 0x10000 ∧ up.dev.ready = true ∧ (up.port .a).halves = [] ∧ (5 : W32).toNat % 1024 = 5 ∧
    (0x10000001 : W32).toNat % 16 = 1 ∧ bits (0x10000001 : W32).toNat 28 4 = 1 ∧ (0x40000000 : W32).getLsbD 30 = true ∧
    (1 : W32).getLsbD 0 = true ∧ (0x202 : W32).toNat % 16 = 2 ∧ bits (0x202 : W32).toNat 8 2 = 2 := by
  repeat' apply And.intro
  all_goals decide +kernel

/-! ## Values that the manual and its standards fix -/

/-- The check value of CRC32C, and the Castagnoli remainder of 32 zero bytes. -/
theorem test_crc32c : crc32c 0 ((("123456789".toList).map fun c => BitVec.ofNat 8 c.toNat) : List Byte) = 0xE3069283 ∧
    crc32c 0 (List.replicate 32 0) = 0x8A9136AA := by decide +kernel

/-- FIPS 197, C.3: AES-256 of 00112233... under 000102...1f. -/
theorem test_aes256 : aesEncrypt (roundKeys (List.range 32)) ((List.range 16).map fun i => 17 * i) =
    [0x8E, 0xA2, 0xB7, 0xCA, 0x51, 0x67, 0x45, 0xBF, 0xEA, 0xFC, 0x49, 0x90, 0x4B, 0x49, 0x60, 0x89] := by decide +kernel

/-- 1 ns is 2^16 units of the timebase, so that one increment is 1.25 ns. -/
theorem test_timebase_increment : 4 * 0x14000 = 5 * 2 ^ 16 := by decide

/-- FIPS 180-4: SHA-384 of "abc". -/
theorem test_sha384 : beNat (sha384 [0x61, 0x62, 0x63]) =
    0xcb00753f45a35e8bb5a03d699ac65007272c32ab0eded1631a8b605a43ff5bed8086072ba1e7cc2358baeca134c825a7 := by decide +kernel

end Sys2Proof.Tests
end

namespace Sys2Proof.Machine

/-! # Register accesses (O58)

A host's access of a well-formed size reaches one block of BAR0 (Table 4-4). `Reg32` and `Reg64` say which register an offset
is, `exec_host4` and `exec_host8` what a write of it does, and one lemma per register ties that to the command of its row. -/

/-! ### The gates of a device that is up -/

theorem State.reached_of_running {s : State} (ht : s.pace.tripped = false) (f : State → State) : s.reached f = f s := by
  simp [State.reached, ht]

theorem State.whenReady_of_ready {s : State} (ht : s.pace.tripped = false) (hr : s.dev.ready = true) (f : State → State) :
    s.whenReady f = f s := by
  simp [State.whenReady, State.reached_of_running ht, hr]

theorem State.whenReadyOrRecovery_of_ready {s : State} (ht : s.pace.tripped = false) (hr : s.dev.ready = true)
    (f : State → State) : s.whenReadyOrRecovery f = f s := by
  simp [State.whenReadyOrRecovery, State.reached_of_running ht, hr]

/-! ### Fields of a written value -/

theorem bits_low4 (x : Nat) : bits x 0 4 = x % 16 := rfl

theorem bits_toNat {n : Nat} (v : BitVec n) (lo w : Nat) : bits v.toNat lo w = (v.extractLsb' lo w).toNat :=
  (BitVec.extractLsb'_toNat lo w v).symm

theorem bitAt_toNat {n : Nat} (v : BitVec n) (i : Nat) : bitAt v.toNat i = v.getLsbD i := rfl

/-- The bus carries 64 B; a narrower write is its lowest bytes. -/
theorem setWidth_bus (v : W32) : ((v.setWidth 512).setWidth 64).setWidth 32 = v := by
  rw [BitVec.setWidth_setWidth_of_le _ (by decide), BitVec.setWidth_setWidth_of_le _ (by decide), BitVec.setWidth_eq]

/-! ### Which accesses are well formed (R155, R156) -/

theorem wellFormed_iff (size off n : Nat) :
    wellFormed size off n = true ↔ ((n = 4 ∧ off % 4 = 0) ∨ (n = 8 ∧ off % 8 = 0)) ∧ off + n ≤ size := by
  simp [wellFormed]

section Access
variable {s : State} {p : Port} (ht : s.pace.tripped = false)
include ht

theorem State.access_malformed {off n : Nat} (hw : wellFormed 0x8000000 off n = false) (write : Bool) (v : BitVec 512) :
    s.access p ⟨.bar0, write, off, n, v⟩ = s.badAccess p write := by
  cases write <;> simp [State.access, ht, hw]

theorem State.access_bar0Write {off n : Nat} (hw : wellFormed 0x8000000 off n = true) (v : BitVec 512) :
    s.access p ⟨.bar0, true, off, n, v⟩ = s.bar0Write p off n (v.setWidth 64) := by
  simp [State.access, ht, hw]

theorem State.access_bar0Read {off n : Nat} (hw : wellFormed 0x8000000 off n = true) (v : BitVec 512) :
    s.access p ⟨.bar0, false, off, n, v⟩ = s.bar0Read p off n := by
  simp [State.access, ht, hw]

theorem State.access_bar2Write (off n : Nat) (v : BitVec 512) :
    s.access p ⟨.bar2, true, off, n, v⟩ = s.bar2Write p off n v := by
  simp [State.access, ht]

/-- R156: counted in BAD_ACCESS and reported; a read completes with Completer Abort. -/
theorem exec_malformed {off n : Nat} (hw : wellFormed 0x8000000 off n = false) (v : BitVec 512) {t : State}
    (hT : t = s.setPort p { s.port p with badAccess := min 65535 ((s.port p).badAccess + 1) }) :
    exec (.registerWrite p ⟨.bar0, true, off, n, v⟩) s = .next { t with out := s.out ++ [.aer p] } ∧
      exec (.registerWrite p ⟨.bar0, false, off, n, v⟩) s = .next { t with out := s.out ++ [.aer p, .completerAbort p] } := by
  have hbad (w : Bool) : exec (.registerWrite p ⟨.bar0, w, off, n, v⟩) s = .next (s.badAccess p w) :=
    congrArg _ (s.access_malformed ht hw w v)
  subst hT
  constructor
  · rw [hbad]; cases p <;> rfl
  · rw [hbad]; cases p <;> simp [State.badAccess, State.send, State.setPort, State.port, satAdd]

end Access

/-! ### The BAR0 map (Table 4-4)

The lemmas below give the block of each offset whose register is one of many alike: a Keeper slot's, a gallery's, a Hearth's, a
bay's, a Fenline port's. The other registers stand at fixed offsets, where `blockAt` computes. -/

theorem ite_fst_ne {c : Prop} [Decidable c] {x y : Block × Nat} {b : Block} (hx : c → x.1 ≠ b) (hy : ¬ c → y.1 ≠ b) :
    (if c then x else y).1 ≠ b := by
  split
  · exact hx ‹_›
  · exact hy ‹_›

/-- PORT_ and KEEPER_ are the blocks from 0x20000 to 0x3FFFF. -/
theorem blockAt_ne_port_keeper {off : Nat} (ho : off < 0x20000 ∨ 0x40000 ≤ off) {b : Block} (hb : b = .port ∨ b = .keeper) :
    (blockAt off).1 ≠ b := by
  unfold blockAt
  repeat' refine ite_fst_ne (fun _ => ?_) (fun _ => ?_)
  all_goals obtain rfl | rfl := hb <;> simp <;> omega

/-- Those two alone take a write before READY outside RECOVERY (R809). -/
theorem State.takesWrites_eq_false {s : State} (hr : s.dev.ready = false) (hrec : s.dev.recovery = false) {off : Nat}
    (ho : off < 0x20000 ∨ 0x40000 ≤ off) (o : Nat) : s.takesWrites (blockAt off).1 o = false := by
  unfold State.takesWrites
  rw [hr, hrec, Bool.false_or]
  split
  · exact absurd ‹_› (blockAt_ne_port_keeper ho (.inl rfl))
  · exact absurd ‹_› (blockAt_ne_port_keeper ho (.inr rfl))
  · rfl
  · rfl
  · rfl

theorem State.takesWrites_of_ready {s : State} (hr : s.dev.ready = true) (b : Block) (o : Nat) : s.takesWrites b o = true := by
  simp [State.takesWrites, hr]

theorem blockAt_keeper {off o : Nat} (h : off = 0x30000 + o) (ho : o < 0x10000) : blockAt off = (.keeper, o) := by
  simp (disch := omega) only [blockAt, if_neg, if_pos, Prod.mk.injEq, true_and]
  omega

theorem blockAt_gal {off g o : Nat} (h : off = 0x80000 + 0x100 * g + o) (hg : g < 1024) (ho : o < 0x100) :
    blockAt off = (.gal g, o) := by
  simp (disch := omega) only [blockAt, if_neg, if_pos, Prod.mk.injEq, Block.gal.injEq]
  omega

theorem blockAt_hrt {off i o : Nat} (h : off = 0x100000 + 0x4000 * i + o) (hi : i < 48) (ho : o < 0x4000) :
    blockAt off = (.hrt i, o) := by
  simp (disch := omega) only [blockAt, if_neg, if_pos, Prod.mk.injEq, Block.hrt.injEq]
  omega

theorem blockAt_fol {off b o : Nat} (h : off = 0x200000 + 0x4000 * b + o) (hb : b < 8) (ho : o < 0x4000) :
    blockAt off = (.fol b, o) := by
  simp (disch := omega) only [blockAt, if_neg, if_pos, Prod.mk.injEq, Block.fol.injEq]
  omega

theorem blockAt_fen {off q o : Nat} (h : off = 0x220000 + 0x4000 * q + o) (hq : q < 6) (ho : o < 0x4000) :
    blockAt off = (.fen q, o) := by
  simp (disch := omega) only [blockAt, if_neg, if_pos, Prod.mk.injEq, Block.fen.injEq]
  omega

theorem blockAt_cat {off g o : Nat} (h : off = 0x280000 + 0x1000 * g + o) (hg : g < 1024) (ho : o < 0x1000) :
    blockAt off = (.cat g, o) := by
  simp (disch := omega) only [blockAt, if_neg, if_pos, Prod.mk.injEq, Block.cat.injEq]
  omega

/-! ### 32-bit and 64-bit registers (R158, R159) -/

/-- Offset `off` of BAR0 is a 32-bit register, at offset `o` of block `b`. -/
structure Reg32 (off : Nat) (b : Block) (o : Nat) : Prop where
  block : blockAt off = (b, o)
  aligned : off % 4 = 0
  inside : off + 4 ≤ 0x8000000
  window : inWindow b o = false
  kind : wideKind b (o / 8 * 8) = .narrow

/-- Offset `off` of BAR0 is a 64-bit register that takes writes, at offset `o` of block `b`. -/
structure Reg64 (off : Nat) (b : Block) (o : Nat) : Prop where
  block : blockAt off = (b, o)
  aligned : off % 8 = 0
  inside : off + 8 ≤ 0x8000000
  window : inWindow b o = false
  kind : wideKind b o = .rw ∨ wideKind b o = .wo

theorem reg32_keeper {off o : Nat} (h : off = 0x30000 + o) (ho : o < 0x800) (ha : o % 4 = 0) : Reg32 off .keeper o where
  block := blockAt_keeper h (by omega)
  aligned := by omega
  inside := by omega
  window := rfl
  kind := if_neg (by omega)

theorem reg32_gal {off g o : Nat} (h : off = 0x80000 + 0x100 * g + o) (hg : g < 1024) (ho : o < 0x100 ∧ o % 4 = 0)
    (hk : wideKind (.gal g) (o / 8 * 8) = .narrow) : Reg32 off (.gal g) o where
  block := blockAt_gal h hg ho.1
  aligned := by omega
  inside := by omega
  window := rfl
  kind := hk

theorem reg32_hrt {off i o : Nat} (h : off = 0x100000 + 0x4000 * i + o) (hi : i < 48) (ho : o < 0x4000 ∧ o % 4 = 0) :
    Reg32 off (.hrt i) o where
  block := blockAt_hrt h hi ho.1
  aligned := by omega
  inside := by omega
  window := rfl
  kind := rfl

theorem reg32_fol {off b o : Nat} (h : off = 0x200000 + 0x4000 * b + o) (hb : b < 8) (ho : o < 0x100 ∧ o % 4 = 0) :
    Reg32 off (.fol b) o where
  block := blockAt_fol h hb (by omega)
  aligned := by omega
  inside := by omega
  window := by
    rw [inWindow, folWindow, if_neg (by omega), if_neg (by omega)]
    rfl
  kind := rfl

theorem reg32_cat {off g o : Nat} (h : off = 0x280000 + 0x1000 * g + o) (hg : g < 1024) (ho : o < 0x1000 ∧ o % 4 = 0)
    (hk : wideKind (.cat g) (o / 8 * 8) = .narrow) : Reg32 off (.cat g) o where
  block := blockAt_cat h hg ho.1
  aligned := by omega
  inside := by omega
  window := rfl
  kind := hk

theorem reg64_gal {off g o : Nat} (h : off = 0x80000 + 0x100 * g + o) (hg : g < 1024) (ho : o < 0x100 ∧ o % 8 = 0)
    (hk : wideKind (.gal g) o = .rw) : Reg64 off (.gal g) o where
  block := blockAt_gal h hg ho.1
  aligned := by omega
  inside := by omega
  window := rfl
  kind := .inl hk

theorem reg64_fenGal {off g : Nat} (h : off = 0x222000 + 8 * g) (hg : g < 1024) : Reg64 off (.fen 0) (0x2000 + 8 * g) where
  block := blockAt_fen (by omega) (by omega) (by omega)
  aligned := by omega
  inside := by omega
  window := rfl
  kind := .inl (if_pos ⟨rfl, Nat.le_add_right _ _⟩)

theorem reg64_cat {off g o : Nat} (h : off = 0x280000 + 0x1000 * g + o) (hg : g < 1024) (ho : o < 0x1000 ∧ o % 8 = 0)
    (hk : wideKind (.cat g) o = .rw ∨ wideKind (.cat g) o = .wo) : Reg64 off (.cat g) o where
  block := blockAt_cat h hg ho.1
  aligned := by omega
  inside := by omega
  window := rfl
  kind := hk

theorem State.write4_reg32 {off o : Nat} {b : Block} (reg : Reg32 off b o) (s : State) (p : Port) (v : W32) :
    s.write4 p off v = s.write32 p b o v.toNat := by
  simp [State.write4, reg.block, reg.window, reg.kind]

/-- Writing a whole 64-bit register leaves a port that holds no lower half as it is. -/
theorem State.setHalf_none {s : State} {p : Port} (hh : (s.port p).halves = []) (off : Nat) : s.setHalf p off none = s := by
  have hx : (s.port p).setHalf off none = s.port p := by
    rw [PortState.setHalf, hh, mset, if_pos rfl, ← hh]
  rw [State.setHalf, hx]
  cases p <;> rfl

theorem State.write8_reg64 {off o : Nat} {b : Block} (reg : Reg64 off b o) {s : State} {p : Port}
    (hh : (s.port p).halves = []) (v : W64) : s.write8 p off v = s.write64 p b o v := by
  obtain hk | hk := reg.kind <;> simp [State.write8, reg.block, reg.window, hk, State.setHalf_none hh]

/-- A host's 4 B write of BAR0. -/
def host4 (p : Port) (off : Nat) (v : W32) : Instr := .registerWrite p ⟨.bar0, true, off, 4, v.setWidth 512⟩

/-- A host's 8 B write of BAR0. -/
def host8 (p : Port) (off : Nat) (v : W64) : Instr := .registerWrite p ⟨.bar0, true, off, 8, v.setWidth 512⟩

section Writes
variable {s : State} {p : Port} (ht : s.pace.tripped = false) (hr : s.dev.ready = true) {off o : Nat} {b : Block}
include ht hr

theorem exec_host4 (reg : Reg32 off b o) (v : W32) : exec (host4 p off v) s = .next (s.write32 p b o v.toNat) := by
  have hw : wellFormed 0x8000000 off 4 = true := (wellFormed_iff ..).2 ⟨.inl ⟨rfl, reg.aligned⟩, reg.inside⟩
  refine congrArg _ ((State.access_bar0Write ht hw _).trans ?_)
  rw [State.bar0Write, State.takesWrites_of_ready hr, setWidth_bus, State.write4_reg32 reg]
  rfl

theorem exec_host8 (hh : (s.port p).halves = []) (reg : Reg64 off b o) (v : W64) :
    exec (host8 p off v) s = .next (s.write64 p b o v) := by
  have hw : wellFormed 0x8000000 off 8 = true := (wellFormed_iff ..).2 ⟨.inr ⟨rfl, reg.aligned⟩, reg.inside⟩
  refine congrArg _ ((State.access_bar0Write ht hw _).trans ?_)
  rw [State.bar0Write, State.takesWrites_of_ready hr, BitVec.setWidth_setWidth_of_le _ (by decide), BitVec.setWidth_eq,
    State.write8_reg64 reg hh]
  rfl

end Writes

/-! ### The command that each command register names -/

/-- A command behind a gate that a device that is up passes is the register's write. -/
theorem exec_eq_of_gate {s : State} {c : Instr} 
    {gate : (State → State) → State} {f : State → State} {t : State}
    (hgate : ∀ f, gate f = f s) (hc : exec c s = .next (gate f)) (hf : f s = t) : exec c s = .next t := by
  rw [hc, hgate, hf]

section Commands
variable {s : State} {p : Port} (ht : s.pace.tripped = false) (hr : s.dev.ready = true) {c : Instr} {v : W32}
include ht hr

/-- GAL_COMMAND (Table 3-5). -/
theorem exec_galCommand {g : GalleryId} (hc : (v.toNat % 16, c) ∈ [(1, Instr.galCreate p g), (2, .galOpen p g), (3, .quiesce p g),
    (4, .galReset p g (v.getLsbD 8) (v.getLsbD 9)), (5, .release p g (v.getLsbD 8) (v.getLsbD 9))]) :
    exec c s = .next (s.galCommand p g.val v.toNat) := by
  simp only [List.mem_cons, Prod.mk.injEq, List.not_mem_nil, or_false] at hc
  rcases hc with ⟨hv, rfl⟩ | ⟨hv, rfl⟩ | ⟨hv, rfl⟩ | ⟨hv, rfl⟩ | ⟨hv, rfl⟩ <;>
    exact exec_eq_of_gate (State.whenReady_of_ready ht hr) rfl (by simp [State.galCommand, bits_low4, hv, bitAt_toNat])

/-- CAT_CMD (Table 5-4). -/
theorem exec_catCommand {g : GalleryId} (hc : (v.toNat % 16, c) ∈ [(1, Instr.catWrite p g (v.extractLsb' 8 8)),
    (2, .invalidate p g (v.extractLsb' 8 8)), (3, .catRead p g (v.extractLsb' 8 8)), (4, .presFill p g (v.extractLsb' 8 8)),
    (5, .presEmpty p g (v.extractLsb' 8 8))]) : exec c s = .next (s.catCommand p g.val v.toNat) := by
  have hseg := bits_toNat v 8 8
  simp only [List.mem_cons, Prod.mk.injEq, List.not_mem_nil, or_false] at hc
  rcases hc with ⟨hv, rfl⟩ | ⟨hv, rfl⟩ | ⟨hv, rfl⟩ | ⟨hv, rfl⟩ | ⟨hv, rfl⟩ <;>
    exact exec_eq_of_gate (State.whenReady_of_ready ht hr) rfl
      (by simp only [State.catCommand, bits_low4, hv, hseg, BitVec.ofNat_toNat, BitVec.setWidth_eq])

/-- FOL_COMMAND (Table 16-6). -/
theorem exec_folCommand {b : BayId} (hc : (v.toNat % 16, c) ∈ [(1, Instr.adopt p b), (2, .eject p b), (3, .folRetire p b),
    (5, .accept p b), (6, .folCommit p b)]) : exec c s = .next (s.folWriteCommand p b.val v.toNat) := by
  simp only [List.mem_cons, Prod.mk.injEq, List.not_mem_nil, or_false] at hc
  rcases hc with ⟨hv, rfl⟩ | ⟨hv, rfl⟩ | ⟨hv, rfl⟩ | ⟨hv, rfl⟩ | ⟨hv, rfl⟩ <;>
    exact exec_eq_of_gate (State.whenReady_of_ready ht hr) rfl (by simp [State.folWriteCommand, bits_low4, hv])

/-- FAULT_COMMAND (Table 18-6). -/
theorem exec_faultCommand (hc : (bits v.toNat 28 4, c) ∈ [(1, Instr.fenceGrate p (v.setWidth 10)),
    (2, .fenceEngine p (v.setWidth 10)), (3, .fenceStove p (v.setWidth 10)), (4, .forget p (v.setWidth 10)),
    (5, .returnSeal p)]) : exec c s = .next (s.faultCommand p v.toNat) := by
  simp only [List.mem_cons, Prod.mk.injEq, List.not_mem_nil, or_false] at hc
  rcases hc with ⟨hv, rfl⟩ | ⟨hv, rfl⟩ | ⟨hv, rfl⟩ | ⟨hv, rfl⟩ | ⟨hv, rfl⟩ <;>
    exact exec_eq_of_gate (State.whenReady_of_ready ht hr) rfl (by simp [State.faultCommand, hv])

/-- ACC_COMMAND (Table 20-9). -/
theorem exec_accCommand (hc : (v.toNat % 16 = 1 ∧ c = .install p) ∨ (v.toNat % 16 = 3 ∧ c = .confirm p) ∨
    (v.toNat % 16 = 4 ∧ c = .reboot p) ∨ (v.toNat % 16 = 2 ∧ ∃ i, (bits v.toNat 8 2, i) ∈ [(0, SlotId.a), (1, .b), (2, .golden)] ∧
      c = .activate p i)) : exec c s = .next (s.accWrite p 0x18 v.toNat) := by
  have hgate := State.whenReadyOrRecovery_of_ready ht hr
  obtain ⟨hv, rfl⟩ | ⟨hv, rfl⟩ | ⟨hv, rfl⟩ | ⟨hv, i, hi, rfl⟩ := hc
  · exact exec_eq_of_gate hgate rfl (by simp [State.accWrite, bits_low4, hv])
  · exact exec_eq_of_gate hgate rfl (by simp [State.accWrite, bits_low4, hv])
  · exact exec_eq_of_gate hgate rfl (by simp [State.accWrite, bits_low4, hv])
  · simp only [List.mem_cons, Prod.mk.injEq, List.not_mem_nil, or_false] at hi
    rcases hi with ⟨hs, rfl⟩ | ⟨hs, rfl⟩ | ⟨hs, rfl⟩ <;>
      exact exec_eq_of_gate hgate rfl (by simp [State.accWrite, bits_low4, hv, hs])

end Commands

/-! ### A write of each 32-bit register is its command -/

section Registers32
variable {s : State} {p : Port} (ht : s.pace.tripped = false) (hr : s.dev.ready = true) {c : Instr} {v : W32} {off : Nat}
include ht hr

theorem host4_eq {b : Block} {o : Nat} (reg : Reg32 off b o) (hc : exec c s = .next (s.write32 p b o v.toNat)) :
    exec (host4 p off v) s = exec c s :=
  (exec_host4 ht hr reg v).trans hc.symm

theorem host4_paceVreq : exec (host4 p 0x10210 v) s = exec (.paceVreq p v) s :=
  host4_eq ht hr (b := .time) (o := 0x210) ⟨rfl, rfl, by decide, rfl, rfl⟩
    (exec_eq_of_gate (State.whenReady_of_ready ht hr) rfl rfl)

theorem host4_portAdopt {g : GalleryId} (hg : g.val = v.toNat % 1024) :
    exec (host4 p 0x20018 v) s = exec (.portAdopt p g) s :=
  host4_eq ht hr (b := .port) (o := 0x18) ⟨rfl, rfl, by decide, rfl, rfl⟩
    (exec_eq_of_gate (State.reached_of_running ht) rfl (by rw [hg]; rfl))

theorem host4_keeper {n : Fin 64}
    (hc : (off = 0x30000 + 0x20 * n.val ∧ c = .keeperTake p n (v.setWidth 16) (v.extractLsb' 16 12)) ∨
      (off = 0x30008 + 0x20 * n.val ∧ c = .keeperGive p n (v.setWidth 16))) : exec (host4 p off v) s = exec c s := by
  have hgate := State.reached_of_running ht
  have htoken : BitVec.ofNat 16 v.toNat = v.setWidth 16 := BitVec.ofNat_toNat 16 v
  obtain ⟨hoff, rfl⟩ | ⟨hoff, rfl⟩ := hc
  · refine host4_eq ht hr (reg32_keeper (o := 0x20 * n.val) hoff (by omega) (by omega)) (exec_eq_of_gate hgate rfl ?_)
    have hslot : 0x20 * n.val / 0x20 = n.val := by omega
    simp (disch := omega) only [State.write32, State.keeperWrite, if_neg, if_pos, hslot, htoken, bits_toNat]
  · refine host4_eq ht hr (reg32_keeper (o := 0x20 * n.val + 8) (by omega) (by omega) (by omega))
      (exec_eq_of_gate hgate rfl ?_)
    have hslot : (0x20 * n.val + 8) / 0x20 = n.val := by omega
    simp (disch := omega) only [State.write32, State.keeperWrite, if_neg, if_pos, hslot, htoken]

theorem host4_fault (hc : (off = 0x50008 ∧ c = .faultTail v) ∨ (off = 0x50070 ∧ c = .faultSealArm p v) ∨
    (off = 0x50068 ∧ (bits v.toNat 28 4, c) ∈ [(1, Instr.fenceGrate p (v.setWidth 10)), (2, .fenceEngine p (v.setWidth 10)),
      (3, .fenceStove p (v.setWidth 10)), (4, .forget p (v.setWidth 10)), (5, .returnSeal p)])) :
    exec (host4 p off v) s = exec c s := by
  have hgate := State.whenReady_of_ready ht hr
  obtain ⟨rfl, rfl⟩ | ⟨rfl, rfl⟩ | ⟨rfl, hc⟩ := hc
  · exact host4_eq ht hr (b := .fault) (o := 0x08) ⟨rfl, rfl, by decide, rfl, rfl⟩
      (exec_eq_of_gate hgate rfl (by simp [State.write32, State.faultWrite]))
  · exact host4_eq ht hr (b := .fault) (o := 0x70) ⟨rfl, rfl, by decide, rfl, rfl⟩
      (exec_eq_of_gate hgate rfl (by simp [State.write32, State.faultWrite]))
  · exact host4_eq ht hr (b := .fault) (o := 0x68) ⟨rfl, rfl, by decide, rfl, rfl⟩ (exec_faultCommand ht hr hc)

theorem host4_gal {g : GalleryId}
    (hc : (off = 0x80008 + 0x100 * g.val ∧ (v.toNat % 16, c) ∈ [(1, Instr.galCreate p g), (2, .galOpen p g), (3, .quiesce p g),
        (4, .galReset p g (v.getLsbD 8) (v.getLsbD 9)), (5, .release p g (v.getLsbD 8) (v.getLsbD 9))]) ∨
      (off = 0x80030 + 0x100 * g.val ∧ c = .galKindleDeadline p g v) ∨
      (off = 0x80028 + 0x100 * g.val ∧ c = .galConfigWrite p g .pasid (v.setWidth 64))) :
    exec (host4 p off v) s = exec c s := by
  have hgate := State.whenReady_of_ready ht hr
  obtain ⟨hoff, hc⟩ | ⟨hoff, rfl⟩ | ⟨hoff, rfl⟩ := hc
  · exact host4_eq ht hr (reg32_gal (o := 0x08) (by omega) g.isLt (by decide) rfl) (exec_galCommand ht hr hc)
  · exact host4_eq ht hr (reg32_gal (o := 0x30) (by omega) g.isLt (by decide) rfl) (exec_eq_of_gate hgate rfl rfl)
  · refine host4_eq ht hr (reg32_gal (o := 0x28) (by omega) g.isLt (by decide) rfl) (exec_eq_of_gate hgate rfl ?_)
    have hv : (v.setWidth 64).toNat = v.toNat := BitVec.toNat_setWidth_of_le (by decide)
    rw [hv]
    rfl

theorem host4_cat {g : GalleryId} (hoff : off = 0x280010 + 0x1000 * g.val)
    (hc : (v.toNat % 16, c) ∈ [(1, Instr.catWrite p g (v.extractLsb' 8 8)), (2, .invalidate p g (v.extractLsb' 8 8)),
      (3, .catRead p g (v.extractLsb' 8 8)), (4, .presFill p g (v.extractLsb' 8 8)), (5, .presEmpty p g (v.extractLsb' 8 8))]) :
    exec (host4 p off v) s = exec c s :=
  host4_eq ht hr (reg32_cat (o := 0x10) (by omega) g.isLt (by decide) rfl) (exec_catCommand ht hr hc)

theorem host4_hrt {h : HearthId}
    (hc : (off = 0x100008 + 0x4000 * h.val ∧ v.getLsbD 30 = true ∧ c = .fenceReq p h) ∨
      (off = 0x100018 + 0x4000 * h.val ∧ c = .hrtPostRoute p h (v.getLsbD 0)) ∨
      (off = 0x100040 + 0x4000 * h.val ∧ v.getLsbD 0 = true ∧ c = .hrtReset p h) ∨
      ∃ j : Fin 256, off = 0x101000 + 0x4000 * h.val + 4 * j.val ∧ c = .hrtPsMap p h j v) :
    exec (host4 p off v) s = exec c s := by
  have hgate := State.whenReady_of_ready ht hr
  obtain ⟨hoff, hbit, rfl⟩ | ⟨hoff, rfl⟩ | ⟨hoff, hbit, rfl⟩ | ⟨j, hoff, rfl⟩ := hc
  · exact host4_eq ht hr (reg32_hrt (o := 0x08) (by omega) h.isLt (by decide))
      (exec_eq_of_gate hgate rfl (if_pos hbit).symm)
  · exact host4_eq ht hr (reg32_hrt (o := 0x18) (by omega) h.isLt (by decide)) (exec_eq_of_gate hgate rfl rfl)
  · exact host4_eq ht hr (reg32_hrt (o := 0x40) (by omega) h.isLt (by decide))
      (exec_eq_of_gate hgate rfl (if_pos hbit).symm)
  · refine host4_eq ht hr (reg32_hrt (o := 0x1000 + 4 * j.val) (by omega) h.isLt (by omega)) (exec_eq_of_gate hgate rfl ?_)
    have hj : (0x1000 + 4 * j.val - 0x1000) / 4 = j.val := by omega
    simp (disch := omega) only [State.write32, State.hrtWrite, if_neg, if_pos, hj, BitVec.ofNat_toNat, BitVec.setWidth_eq]

theorem host4_fol {b : BayId}
    (hc : (off = 0x200008 + 0x4000 * b.val ∧ (v.toNat % 16, c) ∈ [(1, Instr.adopt p b), (2, .eject p b), (3, .folRetire p b),
        (5, .accept p b), (6, .folCommit p b)]) ∨
      (off = 0x200040 + 0x4000 * b.val ∧ v.getLsbD 0 = true ∧ c = .folReset p b)) : exec (host4 p off v) s = exec c s := by
  obtain ⟨hoff, hc⟩ | ⟨hoff, hbit, rfl⟩ := hc
  · exact host4_eq ht hr (reg32_fol (o := 0x08) (by omega) b.isLt (by decide)) (exec_folCommand ht hr hc)
  · exact host4_eq ht hr (reg32_fol (o := 0x40) (by omega) b.isLt (by decide))
      (exec_eq_of_gate (State.whenReady_of_ready ht hr) rfl (if_pos hbit).symm)

theorem host4_fenCfgEpoch : exec (host4 p 0x221008 v) s = exec (.fenCfgEpoch p v) s := by
  refine host4_eq ht hr (b := .fen 0) (o := 0x1008) ⟨rfl, rfl, by decide, rfl, rfl⟩
    (exec_eq_of_gate (State.whenReady_of_ready ht hr) rfl ?_)
  have hepoch : v.extractLsb' 16 16 = BitVec.ofNat 16 (v.toNat / 65536) := by
    rw [BitVec.extractLsb', Nat.shiftRight_eq_div_pow]
  rw [hepoch]
  rfl

theorem host4_ledgCfg : exec (host4 p 0x260000 v) s = exec (.ledgCfg p v) s :=
  host4_eq ht hr (b := .ledg) (o := 0) ⟨rfl, rfl, by decide, rfl, rfl⟩
    (exec_eq_of_gate (State.whenReadyOrRecovery_of_ready ht hr) rfl rfl)

end Registers32

/-! ### A write of each 64-bit register is its command -/

section Registers64
variable {s : State} {p : Port} (ht : s.pace.tripped = false) (hr : s.dev.ready = true) (hh : (s.port p).halves = [])
  {c : Instr} {v : W64} {off : Nat}
include ht hr hh

theorem host8_eq {b : Block} {o : Nat} (reg : Reg64 off b o) (hc : exec c s = .next (s.write64 p b o v)) :
    exec (host8 p off v) s = exec c s :=
  (exec_host8 ht hr hh reg v).trans hc.symm

theorem host8_timeSet : exec (host8 p 0x10020 v) s = exec (.timeSet p v) s :=
  host8_eq ht hr hh (b := .time) (o := 0x20) ⟨rfl, rfl, by decide, rfl, .inr rfl⟩
    (exec_eq_of_gate (State.whenReady_of_ready ht hr) rfl rfl)

theorem host8_pacePark : exec (host8 p 0x10220 v) s = exec (.pacePark p v) s :=
  host8_eq ht hr hh (b := .time) (o := 0x220) ⟨rfl, rfl, by decide, rfl, .inl rfl⟩
    (exec_eq_of_gate (State.whenReady_of_ready ht hr) rfl rfl)

theorem host8_gallery {g : GalleryId}
    (hc : (off = 0x80018 + 0x100 * g.val ∧ c = .galConfigWrite p g .hearths v) ∨
      (off = 0x222000 + 8 * g.val ∧ c = .fenGal p g v) ∨ (off = 0x280000 + 0x1000 * g.val ∧ c = .catPool p g v) ∨
      (off = 0x280050 + 0x1000 * g.val ∧ c = .catPresSet p g v) ∨ (off = 0x280058 + 0x1000 * g.val ∧ c = .catPresClr p g v)) :
    exec (host8 p off v) s = exec c s := by
  have hgate := State.whenReady_of_ready ht hr
  obtain ⟨hoff, rfl⟩ | ⟨hoff, rfl⟩ | ⟨hoff, rfl⟩ | ⟨hoff, rfl⟩ | ⟨hoff, rfl⟩ := hc
  · exact host8_eq ht hr hh (reg64_gal (o := 0x18) (by omega) g.isLt (by decide) rfl) (exec_eq_of_gate hgate rfl rfl)
  · refine host8_eq ht hr hh (reg64_fenGal hoff g.isLt) (exec_eq_of_gate hgate rfl ?_)
    have hg : (0x2000 + 8 * g.val - 0x2000) / 8 = g.val := by omega
    rw [State.write64, hg]
  · exact host8_eq ht hr hh (reg64_cat (o := 0) (by omega) g.isLt (by decide) (.inl rfl)) (exec_eq_of_gate hgate rfl rfl)
  · exact host8_eq ht hr hh (reg64_cat (o := 0x50) (by omega) g.isLt (by decide) (.inr rfl)) (exec_eq_of_gate hgate rfl rfl)
  · exact host8_eq ht hr hh (reg64_cat (o := 0x58) (by omega) g.isLt (by decide) (.inr rfl)) (exec_eq_of_gate hgate rfl rfl)

end Registers64

/-! ### Writes before READY, reads and doorbells -/

theorem ofNat_bits_lower (w : Nat) : BitVec.ofNat 64 (bits w 0 32) = BitVec.ofNat 64 w &&& 0xFFFFFFFF := by
  have hmask : (0xFFFFFFFF : W64).toNat = 2 ^ 32 - 1 := rfl
  apply BitVec.eq_of_toNat_eq
  simp only [bits, Nat.shiftRight_zero, BitVec.toNat_ofNat, BitVec.toNat_and, hmask, Nat.and_two_pow_sub_one_eq_mod]
  omega

theorem ofNat_bits_upper (w : Nat) : BitVec.ofNat 64 (bits w 32 32) = BitVec.ofNat 64 w >>> 32 := by
  apply BitVec.eq_of_toNat_eq
  simp only [bits, BitVec.toNat_ofNat, BitVec.toNat_ushiftRight, Nat.shiftRight_eq_div_pow]
  omega

/-- DEV_ID (Table 4-6) reads at any time. -/
theorem State.word_devId (s : State) (p : Port) :
    BitVec.ofNat 64 (s.word p 0) = (s.dev.unit ++ (0x02C00048 : W32) : BitVec 64) := by
  have hword : s.word p 0 = s.devId := by
    simp [State.word, show blockAt 0 = (.dev, 0) from rfl, Block.early, State.devWord]
  have hid : s.devId = s.dev.unit.toNat * 2 ^ 32 + 0x02C00048 := by
    unfold State.devId
    omega
  have hlow : (0x02C00048 : W32).toNat = 0x02C00048 := rfl
  apply BitVec.eq_of_toNat_eq
  rw [hword, hid, BitVec.toNat_append, hlow, ← Nat.shiftLeft_add_eq_or_of_lt (by decide), Nat.shiftLeft_eq,
    BitVec.toNat_ofNat]
  omega

section Reads
variable {s : State} {p : Port} (ht : s.pace.tripped = false)
include ht

theorem exec_bar0Write_early (hr : s.dev.ready = false) (hrec : s.dev.recovery = false) {off : Nat} (hal : off % 4 = 0)
    (hin : off + 4 ≤ 0x8000000) (ho : off < 0x20000 ∨ 0x40000 ≤ off) (v : BitVec 512) :
    exec (.registerWrite p ⟨.bar0, true, off, 4, v⟩) s =
      .next { s with dev := { s.dev with earlyWrites := min 65535 (s.dev.earlyWrites + 1) } } := by
  refine congrArg _ ((State.access_bar0Write ht ((wellFormed_iff ..).2 ⟨.inl ⟨rfl, hal⟩, hin⟩) v).trans ?_)
  rw [State.bar0Write, State.takesWrites_eq_false hr hrec ho]
  rfl

/-- R78: a read of TIME_NOW latches, by its size and half. -/
theorem exec_timeNowRead (part : TimeRead) : exec (.timeNowRead p part) s = .next (s.readTimeNow p part) := by
  change Host.Outcome.next (if s.pace.tripped then s.send (.completerAbort p) else s.readTimeNow p part) = _
  rw [ht]
  rfl

theorem exec_bar0Read {off n : Nat} (hw : wellFormed 0x8000000 off n = true) (v : BitVec 512) :
    exec (.registerWrite p ⟨.bar0, false, off, n, v⟩) s = .next (s.bar0Read p off n) :=
  congrArg _ (State.access_bar0Read ht hw v)

/-- The two halves of an aligned 8 B read are the 4 B reads. -/
theorem exec_bar0Read_word {off : Nat} (hal : off % 8 = 0) (hin : off + 8 ≤ 0x8000000) (hne : off ≠ 0x10000) (v : BitVec 512)
    {w : W64} (hword : BitVec.ofNat 64 (s.word p off) = w) :
    exec (.registerWrite p ⟨.bar0, false, off, 8, v⟩) s = .next { s with out := s.out ++ [.readDone p w] } ∧
      exec (.registerWrite p ⟨.bar0, false, off, 4, v⟩) s =
        .next { s with out := s.out ++ [.readDone p (w &&& 0xFFFFFFFF)] } ∧
      exec (.registerWrite p ⟨.bar0, false, off + 4, 4, v⟩) s = .next { s with out := s.out ++ [.readDone p (w >>> 32)] } := by
  subst hword
  have hbase : off / 8 * 8 = off := by omega
  have hbase4 : (off + 4) / 8 * 8 = off := by omega
  have hhalf : (off + 4) % 8 ≠ 0 := by omega
  refine ⟨?_, ?_, ?_⟩
  · rw [exec_bar0Read ht ((wellFormed_iff ..).2 ⟨.inr ⟨rfl, hal⟩, hin⟩), State.bar0Read, hbase, if_neg hne]
    rfl
  · rw [exec_bar0Read ht ((wellFormed_iff ..).2 ⟨.inl ⟨rfl, by omega⟩, by omega⟩), State.bar0Read, hbase, if_neg hne,
      ← ofNat_bits_lower]
    simp [hal, State.send]
  · rw [exec_bar0Read ht ((wellFormed_iff ..).2 ⟨.inl ⟨rfl, by omega⟩, by omega⟩), State.bar0Read, hbase4, if_neg hne,
      ← ofNat_bits_upper]
    simp [hhalf, State.send]

end Reads

section Doorbells
variable {s : State} {p : Port} (ht : s.pace.tripped = false) (g : GalleryId)
include ht

/-- A 4 B write below a page's DB_PUSHq is judged as that doorbell (R162, Table 3-6). -/
theorem exec_bar2Write (hr : s.dev.ready = true) {off o : Nat} (hoff : off = 0x1000 * g.val + o) (ho : o < 0x100)
    (hal : o % 4 = 0) (v : W32) :
    exec (.registerWrite p ⟨.bar2, true, off, 4, v.setWidth 512⟩) s = .next (s.doorbellWrite p g.val o v) := by
  have hpage : off / 0x1000 = g.val := by omega
  have hin : off % 0x1000 = o := by omega
  have hpush : inPush o = false := by simp [inPush, ho]
  have hw : wellFormed 0x400000 off 4 = true := (wellFormed_iff ..).2 ⟨.inl ⟨rfl, by omega⟩, by omega⟩
  refine congrArg _ ((State.access_bar2Write ht off 4 _).trans ?_)
  simp [State.bar2Write, hpage, hin, hpush, hw, hr]

theorem exec_pushWrite (q : QueueId) (d : BitVec 512) :
    exec (.registerWrite p ⟨.bar2, true, 0x1000 * g.val + 0x100 + 0x40 * q.val, 64, d⟩) s =
      exec (.dbPush p g q (natLe 64 d.toNat)) s := by
  have hpage : (0x1000 * g.val + 0x100 + 0x40 * q.val) / 0x1000 = g.val := by omega
  have hin : (0x1000 * g.val + 0x100 + 0x40 * q.val) % 0x1000 = 0x100 + 0x40 * q.val := by omega
  have hq : (0x100 + 0x40 * q.val - 0x100) / 0x40 = q.val := by omega
  have hal : (0x100 + 0x40 * q.val) % 0x40 = 0 := by omega
  have hpush : inPush (0x100 + 0x40 * q.val) = true := by
    rw [inPush, Bool.and_eq_true, decide_eq_true_eq, decide_eq_true_eq]
    omega
  have hd : d.toNat % 2 ^ (8 * min 64 64) = d.toNat := by
    rw [show 8 * min 64 64 = 512 from rfl, BitVec.toNat_mod_cancel]
  refine congrArg _ ((State.access_bar2Write ht _ 64 d).trans ?_)
  rw [State.bar2Write, hpage, hin, if_pos ⟨hpush, by omega⟩, State.pushWrite, hq, if_pos hal, hd]

theorem exec_doorbellWrite (hr : s.dev.ready = true) (q : QueueId) (v : W32) :
    exec (.registerWrite p ⟨.bar2, true, 0x1000 * g.val + 0x20 * q.val, 4, v.setWidth 512⟩) s =
        exec (.dbSqTail p g q (v.setWidth 16)) s ∧
      exec (.registerWrite p ⟨.bar2, true, 0x1000 * g.val + 0x20 * q.val + 8, 4, v.setWidth 512⟩) s =
        exec (.dbCqHead p g q (v.setWidth 16)) s ∧
      exec (.registerWrite p ⟨.bar2, true, 0x1000 * g.val + 0x20 * q.val + 16, 4, v.setWidth 512⟩) s =
        exec (.dbAbort p g q (v.setWidth 16)) s ∧
      exec (.registerWrite p ⟨.bar2, true, 0x1000 * g.val + 0x80, 4, v.setWidth 512⟩) s = exec (.dbResume p g v) s ∧
      exec (.registerWrite p ⟨.bar2, true, 0x1000 * g.val + 0x88, 4, v.setWidth 512⟩) s =
        exec (.dbFaultqHead p g (v.setWidth 16)) s := by
  refine ⟨?_, ?_, ?_, ?_, ?_⟩
  · rw [exec_bar2Write ht g hr rfl (by omega) (by omega)]
    fin_cases q <;> rfl
  · rw [exec_bar2Write ht g hr (Nat.add_assoc ..) (by omega) (by omega)]
    fin_cases q <;> rfl
  · rw [exec_bar2Write ht g hr (Nat.add_assoc ..) (by omega) (by omega)]
    fin_cases q <;> rfl
  · exact exec_bar2Write ht g hr rfl (by decide) rfl v
  · exact exec_bar2Write ht g hr rfl (by decide) rfl v

end Doorbells

/-- Settles O58: by the block that decodes each offset (Table 4-4), then register by register. That a malformed access before
READY counts in BAD_ACCESS alone is the model's log entry 24. -/
theorem registerAccesses : Obligations.RegisterAccesses := by
  unfold Obligations.RegisterAccesses
  intro p s acc ht hacc
  obtain rfl : acc = fun bar write off n v => .registerWrite p ⟨bar, write, off, n, v⟩ := by
    funext bar write off n v
    exact hacc bar write off n v
  refine ⟨?malformed, ?early, ?timeNow, ?devId, ?reads, ?regs32, ?regs64, ?doorbells⟩
  case malformed =>
    intro off n v hw t hT
    exact exec_malformed ht (Bool.eq_false_iff.2 (mt (wellFormed_iff ..).1 hw)) v hT
  case early => exact fun off v hal hin hr hrec ho => exec_bar0Write_early ht hr hrec hal hin ho v
  case timeNow =>
    refine ⟨?_, ?_, ?_⟩
    · exact (exec_bar0Read ht (by decide) 0).trans (exec_timeNowRead ht .full).symm
    · exact (exec_bar0Read ht (by decide) 0).trans (exec_timeNowRead ht .lower).symm
    · exact (exec_bar0Read ht (by decide) 0).trans (exec_timeNowRead ht .upper).symm
  case devId => exact (exec_bar0Read_word ht rfl (by decide) (by decide) 0 (s.word_devId p)).1
  case reads => exact fun off v hal hin hne => ⟨_, exec_bar0Read_word ht hal hin hne v rfl⟩
  case regs32 =>
    rintro hr v off c (⟨rfl, rfl⟩ | ⟨g, hg, rfl, rfl⟩ | ⟨n, hc⟩ | ⟨rfl, hc⟩ | hc | hc | hc | ⟨g, hc⟩ | ⟨h, hc⟩ | ⟨b, hc⟩ |
      ⟨rfl, rfl⟩ | ⟨rfl, rfl⟩)
    · exact host4_paceVreq ht hr
    · exact host4_portAdopt ht hr hg
    · exact host4_keeper ht hr hc
    · exact host4_eq ht hr (b := .acc) (o := 0x18) ⟨rfl, rfl, by decide, rfl, rfl⟩ (exec_accCommand ht hr hc)
    · exact host4_fault ht hr (.inl hc)
    · exact host4_fault ht hr (.inr (.inl hc))
    · exact host4_fault ht hr (.inr (.inr hc))
    · obtain hc | hc | hc | ⟨hoff, hc⟩ := hc
      · exact host4_gal ht hr (.inl hc)
      · exact host4_gal ht hr (.inr (.inl hc))
      · exact host4_gal ht hr (.inr (.inr hc))
      · exact host4_cat ht hr hoff hc
    · exact host4_hrt ht hr hc
    · exact host4_fol ht hr hc
    · exact host4_fenCfgEpoch ht hr
    · exact host4_ledgCfg ht hr
  case regs64 =>
    rintro hr hh v off c (⟨rfl, rfl⟩ | ⟨rfl, rfl⟩ | ⟨g, hc⟩)
    · exact host8_timeSet ht hr hh
    · exact host8_pacePark ht hr hh
    · exact host8_gallery ht hr hh hc
  case doorbells =>
    intro hr g q v d
    obtain ⟨htail, hhead, habort, hresume, hfaultq⟩ := exec_doorbellWrite (p := p) ht g hr q v
    exact ⟨htail, hhead, habort, hresume, hfaultq, exec_pushWrite ht g q d⟩

end Sys2Proof.Machine

namespace Sys2Proof.Machine

open Sys2Proof.Safety

/-! # What a step does to the configuration (O4, O59)

One table over the commands, `exec_cfg_or_keeps`: a command leaves `State.cfg` alone, or is one of those meant to change it and
keeps what `Keeps` says. -/

/-- The commands meant to change the configuration: those of TIME_EPOCH, the voltage request, the Keeper, LEDG_CFG, the image,
the floor and the seal, with port resets, cold resets, power-up and the register writes that stand for them. -/
def setsCfg : Instr → Bool
  | .registerWrite .. | .timeSet .. | .ppsEdge | .paceVreq .. | .thermalSample .. | .perst .. | .hotReset ..
  | .linkDisable .. | .functionLevelReset .. | .d3hot .. | .dllDown .. | .keeperTake .. | .keeperGive ..
  | .keeperLeaseExpiry .. | .ledgCfg .. | .reboot .. | .resetNLow | .watchdogExpiry | .powerLoss
  | .powerUpPhase .. | .bootFlashOperationEnd .. => true
  | _ => false

theorem exec_cfg_or_keeps {s t : State} :
    (c : Instr) → exec c s = .next t → t.cfg = s.cfg ∨ (setsCfg c = true ∧ Keeps s t)
  | .registerWrite p a, hx => .inr ⟨rfl, execRegisterWrite_keeps p a hx⟩
  | .configRequest p r, hx => .inl (execConfigRequest_cfg p r hx)
  | .timeNowRead p part, hx => .inl (execTimeNowRead_cfg p part hx)
  | .timeSet p v, hx => .inr ⟨rfl, execTimeSet_keeps p v hx⟩
  | .ppsEdge, hx => .inr ⟨rfl, execPpsEdge_keeps hx⟩
  | .holdoverEntry, hx => .inl (execHoldoverEntry_cfg hx)
  | .refTimeRelock err, hx => .inl (execRefTimeRelock_cfg err hx)
  | .paceWindowEnd counts, hx => .inl (execPaceWindowEnd_cfg counts hx)
  | .paceVreq p v, hx => .inr ⟨rfl, execPaceVreq_keeps p v hx⟩
  | .avsStatusPoll vdone mv, hx => .inl (execAvsStatusPoll_cfg vdone mv hx)
  | .avsFrameFail status, hx => .inl (execAvsFrameFail_cfg status hx)
  | .thermalSample readings, hx => .inr ⟨rfl, execThermalSample_keeps readings hx⟩
  | .pacePark p mask, hx => .inl (execPacePark_cfg p mask hx)
  | .hearthPark h, hx => .inl (execHearthPark_cfg h hx)
  | .hearthWake h, hx => .inl (execHearthWake_cfg h hx)
  | .galCreate p g, hx => .inl (execCreate_cfg p g hx)
  | .galOpen p g, hx => .inl (execOpen_cfg p g hx)
  | .quiesce p g, hx => .inl (execQuiesce_cfg p g hx)
  | .quiesceDrained g, hx => .inl (execQuiesceDrained_cfg g hx)
  | .galReset p g scrub scrubKey, hx => .inl (execGalReset_cfg p g scrub scrubKey hx)
  | .release p g scrub scrubKey, hx => .inl (execRelease_cfg p g scrub scrubKey hx)
  | .galResetDone g, hx => .inl (execGalResetDone_cfg g hx)
  | .galConfigWrite p g r v, hx => .inl (execGalConfigWrite_cfg p g r v hx)
  | .galKindleDeadline p g v, hx => .inl (execGalKindleDeadline_cfg p g v hx)
  | .dbSqTail p g q t, hx => .inl (execDbSqTail_cfg p g q t hx)
  | .dbPush p g q data, hx => .inl (execDbPush_cfg p g q data hx)
  | .dbCqHead p g q h, hx => .inl (execDbCqHead_cfg p g q h hx)
  | .dbAbort p g q t, hx => .inl (execDbAbort_cfg p g q t hx)
  | .dbResume p g seq, hx => .inl (execDbResume_cfg p g seq hx)
  | .dbFaultqHead p g h, hx => .inl (execDbFaultqHead_cfg p g h hx)
  | .entryStage g q ans v, hx => .inl (execEntryStage_cfg g q ans v hx)
  | .entryFetch, hx => .inl (execEntryFetch_cfg hx)
  | .runDispatch wo, hx => .inl (execRunDispatch_cfg wo hx)
  | .stoveLoadDispatch wo, hx => .inl (execStoveLoadDispatch_cfg wo hx)
  | .placeDispatch wo, hx => .inl (execPlaceDispatch_cfg wo hx)
  | .qfenceRetire wo, hx => .inl (execQfenceRetire_cfg wo hx)
  | .retire wo, hx => .inl (execRetire_cfg wo hx)
  | .completionRecord wo, hx => .inl (execCompletionRecord_cfg wo hx)
  | .msixPendingSend p, hx => .inl (execMsixPendingSend_cfg p hx)
  | .stokerFree h k, hx => .inl (execStokerFree_cfg h k hx)
  | .stokerWake h k, hx => .inl (execStokerWake_cfg h k hx)
  | .faultCommit wo code hearth stoker pc, hx => .inl (execFaultCommit_cfg wo code hearth stoker pc hx)
  | .perst p, hx => .inr ⟨rfl, execPerst_keeps p hx⟩
  | .hotReset p, hx => .inr ⟨rfl, execHotReset_keeps p hx⟩
  | .linkDisable p, hx => .inr ⟨rfl, execLinkDisable_keeps p hx⟩
  | .functionLevelReset p, hx => .inr ⟨rfl, execFunctionLevelReset_keeps p hx⟩
  | .d3hot p, hx => .inr ⟨rfl, execD3hot_keeps p hx⟩
  | .portResetEnd p t, hx => .inl (execPortResetEnd_cfg p t hx)
  | .dllDown p, hx => .inr ⟨rfl, execDllDown_keeps p hx⟩
  | .dllUp p width speed, hx => .inl (execDllUp_cfg p width speed hx)
  | .portResetGraceExpiry g, hx => .inl (execPortResetGraceExpiry_cfg g hx)
  | .hostCompletionTimeout id, hx => .inl (execHostCompletionTimeout_cfg id hx)
  | .keeperTake p n token lease, hx => .inr ⟨rfl, execKeeperTake_keeps p n token lease hx⟩
  | .keeperGive p n token, hx => .inr ⟨rfl, execKeeperGive_keeps p n token hx⟩
  | .keeperLeaseExpiry n, hx => .inr ⟨rfl, execKeeperLeaseExpiry_keeps n hx⟩
  | .portAdopt p g, hx => .inl (execPortAdopt_cfg p g hx)
  | .ledgCfg p v, hx => .inr ⟨rfl, execLedgCfg_keeps p v hx⟩
  | .m2sRequest p r v, hx => .inl (execM2sRequest_cfg p r v hx)
  | .bar4Access p write off data be vs, hx => .inl (execBar4Access_cfg p write off data be vs hx)
  | .birsp p l st, hx => .inl (execBirsp_cfg p l st hx)
  | .memclnevct p l, hx => .inl (execMemclnevct_cfg p l hx)
  | .dirtyWriteBack p l data, hx => .inl (execDirtyWriteBack_cfg p l data hx)
  | .biconflict p l, hx => .inl (execBiconflict_cfg p l hx)
  | .snoopTimeout l, hx => .inl (execSnoopTimeout_cfg l hx)
  | .catWrite p g seg, hx => .inl (execCatWrite_cfg p g seg hx)
  | .invalidate p g seg, hx => .inl (execInvalidate_cfg p g seg hx)
  | .catRead p g seg, hx => .inl (execCatRead_cfg p g seg hx)
  | .presFill p g seg, hx => .inl (execPresFill_cfg p g seg hx)
  | .presEmpty p g seg, hx => .inl (execPresEmpty_cfg p g seg hx)
  | .catPresSet p g v, hx => .inl (execCatPresSet_cfg p g v hx)
  | .catPresClr p g v, hx => .inl (execCatPresClr_cfg p g v hx)
  | .catPool p g v, hx => .inl (execCatPool_cfg p g v hx)
  | .catDrainDone g, hx => .inl (execCatDrainDone_cfg g hx)
  | .pieceSend u, hx => .inl (execPieceSend_cfg u hx)
  | .pieceComplete id ret, hx => .inl (execPieceComplete_cfg id ret hx)
  | .hrtPsMap p h j v, hx => .inl (execHrtPsMap_cfg p h j v hx)
  | .fenceReq p h, hx => .inl (execFenceReq_cfg p h hx)
  | .hrtPostRoute p h stove, hx => .inl (execHrtPostRoute_cfg p h stove hx)
  | .hrtReset p h, hx => .inl (execHrtReset_cfg p h hx)
  | .nop h k, hx => .inl (execNop_cfg h k hx)
  | .jmp h k, hx => .inl (execJmp_cfg h k hx)
  | .br h k, hx => .inl (execBr_cfg h k hx)
  | .call h k, hx => .inl (execCall_cfg h k hx)
  | .ret h k, hx => .inl (execRet_cfg h k hx)
  | .loop h k, hx => .inl (execLoop_cfg h k hx)
  | .halt h k, hx => .inl (execHalt_cfg h k hx)
  | .trap h k, hx => .inl (execTrap_cfg h k hx)
  | .yield h k, hx => .inl (execYield_cfg h k hx)
  | .add h k, hx => .inl (execAdd_cfg h k hx)
  | .sub h k, hx => .inl (execSub_cfg h k hx)
  | .mul h k, hx => .inl (execMul_cfg h k hx)
  | .and h k, hx => .inl (execAnd_cfg h k hx)
  | .or h k, hx => .inl (execOr_cfg h k hx)
  | .xor h k, hx => .inl (execXor_cfg h k hx)
  | .shl h k, hx => .inl (execShl_cfg h k hx)
  | .shr h k, hx => .inl (execShr_cfg h k hx)
  | .sra h k, hx => .inl (execSra_cfg h k hx)
  | .min h k, hx => .inl (execMin_cfg h k hx)
  | .max h k, hx => .inl (execMax_cfg h k hx)
  | .cmpCc h k, hx => .inl (execCmpCc_cfg h k hx)
  | .sel h k, hx => .inl (execSel_cfg h k hx)
  | .movi h k, hx => .inl (execMovi_cfg h k hx)
  | .movhi h k, hx => .inl (execMovhi_cfg h k hx)
  | .moviX h k, hx => .inl (execMoviX_cfg h k hx)
  | .movhiX h k, hx => .inl (execMovhiX_cfg h k hx)
  | .ld h k, hx => .inl (execLd_cfg h k hx)
  | .st h k, hx => .inl (execSt_cfg h k hx)
  | .ldarg h k, hx => .inl (execLdarg_cfg h k hx)
  | .fenceAcq h k, hx => .inl (execFenceAcq_cfg h k hx)
  | .fenceRel h k, hx => .inl (execFenceRel_cfg h k hx)
  | .fenceFull h k, hx => .inl (execFenceFull_cfg h k hx)
  | .flagSet h k, hx => .inl (execFlagSet_cfg h k hx)
  | .flagAdd h k, hx => .inl (execFlagAdd_cfg h k hx)
  | .flagWaitCc h k, hx => .inl (execFlagWaitCc_cfg h k hx)
  | .flagReread h k, hx => .inl (execFlagReread_cfg h k hx)
  | .damper h k, hx => .inl (execDamper_cfg h k hx)
  | .damperRoundEnd wo, hx => .inl (execDamperRoundEnd_cfg wo hx)
  | .timeRd h k, hx => .inl (execTimeRd_cfg h k hx)
  | .paceRd h k, hx => .inl (execPaceRd_cfg h k hx)
  | .strOpen h k, hx => .inl (execStrOpen_cfg h k hx)
  | .strOpenL h k, hx => .inl (execStrOpenL_cfg h k hx)
  | .strOpenTags h, hx => .inl (execStrOpenTags_cfg h hx)
  | .strPull h k, hx => .inl (execStrPull_cfg h k hx)
  | .strPush h k, hx => .inl (execStrPush_cfg h k hx)
  | .strWait h k, hx => .inl (execStrWait_cfg h k hx)
  | .strPos h k, hx => .inl (execStrPos_cfg h k hx)
  | .strClose h k, hx => .inl (execStrClose_cfg h k hx)
  | .streamHalt h k d, hx => .inl (execStreamHalt_cfg h k d hx)
  | .grtLoadb h k, hx => .inl (execGrtLoadb_cfg h k hx)
  | .grtMm h k, hx => .inl (execGrtMm_cfg h k hx)
  | .grtMmX h k, hx => .inl (execGrtMmX_cfg h k hx)
  | .grtZero h k, hx => .inl (execGrtZero_cfg h k hx)
  | .grtZeroC h k, hx => .inl (execGrtZeroC_cfg h k hx)
  | .positionClaimGrant h, hx => .inl (execPositionClaimGrant_cfg h hx)
  | .claimRelease h k, hx => .inl (execClaimRelease_cfg h k hx)
  | .kindlingDeadline h chain, hx => .inl (execKindlingDeadline_cfg h chain hx)
  | .chainStart h chain, hx => .inl (execChainStart_cfg h chain hx)
  | .tileBroadcast h chain v f row, hx => .inl (execTileBroadcast_cfg h chain v f row hx)
  | .chainCommit h chain, hx => .inl (execChainCommit_cfg h chain hx)
  | .fluSt h k, hx => .inl (execFluSt_cfg h k hx)
  | .fluStL h k, hx => .inl (execFluStL_cfg h k hx)
  | .flueDrain h op check, hx => .inl (execFlueDrain_cfg h op check hx)
  | .fluSte h k, hx => .inl (execFluSte_cfg h k hx)
  | .sprEmb h k, hx => .inl (execSprEmb_cfg h k hx)
  | .sprEmbC h k, hx => .inl (execSprEmbC_cfg h k hx)
  | .sprMerge h k, hx => .inl (execSprMerge_cfg h k hx)
  | .sprDroprd h k, hx => .inl (execSprDroprd_cfg h k hx)
  | .cabCall h k, hx => .inl (execCabCall_cfg h k hx)
  | .cabWait h k, hx => .inl (execCabWait_cfg h k hx)
  | .engineCallStart q e, hx => .inl (execEngineCallStart_cfg q e hx)
  | .engineCallComplete q e ok, hx => .inl (execEngineCallComplete_cfg q e ok hx)
  | .stvLoad h k, hx => .inl (execStvLoad_cfg h k hx)
  | .stvRun h k, hx => .inl (execStvRun_cfg h k hx)
  | .stvWait h k, hx => .inl (execStvWait_cfg h k hx)
  | .patternLoad h, hx => .inl (execPatternLoad_cfg h hx)
  | .stoveCallStart h, hx => .inl (execStoveCallStart_cfg h hx)
  | .stoveCallComplete h ok, hx => .inl (execStoveCallComplete_cfg h ok hx)
  | .rdData b h tag data, hx => .inl (execRdData_cfg b h tag data hx)
  | .wrAck b h tag, hx => .inl (execWrAck_cfg b h tag hx)
  | .err b h tag e, hx => .inl (execErr_cfg b h tag e hx)
  | .mgRsp b h op r, hx => .inl (execMgRsp_cfg b h op r hx)
  | .folioLinkDown b, hx => .inl (execFolioLinkDown_cfg b hx)
  | .bayTimeout b tag, hx => .inl (execBayTimeout_cfg b tag hx)
  | .bayPresenceHeld b, hx => .inl (execBayPresenceHeld_cfg b hx)
  | .bayPresenceLost b, hx => .inl (execBayPresenceLost_cfg b hx)
  | .folChalNonce b nonce, hx => .inl (execFolChalNonce_cfg b nonce hx)
  | .adopt p b, hx => .inl (execAdopt_cfg p b hx)
  | .eject p b, hx => .inl (execEject_cfg p b hx)
  | .folRetire p b, hx => .inl (execFolRetire_cfg p b hx)
  | .folExport p b targetOk, hx => .inl (execFolExport_cfg p b targetOk hx)
  | .accept p b, hx => .inl (execAccept_cfg p b hx)
  | .folCommit p b, hx => .inl (execFolCommit_cfg p b hx)
  | .ledgerCommitTimer, hx => .inl (execLedgerCommitTimer_cfg hx)
  | .scrubStatus, hx => .inl (execScrubStatus_cfg hx)
  | .folReset p b, hx => .inl (execFolReset_cfg p b hx)
  | .pwrWarnNFall, hx => .inl (execPwrWarnNFall_cfg hx)
  | .pwrWarnNRelease, hx => .inl (execPwrWarnNRelease_cfg hx)
  | .idle p h, hx => .inl (execIdle_cfg p h hx)
  | .putData p h va data last, hx => .inl (execPutData_cfg p h va data last hx)
  | .getReq p h va len, hx => .inl (execGetReq_cfg p h va len hx)
  | .getData p h data, hx => .inl (execGetData_cfg p h data hx)
  | .xack p h a, hx => .inl (execXack_cfg p h a hx)
  | .signal p h va addend, hx => .inl (execSignal_cfg p h va addend hx)
  | .coll p h id ps first elems last, hx => .inl (execColl_cfg p h id ps first elems last hx)
  | .bringup p h b, hx => .inl (execBringup_cfg p h b hx)
  | .timesync p h t, hx => .inl (execTimesync_cfg p h t hx)
  | .mgmt p h payload, hx => .inl (execMgmt_cfg p h payload hx)
  | .leave p h id, hx => .inl (execLeave_cfg p h id hx)
  | .fenlinePortDown p, hx => .inl (execFenlinePortDown_cfg p hx)
  | .fenlineTrained p, hx => .inl (execFenlineTrained_cfg p hx)
  | .timesyncTimer, hx => .inl (execTimesyncTimer_cfg hx)
  | .epochAnnounceTimer, hx => .inl (execEpochAnnounceTimer_cfg hx)
  | .fenCfgEpoch p v, hx => .inl (execFenCfgEpoch_cfg p v hx)
  | .fenGal p g v, hx => .inl (execFenGal_cfg p g v hx)
  | .fenCtrlReset p q, hx => .inl (execFenCtrlReset_cfg p q hx)
  | .fenCtrlDisable p q on, hx => .inl (execFenCtrlDisable_cfg p q on hx)
  | .ringEntryTake g, hx => .inl (execRingEntryTake_cfg g hx)
  | .ringEntryComplete g ii, hx => .inl (execRingEntryComplete_cfg g ii hx)
  | .fenceGrate p arg, hx => .inl (execFenceGrate_cfg p arg hx)
  | .fenceEngine p arg, hx => .inl (execFenceEngine_cfg p arg hx)
  | .fenceStove p arg, hx => .inl (execFenceStove_cfg p arg hx)
  | .forget p arg, hx => .inl (execForget_cfg p arg hx)
  | .returnSeal p, hx => .inl (execReturnSeal_cfg p hx)
  | .faultSealArm p v, hx => .inl (execFaultSealArm_cfg p v hx)
  | .faultTail v, hx => .inl (execFaultTail_cfg v hx)
  | .faultBookAppend, hx => .inl (execFaultBookAppend_cfg hx)
  | .conservatorUnlock signed, hx => .inl (execConservatorUnlock_cfg signed hx)
  | .install p, hx => .inl (execInstall_cfg p hx)
  | .activate p ii, hx => .inl (execActivate_cfg p ii hx)
  | .confirm p, hx => .inl (execConfirm_cfg p hx)
  | .reboot p, hx => .inr ⟨rfl, execReboot_keeps p hx⟩
  | .resetNLow, hx => .inr ⟨rfl, execResetNLow_keeps hx⟩
  | .resetNRise, hx => .inl (execResetNRise_cfg hx)
  | .bayEnumerationSlot b, hx => .inl (execBayEnumerationSlot_cfg b hx)
  | .watchdogExpiry, hx => .inr ⟨rfl, execWatchdogExpiry_keeps hx⟩
  | .serdesRefclkLoss, hx => .inl (execSerdesRefclkLoss_cfg hx)
  | .powerLoss, hx => .inr ⟨rfl, execPowerLoss_keeps hx⟩
  | .identityBlockRead smbus, hx => .inl (execIdentityBlockRead_cfg smbus hx)
  | .setEndpointId ii eid, hx => .inl (execSetEndpointId_cfg ii eid hx)
  | .getEndpointId ii, hx => .inl (execGetEndpointId_cfg ii hx)
  | .getMctpVersionSupport ii, hx => .inl (execGetMctpVersionSupport_cfg ii hx)
  | .getMessageTypeSupport ii, hx => .inl (execGetMessageTypeSupport_cfg ii hx)
  | .getpdr ii handle, hx => .inl (execGetpdr_cfg ii handle hx)
  | .getsensorreading ii id, hx => .inl (execGetsensorreading_cfg ii id hx)
  | .getstatesensorreadings ii id, hx => .inl (execGetstatesensorreadings_cfg ii id hx)
  | .getVersion ii, hx => .inl (execGetVersion_cfg ii hx)
  | .getCapabilities ii, hx => .inl (execGetCapabilities_cfg ii hx)
  | .negotiateAlgorithms ii offered, hx => .inl (execNegotiateAlgorithms_cfg ii offered hx)
  | .getDigests ii, hx => .inl (execGetDigests_cfg ii hx)
  | .getCertificate ii slot off len, hx => .inl (execGetCertificate_cfg ii slot off len hx)
  | .spdmChallenge ii slot nonce, hx => .inl (execSpdmChallenge_cfg ii slot nonce hx)
  | .getMeasurements ii index, hx => .inl (execGetMeasurements_cfg ii index hx)
  | .keyExchange ii psk, hx => .inl (execKeyExchange_cfg ii psk hx)
  | .extest pins shift, hx => .inl (execExtest_cfg pins shift hx)
  | .idcode, hx => .inl (execIdcode_cfg hx)
  | .samplePreload pins shift, hx => .inl (execSamplePreload_cfg pins shift hx)
  | .extestPulse pins shift, hx => .inl (execExtestPulse_cfg pins shift hx)
  | .extestTrain pins shift, hx => .inl (execExtestTrain_cfg pins shift hx)
  | .clamp shift, hx => .inl (execClamp_cfg shift hx)
  | .highz shift, hx => .inl (execHighz_cfg shift hx)
  | .bypass shift, hx => .inl (execBypass_cfg shift hx)
  | .bayLinkTrained b, hx => .inl (execBayLinkTrained_cfg b hx)
  | .powerUpPhase bad, hx => .inr ⟨rfl, execPowerUpPhase_keeps bad hx⟩
  | .bootFlashOperationEnd ok sigOk, hx => .inr ⟨rfl, execBootFlashOperationEnd_keeps ok sigOk hx⟩
  | .baySupplyOff b, hx => .inl (execBaySupplyOff_cfg b hx)
  | .illegal h k, hx => .inl (execIllegal_cfg h k hx)
  | .doeDiscovery p index, hx => .inl (execDoeDiscovery_cfg p index hx)
  | .cxlTableAccess p entry, hx => .inl (execCxlTableAccess_cfg p entry hx)
  | .pldmBase ii r, hx => .inl (execPldmBase_cfg ii r hx)
  | .dynamicAddressAssignment addr, hx => .inl (execDynamicAddressAssignment_cfg addr hx)
  | .trstN, hx => .inl (execTrstN_cfg hx)

theorem exec_keeps {c : Instr} {s t : State} (hx : exec c s = .next t) : Keeps s t := by
  obtain hcfg | ⟨-, hk⟩ := exec_cfg_or_keeps c hx
  · exact .of_cfg hcfg
  · exact hk

/-- The configuration invariant says nothing of the queue. -/
theorem inv_withPending {s : State} (q : List Instr) (hi : Inv s) : Inv { s with pending := q } :=
  ⟨hi.epoch, hi.reserved, hi.slots, hi.voltage, hi.ledger, hi.image⟩

/-- Settles O4: an increment leaves the configuration alone, and a command keeps the invariant by `exec_keeps`. -/
theorem everyStepKeepsInv : Obligations.EveryStepKeepsInv := by
  unfold Obligations.EveryStepKeepsInv
  intro s t hi hstep
  unfold step at hstep
  split at hstep
  next =>
    obtain rfl : s.tick = t := by simpa using hstep
    exact (inv_iff _).2 (s.tick_cfg ▸ (inv_iff s).1 hi)
  next c rest _ => exact (inv_iff t).2 ((exec_keeps hstep).inv ((inv_iff _).1 (inv_withPending rest hi)))

/-- Settles O59: the commands that `setsCfg` names are the ones the statement sets apart. -/
theorem otherCommandsKeepSettings : Obligations.OtherCommandsKeepSettings := by
  unfold Obligations.OtherCommandsKeepSettings
  intro c s t hx
  have hk := exec_keeps hx
  refine ⟨⟨hk.pending, hk.unit, hk.grade, hk.mfg⟩, ?_⟩
  intro hTimeSet hPps hVreq hThermal hPort hKeeper hLedg hFlash hResetN hReboot hWatchdog hPowerLoss hPowerUp hWrite
  have hother : setsCfg c = false := by
    unfold setsCfg
    split
    case h_12 p n token lease => exact absurd rfl (hKeeper p n token lease).1
    case h_14 n => exact absurd rfl (hKeeper .a n 0 0).2.2
    all_goals simp_all
  obtain hcfg | ⟨hsets, -⟩ := exec_cfg_or_keeps c hx
  · exact ⟨congrArg Cfg.epoch hcfg, congrArg Cfg.slots hcfg, congrArg Cfg.mv hcfg, congrArg Cfg.exchMib hcfg,
      congrArg Cfg.snpTimeout hcfg, congrArg Cfg.image hcfg, congrArg Cfg.floor hcfg, congrArg Cfg.sealed hcfg⟩
  · exact absurd (hsets.symm.trans hother) (by decide)
end Sys2Proof.Machine

namespace Sys2Proof.Machine

open Sys2Proof.Safety

/-! # The timebase (O2, O7) -/

theorem State.whenReady_of_serving {s : State} (h : Serving s) (f : State → State) : s.whenReady f = f s :=
  State.whenReady_of_ready h.live h.ready f

/-! ### Increments and reads of TIME_NOW -/

theorem State.tick_of_low {s : State} (h : s.dev.resetLow = true) : s.tick = s := by
  rw [State.tick, if_pos h]

theorem State.tick_of_high {s : State} (h : s.dev.resetLow = false) :
    s.tick = { s with tb := { s.tb with
      time := s.tb.time + BitVec.ofNat 80 (0x14000 + trimOf s.tb.slew).toNat
      elapsed := s.tb.elapsed + (0x14000 + trimOf s.tb.slew).toNat
      slew := s.tb.slew - trimOf s.tb.slew } } := by
  simp [State.tick, h]

theorem step_of_idle {s : State} (h : s.pending = []) : step s = .next s.tick := by
  rw [step, h]

theorem shiftRight_setWidth_setWidth (w : W64) : ((w >>> 32).setWidth 32).setWidth 64 = w >>> 32 := by
  bv_omega

/-- R78: the halves of one instant make up its 64 bits. -/
theorem upper_or_lower (w : W64) : (w >>> 32) <<< 32 ||| (w &&& 0xFFFFFFFF) = w := by
  have hmask : ∀ (i : Nat) (_ : i < 64), (4294967295#64)[i] = decide (i < 32) := by decide
  ext i hi
  by_cases h32 : i < 32
  · simp [hmask, h32]
  · simp [hmask, h32, show 32 + (i - 32) = i by omega, BitVec.getLsbD_eq_getElem hi]

theorem exec_timeNowRead_full {s : State} (ht : s.pace.tripped = false) (p : Port) :
    exec (.timeNowRead p .full) s = .next { s with
      tb := { s.tb with frac := s.tb.time.setWidth 16 }, out := s.out ++ [.readDone p s.timeNs] } :=
  exec_timeNowRead ht .full

theorem exec_timeNowRead_lower {s : State} (ht : s.pace.tripped = false) (p : Port) :
    exec (.timeNowRead p .lower) s = .next { s with
      tb := { s.tb with frac := s.tb.time.setWidth 16, upperLatch := (s.timeNs >>> 32).setWidth 32 }
      out := s.out ++ [.readDone p (s.timeNs &&& 0xFFFFFFFF)] } :=
  exec_timeNowRead ht .lower

theorem exec_timeNowRead_upper {s : State} (ht : s.pace.tripped = false) (p : Port) {w : W64}
    (hw : s.tb.upperLatch = (w >>> 32).setWidth 32) :
    exec (.timeNowRead p .upper) s = .next { s with out := s.out ++ [.readDone p (w >>> 32)] } := by
  refine (exec_timeNowRead ht .upper).trans ?_
  rw [State.readTimeNow, hw, shiftRight_setWidth_setWidth]
  rfl

/-! ### PPS edges (R83) -/

theorem State.ppsEdge_of_off {s : State} (h : s.tb.ppsEn = false) :
    s.ppsEdge = { s with tb := { s.tb with lastPps := some s.tb.elapsed } } := by
  simp [State.ppsEdge, h]

/-- The whole second nearest to TIME. -/
theorem nearestSecond_eq {n t : Nat} (hlo : n * sec 1 ≤ t + sec 1 / 2) (hhi : t + sec 1 / 2 < (n + 1) * sec 1) :
    nearestSecond t = n * sec 1 := by
  rw [nearestSecond, Nat.div_eq_of_lt_le hlo hhi]

/-- A second is 10^9 ns. -/
theorem seconds_in_ns (n : Nat) : n * sec 1 / 65536 = n * 1000000000 := by
  simp only [sec, ms, us, ns]
  omega

section Pps
variable {s : State} (hen : s.tb.ppsEn = true) {n : Nat} (hnear : nearestSecond s.tb.time.toNat = n * sec 1)
include hen hnear

theorem State.ppsEdge_of_slew
    (h : s.tb.ppsStep = false ∨ (((n * sec 1 : Nat) : Int) - s.tb.time.toNat).natAbs ≤ us 1) :
    s.ppsEdge = { s with tb := { s.tb with
      lastPps := some s.tb.elapsed, slew := ((n * sec 1 : Nat) : Int) - s.tb.time.toNat } } := by
  have hno : ¬ (s.tb.ppsStep = true ∧ (us 1 : Int) < (((n * sec 1 : Nat) : Int) - s.tb.time.toNat).natAbs) := by
    rintro ⟨hstep, hfar⟩
    obtain h | h := h
    · exact absurd (h.symm.trans hstep) (by decide)
    · exact absurd (Int.ofNat_lt.1 hfar) (Nat.not_lt.2 h)
  simp only [State.ppsEdge, hen, hnear, if_neg hno, Bool.not_true, Bool.false_eq_true, if_false]

theorem State.ppsEdge_of_step (hstep : s.tb.ppsStep = true)
    (hfar : us 1 < (((n * sec 1 : Nat) : Int) - s.tb.time.toNat).natAbs) :
    s.ppsEdge = { s with tb := { s.tb with
      lastPps := some s.tb.elapsed, slew := 0, stepped := true
      time := (BitVec.ofNat 64 (n * 1000000000)).setWidth 80 <<< 16, epoch := nextEpoch s.tb.epoch } } := by
  have hyes : s.tb.ppsStep = true ∧ (us 1 : Int) < (((n * sec 1 : Nat) : Int) - s.tb.time.toNat).natAbs :=
    ⟨hstep, Int.ofNat_lt.2 hfar⟩
  simp only [State.ppsEdge, hen, hnear, if_pos hyes, Bool.not_true, Bool.false_eq_true, if_false, State.stepTime,
    seconds_in_ns]

end Pps

/-- Settles O2, clause by clause. That the trim is 16 units an increment until the error is used up, and that the error of
the holdover comes with the relock, is the model's log entry 32; that an empty queue lets time pass is entry 2. -/
theorem timebaseRuns : Obligations.TimebaseRuns := by
  unfold Obligations.TimebaseRuns
  refine ⟨?increments, ?reads, ?edges⟩
  case increments =>
    intro s hidle
    rw [step_of_idle hidle]
    exact ⟨fun hlow => congrArg _ (State.tick_of_low hlow), fun hhigh => congrArg _ (State.tick_of_high hhigh)⟩
  case reads =>
    intro p s ht
    exact ⟨exec_timeNowRead_full ht p, s.timeNs &&& 0xFFFFFFFF, s.timeNs >>> 32, rfl, rfl, upper_or_lower _,
      exec_timeNowRead_lower ht p, fun t ht' hlatch => exec_timeNowRead_upper ht' p hlatch⟩
  case edges =>
    intro s
    refine ⟨fun hoff => congrArg _ (State.ppsEdge_of_off hoff), fun n hen hlo hhi => ?_, rfl, fun _ => rfl⟩
    have hnear := nearestSecond_eq hlo hhi
    exact ⟨fun h => congrArg _ (State.ppsEdge_of_slew hen hnear h),
      fun hstep hfar => congrArg _ (State.ppsEdge_of_step hen hnear hstep hfar)⟩

/-- Settles O7: a TIME_SET write is judged by Keeper slot 4, and steps TIME. -/
theorem timeSetStepsTime : Obligations.TimeSetStepsTime := by
  unfold Obligations.TimeSetStepsTime
  intro p v s hs
  have hx : exec (.timeSet p v) s = .next (s.timeSet p v) := congrArg _ (State.whenReady_of_serving hs _)
  rw [hx, State.timeSet]
  refine ⟨fun hholds => ?_, fun hno => ?_⟩
  · rw [if_pos hholds]
    rfl
  · rw [if_neg (by simp [hno])]

end Sys2Proof.Machine

namespace Sys2Proof.Machine

open Sys2Proof.Safety

/-! # Voltage requests, Pace windows and the thermal guard (O8, O9, O10, O11) -/

/-! ### What becomes of a voltage request -/

section Requests
variable {s : State} {v : Nat}

theorem State.avsRequest_of_busy (h : s.pace.busy = true) :
    s.avsRequest v = { s with pace := { s.pace with mv := v, newer := some v } } := by
  simp [State.avsRequest, h]

theorem State.avsRequest_of_idle (h : s.pace.busy = false) :
    s.avsRequest v = { s with
      pace := { s.pace with mv := v, busy := true, sending := v, repeated := false, newer := none }
      out := s.out ++ [.avsVoltage v] } := by
  simp [State.avsRequest, h, State.avsStart, State.send]

theorem exec_paceVreq (hs : Serving s) (p : Port) (w : W32) :
    exec (.paceVreq p w) s = .next (s.paceVreq p (w.toNat % 1024)) :=
  congrArg _ (State.whenReady_of_serving hs _)

variable {p : Port}

theorem State.paceVreq_of_notOwner (h : s.holds p 4 = false) :
    s.paceVreq p v = { s with pace := { s.pace with notOwner := true } } := by
  simp [State.paceVreq, h]

theorem State.paceVreq_of_range (h : s.holds p 4 = true) (hv : v < 550 ∨ 950 < v) :
    s.paceVreq p v = { s with pace := { s.pace with range := true } } := by
  simp [State.paceVreq, h, hv]

variable (h : s.holds p 4 = true) (hlo : 550 ≤ v) (hhi : v ≤ 950)
include h hlo hhi

theorem State.paceVreq_of_hot (hg : s.pace.guardOn = true) (hv : s.pace.mv < v) :
    s.paceVreq p v = { s with pace := { s.pace with rejectedHot := true } } := by
  simp [State.paceVreq, h, hg, hv, hlo, hhi]

theorem State.paceVreq_of_accepted (hv : s.pace.guardOn = false ∨ v ≤ s.pace.mv) : s.paceVreq p v = s.avsRequest v := by
  have hcool : ¬ (s.pace.guardOn = true ∧ s.pace.mv < v) := by
    rintro ⟨hg, hlt⟩
    obtain hv | hv := hv
    · exact absurd (hv.symm.trans hg) (by decide)
    · omega
  simp only [State.paceVreq, h, Bool.not_true, Bool.false_eq_true, if_false, if_neg hcool,
    if_neg (by omega : ¬ (v < 550 ∨ 950 < v))]

end Requests

/-- Settles O8: by the judgement of a PACE_VREQ write, in its order. -/
theorem voltageRequestRules : Obligations.VoltageRequestRules := by
  unfold Obligations.VoltageRequestRules
  rintro p v s mv hs rfl
  rw [exec_paceVreq hs]
  refine ⟨fun hno => congrArg _ (State.paceVreq_of_notOwner hno),
    fun hown hrange => congrArg _ (State.paceVreq_of_range hown hrange),
    fun hown hlo hhi hg hhot => congrArg _ (State.paceVreq_of_hot hown hlo hhi hg hhot), fun hown hlo hhi hcool => ?_⟩
  rw [State.paceVreq_of_accepted hown hlo hhi hcool]
  exact ⟨fun hbusy => congrArg _ (State.avsRequest_of_busy hbusy), fun hidle => congrArg _ (State.avsRequest_of_idle hidle)⟩

/-! ### What leaves the Pace registers alone -/

@[simp] theorem State.raise_pace (s : State) (p : Port) (v : Nat) : (s.raise p v).pace = s.pace := by
  simp [State.raise, apply_ite State.pace]
@[simp] theorem State.raiseDev_pace (s : State) (p : Port) (lo : Nat) : (s.raiseDev p lo).pace = s.pace := by
  simp [State.raiseDev, apply_ite State.pace]
@[simp] theorem State.raiseBoth_pace (s : State) (lo : Nat) : (s.raiseBoth lo).pace = s.pace := by
  simp [State.raiseBoth]
@[simp] theorem State.logFault_pace (s : State) (f : FaultInfo) : (s.logFault f).pace = s.pace := by
  simp [State.logFault, apply_ite State.pace]
@[simp] theorem State.countLasting_pace (s : State) : s.countLasting.pace = s.pace := rfl
@[simp] theorem State.logUnbooked_pace (s : State) (f : FaultInfo) : (s.logUnbooked f).pace = s.pace := s.logFault_pace f
@[simp] theorem State.startFlash_pace (s : State) : s.startFlash.pace = s.pace := by
  unfold State.startFlash
  split <;> rfl
@[simp] theorem State.sendMg_pace (s : State) (b : Nat) (j : MgJob) (op : MgOp) (arg : Nat) (bs : List Byte) :
    (s.sendMg b j op arg bs).pace = s.pace := rfl

/-- PWR_WARN_N and the trip command the bays alone. -/
@[simp] theorem State.holdBays_pace (s : State) : s.holdBays.pace = s.pace := by
  unfold State.holdBays
  refine List.foldlRecOn (motive := fun (t : State) => t.pace = s.pace) _ _ rfl fun t ht b _ => ?_
  dsimp only
  split
  · exact ht
  · exact ht

/-! ### AVSBus frames (R59, R60, R64) -/

section Frames
variable {s : State} (hb : s.pace.busy = true)
include hb

theorem State.avsPoll_of_running (hn : s.pace.newer = none) (mv : Nat) :
    s.avsPoll false mv = { s with
      pace := { s.pace with repeated := false, avsFault := false }, out := s.out ++ [.avsStatus] } := by
  simp [State.avsPoll, hb, hn, State.send]

theorem State.avsPoll_of_done (hn : s.pace.newer = none) (mv : Nat) :
    s.avsPoll true mv = { s with
      pace := { s.pace with repeated := false, avsFault := false, done := true, busy := false, mvNow := mv }
      out := s.out ++ [.avsStatus] } := by
  simp [State.avsPoll, hb, hn, State.send]

theorem State.avsPoll_of_waiting {v : Nat} (hn : s.pace.newer = some v) (vdone : Bool) (mv : Nat) :
    s.avsPoll vdone mv = { s with
      pace := { s.pace with
        repeated := false, avsFault := false, newer := none, sending := v
        done := s.pace.done || vdone, mvNow := if vdone then mv else s.pace.mvNow }
      out := s.out ++ [.avsStatus, .avsVoltage v] } := by
  cases vdone <;> simp [State.avsPoll, hb, hn, State.avsStart, State.send]

/-- A request that follows another finds BUSY set. -/
theorem State.avsStart_of_busy (v : Nat) :
    s.avsStart v = { s with
      pace := { s.pace with sending := v, repeated := false, newer := none }, out := s.out ++ [.avsVoltage v] } := by
  simp [State.avsStart, State.send, hb]

theorem State.avsFail_of_first (hr : s.pace.repeated = false) (status : Bool) :
    s.avsFail status = { s with
      pace := { s.pace with repeated := true }
      out := s.out ++ [if status then .avsStatus else .avsVoltage s.pace.sending] } := by
  simp [State.avsFail, hb, hr, State.send]

end Frames

/-- The device once AVS_FAULT is set, its lasting fault counted and its record written (R64, Table 18-5). -/
def State.avsFaulted (s : State) : State :=
  State.logFault (State.countLasting { s with pace := { s.pace with avsFault := true } })
    { event := 0x28, cls := 2, unitKind := 0, b := s.pace.sending }

@[simp] theorem State.avsFaulted_pace (s : State) : s.avsFaulted.pace = { s.pace with avsFault := true } := by
  simp [State.avsFaulted]

section SecondFailure
variable {s : State} (hb : s.pace.busy = true) (hr : s.pace.repeated = true) (status : Bool)
include hb hr

theorem State.avsFail_of_second_alone (hn : s.pace.newer = none) :
    s.avsFail status =
      { s.avsFaulted with pace := { s.avsFaulted.pace with busy := false, repeated := false } } := by
  rw [State.avsFail, if_neg (by simp [hb]), if_neg (by simp [hr])]
  extract_lets
  split
  next v hv => exact absurd ((congrArg Pace.newer s.avsFaulted_pace).symm.trans hv) (by simp [hn])
  next => rfl

theorem State.avsFail_of_second_waiting {v : Nat} (hn : s.pace.newer = some v) :
    s.avsFail status = s.avsFaulted.avsStart v := by
  rw [State.avsFail, if_neg (by simp [hb]), if_neg (by simp [hr])]
  extract_lets
  split
  next w hw =>
    obtain rfl : v = w := by simpa [hn] using (congrArg Pace.newer s.avsFaulted_pace).symm.trans hw
    rfl
  next hw => exact absurd ((congrArg Pace.newer s.avsFaulted_pace).symm.trans hw) (by simp [hn])

end SecondFailure

/-- Settles O9, by the fate of the frame. That a newer value goes out at the poll which answers the request in progress is the
model's log entry 29. -/
theorem voltageFramesSettleRequest : Obligations.VoltageFramesSettleRequest := by
  unfold Obligations.VoltageFramesSettleRequest
  intro s hb
  refine ⟨fun mv hn => ⟨congrArg _ (State.avsPoll_of_running hb hn _), congrArg _ (State.avsPoll_of_done hb hn _)⟩,
    fun vdone mv v hn => congrArg _ (State.avsPoll_of_waiting hb hn vdone _), fun status => ⟨fun hr => ?_, fun hr => ?_⟩⟩
  · exact congrArg _ (State.avsFail_of_first hb hr status)
  · have hbusy : s.avsFaulted.pace.busy = true := by rw [s.avsFaulted_pace, hb]
    exact ⟨s.avsFaulted, rfl, s.avsFaulted_pace,
      fun hn => congrArg _ (State.avsFail_of_second_alone hb hr status hn),
      fun v hn => congrArg _ ((State.avsFail_of_second_waiting hb hr status hn).trans (State.avsStart_of_busy hbusy v))⟩

/-! ### Pace windows (R52, R76) -/

/-- What PACE_HEARTHn reports at the end of a window that counted `c`. -/
def State.reported (s : State) (h : Nat) (c : BitVec 16) : PaceHearth :=
  { valid := (s.paceHearth h).valid || !(s.paceHearth h).partialWindow, pace := c, windowEnd := s.tb.elapsed
    partialWindow := false }

/-- `t` is `s` but for the reports of the Hearths. -/
def SameButReports (s t : State) : Prop := t = { s with pace := { s.pace with hearth := t.pace.hearth } }

theorem SameButReports.rfl' {s : State} : SameButReports s s := rfl

theorem SameButReports.trans {s t u : State} (h : SameButReports s t) (k : SameButReports t u) : SameButReports s u := by
  refine Eq.trans k ?_
  rw [h]

theorem SameButReports.parked {s t : State} (h : SameButReports s t) : t.pace.parked = s.pace.parked := by rw [h]

theorem SameButReports.elapsed {s t : State} (h : SameButReports s t) : t.tb.elapsed = s.tb.elapsed := by rw [h]

section Window
variable {s : State} {h : Nat}

theorem State.windowEnd_of_parked (hp : hbit s.pace.parked h = true) (c : BitVec 16) : s.windowEnd h c = s := by
  rw [State.windowEnd, if_pos hp]

theorem State.windowEnd_of_unparked (hp : hbit s.pace.parked h = false) (c : BitVec 16) :
    s.windowEnd h c = s.setPaceHearth h (s.reported h c) := by
  rw [State.windowEnd, if_neg (by simp [hp])]
  rfl

theorem State.windowEnd_sameButReports (c : BitVec 16) : SameButReports s (s.windowEnd h c) := by
  cases hp : hbit s.pace.parked h with
  | true => rw [State.windowEnd_of_parked hp]; rfl
  | false => rw [State.windowEnd_of_unparked hp]; rfl

theorem State.windowEnd_mwf (hw : mwf {} s.pace.hearth = true) (c : BitVec 16) :
    mwf {} (s.windowEnd h c).pace.hearth = true := by
  cases hp : hbit s.pace.parked h with
  | true => rw [State.windowEnd_of_parked hp, hw]
  | false => rw [State.windowEnd_of_unparked hp]; exact mwf_mset _ _ _ _ hw

theorem State.windowEnd_paceHearth (hw : mwf {} s.pace.hearth = true) (hp : hbit s.pace.parked h = false) (c : BitVec 16) :
    (s.windowEnd h c).paceHearth h = s.reported h c := by
  rw [State.windowEnd_of_unparked hp]
  exact mget_mset_same _ _ _ _ hw

theorem State.windowEnd_paceHearth_ne {j : Nat} (hj : j ≠ h) (c : BitVec 16) :
    (s.windowEnd h c).paceHearth j = s.paceHearth j := by
  cases hp : hbit s.pace.parked h with
  | true => rw [State.windowEnd_of_parked hp]
  | false => rw [State.windowEnd_of_unparked hp]; exact mget_mset_ne _ _ _ _ _ hj

end Window

/-- The window ends for the Hearths from `n` on, with one count each. -/
def State.windowEndFrom (s : State) (n : Nat) (counts : List (BitVec 16)) : State :=
  (counts.zipIdx n).foldl (fun t c => t.windowEnd c.2 c.1) s

theorem State.windowEndFrom_cons (s : State) (n : Nat) (c : BitVec 16) (cs : List (BitVec 16)) :
    s.windowEndFrom n (c :: cs) = (s.windowEnd n c).windowEndFrom (n + 1) cs := rfl

theorem State.windowEndFrom_sameButReports (counts : List (BitVec 16)) (n : Nat) (s : State) :
    SameButReports s (s.windowEndFrom n counts) := by
  induction counts generalizing n s with
  | nil => exact .rfl'
  | cons c cs ih => exact (s.windowEnd_sameButReports c).trans (ih _ _)

/-- A Hearth without a count, or parked, takes no sample. -/
theorem State.windowEndFrom_paceHearth_same (counts : List (BitVec 16)) (n : Nat) (s : State) (h : Nat)
    (hh : h < n ∨ n + counts.length ≤ h ∨ hbit s.pace.parked h = true) :
    (s.windowEndFrom n counts).paceHearth h = s.paceHearth h := by
  induction counts generalizing n s with
  | nil => rfl
  | cons c cs ih =>
    have hpark := (s.windowEnd_sameButReports (h := n) c).parked
    rw [List.length_cons] at hh
    rw [s.windowEndFrom_cons, ih (n + 1) (s.windowEnd n c) (hpark ▸ hh.imp Nat.lt_succ_of_lt (Or.imp_left (by omega)))]
    by_cases hn : h = n
    · subst hn
      rw [State.windowEnd_of_parked (by simpa using hh)]
    · exact State.windowEnd_paceHearth_ne hn c

theorem State.windowEndFrom_paceHearth (counts : List (BitVec 16)) (n : Nat) (s : State) (hw : mwf {} s.pace.hearth = true)
    (i : Nat) (c : BitVec 16) (hc : counts[i]? = some c) (hp : hbit s.pace.parked (n + i) = false) :
    (s.windowEndFrom n counts).paceHearth (n + i) = s.reported (n + i) c := by
  induction counts generalizing n s i with
  | nil => simp at hc
  | cons d ds ih =>
    rw [s.windowEndFrom_cons]
    cases i with
    | zero =>
      obtain rfl : d = c := by simpa using hc
      rw [State.windowEndFrom_paceHearth_same _ _ _ _ (.inl (by omega))]
      exact State.windowEnd_paceHearth hw hp d
    | succ i =>
      have hsame := s.windowEnd_sameButReports (h := n) d
      have hne : n + (i + 1) ≠ n := by omega
      have hi : n + (i + 1) = n + 1 + i := by omega
      rw [hi] at hp hne ⊢
      rw [ih (n + 1) (s.windowEnd n d) (State.windowEnd_mwf hw d) i (by simpa using hc) (by rw [hsame.parked, hp]),
        State.reported, State.windowEnd_paceHearth_ne hne, hsame.elapsed]
      rfl

/-! ### Parking (R70, R71, R74) -/

theorem Hearth.busyStokers_eq_zero {x : Hearth} (h : ∀ k, k < 16 → (x.stoker k).st = .free) : x.busyStokers = 0 := by
  simp only [Hearth.busyStokers, List.length_eq_zero_iff, List.filter_eq_nil_iff, List.mem_range]
  intro k hk
  simp [h k hk]

theorem Hearth.idle_of {x : Hearth} (hfree : ∀ k, k < 16 → (x.stoker k).st = .free)
    (hclosed : ∀ e ∈ x.stokers, e.2.handles = []) (hcalls : x.calls = []) (hqueue : x.stove.queue = [])
    (hcur : x.stove.cur = none) : x.idle = true := by
  have hshut : (x.stokers.all fun y => y.2.handles.isEmpty) = true :=
    List.all_eq_true.2 fun e he => by rw [hclosed e he]; rfl
  simp [Hearth.idle, Hearth.busyStokers_eq_zero hfree, hshut, hcalls, hqueue, hcur]

theorem exec_pacePark {s : State} (hs : Serving s) (p : Port) (m : W64) :
    exec (.pacePark p m) s = .next (s.pacePark p (m.setWidth 48)) :=
  congrArg _ (State.whenReady_of_serving hs _)

theorem State.hearthPark_of_idle {s : State} {h : Nat} (hpark : hbit s.pace.park h = true)
    (hparked : hbit s.pace.parked h = false) (hidle : (s.hearth h).idle = true) :
    s.hearthPark h = { s with pace := { s.pace with
      parked := setHbit s.pace.parked h true, hearth := mset {} s.pace.hearth h { s.paceHearth h with valid := false } } } := by
  rw [State.hearthPark, if_pos (by simp [hpark, hparked, hidle])]
  rfl

theorem State.hearthWake_of_waking {s : State} {h : Nat} (hwaking : hbit s.pace.waking h = true) :
    s.hearthWake h = { s with pace := { s.pace with
      parked := setHbit s.pace.parked h false, waking := setHbit s.pace.waking h false
      hearth := mset {} s.pace.hearth h { s.paceHearth h with valid := false, partialWindow := true } } } := by
  rw [State.hearthWake, if_pos hwaking]
  rfl

/-- Settles O10: the windows by induction on the counts, parking and waking by their guards. -/
theorem paceWindowsAndParking : Obligations.PaceWindowsAndParking := by
  unfold Obligations.PaceWindowsAndParking
  refine ⟨fun counts s hw => ⟨s.windowEndFrom 0 counts, rfl, s.windowEndFrom_sameButReports counts 0, ?reported, ?same⟩,
    fun s => ⟨fun p m hs hown => ?owner, fun p m hs hno => ?notOwner, ?park,
      fun h hwaking => congrArg _ (State.hearthWake_of_waking hwaking)⟩⟩
  case reported =>
    intro h c hc hp
    rw [← Nat.zero_add h] at hp ⊢
    exact State.windowEndFrom_paceHearth counts 0 s hw h c hc hp
  case same =>
    intro h hh
    exact State.windowEndFrom_paceHearth_same counts 0 s h (.inr (by rwa [Nat.zero_add]))
  case park =>
    intro h hpark hparked hfree hclosed hcalls hqueue hcur
    exact congrArg _ (State.hearthPark_of_idle hpark hparked (Hearth.idle_of hfree hclosed hcalls hqueue hcur))
  case owner => rw [exec_pacePark hs, State.pacePark, if_pos hown]
  case notOwner => rw [exec_pacePark hs, State.pacePark, if_neg (by simp [hno])]

/-! ### The thermal guard (R65, R67, R783) -/

/-- The Pace registers once a value is accepted: sent at once, or the newest that waits (R59, R60). -/
def Pace.requested (x : Pace) (v : Nat) : Pace :=
  { x with
    mv := v, busy := true, sending := if x.busy then x.sending else v
    repeated := x.busy && x.repeated, newer := if x.busy then some v else none }

@[simp] theorem Pace.requested_mv (x : Pace) (v : Nat) : (x.requested v).mv = v := rfl
@[simp] theorem Pace.requested_tjMax (x : Pace) (v : Nat) : (x.requested v).tjMax = x.tjMax := rfl
@[simp] theorem Pace.requested_hottest (x : Pace) (v : Nat) : (x.requested v).hottest = x.hottest := rfl
@[simp] theorem Pace.requested_guardOn (x : Pace) (v : Nat) : (x.requested v).guardOn = x.guardOn := rfl
@[simp] theorem Pace.requested_tripped (x : Pace) (v : Nat) : (x.requested v).tripped = x.tripped := rfl
@[simp] theorem Pace.requested_tripOut (x : Pace) (v : Nat) : (x.requested v).tripOut = x.tripOut := rfl

@[simp] theorem State.avsRequest_pace (s : State) (v : Nat) : (s.avsRequest v).pace = s.pace.requested v := by
  cases hb : s.pace.busy
  · simp [State.avsRequest_of_idle hb, Pace.requested, hb]
  · simp [State.avsRequest_of_busy hb, Pace.requested, hb]

/-- A reading above 105 °C asks for 10 mV less, while PACE_VREQ.MV lies above 550 mV. -/
theorem State.guardSample_pace (s : State) (hot : Bool) :
    (s.guardSample hot).pace =
      if hot = true ∧ 550 < s.pace.mv then Pace.requested { s.pace with guardOn := hot } (max 550 (s.pace.mv - 10))
      else { s.pace with guardOn := hot } := by
  unfold State.guardSample
  extract_lets was _ u w
  have hw : w.pace = { s.pace with guardOn := hot } := by simp +zetaDelta [apply_ite State.pace]
  rw [apply_ite State.pace, State.avsRequest_pace, hw]

theorem State.guardSample_of_cool {s : State} (h : s.pace.guardOn = false) : s.guardSample false = s := by
  have hsame : { s with pace := { s.pace with guardOn := false } } = s := by rw [← h]
  simp [State.guardSample, h, hsame]

@[simp] theorem State.thermalTrip_pace (s : State) (i : Nat) (r : BitVec 16) :
    (s.thermalTrip i r).pace = Pace.requested { s.pace with tripped := true, tripOut := true } 550 := by
  simp [State.thermalTrip]

/-- The device after a sample whose hottest sensor is `i`, short of a trip. -/
def State.sampled (s : State) (top : BitVec 16) (i : Nat) : State :=
  State.guardSample { s with pace := { s.pace with tjMax := top, hottest := BitVec.ofNat 6 (sensorCode i) } }
    (decide (guardAt < top.toInt))

theorem State.thermalSample_eq {s : State} {r : BitVec 16} {rs : List (BitVec 16)} {top : BitVec 16} {i : Nat}
    (hlen : rs.length = 48) (htop : hottestOf ((r :: rs).zipIdx) = (top, i)) (ht : s.pace.tripped = false) :
    s.thermalSample (r :: rs) =
      if tripAt ≤ top.toInt then (s.sampled top i).thermalTrip (sensorCode i) top else s.sampled top i := by
  have htake : (r :: rs).take 49 = r :: rs := List.take_of_length_le (by simp [hlen])
  rw [State.thermalSample, htake]
  refine (if_neg (by simp [ht])).trans ?_
  rw [htop]
  rfl

section Sampled
variable (s : State) (top : BitVec 16) (i : Nat)

theorem State.sampled_registers :
    (s.sampled top i).pace.tjMax = top ∧ (s.sampled top i).pace.hottest = BitVec.ofNat 6 (sensorCode i) ∧
      ((s.sampled top i).pace.guardOn = true ↔ guardAt < top.toInt) ∧ (s.sampled top i).pace.tripped = s.pace.tripped := by
  rw [State.sampled, State.guardSample_pace]
  split <;> simp

theorem State.sampled_mv_of_hot {s : State} (hmv : 550 ≤ s.pace.mv) (hhot : guardAt < top.toInt) :
    (s.sampled top i).pace.mv = max 550 (s.pace.mv - 10) := by
  rw [State.sampled, State.guardSample_pace]
  split
  next => simp
  next hlow =>
    have : s.pace.mv = 550 := by
      simp only [hhot, decide_true, true_and] at hlow
      omega
    simp [this]

theorem State.sampled_of_cool {s : State} (hcool : ¬ guardAt < top.toInt) (hg : s.pace.guardOn = false) :
    s.sampled top i = { s with pace := { s.pace with tjMax := top, hottest := BitVec.ofNat 6 (sensorCode i) } } := by
  rw [State.sampled, decide_eq_false hcool]
  exact State.guardSample_of_cool hg

end Sampled

/-- Settles O11: a sample sets the registers that `State.sampled` gives, and trips the device from 115 °C on. That a trip is
complete at the sample that finds it is the model's log entry 34. -/
theorem thermalSampleRules : Obligations.ThermalSampleRules := by
  unfold Obligations.ThermalSampleRules
  intro r rs s top i hlen htop ht hinv
  obtain ⟨htj, hhottest, hguard, htripped⟩ := s.sampled_registers top i
  have hmv : 550 ≤ s.pace.mv := hinv.voltage.1
  have hx : exec (.thermalSample (r :: rs)) s = .next (s.thermalSample (r :: rs)) := rfl
  rw [hx, State.thermalSample_eq hlen htop ht]
  refine ⟨_, rfl, ?_⟩
  have hcool : top.toInt ≤ 105 * 16 → ¬ guardAt < top.toInt := Int.not_lt.2
  by_cases htrip : tripAt ≤ top.toInt
  · have htrip' : 115 * 16 ≤ top.toInt := htrip
    rw [if_pos htrip]
    exact ⟨by simp [htj], by simp [hhottest, sensorCode], by rw [State.thermalTrip_pace]; exact hguard,
      iff_of_true (by simp) htrip', by omega, by omega, by simp⟩
  · have htrip' : ¬ 115 * 16 ≤ top.toInt := htrip
    rw [if_neg htrip]
    exact ⟨htj, hhottest, hguard, iff_of_false (by simp [htripped, ht]) htrip',
      fun h hoff => State.sampled_of_cool top i (hcool h) hoff, fun hhot _ => State.sampled_mv_of_hot top i hmv hhot,
      fun h => absurd h htrip'⟩

end Sys2Proof.Machine

namespace Sys2Proof.Machine

open Sys2Proof.Safety

/-! # Reset (O3, O54) -/

/-- Settles O3: the reset state holds the default of every field. That it is a part which has never run, at the instant after a
cold reset by power-on, is the model's log entries 11 and 12. -/
theorem resetState : Obligations.ResetState := by
  unfold Obligations.ResetState
  have hinv : Inv State.reset :=
    ⟨epochAtReset_ne 0, fun _ _ _ => rfl, rfl, by unfold VoltageOk; decide, by unfold LedgerOk; decide,
      fun m hm => by cases hm⟩
  refine ⟨hinv, Laws.canon_of _ (by decide), rfl, rfl, epochAtReset_ne 0, rfl, rfl, fun _ => rfl, fun _ => rfl, fun _ _ => rfl,
    fun _ _ => rfl, rfl, rfl, rfl⟩

/-! ### A boot-control update that a cold reset meets (R790, R819) -/

/-- What no boot-control update reaches of the Curator's state. -/
def AccState.besideControl (x : AccState) : Bool × Sparse (Option (BitVec 512)) × List Nat := (x.pwrWarn, x.vault, x.rekeyed)

theorem AccState.setSlot_besideControl (x : AccState) (i : SlotId) (v : Slot3) :
    (x.setSlot i v).besideControl = x.besideControl := by
  cases i <;> rfl

theorem AccState.floorSlot_besideControl (x : AccState) (i : SlotId) : (x.floorSlot i).besideControl = x.besideControl := by
  unfold AccState.floorSlot
  dsimp only
  split
  · split
    · exact x.setSlot_besideControl i _
    · rfl
  · rfl

theorem AccState.floorAll_besideControl (x : AccState) : x.floorAll.besideControl = x.besideControl := by
  simp [AccState.floorAll, AccState.floorSlot_besideControl]

theorem State.bootControlEnd_acc (s : State) :
    ∃ x, s.bootControlEnd = { s with acc := x } ∧ x.besideControl = s.acc.besideControl := by
  unfold State.bootControlEnd
  split
  · exact ⟨_, rfl, s.acc.setSlot_besideControl _ _⟩
  · split
    · exact ⟨_, rfl, (AccState.floorAll_besideControl _).trans (s.acc.setSlot_besideControl _ _)⟩
    · exact ⟨_, rfl, rfl⟩
  · exact ⟨_, rfl, rfl⟩

theorem State.settleBootControl_acc (s : State) :
    ∃ x n, s.settleBootControl = { s with acc := x, free := n } ∧ x.besideControl = s.acc.besideControl := by
  obtain ⟨y, hend, hy⟩ := State.bootControlEnd_acc { s with free := s.free + 1 }
  unfold State.settleBootControl
  split
  case h_1 | h_2 =>
    dsimp only [State.takeFree]
    rw [hend]
    split
    · split
      · exact ⟨_, _, rfl, hy⟩
      · exact ⟨_, _, rfl, hy⟩
    · exact ⟨_, _, rfl, rfl⟩
  case h_3 => exact ⟨_, _, rfl, rfl⟩

/-- No boot-control update is in progress. -/
def AccState.noControl (x : AccState) : Prop := x.cmd = none ∨ ∃ i st h m q, x.cmd = some (.install i st h m q)

theorem State.settleBootControl_of_noControl {s : State} (h : s.acc.noControl) : s.settleBootControl = s := by
  unfold State.settleBootControl
  obtain h | ⟨i, st, hash, m, q, h⟩ := h <;> rw [h]

theorem State.baysOff_out (s : State) : ∃ o, s.baysOff = { s with out := o } := by
  unfold State.baysOff
  refine List.foldlRecOn (motive := fun (t : State) => ∃ o, t = { s with out := o }) _ _ ⟨s.out, rfl⟩ ?_
  rintro _ ⟨o, rfl⟩ e _
  exact ⟨_, rfl⟩

/-- What a cold reset clears is the device but for its boot control, the free values taken and what it has sent. -/
theorem State.coldReset_eq (s : State) (cause : ResetCause) (low : Bool) :
    ∃ x n o, s.coldReset cause low = State.cleared { s with acc := x, free := n, out := o } cause low ∧
      x.besideControl = s.acc.besideControl ∧ (s.acc.noControl → x = s.acc ∧ n = s.free) := by
  obtain ⟨x, n, hsettle, hx⟩ := s.settleBootControl_acc
  obtain ⟨o, ho⟩ := State.baysOff_out { s with acc := x, free := n }
  refine ⟨x, n, o, ?_, hx, fun h => ?_⟩
  · rw [State.coldReset, hsettle, ho]
  · have hs := hsettle.symm.trans (State.settleBootControl_of_noControl h)
    exact ⟨congrArg State.acc hs, congrArg State.free hs⟩

theorem AccState.afterReset_vault {x : AccState} (h : x.rekeyed = []) : x.afterReset.vault = x.vault := by
  simp [AccState.afterReset, h]

theorem AccState.afterReset_slot (x : AccState) {i : SlotId} (hi : i ≠ .golden) :
    x.afterReset.slot i = if (x.slot i).st = .writing then { st := .invalid } else x.slot i := by
  cases i with
  | golden => exact absurd rfl hi
  | _ => rfl

/-! ### What starts a cold reset -/

/-- The command starts a device cold reset of this cause, which leaves RESET_N at this level (R763, R766, R801, R820). -/
def StartsColdReset (p : Port) (s : State) (c : Instr) (cause : ResetCause) (low : Bool) : Prop :=
  (c = .resetNLow ∧ cause = .resetN ∧ low = true ∧ s.dev.resetLow = false) ∨
  (c = .powerLoss ∧ cause = .powerOn ∧ low = true) ∨
  (c = .reboot p ∧ cause = .reboot ∧ low = false ∧ s.pace.tripped = false ∧ (s.dev.ready = true ∨ s.dev.recovery = true) ∧
    s.holds p 1 = true ∧ s.acc.busy = false) ∨
  (c = .watchdogExpiry ∧ cause = .watchdog ∧ low = false ∧ s.dev.ready = false ∧ s.dev.recovery = false ∧
    s.dev.resetLow = false ∧ s.dev.bootStart + sec 2 ≤ s.tb.elapsed)

theorem exec_reboot {s : State} (ht : s.pace.tripped = false) (hup : s.dev.ready = true ∨ s.dev.recovery = true) (p : Port) :
    exec (.reboot p) s = .next (s.reboot p) := by
  refine congrArg Host.Outcome.next ((State.reached_of_running ht _).trans (if_pos ?_))
  simpa using hup

theorem exec_watchdogExpiry_of_up {s : State}
    (h : s.dev.ready = true ∨ s.dev.recovery = true ∨ s.tb.elapsed < s.dev.bootStart + sec 2) :
    exec .watchdogExpiry s = .next s :=
  congrArg Host.Outcome.next (if_pos (by tauto))

/-- Power loss clears the test port and the thermal trip too; no other trigger does. -/
theorem exec_of_startsColdReset {p : Port} {s : State} {c : Instr} {cause : ResetCause} {low : Bool}
    (h : StartsColdReset p s c cause low) :
    ∃ (tap : TapState) (trip out : Bool),
      exec c s = .next { s.coldReset cause low with tap := tap, pace := { tripped := trip, tripOut := out } } := by
  obtain ⟨rfl, rfl, rfl, hhigh⟩ | ⟨rfl, rfl, rfl⟩ | ⟨rfl, rfl, rfl, ht, hup, hown, hidle⟩ |
    ⟨rfl, rfl, rfl, hready, hrec, hhigh, hlate⟩ := h
  · exact ⟨_, _, _, congrArg Host.Outcome.next (if_neg (by simp [hhigh]))⟩
  · exact ⟨_, _, _, rfl⟩
  · rw [exec_reboot ht hup, State.reboot, if_neg (by simp [hown]), if_neg (by simp [hidle])]
    exact ⟨_, _, _, rfl⟩
  · have hdue : ¬ (s.dev.ready = true ∨ s.dev.recovery = true ∨ s.dev.resetLow = true ∨
        s.tb.elapsed < s.dev.bootStart + sec 2) := by
      simp only [hready, hrec, hhigh, Bool.false_eq_true, false_or, Nat.not_lt]
      exact hlate
    exact ⟨_, _, _, congrArg Host.Outcome.next (if_neg hdue)⟩

/-- Settles O54: each trigger runs `State.coldReset`, and what that clears and keeps is read off `State.cleared`. That a loss of
power is a cold reset held low whose CAUSE is POWER_ON is the model's log entry 107. -/
theorem deviceColdReset : Obligations.DeviceColdReset := by
  unfold Obligations.DeviceColdReset
  intro p s c cause low hcanon hstart
  refine ⟨?cold, fun ht hup hno => ?notOwner, fun ht hup hown hbusy => ?busy, exec_watchdogExpiry_of_up, fun hlow => ?low⟩
  case cold =>
    obtain ⟨tap, trip, out, hx⟩ := exec_of_startsColdReset hstart
    obtain ⟨x, n, o, hcold, hbeside, hsame⟩ := s.coldReset_eq cause low
    have hpwr : x.pwrWarn = s.acc.pwrWarn := congrArg (·.1) hbeside
    have hvault : x.vault = s.acc.vault := congrArg (·.2.1) hbeside
    have hrekeyed : x.rekeyed = s.acc.rekeyed := congrArg (·.2.2) hbeside
    rw [hcold] at hx
    refine ⟨_, hx, rfl, rfl, epochAtReset_ne _, rfl, rfl, rfl, rfl, rfl, rfl, rfl, rfl, rfl, rfl, rfl, rfl, rfl, rfl, rfl, rfl,
      fun b => mget_mmap _ _ _ _ hcanon.bays rfl, rfl, rfl, rfl, rfl, rfl, rfl, hpwr,
      fun hnone => (AccState.afterReset_vault (hrekeyed.trans hnone)).trans hvault, rfl, rfl,
      fun q => by cases q <;> rfl, fun hquiet => ?_⟩
    obtain ⟨rfl, rfl⟩ := hsame hquiet
    exact ⟨rfl, rfl, rfl, rfl, rfl, rfl, fun i hi => AccState.afterReset_slot _ hi⟩
  case notOwner =>
    rw [exec_reboot ht hup, State.reboot, if_pos (by simp [hno])]
    rfl
  case busy =>
    rw [exec_reboot ht hup, State.reboot, if_neg (by simp [hown]), if_pos hbusy]
    rfl
  case low => exact ⟨congrArg Host.Outcome.next (if_pos hlow), congrArg Host.Outcome.next (if_pos hlow)⟩

end Sys2Proof.Machine

namespace Sys2Proof.Machine

open Sys2Proof.Safety

/-! # Gallery commands and configuration writes (O12, O13) -/

/-! ### The judgement of a GAL_COMMAND write (R93 to R95, R837) -/

section Judgement
variable {s : State} {g : Nat} {portOk stateOk : Bool} {f : State → State}

theorem State.judgeGal_of_wrongPort (hp : portOk = false) : s.judgeGal g portOk stateOk f = s.galResult g .wrongPort := by
  simp [State.judgeGal, hp]

theorem State.judgeGal_of_busy (hp : portOk = true) (hb : (s.gal g).busy = true) :
    s.judgeGal g portOk stateOk f = s.galResult g .busy := by
  simp [State.judgeGal, hp, hb]

theorem State.judgeGal_of_badState (hp : portOk = true) (hb : (s.gal g).busy = false) (hst : stateOk = false) :
    s.judgeGal g portOk stateOk f = s.galResult g .badState := by
  simp [State.judgeGal, hp, hb, hst]

theorem State.judgeGal_of_accepted (hp : portOk = true) (hb : (s.gal g).busy = false) (hst : stateOk = true) :
    s.judgeGal g portOk stateOk f = f s := by
  simp [State.judgeGal, hp, hb, hst]

end Judgement

section Commands
variable {s : State} (hs : Serving s) (p : Port) (g : GalleryId)
include hs

theorem exec_galCreate : exec (.galCreate p g) s = .next (s.create p g) :=
  congrArg _ (State.whenReady_of_serving hs _)

theorem exec_galOpen : exec (.galOpen p g) s = .next (s.openGal p g) :=
  congrArg _ (State.whenReady_of_serving hs _)

theorem exec_quiesce : exec (.quiesce p g) s = .next (s.quiesce p g) :=
  congrArg _ (State.whenReady_of_serving hs _)

theorem exec_galReset (scrub scrubKey : Bool) : exec (.galReset p g scrub scrubKey) s = .next (s.galReset p g scrub scrubKey) :=
  congrArg _ (State.whenReady_of_serving hs _)

theorem exec_release (scrub scrubKey : Bool) : exec (.release p g scrub scrubKey) s = .next (s.release p g scrub scrubKey) :=
  congrArg _ (State.whenReady_of_serving hs _)

theorem exec_galConfigWrite (r : GalReg) (v : W64) :
    exec (.galConfigWrite p g r v) s = .next (s.galConfig p g r v.toNat) :=
  congrArg _ (State.whenReady_of_serving hs _)

theorem exec_galKindleDeadline (v : W32) : exec (.galKindleDeadline p g v) s = .next (s.kindleDeadline p g v.toNat) :=
  congrArg _ (State.whenReady_of_serving hs _)

end Commands

/-! ### RESET and RELEASE (R139, R141) -/

theorem State.galReset_eq (s : State) (p : Port) (g : Nat) (scrub scrubKey : Bool) :
    s.galReset p g scrub scrubKey = s.judgeGal g (decide ((s.gal g).home = p))
      (decide ((s.gal g).st = .dormant ∨ (s.gal g).st = .opened ∨ (s.gal g).st = .quiescing ∨ (s.gal g).st = .faulted)
        && !s.faults.sealed)
      fun t => t.startReset g 0x02 { release := false, scrub := scrub, scrubKey := scrubKey } := by
  simp only [State.galReset, Bool.decide_or, Bool.or_assoc]

theorem State.release_eq (s : State) (p : Port) (g : Nat) (scrub scrubKey : Bool) :
    s.release p g scrub scrubKey = s.judgeGal g (s.holds p 0)
      (decide ((s.gal g).st = .dormant ∨ (s.gal g).st = .faulted))
      fun t => t.startReset g 0x02 { release := true, scrub := scrub, scrubKey := scrubKey } := by
  simp only [State.release, Bool.decide_or]

/-! ### What an accepted command does -/

section Accepted
variable {s : State} {p : Port} {g : Nat} (hidle : (s.gal g).busy = false) (hseal : s.faults.sealed = false)
include hidle hseal

theorem State.create_of_accepted (hown : s.holds p 0 = true) (hst : (s.gal g).st = .vacant) :
    s.create p g = s.setGal g { s.gal g with st := .dormant, result := .ok, fqWritten := 0, fqHead := 0, fqSeq := 0 } :=
  State.judgeGal_of_accepted hown hidle (by simp [hst, hseal])

theorem State.quiesce_of_accepted (hhome : (s.gal g).home = p) (hst : (s.gal g).st = .opened) :
    s.quiesce p g = s.setGal g { s.gal g with st := .quiescing, result := .ok } :=
  State.judgeGal_of_accepted (decide_eq_true hhome) hidle (by simp [hst, hseal])

/-- OPEN answers the first check of Table 3-3 that fails, or opens the gallery (R98). -/
theorem State.openGal_of_accepted (hhome : (s.gal g).home = p) (hst : (s.gal g).st = .dormant) :
    s.openGal p g = match s.openCheck g with
      | some r => s.galResult g r
      | none => s.setGal g { s.gal g with st := .opened, result := .ok } :=
  State.judgeGal_of_accepted (decide_eq_true hhome) hidle (by simp [hst, hseal])

end Accepted

/-! ### Configuration and deadline writes -/

section Writes
variable {s : State} {p : Port} {g : Nat}

theorem State.galConfig_of_accepted (hst : (s.gal g).st = .vacant ∨ (s.gal g).st = .dormant) (hown : s.holds p 0 = true)
    (r : GalReg) (v : Nat) : s.galConfig p g r v = s.setGal g { (s.gal g).writeReg r v with result := .ok } := by
  rw [State.galConfig, if_pos ⟨hst, hown⟩]

theorem State.galConfig_of_locked
    (h : ((s.gal g).st ≠ .vacant ∧ (s.gal g).st ≠ .dormant) ∨ s.holds p 0 = false) (r : GalReg) (v : Nat) :
    s.galConfig p g r v = s.galResult g .locked := by
  rw [State.galConfig, if_neg]
  rintro ⟨hst, hown⟩
  obtain ⟨hvacant, hdormant⟩ | hno := h
  · exact hst.elim hvacant hdormant
  · exact absurd (hno.symm.trans hown) (by decide)

theorem State.kindleDeadline_of_accepted {v : Nat} (hhome : (s.gal g).home = p) (hvacant : (s.gal g).st ≠ .vacant)
    (hresetting : (s.gal g).st ≠ .resetting) (hlo : 1000 ≤ v) (hhi : v ≤ 10000000) :
    s.kindleDeadline p g v = s.setGal g { s.gal g with kindleNs := v, result := .ok } := by
  rw [State.kindleDeadline, if_neg (not_not.2 hhome), if_neg (not_or.2 ⟨hvacant, hresetting⟩), if_neg (by omega)]

end Writes

/-- Settles O12: by the judgement of each command, and the guard of each register. -/
theorem galleryCommandsAccepted : Obligations.GalleryCommandsAccepted := by
  unfold Obligations.GalleryCommandsAccepted
  intro p g s hs
  refine ⟨?create, ?openGal, ?quiesce, ?config, ?locked, ?deadline⟩
  case create =>
    intro hown hidle hst hseal
    exact (exec_galCreate hs p g).trans (congrArg _ (State.create_of_accepted hidle hseal hown hst))
  case openGal =>
    intro hhome hidle hst hseal
    rw [exec_galOpen hs, State.openGal_of_accepted hidle hseal hhome hst]
    exact ⟨fun hpass => by rw [hpass]; rfl, fun r hfail => by rw [hfail]; rfl⟩
  case quiesce =>
    intro hhome hidle hst hseal
    exact (exec_quiesce hs p g).trans (congrArg _ (State.quiesce_of_accepted hidle hseal hhome hst))
  case config =>
    intro r v hst hown
    exact (exec_galConfigWrite hs p g r v).trans (congrArg _ (State.galConfig_of_accepted hst hown r v.toNat))
  case locked =>
    intro r v h
    exact (exec_galConfigWrite hs p g r v).trans (congrArg _ (State.galConfig_of_locked h r v.toNat))
  case deadline =>
    intro v hhome hvacant hresetting hlo hhi
    exact (exec_galKindleDeadline hs p g v).trans
      (congrArg _ (State.kindleDeadline_of_accepted hhome hvacant hresetting hlo hhi))

/-- Settles O13: the five commands share one judgement. That a sealed part's BAD_STATE comes after WRONG_PORT and BUSY is the
model's log entry 35. -/
theorem galleryCommandsJudged : Obligations.GalleryCommandsJudged := by
  unfold Obligations.GalleryCommandsJudged
  intro p g a b s c portOk stateOk hs hc
  have hjudged : ∃ f, exec c s = .next (s.judgeGal g portOk stateOk f) := by
    obtain ⟨rfl, rfl, rfl⟩ | ⟨rfl, rfl, rfl⟩ | ⟨rfl, rfl, rfl⟩ | ⟨rfl, rfl, rfl⟩ | ⟨rfl, rfl, rfl⟩ := hc
    · exact ⟨_, exec_galCreate hs p g⟩
    · exact ⟨_, exec_galOpen hs p g⟩
    · exact ⟨_, exec_quiesce hs p g⟩
    · rw [exec_galReset hs, State.galReset_eq]
      exact ⟨_, rfl⟩
    · rw [exec_release hs, State.release_eq]
      exact ⟨_, rfl⟩
  obtain ⟨f, hx⟩ := hjudged
  rw [hx]
  exact ⟨fun hp => congrArg _ (State.judgeGal_of_wrongPort hp), fun hp hb => congrArg _ (State.judgeGal_of_busy hp hb),
    fun hp hb hst => congrArg _ (State.judgeGal_of_badState hp hb hst)⟩

end Sys2Proof.Machine

namespace Sys2Proof.Machine

open Sys2Proof.Safety

/-! # What leaves the galleries and the work orders alone

The Fault log, the Ledger's lines and the messages of a port do. -/

/-- The galleries, and the work orders in flight. -/
def State.work (s : State) : Sparse Gallery × List WorkOrder := (s.gals, s.wos)

theorem State.gals_of_work {s t : State} (h : t.work = s.work) : t.gals = s.gals := congrArg Prod.fst h
theorem State.wos_of_work {s t : State} (h : t.work = s.work) : t.wos = s.wos := congrArg Prod.snd h
theorem State.gal_of_work {s t : State} (h : t.work = s.work) (g : Nat) : t.gal g = s.gal g :=
  congrArg (fun m => mget ({} : Gallery) m g) (State.gals_of_work h)

theorem work_foldl {β : Type} {f : State → β → State} (h : ∀ t x, (f t x).work = t.work) (l : List β) (s : State) :
    (l.foldl f s).work = s.work :=
  List.foldlRecOn (motive := fun (t : State) => t.work = s.work) l f rfl fun t ht x _ => (h t x).trans ht

theorem work_ite {c : Prop} [Decidable c] {s t u : State} (ht : c → t.work = s.work) (hu : ¬ c → u.work = s.work) :
    (if c then t else u).work = s.work := by
  split
  · exact ht ‹_›
  · exact hu ‹_›

/-! ### Messages and the Fault log -/

@[simp] theorem State.setPort_work (s : State) (p : Port) (x : PortState) : (s.setPort p x).work = s.work := by
  cases p <;> rfl
@[simp] theorem State.send_work (s : State) (o : Out) : (s.send o).work = s.work := rfl
@[simp] theorem State.raise_work (s : State) (p : Port) (v : Nat) : (s.raise p v).work = s.work :=
  work_ite (fun _ => rfl) fun _ => work_ite (fun _ => s.setPort_work p _) fun _ => rfl
@[simp] theorem State.raiseGal_work (s : State) (g v : Nat) : (s.raiseGal g v).work = s.work :=
  work_ite (fun _ => s.raise_work _ v) fun _ => rfl
@[simp] theorem State.raiseDev_work (s : State) (p : Port) (lo : Nat) : (s.raiseDev p lo).work = s.work :=
  work_ite (fun _ => s.raise_work p _) fun _ => rfl
@[simp] theorem State.raiseBoth_work (s : State) (lo : Nat) : (s.raiseBoth lo).work = s.work := by
  simp [State.raiseBoth]
@[simp] theorem State.logFault_work (s : State) (f : FaultInfo) : (s.logFault f).work = s.work := by
  unfold State.logFault
  dsimp only
  exact work_ite (fun _ => rfl) fun _ => (State.raiseBoth_work _ 0).trans (by simp only [State.work])
@[simp] theorem State.logTransient_work (s : State) (key : Nat) (f : FaultInfo) : (s.logTransient key f).work = s.work :=
  work_ite (fun _ => State.logFault_work _ f) fun _ => rfl

/-! ### The check of a Shared line -/

@[simp] theorem State.transient_work (s : State) (u : CheckUnit) (h off : Nat) (wo : Option Nat) :
    (s.transient u h off wo).work = s.work := by
  unfold State.transient
  dsimp only
  split
  · exact State.logTransient_work _ _ _
  · exact State.logTransient_work _ _ _
@[simp] theorem State.loseLine_work (s : State) (off : Nat) : (s.loseLine off).work = s.work :=
  work_ite (fun _ => rfl) fun _ => work_ite (fun _ => rfl) fun _ => State.logFault_work _ _
@[simp] theorem State.lastingLogged_work (s : State) (u : CheckUnit) (h off : Nat) (wo : Option Nat) :
    (s.lastingLogged u h off wo).work = s.work := by
  unfold State.lastingLogged
  dsimp only
  split
  · exact State.logFault_work _ _
  · rfl
@[simp] theorem State.countCorrected_work (s : State) (u : CheckUnit) : (s.countCorrected u).work = s.work := by
  unfold State.countCorrected
  split <;> rfl
@[simp] theorem State.judgeLine_work (s : State) (v : Verdict) (off : Nat) : (s.judgeLine v off).work = s.work := by
  cases v <;> simp [State.judgeLine]

/-! ### The Ledger's lines -/

@[simp] theorem State.setLine_work (s : State) (l : Nat) (x : Line) : (s.setLine l x).work = s.work := rfl
@[simp] theorem State.sendSnoop_work (s : State) (l : Nat) (p : Port) (inv : Bool) : (s.sendSnoop l p inv).work = s.work := rfl
@[simp] theorem State.unwait_work (s : State) (w : Waiter) (l : Nat) : (s.unwait w l).work = s.work := rfl
@[simp] theorem State.askLine_work (s : State) (w : Waiter) (u : LineUse) (l : Nat) : (s.askLine w u l).work = s.work := by
  refine work_ite (fun _ => rfl) fun _ => work_ite (fun _ => rfl) fun _ => ?_
  dsimp only
  split <;> split <;> simp only [State.sendSnoop_work, State.setLine_work]
@[simp] theorem State.askLines_work (s : State) (w : Waiter) (u : LineUse) (ls : List Nat) :
    (s.askLines w u ls).1.work = s.work := by
  unfold State.askLines
  split
  · exact work_foldl (fun t l => t.unwait_work w l) ls s
  · exact work_foldl (fun t l => t.askLine_work w u l) ls s
@[simp] theorem State.putShared_work (s : State) (off : Nat) (bs : List (Byte × Byte)) : (s.putShared off bs).work = s.work := rfl
@[simp] theorem State.putExch_work (s : State) (off : Nat) (bs : List (Byte × Byte)) : (s.putExch off bs).work = s.work :=
  (State.putShared_work _ _ _).trans (work_foldl (fun t l => t.setLine_work l _) _ s)

/-! ### Host accesses that waited for a line -/

@[simp] theorem State.serveM2S_work (s : State) (p : Port) (r : M2SReq) (v : Verdict) : (s.serveM2S p r v).work = s.work := by
  unfold State.serveM2S
  cases r.op <;> simp
@[simp] theorem State.serveBar4_work (s : State) (p : Port) (write : Bool) (off : Nat) (data : List Byte) (be : List Bool)
    (vs : List Verdict) : (s.serveBar4 p write off data be vs).work = s.work :=
  work_ite (fun _ => s.putExch_work _ _)
    fun _ => (State.send_work _ _).trans (work_foldl (fun t _ => t.judgeLine_work _ _) _ s)
@[simp] theorem State.tryHost_work (s : State) (w : Waiter) : (s.tryHost w).1.work = s.work := by
  cases w <;> simp [State.tryHost, apply_ite Prod.fst, apply_ite State.work]
@[simp] theorem State.snoopForPiece_work (s : State) (l : Nat) (w : Waiter) : (s.snoopForPiece l w).work = s.work := by
  unfold State.snoopForPiece
  split
  · split
    · exact s.askLine_work _ _ l
    · rfl
  · rfl
@[simp] theorem State.pumpLine_work (l n : Nat) (s : State) : (State.pumpLine l n s).work = s.work := by
  induction n generalizing s with
  | zero => rfl
  | succ n ih =>
    unfold State.pumpLine
    split
    · rfl
    · have htry := s.tryHost_work
      refine work_ite (fun _ => rfl) fun _ => work_ite (fun _ => (ih _).trans (htry _)) fun _ => ?_
      have hsnoop := fun w => (State.snoopForPiece_work (s.tryHost w).1 l w).trans (htry w)
      exact work_ite (fun _ => hsnoop _) fun _ => (ih _).trans (hsnoop _)
@[simp] theorem State.pumpLines_work (s : State) (ls : List Nat) : (s.pumpLines ls).work = s.work :=
  work_foldl (fun t l => State.pumpLine_work l _ t) ls s
@[simp] theorem State.purgeFront_work (s : State) (g : Nat) (gone : Nat → Bool) : (s.purgeFront g gone).work = s.work :=
  (State.pumpLines_work _ _).trans (work_foldl (fun t _ => t.setLine_work _ _) _ s)

end Sys2Proof.Machine

namespace Sys2Proof.Machine

open Sys2Proof.Safety

/-! # Galleries and work orders after an update -/

theorem State.setGal_gal {s : State} (h : mwf {} s.gals = true) (g : Nat) (x : Gallery) : (s.setGal g x).gal g = x :=
  mget_mset_same _ _ _ _ h

@[simp] theorem State.setGal_gal_ne (s : State) {g j : Nat} (hj : j ≠ g) (x : Gallery) : (s.setGal g x).gal j = s.gal j :=
  mget_mset_ne _ _ _ _ _ hj

/-- A change of every queue that keeps an absent one, read at a queue. -/
theorem queue_mmap {m : Sparse Queue} (h : mwf {} m = true) {f : Queue → Queue} (hf : f {} = {}) (q : Nat) :
    mget {} (mmap {} (fun _ => f) m) q = f (mget {} m q) :=
  mget_mmap _ _ _ _ h hf

theorem State.wo?_id {s : State} {n : Nat} {w : WorkOrder} (h : s.wo? n = some w) : w.id = n := by
  simpa using List.find?_some h

theorem State.wo?_mem {s : State} {n : Nat} {w : WorkOrder} (h : s.wo? n = some w) : w ∈ s.wos :=
  List.mem_of_find?_eq_some h

theorem State.wo?_of_wos {s t : State} (h : t.wos = s.wos) (n : Nat) : t.wo? n = s.wo? n := by
  rw [State.wo?, State.wo?, h]

section UpdWo
variable (s : State) {f : WorkOrder → WorkOrder} (hf : ∀ w, (f w).id = w.id)
include hf

/-- A change that keeps the number reaches the work order of that number alone. -/
theorem State.wo?_updWo (n m : Nat) : (s.updWo n f).wo? m = if m = n then (s.wo? m).map f else s.wo? m := by
  have hid : ∀ w : WorkOrder, (if w.id = n then f w else w).id = w.id := by
    intro w
    split
    · exact hf w
    · rfl
  have hsame : (fun w : WorkOrder => decide ((if w.id = n then f w else w).id = m)) = fun w => decide (w.id = m) :=
    funext fun w => by rw [hid]
  have hmap : (s.updWo n f).wo? m = (s.wo? m).map fun w => if w.id = n then f w else w := by
    simp only [State.wo?, State.updWo, List.find?_map]
    exact congrArg (fun p => (s.wos.find? p).map fun w => if w.id = n then f w else w) hsame
  rw [hmap]
  cases hw : s.wo? m with
  | none => simp
  | some w =>
    obtain rfl := State.wo?_id hw
    split <;> simp_all

end UpdWo

/-! ### Deciding commits (R121) -/

/-- What the commit of `d` fixes for the work order. -/
def State.fixed (s : State) (d : Decision) (w : WorkOrder) : Decision :=
  { d with time := s.timeNs, trusted := s.trusted, clamp := w.clamp, oob := w.oobDrops, sparse := w.sparseDrops }

theorem State.commit_eq (s : State) (n : Nat) (d : Decision) :
    s.commit n d = s.updWo n fun w => if w.decided.isSome then w else { w with decided := some (s.fixed d w) } := rfl

theorem State.wo?_commit (s : State) (n m : Nat) (d : Decision) :
    (s.commit n d).wo? m = if m = n then
      (s.wo? m).map fun w => if w.decided.isSome then w else { w with decided := some (s.fixed d w) } else s.wo? m := by
  rw [State.commit_eq]
  refine s.wo?_updWo (fun w => ?_) n m
  split <;> rfl

theorem State.wo?_commit_self {s : State} {n : Nat} {w : WorkOrder} (hw : s.wo? n = some w) (hno : w.decided = none)
    (d : Decision) : (s.commit n d).wo? n = some { w with decided := some (s.fixed d w) } := by
  simp [State.wo?_commit, hw, hno]

@[simp] theorem State.endWo_gals (s : State) (n : Nat) (d : Decision) : (s.endWo n d).gals = s.gals := by
  unfold State.endWo
  split <;> rfl

theorem State.wo?_endWo (s : State) (n m : Nat) (d : Decision) :
    (s.endWo n d).wo? m = if s.undecided n then (s.commit n d).wo? m else s.wo? m := by
  unfold State.endWo
  split
  · exact State.wo?_of_wos rfl m
  · rfl

/-! ### Aborted work orders (R131, R139) -/

/-- The work order is decided as ABORTED with this REASON. -/
def State.isAborted (s : State) (n : Nat) (reason : BitVec 8) : Prop :=
  ∃ v d, s.wo? n = some v ∧ v.decided = some d ∧ d.status = .aborted ∧ d.reason = reason

@[simp] theorem State.abortGal_gals (s : State) (g : Nat) (reason : BitVec 8) : (s.abortGal g reason).gals = s.gals :=
  List.foldlRecOn (motive := fun (t : State) => t.gals = s.gals) _ _ rfl fun t ht w _ =>
    (t.endWo_gals w.id _).trans ht

theorem State.wo?_abortWo_ne (s : State) {n m : Nat} (h : m ≠ n) (reason : BitVec 8) :
    (s.abortWo n reason).wo? m = s.wo? m := by
  rw [State.abortWo, State.wo?_endWo, State.wo?_commit, if_neg h, ite_self]

theorem State.abortWo_isAborted {s : State} {n : Nat} {w : WorkOrder} (hw : s.wo? n = some w) (hno : w.decided = none)
    (reason : BitVec 8) : (s.abortWo n reason).isAborted n reason := by
  have hund : s.undecided n = true := by simp [State.undecided, hw, hno]
  refine ⟨{ w with decided := some (s.fixed { status := .aborted, reason := reason } w) }, _, ?_, rfl, rfl, rfl⟩
  rw [State.abortWo, State.wo?_endWo, if_pos hund, State.wo?_commit_self hw hno]

/-- What is decided stays decided. -/
theorem State.isAborted.abortWo {s : State} {m : Nat} {reason : BitVec 8} (h : s.isAborted m reason) (n : Nat)
    (other : BitVec 8) : (s.abortWo n other).isAborted m reason := by
  obtain ⟨v, d, hv, hd, hst, hr⟩ := h
  refine ⟨v, d, ?_, hd, hst, hr⟩
  rw [← hv]
  by_cases hnm : m = n
  · subst hnm
    have hund : s.undecided m = false := by simp [State.undecided, hv, hd]
    rw [State.abortWo, State.wo?_endWo, hund]
    rfl
  · exact s.wo?_abortWo_ne hnm other

theorem abortAll_isAborted (reason : BitVec 8) {n : Nat} {w : WorkOrder} (hno : w.decided = none) (l : List WorkOrder)
    (s : State) (hw : s.wo? n = some w) (hn : ∃ v ∈ l, v.id = n) :
    (l.foldl (fun t v => t.abortWo v.id reason) s).isAborted n reason := by
  induction l generalizing s with
  | nil => simp at hn
  | cons x l ih =>
    rw [List.foldl_cons]
    by_cases hx : x.id = n
    · have hfirst : (s.abortWo x.id reason).isAborted n reason := by
        rw [hx]
        exact State.abortWo_isAborted hw hno reason
      exact List.foldlRecOn (motive := fun (t : State) => t.isAborted n reason) _ _ hfirst
        fun t ht v _ => ht.abortWo v.id reason
    · refine ih _ ((s.wo?_abortWo_ne (Ne.symm hx) reason).trans hw) ?_
      obtain ⟨v, hv, hid⟩ := hn
      obtain rfl | hv := List.mem_cons.1 hv
      · exact absurd hid hx
      · exact ⟨v, hv, hid⟩

theorem State.abortGal_isAborted {s : State} {n : Nat} {w : WorkOrder} (hw : s.wo? n = some w) (hno : w.decided = none)
    (reason : BitVec 8) : (s.abortGal w.gal reason).isAborted n reason :=
  abortAll_isAborted reason hno _ s hw ⟨w, by simp [State.wo?_mem hw], State.wo?_id hw⟩

/-! # Gallery resets (O14) -/

/-! ### The start of a reset (R139, steps 1 to 4) -/

/-- A gallery in RESETTING that has dropped its entries not yet fetched and its fault records not yet consumed. -/
def Gallery.starting (x : Gallery) (job : ResetJob) : Gallery :=
  { x with
    st := .resetting, busy := true, job := some job, grace := none
    queues := mmap {} (fun _ q => q.discard) x.queues
    fqHead := x.fqWritten }

theorem Gallery.starting_queue {x : Gallery} (h : mwf {} x.queues = true) (job : ResetJob) (q : Nat) :
    (x.starting job).queue q = (x.queue q).discard :=
  queue_mmap h rfl q

section Start
variable (s : State) (g : Nat) (reason : BitVec 8) (job : ResetJob)

theorem State.startReset_eq :
    s.startReset g reason job =
      ((s.setGal g ((s.gal g).starting job)).purgeFront g frontOpen).abortGal g reason := rfl

theorem State.startReset_gals : (s.startReset g reason job).gals = (s.setGal g ((s.gal g).starting job)).gals := by
  rw [State.startReset_eq, State.abortGal_gals, State.gals_of_work (State.purgeFront_work _ _ _)]

theorem State.startReset_gal (h : mwf {} s.gals = true) : (s.startReset g reason job).gal g = (s.gal g).starting job := by
  rw [State.gal, State.startReset_gals]
  exact State.setGal_gal h g _

theorem State.startReset_gal_ne {j : Nat} (hj : j ≠ g) : (s.startReset g reason job).gal j = s.gal j := by
  rw [State.gal, State.startReset_gals]
  exact s.setGal_gal_ne hj _

variable {s g}

theorem State.startReset_isAborted {n : Nat} {w : WorkOrder} (hw : s.wo? n = some w) (hg : w.gal = g)
    (hno : w.decided = none) : (s.startReset g reason job).isAborted n reason := by
  subst hg
  rw [State.startReset_eq]
  refine State.abortGal_isAborted ?_ hno reason
  rw [State.wo?_of_wos (State.wos_of_work (State.purgeFront_work _ _ _))]
  exact hw

end Start

/-! ### The ends of QUIESCE and of a reset (R92, R139, R141) -/

theorem any_gal_eq_false {s : State} {g : Nat} (h : ∀ w ∈ s.wos, w.gal ≠ g) : (s.wos.any fun w => decide (w.gal = g)) = false := by
  simpa [List.any_eq_false] using h

theorem State.quiesceDrained_of_drained {s : State} {g : Nat} (hst : (s.gal g).st = .quiescing)
    (hq : ∀ e ∈ (s.gal g).queues, e.2.tail = e.2.fetched ∧ e.2.staged = none) (hw : ∀ w ∈ s.wos, w.gal ≠ g) :
    s.quiesceDrained g = s.setGal g { s.gal g with st := .dormant } := by
  have hdrained : ((s.gal g).queues.all fun e => decide (e.2.unfetched = 0) && e.2.staged.isNone) = true := by
    rw [List.all_eq_true]
    intro e he
    obtain ⟨htail, hstaged⟩ := hq e he
    simp [Queue.unfetched, htail, hstaged]
  exact if_pos ⟨hst, hdrained, by rw [any_gal_eq_false hw]; decide⟩

@[simp] theorem State.updHearth_work (s : State) (h : Nat) (f : Hearth → Hearth) : (s.updHearth h f).work = s.work := rfl

@[simp] theorem State.scrubSegment_work (s : State) (x : Segment) : (s.scrubSegment x).work = s.work :=
  work_ite (fun _ => rfl) fun _ => work_ite (fun _ => rfl) fun _ => work_ite (fun _ => rfl) fun _ => rfl

@[simp] theorem State.scrub_work (s : State) (g : Nat) : (s.scrub g).work = s.work :=
  (work_foldl (fun t _ => t.scrubSegment_work _) _ _).trans (work_foldl (fun t h => t.updHearth_work h _) _ s)

/-- The device once the front end of the gallery has left its lines and its memory is scrubbed where the reset asks for it. -/
def State.swept (s : State) (g : Nat) (j : ResetJob) : State :=
  if j.scrub then (s.purgeFront g fun _ => true).scrub g else s.purgeFront g fun _ => true

theorem State.swept_work (s : State) (g : Nat) (j : ResetJob) : (s.swept g j).work = s.work :=
  work_ite (fun _ => (State.scrub_work _ g).trans (s.purgeFront_work g _)) fun _ => s.purgeFront_work g _

theorem State.galResetDone_of_done {s : State} {g : Nat} {j : ResetJob} (hst : (s.gal g).st = .resetting)
    (hjob : (s.gal g).job = some j) (hkey : j.scrubKey = false) (hw : ∀ w ∈ s.wos, w.gal ≠ g) (hidle : s.galBusy g = false)
    (hvault : s.acc.rekeyed.contains g = false) :
    s.galResetDone g = if j.release then (s.swept g j).releaseGal g
      else (s.swept g j).setGal g ((s.gal g).afterReset (if j.portReset then (s.gal g).result else .ok)) := by
  have hgal : (s.swept g j).gal g = s.gal g := State.gal_of_work (s.swept_work g j) g
  have hout : ¬ ((s.gal g).st ≠ .resetting ∨ (s.wos.any fun w => decide (w.gal = g)) = true ∨ s.galBusy g = true) := by
    simp [hst, hidle, any_gal_eq_false hw]
  unfold State.galResetDone
  dsimp only
  rw [hjob]
  dsimp only
  rw [if_neg hout, hkey, hvault, ← hgal]
  rfl

theorem State.releaseGal_gal {s : State} {g : Nat} (h : mwf {} s.gals = true) : (s.releaseGal g).gal g = { result := .ok } :=
  State.setGal_gal h g _

theorem State.releaseGal_gal_ne (s : State) {g j : Nat} (hj : j ≠ g) : (s.releaseGal g).gal j = s.gal j :=
  State.setGal_gal_ne _ hj _

theorem Gallery.afterReset_queue {x : Gallery} (h : mwf {} x.queues = true) (r : GalResult) (q : Nat) :
    (x.afterReset r).queue q = (x.queue q).reset :=
  queue_mmap h rfl q

/-- Settles O14: the start by `State.startReset`, whose aborts reach each undecided work order of the gallery, and the end by
`State.galResetDone`, whose sweep leaves galleries and work orders alone. What the end waits for is the model's log entry 44. -/
theorem galleryResets : Obligations.GalleryResets := by
  unfold Obligations.GalleryResets
  refine ⟨?start, fun g s hcanon hw => ⟨fun hst hq => congrArg _ (State.quiesceDrained_of_drained hst hq hw), ?done⟩⟩
  case start =>
    intro p g a b s c job hs hcanon hc
    have hx : exec c s = .next (s.startReset g 0x02 job) := by
      obtain ⟨rfl, hhome, hidle, hseal, hst, rfl⟩ | ⟨rfl, hown, hidle, hst, rfl⟩ := hc
      · rw [exec_galReset hs, State.galReset_eq]
        exact congrArg _ (State.judgeGal_of_accepted (decide_eq_true hhome) hidle (by simp [hst, hseal]))
      · rw [exec_release hs, State.release_eq]
        exact congrArg _ (State.judgeGal_of_accepted hown hidle (decide_eq_true hst))
    refine ⟨_, hx, ?_⟩
    rw [State.startReset_gal _ _ _ _ hcanon.gals]
    refine ⟨rfl, rfl, rfl, rfl, rfl, rfl, rfl, rfl, rfl, fun q => ?_, fun j hj => s.startReset_gal_ne g _ _ hj,
      fun w hw hg hno => State.startReset_isAborted _ _ hw hg hno⟩
    rw [Gallery.starting_queue (hcanon.queues g)]
    exact ⟨rfl, rfl, rfl, rfl⟩
  case done =>
    intro j hst hjob hkey hidle hvault
    have hx : exec (.galResetDone g) s = .next (s.galResetDone g) := rfl
    rw [State.galResetDone_of_done hst hjob hkey hw hidle hvault] at hx
    have hwork := s.swept_work g j
    have hgals : mwf {} (s.swept g j).gals = true := by rw [State.gals_of_work hwork]; exact hcanon.gals
    refine ⟨_, hx, fun i hi => ?others, ?wos, fun hkeep => ?kept, fun hrelease => ?released⟩
    case others =>
      rw [← State.gal_of_work hwork i]
      split
      · exact State.releaseGal_gal_ne _ hi
      · exact State.setGal_gal_ne _ hi _
    case wos =>
      rw [← State.wos_of_work hwork]
      split <;> rfl
    case kept =>
      rw [hkeep, if_neg (by decide), State.setGal_gal hgals]
      refine ⟨rfl, fun q => ?_⟩
      rw [Gallery.afterReset_queue (hcanon.queues g)]
      exact ⟨rfl, rfl, rfl, rfl, rfl, rfl, rfl, rfl⟩
    case released =>
      rw [hrelease, if_pos rfl]
      exact State.releaseGal_gal hgals

end Sys2Proof.Machine

namespace Sys2Proof.Machine

open Sys2Proof.Safety

/-! # Doorbells (O15) -/

/-! ### What becomes of a write to the doorbell page (R110, R812, R833) -/

theorem takesTail_iff (x : GalSt) : takesTail x = true ↔ x = .opened := by
  cases x <;> decide

theorem takesAbort_iff (x : GalSt) : takesAbort x = true ↔ x = .opened ∨ x = .quiescing := by
  cases x <;> decide

theorem takesHead_iff (x : GalSt) : takesHead x = true ↔ x = .opened ∨ x = .quiescing ∨ x = .faulted := by
  cases x <;> decide

section Page
variable {s : State} {p : Port} {g q : Nat} {accepts : GalSt → Bool} {f : State → State}

theorem State.doorbell_of_early (ht : s.pace.tripped = false) (hr : s.dev.ready = false) :
    s.doorbell p g accepts f = s.earlyDoorbell := by
  simp [State.doorbell, ht, hr]

theorem State.doorbell_of_wrongPort (hs : Serving s) (hhome : (s.gal g).home ≠ p) :
    s.doorbell p g accepts f = s.dropWrongPort g := by
  simp [State.doorbell, hs.live, hs.ready, hhome]

theorem State.doorbell_of_notOpen (hs : Serving s) (hhome : (s.gal g).home = p) (hst : ¬ accepts (s.gal g).st = true) :
    s.doorbell p g accepts f = s.dropNotOpen g := by
  simp [State.doorbell, hs.live, hs.ready, hhome, hst]

theorem State.doorbell_of_accepted (hs : Serving s) (hhome : (s.gal g).home = p) (hst : accepts (s.gal g).st = true) :
    s.doorbell p g accepts f = f s := by
  simp [State.doorbell, hs.live, hs.ready, hhome, hst]

theorem State.whenEnabled_of_on (h : ((s.gal g).queue q).enable = true) : s.whenEnabled g q f = f s := if_pos h

theorem State.whenEnabled_of_off (h : ((s.gal g).queue q).enable = false) : s.whenEnabled g q f = s.dropBad g :=
  if_neg (by simp [h])

/-- A write to an enabled queue of an accepting gallery. -/
theorem State.doorbell_of_enabled (hs : Serving s) (hhome : (s.gal g).home = p) (hst : accepts (s.gal g).st = true)
    (hen : ((s.gal g).queue q).enable = true) : s.doorbell p g accepts (fun t => t.whenEnabled g q f) = f s :=
  (State.doorbell_of_accepted hs hhome hst).trans (State.whenEnabled_of_on hen)

end Page

section Rows
variable {s : State} (hs : Serving s) {p : Port} {g : GalleryId} (hhome : (s.gal g).home = p) (q : QueueId)
include hs hhome

theorem exec_dbSqTail (hst : (s.gal g).st = .opened) (hen : ((s.gal g).queue q).enable = true) (t : BitVec 16) :
    exec (.dbSqTail p g q t) s = .next (s.sqTail g q t) :=
  congrArg _ (State.doorbell_of_enabled hs hhome ((takesTail_iff _).2 hst) hen)

theorem exec_dbPush (hst : (s.gal g).st = .opened) (hen : ((s.gal g).queue q).enable = true) (d : List Byte) :
    exec (.dbPush p g q d) s = .next (s.push g q d) :=
  congrArg _ (State.doorbell_of_enabled hs hhome ((takesTail_iff _).2 hst) hen)

theorem exec_dbCqHead (hst : (s.gal g).st = .opened ∨ (s.gal g).st = .quiescing ∨ (s.gal g).st = .faulted)
    (hen : ((s.gal g).queue q).enable = true) (h : BitVec 16) : exec (.dbCqHead p g q h) s = .next (s.cqHead g q h) :=
  congrArg _ (State.doorbell_of_enabled hs hhome ((takesHead_iff _).2 hst) hen)

theorem exec_dbAbort (hst : (s.gal g).st = .opened ∨ (s.gal g).st = .quiescing) (hen : ((s.gal g).queue q).enable = true)
    (t : BitVec 16) : exec (.dbAbort p g q t) s = .next (s.dbAbort g q t) :=
  congrArg _ (State.doorbell_of_enabled hs hhome ((takesAbort_iff _).2 hst) hen)

omit q in
theorem exec_dbResume (hst : (s.gal g).st = .opened ∨ (s.gal g).st = .quiescing) (n : W32) :
    exec (.dbResume p g n) s = .next (s.dbResume g n) :=
  congrArg _ (State.doorbell_of_accepted hs hhome ((takesAbort_iff _).2 hst))

omit q in
theorem exec_dbFaultqHead (hst : (s.gal g).st = .opened ∨ (s.gal g).st = .quiescing ∨ (s.gal g).st = .faulted)
    (h : BitVec 16) : exec (.dbFaultqHead p g h) s = .next (s.faultqHead g h) :=
  congrArg _ (State.doorbell_of_accepted hs hhome ((takesHead_iff _).2 hst))

end Rows

/-! ### Aborts (R128 to R131) -/

/-- The work orders in flight of a queue that carry a tag. -/
def State.tagged (s : State) (g q : Nat) (t : BitVec 16) : List WorkOrder :=
  s.wos.filter fun w => decide (w.gal = g) && decide (w.queue = q) && decide (w.tag = t)

theorem State.mem_tagged {s : State} {g q : Nat} {t : BitVec 16} {w : WorkOrder} :
    w ∈ s.tagged g q t ↔ w ∈ s.wos ∧ w.gal = g ∧ w.queue = q ∧ w.tag = t := by
  simp [State.tagged, and_assoc]

theorem State.dbAbort_eq (s : State) (g q : Nat) (t : BitVec 16) :
    s.dbAbort g q t = match (s.tagged g q t).find? fun w => w.decided.isNone with
      | some w => (s.setQueue g q { (s.gal g).queue q with abort := some (.accepted, t) }).abortWo w.id 0x01
      | none =>
        if !(s.tagged g q t).isEmpty || ((s.gal g).queue q).unread.contains t then
          s.setQueue g q { (s.gal g).queue q with abort := some (.alreadyRetired, t) }
        else if ((s.gal g).queue q).unfetched = 0 then s.setQueue g q { (s.gal g).queue q with abort := some (.notFound, t) }
        else s.setQueue g q (((s.gal g).queue q).holdAbort t) := rfl

section Abort
variable {s : State} {g q : Nat} {t : BitVec 16} {x : Queue} (hx : x = (s.gal g).queue q)
include hx

theorem State.dbAbort_of_undecided {w : WorkOrder}
    (hw : (s.wos.find? fun v => decide (v.gal = g) && decide (v.queue = q) && decide (v.tag = t) && v.decided.isNone) = some w) :
    s.dbAbort g q t = (s.setQueue g q { x with abort := some (.accepted, t) }).endWo w.id
      { status := .aborted, reason := 0x01 } := by
  have hfind : ((s.tagged g q t).find? fun v => v.decided.isNone) = some w := by
    rw [State.tagged, List.find?_filter, ← hw]
    exact congrArg s.wos.find? (funext fun v => Bool.eq_iff_iff.2 (by simp))
  rw [State.dbAbort_eq, hfind, hx]
  rfl

theorem State.dbAbort_of_decided (hd : ∀ w ∈ s.wos, w.gal = g → w.queue = q → w.tag = t → w.decided ≠ none) :
    s.dbAbort g q t =
      if (∃ w ∈ s.wos, w.gal = g ∧ w.queue = q ∧ w.tag = t) ∨ t ∈ x.unread then
        s.setQueue g q { x with abort := some (.alreadyRetired, t) }
      else if x.unfetched = 0 then s.setQueue g q { x with abort := some (.notFound, t) }
      else s.setQueue g q (x.holdAbort t) := by
  have hnone : ((s.tagged g q t).find? fun v => v.decided.isNone) = none := by
    rw [List.find?_eq_none]
    intro w hw
    obtain ⟨hmem, hg, hq, ht⟩ := State.mem_tagged.1 hw
    simpa using hd w hmem hg hq ht
  have hcarried : (s.tagged g q t).isEmpty = false ↔ ∃ w ∈ s.wos, w.gal = g ∧ w.queue = q ∧ w.tag = t := by
    rw [List.isEmpty_eq_false_iff_exists_mem]
    exact exists_congr fun w => State.mem_tagged
  rw [State.dbAbort_eq, hnone, ← hx]
  refine if_congr ?_ rfl rfl
  rw [← hcarried]
  simp

end Abort

/-! ### Aborts held for the entries not yet fetched (R130) -/

theorem Queue.unfetched_eq_zero (x : Queue) : x.unfetched = 0 ↔ x.tail = x.fetched := by
  rw [Queue.unfetched]
  bv_omega

section Hold
variable {x : Queue} {t : BitVec 16}

theorem Queue.holdAbort_of_empty (hst : x.staged = none) :
    x.holdAbort t = { x with abort := some (.queued, t), heldAbort := some (t, (x.tail - x.fetched).toNat) } := by
  simp [Queue.holdAbort, hst, Queue.unstaged, Queue.unfetched, b2n]

theorem Queue.holdAbort_of_staged {e : List Byte} (hst : x.staged = some e) (ht : entryTag e = t) :
    x.holdAbort t = { x with abort := some (.queued, t), heldAbort := none, stagedAborted := true } := by
  simp [Queue.holdAbort, hst, ht]

theorem Queue.holdAbort_of_other {e : List Byte} (hst : x.staged = some e) (ht : entryTag e ≠ t) :
    x.holdAbort t =
      if (x.tail - x.fetched).toNat - 1 = 0 then { x with abort := some (.notFound, t), heldAbort := none }
      else { x with abort := some (.queued, t), heldAbort := some (t, (x.tail - x.fetched).toNat - 1) } := by
  have hleft : x.unstaged = (x.tail - x.fetched).toNat - 1 := by simp [Queue.unstaged, Queue.unfetched, hst, b2n]
  simp only [Queue.holdAbort, hst, if_neg ht, hleft]

end Hold

/-- Settles O15: the page's own tests, then the test of each doorbell. That WRONG_PORT is counted before NOT_OPEN where both
apply is the model's log entry 36. -/
theorem doorbells : Obligations.Doorbells := by
  unfold Obligations.Doorbells
  refine ⟨?accepted, ?dropped, ?aborts⟩
  case accepted =>
    intro p g q s x hs hhome hx dropped
    subst hx
    refine ⟨fun t hst hen => ?_, fun d hst hen => ?_, fun h hst hen => ?_, fun h hst => ?_⟩
    · rw [exec_dbSqTail hs hhome q hst hen]
      exact ⟨fun hin => congrArg _ (if_pos hin), fun hout => congrArg _ (if_neg hout)⟩
    · rw [exec_dbPush hs hhome q hst hen]
      exact ⟨fun hin => congrArg _ (if_pos hin), fun hout => congrArg _ (if_neg hout)⟩
    · rw [exec_dbCqHead hs hhome q hst hen]
      exact ⟨fun hin => congrArg _ (if_pos hin), fun hout => congrArg _ (if_neg (Nat.not_le.2 hout))⟩
    · rw [exec_dbFaultqHead hs hhome hst]
      exact ⟨fun hin => congrArg _ (if_pos hin), fun hout => congrArg _ (if_neg (Nat.not_le.2 hout))⟩
  case dropped =>
    intro p g q t d n s c accepts ht hc
    have hpage : ∃ takes f, exec c s = .next (s.doorbell p g takes f) ∧ (∀ x, takes x = true ↔ accepts x) ∧
        (c ≠ .dbResume p g n → c ≠ .dbFaultqHead p g t → ∃ k, f = fun u => u.whenEnabled g q k) := by
      obtain ⟨rfl | rfl, rfl⟩ | ⟨rfl | rfl, rfl⟩ | ⟨rfl | rfl, rfl⟩ := hc
      · exact ⟨_, _, rfl, takesTail_iff, fun _ _ => ⟨_, rfl⟩⟩
      · exact ⟨_, _, rfl, takesTail_iff, fun _ _ => ⟨_, rfl⟩⟩
      · exact ⟨_, _, rfl, takesAbort_iff, fun _ _ => ⟨_, rfl⟩⟩
      · exact ⟨_, _, rfl, takesAbort_iff, fun hno => absurd rfl hno⟩
      · exact ⟨_, _, rfl, takesHead_iff, fun _ _ => ⟨_, rfl⟩⟩
      · exact ⟨_, _, rfl, takesHead_iff, fun _ hno => absurd rfl hno⟩
    obtain ⟨takes, f, hx, htakes, henabled⟩ := hpage
    rw [hx]
    refine ⟨fun hr => congrArg _ (State.doorbell_of_early ht hr),
      fun hr hhome => congrArg _ (State.doorbell_of_wrongPort ⟨ht, hr⟩ hhome),
      fun hr hhome hst => congrArg _ (State.doorbell_of_notOpen ⟨ht, hr⟩ hhome (mt (htakes _).1 hst)),
      fun hr hhome hst hoff hresume hfaultq => ?_⟩
    obtain ⟨k, rfl⟩ := henabled hresume hfaultq
    exact congrArg _ ((State.doorbell_of_accepted ⟨ht, hr⟩ hhome ((htakes _).2 hst)).trans (State.whenEnabled_of_off hoff))
  case aborts =>
    intro p g q t s x hs hhome hst hx
    refine ⟨fun hen => ?_, fun n => ?_⟩
    · rw [exec_dbAbort hs hhome q hst (hx ▸ hen)]
      refine ⟨fun w hw => congrArg _ (State.dbAbort_of_undecided hx hw), fun hd => ?_⟩
      rw [State.dbAbort_of_decided hx hd]
      refine ⟨fun hcarried => by rw [if_pos hcarried], fun hnew => ?_⟩
      rw [if_neg hnew]
      refine ⟨fun hnone => by rw [if_pos ((Queue.unfetched_eq_zero x).2 hnone)], fun hsome hempty => ?_,
        fun e hsome hstaged htag => ?_, fun e hsome hstaged htag => ?_⟩
      all_goals rw [if_neg (mt (Queue.unfetched_eq_zero x).1 hsome)]
      · rw [Queue.holdAbort_of_empty hempty]
      · rw [Queue.holdAbort_of_staged hstaged htag]
      · rw [Queue.holdAbort_of_other hstaged htag]
        exact ⟨fun hone => by rw [if_pos (by omega)], fun hmore => by rw [if_neg (by omega)]⟩
    · rw [exec_dbResume hs hhome hst, State.dbResume]
      exact ⟨fun hnone => by rw [hnone]; rfl, fun h k d hsome => by rw [hsome]⟩

end Sys2Proof.Machine

namespace Sys2Proof.Machine

open Sys2Proof.Safety

/-! # Entries: staging, priority and fetching (O16) -/

theorem GalSt.fetches_iff (x : GalSt) : x.fetches = true ↔ x = .opened ∨ x = .quiescing := by
  cases x <;> decide

/-! ### Staging (R834) -/

theorem Queue.stage_of_unheld {x : Queue} (h : x.heldAbort = none) (e : List Byte) :
    x.stage e = { x with staged := some e, stagedAborted := false, pushed := mset [] x.pushed x.fetched.toNat [] } := by
  simp [Queue.stage, h]

section Staging
variable {s : State} {g q : Nat} {x : Queue} (hx : x = (s.gal g).queue q)
  (hst : (s.gal g).st = .opened ∨ (s.gal g).st = .quiescing) (hempty : x.staged = none) (hmore : x.fetched ≠ x.tail)
include hx hst hempty hmore

theorem State.entryStage_of_pushed {e : List Byte} (he : e ≠ []) (hpush : mget [] x.pushed x.fetched.toNat = e)
    (ans : HostAnswer) (v : Verdict) : s.entryStage g q ans v = s.setQueue g q (x.stage e) := by
  subst hx
  obtain ⟨b, bs, rfl⟩ := List.exists_cons_of_ne_nil he
  simp [State.entryStage, (GalSt.fetches_iff _).2 hst, hempty, hmore, hpush]

variable (hpush : mget [] x.pushed x.fetched.toNat = [])
include hpush

theorem State.entryStage_of_host {a : Nat} {i : Option Nat}
    (hcheck : s.check g .ringFetch (x.sqBase.toNat + 64 * (x.fetched.toNat % 64)) = .ok (.host a) i)
    (husable : (s.port (s.gal g).home).usable = true) (e : List Byte) (v : Verdict) :
    s.entryStage g q (.data e) v = s.setQueue g q (x.stage e) := by
  subst hx
  simp [State.entryStage, (GalSt.fetches_iff _).2 hst, hempty, hmore, hpush, hcheck, husable]

theorem State.entryStage_of_shared {o : Nat} {i : Option Nat}
    (hcheck : s.check g .ringFetch (x.sqBase.toNat + 64 * (x.fetched.toNat % 64)) = .ok (.shared o) i)
    (ans : HostAnswer) (v : Verdict) : s.entryStage g q ans v = (s.judgeLine v o).stageShared g q o := by
  subst hx
  simp [State.entryStage, (GalSt.fetches_iff _).2 hst, hempty, hmore, hpush, hcheck]

end Staging

/-! ### The entry that is served next (R116) -/

/-- A map gives its default or lists the key with its value. -/
theorem mget_eq_default_or_mem {α : Type} (d : α) (m : Sparse α) (k : Nat) : mget d m k = d ∨ (k, mget d m k) ∈ m := by
  induction m with
  | nil => exact .inl rfl
  | cons e m ih =>
    by_cases h : k = e.1
    · exact .inr (by simp [mget, h])
    · have hskip : mget d (e :: m) k = mget d m k := if_neg h
      rw [hskip]
      exact ih.imp_right (List.mem_cons_of_mem e)

/-- The staged entries that may be fetched: gallery, queue and PRIORITY. -/
def State.candidates (s : State) : List (Nat × Nat × Nat) :=
  s.gals.flatMap fun e => (List.range 4).filterMap fun q => (s.stagedPriority e.1 q).map fun p => (e.1, q, p)

/-- The highest PRIORITY among some candidates. -/
def topPriority (l : List (Nat × Nat × Nat)) : Nat := l.foldl (fun m c => max m c.2.2) 0

theorem State.stagedPriority_eq_some {s : State} {g q p : Nat} :
    s.stagedPriority g q = some p ↔ ((s.gal g).st = .opened ∨ (s.gal g).st = .quiescing) ∧
      ∃ e, ((s.gal g).queue q).staged = some e ∧ entryPriority e = p := by
  rw [State.stagedPriority, ← GalSt.fetches_iff]
  split <;> simp_all

theorem State.stagedPriority_of_candidate {s : State} {g q p : Nat} (h : (g, q, p) ∈ s.candidates) :
    s.stagedPriority g q = some p := by
  simp only [State.candidates, List.mem_flatMap, List.mem_filterMap, Option.map_eq_some_iff] at h
  obtain ⟨e, -, j, -, r, hr, heq⟩ := h
  obtain ⟨rfl, rfl, rfl⟩ : e.1 = g ∧ j = q ∧ r = p := by simpa using heq
  exact hr

theorem State.candidate_of_stagedPriority {s : State} {g q p : Nat} (hq : q < 4) (h : s.stagedPriority g q = some p) :
    (g, q, p) ∈ s.candidates := by
  have hlisted : (g, s.gal g) ∈ s.gals := by
    refine (mget_eq_default_or_mem {} s.gals g).resolve_left fun hnone => ?_
    obtain ⟨hst, -⟩ := State.stagedPriority_eq_some.1 h
    rw [State.gal, hnone] at hst
    exact absurd hst (by decide)
  simp only [State.candidates, List.mem_flatMap, List.mem_filterMap, Option.map_eq_some_iff]
  exact ⟨_, hlisted, q, List.mem_range.2 hq, p, h, rfl⟩

theorem le_topPriority {c : Nat × Nat × Nat} {l : List (Nat × Nat × Nat)} (hc : c ∈ l) : c.2.2 ≤ topPriority l := by
  have hall : ∀ (l : List (Nat × Nat × Nat)) (n : Nat),
      n ≤ l.foldl (fun m c => max m c.2.2) n ∧ ∀ c ∈ l, c.2.2 ≤ l.foldl (fun m c => max m c.2.2) n := by
    intro l
    induction l with
    | nil => simp
    | cons x l ih =>
      intro n
      obtain ⟨hle, hmem⟩ := ih (max n x.2.2)
      refine ⟨(le_max_left _ _).trans hle, fun c hc => ?_⟩
      obtain rfl | hc := List.mem_cons.1 hc
      · exact (le_max_right _ _).trans hle
      · exact hmem c hc
  exact (hall l 0).2 c hc

/-- The entry served next has the highest PRIORITY of the candidates. -/
theorem State.nextFetch_candidate {s : State} {g q : Nat} (h : s.nextFetch = some (g, q)) :
    (g, q, topPriority s.candidates) ∈ s.candidates := by
  unfold State.nextFetch at h
  dsimp only at h
  split at h
  · cases h
  · obtain ⟨j, hj, heq⟩ := Option.map_eq_some_iff.1 h
    obtain ⟨rfl, rfl⟩ : _ = g ∧ j = q := by simpa using heq
    have hfound := List.find?_some hj
    simp only [List.any_eq_true, List.mem_filter, Bool.and_eq_true, decide_eq_true_eq] at hfound
    obtain ⟨⟨i, k, p⟩, ⟨hmem, hbest⟩, rfl, rfl⟩ := hfound
    obtain rfl : p = topPriority s.candidates := hbest
    exact hmem

/-! ### Fetching (R113, R115, R130) -/

/-- The device once the staged entry has become the last work order. -/
def State.taken (s : State) (g q : Nat) (e : List Byte) : State :=
  let y := (s.gal g).queue q
  { s.setGal g { (s.gal g).setQueue q { y with staged := none, stagedAborted := false, fetched := y.fetched + 1 } with
      rrQueue := q } with
    rrGal := g, nextWo := s.nextWo + 1, wos := s.wos ++ [entryWo s.nextWo g q e] }

/-- A fetched PLACE marks the programs that it replaces (R283). -/
def State.markPlaces (s : State) (w : WorkOrder) : State :=
  (hearthsOf w.hearths).foldl (fun t h => t.setHearth h ((t.hearth h).markPlace w)) s

theorem State.fetch_eq (s : State) (g q : Nat) (e : List Byte) :
    s.fetch g q e =
      if ((s.gal g).queue q).stagedAborted then (s.taken g q e).commit s.nextWo { status := .aborted, reason := 0x01 }
      else match s.refusal g q e with
        | some r => (s.taken g q e).commit s.nextWo { status := .refused, reason := r }
        | none => if entryOpcode e = opPlace then (s.taken g q e).markPlaces (entryWo s.nextWo g q e) else s.taken g q e := rfl

/-- `t` is the device with one more work order, `w`, fetched for gallery `g`. -/
structure GainsWo (s : State) (g : Nat) (w : WorkOrder) (t : State) : Prop where
  wos : t.wos = s.wos ++ [w]
  nextWo : t.nextWo = s.nextWo + 1
  rrGal : t.rrGal = g

/-- A commit for the last work order reaches no other. -/
theorem State.commit_wos_append {s : State} {l : List WorkOrder} {w : WorkOrder} (hwos : s.wos = l ++ [w])
    (hfresh : ∀ v ∈ l, v.id ≠ w.id) (hno : w.decided = none) (d : Decision) :
    (s.commit w.id d).wos = l ++ [{ w with decided := some (s.fixed d w) }] := by
  have hold (f : WorkOrder → WorkOrder) : l.map (fun v => if v.id = w.id then f v else v) = l := by
    rw [List.map_congr_left fun v hv => if_neg (hfresh v hv), List.map_id']
  simp [State.commit_eq, State.updWo, hwos, hold, hno]

section Fetch
variable (s : State) (g q : Nat) (e : List Byte)

theorem State.taken_gains : GainsWo s g (entryWo s.nextWo g q e) (s.taken g q e) := ⟨rfl, rfl, rfl⟩

theorem State.markPlaces_gains (w : WorkOrder) :
    GainsWo s g (entryWo s.nextWo g q e) ((s.taken g q e).markPlaces w) :=
  List.foldlRecOn (motive := GainsWo s g (entryWo s.nextWo g q e)) _ _ (s.taken_gains g q e)
    fun _ ht _ _ => ⟨ht.wos, ht.nextWo, ht.rrGal⟩

theorem State.taken_commit_gains (hfresh : ∀ w ∈ s.wos, w.id ≠ s.nextWo) (d : Decision) :
    GainsWo s g { entryWo s.nextWo g q e with decided := some ((s.taken g q e).fixed d (entryWo s.nextWo g q e)) }
      ((s.taken g q e).commit s.nextWo d) := by
  exact ⟨State.commit_wos_append (s.taken_gains g q e).wos hfresh rfl d, rfl, rfl⟩

/-- An aborted entry is decided as ABORTED, a refused one as REFUSED with its REASON, and no other is decided. -/
theorem State.fetch_gains (hfresh : ∀ w ∈ s.wos, w.id ≠ s.nextWo) :
    ∃ d, GainsWo s g { entryWo s.nextWo g q e with decided := d } (s.fetch g q e) ∧
      (((s.gal g).queue q).stagedAborted = true → ∃ c, d = some c ∧ c.status = .aborted ∧ c.reason = 0x01) ∧
      (((s.gal g).queue q).stagedAborted = false →
        (∀ r, s.refusal g q e = some r → ∃ c, d = some c ∧ c.status = .refused ∧ c.reason = r) ∧
        (s.refusal g q e = none → d = none)) := by
  rw [State.fetch_eq]
  cases ((s.gal g).queue q).stagedAborted with
  | true => exact ⟨_, s.taken_commit_gains g q e hfresh _, fun _ => ⟨_, rfl, rfl, rfl⟩, nofun⟩
  | false =>
    cases s.refusal g q e with
    | some r =>
      exact ⟨_, s.taken_commit_gains g q e hfresh _, nofun, fun _ => ⟨fun _ hr => ⟨_, rfl, rfl, Option.some.inj hr⟩, nofun⟩⟩
    | none =>
      refine ⟨none, ?_, nofun, fun _ => ⟨nofun, fun _ => rfl⟩⟩
      rw [if_neg Bool.false_ne_true]
      dsimp only
      split
      · exact s.markPlaces_gains g q e _
      · exact s.taken_gains g q e

end Fetch

/-- Settles O16: staging by where the entry lies, the priority by the candidates of `State.nextFetch`, and fetching by the fate
of the entry. That an entry in a lost line faults the gallery is the model's log entry 112. -/
theorem entriesAreFetched : Obligations.EntriesAreFetched := by
  unfold Obligations.EntriesAreFetched
  refine ⟨?staged, fun s => ⟨?full, ?next⟩, ?fetched⟩
  case staged =>
    intro g q ans v e s x ht hx hst hempty hmore hheld staged
    have hexec : exec (.entryStage g q ans v) s = .next (s.entryStage g q ans v) := congrArg _ (if_neg (by simp [ht]))
    have hstage : ∀ e, x.stage e = staged e := Queue.stage_of_unheld hheld
    rw [hexec]
    refine ⟨?_, fun o i w hpush hcheck hw => ?_⟩
    · rintro (⟨he, hpush⟩ | ⟨hpush, rfl, husable, a, i, hcheck⟩)
      · rw [State.entryStage_of_pushed hx hst hempty hmore he hpush, hstage]
      · rw [State.entryStage_of_host hx hst hempty hmore hpush hcheck husable, hstage]
    · rw [State.entryStage_of_shared hx hst hempty hmore hpush hcheck, ← hw, State.stageShared]
      have hgal : (w.gal g).queue q = x := by rw [hw, State.gal_of_work (State.judgeLine_work s v o), hx]
      rw [hgal, hstage]
  case full =>
    intro hfull
    have hsame : s.entryFetch = s := if_pos hfull
    exact congrArg _ ((congrArg (ite _ s) hsame).trans (ite_self s))
  case next =>
    intro g q hnext
    obtain ⟨hst, e, hstaged, htop⟩ :=
      State.stagedPriority_eq_some.1 (State.stagedPriority_of_candidate (State.nextFetch_candidate hnext))
    refine ⟨e, hstaged, hst, fun i j f hj hst' hstaged' => ?_⟩
    rw [htop]
    exact le_topPriority (State.candidate_of_stagedPriority hj (State.stagedPriority_eq_some.2 ⟨hst', f, hstaged', rfl⟩))
  case fetched =>
    intro s g q e ht hroom hnext hstaged hfresh
    have hexec : exec .entryFetch s = .next (s.fetch g q e) := by
      refine congrArg _ ((if_neg (by simp [ht])).trans ?_)
      simp [State.entryFetch, Nat.not_le.2 hroom, hnext, hstaged]
    obtain ⟨d, hgains, haborted, hjudged⟩ := s.fetch_gains g q e hfresh
    exact ⟨_, { entryWo s.nextWo g q e with decided := d }, hexec, hgains.wos, hgains.nextWo, hgains.rrGal,
      rfl, rfl, rfl, rfl, rfl, rfl, haborted, hjudged⟩

end Sys2Proof.Machine

namespace Sys2Proof.Machine

open Sys2Proof.Safety

/-! # Dispatch, and the retirement of a PLACE (O17) -/

/-! ### Operations on the Hearths of a set -/

theorem foldl_onlyHearths {β : Type} {f : State → β → State} (h : ∀ t x, ∃ m, f t x = { t with hearths := m }) (l : List β)
    (s : State) : ∃ m, l.foldl f s = { s with hearths := m } := by
  refine List.foldlRecOn (motive := fun (t : State) => ∃ m, t = { s with hearths := m }) _ _ ⟨s.hearths, rfl⟩ ?_
  rintro _ ⟨m, rfl⟩ x _
  exact h _ x

/-- Each Hearth of a list changed in its own way. -/
def State.updHearths (s : State) (l : List Nat) (f : Nat → Hearth → Hearth) : State :=
  l.foldl (fun t h => t.updHearth h (f h)) s

section UpdHearths
variable (s : State) (l : List Nat) (f : Nat → Hearth → Hearth)

@[simp] theorem State.updHearths_wos : (s.updHearths l f).wos = s.wos := by
  obtain ⟨m, hm⟩ := foldl_onlyHearths (fun t h => ⟨_, (rfl : t.updHearth h (f h) = _)⟩) l s
  exact (congrArg State.wos hm :)

variable {l}

theorem State.updHearths_hearth_of_notMem {h : Nat} (hh : h ∉ l) : (s.updHearths l f).hearth h = s.hearth h :=
  List.foldlRecOn (motive := fun (t : State) => t.hearth h = s.hearth h) _ _ rfl fun t ht j hj =>
    (t.setHearth_hearth_ne j h _ (ne_of_mem_of_not_mem hj hh).symm).trans ht

/-- A Hearth that changes to something is what it changes to. -/
theorem State.updHearths_hearth (hl : l.Nodup) {h : Nat} (hh : h ∈ l) (hne : f h (s.hearth h) ≠ {}) :
    (s.updHearths l f).hearth h = f h (s.hearth h) := by
  induction l generalizing s with
  | nil => simp at hh
  | cons j l ih =>
    obtain ⟨hj, hl⟩ := List.nodup_cons.1 hl
    have hcons : s.updHearths (j :: l) f = (s.updHearth j (f j)).updHearths l f := rfl
    rw [hcons]
    obtain rfl | hh := List.mem_cons.1 hh
    · rw [State.updHearths_hearth_of_notMem _ _ hj]
      exact mget_mset_self _ _ _ _ hne
    · have hkeep : (s.updHearth j (f j)).hearth h = s.hearth h :=
        s.setHearth_hearth_ne _ _ _ (ne_of_mem_of_not_mem hh hj)
      rw [ih _ hl hh (by rwa [hkeep]), hkeep]

end UpdHearths

theorem mem_hearthsOf {m : BitVec 48} {h : Nat} : h ∈ hearthsOf m ↔ h < 48 ∧ m.getLsbD h = true := by
  simp [hearthsOf, hbit]

theorem nodup_hearthsOf (m : BitVec 48) : (hearthsOf m).Nodup := List.nodup_range.filter _

/-! ### RUN and STOVE_LOAD (R117, R289, R290, R435) -/

theorem State.awaitsDispatch_of {s : State} {w : WorkOrder} {op : Nat} (ht : s.pace.tripped = false)
    (hop : w.opcode.toNat = op) (hno : w.decided = none) (hph : w.phase = .waiting) (hheld : s.heldByQfence w = false) :
    s.awaitsDispatch w op = true := by
  simp [State.awaitsDispatch, ht, hop, hno, hph, hheld]

/-- A Hearth that holds a Stoker other than a fresh one is no fresh Hearth. -/
theorem Hearth.ne_of_stoker {x : Hearth} {k : Nat} (h : x.stoker k ≠ {}) : x ≠ {} := by
  rintro rfl
  exact h rfl

theorem Stoker.ne_of_st {y : Stoker} {st : StSt} (h : y.st = st) (hst : st ≠ .free) : y ≠ {} := by
  rintro rfl
  exact hst h.symm

theorem Hearth.setStoker_stoker_of_ne (x : Hearth) (k : Nat) {y : Stoker} (hy : y ≠ {}) : (x.setStoker k y).stoker k = y :=
  mget_mset_self _ _ _ _ hy

/-- The Stoker that a RUN is given, at BASE + OFFSET of its program (R289). -/
def runStoker (w : WorkOrder) (p : Prog) : Stoker :=
  { freshStoker w with st := .ready, pc := p.base + w.offset, base := p.base, len := p.length }

theorem runStoker_ne (w : WorkOrder) (p : Prog) : runStoker w p ≠ {} := Stoker.ne_of_st (st := .ready) rfl (by decide)

theorem Hearth.startRun_stoker {x : Hearth} {w : WorkOrder} {k : Nat} {p : Prog} (hk : x.freeStoker = some k)
    (hp : x.runProg w.gal w.program = some p) : (x.startRun w).stoker k = runStoker w p := by
  rw [Hearth.startRun, hk, hp]
  exact Hearth.setStoker_stoker_of_ne _ _ (runStoker_ne w p)

/-- The Stoker that a STOVE_LOAD is given (R290). -/
def loadStoker (w : WorkOrder) : Stoker := { freshStoker w with st := .parkedCall, wait := .load }

theorem loadStoker_ne (w : WorkOrder) : loadStoker w ≠ {} := Stoker.ne_of_st (st := .parkedCall) rfl (by decide)

/-- The load of a STOVE_LOAD in the slice's queue (R435). -/
def stoveLoadOf (w : WorkOrder) (k : Nat) : StoveLoad :=
  { gal := w.gal, wo := w.id, stoker := k, pc := 0, src := w.argAddr, len := w.length, order := true }

theorem Hearth.startLoad_of_free {x : Hearth} {w : WorkOrder} {k : Nat} (hk : x.freeStoker = some k) :
    (x.startLoad w).stoker k = loadStoker w ∧ (x.startLoad w).stove.queue = x.stove.queue ++ [.load (stoveLoadOf w k)] := by
  rw [Hearth.startLoad, hk]
  exact ⟨Hearth.setStoker_stoker_of_ne x k (loadStoker_ne w), rfl⟩

/-- The work order is dispatched. -/
def State.running (s : State) (n : Nat) : State := s.updWo n fun w => { w with phase := .running }

section Dispatch
variable {s : State} {n : Nat} {w : WorkOrder} (hw : s.wo? n = some w)
include hw

theorem State.runDispatch_of_ready (hwait : s.awaitsDispatch w opRun = true) (hfree : s.stokersFree w = true) :
    s.runDispatch n = (s.running n).updHearths (hearthsOf w.hearths) fun _ x => x.startRun w := by
  rw [State.runDispatch, hw]
  exact if_neg (by simp [hwait, hfree])

theorem State.stoveLoadDispatch_of_ready (hwait : s.awaitsDispatch w opStoveLoad = true) (hfree : s.stokersFree w = true)
    (hgood : ∀ j ∈ hearthsOf w.hearths, (s.hearth j).stove.fenced = false) :
    s.stoveLoadDispatch n = (s.running n).updHearths (hearthsOf w.hearths) fun _ x => x.startLoad w := by
  have hnone : ((hearthsOf w.hearths).find? fun j => (s.hearth j).stove.fenced) = none := by
    rw [List.find?_eq_none]
    intro j hj
    simp [hgood j hj]
  rw [State.stoveLoadDispatch, hw]
  refine (if_neg (by simp [hwait, hfree])).trans ?_
  rw [hnone]
  rfl

/-! ### PLACE (R282 to R285) -/

/-- The access that reads the image of a PLACE. -/
def State.placeAcc (s : State) (n : Nat) (w : WorkOrder) : Acc :=
  { id := s.nextAcc, gal := w.gal, wo := some n, hearth := (hearthsOf w.hearths).head?.getD 0, stoker := 16, pc := 0
    seq := 0, agent := .imageRead, kind := .place, todo := byteRuns w.argAddr w.length, base := w.argAddr }

theorem State.placeDispatch_of_ready (hwait : s.awaitsDispatch w opPlace = true) (hmay : s.mayPlace w = true) :
    ∃ m, s.placeDispatch n = { s.running n with
      hearths := m, nextAcc := s.nextAcc + 1, accs := s.accs ++ [s.placeAcc n w] } := by
  obtain ⟨m, hm⟩ := foldl_onlyHearths (fun t h => ⟨_, (rfl : t.sweepProgs w.gal h = _)⟩) (hearthsOf w.hearths) (s.running n)
  refine ⟨m, ?_⟩
  rw [State.placeDispatch, hw]
  refine (if_neg (by simp [hwait, hmay])).trans ?_
  exact congrArg (fun t : State => { t with nextAcc := t.nextAcc + 1, accs := t.accs ++ [t.placeAcc n w] }) hm

/-- A PLACE that has copied every byte is recorded on each Hearth of its set, and retires. -/
theorem State.retire_of_placed (hno : w.decided = none) (hop : w.opcode.toNat = opPlace) (hdone : s.placeDone w = true) :
    s.retire n = (s.updHearths (hearthsOf w.hearths) fun h x => x.recordProg w (s.replacedBy w h)).commit n
      { status := w.retireStatus } := by
  have hrun : ¬ w.opcode.toNat = opRun := by rw [hop]; decide
  have hload : ¬ w.opcode.toNat = opStoveLoad := by rw [hop]; decide
  rw [State.retire, hw]
  dsimp only
  rw [if_neg (by simp [hno]), if_neg hrun, if_neg hload, if_pos hop, if_pos hdone]
  rfl

end Dispatch

/-- The entry of a recorded program in the directory (R282). -/
def placedProg (w : WorkOrder) (replaced : Bool) : Prog :=
  { st := if replaced then .removing else .placed, gal := w.gal, program := w.program, base := w.offset, length := w.length }

theorem placedProg_ne (w : WorkOrder) (replaced : Bool) : placedProg w replaced ≠ {} := by
  intro h
  have hst : (if replaced then ProgSt.removing else .placed) = .empty := congrArg Prog.st h
  cases replaced
  · exact absurd hst (by decide)
  · exact absurd hst (by decide)

theorem Hearth.recordProg_prog (x : Hearth) (w : WorkOrder) (replaced : Bool) :
    (x.recordProg w replaced).prog (w.offset / 1024) = placedProg w replaced :=
  mget_mset_self _ _ _ _ (placedProg_ne w replaced)

theorem Hearth.recordProg_ne (x : Hearth) (w : WorkOrder) (replaced : Bool) : x.recordProg w replaced ≠ {} := by
  intro h
  have hprog := x.recordProg_prog w replaced
  rw [h] at hprog
  exact placedProg_ne w replaced hprog.symm

/-- Settles O17: each dispatch and the retirement of a PLACE are one operation on the Hearths of the set, read at Hearth `h`. That
a program which a later PLACE removes is REMOVING from the start is the model's log entry 115. -/
theorem workOrdersDispatch : Obligations.WorkOrdersDispatch := by
  unfold Obligations.WorkOrdersDispatch
  refine ⟨?stokers, ?copies, ?placed⟩
  case stokers =>
    intro id h k w s hw ht hno hph hheld hfree hh hset hk
    have hmem : h ∈ hearthsOf w.hearths := mem_hearthsOf.2 ⟨hh, hset⟩
    have hnodup := nodup_hearthsOf w.hearths
    refine ⟨fun hop p hp => ⟨_, rfl, ?_⟩, fun hop hgood => ⟨_, rfl, ?_⟩⟩
    · rw [State.runDispatch_of_ready hw (State.awaitsDispatch_of ht hop hno hph hheld) hfree]
      have hstoker := Hearth.startRun_stoker hk hp
      have hx : (((s.running id).updHearths (hearthsOf w.hearths) fun _ x => x.startRun w).hearth h) =
          (s.hearth h).startRun w :=
        State.updHearths_hearth _ _ hnodup hmem
          (Hearth.ne_of_stoker (hstoker.trans_ne (runStoker_ne w p)))
      exact ⟨State.updHearths_wos _ _ _, (congrArg (Hearth.stoker · k) hx).trans hstoker⟩
    · rw [State.stoveLoadDispatch_of_ready hw (State.awaitsDispatch_of ht hop hno hph hheld) hfree
        fun j hj => hgood j (mem_hearthsOf.1 hj).1 (mem_hearthsOf.1 hj).2]
      obtain ⟨hstoker, hqueue⟩ := Hearth.startLoad_of_free (w := w) hk
      have hx : (((s.running id).updHearths (hearthsOf w.hearths) fun _ x => x.startLoad w).hearth h) =
          (s.hearth h).startLoad w :=
        State.updHearths_hearth _ _ hnodup hmem
          (Hearth.ne_of_stoker (hstoker.trans_ne (loadStoker_ne w)))
      exact ⟨State.updHearths_wos _ _ _, (congrArg (Hearth.stoker · k) hx).trans hstoker,
        (congrArg (fun x : Hearth => x.stove.queue) hx).trans hqueue⟩
  case copies =>
    intro id w s hw ht hop hno hph hheld hmay
    obtain ⟨m, hm⟩ := State.placeDispatch_of_ready hw (State.awaitsDispatch_of ht hop hno hph hheld) hmay
    exact ⟨_, s.placeAcc id w, congrArg Host.Outcome.next hm, rfl, rfl, rfl, rfl, rfl, rfl, rfl, rfl, rfl⟩
  case placed =>
    intro id h w s hw hno hop hph hcopied hh hset hid
    have hdone : s.placeDone w = true := by simpa [State.placeDone, hph, hid] using hcopied
    refine ⟨_, congrArg Host.Outcome.next (State.retire_of_placed hw hno hop hdone), ?_, ?_⟩
    · have hw' : (s.updHearths (hearthsOf w.hearths) fun h x => x.recordProg w (s.replacedBy w h)).wo? id = some w :=
        (State.wo?_of_wos (State.updHearths_wos _ _ _) id).trans hw
      exact ⟨_, _, State.wo?_commit_self hw' hno _, rfl, rfl⟩
    · have hx : (s.updHearths (hearthsOf w.hearths) fun h x => x.recordProg w (s.replacedBy w h)).hearth h =
          (s.hearth h).recordProg w (s.replacedBy w h) :=
        State.updHearths_hearth _ _ (nodup_hearthsOf _) (mem_hearthsOf.2 ⟨hh, hset⟩) (Hearth.recordProg_ne _ _ _)
      exact (congrArg (Hearth.prog · (w.offset / 1024)) hx).trans (Hearth.recordProg_prog _ _ _)

end Sys2Proof.Machine

namespace Sys2Proof.Machine

open Sys2Proof.Safety

/-! # Retirement, completion records and pending vectors (O18) -/

/-! ### Retirement (R118, R120, R126) -/

section Retire
variable {s : State} {n : Nat} {w : WorkOrder} (hw : s.wo? n = some w) (hno : w.decided = none)
include hw hno

theorem State.qfenceRetire_of_last (hop : w.opcode.toNat = opQfence)
    (hlast : ∀ v ∈ s.wos, v.id < w.id → v.gal = w.gal → w.allQueues = false ∧ v.queue ≠ w.queue) :
    s.qfenceRetire n = s.commit n { status := .complete } := by
  have hearlier : (s.wos.any fun v => decide (v.id < w.id) && w.fences v) = false := by
    rw [List.any_eq_false]
    intro v hv
    simp only [WorkOrder.fences, Bool.and_eq_true, Bool.or_eq_true, decide_eq_true_eq]
    rintro ⟨hid, hgal, hqueue⟩
    obtain ⟨hall, hne⟩ := hlast v hv hid hgal.symm
    obtain hall' | hqueue := hqueue
    · exact absurd (hall.symm.trans hall') (by decide)
    · exact hne hqueue.symm
  rw [State.qfenceRetire, hw]
  exact if_neg (by simp [hop, hno, hearlier])

theorem State.retire_of_run (hop : w.opcode.toNat = opRun) (hdone : s.runDone w = true) :
    s.retire n = s.commit n { status := w.retireStatus } := by
  rw [State.retire, hw]
  dsimp only
  rw [if_neg (by simp [hno]), if_pos hop, if_pos hdone]

theorem State.retire_of_loaded (hop : w.opcode.toNat = opStoveLoad) (hph : w.phase = .running)
    (hhalted : ∀ p ∈ s.stokersOf n, (s.stoker p.1 p.2).st = .halted) :
    s.retire n = s.commit n { status := w.retireStatus } := by
  have hrun : ¬ w.opcode.toNat = opRun := by rw [hop]; decide
  have hall : ((s.stokersOf n).all fun p => decide ((s.stoker p.1 p.2).st = .halted)) = true :=
    List.all_eq_true.2 fun p hp => decide_eq_true (hhalted p hp)
  rw [State.retire, hw]
  dsimp only
  rw [if_neg (by simp [hno]), if_neg hrun, if_pos hop, if_pos ⟨hph, hall⟩]

end Retire

theorem WorkOrder.retireStatus_eq (w : WorkOrder) :
    w.retireStatus = if w.clamp = true ∨ w.oobDrops ≠ 0 ∨ w.sparseDrops ≠ 0 then .completeWarn else .complete :=
  if_congr (by simp [or_assoc]) rfl rfl

/-! ### Completion records (R122 to R125) -/

/-- A queue written into a gallery is read back, where it is no fresh queue. -/
theorem State.setQueue_queue (s : State) (g q : Nat) {y : Queue} (hy : y ≠ {}) : ((s.setQueue g q y).gal g).queue q = y := by
  have hqueue : ((s.gal g).setQueue q y).queue q = y := mget_mset_self _ _ _ _ hy
  have hgal : (s.setQueue g q y).gal g = (s.gal g).setQueue q y := by
    refine mget_mset_self _ _ _ _ fun h => hy ?_
    rw [← hqueue, h]
    rfl
  rw [hgal, hqueue]

/-- What has been sent stays sent. -/
theorem State.mem_raiseGal_out {s : State} {o : Out} (h : o ∈ s.out) (g v : Nat) : o ∈ (s.raiseGal g v).out := by
  have hraise (p : Port) : o ∈ (s.raise p v).out := by
    unfold State.raise
    dsimp only
    split
    · exact h
    · split
      · rwa [State.setPort_out]
      · exact List.mem_append_left _ h
  unfold State.raiseGal
  dsimp only
  split
  · exact hraise _
  · exact h

theorem State.dropWo_eq (s : State) (w : WorkOrder) :
    ∃ m, s.dropWo w = { s with wos := s.wos.filter (fun v => decide (v.id ≠ w.id)), hearths := m } := by
  refine foldl_onlyHearths (fun t h => ?_) _ _
  dsimp only
  split <;> split <;> exact ⟨_, rfl⟩

/-- The queue once a record of a tag is written (R124). -/
def Queue.recorded (y : Queue) (tag : BitVec 16) : Queue := { y with written := y.written + 1, unread := y.unread ++ [tag] }

theorem Queue.recorded_ne (y : Queue) (tag : BitVec 16) : y.recorded tag ≠ {} := by
  intro h
  have hunread : y.unread ++ [tag] = [] := congrArg Queue.unread h
  simp at hunread

section Record
variable (s : State) (w : WorkOrder) (d : Decision)

/-- A record that is written takes the work order away and counts in its queue. -/
theorem State.recordEnds_spec :
    (s.recordEnds w d).wos = s.wos.filter (fun v => decide (v.id ≠ w.id)) ∧
      ((s.recordEnds w d).gal w.gal).queue w.queue = ((s.gal w.gal).queue w.queue).recorded w.tag ∧
      ∀ o ∈ s.out, o ∈ (s.recordEnds w d).out := by
  let y := (s.gal w.gal).queue w.queue
  let u := s.setQueue w.gal w.queue (y.recorded w.tag)
  obtain ⟨m, hm⟩ := u.dropWo_eq w
  have hends : s.recordEnds w d = u.dropWo w ∨ s.recordEnds w d = (u.dropWo w).raiseGal w.gal y.vector.toNat := by
    unfold State.recordEnds
    dsimp only
    split
    · exact .inr rfl
    · exact .inl rfl
  have hwork : (s.recordEnds w d).work = (u.dropWo w).work := by
    obtain h | h := hends
    · rw [h]
    · rw [h, State.raiseGal_work]
  have hgal : (u.dropWo w).gal w.gal = u.gal w.gal := by rw [hm]; rfl
  have hout : (u.dropWo w).out = s.out := by rw [hm]; rfl
  refine ⟨?_, ?_, fun o ho => ?_⟩
  · rw [State.wos_of_work hwork, hm]
    rfl
  · rw [State.gal_of_work hwork, hgal]
    exact s.setQueue_queue _ _ (y.recorded_ne w.tag)
  · rw [← hout] at ho
    obtain h | h := hends
    · rwa [h]
    · rw [h]
      exact State.mem_raiseGal_out ho _ _

variable {s w d} {n a : Nat} {i : Option Nat}

theorem State.recordLost_of_usable {g : Nat} (h : (s.port (s.gal g).home).usable = true) (va : Nat) :
    s.recordLost g va = false := by
  unfold State.recordLost
  split
  · simp [h]
  · rfl

theorem State.completionRecord_of_host (hw : s.wo? n = some w) (hd : w.decided = some d) (ht : s.pace.tripped = false)
    (hleft : s.writesLeft n = false) (husable : (s.port (s.gal w.gal).home).usable = true)
    (hcheck : s.check w.gal .recordWrite (((s.gal w.gal).queue w.queue).cqBase.toNat
      + 32 * (((s.gal w.gal).queue w.queue).written.toNat % 64)) = .ok (.host a) i) :
    s.completionRecord n = (s.send (.hostWrite (s.gal w.gal).home (s.gal w.gal).pasid a
      (recordBytes w d (phaseOf ((s.gal w.gal).queue w.queue).written.toNat 64)))).recordEnds w d := by
  unfold State.completionRecord
  rw [hw]
  dsimp only
  rw [hd]
  dsimp only
  rw [hleft, State.recordLost_of_usable husable]
  simp only [Bool.false_eq_true, if_false, State.writeRecord, ht, hcheck, husable, if_true]

end Record

/-! ### Pending vectors (R180, R831) -/

theorem mwfFrom_key {α : Type} [DecidableEq α] {d : α} {m : Sparse α} {lo : Nat} (h : mwfFrom d lo m = true) {e : Nat × α}
    (he : e ∈ m) : lo ≤ e.1 := by
  induction m generalizing lo with
  | nil => simp at he
  | cons c m ih =>
    simp only [mwfFrom, Bool.and_eq_true, decide_eq_true_eq] at h
    obtain ⟨⟨hlo, -⟩, hm⟩ := h
    obtain rfl | he := List.mem_cons.1 he
    · exact hlo
    · exact (hlo.trans (Nat.le_succ _)).trans (ih hm he)

/-- Writing the default at a listed key takes its entry out. -/
theorem mset_default_at {α : Type} [DecidableEq α] (d : α) (l r : Sparse α) (e : Nat × α) (lo : Nat)
    (h : mwfFrom d lo (l ++ e :: r) = true) : mset d (l ++ e :: r) e.1 d = l ++ r := by
  induction l generalizing lo with
  | nil => simp [mset]
  | cons c l ih =>
    simp only [List.cons_append, mwfFrom, Bool.and_eq_true, decide_eq_true_eq] at h
    obtain ⟨-, hm⟩ := h
    have hkey : c.1 + 1 ≤ e.1 := mwfFrom_key hm (by simp)
    simp only [List.cons_append, mset, if_neg (by omega : ¬ e.1 < c.1), if_neg (by omega : ¬ e.1 = c.1), ih _ hm]

/-- Port `p` is `x`, and `o` is what the device has sent. -/
def State.porting (s : State) (p : Port) (x : PortState) (o : List Out) : State := { s.setPort p x with out := o }

@[simp] theorem State.porting_port (s : State) (p : Port) (x : PortState) (o : List Out) : (s.porting p x o).port p = x := by
  cases p <;> rfl

theorem State.porting_self (s : State) (p : Port) : s.porting p (s.port p) s.out = s := by
  cases p <;> rfl

theorem State.porting_send (s : State) (p : Port) (x y : PortState) (o : List Out) (m : Out) :
    ((s.porting p x o).setPort p y).send m = s.porting p y (o ++ [m]) := by
  cases p <;> rfl

/-- The MSI-X table masks the pending vector. -/
def PortState.masks (x : PortState) (e : Nat × Bool) : Bool := (mget {} x.msix e.1).masked

/-- The message of a pending vector. -/
def PortState.message (x : PortState) (p : Port) (e : Nat × Bool) : Out :=
  .msix p (mget {} x.msix e.1).addr (mget {} x.msix e.1).data

/-- A pending vector is sent, unless it is masked. -/
def sendVector (p : Port) (x : PortState) (t : State) (e : Nat × Bool) : State :=
  if x.masks e then t
  else (t.setPort p { t.port p with pba := mset false (t.port p).pba e.1 false }).send (x.message p e)

/-- The vectors of `l` are sent in order; those of `kept` came before them and are masked. -/
theorem foldl_sendVector (s : State) (p : Port) (x : PortState) (l kept : Sparse Bool) (o : List Out)
    (h : mwf false (kept ++ l) = true) :
    l.foldl (sendVector p x) (s.porting p { x with pba := kept ++ l } o) =
      s.porting p { x with pba := kept ++ l.filter x.masks } (o ++ (l.filter fun e => !x.masks e).map (x.message p)) := by
  induction l generalizing kept o with
  | nil => simp
  | cons e l ih =>
    rw [List.foldl_cons]
    cases hm : x.masks e with
    | true =>
      have hskip : sendVector p x (s.porting p { x with pba := kept ++ e :: l } o) e =
          s.porting p { x with pba := (kept ++ [e]) ++ l } o := by
        rw [sendVector, if_pos hm, List.append_assoc, List.singleton_append]
      rw [hskip, ih (kept ++ [e]) o (by simpa using h)]
      simp [hm]
    | false =>
      have htake := mset_default_at false kept l e 0 h
      have hsend : sendVector p x (s.porting p { x with pba := kept ++ e :: l } o) e =
          s.porting p { x with pba := kept ++ l } (o ++ [x.message p e]) := by
        rw [sendVector, if_neg (by simp [hm]), State.porting_port, State.porting_send, htake]
      rw [hsend, ih kept _ (htake ▸ mwf_mset false _ e.1 false h)]
      simp [hm]

theorem State.sendPending_of_ready {s : State} {p : Port} {x : PortState} (hx : x = s.port p) (hpba : mwf false x.pba = true)
    (hreset : x.inReset = false) (hen : x.msixEnable = true) (hup : x.dllUp = true) (hmask : x.funcMask = false) :
    s.sendPending p = s.porting p { x with pba := x.pba.filter x.masks }
      (s.out ++ (x.pba.filter fun e => !x.masks e).map (x.message p)) := by
  subst hx
  have hfold : s.sendPending p = (s.port p).pba.foldl (sendVector p (s.port p)) (s.porting p (s.port p) s.out) := by
    rw [State.porting_self]
    exact if_neg (by simp [hreset, hen, hup, hmask])
  exact hfold.trans (foldl_sendVector s p (s.port p) (s.port p).pba [] s.out hpba)

/-- Settles O18: retirement by opcode, the record by what `State.recordEnds` changes, and the vectors by induction on the
PBA. What a RUN must have finished before it retires is the model's log entry 40. -/
theorem retirementAndRecords : Obligations.RetirementAndRecords := by
  unfold Obligations.RetirementAndRecords
  refine ⟨?retires, ?records, ?vectors⟩
  case retires =>
    intro id w s hw hno verdict commits ends
    have hstatus : w.retireStatus = ends := w.retireStatus_eq
    refine ⟨fun hop hlast => congrArg Host.Outcome.next (State.qfenceRetire_of_last hw hno hop hlast), ?_, ?_⟩
    · intro hop hdone
      rw [← hstatus]
      exact congrArg Host.Outcome.next (State.retire_of_run hw hno hop hdone)
    · intro hop hph hhalted
      rw [← hstatus]
      exact congrArg Host.Outcome.next (State.retire_of_loaded hw hno hop hph hhalted)
  case records =>
    intro id a i w d s y hw hd ht hleft hy hid husable hcheck
    subst hy hid
    refine ⟨_, congrArg Host.Outcome.next (State.completionRecord_of_host hw hd ht hleft husable hcheck), ?_⟩
    obtain ⟨hwos, hqueue, hout⟩ := State.recordEnds_spec (s.send (.hostWrite (s.gal w.gal).home (s.gal w.gal).pasid a
      (recordBytes w d (phaseOf ((s.gal w.gal).queue w.queue).written.toNat 64)))) w d
    rw [hqueue]
    exact ⟨hwos, rfl, rfl, hout _ (List.mem_append_right _ (List.mem_singleton.2 rfl))⟩
  case vectors =>
    intro p s hcanon hreset hen hup hmask masked
    exact congrArg Host.Outcome.next (State.sendPending_of_ready rfl (hcanon.pba p) hreset hen hup hmask)

end Sys2Proof.Machine

namespace Sys2Proof.Machine

open Sys2Proof.Safety

/-! # The Keeper, LEDG_CFG and adoption (O21, O23, O25) -/

/-! ### Adoption (R174, R175) -/

theorem exec_portAdopt {s : State} (ht : s.pace.tripped = false) (p : Port) (g : GalleryId) :
    exec (.portAdopt p g) s = .next (s.portAdopt p g) :=
  congrArg Host.Outcome.next (State.reached_of_running ht _)

/-- Settles O21: each clause is one row of Table 4-13. -/
theorem adoptionMovesHomePort : Obligations.AdoptionMovesHomePort := by
  unfold Obligations.AdoptionMovesHomePort
  intro p g s ht answer
  rw [exec_portAdopt ht]
  unfold State.portAdopt
  refine ⟨fun hown => ?notOwner, fun hown hvacant => ?vacant, fun hown hst hhome => ?samePort,
    fun hown hst hhome hup => ?homeUp, fun hown hst hhome hdown => ?done⟩
  case notOwner => simp [hown, State.adoptResult, answer]
  case vacant => simp [hown, hvacant, State.adoptResult, answer]
  case samePort => simp [hown, hst, hhome, State.adoptResult, answer]
  case homeUp => simp [hown, hst, hhome, hup, State.adoptResult, answer]
  case done =>
    simp only [hown, hst, hhome, hdown, Bool.not_true, Bool.false_eq_true, if_false]
    cases p <;> rfl

/-! ### LEDG_CFG (R182) -/

/-- Settles O25: the four answers in their order. -/
theorem ledgerConfigurationJudged : Obligations.LedgerConfigurationJudged := by
  unfold Obligations.LedgerConfigurationJudged
  intro p v s tmo mib ht hup htmo hmib answer
  have hexec : exec (.ledgCfg p v) s = .next (s.ledgCfg p v.toNat) := by
    refine congrArg Host.Outcome.next ((State.reached_of_running ht _).trans (if_pos ?_))
    simpa using hup
  have htmo' : bits v.toNat 8 16 = tmo := by simp [htmo, bits, Nat.shiftRight_eq_div_pow]
  have hmib' : bits v.toNat 0 7 = mib := hmib.symm
  rw [hexec]
  unfold State.ledgCfg
  rw [htmo', hmib']
  refine ⟨fun hown => ?notOwner, fun hown hrange => ?range, fun hown hlo hhi hne hheld => ?linesHeld,
    fun hown hlo hhi hfree => ?ok⟩
  case notOwner => simp [hown, State.ledgResult, answer]
  case range => simp [hown, hrange, State.ledgResult, answer]
  case linesHeld => simp [hown, hlo, hhi, hne, hheld, State.ledgResult, answer]
  case ok =>
    have hjudged : ¬ (mib ≠ s.ledger.exchMib ∧ s.heldLines ≠ 0) := by tauto
    simp [hown, hlo, hhi, hjudged]

/-! ### Keeper takes and gives (R169, R170) -/

theorem exec_keeperTake {s : State} (ht : s.pace.tripped = false) (p : Port) (n : Fin 64) (tk : BitVec 16) (lease : BitVec 12) :
    exec (.keeperTake p n tk lease) s = .next (s.keeperTake p n tk lease.toNat) :=
  congrArg Host.Outcome.next (State.reached_of_running ht _)

theorem exec_keeperGive {s : State} (ht : s.pace.tripped = false) (p : Port) (n : Fin 64) (tk : BitVec 16) :
    exec (.keeperGive p n tk) s = .next (s.keeperGive p n tk) :=
  congrArg Host.Outcome.next (State.reached_of_running ht _)

theorem State.leaseEnd_toNat (s : State) (lease : BitVec 12) :
    s.leaseEnd lease.toNat = if lease = 0 then none else some (s.tb.elapsed + ms lease.toNat) := by
  have hzero : lease.toNat = 0 ↔ lease = 0 := BitVec.toNat_eq (y := 0#12) |>.symm
  simp only [State.leaseEnd, hzero]

/-- Table 4-10: a take of a slot that is not reserved, with a token that is not 0. -/
theorem State.keeperTake_of_token {n : Nat} (hn : ¬ (5 ≤ n ∧ n ≤ 15)) {tk : BitVec 16} (htk : tk ≠ 0) (s : State)
    (p : Port) (lease : Nat) :
    s.keeperTake p n tk lease = s.setSlot n (match (s.slot n).holder with
      | none => { s.slot n with holder := some (p, tk), gen := (s.slot n).gen + 1, expiry := s.leaseEnd lease }.setLast p .granted
      | some h => if h = (p, tk) then { s.slot n with expiry := s.leaseEnd lease }.setLast p .granted
          else (s.slot n).setLast p .refusedHeld) := by
  unfold State.keeperTake
  simp only [if_neg hn, if_neg htk]
  cases (s.slot n).holder with
  | none => rfl
  | some h =>
    obtain ⟨q, t⟩ := h
    simp only [Prod.mk.injEq]
    split <;> rfl

/-! ### Messages and records

What a message or a fault record changes of the device: pending vectors, the log and the Shared Store, where the ring lies, with
its lost lines, and what the device has sent. -/

/-- `t` is `s` but for that, and for the Keeper and the Ledger. A port in reset takes no message. -/
structure Beside (s t : State) : Prop where
  device : t = { s with
    portA := t.portA, portB := t.portB, keeper := t.keeper, ledger := t.ledger, shared := t.shared, lostLines := t.lostLines
    sparesUsed := t.sparesUsed, sparesNoted := t.sparesNoted, faults := t.faults, out := t.out }
  port : ∀ p, t.port p = { s.port p with pba := (t.port p).pba }
  inReset : ∀ p, (s.port p).inReset = true → t.port p = s.port p

/-- The same with the Keeper and the Ledger left alone. -/
structure Notes (s t : State) : Prop extends Beside s t where
  keeper : t.keeper = s.keeper
  ledger : t.ledger = s.ledger

theorem Beside.rfl' {s : State} : Beside s s := ⟨rfl, fun _ => rfl, fun _ _ => rfl⟩

theorem Beside.trans {s t u : State} (h : Beside s t) (k : Beside t u) : Beside s u where
  device := by
    have hu := k.device
    rw [h.device] at hu
    exact hu
  port p := by rw [k.port p, h.port p]
  inReset p hp := by
    have ht := h.inReset p hp
    rw [k.inReset p (ht ▸ hp), ht]

theorem Beside.ite {c : Prop} [Decidable c] {s t u : State} (ht : c → Beside s t) (hu : ¬ c → Beside s u) :
    Beside s (if c then t else u) := by
  split
  · exact ht ‹_›
  · exact hu ‹_›

theorem Beside.foldl {β : Type} {f : State → β → State} (h : ∀ t x, Beside t (f t x)) (l : List β) (s : State) :
    Beside s (l.foldl f s) :=
  List.foldlRecOn (motive := fun (t : State) => Beside s t) _ _ .rfl' fun t ht x _ => ht.trans (h t x)

theorem Beside.tb {s t : State} (h : Beside s t) : t.tb = s.tb := by rw [h.device]
theorem Beside.acc {s t : State} (h : Beside s t) : t.acc = s.acc := by rw [h.device]
theorem Beside.gals {s t : State} (h : Beside s t) : t.gals = s.gals := by rw [h.device]
theorem Beside.wos {s t : State} (h : Beside s t) : t.wos = s.wos := by rw [h.device]
theorem Beside.hearths {s t : State} (h : Beside s t) : t.hearths = s.hearths := by rw [h.device]
theorem Beside.pieces {s t : State} (h : Beside s t) : t.pieces = s.pieces := by rw [h.device]
theorem Beside.held {s t : State} (h : Beside s t) : t.held = s.held := by rw [h.device]
theorem Beside.gal {s t : State} (h : Beside s t) (g : Nat) : t.gal g = s.gal g := by rw [State.gal, h.gals, State.gal]

theorem Notes.rfl' {s : State} : Notes s s := ⟨.rfl', rfl, rfl⟩

theorem Notes.trans {s t u : State} (h : Notes s t) (k : Notes t u) : Notes s u :=
  ⟨h.toBeside.trans k.toBeside, k.keeper.trans h.keeper, k.ledger.trans h.ledger⟩

theorem Notes.ite {c : Prop} [Decidable c] {s t u : State} (ht : c → Notes s t) (hu : ¬ c → Notes s u) :
    Notes s (if c then t else u) := by
  split
  · exact ht ‹_›
  · exact hu ‹_›

theorem Notes.foldl {β : Type} {f : State → β → State} (h : ∀ t x, Notes t (f t x)) (l : List β) (s : State) :
    Notes s (l.foldl f s) :=
  List.foldlRecOn (motive := fun (t : State) => Notes s t) _ _ .rfl' fun t ht x _ => ht.trans (h t x)

/-- An update of none of the ports, the Keeper and the Ledger. -/
theorem Notes.of_ports (s : State) (m l u n f o) :
    Notes s { s with shared := m, lostLines := l, sparesUsed := u, sparesNoted := n, faults := f, out := o } :=
  ⟨⟨rfl, fun p => by cases p <;> rfl, fun p _ => by cases p <;> rfl⟩, rfl, rfl⟩

theorem State.setPort_port (s : State) (p : Port) (x : PortState) : (s.setPort p x).port p = x := by
  cases p <;> rfl

theorem State.setPort_port_ne (s : State) {p q : Port} (h : q ≠ p) (x : PortState) : (s.setPort p x).port q = s.port q := by
  cases p <;> cases q <;> simp_all [State.port, State.setPort]

/-- The pending vectors of a port outside reset change. -/
theorem State.setPba_notes (s : State) (p : Port) (hp : (s.port p).inReset = false) (m : Sparse Bool) :
    Notes s (s.setPort p { s.port p with pba := m }) where
  device := by cases p <;> rfl
  port q := by
    by_cases hq : q = p
    · subst hq
      rw [State.setPort_port]
    · rw [State.setPort_port_ne s hq]
  inReset q hq := State.setPort_port_ne s (by rintro rfl; simp [hp] at hq) _
  keeper := s.setPort_keeper ..
  ledger := s.setPort_ledger ..

theorem State.send_notes (s : State) (o : Out) : Notes s (s.send o) := .of_ports ..

theorem State.raise_notes (s : State) (p : Port) (v : Nat) : Notes s (s.raise p v) :=
  .ite (fun _ => .rfl') fun h => .ite (fun _ => s.setPba_notes p (by simp at h; exact h.1.2) _) fun _ => s.send_notes _

theorem State.raiseDev_notes (s : State) (p : Port) (lo : Nat) : Notes s (s.raiseDev p lo) :=
  .ite (fun _ => s.raise_notes ..) fun _ => .rfl'

theorem State.raiseBoth_notes (s : State) (lo : Nat) : Notes s (s.raiseBoth lo) :=
  (s.raiseDev_notes ..).trans (State.raiseDev_notes ..)

theorem State.raisePeer_notes (s : State) (p : Port) : Notes s (s.raisePeer p) := s.raiseDev_notes ..

theorem State.logFault_notes (s : State) (f : FaultInfo) : Notes s (s.logFault f) := by
  unfold State.logFault
  extract_lets x r q
  split
  · exact .of_ports ..
  · refine Notes.trans ?_ (State.raiseBoth_notes _ 0)
    exact .of_ports ..

/-! ### Lease expiry (R171) -/

theorem State.raise_faults (s : State) (p : Port) (v : Nat) : (s.raise p v).faults = s.faults := by
  simp [State.raise, apply_ite State.faults]

theorem State.raiseDev_faults (s : State) (p : Port) (lo : Nat) : (s.raiseDev p lo).faults = s.faults := by
  simp [State.raiseDev, apply_ite State.faults, State.raise_faults]

theorem State.raiseBoth_faults (s : State) (lo : Nat) : (s.raiseBoth lo).faults = s.faults := by
  simp [State.raiseBoth, State.raiseDev_faults]

/-- A record is written to the log, or counted LOST (R737). -/
theorem State.logFault_head_or_lost (s : State) (f : FaultInfo) :
    (s.logFault f).faults.head = s.faults.head + 1 ∨ (s.logFault f).faults.lost = min 65535 (s.faults.lost + 1) := by
  unfold State.logFault
  dsimp only
  split
  · exact .inr rfl
  · rw [State.raiseBoth_faults]
    exact .inl rfl

/-- The slot once it has broken (R171). -/
def KeeperSlot.broke (x : KeeperSlot) : KeeperSlot := { x with holder := none, broken := true, expiry := none }

theorem KeeperSlot.broke_ne (x : KeeperSlot) : x.broke ≠ {} := fun h => by
  simpa [KeeperSlot.broke] using congrArg KeeperSlot.broken h

/-- The device with slot `n` broken, before its record. -/
def State.slotBroke (s : State) (n : Nat) : State :=
  let t := s.setSlot n (s.slot n).broke
  { t with keeper := { t.keeper with brokenBits := s.keeper.brokenBits ||| BitVec.ofNat 64 (2 ^ n) } }

theorem State.breakSlot_of_held {s : State} {n : Nat} (h : (s.slot n).holder ≠ none) (cause : Nat) :
    s.breakSlot n cause = ((s.slotBroke n).raiseBoth 16).logFault
      { event := 0x21, cls := 0, unitKind := 9, unitIndex := n, a := cause } :=
  if_neg h

theorem State.breakSlot_notes {s : State} {n : Nat} (h : (s.slot n).holder ≠ none) (cause : Nat) :
    Notes (s.slotBroke n) (s.breakSlot n cause) := by
  rw [State.breakSlot_of_held h]
  exact (State.raiseBoth_notes ..).trans (State.logFault_notes ..)

theorem State.slot_of_keeper {s t : State} (h : t.keeper.slots = s.keeper.slots) (n : Nat) : t.slot n = s.slot n := by
  rw [State.slot, h, State.slot]

/-- A slot that breaks, and the others. -/
theorem State.breakSlot_slot {s : State} {n : Nat} (h : (s.slot n).holder ≠ none) (cause : Nat) :
    (s.breakSlot n cause).slot n = (s.slot n).broke :=
  (State.slot_of_keeper (congrArg Keeper.slots (State.breakSlot_notes h cause).keeper) n).trans
    (mget_mset_self _ _ _ _ (s.slot n).broke_ne)

theorem State.breakSlot_slot_ne (s : State) {n j : Nat} (hj : j ≠ n) (cause : Nat) :
    (s.breakSlot n cause).slot j = s.slot j := by
  by_cases h : (s.slot n).holder = none
  · rw [State.breakSlot, if_pos h]
  · exact (State.slot_of_keeper (congrArg Keeper.slots (State.breakSlot_notes h cause).keeper) j).trans
      (mget_mset_ne _ _ _ _ _ hj)

/-- Settles O23: takes and gives by Table 4-10, a lease by what breaking a slot changes. -/
theorem keeperTakesGivesExpires : Obligations.KeeperTakesGivesExpires := by
  unfold Obligations.KeeperTakesGivesExpires
  refine ⟨?writes, ?expiry⟩
  case writes =>
    intro p n tk lease s x ht hx ends
    subst hx
    have hends : s.leaseEnd lease.toNat = ends := s.leaseEnd_toNat lease
    rw [exec_keeperTake ht, exec_keeperGive ht]
    refine ⟨fun hlo hhi => ?reserved, fun hn => ⟨fun hzero => ?zero, fun htk hfree => ?free, fun htk hsame => ?same,
      fun htk hheld hother => ?other⟩, fun hheld => ?give, fun hnot => ?badGive⟩
    case reserved => exact congrArg _ (if_pos ⟨hlo, hhi⟩)
    case zero => exact congrArg _ ((if_neg hn).trans (if_pos hzero))
    case free => rw [State.keeperTake_of_token hn htk, hfree, hends]
    case same => simp only [State.keeperTake_of_token hn htk, hsame, hends, if_true]
    case other =>
      obtain ⟨h, hh⟩ := Option.ne_none_iff_exists'.1 hheld
      have hne : h ≠ (p, tk) := fun he => hother (he ▸ hh)
      simp only [State.keeperTake_of_token hn htk, hh, if_neg hne]
    case give => exact congrArg _ (if_pos hheld)
    case badGive => exact congrArg _ (if_neg hnot)
  case expiry =>
    intro n d s hd hheld
    have hexec : exec (.keeperLeaseExpiry n) s = .next (if s.tb.elapsed < d then s else s.breakSlot n.val 0) :=
      congrArg Host.Outcome.next (by rw [hd])
    rw [hexec]
    refine ⟨fun hearly => by rw [if_pos hearly], fun hlate => ⟨s.breakSlot n.val 0, by rw [if_neg (by omega)], ?_⟩⟩
    have hnotes := State.breakSlot_notes hheld 0
    refine ⟨State.breakSlot_slot hheld 0, fun j hj => s.breakSlot_slot_ne hj 0, congrArg Keeper.brokenBits hnotes.keeper, ?_,
      hnotes.gals, hnotes.hearths, hnotes.wos⟩
    rw [State.breakSlot_of_held hheld]
    have hrecord := State.logFault_head_or_lost ((s.slotBroke n.val).raiseBoth 16)
      { event := 0x21, cls := 0, unitKind := 9, unitIndex := n.val, a := 0 }
    rwa [State.raiseBoth_faults] at hrecord

end Sys2Proof.Machine

namespace Sys2Proof.Machine

open Sys2Proof.Safety

/-! # The Ledger (O24, O26, O27, O28) -/

/-! ### Accesses beyond EXCH_MIB (R153, R163) -/

theorem State.m2sRequest_of_beyond {s : State} {r : M2SReq} (h : s.exchBytes ≤ 64 * r.line) (p : Port) (v : Verdict) :
    s.m2sRequest p r v = { s with
      ledger := { s.ledger with outRange := min 0xFFFFFFFF (s.ledger.outRange + 1) }
      out := s.out ++ [match r.op with | .write _ => .s2mCmp p r.line | _ => .s2mData p r.line [] true] } := by
  rw [State.m2sRequest, if_pos h]
  obtain ⟨l, op⟩ := r
  cases op <;> rfl

/-- Settles O26: both accesses test the range first. -/
theorem accessBeyondExchange : Obligations.AccessBeyondExchange := by
  unfold Obligations.AccessBeyondExchange
  intro p s
  refine ⟨fun r v hbeyond => ?m2s, fun w off d be vs ht hbeyond => ?bar4⟩
  case m2s =>
    refine (congrArg Host.Outcome.next (State.m2sRequest_of_beyond hbeyond p v)).trans ?_
    obtain ⟨l, op⟩ := r
    cases op <;> rfl
  case bar4 =>
    refine congrArg Host.Outcome.next ?_
    rw [State.bar4Access, if_neg (by simp [ht]), if_pos (show s.exchBytes < _ from hbeyond)]
    cases w <;> rfl

/-! ### One owner (R184) -/

/-- Refutes O24: the statement takes every state, also one where a port that holds a line in I still owes the answer to a snoop
of it. Port A holds line 0 in E, port B's snoop of it is unresolved, and B's BIRsp, which reports S, records S for B beside A's
E. The Ledger snoops no port that holds I (`Line.needs`): an invariant would have to say so of the unresolved snoops too. -/
theorem not_ledgerHoldsOneOwner : ¬ Obligations.LedgerHoldsOneOwner := by
  unfold Obligations.LedgerHoldsOneOwner
  intro h
  let s : State := { ledger := { lines := [(0, { a := .e, snoopB := some 0 })] }, pending := [.birsp .b 0 .s] }
  have hone : ∀ l, ((s.line l).a = .e → (s.line l).b = .i) ∧ ((s.line l).b = .e → (s.line l).a = .i) := by
    intro l
    by_cases hl : l = 0 <;> simp [s, State.line, mget, hl]
  obtain ⟨-, hkept⟩ := h s { ledger := { lines := [(0, { a := .e, b := .s })] } } ⟨rfl, hone⟩ rfl
  exact absurd ((hkept 0).1 rfl) (by decide)

end Sys2Proof.Machine

namespace Sys2Proof.Machine

open Sys2Proof.Safety

/-! # Exchange lines (O27, O28) -/

/-! ### A line after an update -/

/-- Writing what is there leaves a canonical map as it is. -/
theorem mset_mget_of {α : Type} [DecidableEq α] (d : α) (m : Sparse α) (lo k : Nat) (h : mwfFrom d lo m = true) :
    mset d m k (mget d m k) = m := by
  induction m generalizing lo with
  | nil => simp [mset, mget]
  | cons e m ih =>
    obtain ⟨k', v⟩ := e
    simp only [mwfFrom, Bool.and_eq_true, decide_eq_true_eq] at h
    obtain ⟨⟨-, hv⟩, hm⟩ := h
    obtain hk | rfl | hk := Nat.lt_trichotomy k k'
    · have hbelow : mget d m k = d := mget_below d m (k' + 1) k hm (by omega)
      simp [mset, mget, hk, hk.ne, hbelow]
    · simp [mset, mget, hv]
    · simp [mset, mget, hk.not_gt, hk.ne', ih _ hm]

theorem mset_mget {α : Type} [DecidableEq α] (d : α) (m : Sparse α) (k : Nat) (h : mwf d m = true) :
    mset d m k (mget d m k) = m := mset_mget_of d m 0 k h

section Lines
variable {s : State} (h : mwf {} s.ledger.lines = true) (l : Nat)
include h

theorem State.setLine_line (x : Line) : (s.setLine l x).line l = x := mget_mset_same _ _ _ _ h

theorem State.setLine_lines (x : Line) : mwf {} (s.setLine l x).ledger.lines = true := mwf_mset _ _ _ _ h

theorem State.setLine_self : s.setLine l (s.line l) = s := by
  rw [State.setLine, State.line, mset_mget _ _ _ h]

theorem State.setLine_setLine (x y : Line) : (s.setLine l x).setLine l y = s.setLine l y := by
  simp only [State.setLine, mset_mset _ _ _ _ _ h]

end Lines

theorem State.setLine_line_ne (s : State) {l j : Nat} (hj : j ≠ l) (x : Line) : (s.setLine l x).line j = s.line j :=
  mget_mset_ne _ _ _ _ _ hj

theorem State.line_of_ledger {s t : State} (h : t.ledger.lines = s.ledger.lines) (l : Nat) : t.line l = s.line l := by
  rw [State.line, h, State.line]

/-! ### What a port holds of a line, and its snoop -/

@[simp] theorem otherPort_ne (p : Port) : otherPort p ≠ p := by cases p <;> decide
@[simp] theorem Line.setHold_snoopOf (x : Line) (p q : Port) (h : LineHold) : (x.setHold p h).snoopOf q = x.snoopOf q := by
  cases p <;> cases q <;> rfl
@[simp] theorem Line.setHold_waiting (x : Line) (p : Port) (h : LineHold) : (x.setHold p h).waiting = x.waiting := by
  cases p <;> rfl
@[simp] theorem Line.setSnoop_waiting (x : Line) (p : Port) (v : Option Nat) : (x.setSnoop p v).waiting = x.waiting := by
  cases p <;> rfl

/-- Nothing waits at the line: there is nothing to pump. -/
theorem State.pumpLines_of_unwaited {s : State} {l : Nat} (h : (s.line l).waiting = []) : s.pumpLines [l] = s := by
  simp [State.pumpLines, h, State.pumpLine]

/-! ### Host accesses (R163, R164, R187, R188) -/

section Requests
variable {s : State} {p : Port}

theorem State.m2sRequest_of_ready {r : M2SReq} {v : Verdict} (hin : 64 * r.line < s.exchBytes)
    (hready : (s.line r.line).readyFor (.m2s p r v) (m2sUse p r) = true) :
    s.m2sRequest p r v = ((s.unwait (.m2s p r v) r.line).serveM2S p r v).pumpLines [r.line] := by
  rw [State.m2sRequest, if_neg (by omega)]
  simp [State.tryHost, State.askLines, hready]

theorem State.m2sRequest_of_unready {r : M2SReq} {v : Verdict} (hin : 64 * r.line < s.exchBytes)
    (hready : (s.line r.line).readyFor (.m2s p r v) (m2sUse p r) = false) :
    s.m2sRequest p r v = s.askLine (.m2s p r v) (m2sUse p r) r.line := by
  rw [State.m2sRequest, if_neg (by omega)]
  simp [State.tryHost, State.askLines, hready]

variable {write : Bool} {off : Nat} {d : List Byte} {be : List Bool} {vs : List Verdict}

theorem State.bar4Access_of_ready (ht : s.pace.tripped = false) (hin : off + be.length ≤ s.exchBytes)
    (hready : ∀ l ∈ linesOf off be.length,
      (s.line l).readyFor (.bar4 p write off d be vs) (if write then .devWrite else .devRead) = true) :
    s.bar4Access p write off d be vs =
      (((linesOf off be.length).foldl (fun t l => t.unwait (.bar4 p write off d be vs) l) s).serveBar4
        p write off d be vs).pumpLines (linesOf off be.length) := by
  rw [State.bar4Access, if_neg (by simp [ht]), if_neg (by omega)]
  simp only [State.tryHost, State.askLines, if_pos (List.all_eq_true.2 hready), if_true]

theorem State.bar4Access_of_unready (ht : s.pace.tripped = false) (hin : off + be.length ≤ s.exchBytes)
    (hready : ∃ l ∈ linesOf off be.length,
      (s.line l).readyFor (.bar4 p write off d be vs) (if write then .devWrite else .devRead) = false) :
    s.bar4Access p write off d be vs = (linesOf off be.length).foldl
      (fun t l => t.askLine (.bar4 p write off d be vs) (if write then .devWrite else .devRead) l) s := by
  obtain ⟨l, hl, hlr⟩ := hready
  have hall : ¬ ((linesOf off be.length).all fun l => (s.line l).readyFor (.bar4 p write off d be vs)
      (if write then .devWrite else .devRead)) = true := fun h => by simp [List.all_eq_true.1 h l hl] at hlr
  rw [State.bar4Access, if_neg (by simp [ht]), if_neg (by omega)]
  simp only [State.tryHost, State.askLines, if_neg hall, Bool.false_eq_true, if_false]

end Requests

/-! ### A request at a line where nothing waits and no snoop is out (R185 to R187) -/

/-- The other port's snoop is all that a host request can need. -/
theorem Line.needs_own (x : Line) (p : Port) (r : M2SReq) : x.needs (m2sUse p r) p = none := by
  obtain ⟨l, op⟩ := r
  cases op <;> simp [Line.needs, m2sUse]

/-- A port that holds E is snooped for data when S or I is asked for; one that holds S or E is snooped out for anything else. -/
theorem Line.needs_other (x : Line) (p : Port) (l : Nat) (op : M2SOp) :
    x.needs (m2sUse p ⟨l, op⟩) (otherPort p) = match op with
      | .readS | .readI => if x.holdOf (otherPort p) = .e then some false else none
      | .readE | .write _ => if x.holdOf (otherPort p) = .i then none else some true := by
  cases op <;> exact if_neg (otherPort_ne p).symm

section Quiet
variable {x : Line} (ha : x.snoopA = none) (hb : x.snoopB = none) (hw : x.waiting = [])
include ha hb hw

theorem Line.readyFor_of_quiet (w : Waiter) (p : Port) (r : M2SReq) :
    x.readyFor w (m2sUse p r) = (x.needs (m2sUse p r) (otherPort p)).isNone := by
  have hown := x.needs_own p r
  cases p <;> simp_all [Line.readyFor, Line.pending, otherPort]

variable {s : State} {l : Nat} (hx : x = s.line l) (hc : mwf {} s.ledger.lines = true)
include hx

/-- R188: the request waits, and the other port is snooped. -/
theorem State.askLine_of_quiet {p : Port} {r : M2SReq} {inv : Bool} (w : Waiter)
    (hneeds : x.needs (m2sUse p r) (otherPort p) = some inv) :
    s.askLine w (m2sUse p r) l = (s.setLine l { x with waiting := [w] }).sendSnoop l (otherPort p) inv := by
  have hready : x.readyFor w (m2sUse p r) = false := by rw [Line.readyFor_of_quiet ha hb hw, hneeds]; rfl
  have hown := x.needs_own p r
  have hneeds' (q : Port) : Line.needs { x with waiting := [w] } (m2sUse p r) q = x.needs (m2sUse p r) q := by
    cases q <;> rfl
  unfold State.askLine
  rw [← hx]
  simp only [hready, hw, List.contains_nil, List.nil_append, Bool.false_eq_true, if_false, Line.pending, ha, hb]
  cases p <;> simp_all [otherPort]

/-- A snoop is sent, and the request waits. -/
theorem State.m2sRequest_of_snooping {p : Port} {op : M2SOp} {v : Verdict} {inv : Bool} (hin : 64 * l < s.exchBytes)
    (hc : mwf {} s.ledger.lines = true) (hneeds : x.needs (m2sUse p ⟨l, op⟩) (otherPort p) = some inv) :
    ∃ t, exec (.m2sRequest p ⟨l, op⟩ v) s = .next t ∧
      t = { s with
        ledger := { s.ledger with lines := t.ledger.lines }, out := s.out ++ [.bisnp (otherPort p) l inv] } ∧
      t.line l = { x.setSnoop (otherPort p) (some s.tb.elapsed) with waiting := [.m2s p ⟨l, op⟩ v] } ∧
      ∀ j, j ≠ l → t.line j = s.line j := by
  have hready : x.readyFor (.m2s p ⟨l, op⟩ v) (m2sUse p ⟨l, op⟩) = false := by
    rw [Line.readyFor_of_quiet ha hb hw, hneeds]
    rfl
  have hwaits := State.setLine_lines hc l { x with waiting := [Waiter.m2s p ⟨l, op⟩ v] }
  refine ⟨(s.setLine l { x with waiting := [.m2s p ⟨l, op⟩ v] }).sendSnoop l (otherPort p) inv,
    congrArg Host.Outcome.next ?_, rfl, ?_, fun j hj => (State.setLine_line_ne _ hj _).trans (s.setLine_line_ne hj _)⟩
  · rw [State.m2sRequest_of_unready (r := ⟨l, op⟩) hin (hx ▸ hready), State.askLine_of_quiet ha hb hw hx _ hneeds]
  · refine (State.setLine_line hwaits l _).trans ?_
    rw [State.setLine_line hc]
    cases p <;> rfl

end Quiet

theorem State.unwait_of_unwaited {s : State} {l : Nat} (hw : (s.line l).waiting = []) (hc : mwf {} s.ledger.lines = true)
    (w : Waiter) : s.unwait w l = s := by
  have hline : { s.line l with waiting := (s.line l).waiting.filter fun v => decide (v ≠ w) } = s.line l := by
    rw [hw, List.filter_nil, ← hw]
  rw [State.unwait, hline, State.setLine_self hc]

/-! ### The check of a line that is read (R719, R721) -/

theorem State.logTransient_notes (s : State) (key : Nat) (f : FaultInfo) : Notes s (s.logTransient key f) := by
  unfold State.logTransient
  extract_lets due
  refine .ite (fun _ => ?_) fun _ => .rfl'
  refine Notes.trans ?_ (State.logFault_notes _ f)
  exact .of_ports ..

theorem State.transient_notes (s : State) (u : CheckUnit) (h off : Nat) (wo : Option Nat) :
    Notes s (s.transient u h off wo) := by
  have hcount : Notes s s.countTransient := .of_ports ..
  unfold State.transient
  dsimp only
  split <;> exact hcount.trans (State.logTransient_notes ..)

theorem State.loseLine_notes (s : State) (off : Nat) : Notes s (s.loseLine off) := by
  unfold State.loseLine
  extract_lets b n t
  have ht : Notes s t := .of_ports ..
  refine .ite (fun _ => ht.trans (.of_ports ..)) fun _ => .ite (fun _ => ht) fun _ => ?_
  refine Notes.trans ?_ (State.logFault_notes _ _)
  exact ht.trans (.of_ports ..)

theorem State.lastingLogged_notes (s : State) (u : CheckUnit) (h off : Nat) (wo : Option Nat) :
    Notes s (s.lastingLogged u h off wo) := by
  have hcount : Notes s s.countLasting := .of_ports ..
  unfold State.lastingLogged
  dsimp only
  split
  · exact hcount.trans (State.logFault_notes _ _)
  · exact hcount

theorem State.countCorrected_notes (s : State) (u : CheckUnit) : Notes s (s.countCorrected u) := by
  unfold State.countCorrected
  split
  · exact .rfl'
  · exact .rfl'
  · exact .of_ports ..

theorem State.judgeLine_notes (s : State) (v : Verdict) (off : Nat) : Notes s (s.judgeLine v off) := by
  unfold State.judgeLine
  split
  · exact .rfl'
  · exact s.countCorrected_notes _
  · exact s.transient_notes ..
  · exact (s.lastingLogged_notes ..).trans (State.loseLine_notes ..)

/-! ### A read that is granted (R185 to R187, R195) -/

/-- What a port holds of a line once its read is granted. -/
def grantOf : M2SOp → LineHold
  | .readS => .s
  | .readE => .e
  | .readI | .write _ => .i

theorem State.serveM2S_of_read {s : State} {w : State} {l : Nat} {v : Verdict} (hw : w = s.judgeLine v (s.exchStart + 64 * l))
    (p : Port) {op : M2SOp} (hop : ∀ d, op ≠ .write d) :
    s.serveM2S p ⟨l, op⟩ v = (w.setLine l ((s.line l).setHold p (grantOf op))).send (.s2mData p l
      (bytesAt w.shared (s.exchStart + 64 * l) 64) ((s.line l).poison || w.isLost ((s.exchStart + 64 * l) / 64))) := by
  have hledger : w.ledger = s.ledger := hw ▸ (s.judgeLine_notes ..).ledger
  have hline : w.line l = s.line l := State.line_of_ledger (congrArg Ledger.lines hledger) l
  have hstart : w.exchStart = s.exchStart := by rw [State.exchStart, hledger, State.exchStart]
  cases op with
  | write d => exact absurd rfl (hop d)
  | _ => simp only [State.serveM2S, ← hw, State.lineBytes, hline, hstart, grantOf]

/-- A read is granted, and nothing else waits at the line. -/
theorem State.m2sRequest_of_serving {s w : State} {x : Line} {l : Nat} {p : Port} {op : M2SOp} {v : Verdict}
    (ha : x.snoopA = none) (hb : x.snoopB = none) (hwait : x.waiting = []) (hx : x = s.line l)
    (hc : mwf {} s.ledger.lines = true) (hin : 64 * l < s.exchBytes) (hw : w = s.judgeLine v (s.exchStart + 64 * l))
    (hop : ∀ d, op ≠ .write d) (hneeds : x.needs (m2sUse p ⟨l, op⟩) (otherPort p) = none) :
    ∃ t, exec (.m2sRequest p ⟨l, op⟩ v) s = .next t ∧
      t = { w with
        ledger := { s.ledger with lines := t.ledger.lines }
        out := w.out ++ [.s2mData p l (bytesAt w.shared (s.exchStart + 64 * l) 64)
          (x.poison || w.isLost ((s.exchStart + 64 * l) / 64))] } ∧
      t.line l = x.setHold p (grantOf op) ∧ ∀ j, j ≠ l → t.line j = s.line j := by
  have hready : x.readyFor (.m2s p ⟨l, op⟩ v) (m2sUse p ⟨l, op⟩) = true := by
    rw [Line.readyFor_of_quiet ha hb hwait, hneeds]
    rfl
  have hledger : w.ledger = s.ledger := hw ▸ (s.judgeLine_notes ..).ledger
  have hlines : mwf {} w.ledger.lines = true := hledger ▸ hc
  have hserve := State.serveM2S_of_read hw p hop
  rw [← hx] at hserve
  have hline := State.setLine_line hlines l (x.setHold p (grantOf op))
  refine ⟨s.serveM2S p ⟨l, op⟩ v, congrArg Host.Outcome.next ?_, ?_, ?_, fun j hj => ?_⟩
  · rw [State.m2sRequest_of_ready (r := ⟨l, op⟩) hin (hx ▸ hready), State.unwait_of_unwaited (hx ▸ hwait) hc, hserve]
    refine State.pumpLines_of_unwaited ((congrArg Line.waiting hline).trans ?_)
    rw [Line.setHold_waiting, hwait]
  · rw [hserve, ← hledger]
    rfl
  · rw [hserve]
    exact hline
  · rw [hserve]
    exact (w.setLine_line_ne hj _).trans (State.line_of_ledger (congrArg Ledger.lines hledger) j)

/-- Settles O27: a host request by what it needs of the other port, a BAR4 access by whether each of its lines is ready. -/
theorem exchangeRequestsServed : Obligations.ExchangeRequestsServed := by
  unfold Obligations.ExchangeRequestsServed
  refine ⟨?m2s, ?bar4⟩
  case m2s =>
    intro p l v s x q hcanon hx hq hin ha hb hwait w data served snooped
    subst hq
    have hserved (op : M2SOp) (hop : ∀ d, op ≠ .write d) (hneeds : x.needs (m2sUse p ⟨l, op⟩) (otherPort p) = none) :
        served op (grantOf op) :=
      State.m2sRequest_of_serving ha hb hwait hx hcanon.lines hin rfl hop hneeds
    have hsnooped (op : M2SOp) (inv : Bool) (hneeds : x.needs (m2sUse p ⟨l, op⟩) (otherPort p) = some inv) : snooped op inv :=
      State.m2sRequest_of_snooping ha hb hwait hx hin hcanon.lines hneeds
    have hneeds := x.needs_other p l
    refine ⟨fun hne => ⟨hserved .readS nofun ((hneeds _).trans (if_neg hne)),
      hserved .readI nofun ((hneeds _).trans (if_neg hne))⟩, fun he =>
      ⟨hsnooped .readS false ((hneeds _).trans (if_pos he)), hsnooped .readI false ((hneeds _).trans (if_pos he))⟩,
      fun hi => hserved .readE nofun ((hneeds _).trans (if_pos hi)),
      fun hni => hsnooped .readE true ((hneeds _).trans (if_neg hni)), fun d => ⟨fun hi => congrArg Host.Outcome.next ?write,
      fun hni => hsnooped (.write d) true ((hneeds _).trans (if_neg hni))⟩⟩
    have hready : x.readyFor (.m2s p ⟨l, .write d⟩ v) (m2sUse p ⟨l, .write d⟩) = true := by
      rw [Line.readyFor_of_quiet ha hb hwait, (hneeds (.write d)).trans (if_pos hi)]
      rfl
    exact State.m2sRequest_of_ready (r := ⟨l, .write d⟩) hin (hx ▸ hready)
  case bar4 =>
    intro p off d be vs s ht hin rd wr ls
    exact ⟨fun hready => congrArg Host.Outcome.next (State.bar4Access_of_ready ht hin hready),
      fun hready => congrArg Host.Outcome.next (State.bar4Access_of_ready ht hin hready),
      fun hready => congrArg Host.Outcome.next (State.bar4Access_of_unready ht hin hready),
      fun hready => congrArg Host.Outcome.next (State.bar4Access_of_unready ht hin hready)⟩

/-! ### The end of a snoop (R189 to R196) -/

/-- Nothing waits at the line: its snoop resolves, and that is all. -/
theorem State.resolveSnoop_of_unwaited {s : State} {l : Nat} (hc : mwf {} s.ledger.lines = true) (hw : (s.line l).waiting = [])
    (p : Port) : s.resolveSnoop l p = s.setLine l ((s.line l).setSnoop p none) := by
  refine State.pumpLines_of_unwaited ((congrArg Line.waiting (State.setLine_line hc l _)).trans ?_)
  rw [Line.setSnoop_waiting, hw]

theorem State.cleanEvict_of_unsnooped {s : State} {p : Port} {l : Nat} (hc : mwf {} s.ledger.lines = true)
    (h : (s.line l).snoopOf p = none) : s.cleanEvict p l = s.setLine l ((s.line l).setHold p .i) := by
  unfold State.cleanEvict State.crossSnoop
  rw [State.setLine_line hc, Line.setHold_snoopOf, h]
  rfl

theorem State.cleanEvict_of_snooped {s : State} {p : Port} {l : Nat} (hc : mwf {} s.ledger.lines = true)
    (h : (s.line l).snoopOf p ≠ none) : s.cleanEvict p l = State.resolveSnoop
      { s.setLine l (((s.line l).setHold p .i).setLate p true) with
        ledger := { (s.setLine l (((s.line l).setHold p .i).setLate p true)).ledger with
          crossed := min 65535 (s.ledger.crossed + 1) } } l p := by
  unfold State.cleanEvict State.crossSnoop
  rw [State.setLine_line hc, Line.setHold_snoopOf, if_pos (Option.isSome_iff_ne_none.2 h), State.setLine_setLine hc]
  rfl

theorem State.snoopExpire_of_resolved {s : State} {p : Port} {l : Nat} (h : (s.line l).snoopOf p = none) :
    s.snoopExpire l p = s := by
  rw [State.snoopExpire, h]

theorem State.snoopExpire_of_early {s : State} {p : Port} {l d : Nat} (h : (s.line l).snoopOf p = some d)
    (hearly : s.tb.elapsed < d + us s.ledger.snpTimeout) : s.snoopExpire l p = s := by
  rw [State.snoopExpire, h]
  exact if_pos hearly

/-- The line, and the counts, once a snoop of port `p` has timed out (R194). -/
def State.snoopLost (s : State) (l : Nat) (p : Port) : State :=
  let x := s.line l
  let t := s.setLine l { x.setHold p .i with poison := x.poison || decide (x.holdOf p = .e) }
  { t with ledger := { t.ledger with
      timeouts := min 65535 (s.ledger.timeouts + 1)
      poisoned := min 65535 (s.ledger.poisoned + b2n (decide (x.holdOf p = .e))) } }

theorem State.snoopLost_lines {s : State} (hc : mwf {} s.ledger.lines = true) (l : Nat) (p : Port) :
    mwf {} (s.snoopLost l p).ledger.lines = true :=
  State.setLine_lines hc l _

theorem State.snoopLost_line {s : State} (hc : mwf {} s.ledger.lines = true) (l : Nat) (p : Port) :
    (s.snoopLost l p).line l = { (s.line l).setHold p .i with
      poison := (s.line l).poison || decide ((s.line l).holdOf p = .e) } :=
  State.setLine_line hc l _

/-- The timeout is recorded, and nothing waits at the line. -/
theorem State.snoopExpire_of_late {s : State} {p : Port} {l d : Nat} (hc : mwf {} s.ledger.lines = true)
    (h : (s.line l).snoopOf p = some d) (hw : (s.line l).waiting = []) (hlate : d + us s.ledger.snpTimeout ≤ s.tb.elapsed) :
    (s.snoopExpire l p).ledger = ((s.snoopLost l p).setLine l (((s.snoopLost l p).line l).setSnoop p none)).ledger := by
  let u := ((s.snoopLost l p).raiseBoth 48).logFault
    { event := 0x22, cls := 0, unitKind := 12, a := b2n (decide ((s.line l).holdOf p = .e)), b := l }
  have hexpire : s.snoopExpire l p = u.resolveSnoop l p := by
    rw [State.snoopExpire, h]
    exact if_neg (by omega)
  have hu : u.ledger = (s.snoopLost l p).ledger := ((State.raiseBoth_notes ..).trans (State.logFault_notes ..)).ledger
  have hline : u.line l = (s.snoopLost l p).line l := State.line_of_ledger (congrArg Ledger.lines hu) l
  have hwait : (u.line l).waiting = [] := by
    rw [hline, State.snoopLost_line hc]
    exact (Line.setHold_waiting ..).trans hw
  have hlines : mwf {} u.ledger.lines = true := hu ▸ State.snoopLost_lines hc l p
  rw [hexpire, State.resolveSnoop_of_unwaited hlines hwait, hline]
  simp only [State.setLine, hu]

/-- Only port `p`'s snoop is out. -/
theorem exec_snoopTimeout {s : State} {p : Port} {l : Nat} (hbefore : (s.line l).snoopOf (otherPort p) = none)
    (hafter : ((s.snoopExpire l p).line l).snoopOf (otherPort p) = none) :
    exec (.snoopTimeout l) s = .next (s.snoopExpire l p) := by
  refine congrArg Host.Outcome.next ?_
  cases p with
  | a => exact State.snoopExpire_of_resolved hafter
  | b => rw [State.snoopExpire_of_resolved (p := .a) hbefore]

/-- Settles O28, event by event. That an eviction counts in CROSSED and only the BIRsp after it in LATE_RSP, and that any other
BIRsp without a snoop changes nothing, is the model's log entry 48. -/
theorem snoopsEnd : Obligations.SnoopsEnd := by
  unfold Obligations.SnoopsEnd
  refine ⟨?answers, ?timeouts⟩
  case answers =>
    intro p l s x hx crossed
    subst hx
    refine ⟨fun st hsnoop => ?resolves, fun st hno hlate => ?late, fun st hno hlate => ?neither, fun hc hno => ?evicted,
      fun hc hsnoop => ?crosses, fun d hi => congrArg Host.Outcome.next (if_pos hi),
      fun d hheld => ⟨_, rfl, congrArg Host.Outcome.next (if_neg hheld)⟩⟩
    case resolves => exact congrArg Host.Outcome.next (if_pos (Option.isSome_iff_ne_none.2 hsnoop))
    case late => exact congrArg Host.Outcome.next ((if_neg (by simp [hno])).trans (if_pos hlate))
    case neither => exact congrArg Host.Outcome.next ((if_neg (by simp [hno])).trans (if_neg (by simp [hlate])))
    case evicted => exact congrArg Host.Outcome.next (State.cleanEvict_of_unsnooped hc.lines hno)
    case crosses => exact congrArg Host.Outcome.next (State.cleanEvict_of_snooped hc.lines hsnoop)
  case timeouts =>
    intro p l d s x hx
    subst hx
    refine ⟨rfl, fun hsnoop hother => ⟨fun hearly => ?early, fun hc hw hlate => ?late⟩⟩
    case early =>
      have hnone := State.snoopExpire_of_early hsnoop hearly
      exact (exec_snoopTimeout hother (hnone.symm ▸ hother)).trans (congrArg _ hnone)
    case late =>
      have hledger := State.snoopExpire_of_late hc.lines hsnoop hw hlate
      have hline : (s.snoopExpire l p).line l = { ((s.line l).setHold p .i).setSnoop p none with
          poison := (s.line l).poison || decide ((s.line l).holdOf p = .e) } := by
        rw [State.line_of_ledger (congrArg Ledger.lines hledger), State.setLine_line (State.snoopLost_lines hc.lines l p),
          State.snoopLost_line hc.lines]
        cases p <;> rfl
      have hafter : ((s.snoopExpire l p).line l).snoopOf (otherPort p) = none := by
        rw [hline, ← hother]
        cases p <;> rfl
      refine ⟨_, exec_snoopTimeout hother hafter, hline, congrArg Ledger.timeouts hledger, ?_⟩
      rw [hledger]
      simp only [State.setLine, State.snoopLost, b2n, decide_eq_true_eq]

end Sys2Proof.Machine

namespace Sys2Proof.Machine

open Sys2Proof.Safety

/-! # Ports: resets, links and what was held (O20) -/

/-! ### Lines that a port has lost (R194)

Once the Ledger has withdrawn a port's lines, the port holds none and no request of it waits. Pumping the lines keeps this: what
is served is another's. -/

/-- The port holds the line in I, and no request of it waits there. -/
structure Line.FreeOf (x : Line) (p : Port) : Prop where
  hold : x.holdOf p = .i
  waiting : ∀ w ∈ x.waiting, w.ofPort p = false

theorem Line.freeOf_default (p : Port) : Line.FreeOf {} p := ⟨by cases p <;> rfl, by simp⟩

theorem Line.FreeOf.of_eq {x y : Line} {p : Port} (h : x.FreeOf p) (hh : y.holdOf p = x.holdOf p)
    (hw : ∀ w ∈ y.waiting, w ∈ x.waiting) : y.FreeOf p :=
  ⟨hh.trans h.hold, fun w hmem => h.waiting w (hw w hmem)⟩

@[simp] theorem Line.setSnoop_holdOf (x : Line) (p q : Port) (v : Option Nat) : (x.setSnoop p v).holdOf q = x.holdOf q := by
  cases p <;> cases q <;> rfl
theorem Line.setHold_holdOf_ne (x : Line) {p q : Port} (hq : p ≠ q) (h : LineHold) : (x.setHold q h).holdOf p = x.holdOf p := by
  cases p <;> cases q <;> simp_all [Line.setHold, Line.holdOf]

/-- From `s` on only what lies beside the commands' own state has changed, and port `p` holds no line. -/
structure Freed (p : Port) (s t : State) : Prop where
  beside : Beside s t
  lines : mwf {} t.ledger.lines = true
  free : ∀ l, (t.line l).FreeOf p

theorem Beside.of_parts (s : State) (k g m l u n f o) :
    Beside s { s with
      keeper := k, ledger := g, shared := m, lostLines := l, sparesUsed := u, sparesNoted := n, faults := f, out := o } :=
  ⟨rfl, fun p => by cases p <;> rfl, fun p _ => by cases p <;> rfl⟩

theorem State.setLine_beside (s : State) (l : Nat) (x : Line) : Beside s (s.setLine l x) := .of_parts ..

theorem State.putShared_notes (s : State) (off : Nat) (bs : List (Byte × Byte)) : Notes s (s.putShared off bs) := .of_ports ..

section Freed
variable {p : Port} {s t u : State} (h : Freed p s t)
include h

theorem Freed.notes (k : Notes t u) : Freed p s u where
  beside := h.beside.trans k.toBeside
  lines := k.ledger ▸ h.lines
  free l := State.line_of_ledger (congrArg Ledger.lines k.ledger) l ▸ h.free l

theorem Freed.setLine (l : Nat) {x : Line} (hx : x.FreeOf p) : Freed p s (t.setLine l x) where
  beside := h.beside.trans (t.setLine_beside l x)
  lines := State.setLine_lines h.lines l x
  free j := by
    by_cases hj : j = l
    · rw [hj, State.setLine_line h.lines]
      exact hx
    · rw [State.setLine_line_ne t hj]
      exact h.free j

theorem Freed.send (o : Out) : Freed p s (t.send o) := h.notes (t.send_notes o)

theorem Freed.sendSnoop (l : Nat) (q : Port) (inv : Bool) : Freed p s (t.sendSnoop l q inv) :=
  (h.setLine l ((h.free l).of_eq (Line.setSnoop_holdOf ..) fun w hw => by rwa [Line.setSnoop_waiting] at hw)).send _

theorem Freed.askLine {w : Waiter} (hw : w.ofPort p = false) (use : LineUse) (l : Nat) : Freed p s (t.askLine w use l) := by
  unfold State.askLine
  extract_lets x y u v
  have hy : y.FreeOf p := by
    simp only [y]
    split
    · exact h.free l
    · refine ⟨(h.free l).hold, fun v hv => ?_⟩
      obtain hv | hv := List.mem_append.1 hv
      · exact (h.free l).waiting v hv
      · rwa [List.mem_singleton.1 hv]
  have hu : Freed p s u := h.setLine l hy
  have hv : Freed p s v := by
    simp only [v]
    split
    · exact hu.sendSnoop ..
    · exact hu
  split
  · exact h
  · split
    · exact hu
    · split
      · exact hv.sendSnoop ..
      · exact hv

theorem Freed.unwait (w : Waiter) (l : Nat) : Freed p s (t.unwait w l) :=
  h.setLine l ((h.free l).of_eq rfl fun _ hv => (List.mem_filter.1 hv).1)

theorem Freed.foldl {β : Type} {f : State → β → State} (hf : ∀ {t : State}, Freed p s t → ∀ x, Freed p s (f t x))
    (l : List β) : Freed p s (l.foldl f t) :=
  List.foldlRecOn (motive := fun (t : State) => Freed p s t) _ _ h fun _ ht x _ => hf ht x

theorem Freed.askLines {w : Waiter} (hw : w.ofPort p = false) (use : LineUse) (ls : List Nat) :
    Freed p s (t.askLines w use ls).1 := by
  unfold State.askLines
  split
  · exact h.foldl (fun ht l => ht.unwait w l) ls
  · exact h.foldl (fun ht l => ht.askLine hw use l) ls

theorem Freed.putExch (off : Nat) (bs : List (Byte × Byte)) : Freed p s (t.putExch off bs) := by
  unfold State.putExch
  extract_lets covered u
  have hu : Freed p s u := h.foldl (fun {v} hv l =>
    hv.setLine l (x := { v.line l with poison := false }) ((hv.free l).of_eq rfl fun _ hw => hw)) covered
  exact hu.notes (u.putShared_notes ..)

/-- A request of another port is served. -/
theorem Freed.serveM2S {q : Port} (hq : q ≠ p) (r : M2SReq) (v : Verdict) : Freed p s (t.serveM2S q r v) := by
  obtain ⟨l, op⟩ := r
  by_cases hop : ∃ d, op = .write d
  · obtain ⟨d, rfl⟩ := hop
    exact (h.putExch ..).send _
  · rw [State.serveM2S_of_read rfl q fun d hd => hop ⟨d, hd⟩]
    have hhold := (t.line l).setHold_holdOf_ne hq.symm (grantOf op)
    exact ((h.notes (t.judgeLine_notes ..)).setLine l
      ((h.free l).of_eq hhold fun w hw => by rwa [Line.setHold_waiting] at hw)).send _

theorem Freed.serveBar4 (q : Port) (write : Bool) (off : Nat) (d : List Byte) (be : List Bool) (vs : List Verdict) :
    Freed p s (t.serveBar4 q write off d be vs) := by
  unfold State.serveBar4
  split
  · exact h.putExch ..
  · exact (h.notes (Notes.foldl (fun t (c : Nat × Verdict) => t.judgeLine_notes c.2 _) _ t)).send _

theorem Freed.tryHost {w : Waiter} (hw : w.ofPort p = false) : Freed p s (t.tryHost w).1 := by
  unfold State.tryHost
  split
  next q r v =>
    have hask := h.askLines hw (m2sUse q r) [r.line]
    have hq : q ≠ p := by simpa [Waiter.ofPort] using hw
    split
    next u ok heq =>
      rw [heq] at hask
      split
      · exact hask.serveM2S hq r v
      · exact hask
  next q wr off d be vs =>
    have hask := h.askLines hw (if wr then .devWrite else .devRead) (linesOf off be.length)
    split
    next u ok heq =>
      rw [heq] at hask
      split
      · exact hask.serveBar4 ..
      · exact hask
  next => exact h
  next => exact h

theorem Freed.snoopForPiece (l : Nat) (w : Waiter) : Freed p s (t.snoopForPiece l w) := by
  unfold State.snoopForPiece
  split
  · split
    · exact h.askLine rfl _ l
    · exact h.unwait _ l
  · exact h

omit h in
theorem Freed.pumpLine (l n : Nat) {t : State} (h : Freed p s t) : Freed p s (State.pumpLine l n t) := by
  induction n generalizing t with
  | zero => exact h
  | succ n ih =>
    unfold State.pumpLine
    split
    · exact h
    next w rest hwaiting =>
      have htry := h.tryHost ((h.free l).waiting w (by simp [hwaiting]))
      split
      · exact h
      · split
        next u served heq =>
          rw [heq] at htry
          have hsnoop := htry.snoopForPiece l w
          split
          · exact ih htry
          · dsimp only
            split
            · exact hsnoop
            · exact ih hsnoop

theorem Freed.pumpLines (ls : List Nat) : Freed p s (t.pumpLines ls) := h.foldl (fun ht l => ht.pumpLine l _) ls

end Freed

/-! ### What the Ledger withdraws (R194) -/

/-- The line once the port has lost it. -/
def Line.withdrawn (x : Line) (p : Port) : Line :=
  { (x.setHold p .i).setSnoop p none with
    poison := x.poison || decide (x.holdOf p = .e)
    waiting := x.waiting.filter fun w => !w.ofPort p }

theorem Line.withdrawn_freeOf (x : Line) (p : Port) : (x.withdrawn p).FreeOf p := by
  refine ⟨?_, fun w hw => by simpa using (List.mem_filter.1 hw).2⟩
  cases p <;> rfl

/-- Every line of a list is withdrawn; the port has lost the others already. -/
theorem foldl_withdrawn (p : Port) {s t : State} (hb : Beside s t) (hc : mwf {} t.ledger.lines = true) (ls : List Nat)
    (hfree : ∀ j, j ∉ ls → (t.line j).FreeOf p) :
    Freed p s (ls.foldl (fun u l => u.setLine l ((u.line l).withdrawn p)) t) := by
  induction ls generalizing t with
  | nil => exact ⟨hb, hc, fun l => hfree l (by simp)⟩
  | cons l ls ih =>
    refine ih (hb.trans (t.setLine_beside ..)) (State.setLine_lines hc ..) fun j hj => ?_
    by_cases hjl : j = l
    · rw [hjl, State.setLine_line hc]
      exact Line.withdrawn_freeOf _ p
    · rw [State.setLine_line_ne t hjl]
      exact hfree j (by simp [hjl, hj])

theorem State.line_of_unlisted {s : State} {l : Nat} (h : l ∉ s.ledger.lines.map fun c => c.1) : s.line l = {} := by
  obtain hdefault | hmem := mget_eq_default_or_mem {} s.ledger.lines l
  · exact hdefault
  · exact absurd (List.mem_map.2 ⟨_, hmem, rfl⟩) h

theorem State.withdrawPort_freed {s : State} (hc : mwf {} s.ledger.lines = true) (p : Port) : Freed p s (s.withdrawPort p) := by
  unfold State.withdrawPort
  extract_lets held es ls t r u
  have ht : Freed p s t := foldl_withdrawn p .rfl' hc ls fun j hj => by
    rw [State.line_of_unlisted hj]
    exact Line.freeOf_default p
  have hu : Freed p s u := ⟨ht.beside.trans (.of_parts ..), ht.lines, ht.free⟩
  clear_value u es held
  split
  · exact hu.pumpLines ls
  · exact ((hu.notes (State.raiseBoth_notes ..)).notes (State.logFault_notes ..)).pumpLines ls

end Sys2Proof.Machine

namespace Sys2Proof.Machine

open Sys2Proof.Safety

/-! ### Keeper slots that break (R171) -/

theorem State.holds_of_keeper {s t : State} (h : t.keeper.slots = s.keeper.slots) (p : Port) (n : Nat) :
    t.holds p n = s.holds p n := by
  rw [State.holds, State.slot_of_keeper h, State.holds]

theorem State.holds_of_free {s : State} {n : Nat} (h : (s.slot n).holder = none) (p : Port) : s.holds p n = false := by
  rw [State.holds, h]

theorem State.slotBroke_beside (s : State) (n : Nat) : Beside s (s.slotBroke n) := .of_parts ..

theorem State.breakSlot_beside (s : State) (n cause : Nat) : Beside s (s.breakSlot n cause) := by
  by_cases h : (s.slot n).holder = none
  · rw [State.breakSlot, if_pos h]
    exact .rfl'
  · exact (s.slotBroke_beside n).trans (State.breakSlot_notes h cause).toBeside

theorem State.breakSlot_ledger (s : State) (n cause : Nat) : (s.breakSlot n cause).ledger = s.ledger := by
  by_cases h : (s.slot n).holder = none
  · rw [State.breakSlot, if_pos h]
  · exact (State.breakSlot_notes h cause).ledger

theorem State.breakSlot_holds (s : State) (n cause : Nat) (p : Port) (j : Nat) :
    (s.breakSlot n cause).holds p j = (s.holds p j && decide (j ≠ n)) := by
  by_cases hj : j = n
  · subst hj
    simp only [ne_eq, not_true_eq_false, decide_false, Bool.and_false]
    by_cases h : (s.slot j).holder = none
    · rw [State.breakSlot, if_pos h, State.holds_of_free h]
    · exact State.holds_of_free (congrArg KeeperSlot.holder (State.breakSlot_slot h cause)) p
  · rw [State.holds, s.breakSlot_slot_ne hj]
    simp [State.holds, hj]

theorem State.breakSlotsOf_beside (s : State) (p : Port) (cause : Nat) : Beside s (s.breakSlotsOf p cause) :=
  .foldl (fun t n => .ite (fun _ => t.breakSlot_beside n cause) fun _ => .rfl') _ s

theorem State.breakSlotsOf_ledger (s : State) (p : Port) (cause : Nat) : (s.breakSlotsOf p cause).ledger = s.ledger := by
  refine List.foldlRecOn (motive := fun (t : State) => t.ledger = s.ledger) _ _ rfl fun t ht n _ => ?_
  split
  · rw [t.breakSlot_ledger, ht]
  · exact ht

/-- The slots of a list break where the port holds them. -/
theorem foldl_breakSlot_holds (p : Port) (cause : Nat) (l : List Nat) (s : State) (j : Nat) :
    (l.foldl (fun t n => if t.holds p n then t.breakSlot n cause else t) s).holds p j = (s.holds p j && decide (j ∉ l)) := by
  induction l generalizing s with
  | nil => simp
  | cons n l ih =>
    have hstep : (if s.holds p n then s.breakSlot n cause else s).holds p j = (s.holds p j && decide (j ≠ n)) := by
      split
      · exact s.breakSlot_holds n cause p j
      · by_cases hj : j = n <;> simp_all
    rw [List.foldl_cons, ih, hstep]
    simp only [List.mem_cons, not_or, Bool.and_assoc, ne_eq, Bool.decide_and]

theorem State.breakSlotsOf_holds (s : State) (p : Port) (cause : Nat) (n : Fin 64) :
    (s.breakSlotsOf p cause).holds p n = false := by
  rw [State.breakSlotsOf, foldl_breakSlot_holds]
  simp

/-! ### A port that is lost (R171, R173, R194) -/

/-- What a port loses with its link or in a port reset: its Keeper slots, its lines and its host reads. -/
def State.portLost (s : State) (p : Port) (cause : Nat) : State := ((s.breakSlotsOf p cause).withdrawPort p).withdrawReads p

/-- Port `p` has lost them, where `home` gives the galleries' home ports. -/
structure Lost (p : Port) (home : Nat → Port) (t : State) : Prop where
  slots : ∀ n : Fin 64, t.holds p n = false
  lines : ∀ l, (t.line l).holdOf p = .i
  reads : ∀ x ∈ t.pieces, ∀ a, x.target = .host a → x.write = false → home x.gal = p → x.status = .heldPort

theorem Lost.of_eq {p : Port} {home : Nat → Port} {t u : State} (h : Lost p home t) (hk : u.keeper = t.keeper)
    (hl : u.ledger = t.ledger) (hp : u.pieces = t.pieces) : Lost p home u where
  slots n := (State.holds_of_keeper (congrArg Keeper.slots hk) p n).trans (h.slots n)
  lines l := State.line_of_ledger (congrArg Ledger.lines hl) l ▸ h.lines l
  reads := hp ▸ h.reads

theorem Lost.notes {p : Port} {home : Nat → Port} {t u : State} (h : Lost p home t) (k : Notes t u) : Lost p home u :=
  h.of_eq k.keeper k.ledger k.pieces

theorem Piece.withdraw_eq (x : Piece) (home : Nat → Port) (p : Port) : ∃ st, x.withdraw home p = { x with status := st } := by
  unfold Piece.withdraw
  split
  · split
    · exact ⟨_, rfl⟩
    · exact ⟨_, rfl⟩
  · exact ⟨_, rfl⟩

/-- A withdrawn host read of the port is held. -/
theorem Piece.withdraw_status {x : Piece} {home : Nat → Port} {p : Port} {a : Nat}
    (htarget : (x.withdraw home p).target = .host a) (hwrite : (x.withdraw home p).write = false)
    (hhome : home (x.withdraw home p).gal = p) : (x.withdraw home p).status = .heldPort := by
  obtain ⟨st, hx⟩ := x.withdraw_eq home p
  rw [hx] at htarget hwrite hhome
  have hheld : x.withdraw home p = { x with status := .heldPort } := by
    rw [Piece.withdraw, show x.target = .host a from htarget]
    exact if_pos ⟨hhome, by rw [show x.write = false from hwrite]; rfl⟩
  rw [hheld]

/-- The slots have broken; the Ledger withdraws the lines, and the reads are held. -/
theorem Lost.of_broken {s u : State} {p : Port} (hb : Beside s u) (hslots : ∀ n : Fin 64, u.holds p n = false)
    (hc : mwf {} u.ledger.lines = true) : Lost p (fun g => (s.gal g).home) ((u.withdrawPort p).withdrawReads p) := by
  have hfreed := State.withdrawPort_freed hc p
  have hkeeper : (u.withdrawPort p).keeper.slots = u.keeper.slots := congrArg Cfg.slots (u.withdrawPort_cfg p)
  refine ⟨fun n => (State.holds_of_keeper hkeeper p n).trans (hslots n), fun l => (hfreed.free l).hold, fun x hx => ?_⟩
  obtain ⟨y, -, rfl⟩ := List.mem_map.1 hx
  have hhome : (fun g => ((u.withdrawPort p).gal g).home) = fun g => (s.gal g).home :=
    funext fun g => by rw [(hb.trans hfreed.beside).gal]
  rw [hhome]
  exact fun a htarget hwrite hy => Piece.withdraw_status htarget hwrite hy

section PortLost
variable {s : State} (hc : mwf {} s.ledger.lines = true) (p : Port) (cause : Nat)
include hc

theorem State.breakSlotsOf_lines : mwf {} (s.breakSlotsOf p cause).ledger.lines = true := by
  rw [s.breakSlotsOf_ledger]
  exact hc

theorem State.portLost_lost : Lost p (fun g => (s.gal g).home) (s.portLost p cause) :=
  .of_broken (s.breakSlotsOf_beside p cause) (s.breakSlotsOf_holds p cause) (State.breakSlotsOf_lines hc p cause)

/-- Beside its pieces, it differs from the device before as messages and records do. -/
theorem State.portLost_beside : ∃ u, Beside s u ∧ ∃ ps, s.portLost p cause = { u with pieces := ps } :=
  ⟨(s.breakSlotsOf p cause).withdrawPort p, (s.breakSlotsOf_beside p cause).trans
    (State.withdrawPort_freed (State.breakSlotsOf_lines hc p cause) p).beside, _, rfl⟩

end PortLost

/-! ### The port-reset grace (R814) -/

/-- The grace starts for a gallery homed on the port. -/
theorem State.startGrace_grace {s : State} (hc : mwf {} s.gals = true) {p : Port} {g : Nat} (hhome : (s.gal g).home = p)
    (hst : (s.gal g).st ≠ .vacant) (hg : (s.gal g).grace = none) :
    ((s.startGrace p).gal g).grace = some (s.tb.elapsed + ms s.acc.graceMs) := by
  have hgal := mget_mmap {} (fun _ (x : Gallery) =>
    if x.home = p ∧ x.st ≠ .vacant ∧ x.grace = none then { x with grace := some (s.tb.elapsed + ms s.graceMs) } else x)
    s.gals g hc (by simp)
  refine (congrArg Gallery.grace hgal).trans ?_
  rw [if_pos ⟨hhome, hst, hg⟩]
  rfl

/-- A gallery whose grace has ended is reset, and what was held for it is discarded. -/
theorem State.graceExpiry_of_ended {s : State} {g d : Nat} (hd : (s.gal g).grace = some d) (hlate : d ≤ s.tb.elapsed)
    (hvacant : (s.gal g).st ≠ .vacant) (hreset : (s.gal g).st ≠ .resetting) :
    s.graceExpiry g =
      ((s.setGal g { s.gal g with grace := none }).startReset g 0x04 { portReset := true }).discardHeld g := by
  have hne : ({ s.gal g with grace := none } : Gallery) ≠ {} := fun h => hvacant (congrArg Gallery.st h)
  have hgal : (s.setGal g { s.gal g with grace := none }).gal g = { s.gal g with grace := none } :=
    mget_mset_self _ _ _ _ hne
  rw [State.graceExpiry, hd]
  dsimp only
  rw [if_neg (by omega), hgal, if_neg (by simp [hvacant, hreset])]

end Sys2Proof.Machine

namespace Sys2Proof.Machine

open Sys2Proof.Safety

/-! ### What was held goes out (R173, R175, R267, R268) -/

/-- Whether earlier writes come first does not depend on what has been sent. -/
theorem State.writeOrderHolds_setPieceStatus (s : State) (n : Nat) (st : PieceStatus) (y : Piece) :
    (s.setPieceStatus n st).writeOrderHolds y = s.writeOrderHolds y := by
  have hsame (q : Piece) : ∃ st', (if q.id = n then { q with status := st } else q) = { q with status := st' } := by
    split
    · exact ⟨_, rfl⟩
    · exact ⟨_, rfl⟩
  simp only [State.writeOrderHolds, State.setPieceStatus, List.any_map]
  congr 2
  funext q
  obtain ⟨st', hq⟩ := hsame q
  simp only [Function.comp, hq, Piece.by]

theorem State.writeOrderHolds_of_pieces {s t : State} (h : t.pieces = s.pieces) (y : Piece) :
    t.writeOrderHolds y = s.writeOrderHolds y := by
  rw [State.writeOrderHolds, h, State.writeOrderHolds]

/-- The read of a partial write that waits for its instruction's earlier writes to the same bytes. -/
def State.waitsForWrites (s : State) (x : Piece) : Prop := x.readsFirst = true ∧ s.writeOrderHolds x = true

/-- A held request to host memory is sent, or waits for earlier writes. -/
theorem State.issueHost_cases (s : State) (x : Piece) :
    (s.issueHost x = s ∧ ∀ a, x.target = .host a → s.waitsForWrites x) ∨
      ∃ o, s.issueHost x = { s.setPieceStatus x.id .sent with out := o } := by
  unfold State.issueHost
  dsimp only
  split
  · split
    next hwaits => exact .inl ⟨rfl, fun _ _ => by simpa [State.waitsForWrites] using hwaits⟩
    next =>
      right
      split
      · exact ⟨_, rfl⟩
      · exact ⟨_, rfl⟩
  next hother => exact .inl ⟨rfl, fun a ha => absurd ha (hother a)⟩

theorem State.issueHost_eq (s : State) (x : Piece) : ∃ ps o, s.issueHost x = { s with pieces := ps, out := o } := by
  obtain ⟨h, -⟩ | ⟨o, h⟩ := s.issueHost_cases x
  · exact ⟨_, _, h⟩
  · exact ⟨_, _, h⟩

theorem State.issueHost_writeOrderHolds (s : State) (x y : Piece) :
    (s.issueHost x).writeOrderHolds y = s.writeOrderHolds y := by
  obtain ⟨h, -⟩ | ⟨o, h⟩ := s.issueHost_cases x
  · rw [h]
  · rw [h]
    exact s.writeOrderHolds_setPieceStatus x.id .sent y

/-- A request that is still held was held before; where it is the one that was to go out, it waits for earlier writes. -/
theorem State.issueHost_held {s : State} {x y : Piece} (hy : y ∈ (s.issueHost x).pieces) (hst : y.status = .heldPort) :
    y ∈ s.pieces ∧ (x.id = y.id → ∀ a, x.target = .host a → s.waitsForWrites x) := by
  obtain ⟨h, hwaits⟩ | ⟨o, h⟩ := s.issueHost_cases x
  · exact ⟨h ▸ hy, fun _ => hwaits⟩
  · rw [h] at hy
    obtain ⟨q, hq, rfl⟩ := List.mem_map.1 hy
    by_cases hid : q.id = x.id
    · simp [hid] at hst
    · simp only [if_neg hid] at hq ⊢
      exact ⟨hq, fun he => absurd he.symm hid⟩

theorem foldl_issueHost_eq (l : List Piece) (s : State) :
    ∃ ps o, l.foldl (fun t x => t.issueHost x) s = { s with pieces := ps, out := o } := by
  refine List.foldlRecOn (motive := fun (t : State) => ∃ ps o, t = { s with pieces := ps, out := o }) _ _ ⟨_, _, rfl⟩ ?_
  rintro t ⟨ps, o, rfl⟩ x _
  obtain ⟨ps', o', h⟩ := State.issueHost_eq { s with pieces := ps, out := o } x
  exact ⟨ps', o', h⟩

theorem foldl_issueHost_writeOrderHolds (l : List Piece) (s : State) (y : Piece) :
    (l.foldl (fun t x => t.issueHost x) s).writeOrderHolds y = s.writeOrderHolds y :=
  List.foldlRecOn (motive := fun (t : State) => t.writeOrderHolds y = s.writeOrderHolds y) _ _ rfl
    fun t ht x _ => (t.issueHost_writeOrderHolds x y).trans ht

theorem foldl_issueHost_held (l : List Piece) (s : State) {y : Piece}
    (hy : y ∈ (l.foldl (fun t x => t.issueHost x) s).pieces) (hst : y.status = .heldPort) :
    y ∈ s.pieces ∧ ∀ x ∈ l, x.id = y.id → ∀ a, x.target = .host a → s.waitsForWrites x := by
  induction l generalizing s with
  | nil => exact ⟨hy, by simp⟩
  | cons x l ih =>
    obtain ⟨hnext, hrest⟩ := ih _ hy
    obtain ⟨hmem, hfirst⟩ := State.issueHost_held hnext hst
    refine ⟨hmem, fun z hz hid a ha => ?_⟩
    obtain rfl | hz := List.mem_cons.1 hz
    · exact hfirst hid a ha
    · obtain ⟨hreads, horder⟩ := hrest z hz hid a ha
      exact ⟨hreads, (s.issueHost_writeOrderHolds x z).symm.trans horder⟩

/-- The device once the requests held for port `p` have gone out, and its messages are about to. -/
def State.reissued (s : State) (p : Port) : State :=
  let t := (s.pieces.filter fun x => decide (x.status = .heldPort) && decide ((s.gal x.gal).home = p)).foldl
    (fun t x => t.issueHost x) s
  { t with held := t.held.filter fun m => decide ((t.gal m.1).home ≠ p) }

theorem State.reissued_eq (s : State) (p : Port) : ∃ ps o, s.reissued p = { s with
    pieces := ps, out := o, held := s.held.filter fun m => decide ((s.gal m.1).home ≠ p) } := by
  obtain ⟨ps, o, h⟩ := foldl_issueHost_eq
    (s.pieces.filter fun x => decide (x.status = .heldPort) && decide ((s.gal x.gal).home = p)) s
  refine ⟨ps, o, ?_⟩
  rw [State.reissued, h]
  rfl

theorem State.releaseHeld_notes {s : State} {p : Port} (h : (s.port p).usable = true) :
    Notes (s.reissued p) (s.releaseHeld p) := by
  rw [State.releaseHeld, if_neg (by simp [h])]
  exact .foldl (fun t (m : Nat × Nat) => t.raise_notes p m.2) _ (s.reissued p)

theorem State.releaseHeld_port (s : State) (p q : Port) :
    (s.releaseHeld p).port q = { s.port q with pba := ((s.releaseHeld p).port q).pba } := by
  by_cases h : (s.port p).usable = true
  · obtain ⟨ps, o, hu⟩ := s.reissued_eq p
    have hport : (s.reissued p).port q = s.port q := by
      rw [hu]
      cases q <;> rfl
    rw [(State.releaseHeld_notes h).port q, hport]
  · rw [State.releaseHeld, if_pos (by simp [h])]

/-- After the release nothing is held for the galleries homed on the port, but for reads that wait for earlier writes. -/
theorem State.releaseHeld_held {s : State} {p : Port} (h : (s.port p).usable = true) :
    (∀ m ∈ (s.releaseHeld p).held, (s.gal m.1).home ≠ p) ∧
      ∀ x ∈ (s.releaseHeld p).pieces, ∀ a, x.target = .host a → (s.gal x.gal).home = p → x.status = .heldPort →
        (s.releaseHeld p).waitsForWrites x := by
  have hnotes := State.releaseHeld_notes h
  obtain ⟨ps, o, hu⟩ := s.reissued_eq p
  refine ⟨fun m hm => ?_, fun x hx a htarget hhome hst => ?_⟩
  · rw [hnotes.held, hu] at hm
    simpa using (List.mem_filter.1 hm).2
  · rw [hnotes.pieces] at hx
    obtain ⟨hmem, hwaits⟩ := foldl_issueHost_held _ s hx hst
    obtain ⟨hreads, horder⟩ := hwaits x (List.mem_filter.2 ⟨hmem, by simp [hst, hhome]⟩) rfl a htarget
    refine ⟨hreads, ?_⟩
    rw [State.writeOrderHolds_of_pieces hnotes.pieces, ← horder]
    exact foldl_issueHost_writeOrderHolds _ s x

/-- Pending vectors are messages (R831). -/
theorem State.sendPending_notes (s : State) (p : Port) : Notes s (s.sendPending p) := by
  unfold State.sendPending
  refine .ite (fun _ => .rfl') fun h => ?_
  have hreset : (s.port p).inReset = false := by simp at h; exact h.1.1.1
  refine List.foldlRecOn (motive := fun (t : State) => Notes s t) _ _ .rfl' fun t ht e _ => ?_
  have htreset : (t.port p).inReset = false := by rw [ht.port p]; exact hreset
  exact .ite (fun _ => ht) fun _ => (ht.trans (t.setPba_notes p htreset _)).trans (State.send_notes ..)

end Sys2Proof.Machine

namespace Sys2Proof.Machine

open Sys2Proof.Safety

/-! ### Port resets (R832) -/

/-- The port once a trigger has put it into port reset. -/
def PortState.reset (x : PortState) (tr : PortTrigger) : PortState :=
  { x.cleared with resetBy := x.resetBy ++ [tr], perstHigh := x.perstHigh && decide (tr ≠ .perst) }

theorem PortState.reset_inReset (x : PortState) (tr : PortTrigger) : (x.reset tr).inReset = true := by
  simp [PortState.inReset, PortState.reset]

theorem State.portReset_of_joined {s : State} {p : Port} {tr : PortTrigger} (h : tr ∈ (s.port p).resetBy) :
    s.portReset p tr = s :=
  if_pos (List.contains_iff_mem.2 h)

theorem State.portReset_of_new {s : State} {p : Port} {tr : PortTrigger} (h : tr ∉ (s.port p).resetBy) :
    s.portReset p tr = if (s.port p).resetBy.isEmpty
      then (((s.setPort p ((s.port p).reset tr)).portLost p 2).startGrace p).raisePeer (otherPort p)
      else (s.setPort p ((s.port p).reset tr)).portLost p 2 :=
  if_neg fun hmem => h (List.contains_iff_mem.1 hmem)

/-- The commands of Table 4-16 and their triggers. -/
theorem exec_portReset {p : Port} {tr : PortTrigger} {c : Instr} (s : State)
    (h : (c = .perst p ∧ tr = .perst) ∨ (c = .hotReset p ∧ tr = .hotReset) ∨ (c = .linkDisable p ∧ tr = .linkDisable) ∨
      (c = .functionLevelReset p ∧ tr = .flr) ∨ (c = .d3hot p ∧ tr = .d3hot)) : exec c s = .next (s.portReset p tr) := by
  obtain ⟨rfl, rfl⟩ | ⟨rfl, rfl⟩ | ⟨rfl, rfl⟩ | ⟨rfl, rfl⟩ | ⟨rfl, rfl⟩ := h <;> rfl

theorem State.setPort_gal (s : State) (p : Port) (x : PortState) (g : Nat) : (s.setPort p x).gal g = s.gal g := by
  rw [State.gal, State.setPort_gals, State.gal]

theorem State.setPort_home (s : State) (p : Port) (x : PortState) :
    (fun g => ((s.setPort p x).gal g).home) = fun g => (s.gal g).home :=
  funext fun g => by rw [State.setPort_gal]

/-- The grace changes nothing of what a port has lost. -/
theorem Lost.startGrace {p : Port} {home : Nat → Port} {t : State} (h : Lost p home t) : Lost p home (t.startGrace p) :=
  h.of_eq rfl rfl rfl

section PortReset
variable {s : State} (hc : Canon s) {p : Port} {tr : PortTrigger} (hnew : tr ∉ (s.port p).resetBy)
include hc

theorem State.setPort_canonLines (x : PortState) : mwf {} (s.setPort p x).ledger.lines = true := by
  rw [State.setPort_ledger]
  exact hc.lines

include hnew

theorem State.portReset_lost : Lost p (fun g => (s.gal g).home) (s.portReset p tr) := by
  have hlost := State.portLost_lost (State.setPort_canonLines hc (p := p) ((s.port p).reset tr)) p 2
  rw [State.setPort_home] at hlost
  rw [State.portReset_of_new hnew]
  split
  · exact hlost.startGrace.notes (State.raisePeer_notes ..)
  · exact hlost

theorem State.portReset_port : (s.portReset p tr).port p = (s.port p).reset tr := by
  obtain ⟨u, hu, ps, hlost⟩ := State.portLost_beside (State.setPort_canonLines hc (p := p) ((s.port p).reset tr)) p 2
  have hport := s.setPort_port p ((s.port p).reset tr)
  have hup : ({ u with pieces := ps } : State).port p = (s.port p).reset tr := by
    rw [← hport, ← hu.inReset p (by rw [hport, PortState.reset_inReset])]
    cases p <;> rfl
  rw [State.portReset_of_new hnew, hlost]
  split
  · have hgrace : (State.startGrace { u with pieces := ps } p).port p = (s.port p).reset tr := by
      rw [← hup]
      cases p <;> rfl
    rw [(State.raisePeer_notes ..).inReset p (by rw [hgrace, PortState.reset_inReset]), hgrace]
  · exact hup

/-- R814: the grace starts with the first trigger. -/
theorem State.portReset_grace (hfirst : (s.port p).resetBy = []) {g : Nat} (hhome : (s.gal g).home = p)
    (hst : (s.gal g).st ≠ .vacant) (hg : (s.gal g).grace = none) :
    ((s.portReset p tr).gal g).grace = some (s.tb.elapsed + ms s.acc.graceMs) := by
  obtain ⟨u, hu, ps, hlost⟩ := State.portLost_beside (State.setPort_canonLines hc (p := p) ((s.port p).reset tr)) p 2
  have hgals : u.gals = s.gals := hu.gals.trans (s.setPort_gals ..)
  have hgal : ({ u with pieces := ps } : State).gal g = s.gal g :=
    (hu.gal g).trans (s.setPort_gal ..)
  have hgrace := State.startGrace_grace (s := { u with pieces := ps }) (hgals ▸ hc.gals : mwf {} u.gals = true)
    (p := p) (g := g) (by rw [hgal, hhome]) (by rw [hgal]; exact hst) (by rw [hgal, hg])
  rw [State.portReset_of_new hnew, hlost, if_pos (by rw [hfirst]; rfl), (State.raisePeer_notes ..).gal, hgrace]
  simp only [hu.tb, hu.acc, State.setPort_tb, State.setPort_acc]

end PortReset

/-! ### The end of a port reset, and link events (R832, R173) -/

theorem State.portResetEnd_of_held {s : State} {p : Port} {tr : PortTrigger}
    (h : (s.port p).resetBy = [] ∨ ∃ u ∈ (s.port p).resetBy, u ≠ tr) :
    s.portResetEnd p tr = s.setPort p { s.port p with
      resetBy := (s.port p).resetBy.filter (fun u => decide (u ≠ tr))
      perstHigh := (s.port p).perstHigh || decide (tr = .perst) } := by
  refine if_pos (h.imp (fun hnone => by rw [hnone]; rfl) ?_)
  rintro ⟨u, hu, hne⟩
  rw [State.setPort_port]
  simpa [PortState.inReset] using ⟨u, hu, hne⟩

theorem State.portResetEnd_of_last {s : State} {p : Port} {tr : PortTrigger} (h : (s.port p).resetBy = [tr]) :
    s.portResetEnd p tr = ((s.setPort p { s.port p with
      resetBy := [], perstHigh := (s.port p).perstHigh || decide (tr = .perst) }).releaseHeld p).raisePeer (otherPort p) := by
  have hfilter : (s.port p).resetBy.filter (fun u => decide (u ≠ tr)) = [] := by simp [h]
  unfold State.portResetEnd
  dsimp only
  rw [hfilter, State.setPort_port]
  exact if_neg (by simp [h, PortState.inReset])

section DllUp
variable (s : State) (p : Port) (width : BitVec 8) (speed : BitVec 4)

/-- The port with its link up. -/
def PortState.linked (x : PortState) (width : BitVec 8) (speed : BitVec 4) : PortState :=
  { x with dllUp := true, width := width, speed := speed }

theorem State.dllUpEvent_notes :
    Notes ((s.setPort p ((s.port p).linked width speed)).releaseHeld p) (s.dllUpEvent p width speed) :=
  (State.sendPending_notes _ p).trans (State.raisePeer_notes _ (otherPort p))

theorem State.dllUpEvent_port : (s.dllUpEvent p width speed).port p =
    { (s.port p).linked width speed with pba := ((s.dllUpEvent p width speed).port p).pba } := by
  rw [(s.dllUpEvent_notes p width speed).port p, State.releaseHeld_port, State.setPort_port]

end DllUp

theorem State.dllDown_of_up {s : State} {p : Port} (h : (s.port p).dllUp = true) :
    s.dllDown p = ((s.setPort p { s.port p with dllUp := false }).portLost p 1).raisePeer (otherPort p) :=
  if_neg (by simp [h])

/-! ### Host reads that time out (R151) -/

theorem State.hostTimeout_of_sent {s : State} {n a : Nat} {x : Piece} (hx : s.piece? n = some x) (htarget : x.target = .host a)
    (hwrite : x.write = false) (hst : x.status = .sent) :
    s.hostTimeout n = (s.countHostFail (s.gal x.gal).home).pieceFails x 0x18 := by
  rw [State.hostTimeout, hx]
  dsimp only
  rw [htarget, hwrite, hst]
  rfl

/-- Settles O20: a lost port by what it loses in turn (slots, lines, reads), a usable one by what goes out in turn (requests,
messages, vectors). Which reads stay held for earlier writes is the model's log entry 117. -/
theorem portResetsAndLinks : Obligations.PortResetsAndLinks := by
  unfold Obligations.PortResetsAndLinks
  refine ⟨?resets, ?links, ?hosts⟩
  case resets =>
    intro p tr c s hc hcmd
    rw [exec_portReset s hcmd]
    refine ⟨fun hjoined => congrArg _ (State.portReset_of_joined hjoined), fun hnew => ⟨s.portReset p tr, rfl, ?_⟩⟩
    have hlost := State.portReset_lost hc hnew
    exact ⟨State.portReset_port hc hnew, hlost.slots, hlost.lines, hlost.reads,
      fun g hhome hst hfirst hg => State.portReset_grace hc hnew hfirst hhome hst hg⟩
  case links =>
    intro p s hc
    refine ⟨fun tr h => congrArg Host.Outcome.next (State.portResetEnd_of_held h),
      fun tr h => congrArg Host.Outcome.next (State.portResetEnd_of_last h), fun w v => ⟨s.dllUpEvent p w v, rfl, ?up⟩,
      fun h => congrArg Host.Outcome.next (if_pos (by simp [h])), fun h => ⟨s.dllDown p, rfl, ?down⟩⟩
    case up =>
      have hport := s.dllUpEvent_port p w v
      refine ⟨by rw [hport]; rfl, by rw [hport]; rfl, by rw [hport]; rfl, fun hfree => ?_⟩
      have husable : ((s.setPort p ((s.port p).linked w v)).port p).usable = true := by
        rw [State.setPort_port]
        simp [PortState.usable, PortState.linked, PortState.inReset, hfree]
      have hnotes := s.dllUpEvent_notes p w v
      obtain ⟨hheld, hpieces⟩ := State.releaseHeld_held husable
      refine ⟨fun m hm => ?_, fun x hx a htarget hhome hst => ?_⟩
      · rw [hnotes.held] at hm
        exact State.setPort_gal s p _ _ ▸ hheld m hm
      · rw [hnotes.pieces] at hx
        obtain ⟨hreads, horder⟩ := hpieces x hx a htarget (by rw [State.setPort_gal, hhome]) hst
        exact ⟨hreads, (State.writeOrderHolds_of_pieces hnotes.pieces x).trans horder⟩
    case down =>
      have hlines := State.setPort_canonLines hc (p := p) { s.port p with dllUp := false }
      have hlost := State.portLost_lost hlines p 1
      rw [State.setPort_home] at hlost
      obtain ⟨u, hu, ps, hparts⟩ := State.portLost_beside hlines p 1
      rw [State.dllDown_of_up h]
      have hnotes := State.raisePeer_notes ((s.setPort p { s.port p with dllUp := false }).portLost p 1) (otherPort p)
      have hend := hlost.notes hnotes
      refine ⟨?_, hend.slots, hend.lines, hend.reads⟩
      have hup : ({ u with pieces := ps } : State).port p = u.port p := by cases p <;> rfl
      rw [hnotes.port p, hparts, hup, hu.port p, State.setPort_port]
  case hosts =>
    intro s
    refine ⟨fun n a x hx htarget hwrite hst => ?_, fun g d hd hearly => ?_, fun g d hd hlate hvacant hreset =>
      congrArg Host.Outcome.next (State.graceExpiry_of_ended hd hlate hvacant hreset)⟩
    · exact congrArg (fun t : State => Host.Outcome.next t.pumpBays) (State.hostTimeout_of_sent hx htarget hwrite hst)
    · refine congrArg Host.Outcome.next ?_
      rw [State.graceExpiry, hd]
      exact if_pos hearly

end Sys2Proof.Machine

namespace Sys2Proof.Machine

open Sys2Proof.Safety

/-! # Accesses and their pieces (chapters 5 and 6) -/

/-- What was written reads back. -/
theorem bytesAt_putBytes (bs : List Byte) : ∀ (m : Sparse Byte) (a : Nat), mwf 0 m = true →
    bytesAt (putBytes m a bs) a bs.length = bs := by
  induction bs with
  | nil => intros; rfl
  | cons b bs ih =>
    intro m a hm
    have hhead : byteAt (putBytes (putByte m a b) (a + 1) bs) a = b := by
      rw [byteAt_putBytes_ne _ _ _ _ (by omega), byteAt_putByte m a a b hm, if_pos rfl]
    have htail := ih (putByte m a b) (a + 1) (mwf_putByte m a b hm)
    exact List.cons_eq_cons.2 ⟨hhead, htail⟩

/-! ### An access found, changed and dropped -/

theorem State.acc?_id {s : State} {id : Nat} {a : Acc} (h : s.acc? id = some a) : a.id = id := by
  simpa using List.find?_some h

section UpdAcc
variable (s : State) (id : Nat) {f : Acc → Acc} (hf : ∀ a, (f a).id = a.id)
include hf

theorem updAcc_keeps_id (a : Acc) : (if a.id = id then f a else a).id = a.id := by
  split
  · exact hf a
  · rfl

theorem State.acc?_updAcc : (s.updAcc id f).acc? id = (s.acc? id).map f := by
  have hmap : (s.updAcc id f).acc? id = (s.acc? id).map fun a => if a.id = id then f a else a := by
    simp only [State.acc?, State.updAcc, List.find?_map, Function.comp_def, updAcc_keeps_id id hf]
  rw [hmap]
  cases ha : s.acc? id with
  | none => rfl
  | some a => exact congrArg some (if_pos (State.acc?_id ha))

/-- What an access became does not matter once it is dropped. -/
theorem State.dropAcc_updAcc : (s.updAcc id f).dropAcc id = s.dropAcc id := by
  have haccs : (s.accs.map fun a => if a.id = id then f a else a).filter (fun a => decide (a.id ≠ id)) =
      s.accs.filter fun a => decide (a.id ≠ id) := by
    simp only [List.filter_map, Function.comp_def, updAcc_keeps_id id hf]
    refine (List.map_congr_left fun a ha => if_neg ?_).trans (List.map_id _)
    simpa using (List.mem_filter.1 ha).2
  simp only [State.dropAcc, State.updAcc, haccs]

end UpdAcc

/-! ### PIECE_SEND (R218, R254, R266) -/

/-- An access with a piece in flight has not ended. -/
theorem State.finishAcc_of_inFlight {s : State} {id : Nat} {p : Piece} (hp : p ∈ s.pieces) (howner : p.owner = .acc id) :
    s.finishAcc id = s := by
  unfold State.finishAcc
  cases ha : s.acc? id with
  | none => rfl
  | some a =>
    have hbusy : s.accIdle a = false := by
      simp only [State.accIdle, Bool.and_eq_false_iff, Bool.not_eq_false', List.any_eq_true, decide_eq_true_eq]
      exact .inr ⟨p, hp, by rw [howner, State.acc?_id ha]⟩
    simp [hbusy]

/-- The next run of an access that may go, once its checks have passed. -/
theorem State.sendAcc_of_ok {s : State} {id : Nat} {a : Acc} {r : Run} {rest : List Run} {t : Target} {i : Option Nat}
    (ha : s.acc? id = some a) (htodo : a.todo = r :: rest) (hlive : s.pace.tripped = false) (hmay : s.accMaySend a = true)
    (hfence : a.kind.streamUnit = true → (s.hearth a.hearth).fenced = false) (hcheck : s.check a.gal a.agent r.va = .ok t i)
    (halign : a.misaligned r = false) (hloc : a.kind.mem = true → s.sameLocOut a t r.len = false) :
    s.sendAcc id = (s.updAcc id fun b => { b with todo := rest }).launch (a.pieceOf r t i) := by
  have hfence' : (a.kind.streamUnit && (s.hearth a.hearth).fenced) = false := by simpa using hfence
  have hloc' : (a.kind.mem && s.sameLocOut a t r.len) = false := by simpa using hloc
  simp only [State.sendAcc, ha, htodo, hlive, hmay, hfence', hcheck, halign, hloc', Bool.not_true, Bool.or_self,
    Bool.false_eq_true, if_false]

/-! ### The end of a piece at the Shared Store (R241, R256) -/

theorem exec_pieceComplete_of_eq {s t : State} {n : Nat} {ret : PieceReturn} (h : s.pieceComplete n ret = t) :
    exec (.pieceComplete n ret) s = .next t.pumpBays :=
  congrArg (fun t : State => Host.Outcome.next t.pumpBays) h

section AtShared
variable {s : State} {p : Piece} {o : Nat} (htarget : p.target = .shared o)
include htarget

/-- A sent piece at the Shared Store meets its place, where no check fails on the way and no earlier write is due. -/
theorem State.pieceComplete_of_shared (hp : s.piece? p.id = some p) (hst : p.status = .sent)
    (horder : s.writeOrderHolds p = false) (bs : List Byte) :
    s.pieceComplete p.id { data := bs, check := none } = s.pieceAtPlace p bs := by
  simp [State.pieceComplete, hp, hst, horder, htarget, Piece.inFolio, State.pieceChecked]

theorem State.fetchPiece_of_shared (hlost : s.sharedLost o p.len = false) (ret : List Byte) :
    s.fetchPiece p ret = .data (bytesAt s.shared o p.len) := by
  simp [State.fetchPiece, htarget, hlost]

theorem State.pieceAtPlace_of_read (hagent : p.agent ≠ .flagAdd) (hread : p.write = false)
    (hlost : s.sharedLost o p.len = false) (ret : List Byte) :
    s.pieceAtPlace p ret = s.pieceEnd p (bytesAt s.shared o p.len) := by
  simp [State.pieceAtPlace, hagent, hread, Piece.toHost, htarget, State.fetchPiece_of_shared htarget hlost]

theorem State.pieceAtPlace_of_write (hagent : p.agent ≠ .flagAdd) (hwrite : p.write = true) (ret : List Byte) :
    s.pieceAtPlace p ret = (s.putShared o p.wdata).pieceEnd p [] := by
  simp [State.pieceAtPlace, hagent, hwrite, Piece.toHost, htarget, State.applyPiece, State.hostWritten]

theorem State.pieceAtPlace_of_add {id : Nat} {a : Acc} {d : Dst} {addend : W64} (hagent : p.agent = .flagAdd)
    (howner : p.owner = .acc id) (ha : s.acc? id = some a) (hkind : a.kind = .flagAdd d addend)
    (hlost : s.sharedLost o p.len = false) (ret : List Byte) :
    s.pieceAtPlace p ret = (s.putShared o (fullMask (natLe 8
      (BitVec.ofNat 64 (leNat (bytesAt s.shared o p.len)) + addend).toNat))).pieceEnd p (bytesAt s.shared o p.len) := by
  simp [State.pieceAtPlace, hagent, State.fetchPiece_of_shared htarget hlost, State.addPiece', howner, ha, hkind,
    State.applyPiece, htarget]

end AtShared

/-! ### The last piece of an access -/

/-- `p` is all that access `a` still waits for, and no piece of it has failed. -/
structure State.LastPiece (s : State) (p : Piece) (a : Acc) : Prop where
  acc : s.acc? a.id = some a
  owner : p.owner = .acc a.id
  last : ∀ q ∈ s.pieces, q.owner = .acc a.id → q.id = p.id
  todo : a.todo = []
  err : a.err = none

/-- A write to the Shared Store leaves the accesses and their pieces alone. -/
theorem State.LastPiece.putShared {s : State} {p : Piece} {a : Acc} (h : s.LastPiece p a) (off : Nat)
    (bs : List (Byte × Byte)) : (s.putShared off bs).LastPiece p a :=
  ⟨h.acc, h.owner, h.last, h.todo, h.err⟩

/-- The access with the bytes of a piece at `va` in its buffer. -/
def Acc.filled (va : Nat) (bs : List Byte) (a : Acc) : Acc := { a with buf := putBytes a.buf va bs }

section Filled
variable (a : Acc) (va : Nat) (bs : List Byte)

@[simp] theorem Acc.filled_kind : (a.filled va bs).kind = a.kind := rfl
@[simp] theorem Acc.filled_err : (a.filled va bs).err = a.err := rfl
@[simp] theorem Acc.filled_base : (a.filled va bs).base = a.base := rfl

/-- One piece fills the buffer of an access that reads nothing else. -/
theorem Acc.bytesAt_filled (hbuf : a.buf = []) (hva : va = a.base) :
    bytesAt (a.filled va bs).buf a.base bs.length = bs := by
  rw [Acc.filled, hbuf, hva]
  exact bytesAt_putBytes bs [] a.base rfl

end Filled

theorem State.accData_eq_updAcc {s : State} {id : Nat} {a : Acc} (ha : s.acc? id = some a) (hkind : a.kind ≠ .place)
    (p : Piece) (bs : List Byte) : s.accData p id bs = s.updAcc id (Acc.filled p.va bs) := by
  unfold State.accData
  rw [ha]
  dsimp only
  split
  next hplace => exact absurd hplace hkind
  next =>
    split
    next hnone =>
      obtain rfl := List.isEmpty_iff.1 hnone
      simp [State.updAcc, Acc.filled, putBytes]
    next => rfl

section Last
variable {s : State} {p : Piece} {a : Acc} (h : s.LastPiece p a) (bs : List Byte)
include h

/-- The device once the bytes of the last piece are with their access. -/
theorem State.LastPiece.acc_filled :
    ((s.dropPiece p.id).updAcc a.id (Acc.filled p.va bs)).acc? a.id = some (a.filled p.va bs) := by
  rw [State.acc?_updAcc _ _ (f := Acc.filled p.va bs) fun _ => rfl]
  exact congrArg (Option.map _) h.acc

theorem State.LastPiece.idle_filled :
    ((s.dropPiece p.id).updAcc a.id (Acc.filled p.va bs)).accIdle (a.filled p.va bs) = true := by
  simp only [State.accIdle, Acc.filled, h.todo, List.isEmpty_nil, Bool.true_and, Bool.not_eq_true', List.any_eq_false,
    decide_eq_true_eq]
  intro q hq howner
  obtain ⟨hmem, hne⟩ := List.mem_filter.1 hq
  exact absurd (h.last q hmem howner) (by simpa using hne)

/-- The bytes of the last piece reach their access, which then does what it is for. -/
theorem State.LastPiece.pieceEnd (hkind : a.kind ≠ .place) : s.pieceEnd p bs =
    (((s.dropPiece p.id).updAcc a.id (Acc.filled p.va bs)).finishAcc a.id).settleRels p.hearth p.stoker := by
  have hdata := State.accData_eq_updAcc (s := s.dropPiece p.id) h.acc hkind p bs
  simp only [State.pieceEnd, State.settlePiece, h.owner, hdata]

end Last

/-! ### What an access does at its end -/

/-- The device without the piece and without its access. -/
def State.without (s : State) (p : Piece) (a : Acc) : State := (s.dropPiece p.id).dropAcc a.id

theorem State.dropAcc_filled (s : State) (p : Piece) (a : Acc) (bs : List Byte) :
    ((s.dropPiece p.id).updAcc a.id (Acc.filled p.va bs)).dropAcc a.id = s.without p a :=
  State.dropAcc_updAcc _ _ fun _ => rfl

section Kept
variable {s : State} (off : Nat) (bs : List (Byte × Byte)) (p : Piece) (a : Acc)

@[simp] theorem State.without_stoker (h k : Nat) : (s.without p a).stoker h k = s.stoker h k := rfl
@[simp] theorem State.putShared_stoker (h k : Nat) : (s.putShared off bs).stoker h k = s.stoker h k := rfl

theorem Neat.without {h : Nat} (n : Neat s h) : Neat (s.without p a) h := ⟨n.hearths, n.stokers⟩
theorem Neat.putShared {h : Nat} (n : Neat s h) : Neat (s.putShared off bs) h := ⟨n.hearths, n.stokers⟩

end Kept

section Finish
variable {s : State} {p : Piece} {a : Acc} (h : s.LastPiece p a)
include h

/-- A store is over. -/
theorem State.LastPiece.pieceEnd_store (hkind : a.kind = .store) :
    s.pieceEnd p [] = (s.without p a).settleRels p.hearth p.stoker := by
  rw [h.pieceEnd [] (by simp [hkind])]
  simp only [State.finishAcc, h.acc_filled, h.idle_filled, State.dropAcc_filled, Acc.filled_kind, hkind]
  rfl

variable {bs : List Byte} {d : Dst} (hbuf : a.buf = []) (hva : p.va = a.base)
include hbuf hva

/-- A load gives its register the bytes that came, extended. -/
theorem State.LastPiece.pieceEnd_load {sext : Bool} (hkind : a.kind = .load d bs.length sext) : s.pieceEnd p bs =
    ((s.without p a).deliver a d (loadValue bs.length sext (leNat bs))).settleRels p.hearth p.stoker := by
  rw [h.pieceEnd bs (by simp [hkind])]
  have hbytes := a.bytesAt_filled p.va bs hbuf hva
  simp only [State.finishAcc, h.acc_filled, h.idle_filled, State.dropAcc_filled, Acc.filled_kind, hkind, Acc.filled_err, h.err,
    Acc.filled_base, hbytes]
  rfl

/-- FLAG.ADD gives its register the old value, and holds the Stoker's later accesses no longer. -/
theorem State.LastPiece.pieceEnd_flagAdd {addend : W64} (hkind : a.kind = .flagAdd d addend) (hlen : bs.length = 8) :
    s.pieceEnd p bs = (((s.without p a).deliver a d (leNat bs)).updStoker a.hearth a.stoker fun x =>
      { x with adds := x.adds.filter fun n => decide (n ≠ a.seq) }).settleRels p.hearth p.stoker := by
  rw [h.pieceEnd bs (by simp [hkind])]
  have hbytes : bytesAt (a.filled p.va bs).buf a.base 8 = bs := hlen ▸ a.bytesAt_filled p.va bs hbuf hva
  simp only [State.finishAcc, h.acc_filled, h.idle_filled, State.dropAcc_filled, Acc.filled_kind, hkind, Acc.filled_err, h.err,
    Acc.filled_base, hbytes]
  rfl

end Finish

/-- A Stoker that still runs the access's work order takes the value. -/
theorem State.deliver_of_live (s : State) {a : Acc} (hwo : some (s.stoker a.hearth a.stoker).wo = a.wo)
    (hst : (s.stoker a.hearth a.stoker).st ≠ .free) (d : Dst) (v : Nat) :
    s.deliver a d v = s.updStoker a.hearth a.stoker fun x => x.deliver d (BitVec.ofNat 64 v) :=
  congrArg (s.setStoker a.hearth a.stoker) (if_pos ⟨hwo, hst⟩)

/-- The FLAG.ADDs that a Stoker waits for do not depend on its registers. -/
theorem Stoker.deliver_adds (x : Stoker) (d : Dst) (v : W64) : (x.deliver d v).adds = x.adds := by
  show (x.write d v).adds = x.adds
  unfold Stoker.write
  split
  · split <;> rfl
  · split <;> rfl
  · rfl

/-! ### Releases that are forgotten -/

section SettleRels
variable (s : State) (h k : Nat)

@[simp] theorem State.settleRels_pieces : (s.settleRels h k).pieces = s.pieces := by
  unfold State.settleRels
  split <;> rfl

@[simp] theorem State.settleRels_accs : (s.settleRels h k).accs = s.accs := by
  unfold State.settleRels
  split <;> rfl

@[simp] theorem State.settleRels_shared : (s.settleRels h k).shared = s.shared := by
  unfold State.settleRels
  split <;> rfl

variable {s h} (n : Neat s h)
include n

theorem State.settleRels_stoker :
    (s.settleRels h k).stoker h k = { s.stoker h k with rels := ((s.settleRels h k).stoker h k).rels } := by
  unfold State.settleRels
  split
  · rfl
  · rw [State.updStoker_stoker _ _ _ _ n]

/-- A Stoker that was changed, but for its releases. -/
theorem State.settleRels_updStoker_stoker (f : Stoker → Stoker) : ((s.updStoker h k f).settleRels h k).stoker h k =
    { f (s.stoker h k) with rels := (((s.updStoker h k f).settleRels h k).stoker h k).rels } := by
  have hkept := State.settleRels_stoker k (n.updStoker k f)
  rwa [State.updStoker_stoker _ _ _ _ n] at hkept

theorem State.updStoker_updStoker (f g : Stoker → Stoker) :
    (s.updStoker h k f).updStoker h k g = s.updStoker h k fun x => g (f x) := by
  have hhearth : ((s.hearth h).setStoker k (f (s.stoker h k))).setStoker k (g (f (s.stoker h k))) =
      (s.hearth h).setStoker k (g (f (s.stoker h k))) := by
    simp only [Hearth.setStoker, mset_mset _ _ _ _ _ n.stokers]
  rw [State.updStoker, State.updStoker_stoker _ _ _ _ n, State.setStoker, State.updStoker_hearth _ _ _ _ n, hhearth]
  exact State.setHearth_setHearth _ _ _ _ n.hearths

end SettleRels

/-- LD's value as its register takes it (Table 8-4). -/
theorem ofNat_loadValue (size : Nat) (sext : Bool) (v : Nat) : BitVec.ofNat 64 (loadValue size sext v) =
    if sext then BitVec.ofInt 64 (signed (8 * size) v) else BitVec.ofNat 64 v := by
  unfold loadValue
  split
  · exact BitVec.ofNat_toNat ..
  · rfl

/-- Settles O43: a piece that is sent keeps its access open; the last one to come back ends it, and what the end does is one
lemma for each kind of access. -/
theorem accessesReachTheirPlace : Obligations.AccessesReachTheirPlace := by
  unfold Obligations.AccessesReachTheirPlace
  rintro s id o i a hc ha rfl
  refine ⟨?sent, ?ended⟩
  case sent =>
    intro r rest htodo hlive hmay hfence hcheck halign hloc
    have hsend := State.sendAcc_of_ok ha htodo hlive hmay hfence hcheck halign hloc
    have hopen : (s.sendAcc a.id).finishAcc a.id = s.sendAcc a.id := by
      rw [hsend]
      exact State.finishAcc_of_inFlight (List.mem_append_right _ List.mem_cons_self) rfl
    exact congrArg (fun t : State => Host.Outcome.next t.pumpBays) (hopen.trans hsend)
  case ended =>
    intro p v d hp hst htarget howner hhearth hstoker hlast htodo herr hbuf horder hlost hva hv
    have h : s.LastPiece p a := ⟨ha, howner, hlast, htodo, herr⟩
    have hneat := Safety.Canon.neat hc a.hearth
    have hlen : (bytesAt s.shared o p.len).length = p.len := bytesAt_length ..
    have hplace := State.pieceComplete_of_shared htarget hp hst horder []
    refine ⟨?load, ?store, ?add⟩
    case load =>
      rintro size sext hkind hagent hread rfl hlive hwo
      have hend := State.pieceAtPlace_of_read htarget (by simp [hagent]) hread hlost []
      rw [h.pieceEnd_load hbuf hva (hlen.symm ▸ hkind), hlen, ← hv, hhearth, hstoker,
        State.deliver_of_live (s.without p a) hwo hlive, ofNat_loadValue] at hend
      exact ⟨_, exec_pieceComplete_of_eq (hplace.trans hend), State.settleRels_pieces ..,
        State.settleRels_accs .., State.settleRels_shared .., State.settleRels_updStoker_stoker _ (hneat.without p a) _⟩
    case store =>
      intro hkind hagent hwrite
      have hend := State.pieceAtPlace_of_write (s := s) htarget (by simp [hagent]) hwrite []
      rw [(h.putShared o p.wdata).pieceEnd_store hkind] at hend
      have hshared := State.settleRels_shared ((s.putShared o p.wdata).without p a) p.hearth p.stoker
      exact ⟨_, exec_pieceComplete_of_eq (hplace.trans hend), hshared, State.settleRels_accs ..,
        fun j hj => (congrArg (byteAt · j) hshared).trans (byteAt_putMasked_ne s.shared o p.wdata j hj)⟩
    case add =>
      intro addend hkind hagent hlen8 hlive hwo
      have hneat := (hneat.putShared o (fullMask (natLe 8 (BitVec.ofNat 64 v + addend).toNat))).without p a
      have hend := State.pieceAtPlace_of_add htarget hagent howner ha hkind hlost []
      rw [(h.putShared o _).pieceEnd_flagAdd hbuf hva hkind (hlen.trans hlen8), ← hv, hhearth, hstoker,
        State.deliver_of_live ((s.putShared o _).without p a) hwo hlive, State.updStoker_updStoker _ hneat] at hend
      refine ⟨_, exec_pieceComplete_of_eq (hplace.trans hend), State.settleRels_shared ..,
        (State.settleRels_updStoker_stoker _ hneat _).trans ?_⟩
      rw [State.without_stoker, State.putShared_stoker, Stoker.deliver_adds]

end Sys2Proof.Machine

namespace Sys2Proof.Machine

open Sys2Proof.Safety

/-! # Fences and FLAG operations (O32) -/

/-! ### An instruction that has issued -/

section Issued
variable {s u t : State} {h k : Nat} {z : Hearth} {y : Stoker} {c : Instr}

theorem does_of_next (hx : exec c s = .next ((Issued.next t).settle s h k)) (r : Ran s h k u z y false t) :
    Does c s h k u z y true := ⟨_, hx, Safety.Ran.retire r⟩

theorem does_of_park (hx : exec c s = .next ((Issued.park t).settle s h k)) (r : Ran s h k u z y false t) :
    Does c s h k u z y false := ⟨_, hx, r⟩

/-- The instruction makes an access. -/
theorem ran_newAcc {d : Bool} (r : Ran s h k s z y d t) (hgal : y.gal = (s.stoker h k).gal)
    (hwo : y.wo = (s.stoker h k).wo) (a : Agent) (kind : AccKind) (q : Run) (rest : List Run) :
    Ran s h k (withAccess s h k a kind q.va (q :: rest)) z y d
      (t.newAcc h k (s.stoker h k).pc (s.stoker h k).seq a kind (q :: rest)) := by
  have hnew : t.newAcc h k (s.stoker h k).pc (s.stoker h k).seq a kind (q :: rest) =
      { withAccess s h k a kind q.va (q :: rest) with hearths := t.hearths, wos := t.wos } := by
    simp only [State.newAcc, r.self, hgal, hwo]
    conv_lhs => rw [r.device]
    rfl
  rw [hnew]
  exact Safety.Ran.dev r rfl

/-- The Stoker parks. -/
theorem ran_parkAs {d : Bool} (r : Ran s h k u z y d t) (n : Neat t h) (st : StSt) (wait : Wait) :
    Ran s h k u z { y with st := st, wait := wait } d (t.parkAs h k st wait) :=
  Safety.Ran.upd r n fun x => { x with st := st, wait := wait }

end Issued

theorem fits_of_noDst {w : Nat} (hd : NoDst w) : DstUse.none.fits w = true := by
  obtain ⟨hdst, hspace⟩ := hd
  simp [DstUse.fits, hdst, hspace]

theorem zDstInFile_of_noDst {w : Nat} (hd : NoDst w) : zDstInFile w = true := by
  obtain ⟨-, hspace⟩ := hd
  simp [zDstInFile, hspace]

theorem fits_of_toReg {w : Nat} (hd : ToReg w) : DstUse.reg.fits w = true := decide_eq_true hd.1

/-! ### What an issued SYN instruction comes to -/

section Syn
variable {s : State} {h k w e : Nat}

section NoRegister
variable (hi : Issues s h k w e []) (hd : NoDst w)
include hi hd

theorem State.fence_of_issues {op : Nat} (hop : op < 32) (hf : Fields w 3 op 0 0 0 0) (writes : Bool) :
    s.fence h k op writes =
      (if s.fenceDone h k (s.stoker h k).seq writes then Issued.next (s.advance h k 1)
        else .park ((s.advance h k 1).parkAs h k .parkedFence (.fence (s.stoker h k).seq writes))).settle s h k := by
  obtain ⟨hcls, hop', ha, hb, hsub, himm⟩ := hf
  refine (State.issue_run hi hcls hop' rfl (fits_of_noDst hd) (by simp [synZero, ha, hb, hsub, himm])
    (zDstInFile_of_noDst hd) rfl).trans ?_
  rw [if_neg (by omega : ¬ 32 ≤ op)]

theorem State.fenceRel_of_issues (hf : Fields w 3 2 0 0 0 0) :
    s.fenceRel h k =
      (if s.waitsOnHalt h k (s.stoker h k).seq then
        Issued.park ((s.release1 (s.advance h k 1) h k).parkAs h k .parkedFence (.rel (s.stoker h k).seq))
        else .next ((s.release1 (s.advance h k 1) h k).settleRels h k)).settle s h k := by
  obtain ⟨hcls, hop, ha, hb, hsub, himm⟩ := hf
  exact State.issue_run hi hcls hop rfl (fits_of_noDst hd) (by simp [synZero, ha, hb, hsub, himm])
    (zDstInFile_of_noDst hd) rfl

end NoRegister

theorem State.flagSetOp_of_issues (hi : Issues s h k w e [sDst (zA w), sDst (zB w)]) (hd : NoDst w)
    (hf : Fields w 3 4 (zA w) (zB w) 0 (zImm w)) :
    s.flagSetOp h k = (Issued.next ((s.release1 (s.advance h k 1) h k).newAcc h k (s.stoker h k).pc (s.stoker h k).seq
      .flagSet .flagSet [{ va := addressOf (s.stoker h k) w, len := 8
                           wdata := fullMask (natLe 8 ((s.stoker h k).sreg (zB w)).toNat) }])).settle s h k := by
  obtain ⟨hcls, hop, -, -, hsub, -⟩ := hf
  exact State.issue_run hi hcls hop rfl (fits_of_noDst hd) (by simp [hsub]) (zDstInFile_of_noDst hd) rfl

section Register
variable (hi : Issues s h k w e [sDst (zA w), sDst (zB w), zDstReg w]) (hd : ToReg w)
  (hreads : s.memReadsOut h k (s.stoker h k).seq = false)
include hi hd hreads

theorem State.flagAddOp_of_issues (hf : Fields w 3 5 (zA w) (zB w) 0 (zImm w)) :
    s.flagAddOp h k = (Issued.next (((s.release1 (s.advance h k 1) h k).updStoker h k fun x =>
      { x.await (zDstReg w) with adds := x.adds ++ [(s.stoker h k).seq] }).newAcc h k (s.stoker h k).pc (s.stoker h k).seq
        .flagAdd (.flagAdd (zDstReg w) ((s.stoker h k).sreg (zB w)))
        [{ va := addressOf (s.stoker h k) w, len := 8 }])).settle s h k := by
  obtain ⟨hcls, hop, -, -, hsub, -⟩ := hf
  refine (State.issue_run hi hcls hop rfl (fits_of_toReg hd) (by simp [hsub]) hd.2 rfl).trans ?_
  exact congrArg (fun r : Issued => r.settle s h k) (if_neg (by simp [hreads]))

theorem State.flagWaitOp_of_issues {cc : Nat} (hcc : cc < 10) (hf : Fields w 3 6 (zA w) (zB w) (2 * cc) (zImm w)) :
    s.flagWaitOp h k = (Issued.park (((s.advance h k 1).parkAs h k .parkedFlag (.flag (addressOf (s.stoker h k) w) (zDstReg w)
      cc ((s.stoker h k).sreg (zB w)))).newAcc h k (s.stoker h k).pc (s.stoker h k).seq .flagWait
        (.flagWait (zDstReg w) cc ((s.stoker h k).sreg (zB w)))
        [{ va := addressOf (s.stoker h k) w, len := 8 }])).settle s h k := by
  obtain ⟨hcls, hop, -, -, hsub, -⟩ := hf
  have hcond : zSub w / 2 = cc := by omega
  refine (State.issue_run hi hcls hop rfl (fits_of_toReg hd)
    (by simp only [hsub, Bool.and_eq_true, decide_eq_true_eq]; omega) hd.2 rfl).trans ?_
  rw [hcond]
  exact congrArg (fun r : Issued => r.settle s h k) (if_neg (by simp [hreads]))

end Register

end Syn

/-! ### Releases (R248, R254) -/

theorem State.relDone_congr {s t : State} {h k : Nat} (haccs : t.accs = s.accs) (hpieces : t.pieces = s.pieces)
    (hflus : (t.hearth h).flus = (s.hearth h).flus) (hhandles : (t.stoker h k).handles = (s.stoker h k).handles) (r : Rel) :
    t.relDone h k r = s.relDone h k r := by
  simp only [State.relDone, State.memReadsOut, State.writesOut, State.piece?, haccs, hpieces, hflus, hhandles]

/-- Every release of a Stoker whose condition holds is forgotten. -/
theorem State.settleRels_eq (t : State) (h k : Nat) (hne : (t.stoker h k).rels ≠ []) :
    t.settleRels h k = t.updStoker h k fun x => { x with rels := x.rels.filter fun r => !t.relDone h k r } :=
  if_neg (by simpa using hne)

/-- The release that the Stoker issues. -/
def State.newRel (s : State) (h k : Nat) : Rel := { seq := (s.stoker h k).seq, reads := s.streamReads h k }

section Release
variable {s : State} (hc : Canon s) (h k : Nat)
include hc

/-- The Stoker past a release, which holds its later writes. -/
theorem ran_release : Ran s h k s (s.hearth h)
    { past (s.stoker h k) 1 with rels := (s.stoker h k).rels ++ [s.newRel h k] } false
    (s.release1 (s.advance h k 1) h k) :=
  Safety.Ran.upd (ran_advance hc) ((Safety.Canon.neat hc h).advance k 1) fun x =>
    { x with rels := x.rels ++ [s.newRel h k] }

theorem Neat.release : Neat (s.release1 (s.advance h k 1) h k) h := ((Safety.Canon.neat hc h).advance k 1).updStoker k _

/-- What a release waits for is the same after it. -/
theorem State.release_relDone (r : Rel) : (s.release1 (s.advance h k 1) h k).relDone h k r = s.relDone h k r := by
  have hran := ran_release hc h k
  refine State.relDone_congr (s := s) (t := s.release1 (s.advance h k 1) h k) rfl rfl ?_ ?_ r
  · rw [hran.hearth]
  · rw [hran.self]
    rfl

theorem ran_settleRels_release : Ran s h k s (s.hearth h)
    { past (s.stoker h k) 1 with rels := ((s.stoker h k).rels ++ [s.newRel h k]).filter fun q => !s.relDone h k q } false
    ((s.release1 (s.advance h k 1) h k).settleRels h k) := by
  have hran := ran_release hc h k
  have hne : ((s.release1 (s.advance h k 1) h k).stoker h k).rels ≠ [] := by
    rw [hran.self]
    exact List.concat_ne_nil _ _
  simp only [State.settleRels_eq _ h k hne, State.release_relDone hc]
  exact Safety.Ran.upd hran (Neat.release hc h k) fun x => { x with rels := x.rels.filter fun r => !s.relDone h k r }

end Release

/-! ### A flag that is watched (R258) -/

/-- A flag in the Shared Store is read again. -/
theorem State.flagReread_of_shared {s : State} {h k va cc o : Nat} {dst : Dst} {b : W64} {seg : Option Nat}
    (hwait : (s.stoker h k).wait = .flag va dst cc b)
    (hnone : ∀ a ∈ s.accs, a.by h k = true → ∀ d c v, a.kind ≠ .flagWait d c v)
    (hcheck : s.check (s.stoker h k).gal .flagWait va = .ok (.shared o) seg) (hlost : s.sharedLost o 8 = false) :
    s.flagReread h k = s.flagSeen h k (BitVec.ofNat 64 (leNat (bytesAt s.shared o 8))) := by
  simp only [State.flagReread, hwait]
  refine (if_neg fun hread => ?_).trans ?_
  · obtain ⟨a, ha, hboth⟩ := List.any_eq_true.1 hread
    obtain ⟨hby, hkind⟩ := Bool.and_eq_true_iff.1 hboth
    split at hkind
    next heq => exact hnone a ha hby _ _ _ heq
    next => cases hkind
  rw [hcheck]
  exact if_neg (by simpa using hlost)

theorem State.flagSeen_of_wait {s : State} {h k va cc : Nat} {dst : Dst} {b : W64}
    (hwait : (s.stoker h k).wait = .flag va dst cc b) (v : W64) : s.flagSeen h k v =
      if condHolds cc v b then s.setStoker h k
        { (s.stoker h k).write dst v with st := .parkedFence, wait := .fence (s.stoker h k).seq false } else s := by
  simp only [State.flagSeen, hwait]
  rfl

/-- Settles O32: each instruction by what its issue comes to; a watched flag by the condition on the value read. -/
theorem fencesAndFlags : Obligations.FencesAndFlags := by
  unfold Obligations.FencesAndFlags
  rintro s h k w e x r hc rfl rfl
  refine ⟨fun hi hd => ⟨?fence, ?release⟩, ?set, fun hi hd hreads => ⟨?add, ?wait⟩, ?reread⟩
  case fence =>
    intro c full hform
    obtain ⟨op, hop, hf, hx⟩ : ∃ op, op < 32 ∧ Fields w 3 op 0 0 0 0 ∧ exec c s = .next (s.fence h k op full) := by
      obtain ⟨rfl, rfl, hf⟩ | ⟨rfl, rfl, hf⟩ := hform
      · exact ⟨1, by decide, hf, rfl⟩
      · exact ⟨3, by decide, hf, rfl⟩
    rw [State.fence_of_issues hi hd hop hf] at hx
    refine ⟨fun hdone => ?_, fun hdone => ?_⟩ <;> rw [hdone] at hx
    · exact does_of_next hx (ran_advance hc)
    · exact does_of_park hx (ran_parkAs (ran_advance hc) ((Safety.Canon.neat hc h).advance k 1) ..)
  case release =>
    intro hf
    have hx : exec (.fenceRel h k) s = .next (s.fenceRel h k) := rfl
    rw [State.fenceRel_of_issues hi hd hf] at hx
    refine ⟨fun hhalt => ?_, fun hhalt => ?_⟩ <;> rw [hhalt] at hx
    · exact does_of_next hx (ran_settleRels_release hc h k)
    · exact does_of_park hx (ran_parkAs (ran_release hc h k) (Neat.release hc h k) ..)
  case set =>
    intro hi hd hf
    refine does_of_next (congrArg Host.Outcome.next (State.flagSetOp_of_issues hi hd hf)) ?_
    exact ran_newAcc (ran_release hc h k) rfl rfl ..
  case add =>
    intro hf
    refine does_of_next (congrArg Host.Outcome.next (State.flagAddOp_of_issues hi hd hreads hf)) ?_
    exact ran_newAcc (Safety.Ran.upd (ran_release hc h k) (Neat.release hc h k) fun x =>
      { x.await (zDstReg w) with adds := x.adds ++ [(s.stoker h k).seq] }) rfl rfl ..
  case wait =>
    intro cc hcc hf
    refine does_of_park (congrArg Host.Outcome.next (State.flagWaitOp_of_issues hi hd hreads hcc hf)) ?_
    exact ran_newAcc (ran_parkAs (ran_advance hc) ((Safety.Canon.neat hc h).advance k 1) ..) rfl rfl ..
  case reread =>
    rintro va dst cc b o seg v hwait hnone hagent hcheck hlost rfl
    have hx : exec (.flagReread h k) s = .next (s.flagReread h k) := rfl
    have hnoread : ∀ a ∈ s.accs, a.by h k = true → ∀ d c v, a.kind ≠ .flagWait d c v := by
      intro a ha hby d c v hkind
      obtain ⟨hh, hk⟩ : a.hearth = h.val ∧ a.stoker = k.val := by simpa [Acc.by] using hby
      have hflag := hagent a ha
      rw [hkind] at hflag
      exact hnone a ha hh hk hflag
    rw [State.flagReread_of_shared hwait hnoread hcheck hlost, State.flagSeen_of_wait hwait] at hx
    exact ⟨fun hcond => hx.trans (congrArg Host.Outcome.next (if_pos hcond)),
      fun hcond => hx.trans (congrArg Host.Outcome.next (if_neg (by simp [hcond])))⟩

end Sys2Proof.Machine

namespace Sys2Proof.Machine

open Sys2Proof.Safety

/-! # What a Fenline flit for this device does (O47) -/

/-! ### Fenline ports -/

section Ports
variable (s : State)

theorem State.setFenPort_fenPort (p : Nat) {x : FenPort} (hx : x ≠ {}) : (s.setFenPort p x).fenPort p = x :=
  mget_mset_self _ _ _ _ hx

theorem State.setFenPort_fenPort_ne {p q : Nat} (x : FenPort) (hq : q ≠ p) : (s.setFenPort p x).fenPort q = s.fenPort q :=
  mget_mset_ne _ _ _ _ _ hq

end Ports

theorem FenPort.ne_of_active {x : FenPort} (h : x.st = .active) : x ≠ {} := by
  rintro rfl
  cases h

/-- A port with a flit underway is no fresh port. -/
theorem FenPort.ne_of_underway {x : FenPort} {g : FlitOut} (h : Underway x g) : x ≠ {} := by
  rintro rfl
  obtain h | ⟨_, _, h⟩ := h <;> cases h

section AddCredits
variable (x : FenPort) (vc : Nat) (n : Int)

theorem FenPort.addCredits_st : (x.addCredits vc n).st = x.st := by
  unfold FenPort.addCredits
  split <;> rfl

theorem FenPort.addCredits_inbox : (x.addCredits vc n).inbox = x.inbox := by
  unfold FenPort.addCredits
  split <;> rfl

theorem FenPort.addCredits_waiting : (x.addCredits vc n).waiting = x.waiting := by
  unfold FenPort.addCredits
  split <;> rfl

end AddCredits

/-- A port's XOFF bits change, and the peer is told, or nothing does (R676). -/
theorem State.xoffCheck_cases (s : State) (p : Nat) :
    s.xoffCheck p = s ∨ ∃ v, s.xoffCheck p = (s.setFenPort p { s.fenPort p with stopping := v }).send (.fenXoff p v) :=
  (ite_eq_or_eq _ _ _).imp id fun h => ⟨_, h⟩

/-! ### Flits on their way (R672 to R678, R682) -/

/-- A port changed beside its flits keeps them. -/
theorem State.setFenPort_underway {s : State} {p q : Nat} {x : FenPort} {g : FlitOut} (h : Underway (s.fenPort q) g)
    (hx : Underway (s.fenPort p) g → Underway x g) : Underway ((s.setFenPort p x).fenPort q) g := by
  by_cases hq : q = p
  · subst hq
    rw [s.setFenPort_fenPort q (FenPort.ne_of_underway (hx h))]
    exact hx h
  · rwa [s.setFenPort_fenPort_ne x hq]

theorem State.setFenPort_underway_self (s : State) (p : Nat) {x : FenPort} {g : FlitOut} (h : Underway x g) :
    Underway ((s.setFenPort p x).fenPort p) g := by
  rwa [s.setFenPort_fenPort p (FenPort.ne_of_underway h)]

theorem State.xoffCheck_underway {s : State} {q : Nat} {g : FlitOut} (h : Underway (s.fenPort q) g) (p : Nat) :
    Underway ((s.xoffCheck p).fenPort q) g := by
  obtain hx | ⟨v, hx⟩ := s.xoffCheck_cases p <;> rw [hx]
  · exact h
  · exact State.setFenPort_underway h id

/-- The port once a flit has left: the flit is kept until it is acknowledged (R677). -/
def FenPort.sent (x : FenPort) (g : FlitOut) : FenPort :=
  let y := x.addCredits (vcOf g.body) (-1)
  { y with txSeq := y.txSeq + 1, unacked := y.unacked ++ [(y.txSeq, g, false)] }

theorem FenPort.sent_unacked (x : FenPort) (g : FlitOut) : ∃ n r, (n, g, r) ∈ (x.sent g).unacked :=
  ⟨_, _, List.mem_append_right _ List.mem_cons_self⟩

theorem State.transmit_fenPort (s : State) (p : Nat) (g : FlitOut) : (s.transmit p g).fenPort p = (s.fenPort p).sent g :=
  s.setFenPort_fenPort p (FenPort.ne_of_underway (.inr (FenPort.sent_unacked _ g)))

/-- One flit of a port's line leaves, or stays in the line. -/
def State.pumpStep (p : Nat) (a : State × List FlitOut) (g : FlitOut) : State × List FlitOut :=
  if (a.1.fenPort p).maySend (vcOf g.body) && !a.2.any fun f => decide (vcOf f.body = vcOf g.body) then (a.1.transmit p g, a.2)
  else (a.1, a.2 ++ [g])

theorem State.pumpPort_eq (s : State) (p : Nat) : s.pumpPort p =
    ((s.fenPort p).waiting.foldl (State.pumpStep p) (s, [])).1.updFenPort p fun x =>
      { x with waiting := ((s.fenPort p).waiting.foldl (State.pumpStep p) (s, [])).2 } := rfl

/-- The last flit of a port's line has left or still waits. -/
theorem State.pumpPort_underway {s : State} {p : Nat} {l : List FlitOut} {g : FlitOut}
    (hl : (s.fenPort p).waiting = l ++ [g]) : Underway ((s.pumpPort p).fenPort p) g := by
  rw [State.pumpPort_eq, hl, List.foldl_append]
  generalize l.foldl (State.pumpStep p) (s, []) = a
  refine State.setFenPort_underway_self _ p ?_
  simp only [List.foldl_cons, List.foldl_nil, State.pumpStep]
  split
  · simp only [State.transmit_fenPort]
    exact .inr (FenPort.sent_unacked _ g)
  · exact .inl (List.mem_append_right _ List.mem_cons_self)

theorem State.sendFlit_underway (s : State) (p : Nat) (g : FlitOut) : Underway ((s.sendFlit p g).fenPort p) g := by
  have hjoined : Underway { s.fenPort p with waiting := (s.fenPort p).waiting ++ [g] } g :=
    .inl (List.mem_append_right _ List.mem_cons_self)
  refine State.pumpPort_underway (l := (s.fenPort p).waiting) ?_
  exact congrArg FenPort.waiting (s.setFenPort_fenPort p (FenPort.ne_of_underway hjoined))

theorem State.answer_underway {s : State} {f : FlitHdr} {q : Nat} (h : s.outPort f.src = some q) (i : Nat) (b : FlitBody) :
    Underway ((s.answer f i b).fenPort q) (s.flitFor f.src f.xtag.toNat f.gallery i b) := by
  rw [State.answer, State.sendTo, h]
  exact s.sendFlit_underway q _

/-! ### What the link leaves alone -/

/-- The device with other Fenline ports and other things sent. -/
def State.relinked (s : State) (ps : Sparse FenPort) (o : List Out) : State :=
  { s with fen := { s.fen with ports := ps }, out := o }

/-- Only Fenline ports and what is sent differ. -/
def Relinked (s t : State) : Prop := ∃ ps o, t = s.relinked ps o

namespace Relinked
variable {s t : State}

theorem refl (s : State) : Relinked s s := ⟨_, _, rfl⟩

theorem setFenPort (h : Relinked s t) (p : Nat) (x : FenPort) : Relinked s (t.setFenPort p x) := by
  obtain ⟨ps, o, rfl⟩ := h
  exact ⟨_, _, rfl⟩

theorem send (h : Relinked s t) (m : Out) : Relinked s (t.send m) := by
  obtain ⟨ps, o, rfl⟩ := h
  exact ⟨_, _, rfl⟩

theorem xoffCheck (h : Relinked s t) (p : Nat) : Relinked s (t.xoffCheck p) := by
  obtain hx | ⟨v, hx⟩ := t.xoffCheck_cases p <;> rw [hx]
  · exact h
  · exact (h.setFenPort p _).send _

theorem transmit (h : Relinked s t) (p : Nat) (g : FlitOut) : Relinked s (t.transmit p g) := (h.setFenPort p _).send _

theorem pumpPort (h : Relinked s t) (p : Nat) : Relinked s (t.pumpPort p) := by
  rw [State.pumpPort_eq]
  refine setFenPort (List.foldlRecOn (motive := fun (a : State × List FlitOut) => Relinked s a.1) _ _ h ?_) p _
  intro a ha g _
  unfold State.pumpStep
  split
  · exact ha.transmit p g
  · exact ha

theorem sendFlit (h : Relinked s t) (p : Nat) (g : FlitOut) : Relinked s (t.sendFlit p g) := (h.setFenPort p _).pumpPort p

theorem answer (h : Relinked s t) (f : FlitHdr) (i : Nat) (b : FlitBody) : Relinked s (t.answer f i b) := by
  unfold State.answer State.sendTo
  split
  · exact h.sendFlit _ _
  · exact h

theorem shared (h : Relinked s t) : t.shared = s.shared := by
  obtain ⟨ps, o, rfl⟩ := h
  rfl

theorem isOurs (h : Relinked s t) (f : FlitHdr) : t.isOurs f = s.isOurs f := by
  obtain ⟨ps, o, rfl⟩ := h
  rfl

end Relinked

/-! ### Answers (R682, R690) -/

/-- Flits are routed and headed alike (R682, R690). -/
structure RoutesAs (s u : State) : Prop where
  outPort : ∀ d, u.outPort d = s.outPort d
  flitFor : ∀ d tag g i b, u.flitFor d tag g i b = s.flitFor d tag g i b

/-- Routes and headers depend on the Fenline state alone, and not on the failed transactions in it. -/
theorem RoutesAs.of_fen {s u : State} {bad : List (Nat × Nat)} (h : u.fen = { s.fen with bad := bad }) : RoutesAs s u := by
  constructor
  · intro d
    simp only [State.outPort, State.route, State.fenPort, h]
    rfl
  · intro d tag g i b
    simp only [State.flitFor, State.cfgEpoch, State.epochOf, h]

/-- The answer to a flit is on its way, when its originator can be reached. -/
def Answered (s t : State) (f : FlitHdr) (i : Nat) (b : FlitBody) : Prop :=
  ∀ q, s.outPort f.src = some q → Underway (t.fenPort q) (s.flitFor f.src f.xtag.toNat f.gallery i b)

theorem RoutesAs.answered {s u : State} (h : RoutesAs s u) (f : FlitHdr) (i : Nat) (b : FlitBody) :
    Answered s (u.answer f i b) f i b := by
  intro q hq
  rw [← h.flitFor]
  exact State.answer_underway ((h.outPort _).trans hq) i b

/-! ### A flit that the link accepts (R672 to R677) -/

/-- The port after ACK, XOFF and credits of an accepted flit without NAK. -/
def FenPort.linked (x : FenPort) (f : FlitHdr) : FenPort :=
  { x.addCredits f.crVc.toNat f.crCount.toNat with
    xoff := f.xoff, unacked := x.unacked.filter fun u => !seqUpTo u.1 f.ack }

section Linked
variable (x : FenPort) (f : FlitHdr)

theorem FenPort.linked_st : (x.linked f).st = x.st := x.addCredits_st _ _
theorem FenPort.linked_inbox : (x.linked f).inbox = x.inbox := x.addCredits_inbox _ _
theorem FenPort.linked_waiting : (x.linked f).waiting = x.waiting := x.addCredits_waiting _ _

end Linked

theorem State.linkFields_eq (s : State) (p : Nat) {f : FlitHdr} (hnak : f.nak = false) :
    s.linkFields p f = (s.setFenPort p ((s.fenPort p).linked f)).pumpPort p := by
  simp only [State.linkFields, hnak, Bool.false_eq_true, if_false]
  rfl

/-- The link of port `p` has moved, and nothing else; its receive buffer is `box`. -/
structure Accepted (s : State) (p : Nat) (box : List (FlitHdr × FlitBody)) (u : State) : Prop where
  rest : Relinked s u
  states : ∀ q, (u.fenPort q).st = (s.fenPort q).st
  inbox : (u.fenPort p).inbox = box

theorem Accepted.refl (s : State) (p : Nat) : Accepted s p (s.fenPort p).inbox s := ⟨.refl s, fun _ => rfl, rfl⟩

theorem Accepted.routesAs {s u : State} {p : Nat} {box : List (FlitHdr × FlitBody)} (h : Accepted s p box u) : RoutesAs s u := by
  obtain ⟨⟨ps, o, rfl⟩, hstates, -⟩ := h
  constructor
  · intro d
    simp only [State.outPort, hstates]
    rfl
  · intro d tag g i b
    rfl

section Link
variable {s u : State} {p : Nat} {box : List (FlitHdr × FlitBody)} (hactive : (s.fenPort p).st = .active)
  (h : Accepted s p box u)
include hactive h

theorem Accepted.setFenPort {x : FenPort} {box' : List (FlitHdr × FlitBody)} (hst : x.st = .active) (hbox : x.inbox = box') :
    Accepted s p box' (u.setFenPort p x) := by
  have hself := u.setFenPort_fenPort p (FenPort.ne_of_active hst)
  refine ⟨h.rest.setFenPort p x, fun q => ?_, by rwa [hself]⟩
  by_cases hq : q = p
  · rw [hq, hself, hst, hactive]
  · rw [u.setFenPort_fenPort_ne x hq, h.states]

theorem Accepted.active : (u.fenPort p).st = .active := (h.states p).trans hactive

omit hactive in
theorem Accepted.send (m : Out) : Accepted s p box (u.send m) := ⟨h.rest.send m, h.states, h.inbox⟩

theorem Accepted.xoffCheck : Accepted s p box (u.xoffCheck p) := by
  obtain hx | ⟨v, hx⟩ := u.xoffCheck_cases p <;> rw [hx]
  · exact h
  · refine Accepted.send (h.setFenPort hactive ?_ ?_) _
    · exact h.active hactive
    · exact h.inbox

theorem Accepted.pumpPort (hwait : (u.fenPort p).waiting = []) : Accepted s p box (u.pumpPort p) := by
  rw [State.pumpPort_eq, hwait]
  refine h.setFenPort hactive ?_ ?_
  · exact h.active hactive
  · exact h.inbox

theorem Accepted.linkFields {f : FlitHdr} (hnak : f.nak = false) (hwait : (u.fenPort p).waiting = []) :
    Accepted s p box (u.linkFields p f) := by
  have hst : ((u.fenPort p).linked f).st = .active := ((u.fenPort p).linked_st f).trans (h.active hactive)
  have hself := u.setFenPort_fenPort p (FenPort.ne_of_active hst)
  have hmoved := h.setFenPort hactive hst (((u.fenPort p).linked_inbox f).trans h.inbox)
  rw [State.linkFields_eq u p hnak]
  refine hmoved.pumpPort hactive ?_
  rw [hself, (u.fenPort p).linked_waiting, hwait]

end Link

/-- The flit is the next one of port `p`, which is ACTIVE with nothing in line, and it is for this device. -/
structure State.Takes (s : State) (p : Nat) (f : FlitHdr) : Prop where
  active : (s.fenPort p).st = .active
  crc : f.crcOk = true
  seq : f.seq = (s.fenPort p).rxSeq
  nak : f.nak = false
  waiting : (s.fenPort p).waiting = []
  inbox : (s.fenPort p).inbox = []
  valid : s.fen.valid = true
  ours : f.dst.val = s.fen.devno

theorem State.Takes.isOurs {s : State} {p : Nat} {f : FlitHdr} (h : s.Takes p f) : s.isOurs f = true := by
  simp [State.isOurs, h.valid, h.ours]

/-- A flit for this device joins the receive buffer, and its credit goes back (R673). -/
theorem State.credited_of_ours {s : State} {p : Nat} {f : FlitHdr} (hactive : (s.fenPort p).st = .active)
    (hours : s.isOurs f = true) (b : FlitBody) : s.credited p f b =
      (((s.send (.fenCredit p (vcOf b) 1)).updFenPort p fun x => { x with inbox := x.inbox ++ [(f, b)] }).xoffCheck p).drainInbox
        p := by
  have hopen : ((s.send (.fenCredit p (vcOf b) 1)).fenPort p).st.isActive = true := congrArg FenSt.isActive hactive
  have hmine : (s.send (.fenCredit p (vcOf b) 1)).isOurs f = true := hours
  refine (if_neg ?_).trans (if_neg ?_)
  · simp [hopen]
  · simp [hmine]

/-- The port once it has accepted the next flit (R677). -/
def FenPort.counted (x : FenPort) : FenPort :=
  { x with rxSeq := x.rxSeq + 1, nakSent := false, replays := if x.nakSent then satAdd 65535 x.replays 1 else x.replays }

section Takes
variable {s : State} {p : Nat} {f : FlitHdr} (h : s.Takes p f)
include h

/-- A flit of VC 1 to VC 3 goes to the receive buffer once the link has accepted it. -/
theorem State.Takes.receive {b : FlitBody} (hvc : vcOf b ≠ 0) :
    s.receive p f b = ((s.setFenPort p (s.fenPort p).counted).linkFields p f).credited p f b := by
  have hcarries : (s.fenPort p).st.carries = true := by rw [h.active]; rfl
  refine (if_neg (by simp [hcarries])).trans ((if_neg (by simp [h.crc, h.seq])).trans ?_)
  cases b with
  | idle | bringup | timesync => exact absurd rfl hvc
  | _ => rfl

/-- The accepted flit is alone in the receive buffer when the port engine goes on with it. -/
theorem State.Takes.receive_drain {b : FlitBody} (hvc : vcOf b ≠ 0) :
    ∃ u, Accepted s p [(f, b)] u ∧ s.receive p f b = u.drainInbox p := by
  have hcounted : (s.setFenPort p (s.fenPort p).counted).fenPort p = (s.fenPort p).counted :=
    s.setFenPort_fenPort p (FenPort.ne_of_active (x := (s.fenPort p).counted) h.active)
  have hstart : Accepted s p [] (s.setFenPort p (s.fenPort p).counted) := by
    refine (Accepted.refl s p).setFenPort h.active ?_ ?_
    · exact h.active
    · exact h.inbox
  have hlink := hstart.linkFields h.active h.nak (by rw [hcounted]; exact h.waiting)
  have hours := (hlink.rest.isOurs f).trans h.isOurs
  have hbuffered := (hlink.send (.fenCredit p (vcOf b) 1)).setFenPort h.active
    (x := { ((s.setFenPort p (s.fenPort p).counted).linkFields p f).fenPort p with inbox :=
      (((s.setFenPort p (s.fenPort p).counted).linkFields p f).fenPort p).inbox ++ [(f, b)] }) (box' := [(f, b)])
    (hlink.active h.active) (by simp only [hlink.inbox, List.nil_append])
  refine ⟨_, hbuffered.xoffCheck h.active, (h.receive hvc).trans ?_⟩
  exact State.credited_of_ours (hlink.active h.active) hours b

end Takes

/-- Only Fenline ports and what is sent differ, and every flit on its way still is. -/
structure Handed (t v : State) : Prop where
  rest : Relinked t v
  flits : ∀ q g, Underway (t.fenPort q) g → Underway (v.fenPort q) g

theorem State.drainInbox_of_single {u t : State} {p : Nat} {f : FlitHdr} {b : FlitBody}
    (hbox : (u.fenPort p).inbox = [(f, b)]) (hdone : u.handleFlit f b = (t, true)) : Handed t (u.drainInbox p) := by
  have hdrain : u.drainInbox p = (t.updFenPort p fun x => { x with inbox := x.inbox.drop 1 }).xoffCheck p := by
    simp only [State.drainInbox, hbox, List.length_cons, List.length_nil, State.drainPort, hdone]
  rw [hdrain]
  refine ⟨((Relinked.refl t).setFenPort p _).xoffCheck p, fun q g hg => State.xoffCheck_underway ?_ p⟩
  exact State.setFenPort_underway hg id

/-- The next flit is dealt with where only the link has moved, and what that gives stands at the end. -/
theorem State.Takes.deals {s : State} {p : Nat} {f : FlitHdr} (h : s.Takes p f) {b : FlitBody} (hvc : vcOf b ≠ 0) :
    ∃ u, Relinked s u ∧ RoutesAs s u ∧ ∀ t, u.handleFlit f b = (t, true) → Handed t (s.receive p f b) := by
  obtain ⟨u, hu, hreceive⟩ := h.receive_drain hvc
  refine ⟨u, hu.rest, hu.routesAs, fun t ht => ?_⟩
  rw [hreceive]
  exact State.drainInbox_of_single hu.inbox ht

end Sys2Proof.Machine

namespace Sys2Proof.Machine

open Sys2Proof.Safety

/-! ### Bytes on the wire -/

theorem leNat_natLe (n x : Nat) : leNat (natLe n x) = x % 256 ^ n := by
  induction n generalizing x with
  | zero => simp [natLe, leNat, Nat.mod_one]
  | succ n ih =>
    have hsplit : x % 256 ^ (n + 1) = x % 256 + 256 * (x / 256 % 256 ^ n) := by rw [Nat.pow_succ', Nat.mod_mul]
    rw [hsplit, ← ih]
    rfl

theorem ofNat_leNat_natLe {w : Nat} (v : BitVec w) (n : Nat) (hw : 2 ^ w = 256 ^ n) :
    BitVec.ofNat w (leNat (natLe n v.toNat)) = v := by
  rw [leNat_natLe, ← hw, Nat.mod_eq_of_lt v.isLt, BitVec.ofNat_toNat, BitVec.setWidth_eq]

/-- The payload of an announcement (Table 17-9). -/
theorem mgmtBody_announce (e : W32) (unit : W64) (dev : Fin 64) :
    mgmtBody ([1, 0, 0, 0] ++ natLe 4 e.toNat ++ natLe 8 unit.toNat ++ [BitVec.ofNat 8 dev]) = .announce e unit dev := by
  have hfields : mgmtBody ([1, 0, 0, 0] ++ natLe 4 e.toNat ++ natLe 8 unit.toNat ++ [BitVec.ofNat 8 dev]) =
      .announce (BitVec.ofNat 32 (leNat (natLe 4 e.toNat))) (BitVec.ofNat 64 (leNat (natLe 8 unit.toNat)))
        (Fin.ofNat 64 (leNat (natLe 1 dev))) := rfl
  have hdev : Fin.ofNat 64 (leNat (natLe 1 dev)) = dev := by
    rw [leNat_natLe]
    exact Fin.ext (by simp only [Fin.val_ofNat]; omega)
  rw [hfields, ofNat_leNat_natLe e 4 rfl, ofNat_leNat_natLe unit 8 rfl, hdev]

/-! ### Accesses of the engine to the Shared Store (R241, R702) -/

theorem byteRuns_of_fits {va n : Nat} (hn : n ≠ 0) (hfit : va % 512 + n ≤ 512) : byteRuns va n = [{ va := va, len := n }] := by
  have hcut : min n (512 - va % 512) = n := by omega
  simp only [byteRuns, cutBytes, hn, if_false, hcut, Nat.sub_self, if_true]

theorem writeRuns_of_fits {va : Nat} {d : List (Byte × Byte)} (hd : d ≠ []) (hfit : va % 512 + d.length ≤ 512) :
    writeRuns va d = [{ va := va, len := d.length, wdata := d }] := by
  have hn : d.length ≠ 0 := by simpa using hd
  simp [writeRuns, byteRuns_of_fits hn hfit]

section Shared
variable {s : State} {g : Nat} {a : Agent} {r : Run} {o : Nat} {i : Option Nat}

theorem State.fenBlocked_of_shared (hcheck : s.check g a r.va = .ok (.shared o) i) : s.fenBlocked g a [r] = none := by
  simp [State.fenBlocked, hcheck]

theorem State.fenWrites_of_shared (hcheck : s.check g .fenWrite r.va = .ok (.shared o) i) :
    s.fenWrites g [r] = (s.putShared o r.wdata, none) := by
  simp [State.fenWrites, State.fenPut, hcheck]

theorem State.fenReads_of_shared (hcheck : s.check g .fenRead r.va = .ok (.shared o) i) (hlost : s.sharedLost o r.len = false) :
    s.fenReads g [r] = (s, putBytes [] r.va (bytesAt s.shared o r.len), 1, none) := by
  simp [State.fenReads, State.fenGet, hcheck, hlost]

end Shared

/-! ### What serving a peer gives (R704 to R707) -/

/-- The device with other transactions marked as failed. -/
def State.marked (s : State) (bad : List (Nat × Nat)) : State := { s with fen := { s.fen with bad := bad } }

theorem State.begun_of_good {s : State} {f : FlitHdr} (hgood : s.isBad f = false ∨ f.index = 0) :
    ∃ bad, s.begun f = s.marked bad ∧ (s.marked bad).isBad f = false := by
  by_cases hindex : f.index = 0
  · refine ⟨_, if_pos hindex, ?_⟩
    simp [State.isBad, State.marked]
  · exact ⟨s.fen.bad, if_neg hindex, hgood.resolve_right hindex⟩

section Serve
variable {s : State} {f : FlitHdr} (hopen : s.fenAccepts f.gallery = true)
include hopen

/-- A PUT's bytes are written, and its last flit is acknowledged. -/
theorem State.takePut_of_shared (hgood : s.isBad f = false ∨ f.index = 0) {va o : Nat} {i : Option Nat}
    {d : List (Byte × Byte)} (hcheck : s.check f.gallery .fenWrite va = .ok (.shared o) i) (hd : d ≠ [])
    (hfit : va % 512 + d.length ≤ 512) (l : Bool) :
    ∃ t, s.takePut f va d l = (t, true) ∧ t.shared = putMasked s.shared o d ∧
      (l = true → Answered s t f f.index (.xack .done)) := by
  obtain ⟨bad, hbegun, hnot⟩ := State.begun_of_good hgood
  have hopen' : (s.marked bad).fenAccepts f.gallery = true := hopen
  have hcheck' : (s.marked bad).check f.gallery .fenWrite va = .ok (.shared o) i := hcheck
  have htake : s.takePut f va d l = (if l then ((s.marked bad).putShared o d).answer f f.index (.xack .done)
      else (s.marked bad).putShared o d, true) := by
    simp only [State.takePut, hbegun, hnot, hopen', writeRuns_of_fits hd hfit,
      State.fenBlocked_of_shared (r := { va := va, len := d.length, wdata := d }) hcheck',
      State.fenWrites_of_shared (r := { va := va, len := d.length, wdata := d }) hcheck',
      Bool.not_true, Bool.false_eq_true, if_false]
  have hroutes : RoutesAs s ((s.marked bad).putShared o d) := .of_fen rfl
  refine ⟨_, htake, ?_, fun hl => ?_⟩
  · cases l with
    | false => rfl
    | true => exact ((Relinked.refl _).answer f f.index (.xack .done)).shared
  · rw [if_pos hl]
    exact hroutes.answered f f.index (.xack .done)

/-- A GET is answered with the bytes read. -/
theorem State.takeGet_of_shared (hgood : s.isBad f = false ∨ f.index = 0) {va n o : Nat} {i : Option Nat}
    (hcheck : s.check f.gallery .fenRead va = .ok (.shared o) i) (hn : n ≠ 0) (hfit : va % 512 + n ≤ 512)
    (hlost : s.sharedLost o n = false) :
    ∃ t, s.takeGet f va n = (t, true) ∧ t.shared = s.shared ∧ Answered s t f f.index (.getData (bytesAt s.shared o n)) := by
  obtain ⟨bad, hbegun, hnot⟩ := State.begun_of_good hgood
  have hopen' : (s.marked bad).fenAccepts f.gallery = true := hopen
  have hcheck' : (s.marked bad).check f.gallery .fenRead va = .ok (.shared o) i := hcheck
  have hlost' : (s.marked bad).sharedLost o n = false := hlost
  have hback : bytesAt (putBytes [] va (bytesAt s.shared o n)) va n = bytesAt s.shared o n := by
    simpa using bytesAt_putBytes (bytesAt s.shared o n) [] va rfl
  have htake : s.takeGet f va n = ((s.marked bad).answer f f.index (.getData (bytesAt s.shared o n)), true) := by
    simp only [State.takeGet, hbegun, hnot, hopen', byteRuns_of_fits hn hfit,
      State.fenBlocked_of_shared (r := { va := va, len := n }) hcheck',
      State.fenReads_of_shared (r := { va := va, len := n }) hcheck' hlost', Bool.not_true, Bool.false_eq_true, if_false]
    exact congrArg (fun bs => ((s.marked bad).answer f f.index (.getData bs), true)) hback
  have hroutes : RoutesAs s (s.marked bad) := .of_fen rfl
  exact ⟨_, htake, ((Relinked.refl _).answer f f.index _).shared, hroutes.answered f f.index _⟩

/-- The device with the addend joined to the 8 bytes at an offset of the Shared Store (R256). -/
def State.joined (s : State) (o : Nat) (v : W64) : State :=
  { s with shared := putBytes s.shared o (natLe 8 (BitVec.ofNat 64 (leNat (bytesAt s.shared o 8)) + v).toNat) }

/-- A SIGNAL joins its flag and is acknowledged. -/
theorem State.takeSignal_of_shared {va o : Nat} {i : Option Nat} (hcheck : s.check f.gallery .fenAdd va = .ok (.shared o) i)
    (halign : va % 8 = 0) (hlost : s.sharedLost o 8 = false) (v : W64) :
    ∃ t, s.takeSignal f va v = (t, true) ∧ t.shared = (s.joined o v).shared ∧ Answered s t f 0 (.xack .done) := by
  have htake : s.takeSignal f va v = ((s.joined o v).answer f 0 (.xack .done), true) := by
    simp [State.takeSignal, hopen, hcheck, halign, hlost, State.joined]
  have hroutes : RoutesAs s (s.joined o v) := .of_fen (bad := s.fen.bad) rfl
  exact ⟨_, htake, ((Relinked.refl _).answer f 0 _).shared, hroutes.answered f 0 _⟩

end Serve

/-- A closed gallery refuses a SIGNAL. -/
theorem State.takeSignal_of_closed {s : State} {f : FlitHdr} (hclosed : s.fenAccepts f.gallery = false) (va : Nat) (v : W64) :
    ∃ t, s.takeSignal f va v = (t, true) ∧ t.shared = s.shared ∧ Answered s t f 0 (.xack .closed) := by
  have htake : s.takeSignal f va v = (s.answer f 0 (.xack .closed), true) := by simp [State.takeSignal, hclosed]
  have hroutes : RoutesAs s s := .of_fen (bad := s.fen.bad) rfl
  exact ⟨_, htake, ((Relinked.refl _).answer f 0 _).shared, hroutes.answered f 0 _⟩

/-! ### Parts of a collective (R711, R712) -/

/-- Elements stored from a position on read back there. -/
theorem mget_foldl_elements (es : List Nat) (m : Sparse (Option Nat)) (n i : Nat) {e : Nat} (hi : es[i]? = some e) :
    mget none ((es.mapIdx fun j x => (j, x)).foldl (fun m c => mset none m (n + c.1) (some c.2)) m) (n + i) = some e := by
  induction es using List.reverseRecOn with
  | nil => cases hi
  | append_singleton l x ih =>
    rw [List.mapIdx_concat, List.foldl_append]
    by_cases hlast : i = l.length
    · subst hlast
      obtain rfl : x = e := by simpa using hi
      exact mget_mset_self _ _ _ _ (Option.some_ne_none x)
    · have hlt : i < l.length := by
        obtain ⟨hin, -⟩ := List.getElem?_eq_some_iff.1 hi
        simp only [List.length_append, List.length_singleton] at hin
        omega
      rw [List.getElem?_append_left hlt] at hi
      exact (mget_mset_ne _ _ _ _ _ (by omega)).trans (ih hi)

theorem State.collSteps_of_idle {s : State} (h : s.fen.txs = []) : s.collSteps = s := by
  simp [State.collSteps, h]

/-- A member's part of which only these elements have come. -/
def newPart (g : Nat) (id : W32) (d : Nat) (ps : CollParams) (n : Nat) (es : List Nat) (l : Bool) : CollPart :=
  { gal := g, id := id, dev := d, params := ps, whole := l
    elems := (es.mapIdx fun j x => (j, x)).foldl (fun m c => mset none m (n + c.1) (some c.2)) [] }

theorem State.addPart_part? {s : State} {g d : Nat} {id : W32} (hnone : s.part? g id d = none) (ps : CollParams) (n : Nat)
    (es : List Nat) (l : Bool) : (s.addPart g id d ps n es l).part? g id d = some (newPart g id d ps n es l) := by
  have hgone : (s.fen.parts.filter fun p => !(decide (p.gal = g) && decide (p.id = id) && decide (p.dev = d))).find?
      (fun p => decide (p.gal = g) && decide (p.id = id) && decide (p.dev = d)) = none := by
    rw [List.find?_eq_none]
    intro p hp
    simpa only [Bool.not_eq_true', Bool.not_eq_true] using (List.mem_filter.1 hp).2
  simp only [State.addPart, hnone, Option.getD_none]
  refine List.find?_append.trans ?_
  rw [hgone]
  simp [newPart]

section Parts
variable {s : State} {f : FlitHdr} {id : W32}

/-- Elements of a collective that arrive while no entry is in work are kept. -/
theorem State.takeColl_part? (hopen : s.fenAccepts f.gallery = true) (hnone : s.part? f.gallery id f.src = none)
    (htxs : s.fen.txs = []) (ps : CollParams) (n : Nat) (es : List Nat) (l : Bool) :
    (s.takeColl f id ps n es l).part? f.gallery id f.src = some (newPart f.gallery id f.src ps n es l) := by
  have htake : s.takeColl f id ps n es l = s.addPart f.gallery id f.src ps n es l := by
    simp only [State.takeColl, hopen, Bool.not_true, Bool.false_eq_true, if_false]
    exact State.collSteps_of_idle htxs
  rw [htake]
  exact State.addPart_part? hnone ps n es l

/-- A LEAVE of a member whose part is known is noted. -/
theorem State.takeLeave_left (hpart : s.part? f.gallery id f.src ≠ none) (htxs : s.fen.txs = []) :
    (f.gallery.val, id) ∈ (s.takeLeave f id).fen.left := by
  have hsome : (s.part? f.gallery id f.src).isNone = false := by
    rwa [← Bool.not_eq_true, Option.isNone_iff_eq_none]
  unfold State.takeLeave
  simp only [hsome, Bool.false_eq_true, false_or]
  split
  next hleft => simpa using hleft
  next =>
    rw [State.collSteps_of_idle]
    · exact List.mem_append_right _ List.mem_cons_self
    · exact htxs

end Parts

/-! ### Answers from a peer (R701, R706) -/

/-- A GET with a request that nothing has answered waits on. -/
theorem State.getStep_of_missing {s : State} {t : FenTx} (hsrc : t.src.isSome = true) (hdst : t.dst.isSome = true)
    (hrefused : t.refused = none) {i : Nat} (hlt : i < max 1 t.gets.length) (hmissing : mget none t.got i = none) :
    s.getStep t = (s, true) := by
  obtain ⟨l, hl⟩ := Option.isSome_iff_exists.1 hsrc
  obtain ⟨r, hr⟩ := Option.isSome_iff_exists.1 hdst
  have hpart : ((List.range (max 1 t.gets.length)).all fun j => (mget none t.got j).isSome) = false := by
    rw [List.all_eq_false]
    exact ⟨i, List.mem_range.2 hlt, by simp [hmissing]⟩
  simp only [State.getStep, hl, hr, hrefused, hpart, Bool.not_false, if_true]

section Answers
variable {s : State} {f : FlitHdr} {e : FenTx} (he : s.txOf f = some e)
include he

theorem State.txOf_mem : e ∈ s.fen.txs := List.mem_of_find?_eq_some he

theorem State.txOf_started : e.phase = .started := by
  have hpicked := List.find?_some he
  simp only [Bool.and_eq_true, decide_eq_true_eq] at hpicked
  obtain ⟨⟨-, hstarted⟩, -⟩ := hpicked
  exact hstarted

theorem State.mem_updTx {g : FenTx → FenTx} : g e ∈ (s.updTx e.gal e.entry g).fen.txs :=
  List.mem_map.2 ⟨e, State.txOf_mem he, if_pos ⟨rfl, rfl⟩⟩

/-- An entry without a local failure ends with what its peer answered. -/
theorem State.takeAck_ends (hop : e.op ≠ 2) (hlocal : e.local' = none) (a : FenAck) :
    ∃ t, s.takeAck f a = (t, true) ∧ { e with phase := .ended (ackCode a).1 (ackCode a).2 } ∈ t.fen.txs := by
  refine ⟨s.endTx e.gal e.entry (ackCode a).1 (ackCode a).2, ?_, ?_⟩
  · simp only [State.takeAck, he, if_neg hop, hlocal]
  · have hends := State.mem_updTx he (g := fun t => t.finish (ackCode a).1 (ackCode a).2)
    rwa [FenTx.finish, State.txOf_started he] at hends

/-- What a GET_DATA brings is kept while a request of its entry is still unanswered. -/
theorem State.takeData_keeps (d : List Byte) (hsrc : e.src.isSome = true) (hdst : e.dst.isSome = true)
    (hrefused : e.refused = none) (hopen : ∃ i, i < max 1 e.gets.length ∧ i ≠ f.index ∧ mget none e.got i = none) :
    ∃ t, s.takeData f d = (t, true) ∧ { e with got := mset none e.got f.index (some d) } ∈ t.fen.txs := by
  obtain ⟨i, hlt, hne, hmissing⟩ := hopen
  refine ⟨_, ?_, State.mem_updTx he (g := fun _ => { e with got := mset none e.got f.index (some d) })⟩
  simp only [State.takeData, he]
  exact State.getStep_of_missing hsrc hdst hrefused hlt ((mget_mset_ne _ _ _ _ _ hne).trans hmissing)

end Answers

theorem State.recordEpoch_epochOf (s : State) (d : Nat) (e : W32) : (s.recordEpoch d e).epochOf d = some e := by
  have hset : mget none (mset none s.fen.epochs d (some e)) d = some e := mget_mset_self _ _ _ _ (Option.some_ne_none e)
  unfold State.recordEpoch
  dsimp only
  split
  · split <;> exact hset
  · exact hset

/-- The epoch that a known member announces is recorded (R693, R694). -/
theorem State.announced_epochOf {s : State} {dev : Nat} {m : Member} (hm : s.memberOf dev = some m) (e : W32) :
    (s.announced e m.unit dev).epochOf dev = some e := by
  rw [State.announced, hm]
  exact (congrArg (fun t : State => t.epochOf dev) (if_pos rfl)).trans (s.recordEpoch_epochOf dev e)

/-! ### Flits that are dealt with (R690, R691) -/

theorem State.staleFlit_eq_false_iff (s : State) (f : FlitHdr) :
    s.staleFlit f = false ↔ f.dstEpoch = s.cfgEpoch ∧ s.epochOf f.src.val = some f.srcEpoch := by
  simp [State.staleFlit]

/-- A flit of VC 1 or VC 2 with a stale epoch is dropped. -/
theorem State.handleFlit_of_stale {s : State} {f : FlitHdr} (hstale : s.staleFlit f = true) {b : FlitBody}
    (hvc : vcOf b = 1 ∨ vcOf b = 2) : s.handleFlit f b = (s.dropStale', true) := by
  cases b with
  | idle | bringup | timesync | announce | mgmt => simp [vcOf] at hvc
  | _ => exact if_pos hstale

section Fresh
variable {s : State} {f : FlitHdr} (hfresh : s.staleFlit f = false)
include hfresh

theorem State.not_stale : ¬ s.staleFlit f = true := by simp [hfresh]

theorem State.handleFlit_putData (va : Nat) (d : List (Byte × Byte)) (l : Bool) :
    s.handleFlit f (.putData va d l) = s.takePut f va d l := if_neg (State.not_stale hfresh)

theorem State.handleFlit_getReq (va n : Nat) : s.handleFlit f (.getReq va n) = s.takeGet f va n :=
  if_neg (State.not_stale hfresh)

theorem State.handleFlit_getData (d : List Byte) : s.handleFlit f (.getData d) = s.takeData f d :=
  if_neg (State.not_stale hfresh)

theorem State.handleFlit_xack (a : FenAck) : s.handleFlit f (.xack a) = s.takeAck f a := if_neg (State.not_stale hfresh)

theorem State.handleFlit_signal (va : Nat) (v : W64) : s.handleFlit f (.signal va v) = s.takeSignal f va v :=
  if_neg (State.not_stale hfresh)

theorem State.handleFlit_coll (id : W32) (ps : CollParams) (n : Nat) (es : List Nat) (l : Bool) :
    s.handleFlit f (.coll id ps n es l) = (s.takeColl f id ps n es l, true) := if_neg (State.not_stale hfresh)

theorem State.handleFlit_leave (id : W32) : s.handleFlit f (.leave id) = (s.takeLeave f id, true) :=
  if_neg (State.not_stale hfresh)

end Fresh

section Dealt
variable {s : State} {p : Nat} {f : FlitHdr} (h : s.Takes p f) {b : FlitBody} (hvc : vcOf b ≠ 0) {c : Instr}
  (hx : exec c s = .next (s.receive p f b))
include h hvc hx

/-- What a transaction leaves in the Shared Store and answers stands once its flit has been received. -/
theorem State.Takes.serves {m : Sparse Byte} {k : Prop} {i : Nat} {a : FlitBody}
    (hserve : ∀ u, Relinked s u → ∃ t, u.handleFlit f b = (t, true) ∧ t.shared = m ∧ (k → Answered u t f i a)) :
    ∃ t, exec c s = .next t ∧ t.shared = m ∧ (k → Answered s t f i a) := by
  obtain ⟨u, hu, hroutes, hdeal⟩ := h.deals hvc
  obtain ⟨t, ht, hshared, hanswer⟩ := hserve u hu
  obtain ⟨hrest, hflits⟩ := hdeal t ht
  refine ⟨_, hx, hrest.shared.trans hshared, fun hk q hq => hflits q _ ?_⟩
  rw [← hroutes.flitFor]
  exact hanswer hk q ((hroutes.outPort _).trans hq)

theorem State.Takes.serves_answers {m : Sparse Byte} {i : Nat} {a : FlitBody}
    (hserve : ∀ u, Relinked s u → ∃ t, u.handleFlit f b = (t, true) ∧ t.shared = m ∧ Answered u t f i a) :
    ∃ t, exec c s = .next t ∧ t.shared = m ∧ Answered s t f i a := by
  obtain ⟨t, ht, hshared, hanswer⟩ := h.serves (k := True) hvc hx fun u hu => by simpa using hserve u hu
  exact ⟨t, ht, hshared, hanswer trivial⟩

/-- What a flit leaves beside the ports and what is sent stands once it has been received. -/
theorem State.Takes.leaves {P : State → Prop} (hports : ∀ t ps o, P t → P (t.relinked ps o))
    (hleave : ∀ u, Relinked s u → ∃ t, u.handleFlit f b = (t, true) ∧ P t) : ∃ t, exec c s = .next t ∧ P t := by
  obtain ⟨u, hu, -, hdeal⟩ := h.deals hvc
  obtain ⟨t, ht, hP⟩ := hleave u hu
  obtain ⟨⟨ps, o, hv⟩, -⟩ := hdeal t ht
  exact ⟨_, hx, hv ▸ hports t ps o hP⟩

end Dealt

/-- Settles O47: the link hands the flit to the receive buffer, what its body does is one lemma for each kind of flit, and the
answer is in its port's line. -/
theorem fenlineTransfers : Obligations.FenlineTransfers := by
  unfold Obligations.FenlineTransfers
  rintro s p f x fresh hc rfl hactive hcrc hseq hnak hwait hinbox - hvalid hours hfresh
  have h : s.Takes p f := ⟨hactive, hcrc, hseq, hnak, hwait, hinbox, hvalid, hours⟩
  rw [← State.staleFlit_eq_false_iff] at hfresh
  refine ⟨?stale, fun hnow reply hreply => ?fresh, ?announce⟩
  case stale =>
    intro c hform hold
    obtain ⟨b, hvc, hx⟩ : ∃ b, (vcOf b = 1 ∨ vcOf b = 2) ∧ exec c s = .next (s.receive p f b) := by
      obtain ⟨va, d, l, rfl⟩ | ⟨va, n, rfl⟩ | ⟨d, rfl⟩ | ⟨a, rfl⟩ | ⟨va, v, rfl⟩ | ⟨i, q, n, l, b, rfl⟩ | ⟨i, rfl⟩ := hform
      · exact ⟨.putData va d l, .inl rfl, rfl⟩
      · exact ⟨.getReq va n, .inl rfl, rfl⟩
      · exact ⟨.getData d, .inr rfl, rfl⟩
      · exact ⟨.xack a, .inr rfl, rfl⟩
      · exact ⟨.signal va v, .inl rfl, rfl⟩
      · exact ⟨.coll i q n l b, .inl rfl, rfl⟩
      · exact ⟨.leave i, .inl rfl, rfl⟩
    have hstale : s.staleFlit f = true := by simpa using mt hfresh.2 hold
    refine h.leaves (by omega : vcOf b ≠ 0) hx (fun _ _ _ => id) ?_
    rintro _ ⟨ps, o, rfl⟩
    exact ⟨_, State.handleFlit_of_stale (s := s.relinked ps o) hstale hvc, rfl, rfl, rfl⟩
  case fresh =>
    have hcurrent := hfresh.1 hnow
    obtain ⟨-, hepoch⟩ := (s.staleFlit_eq_false_iff f).1 hcurrent
    have hreply' : ∀ n b, reply n b = s.flitFor f.src f.xtag.toNat f.gallery n b := by
      intro n b
      rw [hreply, State.flitFor, hepoch]
      rfl
    have hfresh' : ∀ ps o, (s.relinked ps o).staleFlit f = false := fun _ _ => hcurrent
    simp only [hreply']
    refine ⟨fun hopen hgood => ⟨?put, ?get⟩, fun hopen => ⟨?signal, ?coll, ?leave⟩, ?closed, ?ack, ?data⟩
    case put =>
      intro va o i d l hcheck hd hfit
      refine h.serves (b := .putData va d l) (Nat.succ_ne_zero _) rfl ?_
      rintro _ ⟨ps, o', rfl⟩
      rw [State.handleFlit_putData (hfresh' ps o')]
      exact State.takePut_of_shared (s := s.relinked ps o') hopen hgood hcheck hd hfit l
    case get =>
      intro va n o i hcheck hn hfit hlost
      refine h.serves_answers (b := .getReq va n) (Nat.succ_ne_zero _) rfl ?_
      rintro _ ⟨ps, o', rfl⟩
      rw [State.handleFlit_getReq (hfresh' ps o')]
      exact State.takeGet_of_shared (s := s.relinked ps o') hopen hgood hcheck hn hfit hlost
    case signal =>
      intro va o i v hcheck halign hlost
      refine h.serves_answers (b := .signal va v) (Nat.succ_ne_zero _) rfl ?_
      rintro _ ⟨ps, o', rfl⟩
      rw [State.handleFlit_signal (hfresh' ps o')]
      exact State.takeSignal_of_shared (s := s.relinked ps o') hopen hcheck halign hlost v
    case closed =>
      intro hclosed va v
      refine h.serves_answers (b := .signal va v) (Nat.succ_ne_zero _) rfl ?_
      rintro _ ⟨ps, o', rfl⟩
      rw [State.handleFlit_signal (hfresh' ps o')]
      exact State.takeSignal_of_closed (s := s.relinked ps o') hclosed va v
    case coll =>
      intro cid q n es l hnone htxs
      obtain ⟨t, hx, hpart⟩ := h.leaves (c := .coll p f cid q n es l) (b := .coll cid q n es l) (Nat.succ_ne_zero _) rfl
        (P := fun t => t.part? f.gallery cid f.src = some (newPart f.gallery cid f.src q n es l)) (fun _ _ _ => id) (by
          rintro _ ⟨ps, o, rfl⟩
          exact ⟨_, State.handleFlit_coll (hfresh' ps o) cid q n es l,
            State.takeColl_part? (s := s.relinked ps o) hopen hnone htxs q n es l⟩)
      exact ⟨t, _, hx, hpart, rfl, rfl, fun i e hi => mget_foldl_elements es [] n i hi⟩
    case leave =>
      intro cid hpart htxs
      refine h.leaves (b := .leave cid) (Nat.succ_ne_zero _) rfl (fun _ _ _ => id) ?_
      rintro _ ⟨ps, o, rfl⟩
      exact ⟨_, State.handleFlit_leave (hfresh' ps o) cid, State.takeLeave_left (s := s.relinked ps o) hpart htxs⟩
    case ack =>
      intro e he hop hlocal _ a code kind hcode
      obtain ⟨rfl, rfl⟩ : code = (ackCode a).1 ∧ kind = (ackCode a).2 := by
        obtain ⟨rfl, rfl, rfl⟩ | ⟨rfl, rfl⟩ | ⟨rfl, rfl, rfl⟩ := hcode <;> exact ⟨rfl, rfl⟩
      refine h.leaves (b := .xack a) (Nat.succ_ne_zero _) rfl (fun _ _ _ => id) ?_
      rintro _ ⟨ps, o, rfl⟩
      rw [State.handleFlit_xack (hfresh' ps o)]
      exact State.takeAck_ends (s := s.relinked ps o) he hop hlocal a
    case data =>
      intro e d he _ hmissing hsrc hdst hrefused
      refine h.leaves (b := .getData d) (Nat.succ_ne_zero _) rfl (fun _ _ _ => id) ?_
      rintro _ ⟨ps, o, rfl⟩
      rw [State.handleFlit_getData (hfresh' ps o)]
      exact State.takeData_keeps (s := s.relinked ps o) he d hsrc hdst hrefused hmissing
  case announce =>
    rintro e _ dev m hm rfl
    refine h.leaves (b := .announce e m.unit dev) (Nat.succ_ne_zero _) ?_ (fun _ _ _ => id) ?_
    · exact congrArg (fun b => Host.Outcome.next (s.receive p f b)) (mgmtBody_announce e m.unit dev)
    · rintro _ ⟨ps, o, rfl⟩
      exact ⟨_, rfl, State.announced_epochOf (s := s.relinked ps o) hm e⟩

end Sys2Proof.Machine

namespace Sys2Proof.Machine

open Sys2Proof.Safety

/-! # Register files (O49) -/

section RegisterFiles
variable (x : Stoker) (v : W64) {i : Nat}

theorem Stoker.write_s_zero : x.write { file := .s, idx := 0 } v = x := rfl

theorem Stoker.write_p_zero : x.write { file := .p, idx := 0 } v = x := rfl

theorem Stoker.write_s (hi : i ≠ 0) : x.write { file := .s, idx := i } v = { x with s := mset 0 x.s i v } := if_neg hi

theorem Stoker.write_p (hi : i ≠ 0) : x.write { file := .p, idx := i } v = { x with
    p := (x.p &&& ~~~(BitVec.ofNat 8 (2 ^ i))) ||| (if v = 0 then 0 else BitVec.ofNat 8 (2 ^ i)) } := if_neg hi

theorem Stoker.write_len : x.write { file := .len, idx := i } v = { x with lens := mset 0 x.lens i (v.setWidth 32) } := rfl

theorem Stoker.sreg_of_ne (hi : i ≠ 0) : x.sreg i = mget 0 x.s i := if_neg hi

theorem Stoker.preg_of_ne (hi : i ≠ 0) : x.preg i = x.p.getLsbD i := if_neg hi

theorem Stoker.sreg_write_s (hs : mwf 0 x.s = true) (hi : i ≠ 0) (j : Nat) :
    (x.write { file := .s, idx := i } v).sreg j = if j = i then v else x.sreg j := by
  rw [Stoker.write_s x v hi]
  split
  next hj =>
    rw [hj, Stoker.sreg_of_ne _ hi]
    exact mget_mset_same 0 x.s i v hs
  next hj =>
    simp only [Stoker.sreg, mget_mset_ne 0 x.s i j v hj]

theorem Stoker.preg_write_p (hi : i ≠ 0) {j : Nat} (hj : j < 8) :
    (x.write { file := .p, idx := i } v).preg j = if j = i then decide (v ≠ 0) else x.preg j := by
  by_cases h0 : j = 0
  · rw [if_neg (by omega : ¬ j = i), h0]
    rfl
  have hbit : (BitVec.ofNat 8 (2 ^ i)).getLsbD j = decide (i = j) := by
    rw [BitVec.getLsbD_ofNat, Nat.testBit_two_pow, decide_eq_true hj, Bool.true_and]
  have hset : (if v = 0 then 0 else BitVec.ofNat 8 (2 ^ i) : BitVec 8).getLsbD j = (decide (v ≠ 0) && decide (i = j)) := by
    split <;> simp_all
  simp only [Stoker.preg_of_ne _ h0, Stoker.write_p x v hi, BitVec.getLsbD_or, BitVec.getLsbD_and, BitVec.getLsbD_not, hset,
    hbit, hj]
  by_cases hij : j = i
  · simp [hij]
  · simp [hij, Ne.symm hij]

theorem Stoker.lreg_write_len (hl : mwf 0 x.lens = true) (j : Nat) :
    (x.write { file := .len, idx := i } v).lreg j = if j = i then v.setWidth 32 else x.lreg j := by
  split
  next hj =>
    rw [hj]
    exact mget_mset_same 0 x.lens i _ hl
  next hj => exact mget_mset_ne 0 x.lens i j _ hj

theorem Stoker.aluA_of_len {w : Nat} (hw : bits (zSub w) 5 2 = 1) : x.aluA w = (x.lreg (zA w)).setWidth 64 := by
  simp [Stoker.aluA, aluSpace, hw]

end RegisterFiles

/-- Settles O49: one lemma for each file gives every register after a write. -/
theorem registerFiles : Obligations.RegisterFiles := by
  unfold Obligations.RegisterFiles
  intro x v i hs hl
  refine ⟨rfl, rfl, x.write_s_zero v, x.write_p_zero v, fun h1 _ => ?s, fun h1 h8 => ?p, fun _ => ?len,
    fun w hw => x.aluA_of_len hw⟩
  case s =>
    have hi : i ≠ 0 := by omega
    refine ⟨?_, ?_, fun j hj => ?_⟩
    · rw [x.sreg_write_s v hs hi, if_pos rfl]
    · rw [x.write_s v hi]
    · rw [x.sreg_write_s v hs hi, if_neg hj]
  case p =>
    have hi : i ≠ 0 := by omega
    refine ⟨?_, ?_, fun j h hj => ?_⟩
    · rw [x.preg_write_p v hi h8, if_pos rfl]
    · rw [x.write_p v hi]
    · rw [x.preg_write_p v hi h, if_neg hj]
  case len =>
    refine ⟨?_, rfl, fun j hj => ?_⟩
    · rw [x.lreg_write_len v hl, if_pos rfl]
      exact BitVec.setWidth_eq_extractLsb' (by decide)
    · rw [x.lreg_write_len v hl, if_neg hj]

end Sys2Proof.Machine

namespace Sys2Proof.Machine

open Sys2Proof.Safety

/-! # The CTL class (O29) -/

/-! ### The issue of one instruction -/

section Issue
variable {s : State} {h k w e : Nat}

/-- An instruction that waits for fewer registers issues as well. -/
theorem Safety.Issues.mono {uses uses' : List Dst} (hi : Issues s h k w e uses) (hsub : uses' ⊆ uses) :
    Issues s h k w e uses' :=
  { hi with ready := fun d hd => hi.ready d (List.cons_subset_cons _ hsub hd) }

variable {cls op : Nat} {row : Nat → Bool} {legal : Nat → Nat → Bool} {bad : Nat → Bool} {uses : Nat → List Dst}
  {run : Nat → Nat → State → Issued}

/-- A legal instruction of `n` words that names no destination. -/
theorem State.issue_of_noDst (n : Nat) (hi : Issues s h k w e (uses w)) (hd : NoDst w) (hcls : zClass w = cls)
    (hop : zOp w = op) (hrow : row w = true) (hlegal : legal w e = true) (hbad : bad w = false)
    (hn : (if 32 ≤ op then 2 else 1) = n) :
    s.issue h k cls op row .none legal bad uses run = (run w e (s.advance h k n)).settle s h k := by
  subst hn
  exact State.issue_run (Safety.Issues.mono hi (by simp [DstUse.dst])) hcls hop hrow (fits_of_noDst hd) hlegal
    (zDstInFile_of_noDst hd) hbad

/-- A legal instruction of `n` words that writes a register. -/
theorem State.issue_of_toReg (n : Nat) {used : List Dst} (hi : Issues s h k w e used) (hd : ToReg w)
    (huses : ∀ d ∈ zDstReg w :: uses w, d ∈ used) (hcls : zClass w = cls) (hop : zOp w = op) (hrow : row w = true)
    (hlegal : legal w e = true) (hbad : bad w = false) (hn : (if 32 ≤ op then 2 else 1) = n) :
    s.issue h k cls op row .reg legal bad uses run = (run w e (s.advance h k n)).settle s h k := by
  subst hn
  have hsub : uses w ++ DstUse.reg.dst w ⊆ used := fun d hmem => huses d (by
    simpa [DstUse.dst, or_comm] using hmem)
  exact State.issue_run (Safety.Issues.mono hi hsub) hcls hop hrow (fits_of_toReg hd) hlegal hd.2 hbad

end Issue

/-! ### Transfers (R312, R329) -/

/-- The transfer of `c` to `t`, by Stoker `y` past its instruction: a multiple of 8 within the program, or PC_RANGE. -/
def Transfers (s : State) (h k : Nat) (c : Instr) (y : Stoker) (t : Int) : Prop :=
  (t % 8 = 0 → ((s.stoker h k).base : Int) ≤ t → t < (s.stoker h k).base + (s.stoker h k).len →
    Does c s h k s (s.hearth h) { y with pc := t.toNat } true) ∧
  ((t % 8 ≠ 0 ∨ t < (s.stoker h k).base ∨ ((s.stoker h k).base : Int) + (s.stoker h k).len ≤ t) →
    exec c s = .next (s.faultIssue h k fPcRange))

theorem Stoker.targetOk_iff (y : Stoker) (t : Int) :
    y.targetOk t = true ↔ t % 8 = 0 ∧ (y.base : Int) ≤ t ∧ t < y.base + y.len := by
  simp only [Stoker.targetOk, Bool.and_eq_true, decide_eq_true_eq]
  omega

/-- The target of a relative transfer counts from the transfer itself (R329). -/
theorem relTarget_past (x : Stoker) (w : Nat) : relTarget (past x 1).pc w = x.pc + 8 * signed 24 (zImm w) := by
  simp only [relTarget, past]
  omega

/-- A write to a register leaves the program's place alone. -/
theorem Stoker.write_program (y : Stoker) (d : Dst) (v : W64) :
    (y.write d v).base = y.base ∧ (y.write d v).len = y.len := by
  unfold Stoker.write
  split
  · split <;> exact ⟨rfl, rfl⟩
  · split <;> exact ⟨rfl, rfl⟩
  · exact ⟨rfl, rfl⟩

section Branch
variable {s t : State} {h k : Nat} {y : Stoker} {c : Instr} {g : Int}

/-- What `State.branch` comes to, from the Stoker past its instruction. -/
theorem transfers_of_branch (hx : exec c s = .next ((t.branch h k g).settle s h k)) (r : Ran s h k s (s.hearth h) y false t)
    (n : Neat t h) (hbase : y.base = (s.stoker h k).base) (hlen : y.len = (s.stoker h k).len) : Transfers s h k c y g := by
  have hok := y.targetOk_iff g
  rw [hbase, hlen] at hok
  rw [State.branch, r.self] at hx
  refine ⟨fun h8 hlo hhi => ?_, fun hout => ?_⟩
  · rw [if_pos (hok.2 ⟨h8, hlo, hhi⟩)] at hx
    exact does_of_next hx (Safety.Ran.upd r n fun x => { x with pc := g.toNat })
  · rwa [if_neg (by rw [hok]; omega)] at hx

end Branch

/-! ### What an issued CTL instruction comes to -/

section Ctl
variable {s : State} {h k w e : Nat} (hc : Canon s)
include hc

section NoRegister
variable (hi : Issues s h k w e []) (hd : NoDst w)
include hi hd

theorem State.jmp_of_relative (hf : Fields w 0 1 0 0 0 (zImm w)) : s.jmp h k =
    ((s.advance h k 1).branch h k ((s.stoker h k).pc + 8 * signed 24 (zImm w))).settle s h k := by
  obtain ⟨hcls, hop, ha, hb, hsub, -⟩ := hf
  have hrel : bitAt (zSub w) 0 = false := by rw [hsub]; rfl
  refine (State.issue_of_noDst 1 (by simpa [hrel] using hi) hd hcls hop rfl
    (by rw [hrel]; simp [ctlZero, ha, hb, hsub]) rfl rfl).trans ?_
  dsimp only
  rw [if_neg (by simp [hrel]), (ran_advance hc).self, relTarget_past]

theorem State.br_of_always (hf : Fields w 0 2 0 0 0 (zImm w)) : s.br h k =
    ((s.advance h k 1).branch h k ((s.stoker h k).pc + 8 * signed 24 (zImm w))).settle s h k := by
  obtain ⟨hcls, hop, ha, hb, hsub, -⟩ := hf
  refine (State.issue_of_noDst 1 (by simpa [hsub] using hi) hd hcls hop rfl
    (by simp [ctlZero, ha, hb, hsub]) rfl rfl).trans ?_
  dsimp only
  rw [if_pos (.inl hsub), (ran_advance hc).self, relTarget_past]

theorem State.callInstr_of_issues (hf : Fields w 0 3 0 0 0 (zImm w)) : s.callInstr h k =
    (if 8 ≤ (s.stoker h k).stack.length then Issued.fault fCallDepth
      else ((s.advance h k 1).updStoker h k fun x => { x with stack := ((s.stoker h k).pc + 8) :: x.stack }).branch h k
        ((s.stoker h k).pc + 8 * signed 24 (zImm w))).settle s h k := by
  obtain ⟨hcls, hop, ha, hb, hsub, -⟩ := hf
  refine (State.issue_of_noDst 1 hi hd hcls hop rfl (by simp [ctlZero, ha, hb, hsub]) rfl rfl).trans ?_
  dsimp only
  rw [(ran_advance hc).self, relTarget_past]
  rfl

theorem State.ret_of_frame {a : Nat} {rest : List Nat} (hstack : (s.stoker h k).stack = a :: rest)
    (hf : Fields w 0 4 0 0 0 0) : s.ret h k =
      (((s.advance h k 1).updStoker h k fun x => { x with stack := rest }).branch h k a).settle s h k := by
  obtain ⟨hcls, hop, ha, hb, hsub, himm⟩ := hf
  refine (State.issue_of_noDst 1 hi hd hcls hop rfl (by simp [ctlZero, ha, hb, hsub, himm]) rfl rfl).trans ?_
  have hpast : ((s.advance h k 1).stoker h k).stack = a :: rest := by rw [(ran_advance hc).self]; exact hstack
  rw [hpast]

theorem State.ret_of_empty (hstack : (s.stoker h k).stack = []) (hf : Fields w 0 4 0 0 0 0) :
    s.ret h k = s.faultIssue h k fCallDepth := by
  obtain ⟨hcls, hop, ha, hb, hsub, himm⟩ := hf
  refine (State.issue_of_noDst 1 hi hd hcls hop rfl (by simp [ctlZero, ha, hb, hsub, himm]) rfl rfl).trans ?_
  have hpast : ((s.advance h k 1).stoker h k).stack = [] := by rw [(ran_advance hc).self]; exact hstack
  rw [hpast]
  rfl

end NoRegister

omit hc in
theorem exec_trap_of_issues {h : HearthId} {k : StokerId} (hi : Issues s h k w e []) (hd : NoDst w)
    (hf : Fields w 0 7 0 0 0 (zImm w)) (himm : zImm w < 64) :
    exec (.trap h k) s = .next (s.faultIssue h k (BitVec.ofNat 8 (0xC0 + zImm w))) := by
  obtain ⟨hcls, hop, ha, hb, hsub, -⟩ := hf
  exact congrArg Host.Outcome.next
    (State.issue_of_noDst 1 hi hd hcls hop rfl (by simp [ctlZero, ha, hb, hsub, himm]) rfl rfl)

/-! ### NOP and YIELD (R296, R312) -/

theorem does_nop {h : HearthId} {k : StokerId} (hi : Issues s h k w e []) (hd : NoDst w) (hf : Fields w 0 0 0 0 0 0) :
    Does (.nop h k) s h k s (s.hearth h) (past (s.stoker h k) 1) true := by
  obtain ⟨hcls, hop, ha, hb, hsub, himm⟩ := hf
  exact does_of_next (congrArg Host.Outcome.next
    (State.issue_of_noDst 1 hi hd hcls hop rfl (by simp [ctlZero, ha, hb, hsub, himm]) rfl rfl)) (ran_advance hc)

/-- A Stoker that another yields to is eligible, as far as its own state before the YIELD says. -/
theorem mem_others_advance {j : Nat} (hj : j ∈ ((s.advance h k 1).hearth h).others k) :
    j < 16 ∧ j ≠ k ∧ (s.stoker h j).st = .ready ∧ (s.stoker h j).pend = [] := by
  simp only [Hearth.others, List.mem_filter, List.mem_range, Bool.and_eq_true, decide_eq_true_eq, List.isEmpty_iff] at hj
  obtain ⟨hlt, ⟨⟨hne, hst⟩, hpend⟩, -⟩ := hj
  have hother : ((s.advance h k 1).hearth h).stoker j = _ := (ran_advance hc).others j hne
  rw [hother] at hst hpend
  exact ⟨hlt, hne, hst, hpend⟩

/-- An eligible Stoker that yields to no other is yielded to. -/
theorem mem_others_advance_of_ready {j : Nat} (hlt : j < 16) (hne : j ≠ k) (hst : (s.stoker h j).st = .ready)
    (hpend : (s.stoker h j).pend = []) (hyield : ∀ i ∈ (s.stoker h j).yieldFor, i = k) :
    j ∈ ((s.advance h k 1).hearth h).others k := by
  have hother : ((s.advance h k 1).hearth h).stoker j = _ := (ran_advance hc).others j hne
  have hnone : (s.stoker h j).yieldFor.filter (fun i => decide (i ≠ k)) = [] := by
    simpa [List.filter_eq_nil_iff] using hyield
  rw [hnone] at hother
  simp only [Hearth.others, List.mem_filter, List.mem_range, Bool.and_eq_true, decide_eq_true_eq, List.isEmpty_iff, hother]
  exact ⟨hlt, ⟨⟨hne, hst⟩, hpend⟩, rfl⟩

theorem does_yield {h : HearthId} {k : StokerId} (hi : Issues s h k w e []) (hd : NoDst w) (hf : Fields w 0 8 0 0 0 0) :
    Does (.yield h k) s h k s (s.hearth h)
      { past (s.stoker h k) 1 with yieldFor := ((s.advance h k 1).hearth h).others k } true := by
  obtain ⟨hcls, hop, ha, hb, hsub, himm⟩ := hf
  exact does_of_next (congrArg Host.Outcome.next
    (State.issue_of_noDst 1 hi hd hcls hop rfl (by simp [ctlZero, ha, hb, hsub, himm]) rfl rfl))
    (Safety.Ran.upd (ran_advance hc) ((Safety.Canon.neat hc h).advance k 1) fun y =>
      { y with yieldFor := ((s.advance h k 1).hearth h).others k })

/-! ### Forms with a register (R330, R332, R333) -/

section Register
variable (hi : Issues s h k w e [sDst (zA w)]) (hd : NoDst w)
include hi hd

theorem State.jmp_of_register (hf : Fields w 0 1 (zA w) 0 1 0) : s.jmp h k =
    ((s.advance h k 1).branch h k (((s.stoker h k).base : Int) + ((s.stoker h k).sreg (zA w)).toNat)).settle s h k := by
  obtain ⟨hcls, hop, -, hb, hsub, himm⟩ := hf
  have hind : bitAt (zSub w) 0 = true := by rw [hsub]; rfl
  refine (State.issue_of_noDst 1 (by simpa [hind] using hi) hd hcls hop rfl
    (by rw [hind]; simp [ctlZero, hb, hsub, himm]) rfl rfl).trans ?_
  dsimp only
  rw [if_pos hind, (ran_advance hc).self]
  rfl

theorem State.br_of_test {sub : Nat} (hf : Fields w 0 2 (zA w) 0 sub (zImm w)) (hform : sub = 1 ∨ sub = 2) : s.br h k =
    (if (s.stoker h k).sreg (zA w) = 0 ↔ sub = 1 then
      (s.advance h k 1).branch h k ((s.stoker h k).pc + 8 * signed 24 (zImm w))
      else Issued.next (s.advance h k 1)).settle s h k := by
  obtain ⟨hcls, hop, -, hb, hsub, -⟩ := hf
  refine (State.issue_of_noDst 1 (by rwa [if_neg (by omega)]) hd hcls hop rfl
    (by simp only [ctlZero, hb, hsub]; simp; omega) rfl rfl).trans ?_
  dsimp only
  rw [(ran_advance hc).self, relTarget_past]
  refine congrArg (fun r : Issued => r.settle s h k) (if_congr ?_ rfl rfl)
  show zSub w = 0 ∨ zSub w = 1 ∧ (s.stoker h k).sreg (zA w) = 0 ∨ zSub w = 2 ∧ (s.stoker h k).sreg (zA w) ≠ 0 ↔ _
  obtain rfl | rfl := hform <;> simp [hsub]

end Register

/-- The counter of a LOOP: a scalar or a length register (R333). -/
def Stoker.counter (x : Stoker) (w : Nat) : W64 :=
  if zSpace w = 2 then (x.lreg (zDst w)).setWidth 64 else x.sreg (zDst w)

theorem State.loop_of_issues (hi : Issues s h k w e [zDstReg w]) (hd : ToReg w) (hspace : zSpace w ≠ 1)
    (hf : Fields w 0 5 0 0 0 (zImm w)) : s.loop h k =
      (if (s.stoker h k).counter w = 0 then Issued.next (s.advance h k 1)
        else if (s.stoker h k).counter w - 1 = 0 then
          .next ((s.advance h k 1).updStoker h k fun x => x.write (zDstReg w) ((s.stoker h k).counter w - 1))
        else ((s.advance h k 1).updStoker h k fun x => x.write (zDstReg w) ((s.stoker h k).counter w - 1)).branch h k
          ((s.stoker h k).pc + 8 * signed 24 (zImm w))).settle s h k := by
  obtain ⟨hcls, hop, ha, hb, hsub, -⟩ := hf
  refine (State.issue_of_toReg 1 hi hd (by simp) hcls hop rfl (by simp [ctlZero, ha, hb, hsub, hspace]) rfl rfl).trans ?_
  dsimp only
  rw [(ran_advance hc).self, relTarget_past]
  rfl

end Ctl

/-- A word that no list holds (R311). -/
theorem exec_illegal_of_unlisted {s : State} {h : HearthId} {k : StokerId} {w : Nat} (hlive : s.pace.tripped = false)
    (hfree : (s.hearth h).canIssue k = true) (hin : (s.stoker h k).inProgram (s.stoker h k).pc = true)
    (hw : (s.hearth h).word (s.stoker h k).pc = w) (hnone : zListed (zClass w) (zOp w) = false)
    (hsecond : zClass w = 0x3F ∨ zClass w = 0 ∨ zOp w < 32 ∨ (s.stoker h k).inProgram ((s.stoker h k).pc + 8) = true) :
    exec (.illegal h k) s = .next (s.faultIssue h k fIllegal) := by
  subst hw
  simp only [State.stoker] at hin hnone hsecond ⊢
  refine congrArg Host.Outcome.next
    ((if_neg (by simp [hlive, hfree])).trans ((if_neg (by simp [hin])).trans ((if_neg (by simp [hnone])).trans (if_neg ?_))))
  rintro ⟨hext, hctl, hop, hout⟩
  obtain h | h | h | h := hsecond
  · exact hext h
  · exact hctl h
  · exact absurd h (by omega)
  · simp [h] at hout

/-- Settles O29: every transfer is one `State.branch` from the Stoker past its instruction. -/
theorem controlInstructions : Obligations.ControlInstructions := by
  unfold Obligations.ControlInstructions
  rintro s h k w e x goes hc rfl hgoes
  have hran := ran_advance (n := 1) (h := h) (k := k) hc
  have hneat := (Safety.Canon.neat hc h).advance k 1
  have goes_of {c y t} (ht : Transfers s h k c y t) : goes c y t := (hgoes c y t).2 ht
  refine ⟨fun hi hd => ⟨does_nop hc hi hd, ?jmp, ?br, ?call, ?ret, exec_trap_of_issues hi hd, ?yield⟩,
    fun hi hd => ⟨?jmpReg, ?test⟩, ?loop, exec_illegal_of_unlisted⟩
  case jmp =>
    intro hf
    exact goes_of (transfers_of_branch (congrArg Host.Outcome.next (State.jmp_of_relative hc hi hd hf)) hran hneat rfl rfl)
  case br =>
    intro hf
    exact goes_of (transfers_of_branch (congrArg Host.Outcome.next (State.br_of_always hc hi hd hf)) hran hneat rfl rfl)
  case call =>
    intro hf
    have hx : exec (.call h k) s = .next (s.callInstr h k) := rfl
    rw [State.callInstr_of_issues hc hi hd hf] at hx
    refine ⟨fun hroom => ?_, fun hfull => ?_⟩
    · rw [if_neg (by omega)] at hx
      exact goes_of (transfers_of_branch hx
        (Safety.Ran.upd hran hneat fun x => { x with stack := ((s.stoker h k).pc + 8) :: x.stack })
        (hneat.updStoker k _) rfl rfl)
    · rwa [if_pos hfull] at hx
  case ret =>
    intro hf
    refine ⟨fun a rest hstack => ?_, fun hstack => congrArg Host.Outcome.next (State.ret_of_empty hc hi hd hstack hf)⟩
    exact goes_of (transfers_of_branch (congrArg Host.Outcome.next (State.ret_of_frame hc hi hd hstack hf))
      (Safety.Ran.upd hran hneat fun x => { x with stack := rest }) (hneat.updStoker k _) rfl rfl)
  case yield =>
    intro hf
    exact ⟨_, does_yield hc hi hd hf, fun j => mem_others_advance hc, fun j => mem_others_advance_of_ready hc⟩
  case jmpReg =>
    intro hf
    exact goes_of (transfers_of_branch (congrArg Host.Outcome.next (State.jmp_of_register hc hi hd hf)) hran hneat rfl rfl)
  case test =>
    intro sub hf hform
    have hx : exec (.br h k) s = .next (s.br h k) := rfl
    rw [State.br_of_test hc hi hd hf hform] at hx
    refine ⟨fun htaken => ?_, fun hpassed => ?_⟩
    · rw [if_pos htaken] at hx
      exact goes_of (transfers_of_branch hx hran hneat rfl rfl)
    · rw [if_neg hpassed] at hx
      exact does_of_next hx hran
  case loop =>
    intro hi hfile hf hspace c hcount
    obtain rfl : (s.stoker h k).counter w = c := by
      rw [hcount]
      obtain h0 | h2 := hspace <;> simp [Stoker.counter, *]
    have hx : exec (.loop h k) s = .next (s.loop h k) := rfl
    rw [State.loop_of_issues hc hi ⟨by omega, hfile⟩ (by omega) hf] at hx
    have hlast : (s.stoker h k).counter w - 1 = 0 ↔ (s.stoker h k).counter w = 1 := sub_eq_zero
    refine ⟨fun h0 => ?_, fun h1 => ?_, fun h0 h1 => ?_⟩
    · rw [if_pos h0] at hx
      exact does_of_next hx hran
    · rw [if_neg (by simp [h1]), if_pos (hlast.2 h1), h1] at hx
      exact does_of_next hx (Safety.Ran.upd hran hneat fun x => x.write (zDstReg w) 0)
    · rw [if_neg h0, if_neg fun h => h1 (hlast.1 h)] at hx
      obtain ⟨hbase, hlen⟩ := (past (s.stoker h k) 1).write_program (zDstReg w) ((s.stoker h k).counter w - 1)
      exact goes_of (transfers_of_branch hx
        (Safety.Ran.upd hran hneat fun x => x.write (zDstReg w) ((s.stoker h k).counter w - 1)) (hneat.updStoker k _)
        hbase hlen)

end Sys2Proof.Machine

namespace Sys2Proof.Machine

open Sys2Proof.Safety

/-! # The ALU class (O30) -/

/-! ### The functions of Tables 8-2 and 8-3 -/

/-- The conditions of Table 8-3, in the order of their codes. -/
def conditions (a b : W64) : List Prop :=
  [a = b, a ≠ b, a.toInt < b.toInt, b.toInt ≤ a.toInt, a.toInt ≤ b.toInt, b.toInt < a.toInt, a.toNat < b.toNat,
    b.toNat ≤ a.toNat, a.toNat ≤ b.toNat, b.toNat < a.toNat]

theorem condHolds_iff {cc : Nat} {a b : W64} {p : Prop} (hp : (conditions a b)[cc]? = some p) :
    condHolds cc a b = true ↔ p := by
  obtain ⟨hlt, rfl⟩ := List.getElem?_eq_some_iff.1 hp
  have hcc : cc < 10 := hlt
  interval_cases cc <;>
    simp [condHolds, conditions, BitVec.slt_iff_toInt_lt, BitVec.lt_def, BitVec.le_def, ← Bool.not_eq_true]

theorem cmpValue_eq_ite (cc : Nat) (a b : W64) : cmpValue cc a b = if condHolds cc a b = true then 1 else 0 := rfl

theorem minValue_signed (a b : W64) : minValue false a b = if b.toInt < a.toInt then b else a := by
  simp only [minValue, Bool.false_eq_true, if_false, BitVec.slt_iff_toInt_lt]

theorem maxValue_signed (a b : W64) : maxValue false a b = if b.toInt < a.toInt then a else b := by
  simp only [maxValue, Bool.false_eq_true, if_false, BitVec.slt_iff_toInt_lt]

theorem minValue_unsigned (a b : W64) : minValue true a b = if b.toNat < a.toNat then b else a := by
  simp only [minValue, if_true, BitVec.le_def, ← not_lt, ite_not]

theorem maxValue_unsigned (a b : W64) : maxValue true a b = if b.toNat < a.toNat then a else b := by
  simp only [maxValue, if_true, BitVec.le_def, ← not_lt, ite_not]

/-- MOVHI puts the low 32 bits of `hi` over the low 32 bits of `a`. -/
theorem withUpper_eq (a : W64) (hi : Nat) : withUpper a hi = (BitVec.ofNat 64 hi <<< 32) ||| (a &&& 0xFFFFFFFF) := by
  refine BitVec.eq_of_getLsbD_eq fun i hlt => ?_
  have hlow : a.toNat % 2 ^ 32 < 2 ^ 32 := Nat.mod_lt _ (by decide)
  have hmask : (0xFFFFFFFF : W64).getLsbD i = decide (i < 32) := Nat.testBit_two_pow_sub_one 32 i
  rw [withUpper, Nat.add_comm, Nat.mul_comm, BitVec.getLsbD_ofNat, Nat.testBit_two_pow_mul_add _ hlow, BitVec.getLsbD_or,
    BitVec.getLsbD_and, hmask, BitVec.getLsbD_shiftLeft, BitVec.getLsbD_ofNat, Nat.testBit_mod_two_pow,
    Nat.testBit_mod_two_pow, BitVec.testBit_toNat]
  by_cases h32 : i < 32
  · simp [h32, hlt]
  · simp [h32, hlt, show i - 32 < 32 by omega, show i - 32 < 64 by omega]

/-- Bit `i` within a field of `w` bits. -/
theorem bitAt_bits {x lo n i : Nat} (hi : i < n) : bitAt (bits x lo n) i = bitAt x (lo + i) := by
  simp [bitAt, bits, Nat.testBit_mod_two_pow, Nat.testBit_shiftRight, hi]

/-! ### The operands (R336) -/

section Operands
variable {x : Stoker} {w : Nat} {a b : W64} (hspace : bits (zSub w) 5 2 ≠ 3)
  (h0 : bits (zSub w) 5 2 = 0 → a = x.sreg (zA w))
  (h1 : bits (zSub w) 5 2 = 1 → zA w < 4 ∧ a = (x.lreg (zA w)).setWidth 64)
  (h2 : bits (zSub w) 5 2 = 2 → zA w < 8 ∧ a = if x.preg (zA w) then 1 else 0)
include hspace h0 h1 h2

/-- Operand a is in its file, and is what that file reads. -/
theorem aluA_of_space : aluBad w = false ∧ x.aluA w = a := by
  have hlt : bits (zSub w) 5 2 < 4 := Nat.mod_lt _ (by decide)
  obtain h | h | h : bits (zSub w) 5 2 = 0 ∨ bits (zSub w) 5 2 = 1 ∨ bits (zSub w) 5 2 = 2 := by omega
  · simp [aluBad, Stoker.aluA, aluSpace, h, h0 h]
  · obtain ⟨hfile, ha⟩ := h1 h
    simp [aluBad, Stoker.aluA, aluSpace, h, hfile, ha]
  · obtain ⟨hfile, ha⟩ := h2 h
    simp [aluBad, Stoker.aluA, aluSpace, h, hfile, ha]

end Operands

theorem aluB_of_form {x : Stoker} {w : Nat} {b : W64}
    (himm : bitAt (zSub w) 0 = true → b = BitVec.ofInt 64 (signed 24 (zImm w)))
    (hreg : bitAt (zSub w) 0 = false → b = x.sreg (zB w)) : x.aluB w = b := by
  cases h : bitAt (zSub w) 0
  · simp [Stoker.aluB, aluImm, h, hreg h]
  · simp [Stoker.aluB, aluImm, h, himm h, zSimm]

/-! ### What an issued ALU instruction comes to -/

section Alu
variable {s : State} {h k w e : Nat} {c : Instr} (hc : Canon s) (hd : ToReg w) (hcls : zClass w = 1) (hspace : aluSpace w ≠ 3)
  (hbad : aluBad w = false)
include hc

/-- An instruction of `n` words that gives its register a value. -/
theorem does_write {n : Nat} {f : Stoker → Stoker}
    (hx : exec c s = .next ((Issued.next ((s.advance h k n).updStoker h k f)).settle s h k)) :
    Does c s h k s (s.hearth h) (f (past (s.stoker h k) n)) true :=
  does_of_next hx (Safety.Ran.upd (ran_advance hc) ((Safety.Canon.neat hc h).advance k n) f)

include hd hcls

section Two
variable (hi : Issues s h k w e (zDstReg w :: aluRegA w :: (if bitAt (zSub w) 0 then [] else [sDst (zB w)])))
  (himm : bitAt (zSub w) 0 = true → zB w = 0) (hreg : bitAt (zSub w) 0 = false → zImm w = 0)
include hi himm hreg hspace hbad

/-- A two-operand form writes its function of a and b (R337); SEL reads its predicate as well (R339). -/
theorem does_alu {op : Nat} {sub : Nat → Bool} {f : Nat → Stoker → W64 → W64 → W64} (hop : zOp w = op) (hlt : op < 32)
    (hsub : sub (bits (zSub w) 1 4) = true) (hsel : op = 13 → pDst (bits (zSub w) 1 3) ∉ (s.stoker h k).pend)
    (hx : exec c s = .next (s.alu h k op sub f)) :
    Does c s h k s (s.hearth h) ((past (s.stoker h k) 1).write (zDstReg w)
      (f w (past (s.stoker h k) 1) ((s.stoker h k).aluA w) ((s.stoker h k).aluB w))) true := by
  let used := (zDstReg w :: aluRegA w :: (if bitAt (zSub w) 0 then [] else [sDst (zB w)]))
    ++ (if op = 13 then [pDst (bits (zSub w) 1 3)] else [])
  have hi' : Issues s h k w e used := by
    refine { hi with ready := fun d hmem => ?_ }
    obtain hmem | hmem := List.mem_append.1 (List.cons_append ▸ hmem)
    · exact hi.ready d hmem
    · split at hmem
      next h13 =>
        rw [List.mem_singleton.1 hmem]
        exact hsel h13
      next => simp at hmem
  have hlegal : aluLegal sub w = true := by
    cases hform : bitAt (zSub w) 0
    · simp [aluLegal, aluImm, hspace, hsub, hform, hreg hform]
    · simp [aluLegal, aluImm, hspace, hsub, hform, himm hform]
  refine does_write hc (f := fun x => x.write (zDstReg w) (f w x (x.aluA w) (x.aluB w))) (hx.trans ?_)
  exact congrArg Host.Outcome.next (State.issue_of_toReg 1 hi' hd (fun d => id) hcls hop rfl hlegal hbad (if_neg (by omega)))

end Two

theorem does_movi {h : HearthId} {k : StokerId} (hi : Issues s h k w e [zDstReg w]) (hop : zOp w = 14) (hsub : zSub w = 0)
    (ha : zA w = 0) (hb : zB w = 0) : Does (.movi h k) s h k s (s.hearth h)
      ((past (s.stoker h k) 1).write (zDstReg w) (BitVec.ofInt 64 (signed 24 (zImm w)))) true :=
  does_write hc (f := fun x => x.write (zDstReg w) (zSimm w)) (congrArg Host.Outcome.next
    (State.issue_of_toReg 1 hi hd (fun _ => id) hcls hop rfl (by simp [hsub, ha, hb]) rfl rfl))

theorem does_moviX {h : HearthId} {k : StokerId} (hi : Issues s h k w e [zDstReg w]) (hop : zOp w = 32) (hsub : zSub w = 0)
    (ha : zA w = 0) (hb : zB w = 0) (he : e < 2 ^ 40) : Does (.moviX h k) s h k s (s.hearth h)
      ((past (s.stoker h k) 2).write (zDstReg w) (BitVec.ofNat 64 (e * 2 ^ 24 + zImm w))) true :=
  does_write hc (f := fun x => x.write (zDstReg w) (BitVec.ofNat 64 (e * 2 ^ 24 + zImm w))) (congrArg Host.Outcome.next
    (State.issue_of_toReg 2 hi hd (fun _ => id) hcls hop rfl (by simpa [hsub, ha, hb] using he) rfl rfl))

section Upper
variable {h : HearthId} {k : StokerId} (hi : Issues s h k w e [zDstReg w, aluRegA w]) (hb : zB w = 0)
  (hsub : bits (zSub w) 0 5 = 0)
include hi hb hsub hspace hbad

theorem does_movhi (hop : zOp w = 15) : Does (.movhi h k) s h k s (s.hearth h)
    ((past (s.stoker h k) 1).write (zDstReg w)
      ((BitVec.ofInt 64 (signed 24 (zImm w)) <<< 32) ||| ((s.stoker h k).aluA w &&& 0xFFFFFFFF))) true := by
  have hupper := withUpper_eq ((s.stoker h k).aluA w) (zSimm w).toNat
  rw [BitVec.ofNat_toNat, BitVec.setWidth_eq] at hupper
  rw [← zSimm, ← hupper]
  exact does_write hc (f := fun x => x.write (zDstReg w) (withUpper (x.aluA w) (zSimm w).toNat)) (congrArg Host.Outcome.next
    (State.issue_of_toReg 1 hi hd (fun _ => id) hcls hop rfl (by simp [hsub, hspace, hb]) hbad rfl))

theorem does_movhiX (hop : zOp w = 33) (himm : zImm w = 0) (he : e < 2 ^ 32) : Does (.movhiX h k) s h k s (s.hearth h)
    ((past (s.stoker h k) 2).write (zDstReg w)
      ((BitVec.ofNat 64 e <<< 32) ||| ((s.stoker h k).aluA w &&& 0xFFFFFFFF))) true := by
  rw [← withUpper_eq]
  exact does_write hc (f := fun x => x.write (zDstReg w) (withUpper (x.aluA w) e)) (congrArg Host.Outcome.next
    (State.issue_of_toReg 2 hi hd (fun _ => id) hcls hop rfl (by simpa [hsub, hspace, hb, himm] using he) hbad rfl))

end Upper
end Alu

/-- Settles O30: the two-operand forms are one lemma over their function, and the moves one each. -/
theorem aluInstructions : Obligations.AluInstructions := by
  unfold Obligations.AluInstructions
  rintro s h k w e x a b uses gives hc rfl hd hcls hspace rfl h0 h1 h2 himm hreg hgives
  obtain ⟨hbad, rfl⟩ := aluA_of_space hspace h0 h1 h2
  obtain rfl := aluB_of_form himm hreg
  generalize ha : (s.stoker h k).aluA w = a at *
  generalize hb : (s.stoker h k).aluB w = b at *
  refine ⟨fun hi hzero hzero' => ?two, fun hb0 hsub => ⟨?movi, ?movhi, ?moviX, ?movhiX⟩⟩
  case two =>
    have alu {c : Instr} {op : Nat} {sub : Nat → Bool} {f : Nat → Stoker → W64 → W64 → W64}
        (hx : exec c s = .next (s.alu h k op sub f)) (hop : zOp w = op) (hlt : op < 13)
        (hsub : sub (bits (zSub w) 1 4) = true) :
        gives c (f w (past (s.stoker h k) 1) a b) := by
      rw [hgives, ← ha, ← hb]
      exact does_alu hc hd hcls hspace hbad hi hzero hzero' hop (by omega) hsub (by omega) hx
    have hunsigned : bitAt (zSub w) 1 = bitAt (bits (zSub w) 1 4) 0 :=
      (bitAt_bits (lo := 1) (n := 4) (i := 0) (by decide)).symm
    refine ⟨fun hsub => ?plain, fun hsub => ?unsigned, fun p hp hop => ?cmp, fun q hq hsub hready hop => ?sel⟩
    case plain =>
      have hzero : subZero (bits (zSub w) 1 4) = true := by rw [hsub]; rfl
      have hsmall : decide (bits (zSub w) 1 4 < 2) = true := by rw [hsub]; rfl
      have hsigned : bitAt (zSub w) 1 = false := by rw [hunsigned, hsub]; rfl
      refine ⟨(alu (c := .add h k) rfl · (by decide) hzero), (alu (c := .sub h k) rfl · (by decide) hzero),
        (alu (c := .mul h k) rfl · (by decide) hzero), (alu (c := .and h k) rfl · (by decide) hzero),
        (alu (c := .or h k) rfl · (by decide) hzero), (alu (c := .xor h k) rfl · (by decide) hzero),
        (alu (c := .shl h k) rfl · (by decide) hzero), (alu (c := .shr h k) rfl · (by decide) hzero),
        (alu (c := .sra h k) rfl · (by decide) hzero), fun hop => ?_, fun hop => ?_⟩
      · have hmin := alu (c := .min h k) rfl hop (by decide) hsmall
        rwa [hsigned, minValue_signed] at hmin
      · have hmax := alu (c := .max h k) rfl hop (by decide) hsmall
        rwa [hsigned, maxValue_signed] at hmax
    case unsigned =>
      have hsmall : decide (bits (zSub w) 1 4 < 2) = true := by rw [hsub]; rfl
      have hset : bitAt (zSub w) 1 = true := by rw [hunsigned, hsub]; rfl
      refine ⟨fun hop => ?_, fun hop => ?_⟩
      · have hmin := alu (c := .min h k) rfl hop (by decide) hsmall
        rwa [hset, minValue_unsigned] at hmin
      · have hmax := alu (c := .max h k) rfl hop (by decide) hsmall
        rwa [hset, maxValue_unsigned] at hmax
    case cmp =>
      have hlt : bits (zSub w) 1 4 < 10 := (List.getElem?_eq_some_iff.1 hp).1
      have hholds := condHolds_iff (a := a) (b := b) hp
      have hcmp := alu (c := .cmpCc h k) rfl hop (by decide) (decide_eq_true hlt)
      rw [cmpValue_eq_ite] at hcmp
      refine ⟨fun hyes => ?_, fun hno => ?_⟩
      · rwa [if_pos (hholds.2 hyes)] at hcmp
      · rwa [if_neg fun h => hno (hholds.1 h)] at hcmp
    case sel =>
      have hfield : bits (zSub w) 1 3 = q := by
        simp only [bits] at hsub ⊢
        omega
      have hsel := does_alu (c := .sel h k) hc hd hcls hspace hbad hi hzero hzero' hop (by decide)
        (decide_eq_true (hsub.symm ▸ hq)) (fun _ => hfield.symm ▸ hready) rfl
      rw [ha, hb, hfield] at hsel
      exact (hgives _ _).2 hsel
  case movi =>
    intro hop hsub0 ha0 hi
    exact (hgives _ _).2 (does_movi hc hd hcls hi hop hsub0 ha0 hb0)
  case movhi =>
    intro hop hi
    subst ha
    exact (hgives _ _).2 (does_movhi hc hd hcls hspace hbad hi hb0 hsub hop)
  case moviX =>
    intro hop hsub0 ha0 he hi
    exact does_moviX hc hd hcls hi hop hsub0 ha0 hb0 he
  case movhiX =>
    intro hop himm0 he hi
    subst ha
    exact does_movhiX hc hd hcls hspace hbad hi hb0 hsub hop himm0 he

end Sys2Proof.Machine

namespace Sys2Proof.Machine

open Sys2Proof.Safety

/-! # The MEM class (O31) -/

/-! ### The identity values of Table 7-5 -/

/-- Hearths of the set below `h`, counted. -/
theorem filter_below (m : BitVec 48) {h : Nat} (hh : h ≤ 48) :
    (List.range 48).filter (fun b => bitAt (m.toNat % 2 ^ h) b) = (List.range h).filter fun j => hbit m j := by
  have hsplit : List.range 48 = List.range h ++ (List.range (48 - h)).map (h + ·) := by
    rw [← List.range_add, Nat.add_sub_cancel' hh]
  have hlow : (List.range h).filter (fun b => bitAt (m.toNat % 2 ^ h) b) = (List.range h).filter fun j => hbit m j :=
    List.filter_congr fun j hj => by
      simp [bitAt, Nat.testBit_mod_two_pow, List.mem_range.1 hj, hbit, BitVec.testBit_toNat]
  have hhigh : ((List.range (48 - h)).map (h + ·)).filter (fun b => bitAt (m.toNat % 2 ^ h) b) = [] := by
    simp [bitAt, Nat.testBit_mod_two_pow]
  rw [hsplit, List.filter_append, hlow, hhigh, List.append_nil]

/-- Index `i` of Table 7-5 has the identity value `v`. -/
def IdentityOf (o : WorkOrder) (h i v : Nat) : Prop :=
  (i = 0x100 ∧ v = ((List.range h).filter fun j => hbit o.hearths j).length) ∨
  (i = 0x101 ∧ v = ((List.range 48).filter fun j => hbit o.hearths j).length) ∨ (i = 0x102 ∧ v = h) ∨
  (i = 0x103 ∧ v = o.gal) ∨ (i = 0x104 ∧ v = o.queue) ∨ (i = 0x105 ∧ v = o.tag.toNat) ∨ (i = 0x106 ∧ v = o.argCount)

theorem WorkOrder.identity_of_listed {o : WorkOrder} {h i v : Nat} (hh : h ≤ 48) (hv : IdentityOf o h i v) :
    o.identity h i = some v := by
  obtain ⟨rfl, rfl⟩ | ⟨rfl, rfl⟩ | ⟨rfl, rfl⟩ | ⟨rfl, rfl⟩ | ⟨rfl, rfl⟩ | ⟨rfl, rfl⟩ | ⟨rfl, rfl⟩ := hv
  · exact congrArg (fun l : List Nat => some l.length) (filter_below o.hearths hh)
  all_goals rfl

theorem WorkOrder.identity_of_unlisted {o : WorkOrder} {h i : Nat} (hi : i < 0x100 ∨ 0x106 < i) : o.identity h i = none := by
  unfold WorkOrder.identity
  split
  case h_8 => rfl
  all_goals omega

/-! ### What an issued MEM instruction comes to -/

section Mem
variable {s : State} {h k w e : Nat}

/-- The Stoker past a load, whose register waits. -/
def State.awaiting (s : State) (h k w : Nat) : State := (s.advance h k 1).updStoker h k fun x => x.await (zDstReg w)

theorem ran_awaiting (hc : Canon s) :
    Ran s h k s (s.hearth h) ((past (s.stoker h k) 1).await (zDstReg w)) false (s.awaiting h k w) :=
  Safety.Ran.upd (ran_advance hc) ((Safety.Canon.neat hc h).advance k 1) fun x => x.await (zDstReg w)

theorem State.ld_of_issues (hi : Issues s h k w e [sDst (zA w), zDstReg w]) (hd : ToReg w)
    (hf : Fields w 2 1 (zA w) 0 (zSub w) (zImm w)) (hsize : zSub w < 7)
    (hreads : s.memReadsOut h k (s.stoker h k).seq = false) :
    s.ld h k = (Issued.next ((s.awaiting h k w).newAcc h k (s.stoker h k).pc (s.stoker h k).seq .memLoad
      (.load (zDstReg w) (2 ^ bits (zSub w) 0 2) (bitAt (zSub w) 2))
      [{ va := addressOf (s.stoker h k) w, len := 2 ^ bits (zSub w) 0 2 }])).settle s h k := by
  obtain ⟨hcls, hop, -, hb, -, -⟩ := hf
  have hlegal : (decide (zSub w < 8) && decide (zSub w ≠ 7) && decide (zB w = 0)) = true := by
    simp only [hb, Bool.and_eq_true, decide_eq_true_eq, and_true]
    omega
  refine (State.issue_of_toReg 1 hi hd (by simp) hcls hop rfl hlegal rfl rfl).trans ?_
  exact congrArg (fun r : Issued => r.settle s h k) (if_neg (by simp [hreads]))

theorem State.st_of_issues (hi : Issues s h k w e [sDst (zA w), sDst (zB w)]) (hd : NoDst w)
    (hf : Fields w 2 2 (zA w) (zB w) (zSub w) (zImm w)) (hsize : zSub w < 4) :
    s.st h k = (Issued.next ((s.advance h k 1).newAcc h k (s.stoker h k).pc (s.stoker h k).seq .memStore .store
      [{ va := addressOf (s.stoker h k) w, len := 2 ^ bits (zSub w) 0 2
         wdata := fullMask (natLe (2 ^ bits (zSub w) 0 2) ((s.stoker h k).sreg (zB w)).toNat) }])).settle s h k := by
  obtain ⟨hcls, hop, -, -, -, -⟩ := hf
  exact State.issue_of_noDst 1 hi hd hcls hop rfl (decide_eq_true hsize) rfl rfl

/-! ### LDARG (R313, R314) -/

/-- An LDARG of index `i`, from IMM24 or from a register, issues. -/
def ArgIssues (s : State) (h k w e i : Nat) : Prop :=
  (Fields w 2 3 0 0 0 i ∧ i < 4096 ∧ Issues s h k w e [zDstReg w]) ∨
    (Fields w 2 3 (zA w) 0 1 0 ∧ i = ((s.stoker h k).sreg (zA w)).toNat ∧ Issues s h k w e [sDst (zA w), zDstReg w])

/-- What LDARG of index `i` comes to: an argument is loaded, an identity value written, any other index faults. -/
def State.argIssued (s : State) (h k w i : Nat) (o : WorkOrder) : Issued :=
  if i < o.argCount then
    if s.memReadsOut h k (s.stoker h k).seq then .hold
    else .next ((s.awaiting h k w).newAcc h k (s.stoker h k).pc (s.stoker h k).seq .ldarg (.ldarg (zDstReg w))
      [{ va := o.argAddr + 8 * i, len := 8 }])
  else
    match o.identity h i with
    | some v => .next ((s.advance h k 1).updStoker h k fun x => x.write (zDstReg w) (BitVec.ofNat 64 v))
    | none => .fault fArgRange

theorem State.ldarg_of_issues {i : Nat} {o : WorkOrder} (hi : ArgIssues s h k w e i) (hd : ToReg w)
    (ho : s.wo? (s.stoker h k).wo = some o) : s.ldarg h k = (s.argIssued h k w i o).settle s h k := by
  obtain ⟨⟨hcls, hop, ha, hb, hsub, himm⟩, hlt, hi⟩ | ⟨⟨hcls, hop, -, hb, hsub, himm⟩, hidx, hi⟩ := hi
  · have hform : bitAt (zSub w) 0 = false := by rw [hsub]; rfl
    refine (State.issue_of_toReg 1 hi hd (by simp [hform]) hcls hop rfl ?_ rfl rfl).trans ?_
    · rw [hform]
      simp [ha, hb, hsub, himm, hlt]
    · dsimp only
      rw [hform, ho, himm]
      rfl
  · have hform : bitAt (zSub w) 0 = true := by rw [hsub]; rfl
    refine (State.issue_of_toReg 1 hi hd (by simp [hform]) hcls hop rfl ?_ rfl rfl).trans ?_
    · rw [hform]
      simp [hb, hsub, himm]
    · dsimp only
      rw [hform, ho, hidx]
      rfl

end Mem

/-- Settles O31: each access is that of the issued instruction; LDARG by its index. -/
theorem memoryInstructions : Obligations.MemoryInstructions := by
  unfold Obligations.MemoryInstructions
  rintro s h k w e x hc rfl
  refine ⟨?access, ?arg⟩
  case access =>
    rintro size rfl
    refine ⟨fun hi hd hf hsize hreads => ?_, fun hi hd hf hsize => ?_⟩
    · exact does_of_next (congrArg Host.Outcome.next (State.ld_of_issues hi hd hf hsize hreads))
        (ran_newAcc (ran_awaiting hc) rfl rfl ..)
    · exact does_of_next (congrArg Host.Outcome.next (State.st_of_issues hi hd hf hsize))
        (ran_newAcc (ran_advance hc) rfl rfl ..)
  case arg =>
    intro i o ho hd hi
    have hx : exec (.ldarg h k) s = .next (s.ldarg h k) := rfl
    rw [State.ldarg_of_issues hi hd ho] at hx
    refine ⟨fun hlt hreads => ?_, fun hge v hv => ?_, fun hge hout => ?_⟩
    · rw [State.argIssued, if_pos hlt, if_neg (by simp [hreads])] at hx
      exact does_of_next hx (ran_newAcc (ran_awaiting hc) rfl rfl ..)
    · rw [State.argIssued, if_neg (by omega), WorkOrder.identity_of_listed h.isLt.le hv] at hx
      exact does_write hc (f := fun x => x.write (zDstReg w) (BitVec.ofNat 64 v)) hx
    · rw [State.argIssued, if_neg (by omega), WorkOrder.identity_of_unlisted hout] at hx
      exact hx

end Sys2Proof.Machine

namespace Sys2Proof.Machine

open Sys2Proof.Safety

/-! # HALT, and the halt of a stream (O36) -/

/-! ### A stream of a Stoker after an update -/

/-- A stream closes: nothing more is assigned. -/
def Stream.close (q : Stream) : Stream := { q with closing := true }

theorem Stoker.closeAll_stream? (x : Stoker) (hx : mwf none x.handles = true) (d : Nat) :
    x.closeAll.stream? d = (x.stream? d).map Stream.close :=
  mget_mmap none _ x.handles d hx rfl

/-- Handle `d` is unbound, the others are as before. -/
theorem Stoker.stream?_unbind (x : Stoker) (hx : mwf none x.handles = true) (d j : Nat) :
    (x.setStream d none).stream? j = if j = d then none else x.stream? j := by
  split
  next hj => exact hj ▸ mget_mset_same none x.handles j none hx
  next hj => exact mget_mset_ne none x.handles d j none hj

/-! ### HALT unbinds the streams that are done (R297) -/

/-- What closing a stream looks at but the stream itself: its pieces, and what the Grates still need of it. -/
def State.SameUse (s t : State) (h : Nat) : Prop :=
  t.pieces = s.pieces ∧ (t.hearth h).loadBs = (s.hearth h).loadBs ∧ (t.hearth h).chains = (s.hearth h).chains

theorem State.closeDone_congr {s t : State} {h k d : Nat} (huse : s.SameUse t h)
    (hops : (t.stream? h k d).map Stream.ops = (s.stream? h k d).map Stream.ops) :
    t.closeDone h k d = s.closeDone h k d := by
  obtain ⟨hpieces, hloads, hchains⟩ := huse
  have hflying : t.streamPieces h k d = s.streamPieces h k d := by rw [State.streamPieces, hpieces]; rfl
  have hclaimed : (t.hearth h).streamClaimed k d = (s.hearth h).streamClaimed k d := by
    simp only [Hearth.streamClaimed, hloads, hchains]
  unfold State.closeDone
  rw [hflying, hclaimed]
  cases ht : t.stream? h k d <;> cases hs : s.stream? h k d <;> simp_all

/-- One handle of HALT's sweep. -/
def State.unbindIfDone (h k : Nat) (t : State) (d : Nat) : State := if t.closeDone h k d then t.setStream h k d none else t

theorem State.unbindClosed_eq (t : State) (h k : Nat) :
    t.unbindClosed h k = (List.range 16).foldl (State.unbindIfDone h k) t := rfl

/-- The Stoker past its HALT, with every stream closing. -/
def haltedStoker (x : Stoker) : Stoker := { (past x 1).closeAll with st := .halted, wait := .none }

/-- HALT's sweep over the handles below `n`: those whose streams are done are unbound. -/
structure Swept (s : State) (h k n : Nat) (t : State) : Prop where
  ran : Ran s h k s (s.hearth h) { haltedStoker (s.stoker h k) with handles := (t.stoker h k).handles } false t
  neat : Neat t h
  handles : mwf none (t.stoker h k).handles = true
  streams : ∀ j, t.stream? h k j =
    if j < n ∧ s.closeDone h k j = true then none else ((s.stoker h k).stream? j).map Stream.close

/-- Before the sweep. -/
def State.halting (s : State) (h k : Nat) : State :=
  ((s.advance h k 1).updStoker h k Stoker.closeAll).parkAs h k .halted .none

section Sweep
variable {s t : State} {h k n : Nat}

theorem swept_halting (hc : Canon s) : Swept s h k 0 (s.halting h k) := by
  have hneat := ((Safety.Canon.neat hc h).advance k 1).updStoker k Stoker.closeAll
  have hran : Ran s h k s (s.hearth h) (haltedStoker (s.stoker h k)) false (s.halting h k) :=
    ran_parkAs (Safety.Ran.upd (ran_advance hc) ((Safety.Canon.neat hc h).advance k 1) Stoker.closeAll) hneat .halted .none
  have hcanon := (hc.hearth h).handles k
  refine ⟨by rw [hran.self]; exact hran, hneat.updStoker k fun x => { x with st := .halted, wait := .none }, ?_,
    fun j => ?_⟩
  · rw [hran.self]
    exact mwf_mmap _ _ _ hcanon
  · rw [if_neg (by omega), State.stream?, hran.self]
    exact (past (s.stoker h k) 1).closeAll_stream? hcanon j

/-- The sweep judges a handle as it was at the HALT. -/
theorem Swept.closeDone (hs : Swept s h k n t) : t.closeDone h k n = s.closeDone h k n := by
  refine State.closeDone_congr ⟨(congrArg State.pieces hs.ran.device :), ?_, ?_⟩ ?_
  · rw [hs.ran.hearth]
  · rw [hs.ran.hearth]
  · rw [hs.streams n, if_neg (by omega), Option.map_map]
    rfl

theorem Swept.succ (hs : Swept s h k n t) : Swept s h k (n + 1) (t.unbindIfDone h k n) := by
  have hstep := hs.closeDone
  unfold State.unbindIfDone
  cases hdone : s.closeDone h k n with
  | false =>
    rw [if_neg (by simp [hstep, hdone])]
    refine ⟨hs.ran, hs.neat, hs.handles, fun j => (hs.streams j).trans (if_congr ?_ rfl rfl)⟩
    constructor
    · exact fun ⟨hlt, hj⟩ => ⟨by omega, hj⟩
    · rintro ⟨hlt, hj⟩
      have hne : j ≠ n := by
        rintro rfl
        simp [hdone] at hj
      exact ⟨by omega, hj⟩
  | true =>
    rw [if_pos (hstep.trans hdone)]
    have hself : (t.setStream h k n none).stoker h k = (t.stoker h k).setStream n none :=
      State.updStoker_stoker _ _ _ _ hs.neat
    refine ⟨?_, hs.neat.updStoker k _, ?_, fun j => ?_⟩
    · rw [hself]
      exact Safety.Ran.upd hs.ran hs.neat fun x => x.setStream n none
    · rw [hself]
      exact mwf_mset _ _ _ _ hs.handles
    · have hj := hs.streams j
      rw [State.stream?, hself, Stoker.stream?_unbind _ hs.handles]
      rw [State.stream?] at hj
      rw [hj]
      by_cases hjn : j = n
      · rw [if_pos hjn, if_pos ⟨by omega, hjn ▸ hdone⟩]
      · rw [if_neg hjn]
        exact if_congr (and_congr_left fun _ => by omega) rfl rfl

theorem swept_sweep (hc : Canon s) (n : Nat) :
    Swept s h k n ((List.range n).foldl (State.unbindIfDone h k) (s.halting h k)) := by
  induction n with
  | zero => exact swept_halting hc
  | succ n ih =>
    rw [List.range_succ, List.foldl_append]
    exact ih.succ

end Sweep

section Halt
variable {s : State} {h k w e : Nat} (hi : Issues s h k w e []) (hd : NoDst w) (hf : Fields w 0 6 0 0 0 0)
  (hopen : ∀ o ∈ (s.hearth h).openings, o.stoker ≠ k)
include hi hd hf hopen

theorem State.haltOp_of_running (hrun : ∀ c ∈ (s.stoker h k).handles, ∀ q, c.2 = some q → q.halted = false) :
    s.haltOp h k = (Issued.next ((s.halting h k).unbindClosed h k)).settle s h k := by
  obtain ⟨hcls, hop, ha, hb, hsub, himm⟩ := hf
  refine (State.issue_of_noDst 1 hi hd hcls hop rfl (by simp [ha, hb, hsub, himm]) rfl rfl).trans ?_
  refine congrArg (fun r : Issued => r.settle s h k) ((if_neg ?_).trans (if_neg ?_))
  · simpa using hopen
  · intro hany
    obtain ⟨c, hmem, hhalted⟩ := List.any_eq_true.1 hany
    split at hhalted
    next q hq => exact absurd (hrun c hmem q hq) (by simp [hhalted])
    next => cases hhalted

theorem State.haltOp_of_halted (hhalt : ∃ c ∈ (s.stoker h k).handles, ∃ q, c.2 = some q ∧ q.halted = true) :
    s.haltOp h k = (Issued.park ((s.advance h k 1).parkAs h k .inFault .halt)).settle s h k := by
  obtain ⟨hcls, hop, ha, hb, hsub, himm⟩ := hf
  obtain ⟨c, hmem, q, hq, hhalted⟩ := hhalt
  refine (State.issue_of_noDst 1 hi hd hcls hop rfl (by simp [ha, hb, hsub, himm]) rfl rfl).trans ?_
  refine congrArg (fun r : Issued => r.settle s h k) ((if_neg ?_).trans (if_pos ?_))
  · simpa using hopen
  · exact List.any_eq_true.2 ⟨c, hmem, by rw [hq]; exact hhalted⟩

end Halt

/-! ### STREAM_HALT (R551, R552) -/

theorem Neat.send {s : State} {h : Nat} (n : Neat s h) (o : Out) : Neat (s.send o) h := ⟨n.hearths, n.stokers⟩

/-- A change of a Hearth beside its Stokers leaves its Stokers alone. -/
theorem State.updHearth_stoker {s : State} {h : Nat} (n : Neat s h) {f : Hearth → Hearth}
    (hf : ∀ x, (f x).stokers = x.stokers) (k : Nat) : (s.updHearth h f).stoker h k = s.stoker h k := by
  rw [State.stoker, State.updHearth, State.setHearth_hearth _ _ _ n.hearths]
  exact congrArg (mget ({} : Stoker) · k) (hf (s.hearth h))

theorem Neat.updHearth {s : State} {h : Nat} (n : Neat s h) {f : Hearth → Hearth} (hf : ∀ x, (f x).stokers = x.stokers) :
    Neat (s.updHearth h f) h := n.setHearth _ (by rw [hf]; exact n.stokers)

/-- The device is as before, but that the Stoker may have parked. -/
def AtMostParks (s : State) (h k : Nat) (t : State) : Prop := t = s ∨ ∃ st wait, t = s.parkAs h k st wait

theorem AtMostParks.ite {s t u : State} {h k : Nat} {c : Prop} [Decidable c] (ht : AtMostParks s h k t)
    (hu : AtMostParks s h k u) : AtMostParks s h k (if c then t else u) := by
  split
  · exact ht
  · exact hu

theorem State.parkHalted_parks (s : State) (h k d : Nat) : AtMostParks s h k (s.parkHalted h k d) := by
  have hkeep : AtMostParks s h k s := .inl rfl
  have hpark (st : StSt) (wait : Wait) : AtMostParks s h k (s.parkAs h k st wait) := .inr ⟨_, _, rfl⟩
  unfold State.parkHalted
  dsimp only
  split
  case h_4 =>
    refine (hpark ..).ite (AtMostParks.ite ?_ hkeep)
    split
    · exact hpark ..
    · exact hkeep
  case h_5 => exact hkeep
  all_goals exact (hpark ..).ite hkeep

/-- A Stoker that waits on the stream, in STR.WAIT or STR.CLOSE, enters IN_FAULT (R375). -/
theorem State.parkHalted_of_waits {s : State} {h k d j n : Nat}
    (hwait : (s.stoker h k).wait = .ops d j ∨ (s.stoker h k).wait = .close n ∧ n = d) :
    s.parkHalted h k d = s.parkAs h k .inFault (s.stoker h k).wait := by
  unfold State.parkHalted
  obtain hw | ⟨hw, rfl⟩ := hwait <;> simp [hw]

/-- The stream with its fault record written. -/
def Stream.faulted (q : Stream) (z : Halt) (seq : W32) : Stream := { q with halt := some { z with faultSeq := some seq } }

/-- The gallery once the record of fault `seq` is in its fault queue (R134). -/
def Gallery.noted (x : Gallery) (seq : W32) : Gallery := { x with fqSeq := seq, fqWritten := x.fqWritten + 1 }

/-- HRT_STREAM_COUNTS counts the halt. -/
def Hearth.countHalt (x : Hearth) : Hearth := { x with halts := satAdd 65535 x.halts 1 }

/-- The device once a halt is noted: in its gallery, its stream and the Hearth's count. -/
def State.haltNoted (s : State) (h k d g : Nat) (z : Halt) (seq : W32) : State :=
  ((s.setGal g ((s.gal g).noted seq)).updStream h k d fun q => q.faulted z seq).updHearth h
    Hearth.countHalt

section Noted
variable {s : State} {h k d g : Nat} {q : Stream} {z : Halt} {seq : W32} (n : Neat s h)

theorem State.haltNoted_gal (hg : mwf {} s.gals = true) : (s.haltNoted h k d g z seq).gal g = (s.gal g).noted seq :=
  State.setGal_gal hg g _

include n

theorem Neat.haltNoted : Neat (s.haltNoted h k d g z seq) h := by
  have hset : Neat (s.setGal g ((s.gal g).noted seq)) h := ⟨n.hearths, n.stokers⟩
  exact (hset.updStoker k _).updHearth (f := Hearth.countHalt) fun _ => rfl

variable (hq : s.stream? h k d = some q)
include hq

theorem State.haltNoted_stoker :
    (s.haltNoted h k d g z seq).stoker h k = (s.stoker h k).setStream d (some (q.faulted z seq)) := by
  have hset : Neat (s.setGal g ((s.gal g).noted seq)) h := ⟨n.hearths, n.stokers⟩
  have hstream : (s.setGal g ((s.gal g).noted seq)).stream? h k d = some q := hq
  rw [State.haltNoted, State.updStream, hstream, State.setStream,
    State.updHearth_stoker (hset.updStoker k _) (f := Hearth.countHalt) fun _ => rfl]
  exact State.updStoker_stoker _ _ _ _ hset

/-- The Stoker once the halt is noted and it has parked: the stream is halted on its fault. -/
theorem State.parkHalted_haltNoted_stream? :
    ((s.haltNoted h k d g z seq).parkHalted h k d).stream? h k d = some (q.faulted z seq) := by
  have hself := State.haltNoted_stoker (g := g) (z := z) (seq := seq) n hq
  have hread : ((s.stoker h k).setStream d (some (q.faulted z seq))).stream? d = some (q.faulted z seq) :=
    mget_mset_self _ _ _ _ (by simp)
  obtain hpark | ⟨st, wait, hpark⟩ := (s.haltNoted h k d g z seq).parkHalted_parks h k d
  · rw [hpark, State.stream?, hself, hread]
  · rw [hpark, State.stream?, State.parkAs, State.updStoker_stoker _ _ _ _ (Neat.haltNoted n), hself]
    exact hread

theorem State.parkHalted_haltNoted_st {j i : Nat}
    (hwait : (s.stoker h k).wait = .ops d j ∨ (s.stoker h k).wait = .close i ∧ i = d) :
    (((s.haltNoted h k d g z seq).parkHalted h k d).stoker h k).st = .inFault := by
  have hself := State.haltNoted_stoker (g := g) (z := z) (seq := seq) n hq
  rw [State.parkHalted_of_waits (j := j) (n := i) (by rw [hself]; exact hwait), State.parkAs,
    State.updStoker_stoker _ _ _ _ (Neat.haltNoted n)]

end Noted

/-- The device after the message of a halt, if one is due. -/
def State.haltTold (t : State) (g : Nat) (tell : Bool) (vec : Nat) : State := if tell then t.raiseGal g vec else t

section Told
variable (t : State) (g : Nat) (tell : Bool) (vec : Nat)

theorem State.haltTold_gal (j : Nat) : (t.haltTold g tell vec).gal j = t.gal j :=
  State.gal_of_work (work_ite (fun _ => t.raiseGal_work g vec) fun _ => rfl) j

theorem State.haltTold_hearths : (t.haltTold g tell vec).hearths = t.hearths := by
  simp [State.haltTold, State.raiseGal, State.raise, apply_ite State.hearths]

theorem State.mem_haltTold_out {o : Out} (ho : o ∈ t.out) : o ∈ (t.haltTold g tell vec).out := by
  unfold State.haltTold
  split
  · exact State.mem_raiseGal_out ho g vec
  · exact ho

theorem State.haltTold_stoker (h k : Nat) : (t.haltTold g tell vec).stoker h k = t.stoker h k := by
  rw [State.stoker, State.hearth, State.haltTold_hearths]
  rfl

theorem Neat.haltTold {h : Nat} (n : Neat t h) : Neat (t.haltTold g tell vec) h := by
  refine ⟨(t.haltTold_hearths g tell vec).symm ▸ n.hearths, ?_⟩
  rw [State.hearth, State.haltTold_hearths]
  exact n.stokers

end Told

/-- The batch that a halted stream led passes on, and no Stoker changes (R493). -/
theorem State.handover_stoker {t : State} {h : Nat} (n : Neat t h) (k d : Nat) :
    (t.handover h k d).stoker h k = t.stoker h k := by
  unfold State.handover
  exact State.updHearth_stoker n (fun _ => by rfl) k

/-- The write of a fault's record into host memory. -/
def State.haltRecord (s : State) (h k d : Nat) (q : Stream) (z : Halt) (g : Gallery) (a : Nat) : Out :=
  .hostWrite g.home g.pasid a (faultRecord (s.stoker h k) h k d (decide (q.mode = .push)) (nextFaultSeq g.fqSeq) z.va z.seg
    s.timeNs.toNat (decide (g.fqWritten.toNat / 2 ^ g.fqLog2 % 2 = 0)))

theorem State.writeFault_of_host {s : State} {g va a : Nat} {i : Option Nat} (hlive : s.pace.tripped = false)
    (husable : (s.port (s.gal g).home).usable = true) (hcheck : s.check g .recordWrite va = .ok (.host a) i)
    (bs : List Byte) :
    s.writeFault g va bs = (some true, s.send (.hostWrite (s.gal g).home (s.gal g).pasid a bs)) := by
  simp [State.writeFault, State.writeRecord, hlive, hcheck, husable]

/-- What follows the record of a halt: it is noted, the Stoker parks, the message goes out, the batch passes on. -/
def State.haltEnds (s : State) (h k d g : Nat) (z : Halt) (seq : W32) (tell : Bool) (vec : Nat) : State :=
  (((s.haltNoted h k d g z seq).parkHalted h k d).haltTold g tell vec).handover h k d

theorem haltEnds_spec {s : State} {h k d : Nat} {q : Stream} (n : Neat s h) (hg : mwf {} s.gals = true)
    (hq : s.stream? h k d = some q) (z : Halt) (g : Nat) (seq : W32) (tell : Bool) (vec : Nat) :
    (s.haltEnds h k d g z seq tell vec).gal g = (s.gal g).noted seq ∧
      (∀ o ∈ s.out, o ∈ (s.haltEnds h k d g z seq tell vec).out) ∧
      (s.haltEnds h k d g z seq tell vec).stream? h k d = some (q.faulted z seq) ∧
      ∀ {j i}, (s.stoker h k).wait = .ops d j ∨ (s.stoker h k).wait = .close i ∧ i = d →
        ((s.haltEnds h k d g z seq tell vec).stoker h k).st = .inFault := by
  have hpark := (s.haltNoted h k d g z seq).parkHalted_parks h k d
  have hneat : Neat ((s.haltNoted h k d g z seq).parkHalted h k d) h := by
    obtain hpark | ⟨st, wait, hpark⟩ := hpark <;> rw [hpark]
    · exact Neat.haltNoted n
    · exact (Neat.haltNoted n).updStoker k _
  have hgals : ((s.haltNoted h k d g z seq).parkHalted h k d).gal g = (s.haltNoted h k d g z seq).gal g := by
    obtain hpark | ⟨st, wait, hpark⟩ := hpark <;> exact (congrArg (State.gal · g) hpark :)
  have hout : ((s.haltNoted h k d g z seq).parkHalted h k d).out = s.out := by
    obtain hpark | ⟨st, wait, hpark⟩ := hpark <;> exact (congrArg State.out hpark :)
  have hstoker : (s.haltEnds h k d g z seq tell vec).stoker h k = ((s.haltNoted h k d g z seq).parkHalted h k d).stoker h k :=
    (State.handover_stoker (Neat.haltTold _ g tell vec hneat) k d).trans (State.haltTold_stoker ..)
  refine ⟨?_, fun o ho => ?_, ?_, fun hwait => ?_⟩
  · exact (State.haltTold_gal ..).trans (hgals.trans (State.haltNoted_gal hg))
  · exact State.mem_haltTold_out _ g tell vec (hout ▸ ho)
  · rw [State.stream?, hstoker]
    exact State.parkHalted_haltNoted_stream? n hq
  · rw [hstoker]
    exact State.parkHalted_haltNoted_st n hq hwait

section StreamHalt
variable {s : State} {h k d a : Nat} {q : Stream} {z : Halt} {g : Gallery} {i : Option Nat}
  (hq : s.stream? h k d = some q) (hz : q.halt = some z) (hnew : z.faultSeq = none) (hflown : s.streamPieces h k d = [])
  (hopen : s.undecided (s.stoker h k).wo = true) (hlive : s.pace.tripped = false) (hg : g = s.gal (s.stoker h k).gal)
  (hroom : (g.fqWritten - g.fqHead).toNat ≠ 2 ^ g.fqLog2) (husable : (s.port g.home).usable = true)
  (hcheck : s.check (s.stoker h k).gal .recordWrite (g.fqBase.toNat + 32 * (g.fqWritten.toNat % 2 ^ g.fqLog2)) =
    .ok (.host a) i)
include hq hz hnew hflown hopen hlive hg hroom husable hcheck

/-- A halt that is due: the record, then its note, then the Stoker parks, then the message. -/
theorem State.streamHalt_of_host : s.streamHalt h k d State.writeFault =
    (((s.send (s.haltRecord h k d q z g a)).haltNoted h k d (s.stoker h k).gal z (nextFaultSeq g.fqSeq)).parkHalted h k
      d).haltTold (s.stoker h k).gal g.fqIrqEn g.fqVector.toNat := by
  subst hg
  unfold State.streamHalt
  dsimp only
  rw [hq]
  dsimp only
  rw [hz]
  dsimp only
  rw [if_neg (by simp [hnew, hflown, hopen]), if_neg hroom, State.writeFault_of_host hlive husable hcheck]
  rfl

theorem State.streamHalts_of_host (n : Neat s h) : s.streamHalts h k d = (s.send (s.haltRecord h k d q z g a)).haltEnds h k d
    (s.stoker h k).gal z (nextFaultSeq g.fqSeq) g.fqIrqEn g.fqVector.toNat := by
  have hhalt := State.streamHalt_of_host hq hz hnew hflown hopen hlive hg hroom husable hcheck
  have hstream := State.parkHalted_haltNoted_stream? (g := (s.stoker h k).gal) (z := z) (seq := nextFaultSeq g.fqSeq)
    (n.send (s.haltRecord h k d q z g a)) hq
  rw [State.streamHalts, hhalt, State.stream?, State.haltTold_stoker, ← State.stream?, hstream]
  rfl

end StreamHalt

/-- Settles O36: HALT's sweep by induction on the handles, the halt of a stream by its record, its note and what follows. -/
theorem haltsOfStokersAndStreams : Obligations.HaltsOfStokersAndStreams := by
  unfold Obligations.HaltsOfStokersAndStreams
  rintro s h k w e x hc rfl
  refine ⟨fun hi hd hf hopen => ⟨fun hrun => ?halted, fun hhalt => ?inFault⟩, ?stream⟩
  case halted =>
    have hsweep := swept_sweep (h := h) (k := k) hc 16
    have hx := State.haltOp_of_running hi hd hf hopen hrun
    rw [State.unbindClosed_eq] at hx
    generalize (List.range 16).foldl (State.unbindIfDone h k) (s.halting h k) = t at hsweep hx
    refine ⟨_, congrArg Host.Outcome.next hx, Safety.Ran.retire hsweep.ran, fun d hd16 => (hsweep.streams d).trans ?_⟩
    exact if_congr (and_iff_right hd16) rfl rfl
  case inFault =>
    exact does_of_park (congrArg Host.Outcome.next (State.haltOp_of_halted hi hd hf hopen hhalt))
      (ran_parkAs (ran_advance hc) ((Safety.Canon.neat hc h).advance k 1) .inFault .halt)
  case stream =>
    rintro d q z g seq a i hq hz hnew hflown hopen hlive rfl hroom husable rfl hcheck
    have hcanon := Safety.Canon.neat hc h
    have hx := State.streamHalts_of_host hq hz hnew hflown hopen hlive rfl hroom husable hcheck hcanon
    obtain ⟨hgal, hout, hstream, hst⟩ := haltEnds_spec (hcanon.send (s.haltRecord h k d q z (s.gal (s.stoker h k).gal) a))
      hc.gals hq z (s.stoker h k).gal (nextFaultSeq (s.gal (s.stoker h k).gal).fqSeq) (s.gal (s.stoker h k).gal).fqIrqEn
      (s.gal (s.stoker h k).gal).fqVector.toNat
    refine ⟨_, q.faulted z _, congrArg Host.Outcome.next hx, congrArg Gallery.fqSeq hgal, congrArg Gallery.fqWritten hgal,
      hstream, rfl, hout _ (List.mem_append_right _ (List.mem_singleton.2 rfl)), fun j n => hst⟩

end Sys2Proof.Machine

namespace Sys2Proof.Machine

open Sys2Proof.Safety

/-! # Writes of the HRT_ registers, and Hearth resets (O51) -/

/-! ### HRT_PS_MAP and HRT_POST_ROUTE (R281, R326) -/

section Granules
variable {s : State} {p : Port} {h : Nat} (j : Nat)

theorem State.granuleInUse_iff : s.granuleInUse h j = true ↔
    (∃ e ∈ (s.hearth h).progs, e.2.overlaps (1024 * j) 1024 = true ∧ s.executes h e.2 = true) ∨
      ∃ w ∈ s.wos, w.opcode.toNat = opPlace ∧ bitAt w.hearths.toNat h = true ∧
        w.offset < 1024 * j + 1024 ∧ 1024 * j < w.offset + w.length := by
  simp only [State.granuleInUse, Prog.inGranule, Bool.or_eq_true, List.any_eq_true, Bool.and_eq_true, decide_eq_true_eq,
    and_assoc]

/-- The directory under a new owner of the granule: programs of other galleries over it are unplaced. -/
theorem Hearth.setGranule_prog {x : Hearth} (hx : mwf {} x.progs = true) (valid : Bool) (g n : Nat) :
    mget {} (x.setGranule j valid g).progs n = if (mget {} x.progs n).overlaps (1024 * j) 1024 = true ∧
      ¬ (valid = true ∧ (mget {} x.progs n).gal = g) then {} else mget {} x.progs n := by
  refine (mget_mmap _ _ _ n hx (ite_self _)).trans (if_congr ?_ rfl rfl)
  cases valid <;> simp [Prog.inGranule]

variable (v : W32) (on : Bool)

theorem State.psMapWrite_of_other (hown : s.holds p 0 = false) : s.psMapWrite p h j v = s.hrtResult h .notOwner :=
  if_pos (by simp [hown])

theorem State.postRoute_of_other (hown : s.holds p 0 = false) : s.postRoute p h on = s.hrtResult h .notOwner :=
  if_pos (by simp [hown])

variable (hown : s.holds p 0 = true)
include hown

theorem State.psMapWrite_of_inUse (huse : s.granuleInUse h j = true) : s.psMapWrite p h j v = s.hrtResult h .inUse :=
  (if_neg (by simp [hown])).trans (if_pos huse)

theorem State.psMapWrite_of_free (huse : ¬ s.granuleInUse h j = true) :
    s.psMapWrite p h j v = s.updHearth h fun x => x.setGranule j (bitAt v.toNat 31) (bits v.toNat 0 10) :=
  (if_neg (by simp [hown])).trans (if_neg huse)

theorem State.postRoute_of_busy (hcalls : (s.hearth h).calls ≠ []) : s.postRoute p h on = s.hrtResult h .busy :=
  (if_neg (by simp [hown])).trans (if_pos (by simpa using hcalls))

theorem State.postRoute_of_idle (hcalls : (s.hearth h).calls = []) :
    s.postRoute p h on = s.updHearth h fun x => { x with stoveRoute := on, result := .ok } :=
  (if_neg (by simp [hown])).trans (if_neg (by simp [hcalls]))

end Granules

/-! ### A fence ends the undecided work orders of its Hearth (R325, R726) -/

/-- The work order is decided, as `P` says. -/
def State.decidedAs (s : State) (n : Nat) (P : Decision → Prop) : Prop :=
  ∃ u d, s.wo? n = some u ∧ u.decided = some d ∧ P d

/-- The decision of a fence of Hearth `h`. -/
def remapBy (h : Nat) : Decision := { status := .remap, hearth := BitVec.ofNat 8 h }

theorem State.remapAll_eq (s : State) (h : Nat) :
    s.remapAll h = (s.remapped h).foldl (fun t w => t.endWo w.id (remapBy h)) s := rfl

section Decided
variable {s : State} {n : Nat} {w : WorkOrder} {d : Decision} {P : Decision → Prop}

theorem State.wo?_endWo_ne {m : Nat} (hm : n ≠ m) (d : Decision) : (s.endWo m d).wo? n = s.wo? n := by
  rw [State.wo?_endWo, State.wo?_commit, if_neg hm, ite_self]

/-- What is decided stays decided. -/
theorem State.decidedAs.endWo (hs : s.decidedAs n P) (m : Nat) (d : Decision) : (s.endWo m d).decidedAs n P := by
  obtain ⟨u, c, hu, hc, hP⟩ := hs
  refine ⟨u, c, ?_, hc, hP⟩
  rw [← hu]
  by_cases hm : n = m
  · subst hm
    have hund : s.undecided n = false := by simp [State.undecided, hu, hc]
    rw [State.wo?_endWo, hund]
    rfl
  · exact State.wo?_endWo_ne hm d

variable (hP : ∀ s w, P (State.fixed s d w)) (hno : w.decided = none)
include hP hno

theorem State.endWo_decidedAs (hw : s.wo? n = some w) : (s.endWo n d).decidedAs n P := by
  have hund : s.undecided n = true := by simp [State.undecided, hw, hno]
  refine ⟨{ w with decided := some (s.fixed d w) }, _, ?_, rfl, hP s w⟩
  rw [State.wo?_endWo, if_pos hund, State.wo?_commit_self hw hno]

/-- One decision for every work order of a list. -/
theorem foldl_endWo_decidedAs (l : List WorkOrder) (s : State) (hw : s.wo? n = some w) (hn : ∃ v ∈ l, v.id = n) :
    (l.foldl (fun t v => t.endWo v.id d) s).decidedAs n P := by
  induction l generalizing s with
  | nil => simp at hn
  | cons x l ih =>
    rw [List.foldl_cons]
    by_cases hx : x.id = n
    · have hfirst : (s.endWo x.id d).decidedAs n P := by
        rw [hx]
        exact State.endWo_decidedAs hP hno hw
      exact List.foldlRecOn (motive := fun (t : State) => t.decidedAs n P) _ _ hfirst fun t ht v _ => ht.endWo v.id d
    · refine ih _ ((State.wo?_endWo_ne (Ne.symm hx) d).trans hw) ?_
      obtain ⟨v, hv, hid⟩ := hn
      obtain rfl | hv := List.mem_cons.1 hv
      · exact absurd hid hx
      · exact ⟨v, hv, hid⟩

end Decided

/-- The work order is decided as REMAP, by Hearth `h`. -/
def State.isRemapped (s : State) (n h : Nat) : Prop :=
  s.decidedAs n fun d => d.status = .remap ∧ d.hearth = BitVec.ofNat 8 h

theorem State.remapAll_isRemapped {s : State} {n h : Nat} {w : WorkOrder} (hw : s.wo? n = some w) (hmem : w ∈ s.wos)
    (hh : bitAt w.hearths.toNat h = true) (hno : w.decided = none) : (s.remapAll h).isRemapped n h := by
  rw [State.remapAll_eq]
  refine foldl_endWo_decidedAs (d := remapBy h) (fun _ _ => ⟨rfl, rfl⟩) hno _ s hw ⟨w, ?_, State.wo?_id hw⟩
  exact List.mem_filter.2 ⟨hmem, by simp [hh, hno]⟩

/-! ### What the end of a work order leaves of a fence -/

/-- The Hearth's fence and its cause, and the fence list. -/
structure FenceKept (s : State) (h : Nat) (t : State) : Prop where
  hearths : mwf {} t.hearths = true
  fenced : (t.hearth h).fenced = (s.hearth h).fenced
  cause : (t.hearth h).cause = (s.hearth h).cause
  list : t.faults.fences = s.faults.fences

theorem FenceKept.endWo {s t : State} {h : Nat} (hk : FenceKept s h t) (n : Nat) (d : Decision) :
    FenceKept s h (t.endWo n d) := by
  unfold State.endWo
  split
  · have hx : (State.stopStokers (t.commit n d) n).hearth h =
        (t.hearth h).endWo n ((t.commit n d).wos.any fun w => decide (w.id = n) && decide (w.opcode = 4)) :=
      mget_mmap _ _ _ h hk.hearths rfl
    exact ⟨mwf_mmap _ _ _ hk.hearths, (congrArg Hearth.fenced hx).trans hk.fenced, (congrArg Hearth.cause hx).trans hk.cause,
      hk.list⟩
  · exact hk

theorem FenceKept.remapAll {s : State} {h : Nat} (hs : mwf {} s.hearths = true) : FenceKept s h (s.remapAll h) :=
  List.foldlRecOn (motive := fun (t : State) => FenceKept s h t) _ _ ⟨hs, rfl, rfl, rfl⟩ fun _ ht w _ => ht.endWo w.id _

/-- A record of the log changes no Hearth. -/
theorem State.logFault_hearths (s : State) (f : FaultInfo) : (s.logFault f).hearths = s.hearths := by
  simp [State.logFault, State.raiseBoth, State.raiseDev, State.raise, apply_ite State.hearths]

theorem State.logFault_fences (s : State) (f : FaultInfo) : (s.logFault f).faults.fences = s.faults.fences := by
  unfold State.logFault
  dsimp only
  split
  · rfl
  · rw [State.raiseBoth_faults]

/-! ### FENCE_REQ (R325, R733) -/

section FenceReq
variable {s : State} {p : Port} {h : Nat}

theorem State.fenceReq_of_other (hown : s.holds p 3 = false) : s.fenceReq p h = s.hrtResult h .notOwner :=
  if_pos (by simp [hown])

theorem State.fenceReq_of_holder (hown : s.holds p 3 = true) :
    s.fenceReq p h = (s.fenceHearth h causeRuntime false false).hrtResult h .ok := if_neg (by simp [hown])

theorem State.fenceHearth_of_fenced (hf : (s.hearth h).fenced = true) (c : BitVec 8) (lasting listed : Bool) :
    s.fenceHearth h c lasting listed = s := if_pos hf

/-- The Hearth fenced, before its work orders end. -/
def State.fencing (s : State) (h : Nat) (c : BitVec 8) : State := s.setHearth h { s.hearth h with fenced := true, cause := c }

/-- A fence that the list does not take: the work orders end, and a record goes to the log. -/
theorem State.fenceHearth_of_unlisted (hf : (s.hearth h).fenced = false) (c : BitVec 8) (lasting : Bool) :
    ∃ f, s.fenceHearth h c lasting false = ((s.fencing h c).remapAll h).logFault f :=
  ⟨_, if_neg (by simp [hf])⟩

theorem State.fencing_hearth (hs : mwf {} s.hearths = true) (c : BitVec 8) :
    (s.fencing h c).hearth h = { s.hearth h with fenced := true, cause := c } := State.setHearth_hearth _ _ _ hs

/-- A requested fence: the Hearth is fenced, with the cause of its first fence, and the list is as before. -/
theorem State.fenceHearth_requested (hs : mwf {} s.hearths = true) :
    mwf {} (s.fenceHearth h causeRuntime false false).hearths = true ∧
      ((s.fenceHearth h causeRuntime false false).hearth h).fenced = true ∧
      ((s.fenceHearth h causeRuntime false false).hearth h).cause =
        (if (s.hearth h).fenced then (s.hearth h).cause else 0x10) ∧
      (s.fenceHearth h causeRuntime false false).faults.fences = s.faults.fences := by
  cases hf : (s.hearth h).fenced with
  | true =>
    rw [State.fenceHearth_of_fenced hf]
    exact ⟨hs, hf, rfl, rfl⟩
  | false =>
    obtain ⟨f, hx⟩ := State.fenceHearth_of_unlisted hf causeRuntime false
    have hkept := FenceKept.remapAll (s := s.fencing h causeRuntime) (h := h) (mwf_mset _ _ _ _ hs)
    have hself := State.fencing_hearth (h := h) hs causeRuntime
    have hhearth : (((s.fencing h causeRuntime).remapAll h).logFault f).hearth h =
        ((s.fencing h causeRuntime).remapAll h).hearth h := by
      rw [State.hearth, State.logFault_hearths]
      rfl
    rw [hx, hhearth, State.logFault_hearths, State.logFault_fences, hkept.fenced, hkept.cause, hkept.list, hself]
    exact ⟨hkept.hearths, rfl, rfl, rfl⟩

theorem State.fenceHearth_remaps (hf : (s.hearth h).fenced = false) {w : WorkOrder} (hw : s.wo? w.id = some w)
    (hmem : w ∈ s.wos) (hh : bitAt w.hearths.toNat h = true) (hno : w.decided = none) :
    (s.fenceHearth h causeRuntime false false).isRemapped w.id h := by
  obtain ⟨f, hx⟩ := State.fenceHearth_of_unlisted hf causeRuntime false
  obtain ⟨u, d, hu, hd⟩ := State.remapAll_isRemapped (s := s.fencing h causeRuntime) hw hmem hh hno
  rw [hx]
  exact ⟨u, d, (State.wo?_of_wos (State.wos_of_work (State.logFault_work _ f)) _).trans hu, hd⟩

end FenceReq

/-! ### HRT_RESET (R815) -/

section HearthReset
variable {s : State} {p : Port} {h : Nat}

theorem State.hrtReset_of_other (hown : s.holds p 3 = false) : s.hrtReset p h = s.hrtResult h .notOwner :=
  if_pos (by simp [hown])

theorem Hearth.busyStokers_eq_zero_iff (x : Hearth) : x.busyStokers = 0 ↔ ∀ k, k < 16 → (x.stoker k).st = .free := by
  simp [Hearth.busyStokers, List.filter_eq_nil_iff]

theorem State.hrtReset_of_inUse (hown : s.holds p 3 = true)
    (huse : (s.hearth h).fenced = false ∨ ∃ k, k < 16 ∧ ((s.hearth h).stoker k).st ≠ .free) :
    s.hrtReset p h = s.hrtResult h .inUse := by
  refine (if_neg (by simp [hown])).trans (if_pos ?_)
  simp only [Bool.or_eq_true, Bool.not_eq_true', decide_eq_true_eq, ne_eq, Hearth.busyStokers_eq_zero_iff]
  simpa using huse

theorem State.hrtReset_of_idle (hown : s.holds p 3 = true) (hf : (s.hearth h).fenced = true)
    (hidle : ∀ k, k < 16 → ((s.hearth h).stoker k).st = .free) : s.hrtReset p h = s.hearthReset h := by
  refine (if_neg (by simp [hown])).trans (if_neg ?_)
  simp [hf, (Hearth.busyStokers_eq_zero_iff _).2 hidle]

/-- The Hearth cleared, before the fence list is applied again. -/
def State.emptied (s : State) (h : Nat) : State :=
  (s.setHearth h (s.hearth h).afterReset).setPaceHearth h { s.paceHearth h with valid := false }

theorem State.hearthReset_eq (s : State) (h : Nat) : s.hearthReset h =
    if ((s.emptied h).reapplyFences (some h)).avail h = 0 then
      ((s.emptied h).reapplyFences (some h)).fenceHearth h 0 true true
    else (s.emptied h).reapplyFences (some h) := rfl

theorem State.emptied_hearth (hs : mwf {} s.hearths = true) : (s.emptied h).hearth h = (s.hearth h).afterReset :=
  State.setHearth_hearth s h _ hs

/-- A fence that is not valid is not applied. -/
theorem State.reapplyFences_of_none {t : State} (hnone : ∀ e ∈ t.faults.fences, e.2.valid = false) (only : Option Nat) :
    t.reapplyFences only = t := by
  unfold State.reapplyFences
  refine List.foldlRecOn (motive := fun (u : State) => u = t) _ _ rfl ?_
  rintro _ rfl e he
  exact if_pos (by simp [hnone e he])

/-- A Hearth with a Grate and no listed fence is left as cleared. -/
theorem State.hearthReset_of_unlisted (hs : mwf {} s.hearths = true) (hmfg : s.mfg h ≠ 0)
    (hnone : ∀ e ∈ s.faults.fences, e.2.valid = false) : s.hearthReset h = s.emptied h := by
  have hsame : (s.emptied h).reapplyFences (some h) = s.emptied h := State.reapplyFences_of_none (t := s.emptied h) hnone _
  have havail : (s.emptied h).avail h = s.mfg h := by
    rw [State.avail, State.emptied_hearth hs]
    show s.mfg h &&& ~~~0#16 = s.mfg h
    rw [BitVec.not_zero, BitVec.and_allOnes]
  rw [State.hearthReset_eq, hsame, havail, if_neg hmfg]

/-! #### A listed Hearth -/

end HearthReset

/-- The entry lists Hearth `h` itself. -/
def FenceEntry.lists (e : FenceEntry) (h : Nat) : Prop := e.valid = true ∧ e.kind = 2 ∧ e.index.toNat = h

/-- What one entry of the fence list does as Hearth `h` is reset: it fences the Hearth, a Grate of it or its Stove slice. -/
inductive Reapplied (h : Nat) (e : FenceEntry) (t : State) : State → Prop
  | other (hno : ¬ e.lists h) : Reapplied h e t t
  | grate (hno : ¬ e.lists h) (m : BitVec 16) : Reapplied h e t (t.setHearth h { t.hearth h with grateFenced := m })
  | stove (hno : ¬ e.lists h) (x : Stove) : Reapplied h e t (t.setHearth h { t.hearth h with stove := x })
  | hearth (hyes : e.lists h) : Reapplied h e t (t.setHearth h { t.hearth h with fenced := true, cause := e.cause })

/-- Hearth `h` is empty, and if it is fenced the cause is `c`. -/
structure Emptied (h : Nat) (c : BitVec 8) (t : State) : Prop where
  hearths : mwf {} t.hearths = true
  empty : (t.hearth h).hob = [] ∧ (t.hearth h).ps = [] ∧ (t.hearth h).progs = [] ∧ (t.hearth h).slots = [] ∧
    (t.hearth h).stokers = []
  cause : (t.hearth h).fenced = true → (t.hearth h).cause = c

section Listed
variable {h : Nat} {c : BitVec 8} {t u : State} {e : FenceEntry}

/-- Another content of the Hearth that is empty as well. -/
theorem Emptied.setHearth (ht : Emptied h c t) {x : Hearth}
    (hempty : x.hob = [] ∧ x.ps = [] ∧ x.progs = [] ∧ x.slots = [] ∧ x.stokers = []) (hcause : x.fenced = true → x.cause = c) :
    Emptied h c (t.setHearth h x) := by
  have hx := State.setHearth_hearth t h x ht.hearths
  refine ⟨mwf_mset _ _ _ _ ht.hearths, ?_, ?_⟩
  · rw [hx]
    exact hempty
  · rw [hx]
    exact hcause

theorem Reapplied.emptied (hu : Reapplied h e t u) (ht : Emptied h c t) (hc : e.lists h → e.cause = c) : Emptied h c u := by
  cases hu with
  | other => exact ht
  | grate => exact ht.setHearth ht.empty ht.cause
  | stove => exact ht.setHearth ht.empty ht.cause
  | hearth hyes => exact ht.setHearth ht.empty fun _ => hc hyes

theorem Reapplied.fenced (hu : Reapplied h e t u) (ht : mwf {} t.hearths = true)
    (hf : (t.hearth h).fenced = true ∨ e.lists h) : (u.hearth h).fenced = true := by
  cases hu with
  | other hno => exact hf.resolve_right hno
  | grate hno | stove hno =>
    rw [State.setHearth_hearth _ _ _ ht]
    exact hf.resolve_right hno
  | hearth => rw [State.setHearth_hearth _ _ _ ht]

/-- The list applied to an empty Hearth that it lists under one cause. -/
theorem foldl_reapplied {f : State → Nat × FenceEntry → State} (hstep : ∀ t e, Reapplied h e.2 t (f t e))
    (l : List (Nat × FenceEntry)) (t : State) (ht : Emptied h c t) (hc : ∀ e ∈ l, e.2.lists h → e.2.cause = c)
    (hf : (t.hearth h).fenced = true ∨ ∃ e ∈ l, e.2.lists h) :
    Emptied h c (l.foldl f t) ∧ ((l.foldl f t).hearth h).fenced = true := by
  induction l generalizing t with
  | nil => exact ⟨ht, by simpa using hf⟩
  | cons e l ih =>
    refine ih _ ((hstep t e).emptied ht (hc e List.mem_cons_self)) (fun i hi => hc i (List.mem_cons_of_mem _ hi)) ?_
    obtain hf | ⟨i, hi, hlists⟩ := hf
    · exact .inl ((hstep t e).fenced ht.hearths (.inl hf))
    · obtain rfl | hi := List.mem_cons.1 hi
      · exact .inl ((hstep t i).fenced ht.hearths (.inr hlists))
      · exact .inr ⟨i, hi, hlists⟩

theorem State.reapplyFences_of_listed (ht : Emptied h c t) (hc : ∀ e ∈ t.faults.fences, e.2.lists h → e.2.cause = c)
    (hf : ∃ e ∈ t.faults.fences, e.2.lists h) :
    Emptied h c (t.reapplyFences (some h)) ∧ ((t.reapplyFences (some h)).hearth h).fenced = true := by
  unfold State.reapplyFences
  refine foldl_reapplied (fun u e => ?_) _ t ht hc (.inr hf)
  dsimp only
  split
  next hv => exact .other fun hl => by simp [hl.1] at hv
  next hv =>
    have hkind {n : Nat} (hn : e.2.kind.toNat = n) (hne : n ≠ 2) : ¬ e.2.lists h := by
      rintro ⟨-, hk, -⟩
      rw [hk] at hn
      exact hne hn.symm
    split
    next hk =>
      split
      next hat =>
        obtain rfl := of_decide_eq_true hat
        exact .grate (hkind hk (by decide)) _
      next => exact .other (hkind hk (by decide))
    next hk =>
      split
      next hat =>
        obtain rfl := of_decide_eq_true hat
        exact .hearth ⟨by simpa using hv, BitVec.eq_of_toNat_eq hk, rfl⟩
      next hat => exact .other fun hl => hat (decide_eq_true hl.2.2.symm)
    next hk => exact .other (hkind hk (by decide))
    next hk =>
      split
      next hat =>
        obtain rfl := of_decide_eq_true hat
        exact .stove (hkind hk (by decide)) _
      next => exact .other (hkind hk (by decide))
    next h2 _ _ => exact .other (hkind rfl h2)

end Listed

/-- A listed Hearth is fenced again as it is reset (R734, R815). -/
theorem State.hearthReset_of_listed {s : State} {h : Nat} {c : BitVec 8} (hs : mwf {} s.hearths = true)
    (hc : ∀ e ∈ s.faults.fences, e.2.lists h → e.2.cause = c) (hf : ∃ e ∈ s.faults.fences, e.2.lists h) :
    Emptied h c (s.hearthReset h) ∧ ((s.hearthReset h).hearth h).fenced = true := by
  have hself := State.emptied_hearth (h := h) hs
  have hempty : Emptied h c (s.emptied h) := by
    refine ⟨mwf_mset _ _ _ _ hs, ?_, ?_⟩
    · rw [hself]
      exact ⟨rfl, rfl, rfl, rfl, rfl⟩
    · rw [hself]
      exact fun hfenced => Bool.noConfusion hfenced
  obtain ⟨hkept, hfenced⟩ := State.reapplyFences_of_listed hempty hc hf
  rw [State.hearthReset_eq, State.fenceHearth_of_fenced hfenced, ite_self]
  exact ⟨hkept, hfenced⟩

/-- Settles O51: each write by its judgement; a fence by the work orders it ends, a reset by the fence list. That a reset keeps
the Stove's load counters is the model's log entry 100, and that a RUN that waits keeps its granules in use its entry 38. -/
theorem hearthRegisters : Obligations.HearthRegisters := by
  unfold Obligations.HearthRegisters
  rintro p h j v s x hc hserving rfl hprogs
  have serve {f : State → State} {c : Instr} (hx : exec c s = .next (s.whenReady f)) {t : State} (ht : f s = t) :
      exec c s = .next t := by
    rw [hx, State.whenReady_of_serving hserving, ht]
  refine ⟨fun hother => ?other0, fun hother => ?other3, fun hown => ?own0, fun hown => ?own3⟩
  case other0 =>
    exact ⟨serve rfl (State.psMapWrite_of_other _ _ hother), fun on => serve rfl (State.postRoute_of_other _ hother)⟩
  case other3 =>
    exact ⟨serve rfl (State.fenceReq_of_other hother), serve rfl (State.hrtReset_of_other hother)⟩
  case own0 =>
    refine ⟨fun inUse huse => ⟨fun hyes => ?_, fun hno => ?_⟩, fun on => ⟨fun hcalls => ?_, fun hcalls => ?_⟩⟩
    · exact serve rfl (State.psMapWrite_of_inUse _ _ hown ((State.granuleInUse_iff _).2 (huse.1 hyes)))
    · exact ⟨_, serve rfl (State.psMapWrite_of_free _ _ hown fun h => hno (huse.2 ((State.granuleInUse_iff _).1 h))),
        Hearth.setGranule_prog j.val hprogs _ _⟩
    · exact serve rfl (State.postRoute_of_busy _ hown hcalls)
    · exact serve rfl (State.postRoute_of_idle _ hown hcalls)
  case own3 =>
    refine ⟨?fence, fun huse => serve rfl (State.hrtReset_of_inUse hown huse), fun hf hidle => ?reset⟩
    case fence =>
      obtain ⟨hcanon, hfenced, hcause, hlist⟩ := State.fenceHearth_requested (h := h) hc.hearths
      refine ⟨_, serve rfl (State.fenceReq_of_holder hown), ?_⟩
      rw [State.hrtResult, State.updHearth, State.setHearth_hearth _ _ _ hcanon]
      exact ⟨hfenced, rfl, hcause, hlist, fun hf w hmem hw hh hno => State.fenceHearth_remaps hf hw hmem hh hno⟩
    case reset =>
      have hx := serve (c := .hrtReset p h) rfl (State.hrtReset_of_idle hown hf hidle)
      refine ⟨fun hmfg hnone => ?_, fun n hvalid hkind hindex hcauses => ?_⟩
      · rwa [State.hearthReset_of_unlisted hc.hearths hmfg hnone] at hx
      · have hmem : ∃ e ∈ s.faults.fences, e.2.lists h := by
          obtain hnone | ⟨e, he, heq⟩ := Laws.mget_listed {} s.faults.fences n
          · rw [hnone] at hvalid
            exact absurd hvalid (by decide)
          · exact ⟨e, he, heq ▸ ⟨hvalid, hkind, hindex⟩⟩
        obtain ⟨hempty, hfenced⟩ := State.hearthReset_of_listed hc.hearths
          (fun e he hl => hcauses e he hl.1 hl.2.1 hl.2.2) hmem
        exact ⟨_, hx, hfenced, hempty.cause hfenced, hempty.empty⟩

end Sys2Proof.Machine

namespace Sys2Proof.Machine

open Sys2Proof.Safety

/-! # Dampers, TIME.RD and PACE.RD (O33) -/

section Damper
variable {s : State} {h k w e : Nat}

/-- DAMPER issues: its Stoker arrives, or parks until the implied fence is complete (R345). -/
theorem State.damperOp_of_issues (hi : Issues s h k w e []) (hd : NoDst w) (hf : Fields w 3 7 0 0 0 0)
    (hwait : ∀ n, (s.stoker h k).wait ≠ .damperFence n) :
    s.damperOp h k = (if s.fenceDone h k (s.stoker h k).seq true then Issued.park ((s.advance h k 1).arrive h k)
      else .park ((s.advance h k 1).parkAs h k .parkedFence (.damperFence (s.stoker h k).seq))).settle s h k := by
  obtain ⟨hcls, hop, ha, hb, hsub, himm⟩ := hf
  unfold State.damperOp
  split
  next n hn => exact absurd hn (hwait n)
  next => exact State.issue_of_noDst 1 hi hd hcls hop rfl (by simp [synZero, ha, hb, hsub, himm]) rfl rfl

/-- The implied fence of a DAMPER is complete. -/
theorem State.damperOp_of_fenced {n : Nat} (hwait : (s.stoker h k).wait = .damperFence n)
    (hdone : s.fenceDone h k n true = true) : s.damperOp h k = s.arrive h k := by
  simp only [State.damperOp, hwait, hdone, if_true]

end Damper

/-! ### The end of a round (R348) -/

/-- The Stoker goes on from its round. -/
def Stoker.outOfRound (x : Stoker) : Stoker := { x with st := .ready, wait := .none }

/-- One Stoker of a round goes on, and its DAMPER retires. -/
def State.leaveRound (wo : Nat) (t : State) (p : Nat × Nat) : State := (t.parkAs p.1 p.2 .ready .none).retired wo

/-- The round of the work order is over. -/
def State.nextRound (s : State) (wo : Nat) : State := s.updWo wo fun o => { o with damperRound := o.damperRound + 1 }

section Round
variable {t : State} {wo : Nat}

theorem State.leaveRound_hearth (t : State) (p : Nat × Nat) (i : Nat) :
    (t.leaveRound wo p).hearth i = (t.updStoker p.1 p.2 Stoker.outOfRound).hearth i := rfl

theorem Neat.leaveRound (n : ∀ i, Neat t i) (p : Nat × Nat) (i : Nat) : Neat (t.leaveRound wo p) i := by
  have hp := (n p.1).updStoker p.2 Stoker.outOfRound
  refine ⟨hp.hearths, ?_⟩
  rw [State.leaveRound_hearth]
  by_cases hi : i = p.1
  · rw [hi]
    exact hp.stokers
  · rw [State.updStoker_hearth_ne _ _ _ _ _ hi]
    exact (n i).stokers

theorem State.leaveRound_stoker (n : ∀ i, Neat t i) (p : Nat × Nat) (i j : Nat) :
    (t.leaveRound wo p).stoker i j = if (i, j) = p then (t.stoker i j).outOfRound else t.stoker i j := by
  obtain ⟨a, b⟩ := p
  rw [State.stoker, State.leaveRound_hearth, ← State.stoker]
  by_cases hi : i = a
  · subst hi
    by_cases hj : j = b
    · subst hj
      rw [if_pos rfl, State.updStoker_stoker _ _ _ _ (n i)]
    · rw [if_neg fun heq => hj (congrArg Prod.snd heq), State.updStoker_stoker_ne _ _ _ _ _ (n i) hj]
  · rw [if_neg fun heq => hi (congrArg Prod.fst heq), State.stoker, State.updStoker_hearth_ne _ _ _ _ _ hi]
    rfl

theorem foldl_leaveRound_stoker (l : List (Nat × Nat)) (t : State) (n : ∀ i, Neat t i) (i j : Nat) :
    (l.foldl (State.leaveRound wo) t).stoker i j = if (i, j) ∈ l then (t.stoker i j).outOfRound else t.stoker i j := by
  induction l generalizing t with
  | nil => rfl
  | cons p l ih =>
    rw [List.foldl_cons, ih _ (Neat.leaveRound n p), State.leaveRound_stoker n]
    by_cases hp : (i, j) = p <;> by_cases hl : (i, j) ∈ l <;> simp [hp, hl, Stoker.outOfRound]

theorem foldl_leaveRound_wos (l : List (Nat × Nat)) (t : State) : (l.foldl (State.leaveRound wo) t).wos =
    t.wos.map fun o => if o.id = wo then { o with progress := o.progress + l.length } else o := by
  induction l generalizing t with
  | nil => exact (List.map_id'' (fun o => ite_self o) t.wos).symm
  | cons p l ih =>
    have hstep : (t.leaveRound wo p).wos =
        t.wos.map fun o => if o.id = wo then { o with progress := o.progress + 1 } else o := rfl
    rw [List.foldl_cons, ih, hstep, List.map_map]
    refine List.map_congr_left fun o _ => ?_
    by_cases ho : o.id = wo
    · simp [ho, Nat.add_assoc, Nat.add_comm 1]
    · simp [ho]

theorem foldl_leaveRound_device (l : List (Nat × Nat)) (t : State) :
    ∃ m v, l.foldl (State.leaveRound wo) t = { t with hearths := m, wos := v } := by
  refine List.foldlRecOn (motive := fun (u : State) => ∃ m v, u = { t with hearths := m, wos := v }) l _
    ⟨t.hearths, t.wos, rfl⟩ ?_
  rintro _ ⟨m, v, rfl⟩ p _
  exact ⟨_, _, rfl⟩

/-- Every participant has arrived: those that wait go on. -/
theorem State.roundEnd_of_arrived {s : State} {ps : List (Nat × Nat)}
    (hps : ps = (s.stokersOf wo).filter fun p => decide ((s.stoker p.1 p.2).wait = .damper)) (hne : ps ≠ [])
    (hall : ∀ p ∈ s.stokersOf wo, s.arrived p.1 p.2 = true) :
    s.roundEnd wo = ps.foldl (State.leaveRound wo) (s.nextRound wo) := by
  subst hps
  refine if_neg ?_
  rw [List.all_eq_true.2 hall, Bool.not_true, Bool.or_false, List.isEmpty_iff]
  exact hne

end Round

/-! ### The two reads (R350, R352) -/

section Reads
variable {s : State} {h : HearthId} {k : StokerId} {w e : Nat} (hc : Canon s) (hi : Issues s h k w e [zDstReg w]) (hd : ToReg w)
include hc hi hd

/-- TIME.RD reads the epoch when E is set, else the whole nanoseconds. -/
theorem does_timeRd {sub : Nat} (hlt : sub < 2) (hf : Fields w 3 8 0 0 sub 0) : Does (.timeRd h k) s h k s (s.hearth h)
    ((past (s.stoker h k) 1).write (zDstReg w) (if bitAt sub 0 then s.tb.epoch.setWidth 64 else s.timeNs)) true := by
  obtain ⟨hcls, hop, ha, hb, rfl, himm⟩ := hf
  exact does_write hc (f := fun x => x.write (zDstReg w) (if bitAt (zSub w) 0 then s.tb.epoch.setWidth 64 else s.timeNs))
    (congrArg Host.Outcome.next
      (State.issue_of_toReg 1 hi hd (fun _ => id) hcls hop rfl (by simp [ha, hb, hlt, himm]) rfl rfl))

theorem does_paceRd (hf : Fields w 3 9 0 0 0 0) : Does (.paceRd h k) s h k s (s.hearth h)
    ((past (s.stoker h k) 1).write (zDstReg w)
      (if (s.paceHearth h).valid then (s.paceHearth h).pace.setWidth 64 else 0)) true := by
  obtain ⟨hcls, hop, ha, hb, hsub, himm⟩ := hf
  exact does_write hc (f := fun x => x.write (zDstReg w)
      (if (s.paceHearth h).valid then (s.paceHearth h).pace.setWidth 64 else 0)) (congrArg Host.Outcome.next
    (State.issue_of_toReg 1 hi hd (fun _ => id) hcls hop rfl (by simp [synZero, ha, hb, hsub, himm]) rfl rfl))

end Reads

/-- Settles O33: a DAMPER by whether its implied fence is complete, the end of a round by induction on the Stokers that wait at
it, and the two reads by what their issue writes. -/
theorem dampersTimeAndPace : Obligations.DampersTimeAndPace := by
  unfold Obligations.DampersTimeAndPace
  refine ⟨?damper, ?reads⟩
  case damper =>
    rintro s h k w e x hc rfl
    have hx : exec (.damper h k) s = .next (s.damperOp h k) := rfl
    refine ⟨fun hi hd hf hwait => ?issue, fun n hwait hdone => ?fenced, fun wo ps hps hne hall => ?round⟩
    case issue =>
      rw [State.damperOp_of_issues hi hd hf hwait] at hx
      have hneat := (Safety.Canon.neat hc h).advance k 1
      refine ⟨fun hdone => ?_, fun hdone => ?_⟩ <;> rw [hdone] at hx
      · exact does_of_park hx (Safety.Ran.upd (ran_advance hc) hneat fun x =>
          { x with st := .parkedDamper, wait := .damper, rounds := x.rounds + 1 })
      · exact does_of_park hx (ran_parkAs (ran_advance hc) hneat ..)
    case fenced =>
      rw [hx, State.damperOp_of_fenced hwait hdone]
      rfl
    case round =>
      refine ⟨_, congrArg Host.Outcome.next (State.roundEnd_of_arrived hps hne hall), ?_, fun i j => ?_, ?_⟩
      · obtain ⟨m, v, hdevice⟩ := foldl_leaveRound_device (wo := wo) ps (s.nextRound wo)
        rw [hdevice]
        rfl
      · exact foldl_leaveRound_stoker ps (s.nextRound wo) (fun i => ⟨hc.hearths, (hc.hearth i).stokers⟩) i j
      · rw [foldl_leaveRound_wos, State.nextRound, State.updWo, List.map_map]
        refine List.map_congr_left fun o _ => ?_
        by_cases ho : o.id = wo <;> simp [ho]
  case reads =>
    rintro s h k w e x hc rfl hi hd
    exact ⟨does_timeRd hc hi hd (by decide), does_timeRd hc hi hd (by decide), does_paceRd hc hi hd⟩

end Sys2Proof.Machine

namespace Sys2Proof.Machine

open Sys2Proof.Safety

/-! # STR.OPEN, tags and the binding of handles (O34) -/

/-- The Hearth changes beside its Stokers, by a function that does not look at them. -/
theorem Safety.Ran.updHearth {s u t : State} {h k : Nat} {z : Hearth} {y : Stoker} {d : Bool} (r : Ran s h k u z y d t)
    (n : Neat t h) (f : Hearth → Hearth) (hf : ∀ x m, f { x with stokers := m } = { f x with stokers := m }) :
    Ran s h k u (f z) y d (t.updHearth h f) := by
  have hx : f (t.hearth h) = { f z with stokers := (t.hearth h).stokers } := by
    rw [← hf, ← r.hearth]
  have hran := Safety.Ran.hearthUpd r n (f (t.hearth h)) (by rw [hx])
  refine { hran with hearth := ?_ }
  rw [State.updHearth, State.setHearth_hearth _ _ _ n.hearths, hx]

/-- The first run that reads `n` bytes starts at their address. -/
theorem byteRuns_eq_cons {n : Nat} (va : Nat) (hn : n ≠ 0) : ∃ len rest, byteRuns va n = { va := va, len := len } :: rest :=
  ⟨_, _, if_neg hn⟩

/-! ### STR.OPEN and STR.OPEN.L issue (R359 to R364) -/

/-- The opening of handle DST by a word with its lengths. -/
def State.openingOf (s : State) (h k w : Nat) (lens : List (Nat × Nat)) : Opening :=
  { handle := zDst w, stoker := k, pc := (s.stoker h k).pc, tags := bits (zImm w) 0 8 + 1, lens := lens
    mode := strModeOf (bits (zImm w) 8 2)
    granted := decide (bits (zImm w) 0 8 + 1 ≤ (s.hearth h).freeTags) && (s.hearth h).openings.all fun p => p.granted }

/-- The Hearth with one more opening; one that waits for tags is counted. -/
def Hearth.addOpening (z : Hearth) (o : Opening) : Hearth :=
  { z with openings := z.openings ++ [o], openWaits := if o.granted then z.openWaits else satAdd 65535 z.openWaits 1 }

/-- The Stoker past an opening of `n` words, whose descriptor is being read. -/
def State.opened (s : State) (h k w n : Nat) (o : Opening) : State :=
  ((s.advance h k n).updHearth h fun z => z.addOpening o).newAcc h k (s.stoker h k).pc (s.stoker h k).seq .streamRead
    (.strDesc (zDst w)) (byteRuns ((s.stoker h k).sreg (zA w)).toNat 128)

section Open
variable {s : State} {h k w e : Nat}

/-- A form of STR.OPEN in `n` words: its run-time lengths, and the length registers it waits for (R359, R362). -/
def OpenForm (x : Stoker) (e op n : Nat) (lens : List (Nat × Nat)) (uses : List Dst) : Prop :=
  (op = 1 ∧ n = 1 ∧ lens = [] ∧ uses = []) ∨
    (op = 0x20 ∧ n = 2 ∧ extLegal e = true ∧ lens = extLens x e ∧ uses = extUses e)

theorem State.strOpen_of_issues {op n : Nat} {lens : List (Nat × Nat)} {uses : List Dst}
    (hform : OpenForm (s.stoker h k) e op n lens uses) (hi : Issues s h k w e (sDst (zA w) :: uses))
    (hf : Fields w 8 op (zA w) 0 0 (zImm w)) (hspace : zSpace w = 3) (hdst : zDst w < 16) (himm : zImm w < 1024)
    (hmode : bits (zImm w) 8 2 ≠ 3) (hunbound : (s.stoker h k).stream? (zDst w) = none)
    (hfree : s.opening h k (zDst w) = false) (halign : ((s.stoker h k).sreg (zA w)).toNat % 8 = 0) :
    s.strOpen h k op = (if (s.openingOf h k w lens).granted then Issued.next (s.opened h k w n (s.openingOf h k w lens))
      else .park ((s.opened h k w n (s.openingOf h k w lens)).parkAs h k .parkedStream (.tags (zDst w)))).settle s h k := by
  obtain ⟨hcls, hop, -, hb, hsub, -⟩ := hf
  have hext : zExt ((s.hearth h).word ((s.stoker h k).pc + 8)) = e := hi.ext
  have hwords : (if 32 ≤ op then 2 else 1) = n ∧ uses = (if op = 1 then [] else extUses e) ∧
      lens = (if op = 1 then [] else extLens (s.stoker h k) e) ∧ (decide (op = 1) || extLegal e) = true := by
    obtain ⟨rfl, rfl, rfl, rfl⟩ | ⟨rfl, rfl, hlegal, rfl, rfl⟩ := hform
    · exact ⟨rfl, rfl, rfl, rfl⟩
    · exact ⟨rfl, rfl, rfl, by simp [hlegal]⟩
  obtain ⟨rfl, rfl, rfl, hlegal⟩ := hwords
  unfold State.strOpen
  dsimp only
  rw [hext]
  refine (State.issue_run (by simpa [DstUse.dst] using hi) hcls hop rfl (by simp [DstUse.fits, hspace])
    (by simp [hsub, hb, himm, hmode, hlegal]) (by simp [zDstInFile, hspace, hdst]) rfl).trans ?_
  exact congrArg (fun r : Issued => r.settle s h k)
    ((if_neg (by simp [hunbound])).trans ((if_neg (by simp [hfree])).trans (if_neg (by simp [halign]))))

/-- What an opening of `n` words comes to before its Stoker parks. -/
theorem ran_opened (hc : Canon s) (n : Nat) (o : Opening) :
    Ran s h k (withAccess s h k .streamRead (.strDesc (zDst w)) ((s.stoker h k).sreg (zA w)).toNat
        (byteRuns ((s.stoker h k).sreg (zA w)).toNat 128))
      ((s.hearth h).addOpening o) (past (s.stoker h k) n) false (s.opened h k w n o) := by
  have hran := Safety.Ran.updHearth (ran_advance (n := n) (h := h) (k := k) hc) ((Safety.Canon.neat hc h).advance k n)
    (fun z => z.addOpening o) fun _ _ => rfl
  obtain ⟨len, rest, hruns⟩ := byteRuns_eq_cons ((s.stoker h k).sreg (zA w)).toNat (n := 128) (by decide)
  unfold State.opened
  rw [hruns]
  exact ran_newAcc hran rfl rfl _ _ { va := ((s.stoker h k).sreg (zA w)).toNat, len := len } rest

theorem Neat.opened (hc : Canon s) (n : Nat) (o : Opening) : Neat (s.opened h k w n o) h := by
  have hneat := ((Safety.Canon.neat hc h).advance k n).updHearth (f := fun z => z.addOpening o) fun _ => rfl
  exact ⟨hneat.hearths, hneat.stokers⟩

end Open

/-! ### Binding (R365) -/

/-- The stream that an opening with its descriptor becomes. -/
def Opening.stream (o : Opening) (d : Desc) (raw : List Byte) : Stream :=
  { mode := o.mode, desc := d, raw := raw, cut := d.cutWith o.lens, tags := o.tags, clamped := d.clamps o.lens }

/-- The Hearth with an opening bound to a stream. -/
def Hearth.bound (x : Hearth) (o : Opening) (q : Stream) : Hearth :=
  { x.setStoker o.stoker ((x.stoker o.stoker).setStream o.handle (some q)) with
    openings := x.openings.filter fun p => !(decide (p.stoker = o.stoker) && decide (p.handle = o.handle)) }

section Bind
variable {x : Hearth} {o : Opening}

theorem Hearth.bind_of_desc {d : Desc} {raw : List Byte} (hg : o.granted = true) (hd : o.desc = some (d, raw)) :
    x.bind o = x.bound o (o.stream d raw) := by
  unfold Hearth.bind
  rw [hg, hd]
  rfl

/-- An opening without tags, or without its descriptor, stays. -/
theorem Hearth.bind_of_waiting (hw : o.granted = true → o.desc = none) (x : Hearth) : x.bind o = x := by
  unfold Hearth.bind
  split
  next d raw hg hd => exact absurd ((hw hg).symm.trans hd) nofun
  next => rfl

theorem Hearth.bound_stoker (hx : mwf {} x.stokers = true) (q : Stream) :
    (x.bound o q).stoker o.stoker = (x.stoker o.stoker).setStream o.handle (some q) := Hearth.setStoker_stoker x _ _ hx

/-- A handle that is bound twice is bound as at first. -/
theorem Hearth.bound_bound (hx : HearthCanon x) (q : Stream) : (x.bound o q).bound o q = x.bound o q := by
  have hstream : ((x.stoker o.stoker).setStream o.handle (some q)).setStream o.handle (some q) =
      (x.stoker o.stoker).setStream o.handle (some q) := by
    unfold Stoker.setStream
    dsimp only
    rw [mset_mset _ _ _ _ _ (hx.handles o.stoker)]
  rw [Hearth.bound, Hearth.bound_stoker hx.stokers, hstream]
  simp only [Hearth.bound, Hearth.setStoker, mset_mset _ _ _ _ _ hx.stokers, List.filter_filter, Bool.and_self]

/-- Of a list of openings in which only `o` can be bound, `o` is bound. -/
theorem foldl_bind (l : List Opening) (x : Hearth) (htwice : (x.bind o).bind o = x.bind o)
    (hl : ∀ p ∈ l, p = o ∨ ∀ y : Hearth, y.bind p = y) :
    l.foldl (fun z p => z.bind p) x = if o ∈ l then x.bind o else x := by
  induction l generalizing x with
  | nil => rfl
  | cons p l ih =>
    have hrest : ∀ p ∈ l, p = o ∨ ∀ y : Hearth, y.bind p = y := fun p hp => hl p (List.mem_cons_of_mem _ hp)
    rw [List.foldl_cons]
    by_cases hp : p = o
    · subst hp
      rw [ih _ (by rw [htwice, htwice]) hrest, htwice, ite_self, if_pos List.mem_cons_self]
    · have hkeep := (hl p List.mem_cons_self).resolve_left hp
      rw [hkeep x, ih x htwice hrest]
      exact if_congr (by simp [Ne.symm hp]) rfl rfl

/-- No opening of the list can be bound. -/
theorem foldl_bind_of_waiting (l : List Opening) (x : Hearth) (hl : ∀ p ∈ l, p.granted = true → p.desc = none) :
    l.foldl (fun z p => z.bind p) x = x :=
  List.foldlRecOn (motive := fun y => y = x) l _ rfl fun _ hy p hp => (Hearth.bind_of_waiting (hl p hp) _).trans hy

end Bind

/-! ### STR_OPEN_TAGS (R364) -/

/-- The opening has its tags. -/
def Opening.grant (o : Opening) : Opening := { o with granted := true }

/-- The Hearth with the tags of one opening granted. -/
def Hearth.grant (z : Hearth) (o : Opening) : Hearth :=
  { z with openings := z.openings.map fun p => if p = o then p.grant else p }

section Tags
variable {s : State} {h : Nat} {o : Opening} (ho : (s.hearth h).openings.find? (fun p => !p.granted) = some o)
include ho

theorem State.strOpenTags_of_few (hfew : (s.hearth h).freeTags < o.tags) : s.strOpenTags h = s := by
  unfold State.strOpenTags
  dsimp only
  rw [ho]
  exact if_pos hfew

variable (hs : mwf {} s.hearths = true) (henough : o.tags ≤ (s.hearth h).freeTags)
  (hone : ∀ p ∈ (s.hearth h).openings, p.stoker = o.stoker → p.handle = o.handle → p = o)
include hs henough hone

/-- The opening is granted its tags, and every opening that can be bound is bound. -/
theorem State.strOpenTags_of_enough : s.strOpenTags h = s.setHearth h
    (((s.hearth h).grant o).openings.foldl (fun z p => z.bind p) ((s.hearth h).grant o)) := by
  have hsame : ((s.hearth h).openings.map fun p =>
      if p.stoker = o.stoker ∧ p.handle = o.handle then { p with granted := true } else p) =
      ((s.hearth h).grant o).openings :=
    List.map_congr_left fun p hp => if_congr ⟨fun hboth => hone p hp hboth.1 hboth.2, fun heq => heq ▸ ⟨rfl, rfl⟩⟩ rfl rfl
  have hgrant : (s.updHearth h fun z => { z with openings := z.openings.map fun p =>
      if p.stoker = o.stoker ∧ p.handle = o.handle then { p with granted := true } else p }) =
      s.setHearth h ((s.hearth h).grant o) := by
    rw [State.updHearth, hsame]
    rfl
  unfold State.strOpenTags
  dsimp only
  rw [ho]
  refine (if_neg (by omega)).trans ?_
  rw [hgrant, State.bindAll, State.updHearth, State.setHearth_hearth _ _ _ hs, State.setHearth_setHearth _ _ _ _ hs]

end Tags

section Granted
variable {z : Hearth} {o : Opening} (hwait : ∀ p ∈ z.openings, p.granted = true → p.desc = none)

/-- After the grant, an opening is the granted one or one from before. -/
theorem mem_grant_openings {p : Opening} (hp : p ∈ (z.grant o).openings) : p = o.grant ∨ p ∈ z.openings := by
  obtain ⟨q, hq, rfl⟩ := List.mem_map.1 hp
  by_cases heq : q = o
  · exact .inl (by rw [if_pos heq, heq])
  · exact .inr (by rwa [if_neg heq])

include hwait

theorem Hearth.foldl_bind_grant_of_noDesc (hnone : o.desc = none) :
    (z.grant o).openings.foldl (fun x p => x.bind p) (z.grant o) = z.grant o := by
  refine foldl_bind_of_waiting _ _ fun p hp hg => ?_
  obtain rfl | hp := mem_grant_openings hp
  · exact hnone
  · exact hwait p hp hg

theorem Hearth.foldl_bind_grant_of_desc {d : Desc} {raw : List Byte} (hz : HearthCanon z) (hmem : o ∈ z.openings)
    (hdesc : o.desc = some (d, raw)) :
    (z.grant o).openings.foldl (fun x p => x.bind p) (z.grant o) = (z.grant o).bound o.grant (o.stream d raw) := by
  have hbind (x : Hearth) : x.bind o.grant = x.bound o.grant (o.stream d raw) := Hearth.bind_of_desc rfl hdesc
  have hcanon : HearthCanon (z.grant o) := { hz with }
  rw [foldl_bind (o := o.grant), hbind, if_pos]
  · exact List.mem_map.2 ⟨o, hmem, if_pos rfl⟩
  · rw [hbind, hbind, Hearth.bound_bound hcanon]
  · intro p hp
    exact (mem_grant_openings hp).imp_right fun hp => Hearth.bind_of_waiting (hwait p hp)

end Granted

/-- Of the openings, one of which is granted, all but that one are for other handles. -/
theorem filter_map_grant {o : Opening} (l : List Opening)
    (hone : ∀ p ∈ l, p.stoker = o.stoker → p.handle = o.handle → p = o) :
    (l.map fun p => if p = o then p.grant else p).filter
      (fun p => !(decide (p.stoker = o.stoker) && decide (p.handle = o.handle))) = l.filter fun p => decide (p ≠ o) := by
  induction l with
  | nil => rfl
  | cons p l ih =>
    have hrest := ih fun q hq => hone q (List.mem_cons_of_mem _ hq)
    by_cases hp : p = o
    · rw [List.map_cons, if_pos hp, hp, List.filter_cons_of_neg (by simp [Opening.grant]),
        List.filter_cons_of_neg (by simp), hrest]
    · have hother : p.stoker ≠ o.stoker ∨ p.handle ≠ o.handle :=
        not_and_or.1 fun ⟨hk, hd⟩ => hp (hone p List.mem_cons_self hk hd)
      rw [List.map_cons, if_neg hp, List.filter_cons_of_pos (by simpa using hother), List.filter_cons_of_pos (by simp [hp]),
        hrest]

/-- Settles O34: an opening by what its issue comes to; the grant of tags by what can then be bound. That tags are granted, and
openings bound, in the order of issue is the model's log entry 61. -/
theorem streamsOpen : Obligations.StreamsOpen := by
  unfold Obligations.StreamsOpen
  rintro s h k w e x z hc rfl rfl
  refine ⟨?issue, fun o ho => ⟨fun hfew => ?few, fun henough hwait hone => ?enough⟩⟩
  case issue =>
    rintro c n lens uses tags o y hform hi hf hspace hdst himm hmode rfl hunbound hfree halign rfl rfl
    obtain ⟨op, hx, hop, hform⟩ : ∃ op, exec c s = .next (s.strOpen h k op) ∧ zOp w = op ∧
        OpenForm (s.stoker h k) e op n lens uses := by
      obtain ⟨rfl, hop, hrest⟩ | ⟨rfl, hop, hrest⟩ := hform
      · exact ⟨1, rfl, hop, .inl ⟨rfl, hrest⟩⟩
      · exact ⟨0x20, rfl, hop, .inr ⟨rfl, hrest⟩⟩
    rw [State.strOpen_of_issues hform hi (hop ▸ hf) hspace hdst himm hmode hunbound hfree halign] at hx
    have hran := ran_opened (w := w) (h := h) (k := k) hc n (s.openingOf h k w lens)
    show Does c s h k _ ((s.hearth h).addOpening (s.openingOf h k w lens)) (if (s.openingOf h k w lens).granted then _ else _)
      (s.openingOf h k w lens).granted
    cases hg : (s.openingOf h k w lens).granted <;> rw [hg] at hx
    · exact does_of_park hx (ran_parkAs hran (Neat.opened hc n _) .parkedStream (.tags (zDst w)))
    · exact does_of_next hx hran
  case few => exact congrArg Host.Outcome.next (State.strOpenTags_of_few ho hfew)
  case enough =>
    have hx : exec (.strOpenTags h) s = .next (s.strOpenTags h) := rfl
    rw [State.strOpenTags_of_enough ho hc.hearths henough hone] at hx
    refine ⟨fun hnone => ?_, fun d raw hdesc => ?_⟩
    · rwa [Hearth.foldl_bind_grant_of_noDesc hwait hnone] at hx
    · have hcanon := hc.hearth h
      rw [Hearth.foldl_bind_grant_of_desc hwait hcanon (List.mem_of_find?_eq_some ho) hdesc] at hx
      have hself := State.setHearth_hearth s h (((s.hearth h).grant o).bound o.grant (o.stream d raw)) hc.hearths
      refine ⟨_, o.stream d raw, hx, rfl, ?_, ?_, rfl, rfl, rfl, rfl, rfl, rfl, rfl⟩
      · rw [hself, ← filter_map_grant _ hone]
        rfl
      · have hbound := Hearth.bound_stoker (x := (s.hearth h).grant o) (o := o.grant) hcanon.stokers (o.stream d raw)
        rw [State.stoker, hself]
        exact (congrArg (Stoker.stream? · o.handle) hbound).trans (mget_mset_self _ _ _ _ (by simp))

end Sys2Proof.Machine

namespace Sys2Proof.Machine

open Sys2Proof.Safety

/-! # STR.PULL, STR.PUSH, STR.WAIT, STR.POS and STR.CLOSE (O35) -/

section Str
variable {s : State} {h k w e d : Nat} {q : Stream}

theorem State.withStream_of_bound (hq : (s.stoker h k).stream? d = some q) (f : Stream → Issued) :
    s.withStream h k d f = f q := by
  simp only [State.withStream, State.stream?, hq]

/-! ### STR.PULL and STR.PUSH (R366 to R369, R377) -/

/-- The number of elements comes from IMM24, or from s[SRCB] (R366). -/
def CountForm (x : Stoker) (w d n : Nat) (uses : List Dst) : Prop :=
  zSub w = d + 16 ∧ zB w = 0 ∧ n = zImm w ∧ uses = [] ∨
    zSub w = d ∧ zImm w = 0 ∧ n = (x.sreg (zB w)).toNat ∧ uses = [sDst (zB w)]

/-- An STR.PULL or STR.PUSH of `m` elements that the stream admits (R367, R368). -/
structure Admits (q : Stream) (x : Stoker) (w m : Nat) (push : Bool) : Prop where
  mode : q.mode = .push ↔ push = true
  grate : q.mode = .grate → zA w = 0
  halves : q.desc.fmt.bits = 4 → m % 2 = 1 → m = q.total - q.assigned
  aligned : q.mode ≠ .grate → (x.sreg (zA w)).toNat % q.desc.fmt.size = 0

/-- The operation of STR.PULL or STR.PUSH on `m` elements. -/
def Stream.newOp (q : Stream) (x : Stoker) (w m : Nat) : StrOp :=
  { first := q.assigned, count := m, hob := (x.sreg (zA w)).toNat, seq := x.seq, pc := x.pc, ord := q.opCount }

/-- The stream with `m` elements assigned. -/
def Stream.assign (q : Stream) (x : Stoker) (w m : Nat) : Stream :=
  { q with assigned := q.assigned + m, opCount := q.opCount + 1, ops := if m = 0 then q.ops else q.ops ++ [q.newOp x w m] }

/-- What an assignment of `m` elements comes to. -/
def State.assignIssued (s : State) (h k w d m : Nat) (q : Stream) : Issued :=
  let x := s.stoker h k
  let t := s.advance h k 1
  if 16 ≤ q.ops.length then
    .park ((t.updStoker h k fun z => { z with pc := x.pc, seq := x.seq }).parkAs h k .parkedStream (.room d))
  else
    match (if q.mode = .grate ∨ m = 0 then none else s.hobRange x.gal (x.sreg (zA w)).toNat (q.desc.fmt.packed m)) with
    | some code => .fault code
    | none => .next ((t.setStream h k d (some (q.assign x w m))).updStoker h k fun z =>
        z.write (zDstReg w) (BitVec.ofNat 64 m))

theorem State.strAssign_of_issues {op n m : Nat} {push : Bool} {uses : List Dst} (hlt : op < 32)
    (hd : d = bits (zSub w) 0 4) (hq : (s.stoker h k).stream? d = some q) (hform : CountForm (s.stoker h k) w d n uses)
    (hi : Issues s h k w e (sDst (zA w) :: zDstReg w :: uses)) (hreg : ToReg w) (hcls : zClass w = 8) (hop : zOp w = op)
    (hm : m = min n (q.total - q.assigned)) (hok : Admits q (s.stoker h k) w m push) :
    s.strAssign h k op push = (s.assignIssued h k w d m q).settle s h k := by
  have hd16 : d < 16 := hd ▸ Nat.mod_lt _ (by decide)
  have hcount : (if bitAt (zSub w) 4 then zImm w else ((s.stoker h k).sreg (zB w)).toNat) = n ∧
      (if bitAt (zSub w) 4 then [] else [sDst (zB w)]) = uses ∧
      (decide (zSub w < 32) && (if bitAt (zSub w) 4 then decide (zB w = 0) else decide (zImm w = 0))) = true := by
    obtain ⟨hsub, hb, rfl, rfl⟩ | ⟨hsub, himm, rfl, rfl⟩ := hform
    · have hbit : bitAt (zSub w) 4 = true := by
        rw [bitAt, hsub, Nat.add_comm, Nat.testBit_two_pow_add_eq (i := 4), Nat.testBit_lt_two_pow hd16]
        rfl
      rw [hbit]
      exact ⟨rfl, rfl, by simp [hb]; omega⟩
    · have hbit : bitAt (zSub w) 4 = false := by rw [bitAt, hsub, Nat.testBit_lt_two_pow hd16]
      rw [hbit]
      exact ⟨rfl, rfl, by simp [himm]; omega⟩
  obtain ⟨hn, rfl, hlegal⟩ := hcount
  refine (State.issue_of_toReg 1 hi hreg (by simp; tauto) hcls hop rfl hlegal rfl (if_neg (by omega))).trans ?_
  refine congrArg (fun r : Issued => r.settle s h k) ?_
  have hz : zHandle w = d := hd.symm
  dsimp only
  rw [hz, State.withStream_of_bound hq]
  rw [hn, ← hm]
  refine (if_neg ?_).trans ((if_neg ?_).trans ((if_neg ?_).trans (if_neg ?_)))
  · cases push <;> simpa using hok.mode
  · exact fun ⟨hg, ha⟩ => ha (hok.grate hg)
  · exact fun ⟨h4, hodd, hne⟩ => hne (hok.halves h4 hodd)
  · exact fun ⟨hg, ha⟩ => ha (hok.aligned hg)

/-- The Hob range of an operation is within the gallery's part of the Hob (R369). -/
theorem State.hobRange_of_within {g va n : Nat} (hlo : hobAperture ≤ va) (hhi : va < 2 ^ 52)
    (hfit : va - hobAperture + n ≤ (s.gal g).hobSize.toNat * 65536) : s.hobRange g va n = none :=
  (if_neg (by omega)).trans (if_neg (by omega))

theorem State.assignIssued_of_full {m : Nat} (hfull : 16 ≤ q.ops.length) : s.assignIssued h k w d m q =
    .park (((s.advance h k 1).updStoker h k fun z => { z with pc := (s.stoker h k).pc, seq := (s.stoker h k).seq }).parkAs h k
      .parkedStream (.room d)) := if_pos hfull

theorem State.assignIssued_of_room {m : Nat} (hroom : q.ops.length < 16) (hrange : q.mode ≠ .grate → m ≠ 0 →
      s.hobRange (s.stoker h k).gal ((s.stoker h k).sreg (zA w)).toNat (q.desc.fmt.packed m) = none) :
    s.assignIssued h k w d m q = .next (((s.advance h k 1).setStream h k d (some (q.assign (s.stoker h k) w m))).updStoker h k
      fun z => z.write (zDstReg w) (BitVec.ofNat 64 m)) := by
  refine (if_neg (by omega)).trans ?_
  have hnone : (if q.mode = .grate ∨ m = 0 then none else
      s.hobRange (s.stoker h k).gal ((s.stoker h k).sreg (zA w)).toNat (q.desc.fmt.packed m)) = none := by
    split
    next => rfl
    next hno => exact hrange (fun hg => hno (.inl hg)) fun h0 => hno (.inr h0)
  rw [hnone]

/-! ### STR.WAIT, STR.POS and STR.CLOSE (R372 to R374) -/

variable (hd : d = bits (zSub w) 0 4) (hq : (s.stoker h k).stream? d = some q)
include hd hq

theorem State.strWait_of_issues {n : Nat} (hn : n < 16) (hi : Issues s h k w e []) (hdst : NoDst w)
    (hf : Fields w 8 4 0 0 d n) : s.strWait h k = (if q.waited n then Issued.next (s.advance h k 1)
      else .park ((s.advance h k 1).parkAs h k q.parkState (.ops d n))).settle s h k := by
  subst hd
  obtain ⟨hcls, hop, ha, hb, hsub, rfl⟩ := hf
  have hlt : zSub w < 16 := hsub.trans_lt (Nat.mod_lt _ (by decide))
  refine (State.issue_of_noDst 1 hi hdst hcls hop rfl (by simp [ha, hb, hlt, hn]) rfl rfl).trans ?_
  exact congrArg (fun r : Issued => r.settle s h k) (State.withStream_of_bound hq _)

theorem State.strPos_of_issues {n : Nat} (hn : n < 8) (hi : Issues s h k w e [zDstReg w]) (hreg : ToReg w)
    (hf : Fields w 8 5 0 0 d n) : s.strPos h k = (Issued.next ((s.advance h k 1).updStoker h k fun z =>
      z.write (zDstReg w) (BitVec.ofNat 64 (s.strPosValue h k d q n)))).settle s h k := by
  subst hd
  obtain ⟨hcls, hop, ha, hb, hsub, rfl⟩ := hf
  have hlt : zSub w < 16 := hsub.trans_lt (Nat.mod_lt _ (by decide))
  refine (State.issue_of_toReg 1 hi hreg (fun _ => id) hcls hop rfl (by simp [ha, hb, hlt, hn]) rfl rfl).trans ?_
  exact congrArg (fun r : Issued => r.settle s h k) (State.withStream_of_bound hq _)

theorem State.strClose_of_issues (hi : Issues s h k w e []) (hdst : NoDst w) (hf : Fields w 8 6 0 0 d 0) :
    s.strClose h k = (if s.closeDone h k d then Issued.next ((s.advance h k 1).setStream h k d none)
      else .park (((s.advance h k 1).setStream h k d (some q.close)).parkAs h k q.parkState (.close d))).settle s h k := by
  subst hd
  obtain ⟨hcls, hop, ha, hb, hsub, himm⟩ := hf
  have hlt : zSub w < 16 := hsub.trans_lt (Nat.mod_lt _ (by decide))
  refine (State.issue_of_noDst 1 hi hdst hcls hop rfl (by simp [ha, hb, hlt, himm]) rfl rfl).trans ?_
  exact congrArg (fun r : Issued => r.settle s h k) (State.withStream_of_bound hq _)

end Str

theorem Stream.waited_iff (q : Stream) (n : Nat) : q.waited n = true ↔ ∀ o ∈ q.ops, q.opCount ≤ o.ord + n := by
  simp [Stream.waited]

/-- Settles O35: each instruction by what its issue comes to on the stream of its handle. -/
theorem streamOperations : Obligations.StreamOperations := by
  unfold Obligations.StreamOperations
  rintro s h k w e d x q hc rfl hd hq
  have hran := ran_advance (n := 1) (h := h) (k := k) hc
  have hneat := (Safety.Canon.neat hc h).advance k 1
  refine ⟨?assign, fun n hn hi hdst hf => ?wait, fun n hn hi hreg hf => ?pos, fun hi hdst hf => ?close⟩
  case assign =>
    intro c push n m uses hinstr hform hi hreg hcls hm hmode hgrate hhalves haligned
    obtain ⟨op, hx, hop, hlt⟩ : ∃ op, exec c s = .next (s.strAssign h k op push) ∧ zOp w = op ∧ op < 32 := by
      obtain ⟨rfl, hop, rfl⟩ | ⟨rfl, hop, rfl⟩ := hinstr
      · exact ⟨2, rfl, hop, by decide⟩
      · exact ⟨3, rfl, hop, by decide⟩
    rw [State.strAssign_of_issues hlt hd hq hform hi hreg hcls hop hm ⟨hmode, hgrate, hhalves, haligned⟩] at hx
    refine ⟨fun hfull => ?_, fun hroom hrange => ?_⟩
    · rw [State.assignIssued_of_full hfull] at hx
      exact does_of_park hx (ran_parkAs (Safety.Ran.upd hran hneat fun z =>
        { z with pc := (s.stoker h k).pc, seq := (s.stoker h k).seq }) (hneat.updStoker k _) .parkedStream (.room d))
    · rw [State.assignIssued_of_room hroom fun hg h0 =>
        let ⟨hlo, hhi, hfit⟩ := hrange hg h0
        State.hobRange_of_within hlo hhi hfit] at hx
      exact does_of_next hx (Safety.Ran.upd (Safety.Ran.upd hran hneat fun z =>
        z.setStream d (some (q.assign (s.stoker h k) w m))) (hneat.updStoker k _) fun z =>
          z.write (zDstReg w) (BitVec.ofNat 64 m))
  case wait =>
    have hx : exec (.strWait h k) s = .next (s.strWait h k) := rfl
    rw [State.strWait_of_issues hd hq hn hi hdst hf] at hx
    refine ⟨fun hdone => ?_, fun hleft => ?_⟩
    · rw [if_pos ((q.waited_iff n).2 hdone)] at hx
      exact does_of_next hx hran
    · rw [if_neg fun h => hleft ((q.waited_iff n).1 h)] at hx
      exact does_of_park hx (ran_parkAs hran hneat q.parkState (.ops d n))
  case pos =>
    refine ⟨_, rfl, fun h6 => by rw [h6]; rfl, ?_⟩
    exact does_write hc (f := fun z => z.write (zDstReg w) (BitVec.ofNat 64 (s.strPosValue h k d q n)))
      (congrArg Host.Outcome.next (State.strPos_of_issues hd hq hn hi hreg hf))
  case close =>
    have hx : exec (.strClose h k) s = .next (s.strClose h k) := rfl
    rw [State.strClose_of_issues hd hq hi hdst hf] at hx
    refine ⟨fun hdone => ?_, fun hdone => ?_⟩ <;> rw [hdone] at hx
    · exact does_of_next hx (Safety.Ran.upd hran hneat fun z => z.setStream d none)
    · exact does_of_park hx (ran_parkAs (Safety.Ran.upd hran hneat fun z => z.setStream d (some q.close))
        (hneat.updStoker k _) q.parkState (.close d))

end Sys2Proof.Machine

namespace Sys2Proof.Machine

open Sys2Proof.Safety

/-! # What the compute instructions share -/

/-! ### Hearths and Stokers -/

theorem State.updHearth_hearth {s : State} {h : Nat} (hs : mwf {} s.hearths = true) (f : Hearth → Hearth) :
    (s.updHearth h f).hearth h = f (s.hearth h) := State.setHearth_hearth _ _ _ hs

theorem State.updHearth_hearth_ne (s : State) {h j : Nat} (hj : j ≠ h) (f : Hearth → Hearth) :
    (s.updHearth h f).hearth j = s.hearth j := State.setHearth_hearth_ne _ _ _ _ hj

theorem State.updHearth_updHearth {s : State} {h : Nat} (hs : mwf {} s.hearths = true) (f g : Hearth → Hearth) :
    (s.updHearth h f).updHearth h g = s.updHearth h fun x => g (f x) := by
  rw [State.updHearth, State.updHearth_hearth hs, State.updHearth, State.setHearth_setHearth _ _ _ _ hs, State.updHearth]

/-- An entry of a map in canonical form is what the map gives at its key. -/
theorem mget_of_mem {α : Type} [DecidableEq α] {d : α} {m : Sparse α} (hm : mwf d m = true) {k : Nat} {v : α}
    (hmem : (k, v) ∈ m) : mget d m k = v := by
  suffices ∀ lo, mwfFrom d lo m = true → lo ≤ k ∧ mget d m k = v from (this 0 hm).2
  clear hm
  induction m with
  | nil => exact absurd hmem List.not_mem_nil
  | cons e m ih =>
    obtain ⟨k', v'⟩ := e
    intro lo hlo
    simp only [mwfFrom, Bool.and_eq_true, decide_eq_true_eq] at hlo
    obtain ⟨⟨hle, -⟩, hrest⟩ := hlo
    obtain heq | htail := List.mem_cons.1 hmem
    · obtain ⟨rfl, rfl⟩ := Prod.mk.inj heq
      exact ⟨hle, if_pos rfl⟩
    · obtain ⟨hlt, hget⟩ := ih htail _ hrest
      exact ⟨by omega, (if_neg (by omega)).trans hget⟩

section Advance
variable {s t : State} {h k n : Nat}

theorem Neat.advance_eq (hn : Neat t h) :
    t.advance h k n = t.setHearth h (((t.hearth h).issued k).setStoker k (past (t.stoker h k) n)) := by
  unfold State.advance State.updStoker State.setStoker State.stoker
  rw [State.updHearth_hearth hn.hearths, Hearth.issued_stoker _ _ _ hn.stokers, State.updHearth,
    State.setHearth_setHearth _ _ _ _ hn.hearths]
  simp only [past, if_true]

/-- A Stoker moves on after its Hearth, and it itself, were changed. -/
theorem ran_setHearth_advance (hc : Canon s) {x : Hearth} (hx : mwf {} x.stokers = true)
    (hothers : ∀ j, j ≠ k → x.stoker j = s.stoker h j) :
    Ran s h k s x (past (x.stoker k) n) false ((s.setHearth h x).advance h k n) := by
  have hself := State.setHearth_hearth s h x hc.hearths
  have hneat := (Safety.Canon.neat hc h).setHearth x hx
  have heq : (s.setHearth h x).advance h k n = s.setHearth h ((x.issued k).setStoker k (past (x.stoker k) n)) := by
    rw [hneat.advance_eq, State.setHearth_setHearth _ _ _ _ hc.hearths, State.stoker, hself]
  have hafter := State.setHearth_hearth s h ((x.issued k).setStoker k (past (x.stoker k) n)) hc.hearths
  rw [heq]
  refine ⟨rfl, rfl, fun j hj => State.setHearth_hearth_ne _ _ _ _ hj, ?_, fun j hj => ?_, ?_⟩
  · rw [hafter]
    rfl
  · rw [State.stoker, hafter, Hearth.setStoker_stoker_ne _ _ _ _ hj, Hearth.issued_stoker _ _ _ hx, if_neg hj, hothers j hj]
  · rw [State.stoker, hafter, Hearth.setStoker_stoker _ _ _ (Hearth.issued_canon _ _ hx)]

end Advance

/-! ### Maps changed at several keys -/

/-- A range of keys from `a` on set to one value. -/
theorem mget_foldl_range {α : Type} [DecidableEq α] {d : α} {m : Sparse α} (hm : mwf d m = true) (a n : Nat) (v : α) (i : Nat) :
    mget d ((List.range n).foldl (fun q j => mset d q (a + j) v) m) i = if a ≤ i ∧ i < a + n then v else mget d m i := by
  have hwf (n : Nat) : mwf d ((List.range n).foldl (fun q j => mset d q (a + j) v) m) = true :=
    List.foldlRecOn (motive := fun q => mwf d q = true) _ _ hm fun q hq j _ => mwf_mset _ _ _ _ hq
  induction n with
  | zero => exact (if_neg (by omega)).symm
  | succ n ih =>
    rw [List.range_succ, List.foldl_append, List.foldl_cons, List.foldl_nil]
    by_cases hi : i = a + n
    · rw [hi, mget_mset_same _ _ _ _ (hwf n), if_pos (by omega)]
    · rw [mget_mset_ne _ _ _ _ _ hi, ih]
      exact if_congr (by omega) rfl rfl

end Sys2Proof.Machine

namespace Sys2Proof.Machine

open Sys2Proof.Safety

/-! # Claims of Grate positions, GRT.ZERO, GRT.LOADB and SPR.DROPRD (O37) -/

/-! ### Free positions (R379, R380) -/

section Positions
variable {x y : Hearth}

theorem Hearth.unclaimed_iff (hx : mwf {} x.stokers = true) (p : Nat) :
    (x.stokers.all fun y => !y.2.claim.contains p) = true ↔ ∀ j, p ∉ (x.stoker j).claim := by
  refine ⟨fun hall j => ?_, fun hnone => List.all_eq_true.2 ?_⟩
  · have hj : (!(x.stoker j).claim.contains p) = true := Laws.mget_all (fun y : Stoker => !y.claim.contains p) {} x.stokers rfl hall j
    simpa using hj
  · rintro ⟨j, v⟩ hmem
    have hv : x.stoker j = v := mget_of_mem hx hmem
    simpa [hv] using hnone j

/-- The free positions depend on the claims alone. -/
theorem Hearth.freePositions_congr (hx : mwf {} x.stokers = true) (hy : mwf {} y.stokers = true)
    (hclaim : ∀ j, (x.stoker j).claim = (y.stoker j).claim) : x.freePositions = y.freePositions :=
  List.filter_congr fun p _ => Bool.eq_iff_iff.2 (by
    rw [Hearth.unclaimed_iff hx, Hearth.unclaimed_iff hy]
    simp only [hclaim])

/-- The slots and latches of some positions are emptied. -/
def Hearth.vacate (x : Hearth) (ps : List Nat) : Hearth :=
  { x with
    slots := mmap {} (fun i v => if ps.contains (i / 8) then {} else v) x.slots
    planned := mmap .zero (fun i v => if ps.contains (i / 8) then .zero else v) x.planned
    latches := mmap none (fun i v => if ps.contains i then none else v) x.latches
    latchBy := mmap (0, 0) (fun i v => if ps.contains i then (0, 0) else v) x.latchBy
    latchPlan := mmap none (fun i v => if ps.contains i then none else v) x.latchPlan }

/-- A Stoker with its claim of positions. -/
def Stoker.claiming (ps : List Nat) (y : Stoker) : Stoker := { y with claim := ps }

theorem Hearth.claimPositions_eq (x : Hearth) (k n : Nat) : x.claimPositions k n =
    (x.setStoker k ((x.stoker k).claiming (x.freePositions.take n))).vacate (x.freePositions.take n) := rfl

theorem Hearth.vacate_slot (hx : mwf {} x.slots = true) (ps : List Nat) (i : Nat) :
    mget {} (x.vacate ps).slots i = if i / 8 ∈ ps then {} else mget {} x.slots i := by
  refine (mget_mmap _ _ _ _ hx (ite_self _)).trans (if_congr ?_ rfl rfl)
  exact List.contains_iff_mem

end Positions

section Claims
variable {s : State} {h k w e n : Nat}

theorem freePositions_advance (hc : Canon s) : ((s.advance h k n).hearth h).freePositions = (s.hearth h).freePositions := by
  have hran := ran_advance (n := n) (h := h) (k := k) hc
  refine Hearth.freePositions_congr ((Safety.Canon.neat hc h).advance k n).stokers (hc.hearth h).stokers fun j => ?_
  by_cases hj : j = k
  · subst hj
    exact (congrArg Stoker.claim hran.self).trans rfl
  · exact (congrArg Stoker.claim (hran.others j hj)).trans rfl

/-- A claim granted at once: the Stoker has it, and its positions are empty. -/
theorem ran_claimPositions (hc : Canon s) (m : Nat) :
    Ran s h k s ((s.hearth h).vacate ((s.hearth h).freePositions.take m))
      { past (s.stoker h k) n with claim := (s.hearth h).freePositions.take m } false
      ((s.advance h k n).updHearth h fun z => z.claimPositions k m) := by
  have hneat := (Safety.Canon.neat hc h).advance k n
  have heq : ((s.advance h k n).updHearth h fun z => z.claimPositions k m) =
      ((s.advance h k n).updStoker h k (Stoker.claiming ((s.hearth h).freePositions.take m))).updHearth h fun z =>
        z.vacate ((s.hearth h).freePositions.take m) := by
    rw [State.updHearth, Hearth.claimPositions_eq, freePositions_advance hc, State.updHearth,
      State.updStoker_hearth _ _ _ _ hneat, State.updStoker, State.setStoker, State.setHearth_setHearth _ _ _ _ hneat.hearths]
    rfl
  rw [heq]
  exact Safety.Ran.updHearth (Safety.Ran.upd (ran_advance hc) hneat (Stoker.claiming _)) (hneat.updStoker k _)
    (fun z => z.vacate _) fun _ _ => rfl

end Claims

/-! ### GRT.ZERO.C (R379 to R382) -/

section ZeroC
variable {s : State} {h k w e n : Nat}

/-- What a GRT.ZERO.C of `n` positions comes to. -/
def State.zeroCIssued (s : State) (h k n : Nat) : Issued :=
  let x := s.hearth h
  let y := s.stoker h k
  let t := s.advance h k 1
  if n = 0 then
    if x.grateBusy k then .next (t.updStoker h k fun z => { z with releasing := !z.claim.isEmpty })
    else .next (t.updStoker h k fun z => { z with claim := [] })
  else if y.releasing || x.claims.any fun c => decide (c.stoker = k) && !c.ember then .hold
  else if !y.claim.isEmpty then .fault fFirebox
  else if n ≤ x.freePositions.length && !x.claims.any fun c => !c.ember then
    .next (t.updHearth h fun z => z.claimPositions k n)
  else .queue (s.setHearth h { x with
    claims := x.claims ++ [{ stoker := k, ember := false, n := n, ashBase := 0, ashCap := 0, pc := y.pc }] })

theorem State.zeroC_of_issues (hi : Issues s h k w e []) (hd : NoDst w) (hf : Fields w 0x10 3 0 0 1 n) (hn : n ≤ 16) :
    s.zeroC h k = (s.zeroCIssued h k n).settle s h k := by
  obtain ⟨hcls, hop, ha, hb, hsub, rfl⟩ := hf
  exact State.issue_of_noDst 1 hi hd hcls hop (by rw [hsub]; rfl) (by simp [ha, hb, hsub, hn]) rfl rfl

/-- With no claim of its own and none in the line, a claim is granted at once, or joins the line. -/
theorem State.zeroCIssued_of_claim (hn : n ≠ 0) (hrel : (s.stoker h k).releasing = false) (hnone : (s.stoker h k).claim = [])
    (hline : ∀ c ∈ (s.hearth h).claims, c.ember = true ∨ c.stoker ≠ k) : s.zeroCIssued h k n =
      if n ≤ (s.hearth h).freePositions.length ∧ ∀ c ∈ (s.hearth h).claims, c.ember = true then
        .next ((s.advance h k 1).updHearth h fun z => z.claimPositions k n)
      else .queue (s.setHearth h { s.hearth h with
        claims := (s.hearth h).claims ++
          [{ stoker := k, ember := false, n := n, ashBase := 0, ashCap := 0, pc := (s.stoker h k).pc }] }) := by
  have hown : ((s.hearth h).claims.any fun c => decide (c.stoker = k) && !c.ember) = false := by
    simp only [List.any_eq_false, Bool.and_eq_true, decide_eq_true_eq, Bool.not_eq_true', not_and, Bool.not_eq_false]
    exact fun c hc hk => (hline c hc).resolve_right (absurd hk)
  refine (if_neg hn).trans ((if_neg (by simp [hrel, hown])).trans ((if_neg (by simp [hnone])).trans ?_))
  exact if_congr (by simp) rfl rfl

end ZeroC

/-! ### The grant of a claim in the line (R381) -/

section Grant
variable {s : State} {h : Nat} {c : ClaimWait}

/-- The Hearth once a claim has left its line. -/
def Hearth.dropClaim (x : Hearth) (c : ClaimWait) : Hearth := { x with claims := x.claims.filter fun d => decide (d ≠ c) }

/-- The Stoker of a granted claim moves on, and its instruction retires. -/
def State.grantDone (s : State) (h : Nat) (x : Hearth) (c : ClaimWait) : State :=
  ((s.setHearth h (x.dropClaim c)).advance h c.stoker 1).retired (x.stoker c.stoker).wo

/-- What the grant of a claim comes to, when it changed the Hearth to `x` and of its Stoker not the work order. -/
theorem ran_grantDone (hc : Canon s) {x : Hearth} (hx : mwf {} x.stokers = true)
    (hothers : ∀ j, j ≠ c.stoker → x.stoker j = s.stoker h j) (hwo : (x.stoker c.stoker).wo = (s.stoker h c.stoker).wo) :
    Ran s h c.stoker s (x.dropClaim c) (past (x.stoker c.stoker) 1) true (s.grantDone h x c) := by
  rw [State.grantDone, hwo]
  exact Safety.Ran.retire (ran_setHearth_advance (x := x.dropClaim c) hc hx hothers)

theorem State.grant_eq_grantDone (hc : Canon s) (f : Hearth → Hearth) :
    (((s.updHearth h f).updHearth h fun z => z.dropClaim c).advance h c.stoker 1).retired
      ((s.updHearth h f).stoker h c.stoker).wo = s.grantDone h (f (s.hearth h)) c := by
  rw [State.updHearth_updHearth hc.hearths, State.stoker, State.updHearth_hearth hc.hearths]
  rfl

/-- What the grant of positions comes to. -/
theorem ran_grantPositions (hc : Canon s) (c : ClaimWait) :
    Ran s h c.stoker s (((s.hearth h).claimPositions c.stoker c.n).dropClaim c)
      { past (s.stoker h c.stoker) 1 with claim := (s.hearth h).freePositions.take c.n } true
      (s.grantDone h ((s.hearth h).claimPositions c.stoker c.n) c) := by
  have hst := (hc.hearth h).stokers
  have hself : ((s.hearth h).claimPositions c.stoker c.n).stoker c.stoker =
      (s.stoker h c.stoker).claiming ((s.hearth h).freePositions.take c.n) := Hearth.setStoker_stoker (s.hearth h) _ _ hst
  have hran := ran_grantDone (h := h) (c := c) hc (x := (s.hearth h).claimPositions c.stoker c.n) (mwf_mset _ _ _ _ hst)
    (fun j hj => Hearth.setStoker_stoker_ne (s.hearth h) _ _ _ hj) (by rw [hself]; rfl)
  rw [hself] at hran
  exact hran

/-- With position claims alone in the line, the first is granted when enough positions are free. -/
theorem State.claimGrant_of_position (hc : Canon s) (hfirst : (s.hearth h).claims.find? (fun c => !c.ember) = some c)
    (hall : ∀ d ∈ (s.hearth h).claims, d.ember = false) (hroom : c.n ≤ (s.hearth h).freePositions.length)
    (g : State → ClaimWait → Option State) :
    s.claimGrant h g = s.grantDone h ((s.hearth h).claimPositions c.stoker c.n) c := by
  have hdone := State.grant_eq_grantDone (h := h) (c := c) hc fun z => z.claimPositions c.stoker c.n
  have hclaims : ((s.grantDone h ((s.hearth h).claimPositions c.stoker c.n) c).hearth h).claims =
      (s.hearth h).claims.filter fun d => decide (d ≠ c) := by
    rw [(ran_grantPositions hc c).hearth]
    rfl
  have hrest : ((s.hearth h).claims.filter fun d => decide (d ≠ c)).find? (fun d => d.ember) = none :=
    List.find?_eq_none.2 fun d hd => by simp [hall d (List.mem_filter.1 hd).1]
  unfold State.claimGrant
  dsimp only
  rw [hfirst]
  dsimp only
  simp only [Hearth.dropClaim] at hdone
  rw [if_pos hroom, hdone, hclaims, hrest]

end Grant

/-! ### CLAIM_RELEASE (R382, R420) -/

section Release
variable {s : State} {h k : Nat}

/-- A Stoker whose claims of positions (`a`) and of Ember blocks (`b`) are released. -/
def Stoker.releaseClaims (x : Stoker) (a b : Bool) : Stoker :=
  { x with
    claim := if a then [] else x.claim, releasing := if a then false else x.releasing
    ember := if b then none else x.ember, emberReleasing := if b then false else x.emberReleasing }

/-- Only the Stoker changes, to `y`. -/
structure OnlyStoker (s : State) (h k : Nat) (y : Stoker) (t : State) : Prop where
  neat : Neat t h
  device : t = { s with hearths := t.hearths }
  hearth : t.hearth h = { s.hearth h with stokers := (t.hearth h).stokers }
  elsewhere : ∀ j, j ≠ h → t.hearth j = s.hearth j
  others : ∀ j, j ≠ k → t.stoker h j = s.stoker h j
  self : t.stoker h k = y

theorem OnlyStoker.refl (hn : Neat s h) : OnlyStoker s h k (s.stoker h k) s :=
  ⟨hn, rfl, rfl, fun _ _ => rfl, fun _ _ => rfl, rfl⟩

theorem OnlyStoker.updStoker {t : State} {y : Stoker} (ht : OnlyStoker s h k y t) (f : Stoker → Stoker) :
    OnlyStoker s h k (f y) (t.updStoker h k f) where
  neat := ht.neat.updStoker k f
  device := by
    conv_lhs => unfold State.updStoker State.setStoker State.setHearth; rw [ht.device]
    rfl
  hearth := by
    rw [State.updStoker_hearth _ _ _ _ ht.neat, ht.hearth]
    rfl
  elsewhere j hj := (State.updStoker_hearth_ne _ _ _ _ _ hj).trans (ht.elsewhere j hj)
  others j hj := (State.updStoker_stoker_ne _ _ _ _ _ ht.neat hj).trans (ht.others j hj)
  self := by rw [State.updStoker_stoker _ _ _ _ ht.neat, ht.self]

/-- An access of the Stoker on its Ember space has not finished. -/
def State.emberBusy (s : State) (h k : Nat) : Bool :=
  s.accs.any fun a => a.by h k && (match a.kind with | .ember _ _ _ | .emberInit | .fluWrite => true | _ => false)

theorem State.claimRelease_onlyStoker (hn : Neat s h) {a b : Bool}
    (ha : (((s.stoker h k).releasing || (s.stoker h k).ends) && !(s.hearth h).grateBusy k) = a)
    (hb : (((s.stoker h k).emberReleasing || (s.stoker h k).ends) && !s.emberBusy h k) = b) :
    OnlyStoker s h k ((s.stoker h k).releaseClaims a b) (s.claimRelease h k) := by
  have hself := OnlyStoker.refl (k := k) hn
  have hstep : s.claimRelease h k =
      if b then State.updStoker (if a then s.updStoker h k fun z => { z with claim := [], releasing := false } else s) h k
        fun z => { z with ember := none, emberReleasing := false }
      else if a then s.updStoker h k fun z => { z with claim := [], releasing := false } else s := by
    subst ha hb
    rfl
  rw [hstep]
  cases a <;> cases b
  · exact hself
  · exact hself.updStoker fun z => { z with ember := none, emberReleasing := false }
  · exact hself.updStoker fun z => { z with claim := [], releasing := false }
  · exact (hself.updStoker fun z => { z with claim := [], releasing := false }).updStoker
      fun z => { z with ember := none, emberReleasing := false }

end Release

/-! ### GRT.ZERO, GRT.LOADB and SPR.DROPRD (R384, R393, R425) -/

theorem Stoker.position_of_claim {x : Stoker} {j p : Nat} (hrel : x.releasing = false) (hp : x.claim[j]? = some p) :
    x.position j = some p := by
  rw [Stoker.position, hrel]
  exact hp

section Slots
variable {s : State} {h k w e p : Nat}

/-- Slots `f` to `f + n - 1` of a position are ZERO, and planned to be. -/
def Hearth.zeroed (x : Hearth) (p f n : Nat) : Hearth := (x.zeroSlots p f (f + n)).planSlots p f (f + n) .zero

theorem Hearth.zeroSlots_slot {x : Hearth} (hx : mwf {} x.slots = true) (p f n i : Nat) :
    mget {} (x.zeroSlots p f (f + n)).slots i = if 8 * p + f ≤ i ∧ i < 8 * p + f + n then {} else mget {} x.slots i := by
  rw [Hearth.zeroSlots, Nat.add_sub_cancel_left]
  exact mget_foldl_range hx _ _ _ _

theorem Hearth.planSlots_planned {x : Hearth} (hx : mwf .zero x.planned = true) (p f n : Nat) (kind : SlotKind) (i : Nat) :
    mget .zero (x.planSlots p f (f + n) kind).planned i =
      if 8 * p + f ≤ i ∧ i < 8 * p + f + n then kind else mget .zero x.planned i := by
  rw [Hearth.planSlots, Nat.add_sub_cancel_left]
  exact mget_foldl_range hx _ _ _ _

theorem State.grtZero_of_issues (hi : Issues s h k w e []) (hd : NoDst w) (hf : Fields w 0x10 3 0 0 0 (zImm w))
    (himm : zImm w < 1024) (hrel : (s.stoker h k).releasing = false) (hp : (s.stoker h k).claim[gJ w]? = some p)
    (hfit : gF w + (bits (zImm w) 7 3 + 1) ≤ 8)
    (hidle : (s.hearth h).slotsBusy k p (gF w) (gF w + (bits (zImm w) 7 3 + 1)) (s.stoker h k).seq 0 = false) :
    s.grtZero h k = (Issued.next ((s.advance h k 1).updHearth h fun z => z.zeroed p (gF w) (bits (zImm w) 7 3 + 1))).settle s h k := by
  obtain ⟨hcls, hop, ha, hb, hsub, -⟩ := hf
  refine (State.issue_of_noDst 1 hi hd hcls hop (by rw [hsub]; rfl) (by simp [ha, hb, hsub, himm]) rfl rfl).trans ?_
  refine congrArg (fun r : Issued => r.settle s h k) ?_
  have hpos : ((s.hearth h).stoker k).position (gJ w) = some p := Stoker.position_of_claim hrel hp
  dsimp only
  rw [hpos]
  exact (if_neg (by omega)).trans (if_neg (ne_true_of_eq_false hidle))

theorem State.withGrate_of_bound {d : Nat} {q : Stream} (hq : (s.stoker h k).stream? d = some q) (hmode : q.mode = .grate)
    (f : Stream → Issued) : s.withGrate h k d f = f q := (State.withStream_of_bound hq _).trans (if_pos hmode)

/-- A GRT.LOADB that waits for its tile. -/
def State.loadbOf (s : State) (h k w p : Nat) (b : Stream) : LoadB :=
  { stoker := k, seq := (s.stoker h k).seq, pos := p, hb := gHB w, bPos := b.claimed, bEpoch := b.lastEpoch
    count := (tileOf b.desc).elems }

/-- A Hearth with one more GRT.LOADB. -/
def Hearth.addLoadb (x : Hearth) (l : LoadB) (b : Tile) : Hearth :=
  { x with loadBs := x.loadBs ++ [l], latchPlan := mset none x.latchPlan l.pos (some b) }

theorem State.grtLoadb_of_issues {b : Stream} (hi : Issues s h k w e []) (hd : NoDst w)
    (hf : Fields w 0x10 1 0 0 (zSub w) (zImm w)) (hsub : zSub w = 0 ∨ zSub w = 8) (hslot : gF w = 0) (hha : gHA w = 0)
    (hrows : gRows w = 1) (hrel : (s.stoker h k).releasing = false) (hp : (s.stoker h k).claim[gJ w]? = some p)
    (hb : (s.stoker h k).stream? (gHB w) = some b) (hmode : b.mode = .grate)
    (hlatch : b.desc.latchable (decide (zSub w = 8)) = true) (hfit : b.claimed + (tileOf b.desc).elems ≤ b.total) :
    s.grtLoadb h k = (Issued.next (((s.advance h k 1).setStream h k (gHB w)
      (some { b with claimed := b.claimed + (tileOf b.desc).elems })).updHearth h fun z =>
        z.addLoadb (s.loadbOf h k w p b) (tileOf b.desc))).settle s h k := by
  obtain ⟨hcls, hop, ha, hb0, -, -⟩ := hf
  have hbits : zSub w &&& 0x77 = 0 ∧ gSP w = decide (zSub w = 8) := by
    unfold gSP
    obtain h0 | h8 := hsub
    · rw [h0]; decide
    · rw [h8]; decide
  refine (State.issue_of_noDst 1 hi hd hcls hop rfl (by simp [ha, hb0, hbits.1, hslot, hha, hrows]) rfl rfl).trans ?_
  refine congrArg (fun r : Issued => r.settle s h k) ?_
  dsimp only
  rw [Stoker.position_of_claim hrel hp]
  refine (State.withGrate_of_bound hb hmode _).trans ?_
  exact (if_neg (by simp [hbits.2, hlatch])).trans (if_neg (by omega))

theorem State.sprDroprd_of_issues (hi : Issues s h k w e [zDstReg w]) (hd : ToReg w) (hf : Fields w 0x12 3 0 0 0 0)
    (hdense : ∀ c ∈ (s.hearth h).chains, c.sparse = .dense ∨ ∀ g ∈ c.groups, g.stoker ≠ k) :
    s.sprDroprd h k = (Issued.next ((s.advance h k 1).updStoker h k fun x =>
      x.write (zDstReg w) (BitVec.ofNat 64 (s.stoker h k).dropped))).settle s h k := by
  obtain ⟨hcls, hop, ha, hb, hsub, himm⟩ := hf
  refine (State.issue_of_toReg 1 hi hd (fun _ => id) hcls hop rfl (by simp [ha, hb, hsub, himm]) rfl rfl).trans ?_
  have hnone : ((s.hearth h).chains.any fun c =>
      decide (c.sparse ≠ .dense) && c.groups.any fun g => decide (g.stoker = k)) = false := by
    simp only [List.any_eq_false, Bool.and_eq_true, decide_eq_true_eq, List.any_eq_true, not_and, not_exists]
    exact fun c hc hsparse g hg => (hdense c hc).resolve_left hsparse g hg
  exact congrArg (fun r : Issued => r.settle s h k) (if_neg (ne_true_of_eq_false hnone))

end Slots

/-- Settles O37: each instruction by what its issue comes to; a grant by its Stoker moving on with the claim. -/
theorem gratePositions : Obligations.GratePositions := by
  unfold Obligations.GratePositions
  rintro s h k w e x z hc rfl rfl
  have hcanon := hc.hearth h
  have hneat := (Safety.Canon.neat hc h).advance k 1
  have hran := ran_advance (n := 1) (h := h) (k := k) hc
  refine ⟨?claim, ?grant, ?release, ?zero, ?loadb, ?droprd⟩
  case claim =>
    intro n hi hd hf hn
    have hx : exec (.grtZeroC h k) s = .next (s.zeroC h k) := rfl
    rw [State.zeroC_of_issues hi hd hf hn] at hx
    refine ⟨fun h0 hidle => ?_, fun h0 hbusy => ?_, fun h0 hrel hnone hline hroom => ?_, fun h0 hrel hnone hline hwait => ?_⟩
    · rw [State.zeroCIssued, if_pos h0, if_neg (by simp [hidle])] at hx
      exact does_of_next hx (Safety.Ran.upd hran hneat (Stoker.claiming []))
    · rw [State.zeroCIssued, if_pos h0, if_pos hbusy] at hx
      exact does_of_next hx (Safety.Ran.upd hran hneat fun z => { z with releasing := !z.claim.isEmpty })
    · rw [State.zeroCIssued_of_claim h0 hrel hnone fun c hc => .inl (hline c hc), if_pos ⟨hroom, hline⟩] at hx
      exact ⟨_, does_of_next hx (ran_claimPositions hc n), rfl, Hearth.vacate_slot hcanon.slots _⟩
    · have hno : ¬ (n ≤ (s.hearth h).freePositions.length ∧ ∀ c ∈ (s.hearth h).claims, c.ember = true) := by
        rintro ⟨hroom, hember⟩
        obtain hfew | ⟨c, hc, hpos⟩ := hwait
        · omega
        · simp [hember c hc] at hpos
      rwa [State.zeroCIssued_of_claim h0 hrel hnone hline, if_neg hno] at hx
  case grant =>
    intro c hfirst hall hroom
    exact ⟨_, ⟨_, congrArg Host.Outcome.next (State.claimGrant_of_position hc hfirst hall hroom _), ran_grantPositions hc c⟩, rfl⟩
  case release =>
    intro a b ha hb
    have hends : (s.stoker h k).ends = (decide ((s.stoker h k).st = .halted) || decide ((s.stoker h k).st = .stopping)) := rfl
    have hrelease := State.claimRelease_onlyStoker (k := k) (Safety.Canon.neat hc h) (a := a) (b := b)
      (by rw [ha, hends, Bool.or_assoc]) (by rw [hb, hends, Bool.or_assoc]; rfl)
    exact ⟨_, rfl, hrelease.device, hrelease.hearth, hrelease.elsewhere, hrelease.others, hrelease.self⟩
  case zero =>
    rintro f n p hi hd hf himm hrel hp rfl rfl hfit hidle
    have hx : exec (.grtZero h k) s = .next (s.grtZero h k) := rfl
    rw [State.grtZero_of_issues hi hd hf himm hrel hp hfit hidle] at hx
    refine ⟨_, _, does_of_next hx (Safety.Ran.updHearth hran hneat (fun z => z.zeroed p (gF w) _) fun _ _ => rfl),
      fun i => ⟨?_, ?_⟩⟩
    · exact Hearth.zeroSlots_slot hcanon.slots ..
    · exact Hearth.planSlots_planned hcanon.planned ..
  case loadb =>
    rintro p b t hi hd hf hsub hslot hha hrows hrel hp hb hmode hlatch rfl hfit
    have hx := State.grtLoadb_of_issues hi hd hf hsub hslot hha hrows hrel hp hb hmode hlatch hfit
    have hstream := Safety.Ran.upd hran hneat fun z => z.setStream (gHB w) (some { b with claimed := b.claimed + (tileOf b.desc).elems })
    exact ⟨_, congrArg (fun t => Host.Outcome.next (State.settleLatches t h)) hx, Safety.Ran.retire (Safety.Ran.updHearth hstream
      (hneat.updStoker k _) (fun z => z.addLoadb (s.loadbOf h k w p b) (tileOf b.desc)) fun _ _ => rfl)⟩
  case droprd =>
    intro hi hd hf hdense
    exact does_write hc (f := fun x => x.write (zDstReg w) (BitVec.ofNat 64 (s.stoker h k).dropped))
      (congrArg Host.Outcome.next (State.sprDroprd_of_issues hi hd hf hdense))

end Sys2Proof.Machine

namespace Sys2Proof.Machine

open Sys2Proof.Safety

/-! # SPR.EMB, SPR.MERGE and claims of Ember blocks (O40) -/

/-! ### Accesses that start at an address -/

/-- The first of some runs starts at an address. -/
def StartsAt (va : Nat) (todo : List Run) : Prop := ∃ q rest, todo = q :: rest ∧ q.va = va

theorem byteRuns_startsAt (va : Nat) {n : Nat} (hn : n ≠ 0) : StartsAt va (byteRuns va n) := by
  obtain ⟨len, rest, hruns⟩ := byteRuns_eq_cons va hn
  exact ⟨_, rest, hruns, rfl⟩

theorem writeRuns_startsAt (va : Nat) {d : List (Byte × Byte)} (hd : d ≠ []) : StartsAt va (writeRuns va d) := by
  obtain ⟨len, rest, hruns⟩ := byteRuns_eq_cons va (mt List.length_eq_zero_iff.1 hd)
  rw [writeRuns, hruns]
  exact ⟨_, _, List.map_cons, rfl⟩

section Ran
variable {s t u : State} {h k : Nat} {z : Hearth} {y : Stoker} {d : Bool}

/-- The instruction makes an access to runs that start at an address. -/
theorem ran_newAcc_of_startsAt {va : Nat} {todo : List Run} (htodo : StartsAt va todo) (r : Ran s h k s z y d t)
    (hgal : y.gal = (s.stoker h k).gal) (hwo : y.wo = (s.stoker h k).wo) (a : Agent) (kind : AccKind) :
    Ran s h k (withAccess s h k a kind va todo) z y d (t.newAcc h k (s.stoker h k).pc (s.stoker h k).seq a kind todo) := by
  obtain ⟨q, rest, rfl, rfl⟩ := htodo
  exact ran_newAcc r hgal hwo a kind q rest

/-- What the Stokers of the Hearth are is said of each of them alone. -/
theorem Safety.Ran.congr_hearth {x : Hearth} (r : Ran s h k u x y d t) (hx : x = { z with stokers := x.stokers }) :
    Ran s h k u z y d t :=
  { r with hearth := by rw [r.hearth, hx] }

end Ran

/-! ### SPR.EMB and SPR.MERGE (R421, R422, R426) -/

section Spr
variable {s : State} {h k w e va m : Nat} (hva : va = ((s.stoker h k).sreg (zA w)).toNat) (hm : m = ((s.stoker h k).sreg (zB w)).toNat)
  (hown : (s.stoker h k).ember ≠ none) (hrel : (s.stoker h k).emberReleasing = false)
include hva hm hown hrel

omit hva hm in
/-- The Stoker has an Ember space to work on. -/
theorem not_without_ember : ¬ ((s.stoker h k).ember.isNone || (s.stoker h k).emberReleasing) = true := by
  simpa [hrel] using hown

section Emb
variable (hi : Issues s h k w e [sDst (zA w), sDst (zB w), zDstReg w]) (hd : ToReg w) (hf : Fields w 0x12 1 (zA w) (zB w) 0 0)
include hi hd hf

omit hva in
theorem State.sprEmb_of_none (h0 : m = 0) : s.sprEmb h k =
    (Issued.next ((s.advance h k 1).updStoker h k fun x => x.write (zDstReg w) 0)).settle s h k := by
  obtain ⟨hcls, hop, -, -, hsub, himm⟩ := hf
  refine (State.issue_of_toReg 1 hi hd (by simp) hcls hop (by rw [hsub]; rfl) (by simp [hsub, himm]) rfl rfl).trans ?_
  exact congrArg (fun r : Issued => r.settle s h k) ((if_neg (not_without_ember hown hrel)).trans (if_pos (hm.symm.trans h0)))

theorem State.sprEmb_of_some (h0 : m ≠ 0) (halign : va % 8 = 0)
    (hrange : s.hobRange (s.stoker h k).gal va (8 * m) = none) : s.sprEmb h k =
    (Issued.next ((s.awaiting h k w).newAcc h k (s.stoker h k).pc (s.stoker h k).seq .memLoad
      (.ember (some (zDstReg w)) va m) (byteRuns va (8 * m)))).settle s h k := by
  obtain ⟨hcls, hop, -, -, hsub, himm⟩ := hf
  refine (State.issue_of_toReg 1 hi hd (by simp) hcls hop (by rw [hsub]; rfl) (by simp [hsub, himm]) rfl rfl).trans ?_
  refine congrArg (fun r : Issued => r.settle s h k) ((if_neg (not_without_ember hown hrel)).trans ((if_neg (hm ▸ h0)).trans ?_))
  rw [← hva, ← hm, hrange]
  exact if_neg (by simp [halign])

end Emb

theorem State.sprMerge_of_issues (hi : Issues s h k w e [sDst (zA w), sDst (zB w)]) (hd : NoDst w)
    (hf : Fields w 0x12 2 (zA w) (zB w) 0 0) (halign : va % 8 = 0) : s.sprMerge h k =
    (if m = 0 then Issued.next (s.advance h k 1)
      else .next ((s.advance h k 1).newAcc h k (s.stoker h k).pc (s.stoker h k).seq .streamRead (.ember none va m)
        (byteRuns va (8 * m)))).settle s h k := by
  obtain ⟨hcls, hop, -, -, hsub, himm⟩ := hf
  subst hva hm
  refine (State.issue_of_noDst 1 hi hd hcls hop rfl (by simp [hsub, himm]) rfl rfl).trans ?_
  exact congrArg (fun r : Issued => r.settle s h k) ((if_neg (not_without_ember hown hrel)).trans (if_neg (by simp [halign])))

end Spr

/-! ### SPR.EMB.C, and the grant of Ember blocks (R420, R588) -/

section EmbC
variable {s t : State} {h k w e n va m : Nat}

/-- The writes that empty an Ash region of `m` slots. -/
def ashInit (va m : Nat) : List Run :=
  writeRuns va (fullMask ((List.range m).flatMap fun _ => natLe 4 0xFFFFFFFF ++ natLe 4 0))

theorem ashInit_startsAt (va : Nat) (hm : m ≠ 0) : StartsAt va (ashInit va m) := by
  refine writeRuns_startsAt va ?_
  obtain ⟨m, rfl⟩ := Nat.exists_eq_succ_of_ne_zero hm
  rw [List.range_succ_eq_map, List.flatMap_cons]
  exact List.cons_ne_nil _ _

/-- A Stoker with an Ember space, whose table is empty. -/
def Stoker.withEmber (n va m pc : Nat) (y : Stoker) : Stoker :=
  { y with ember := some { blocks := n, ashBase := va, ashCap := m, pc := pc } }

/-- A claim without an Ash region changes the Stoker alone. -/
theorem State.claimEmber_of_noAsh (t : State) (h k pc seq n va : Nat) :
    t.claimEmber h k pc seq n va 0 = t.updStoker h k (Stoker.withEmber n va 0 pc) := rfl

theorem State.claimEmber_of_ash (hm : m ≠ 0) (t : State) (h k pc seq n va : Nat) : t.claimEmber h k pc seq n va m =
    (t.updStoker h k (Stoker.withEmber n va m pc)).newAcc h k pc seq .ash .emberInit (ashInit va m) := if_neg hm

/-- The device once an Ash region is being emptied, if there is one. -/
def State.ashEmptying (s : State) (h k va m : Nat) : State :=
  if m = 0 then s else withAccess s h k .ash .emberInit va (ashInit va m)

theorem ran_claimEmber (hc : Canon s) (n va m : Nat) : Ran s h k (s.ashEmptying h k va m) (s.hearth h)
    { past (s.stoker h k) 1 with ember := some { blocks := n, ashBase := va, ashCap := m, pc := (s.stoker h k).pc } } false
    ((s.advance h k 1).claimEmber h k (s.stoker h k).pc (s.stoker h k).seq n va m) := by
  have hran := Safety.Ran.upd (ran_advance hc) ((Safety.Canon.neat hc h).advance k 1) (Stoker.withEmber n va m (s.stoker h k).pc)
  by_cases hm : m = 0
  · subst hm
    exact hran
  · rw [State.claimEmber_of_ash hm, State.ashEmptying, if_neg hm]
    exact ran_newAcc_of_startsAt (ashInit_startsAt va hm) hran rfl rfl _ _

/-- What an SPR.EMB.C of `n` blocks with an Ash region of `m` slots comes to. -/
def State.embCIssued (s : State) (h k n va m : Nat) : Issued :=
  let x := s.hearth h
  let y := s.stoker h k
  let t := s.advance h k 1
  if n = 0 then
    if s.emberOut h k y.seq then .next (t.updStoker h k fun z => { z with emberReleasing := z.ember.isSome })
    else .next (t.updStoker h k fun z => { z with ember := none })
  else if y.emberReleasing || x.claims.any fun c => decide (c.stoker = k) && c.ember then .hold
  else if y.ember.isSome then .fault fFirebox
  else if 2 ^ 32 ≤ m then .fault fAshFull
  else if n ≤ x.freeBlocks && !x.claims.any fun c => c.ember then .next (t.claimEmber h k y.pc y.seq n va m)
  else .queue (s.setHearth h { x with
    claims := x.claims ++ [{ stoker := k, ember := true, n := n, ashBase := va, ashCap := m, pc := y.pc }] })

theorem State.sprEmbC_of_issues (hva : va = ((s.stoker h k).sreg (zA w)).toNat) (hm : m = ((s.stoker h k).sreg (zB w)).toNat)
    (hi : Issues s h k w e [sDst (zA w), sDst (zB w)]) (hd : NoDst w) (hf : Fields w 0x12 1 (zA w) (zB w) 1 n) (hn : n ≤ 64) :
    s.sprEmbC h k = (s.embCIssued h k n va m).settle s h k := by
  obtain ⟨hcls, hop, -, -, hsub, rfl⟩ := hf
  subst hva hm
  exact State.issue_of_noDst 1 hi hd hcls hop (by rw [hsub]; rfl) (by simp [hsub, hn]) rfl rfl

/-- With no Ember space of its own and no claim of one in the line, a claim is granted at once, or joins the line. -/
theorem State.embCIssued_of_claim (hn : n ≠ 0) (hrel : (s.stoker h k).emberReleasing = false)
    (hnone : (s.stoker h k).ember = none) (hm : m < 2 ^ 32)
    (hline : ∀ c ∈ (s.hearth h).claims, c.ember = false ∨ c.stoker ≠ k) : s.embCIssued h k n va m =
      if n ≤ (s.hearth h).freeBlocks ∧ ∀ c ∈ (s.hearth h).claims, c.ember = false then
        .next ((s.advance h k 1).claimEmber h k (s.stoker h k).pc (s.stoker h k).seq n va m)
      else .queue (s.setHearth h { s.hearth h with claims := (s.hearth h).claims ++
        [{ stoker := k, ember := true, n := n, ashBase := va, ashCap := m, pc := (s.stoker h k).pc }] }) := by
  have hown : ((s.hearth h).claims.any fun c => decide (c.stoker = k) && c.ember) = false := by
    simp only [List.any_eq_false, Bool.and_eq_true, decide_eq_true_eq, not_and, Bool.not_eq_true]
    exact fun c hc hk => (hline c hc).resolve_right (absurd hk)
  refine (if_neg hn).trans ((if_neg (by simp [hrel, hown])).trans ((if_neg (by simp [hnone])).trans ((if_neg (by omega)).trans ?_)))
  exact if_congr (by simp) rfl rfl

/-- The Hearth with an Ember claim granted. -/
def Hearth.claimBlocks (x : Hearth) (c : ClaimWait) : Hearth :=
  x.setStoker c.stoker ((x.stoker c.stoker).withEmber c.n c.ashBase 0 c.pc)

theorem State.claimGrant_of_ember {c : ClaimWait} (hc : Canon s) (hfirst : (s.hearth h).claims.find? (fun c => c.ember) = some c)
    (hall : ∀ d ∈ (s.hearth h).claims, d.ember = true) (hroom : c.n ≤ (s.hearth h).freeBlocks) (hash : c.ashCap = 0) :
    s.claimGrant h (fun t c => t.grantEmber h c) = s.grantDone h ((s.hearth h).claimBlocks c) c := by
  have hnone : (s.hearth h).claims.find? (fun c => !c.ember) = none := List.find?_eq_none.2 fun d hd => by simp [hall d hd]
  have hgrant : s.grantEmber h c = some (s.updHearth h fun x => x.claimBlocks c) := by
    rw [State.grantEmber, if_pos hroom, hash]
    rfl
  have hdone := State.grant_eq_grantDone (h := h) (c := c) hc fun x => x.claimBlocks c
  simp only [Hearth.dropClaim] at hdone
  unfold State.claimGrant
  dsimp only
  rw [hnone]
  dsimp only
  rw [hfirst]
  dsimp only
  rw [hgrant]
  exact hdone

theorem ran_grantEmber (hc : Canon s) (c : ClaimWait) :
    Ran s h c.stoker s ((s.hearth h).dropClaim c)
      { past (s.stoker h c.stoker) 1 with ember := some { blocks := c.n, ashBase := c.ashBase, ashCap := 0, pc := c.pc } } true
      (s.grantDone h ((s.hearth h).claimBlocks c) c) := by
  have hst := (hc.hearth h).stokers
  have hself : ((s.hearth h).claimBlocks c).stoker c.stoker = (s.stoker h c.stoker).withEmber c.n c.ashBase 0 c.pc :=
    Hearth.setStoker_stoker (s.hearth h) _ _ hst
  have hran := ran_grantDone (h := h) (c := c) hc (x := (s.hearth h).claimBlocks c) (mwf_mset _ _ _ _ hst)
    (fun j hj => Hearth.setStoker_stoker_ne (s.hearth h) _ _ _ hj) (by rw [hself]; rfl)
  rw [hself] at hran
  exact Safety.Ran.congr_hearth hran rfl

end EmbC

/-- Settles O40: each instruction by what its issue comes to; a grant by its Stoker moving on with its Ember space. -/
theorem emberOperations : Obligations.EmberOperations := by
  unfold Obligations.EmberOperations
  rintro s h k w e va m x z hc rfl rfl hva hm
  have hneat := (Safety.Canon.neat hc h).advance k 1
  have hran := ran_advance (n := 1) (h := h) (k := k) hc
  refine ⟨fun hown hrel => ⟨fun hi hd hf => ?emb, fun hi hd hf halign => ?merge⟩, ?grant, fun n hi hd hf hn => ?claim⟩
  case emb =>
    refine ⟨fun h0 => ?_, fun h0 halign hlo hhi hfit => ?_⟩
    · exact does_write hc (f := fun x => x.write (zDstReg w) 0)
        (congrArg Host.Outcome.next (State.sprEmb_of_none hm hown hrel hi hd hf h0))
    · exact does_of_next (congrArg Host.Outcome.next
        (State.sprEmb_of_some hva hm hown hrel hi hd hf h0 halign (State.hobRange_of_within hlo hhi hfit)))
        (ran_newAcc_of_startsAt (byteRuns_startsAt va (by omega)) (ran_awaiting hc) rfl rfl _ _)
  case merge =>
    have hx : exec (.sprMerge h k) s = .next (s.sprMerge h k) := rfl
    rw [State.sprMerge_of_issues hva hm hown hrel hi hd hf halign] at hx
    refine ⟨fun h0 => ?_, fun h0 => ?_⟩
    · rw [if_pos h0] at hx
      exact does_of_next hx hran
    · rw [if_neg h0] at hx
      exact does_of_next hx (ran_newAcc_of_startsAt (byteRuns_startsAt va (by omega)) hran rfl rfl _ _)
  case grant =>
    intro c hfirst hall hroom hash
    exact ⟨_, congrArg Host.Outcome.next (State.claimGrant_of_ember hc hfirst hall hroom hash), ran_grantEmber hc c⟩
  case claim =>
    have hx : exec (.sprEmbC h k) s = .next (s.sprEmbC h k) := rfl
    rw [State.sprEmbC_of_issues hva hm hi hd hf hn] at hx
    refine ⟨fun h0 hidle => ?_, fun h0 hbusy => ?_, fun h0 hrel hnone hcap => ⟨fun hline hroom => ?_, fun hline hwait => ?_⟩⟩
    · rw [State.embCIssued, if_pos h0, if_neg (by simp [hidle])] at hx
      exact does_of_next hx (Safety.Ran.upd hran hneat fun z => { z with ember := none })
    · rw [State.embCIssued, if_pos h0, if_pos hbusy] at hx
      exact does_of_next hx (Safety.Ran.upd hran hneat fun z => { z with emberReleasing := z.ember.isSome })
    · rw [State.embCIssued_of_claim h0 hrel hnone hcap fun c hc => .inl (hline c hc), if_pos ⟨hroom, hline⟩] at hx
      exact ⟨s.ashEmptying h k va m, fun h0 => if_pos h0, fun h0 => if_neg h0, does_of_next hx (ran_claimEmber hc n va m)⟩
    · have hno : ¬ (n ≤ (s.hearth h).freeBlocks ∧ ∀ c ∈ (s.hearth h).claims, c.ember = false) := by
        rintro ⟨hroom, hpos⟩
        obtain hfew | ⟨c, hc, hember⟩ := hwait
        · omega
        · simp [hpos c hc] at hember
      rwa [State.embCIssued_of_claim h0 hrel hnone hcap hline, if_neg hno] at hx

end Sys2Proof.Machine

namespace Sys2Proof.Machine

open Sys2Proof.Safety

/-! # GRT.MM and GRT.MM.X (O38) -/

/-! ### The operands and the plan (R385, R388 to R392) -/

/-- An accepted product: its A operand lies in a layout for A, and it accumulates integers or floating-point values. -/
theorem mmKind_accepts {a : Desc} {b : Tile} {w : Nat} {kind : SlotKind} (hkind : mmKind a b w = some kind) :
    a.layout.isB = false ∧ kind ≠ .zero := by
  cases hpair : pairOf a.fmt b.fmt with
  | none =>
    rw [mmKind, hpair] at hkind
    exact absurd hkind nofun
  | some p =>
    rw [mmKind, hpair] at hkind
    dsimp only at hkind
    rw [Option.ite_none_right_eq_some] at hkind
    obtain ⟨hok, hvalue⟩ := hkind
    simp only [Bool.and_eq_true, decide_eq_true_eq] at hok
    have hlayout : a.layout = if gQ w then .ilA16 else .ilA32 := by tauto
    refine ⟨?_, ?_⟩
    · rw [hlayout]
      split <;> rfl
    · rw [← Option.some.inj hvalue]
      split <;> exact nofun

/-- The plan of a product whose B comes from a stream. -/
def mmPlanOf (y : Stoker) (w : Nat) (m : MmShape) (a b : Stream) (kind : SlotKind) (pos : Nat) : MmPlan :=
  let tile := tileOf b.desc
  let r := mmLengths y w m tile.kt
  { pos := pos, a := a, b := tile, bs := some b, kind := kind, kt := tile.kt, rows := r.1, chunks := r.2.1, clamp := r.2.2 }

/-- The slots that the batches of a product cover. -/
def batchSlots (w : Nat) (m : MmShape) (rows : Nat) : List Nat :=
  (List.range (m.nb + 1)).flatMap fun b => (List.range (cover (gQ w) rows)).map fun i => batchSlot w m b + i

theorem mem_batchSlots {w : Nat} {m : MmShape} {rows n : Nat} :
    n ∈ batchSlots w m rows ↔ ∃ j i, j ≤ m.nb ∧ i < cover (gQ w) rows ∧ gF w + j * m.ss + i = n := by
  simp only [batchSlots, batchSlot, List.mem_flatMap, List.mem_map, List.mem_range, Nat.lt_succ_iff]
  constructor
  · rintro ⟨j, hj, i, hi, rfl⟩
    exact ⟨j, i, hj, hi, rfl⟩
  · rintro ⟨j, i, hj, hi, rfl⟩
    exact ⟨j, hj, i, hi, rfl⟩

/-- Every slot of the batches is planned to be ZERO or of the product's kind, or is made ZERO first (R385). -/
def Hearth.AdmitsKind (x : Hearth) (p : MmPlan) (w : Nat) (m : MmShape) : Prop :=
  ∀ j i, j ≤ m.nb → i < cover (gQ w) p.rows → gZ w = true ∨
    mget .zero x.planned (8 * p.pos + (gF w + j * m.ss + i)) = .zero ∨
    mget .zero x.planned (8 * p.pos + (gF w + j * m.ss + i)) = p.kind

theorem Hearth.kindsAfter_of_admits {x : Hearth} {p : MmPlan} {w : Nat} {m : MmShape} (hchunks : p.chunks ≠ 0)
    (hok : x.AdmitsKind p w m) : x.kindsAfter p w m = some ((batchSlots w m p.rows).map fun i => (i, p.kind)) := by
  have hgood : (!gZ w && decide (p.chunks ≠ 0) && (batchSlots w m p.rows).any fun i =>
      decide (mget .zero x.planned (8 * p.pos + i) ≠ .zero) && decide (mget .zero x.planned (8 * p.pos + i) ≠ p.kind)) = false := by
    rw [Bool.and_eq_false_imp, Bool.and_eq_true, Bool.not_eq_true']
    rintro ⟨hz, -⟩
    rw [List.any_eq_false]
    intro n hn
    obtain ⟨j, i, hj, hi, rfl⟩ := mem_batchSlots.1 hn
    obtain h | h | h := hok j i hj hi
    · simp [h] at hz
    · simp [h]
    · simp [h]
  refine (if_neg (ne_true_of_eq_false hgood)).trans ?_
  simp only [hchunks, ne_eq, not_false_eq_true, if_true]
  rfl

/-- Slots set to one kind are of that kind. -/
theorem mget_foldl_kinds {kind : SlotKind} (a : Nat) (l : List Nat) (q : Sparse SlotKind) (hq : mwf .zero q = true) {i : Nat}
    (hi : mget .zero q (a + i) = kind ∨ i ∈ l) :
    mget .zero ((l.map fun i => (i, kind)).foldl (fun q c => mset .zero q (a + c.1) c.2) q) (a + i) = kind := by
  induction l generalizing q with
  | nil => exact hi.resolve_right List.not_mem_nil
  | cons j l ih =>
    refine ih _ (mwf_mset _ _ _ _ hq) ?_
    by_cases hj : i = j
    · subst hj
      exact .inl (mget_mset_same _ _ _ _ hq)
    · refine hi.imp (fun h => ?_) fun h => (List.mem_cons.1 h).resolve_left hj
      rw [mget_mset_ne _ _ _ _ _ (show a + i ≠ a + j by omega), h]

/-! ### A checked product runs (R395 to R404) -/

/-- A product that passes its checks, with something to do and both streams long enough. -/
structure MmChecked (s : State) (h k w : Nat) (m : MmShape) (a b : Stream) (p : MmPlan) : Prop where
  plan : ∃ kind pos, p = mmPlanOf (s.stoker h k) w m a b kind pos
  fromStream : gSB w = true
  based : gBL w = false
  free : (s.stoker h k).releasing = false
  claim : (s.stoker h k).claim[gJ w]? = some p.pos
  streamA : (s.stoker h k).stream? (gHA w) = some a
  modeA : a.mode = .grate
  streamB : (s.stoker h k).stream? (gHB w) = some b
  modeB : b.mode = .grate
  restarts : b.restarts = []
  layoutB : b.desc.layout.isB = true
  kind : mmKind a.desc p.b w = some p.kind
  rows : p.rows ≠ 0
  chunks : p.chunks ≠ 0
  fits : gF w + m.nb * m.ss + cover (gQ w) (gRows w) ≤ 8
  admits : (s.hearth h).AdmitsKind p w m
  lenA : a.claimed + (m.nb + 1) * p.chunks * aNeed (gQ w) p.rows p.kt ≤ a.total
  lenB : b.claimed + (m.nb + 1) * p.chunks * p.b.elems ≤ b.total
  order : ∀ o, s.wo? (s.stoker h k).wo = some o → o.kindle = false

/-- The elements of A, and of B, that a product claims (R396). -/
def MmPlan.needA (p : MmPlan) (w : Nat) (m : MmShape) : Nat := (m.nb + 1) * p.chunks * aNeed (gQ w) p.rows p.kt
def MmPlan.needB (p : MmPlan) (m : MmShape) : Nat := (m.nb + 1) * p.chunks * p.b.elems

/-- A stream with `n` more elements claimed. -/
def Stream.claiming (x : Stream) (n : Nat) : Stream := { x with claimed := x.claimed + n }

/-- The Hearth with the kinds that a product plans, with the numbers of its chains taken and its last tile planned for the
latch, and with its chains. -/
def Hearth.planKinds (x : Hearth) (p : MmPlan) (w : Nat) (m : MmShape) : Hearth :=
  { x with planned :=
      ((batchSlots w m p.rows).map fun i => (i, p.kind)).foldl (fun q c => mset .zero q (8 * p.pos + c.1) c.2) x.planned }
def Hearth.takeIds (x : Hearth) (p : MmPlan) (m : MmShape) : Hearth :=
  { x with nextId := x.nextId + m.nb + 1, latchPlan := mset none x.latchPlan p.pos (some p.b) }
def Hearth.addChains (x : Hearth) (cs : List Chain) : Hearth := { x with chains := x.chains ++ cs }

/-- The chains of the batches of a product (R404). -/
def mmChains (id : Nat) (p : MmPlan) (w : Nat) (m : MmShape) (y : Stoker) (k : Nat) : List Chain :=
  (List.range (m.nb + 1)).map fun b => mmChain (id + b) p w m y k b

/-- The device with CLAMP set in the work order when a length was clamped (R395, R497). -/
def State.clamping (s : State) (on : Bool) (wo : Nat) : State := if on then s.updWo wo fun o => { o with clamp := true } else s

section Ran
variable {s t u : State} {h k : Nat} {z : Hearth} {y : Stoker}

theorem ran_clamping (r : Ran s h k u z y false t) (on : Bool) (wo : Nat) :
    Ran s h k (u.clamping on wo) z y false (t.clamping on wo) := by
  cases on with
  | false => exact r
  | true =>
    refine ⟨?_, ?_, r.elsewhere, r.hearth, r.others, r.self⟩
    · conv_lhs => unfold State.clamping State.updWo; rw [r.device]
      rfl
    · have horders := r.orders
      simp only [Bool.false_eq_true, if_false] at horders ⊢
      simp only [State.clamping, State.updWo, horders, if_true]

theorem Neat.clamping (n : Neat t h) (on : Bool) (wo : Nat) : Neat (t.clamping on wo) h := by
  cases on
  · exact n
  · exact ⟨n.hearths, n.stokers⟩

/-- A bound stream of the Stoker changes. -/
theorem State.updStream_of_ran {d : Nat} {q : Stream} {done : Bool} (r : Ran s h k u z y done t) (hq : y.stream? d = some q)
    (f : Stream → Stream) : t.updStream h k d f = t.updStoker h k fun x => x.setStream d (some (f q)) := by
  rw [State.updStream, State.stream?, r.self, hq]
  rfl

/-- No restart waits in the stream. -/
theorem State.settleRestart_of_none {d : Nat} {q : Stream} (hq : (t.stoker h k).stream? d = some q) (hnone : q.restarts = []) :
    t.settleRestart h k d = t := by
  unfold State.settleRestart State.stream?
  rw [hq]
  dsimp only
  rw [hnone]

end Ran

section Product
variable {s : State} {h k w : Nat} {m : MmShape} {a b : Stream} {p : MmPlan} (hp : MmChecked s h k w m a b p)
include hp

theorem MmChecked.mm_eq (t : State) :
    s.mm t h k w m = .next (s.mmRun t h k w m p ((batchSlots w m p.rows).map fun i => (i, p.kind)) []) := by
  obtain ⟨kind, pos, hplan⟩ := hp.plan
  have hpos : ((s.hearth h).stoker k).position (gJ w) = some pos :=
    Stoker.position_of_claim hp.free (by rw [show (s.hearth h).stoker k = s.stoker h k from rfl, hp.claim, hplan]; rfl)
  have hkind : mmKind a.desc (tileOf b.desc) w = some kind := by simpa [hplan, mmPlanOf] using hp.kind
  have hlenB : b.claimed + (m.nb + 1) * (p.chunks * p.b.elems) ≤ b.total := Nat.mul_assoc .. ▸ hp.lenB
  unfold State.mm
  dsimp only
  rw [hpos]
  refine (State.withGrate_of_bound hp.streamA hp.modeA _).trans ?_
  rw [State.mmB, if_pos hp.fromStream]
  refine (State.withGrate_of_bound hp.streamB hp.modeB _).trans ((if_pos hp.layoutB).trans ?_)
  rw [hkind]
  refine (if_neg (by have := hp.fits; omega)).trans ?_
  have hkinds := Hearth.kindsAfter_of_admits hp.chunks hp.admits
  have hlenA := hp.lenA
  have hrows := hp.rows
  have hchunks := hp.chunks
  rw [hplan] at hkinds hlenA hlenB hrows hchunks ⊢
  simp only [mmPlanOf, State.stoker] at hkinds hlenA hlenB hrows hchunks ⊢
  rw [hkinds]
  simp only [hp.based, Bool.and_false, Bool.false_and, Bool.false_eq_true, if_false]
  exact (if_neg (by simp [hlenA, hlenB])).trans (if_neg (by simp [hrows, hchunks]))

theorem MmChecked.handles_ne : gHA w ≠ gHB w := by
  intro hsame
  obtain rfl : a = b := Option.some.inj (hp.streamA.symm.trans (hsame ▸ hp.streamB))
  exact absurd hp.layoutB (by simp [(mmKind_accepts hp.kind).1])

/-- The claims of a product on its two streams (R396). -/
theorem MmChecked.mmClaim_eq {t u : State} {z : Hearth} {y : Stoker} {done : Bool} (n : Neat t h) (r : Ran s h k u z y done t)
    (hy : y.handles = (s.stoker h k).handles) : s.mmClaim t h k w m p [] =
      (t.updStoker h k fun x => x.setStream (gHA w) (some (a.claiming (p.needA w m)))).updStoker h k
        fun x => x.setStream (gHB w) (some (b.claiming (p.needB m))) := by
  have hA : y.stream? (gHA w) = some a := by rw [Stoker.stream?, hy]; exact hp.streamA
  have hB : (y.setStream (gHA w) (some (a.claiming (p.needA w m)))).stream? (gHB w) = some b := by
    refine (mget_mset_ne _ _ _ _ _ hp.handles_ne.symm).trans ?_
    rw [hy]
    exact hp.streamB
  have rA := Safety.Ran.upd r n fun x => x.setStream (gHA w) (some (a.claiming (p.needA w m)))
  simp only [State.mmClaim, hp.fromStream, hp.based, Bool.not_true, Bool.false_eq_true, if_false]
  rw [State.updStream_of_ran r hA]
  exact State.updStream_of_ran rA hB _

/-- Without KINDLE, the chains of a product wait for a Grate. -/
theorem MmChecked.mmRun_eq (t : State) : s.mmRun t h k w m p ((batchSlots w m p.rows).map fun i => (i, p.kind)) [] =
    ((((s.mmClaim ((t.clamping p.clamp (s.stoker h k).wo).updHearth h fun z => z.planKinds p w m) h k w m p []).updHearth h
      fun z => z.takeIds p m).updHearth h fun z => z.addChains (mmChains (s.hearth h).nextId p w m (s.stoker h k) k)).settleRestart
        h k (gHB w)) := by
  unfold State.mmRun
  dsimp only
  rw [if_neg hp.rows, if_neg hp.chunks]
  simp only [hp.fromStream, if_true]
  cases ho : s.wo? (s.stoker h k).wo with
  | none => rfl
  | some o =>
    dsimp only
    rw [hp.order o ho]
    rfl

/-- What a product comes to: its claims on its streams, and its chains. -/
theorem MmChecked.ran_mmRun {n : Nat} (hc : Canon s) : Ran s h k (s.clamping p.clamp (s.stoker h k).wo)
    ((((s.hearth h).planKinds p w m).takeIds p m).addChains (mmChains (s.hearth h).nextId p w m (s.stoker h k) k))
    (((past (s.stoker h k) n).setStream (gHA w) (some (a.claiming (p.needA w m)))).setStream (gHB w)
      (some (b.claiming (p.needB m)))) false
    (s.mmRun (s.advance h k n) h k w m p ((batchSlots w m p.rows).map fun i => (i, p.kind)) []) := by
  have n1 := ((Safety.Canon.neat hc h).advance k n).clamping p.clamp (s.stoker h k).wo
  have r1 := ran_clamping (ran_advance (n := n) (h := h) (k := k) hc) p.clamp (s.stoker h k).wo
  have n2 := n1.updHearth (f := fun z => z.planKinds p w m) fun _ => rfl
  have r2 := Safety.Ran.updHearth r1 n1 (fun z => z.planKinds p w m) fun _ _ => rfl
  have n3 := n2.updStoker k fun x => x.setStream (gHA w) (some (a.claiming (p.needA w m)))
  have r3 := Safety.Ran.upd r2 n2 fun x => x.setStream (gHA w) (some (a.claiming (p.needA w m)))
  have n4 := n3.updStoker k fun x => x.setStream (gHB w) (some (b.claiming (p.needB m)))
  have r4 := Safety.Ran.upd r3 n3 fun x => x.setStream (gHB w) (some (b.claiming (p.needB m)))
  have n5 := n4.updHearth (f := fun z => z.takeIds p m) fun _ => rfl
  have r5 := Safety.Ran.updHearth r4 n4 (fun z => z.takeIds p m) fun _ _ => rfl
  have r6 := Safety.Ran.updHearth r5 n5
    (fun z => z.addChains (mmChains (s.hearth h).nextId p w m (s.stoker h k) k)) fun _ _ => rfl
  rw [hp.mmRun_eq, hp.mmClaim_eq n2 r2 rfl, State.settleRestart_of_none (q := b.claiming (p.needB m)) ?_ hp.restarts]
  · exact r6
  · rw [r6.self]
    exact mget_mset_self _ _ _ _ (by simp)

end Product

/-! ### The issue of a product (R387) -/

/-- The length registers that run-time lengths come from. -/
def lengthUses (m : MmShape) : List Dst := (if m.enr then [lDst m.lr] else []) ++ if m.enk then [lDst m.lk] else []

/-- GRT.MM in one word, or GRT.MM.X in two with its shape in EXT. -/
def MmForm (h : HearthId) (k : StokerId) (w e n : Nat) (c : Instr) (m : MmShape) : Prop :=
  (c = .grtMm h k ∧ zOp w = 2 ∧ zSub w < 32 ∧ m = {} ∧ n = 1) ∨
    (c = .grtMmX h k ∧ zOp w = 0x22 ∧ e < 2 ^ 33 ∧ m = mmShape e ∧ n = 2)

theorem exec_mm_of_issues {s : State} {h : HearthId} {k : StokerId} {w e n : Nat} {c : Instr} {m : MmShape}
    (hform : MmForm h k w e n c m) (hi : Issues s h k w e (lengthUses m)) (hd : NoDst w) (hcls : zClass w = 0x10)
    (hlegal : mmLegal w m = true) (hbased : gBL w = false) :
    exec c s = .next ((s.mm (s.advance h k n) h k w m).settle s h k) := by
  obtain ⟨rfl, hop, hsub, rfl, rfl⟩ | ⟨rfl, hop, hext, rfl, rfl⟩ := hform
  · exact congrArg Host.Outcome.next (State.issue_of_noDst 1 hi hd hcls hop rfl (by simp [hsub, hlegal]) rfl rfl)
  · have he : zExt ((s.hearth h).word ((s.stoker h k).pc + 8)) = e := hi.ext
    have hx : exec (.grtMmX h k) s = .next (s.grtMmX h k) := rfl
    rw [hx, State.grtMmX, he]
    exact congrArg Host.Outcome.next (State.issue_of_noDst 2 (by simpa [hbased, lengthUses] using hi) hd hcls hop rfl
      (by simp only [hlegal, decide_eq_true hext, Bool.and_self]) rfl rfl)

/-- CLAMP is set when a run-time length exceeds the plan (R395). -/
theorem State.clamping_of_plan (s : State) (y : Stoker) (w : Nat) (m : MmShape) (a b : Stream) (kind : SlotKind) (pos wo : Nat) :
    s.clamping (mmPlanOf y w m a b kind pos).clamp wo =
      if (m.enr = true ∧ gRows w < (y.lreg m.lr).toNat) ∨ (m.enk = true ∧ m.kc * (tileOf b.desc).kt < (y.lreg m.lk).toNat) then
        { s with wos := s.wos.map fun o => if o.id = wo then { o with clamp := true } else o } else s :=
  if_congr (by simp [mmPlanOf, mmLengths]) rfl rfl

/-- Settles O38: a checked product is planned, claims its elements of both streams, and queues one chain for each batch. -/
theorem grateProducts : Obligations.GrateProducts := by
  unfold Obligations.GrateProducts
  rintro s h k w e n c m x z a b tile kind pos rows chunks u hc rfl rfl hform hi hd hcls hlegal hsb hbl hrel hclaim ha hma hb hmb
    hrestarts hlayout rfl hkind hrows hchunks hrows0 hchunks0 hfits hadmits hlenA hlenB horder hu
  obtain ⟨p, hplan⟩ : ∃ p, p = mmPlanOf (s.stoker h k) w m a b kind pos := ⟨_, rfl⟩
  have hp : MmChecked s h k w m a b p := by
    subst hplan hrows hchunks
    exact ⟨⟨kind, pos, rfl⟩, hsb, hbl, hrel, hclaim, ha, hma, hb, hmb, hrestarts, hlayout, hkind, hrows0, hchunks0, hfits, hadmits,
      hlenA, hlenB, horder⟩
  have hx := exec_mm_of_issues hform hi hd hcls hlegal hbl
  rw [hp.mm_eq] at hx
  have hran := does_of_next hx (hp.ran_mmRun hc)
  rw [hplan, State.clamping_of_plan, ← hu] at hran
  subst hplan hrows hchunks
  refine ⟨_, _, ?_, hran, fun j i hj hi => ?_, fun j v hv => ?_⟩
  · simp [mmChains]
  · exact mget_foldl_kinds _ _ _ (hc.hearth h).planned (.inr (mem_batchSlots.2 ⟨j, i, hj, hi, rfl⟩))
  · simp only [mmChains, List.getElem?_map, Option.map_eq_some_iff, List.getElem?_eq_some_iff, List.getElem_range] at hv
    obtain ⟨_, ⟨-, rfl⟩, rfl⟩ := hv
    exact ⟨rfl, rfl, rfl, rfl, rfl, hsb, rfl, rfl, rfl, rfl, rfl, _, rfl, rfl, rfl, rfl, rfl, rfl, rfl, rfl, rfl,
      if_neg (ne_true_of_eq_false hbl)⟩

end Sys2Proof.Machine

namespace Sys2Proof.Machine

open Sys2Proof.Safety

/-! # CAB.CALL, its waits, and the engines (O41) -/

/-! ### CAB.CALL (R428, R429, R431, R597, R598) -/

section Call
variable {s : State} {h k w e : Nat}

/-- The call of a parameter block that a Stoker makes. -/
def State.callOf (s : State) (h k engine : Nat) (block : List Byte) (pat : Nat × Nat) : Call :=
  let y := s.stoker h k
  { id := (s.hearth h).nextId, gal := y.gal, wo := y.wo, hearth := h, stoker := k, pc := y.pc, seq := y.seq, engine := engine
    ord := if engine = 0 then y.stvCalls else y.cabCalls
    cabinet := h / 12, block := block, pat := pat }

/-- A Hearth with one more call in its post channel. -/
def Hearth.addCall (x : Hearth) (c : Call) : Hearth := { x with calls := x.calls ++ [c], nextId := x.nextId + 1 }

/-- A Stoker that has made one more call. -/
def Stoker.countCall (engine : Nat) (y : Stoker) : Stoker :=
  if engine = 0 then { y with stvCalls := y.stvCalls + 1 } else { y with cabCalls := y.cabCalls + 1 }

theorem State.postCall_eq (s t : State) (h k engine : Nat) (block : List Byte) (pat : Nat × Nat) :
    s.postCall t h k engine block pat = (t.updHearth h fun z => z.addCall (s.callOf h k engine block pat)).updStoker h k
      (Stoker.countCall engine) := rfl

theorem ran_postCall (hc : Canon s) (engine : Nat) (block : List Byte) (pat : Nat × Nat) :
    Ran s h k s ((s.hearth h).addCall (s.callOf h k engine block pat)) ((past (s.stoker h k) 1).countCall engine) false
      (s.postCall (s.advance h k 1) h k engine block pat) := by
  have hneat := (Safety.Canon.neat hc h).advance k 1
  have hran := Safety.Ran.updHearth (ran_advance (n := 1) (h := h) (k := k) hc) hneat
    (fun z => z.addCall (s.callOf h k engine block pat)) fun _ _ => rfl
  exact Safety.Ran.upd hran (hneat.updHearth fun _ => rfl) (Stoker.countCall engine)

/-- The post channel and the Stoker's own limit take one more call (R430, R598). -/
theorem Hearth.callFull_of_room {x : Hearth} {cab : Bool} (hroom : x.calls.length < 16) (hown : (x.callsOf k cab).length < 4) :
    x.callFull k cab = false := by
  simp [Hearth.callFull, hroom, hown]

section CabCall
variable (hi : Issues s h k w e [sDst (zA w)]) (hd : NoDst w) (hf : Fields w 0x18 1 (zA w) 0 0 0)
include hi hd hf

theorem State.cabCall_of_stoveRoute (hroute : (s.hearth h).stoveRoute = true) : s.cabCall h k = s.faultIssue h k fCabRoute := by
  obtain ⟨hcls, hop, -, hb, hsub, himm⟩ := hf
  refine (State.issue_of_noDst 1 hi hd hcls hop rfl (by simp [hb, hsub, himm]) rfl rfl).trans ?_
  exact congrArg (fun r : Issued => r.settle s h k) (if_pos hroute)

theorem State.cabCall_of_legal {va : Nat} {b : List Byte} (hva : va = ((s.stoker h k).sreg (zA w)).toNat)
    (hblock : b = s.hobBlock h (s.stoker h k).gal va 128) (hroute : (s.hearth h).stoveRoute = false)
    (hroom : (s.hearth h).callFull k true = false) (hreleased : s.callReleased h k = true)
    (hrange : s.hobRange (s.stoker h k).gal va 128 = none) (halign : va % 64 = 0) (hok : cabBlockOk b = true)
    (hengine : s.engineGone (blkEngine b) = false) :
    s.cabCall h k = (Issued.next (s.postCall (s.advance h k 1) h k (blkEngine b) b (0, 0))).settle s h k := by
  obtain ⟨hcls, hop, -, hb, hsub, himm⟩ := hf
  subst hva hblock
  refine (State.issue_of_noDst 1 hi hd hcls hop rfl (by simp [hb, hsub, himm]) rfl rfl).trans ?_
  refine congrArg (fun r : Issued => r.settle s h k)
    ((if_neg (ne_true_of_eq_false hroute)).trans ((if_neg (by simp [hroom, hreleased])).trans ?_))
  rw [show s.hobRange ((s.hearth h).stoker k).gal (((s.hearth h).stoker k).sreg (zA w)).toNat 128 = none from hrange]
  exact (if_neg (not_or.2 ⟨not_not.2 halign, by rw [show cabBlockOk (s.hobBlock h ((s.hearth h).stoker k).gal
    (((s.hearth h).stoker k).sreg (zA w)).toNat 128) = true from hok]; decide⟩)).trans (if_neg (ne_true_of_eq_false hengine))

end CabCall

/-! ### CAB.WAIT and STV.WAIT (R430) -/

theorem State.callWait_of_issues {cls n : Nat} (cab : Bool) (hn : n < 4) (hi : Issues s h k w e []) (hd : NoDst w)
    (hf : Fields w cls (if cab then 2 else 3) 0 0 0 n) : s.callWait h k cls cab =
      (if (s.hearth h).callsWaited k cab n then s.acquireAfter (s.advance h k 1) h k (s.stoker h k).seq
        else .park ((s.advance h k 1).parkAs h k .parkedCall (if cab then .cab n else .stv n))).settle s h k := by
  obtain ⟨hcls, hop, ha, hb, hsub, rfl⟩ := hf
  exact State.issue_of_noDst 1 hi hd hcls hop rfl (by simp [ha, hb, hsub, hn]) rfl (by cases cab <;> rfl)

end Call

/-! ### A call starts (R603, R605) -/

section Start
variable {s : State} {c : Call}

/-- A call that begins to read its descriptors. -/
def Call.begin (q : Nat) (d : Call) : Call :=
  { d with st := .desc, cabinet := q, descs := [], passes := [], written := [], rewritten := false }

theorem State.startCall_of_aligned (halign : ∀ a ∈ c.descAddrs, a % 8 = 0) : s.startCall c =
    (s.updCall c.hearth c.id (Call.begin c.cabinet)).callAcc c c.reader (.callDesc c.id)
      (c.descAddrs.flatMap fun a => byteRuns a 128) :=
  if_neg (by simpa using halign)

theorem State.call?_updCall {h id : Nat} (hs : mwf {} s.hearths = true) {f : Call → Call} (hf : ∀ d, (f d).id = d.id) :
    (s.updCall h id f).call? h id = (s.call? h id).map f := by
  have hid (d : Call) : (if d.id = id then f d else d).id = d.id := by
    split
    · exact hf d
    · rfl
  rw [State.call?, State.updCall, State.updHearth_hearth hs]
  simp only [List.find?_map, Function.comp_def, hid, State.call?]
  cases hfind : (s.hearth h).calls.find? fun d => decide (d.id = id) with
  | none => rfl
  | some d => simp [of_decide_eq_true (List.find?_some (p := fun d : Call => decide (d.id = id)) hfind)]

/-- What the start of a call does to the call and the accesses. -/
theorem State.startCall_starts (hs : mwf {} s.hearths = true) {d : Call} (hcall : s.call? c.hearth c.id = some d)
    (halign : ∀ a ∈ c.descAddrs, a % 8 = 0) : ∃ a, (s.startCall c).accs = s.accs ++ [a] ∧ a.kind = .callDesc c.id ∧
      a.todo = (c.descAddrs.flatMap fun a => byteRuns a 128) ∧
      (s.startCall c).call? c.hearth c.id = some (d.begin c.cabinet) := by
  rw [State.startCall_of_aligned halign]
  refine ⟨_, rfl, rfl, rfl, ?_⟩
  have hupd := State.call?_updCall (h := c.hearth) (id := c.id) hs (f := Call.begin c.cabinet) fun _ => rfl
  rw [hcall] at hupd
  exact hupd

theorem State.startCall_cabinets (halign : ∀ a ∈ c.descAddrs, a % 8 = 0) : (s.startCall c).cabinets = s.cabinets := by
  rw [State.startCall_of_aligned halign]
  rfl

theorem State.setCabinet_cabinet (hs : mwf {} s.cabinets = true) (q : Nat) (x : Cabinet) :
    (s.setCabinet q x).cabinet q = x := mget_mset_same _ _ _ _ hs

/-- A free engine takes its next call. -/
theorem State.engineCallStart_of_next {q e : Nat} (hlive : s.pace.tripped = false)
    (hidle : mget none (s.cabinet q).running e = none) (hfree : bitAt (s.cabinet q).fenced.toNat (e - 1) = false)
    (hnext : s.nextCall q e = some c) : s.engineCallStart q e =
      (s.setCabinet q { s.cabinet q with
        running := mset none (s.cabinet q).running e (some (c.hearth, c.id))
        last := mset (12 * q + 47) (s.cabinet q).last e c.hearth }).startCall { c with cabinet := q } := by
  unfold State.engineCallStart
  dsimp only
  rw [if_neg (by simp [hlive, hidle, hfree]), hnext]

end Start

/-! ### A call ends (R730, R731, R738) -/

theorem Beside.cabinets {s t : State} (h : Beside s t) : t.cabinets = s.cabinets := by rw [h.device]

section End
variable {s : State} {q e : Nat} {c : Call} (hrun : mget none (s.cabinet q).running e = some (c.hearth, c.id))
  (hcall : s.call? c.hearth c.id = some c) (hlive : s.pace.tripped = false) (hdone : c.st = .finished)
  (hidle : s.callIdle c = true) (hfine : c.failed = false)

/-- One more call of an engine has ended well. -/
def State.countDone (s : State) (q e : Nat) : State :=
  s.setCabinet q { s.cabinet q with done := mset 0 (s.cabinet q).done e (mget 0 (s.cabinet q).done e + 1) }

include hrun hcall hlive hdone hidle hfine

theorem State.engineCallComplete_eq (ok : Bool) : s.engineCallComplete q e ok =
    if ok then
      (((if c.tries = 0 then s else s.countTransient.logTransient (3 * 4096 + 8 * q + e - 1)
        { event := 0x07, cls := 1, unitKind := 3, unitIndex := 8 * q + e - 1, wo := s.naming (some c.wo), a := e }).dropCall
          c.hearth c.id).freeEngine q e).countDone q e
    else if c.tries = 0 then (s.updCall c.hearth c.id fun d => { d with tries := 1 }).startCall c
    else
      let t := ((s.countLasting).fenceEngine q e true (s.naming (some c.wo))).freeEngine q e
      if t.engineGone e then ((t.failCall c fCabRoute).dropCall c.hearth c.id).routeGone e
      else t.updCall c.hearth c.id fun d => { d with st := .queued, moved := true, tries := 0 } := by
  unfold State.engineCallComplete
  rw [hrun]
  dsimp only
  rw [hcall]
  dsimp only
  rw [if_neg (by simp [hlive, hdone, hidle]), if_neg (ne_true_of_eq_false hfine)]
  rfl

/-- A call that ends well: a transient that it met is noted, and it leaves its Hearth and its engine. -/
theorem State.engineCallComplete_of_ok : ∃ t, Notes s t ∧
    s.engineCallComplete q e true = ((t.dropCall c.hearth c.id).freeEngine q e).countDone q e := by
  rw [State.engineCallComplete_eq hrun hcall hlive hdone hidle hfine]
  refine ⟨_, .ite (fun _ => .rfl') fun _ => ?_, rfl⟩
  exact Notes.trans (t := s.countTransient) (.of_ports ..) (State.logTransient_notes ..)

end End

/-- A call that leaves its Hearth and its engine. -/
theorem State.countDone_cabinet {s : State} (hs : mwf {} s.cabinets = true) (h id q e : Nat) :
    (((s.dropCall h id).freeEngine q e).countDone q e).cabinet q = { s.cabinet q with
      running := mset none (s.cabinet q).running e none
      done := mset 0 (s.cabinet q).done e (mget 0 (s.cabinet q).done e + 1) } := by
  have hfree : ((s.dropCall h id).freeEngine q e).cabinet q = { s.cabinet q with
      running := mset none (s.cabinet q).running e none } := State.setCabinet_cabinet (s := s.dropCall h id) hs q _
  rw [State.countDone, State.setCabinet_cabinet (s := (s.dropCall h id).freeEngine q e) (mwf_mset _ _ _ _ hs), hfree]

/-! ### An engine is fenced (R730) -/

/-- Engine `f` of a Cabinet is fenced, and the Cabinet's engines run what `r` says. -/
structure EngineFenced (q f : Nat) (r : Sparse (Option (Nat × Nat))) (t : State) : Prop where
  cabinets : mwf {} t.cabinets = true
  fenced : bitAt (t.cabinet q).fenced.toNat f = true
  running : (t.cabinet q).running = r

section Out
variable {s t : State} {q f : Nat} {r : Sparse (Option (Nat × Nat))}

theorem EngineFenced.of_cabinets (h : EngineFenced q f r s) (ht : t.cabinets = s.cabinets) : EngineFenced q f r t := by
  have hcab : t.cabinet q = s.cabinet q := by rw [State.cabinet, ht, State.cabinet]
  exact ⟨ht ▸ h.cabinets, hcab ▸ h.fenced, hcab ▸ h.running⟩

theorem State.faultWo_cabinets (s : State) (id : Nat) (code : BitVec 8) (h k pc : Nat) :
    (s.faultWo id code h k pc).cabinets = s.cabinets := by
  unfold State.faultWo State.endWo
  split <;> rfl

/-- A Cabinet changes beside its fences and what its engines run. -/
theorem EngineFenced.setCabinet (h : EngineFenced q f r s) (p : Nat) {x : Cabinet} (hfenced : x.fenced = (s.cabinet p).fenced)
    (hrunning : x.running = (s.cabinet p).running) : EngineFenced q f r (s.setCabinet p x) := by
  have hwf : mwf {} (s.setCabinet p x).cabinets = true := mwf_mset _ _ _ _ h.cabinets
  by_cases hq : q = p
  · subst hq
    have hself := State.setCabinet_cabinet h.cabinets q x
    exact ⟨hwf, by rw [hself, hfenced]; exact h.fenced, by rw [hself, hrunning]; exact h.running⟩
  · have hother : (s.setCabinet p x).cabinet q = s.cabinet q := mget_mset_ne _ _ _ _ _ hq
    exact ⟨hwf, hother ▸ h.fenced, hother ▸ h.running⟩

theorem EngineFenced.countCabFault (h : EngineFenced q f r s) (i id : Nat) : EngineFenced q f r (s.countCabFault i id) := by
  unfold State.countCabFault
  split
  · split
    · exact h
    · exact h.setCabinet _ rfl rfl
  · exact h

theorem EngineFenced.failCall (h : EngineFenced q f r s) (c : Call) (code : BitVec 8) : EngineFenced q f r (s.failCall c code) :=
  (h.countCabFault c.hearth c.id).of_cabinets (State.faultWo_cabinets ..)

theorem EngineFenced.dropFailed (h : EngineFenced q f r s) (c : Call) (code : BitVec 8) (i id : Nat) :
    EngineFenced q f r ((s.failCall c code).dropCall i id) := (h.failCall c code).of_cabinets rfl

theorem EngineFenced.routeGone (h : EngineFenced q f r s) (e : Nat) : EngineFenced q f r (s.routeGone e) := by
  unfold State.routeGone
  split
  · exact h
  · exact List.foldlRecOn (motive := fun (t : State) => EngineFenced q f r t) _ _ h fun t ht c _ => ht.dropFailed c _ _ _

theorem State.enterFence_cabinets (s : State) (kind : BitVec 3) (index : Nat) (cause : BitVec 8) (rec : Nat → FaultInfo) :
    (s.enterFence kind index cause rec).cabinets = s.cabinets := by
  unfold State.enterFence
  dsimp only
  split
  · rfl
  · split
    · exact (State.logFault_notes s _).cabinets
    · split <;> exact (State.logFault_notes _ _).cabinets

theorem State.enterFence_cabinet (s : State) (kind : BitVec 3) (index : Nat) (cause : BitVec 8) (rec : Nat → FaultInfo) (q : Nat) :
    (s.enterFence kind index cause rec).cabinet q = s.cabinet q := by
  rw [State.cabinet, State.enterFence_cabinets, State.cabinet]

theorem bitAt_or_oneBit (x : BitVec 8) (f : Fin 8) : bitAt (x ||| oneBit 8 f).toNat f = true := by
  have hbit : (oneBit 8 f).toNat.testBit f = true := by
    revert f
    decide
  rw [bitAt, BitVec.toNat_or, Nat.testBit_or, hbit, Bool.or_true]

theorem State.fenceEngine_cabinet (hs : mwf {} s.cabinets = true) (q e : Nat) (lasting : Bool) (wo : Option (Nat × Nat × Nat)) :
    mwf {} (s.fenceEngine q e lasting wo).cabinets = true ∧ (s.fenceEngine q e lasting wo).cabinet q =
      { s.cabinet q with fenced := (s.cabinet q).fenced ||| oneBit 8 (e - 1) } := by
  unfold State.fenceEngine
  dsimp only
  exact ⟨(State.enterFence_cabinets ..).symm ▸ mwf_mset _ _ _ _ hs,
    (State.enterFence_cabinet ..).trans (State.setCabinet_cabinet hs q _)⟩

/-- A fenced engine runs nothing. -/
theorem engineFenced_fenceEngine (hs : mwf {} s.cabinets = true) (q : Nat) (f : Fin 8) (wo : Option (Nat × Nat × Nat)) :
    EngineFenced q f (mset none (s.cabinet q).running (f + 1) none)
      (((s.countLasting).fenceEngine q (f + 1) true wo).freeEngine q (f + 1)) := by
  obtain ⟨hwf, hcab⟩ := State.fenceEngine_cabinet (s := s.countLasting) hs q (f + 1) true wo
  have hself := State.setCabinet_cabinet hwf q { (s.countLasting.fenceEngine q (f + 1) true wo).cabinet q with
    running := mset none ((s.countLasting.fenceEngine q (f + 1) true wo).cabinet q).running (f + 1) none }
  rw [hcab] at hself
  refine ⟨mwf_mset _ _ _ _ hwf, ?_, ?_⟩
  · rw [State.freeEngine, hcab, hself]
    exact bitAt_or_oneBit _ f
  · rw [State.freeEngine, hcab, hself]
    rfl

end Out

/-- Settles O41: CAB.CALL and the waits by what their issue comes to; the engines by the call they take, and how it ends. -/
theorem cabinetCalls : Obligations.CabinetCalls := by
  unfold Obligations.CabinetCalls
  rintro s h k w e x z hc rfl rfl
  have hneat := (Safety.Canon.neat hc h).advance k 1
  have hran := ran_advance (n := 1) (h := h) (k := k) hc
  refine ⟨?call, ?wait, ?engine⟩
  case call =>
    intro va b hva hblock hi hd hf
    refine ⟨fun hroute => congrArg Host.Outcome.next (State.cabCall_of_stoveRoute hi hd hf hroute),
      fun hroute hroom hown hreleased hlo hhi hfit halign hok hengine => ?_⟩
    exact does_of_next (congrArg Host.Outcome.next (State.cabCall_of_legal hi hd hf hva hblock hroute
      (Hearth.callFull_of_room hroom hown) hreleased (State.hobRange_of_within hlo hhi hfit) halign hok hengine)) (ran_postCall hc ..)
  case wait =>
    intro c cab n hform hn hi hd
    obtain ⟨cls, hx, hf⟩ : ∃ cls, exec c s = .next (s.callWait h k cls cab) ∧ Fields w cls (if cab then 2 else 3) 0 0 0 n := by
      obtain ⟨rfl, rfl, hf⟩ | ⟨rfl, rfl, hf⟩ := hform
      · exact ⟨_, rfl, hf⟩
      · exact ⟨_, rfl, hf⟩
    rw [State.callWait_of_issues cab hn hi hd hf] at hx
    refine ⟨fun hdone hfence => ?_, fun hdone hfence => ?_, fun hleft => ?_⟩
    · rw [if_pos hdone, State.acquireAfter, if_pos hfence] at hx
      exact does_of_next hx hran
    · rw [if_pos hdone, State.acquireAfter, if_neg (ne_true_of_eq_false hfence)] at hx
      exact does_of_park hx (ran_parkAs hran hneat _ _)
    · rw [if_neg (ne_true_of_eq_false hleft)] at hx
      exact does_of_park hx (ran_parkAs hran hneat _ _)
  case engine =>
    rintro q f c y rfl hlive
    refine ⟨fun hidle hfree hnext hcall halign => ?_, fun hrun hcall hdone hidle hfine => ⟨?_, fun h0 => ?_, fun h0 => ?_⟩⟩
    · have hx : exec (.engineCallStart q f) s = .next (s.engineCallStart q (f + 1)) := rfl
      rw [State.engineCallStart_of_next hlive hidle hfree hnext] at hx
      obtain ⟨a, haccs, hkind, htodo, hstarted⟩ := State.startCall_starts (c := { c with cabinet := q.val }) (s := s.setCabinet q _)
        hc.hearths hcall halign
      refine ⟨_, a, _, hx, haccs, hkind, htodo, hstarted, rfl, rfl, ?_⟩
      rw [State.cabinet, State.startCall_cabinets (c := { c with cabinet := q.val }) halign]
      exact State.setCabinet_cabinet hc.cabinets q _
    · obtain ⟨t, hnotes, hend⟩ := State.engineCallComplete_of_ok hrun hcall hlive hdone hidle hfine
      have hhearths := hnotes.hearths
      have hcabs := hnotes.cabinets
      refine ⟨_, congrArg Host.Outcome.next hend, ?_, ?_⟩
      · have hdrop := State.updHearth_hearth (s := t) (h := c.hearth) (hhearths ▸ hc.hearths) fun x =>
          { x with calls := x.calls.filter fun d => decide (d.id ≠ c.id) }
        refine (congrArg Hearth.calls hdrop).trans ?_
        rw [State.hearth, hhearths]
        rfl
      · have hcab : t.cabinet q = s.cabinet q := by rw [State.cabinet, hcabs, State.cabinet]
        rw [State.countDone_cabinet (hcabs ▸ hc.cabinets), hcab]
    · refine congrArg Host.Outcome.next ((State.engineCallComplete_eq hrun hcall hlive hdone hidle hfine false).trans ?_)
      exact if_pos h0
    · refine ⟨_, congrArg Host.Outcome.next ((State.engineCallComplete_eq hrun hcall hlive hdone hidle hfine false).trans
        (if_neg h0)), ?_⟩
      have hout := engineFenced_fenceEngine hc.cabinets q f (s.naming (some c.wo))
      split
      · exact ⟨((hout.dropFailed ..).routeGone _).fenced, ((hout.dropFailed ..).routeGone _).running⟩
      · exact ⟨hout.fenced, hout.running⟩

end Sys2Proof.Machine

namespace Sys2Proof.Machine

open Sys2Proof.Safety

/-! # STV.LOAD, STV.RUN, pattern loads and Stove calls (O42) -/

section Issue
variable {s : State} {h k w e : Nat}

theorem Neat.postCall {t : State} (n : Neat t h) (engine : Nat) (block : List Byte) (pat : Nat × Nat) :
    Neat (s.postCall t h k engine block pat) h :=
  (n.updHearth (f := fun z => z.addCall (s.callOf h k engine block pat)) fun _ => rfl).updStoker k
    (Stoker.countCall engine)

theorem patternLen_of_bounds {n : Nat} (hlo : 8 ≤ n) (hhi : n ≤ 98304) (halign : n % 8 = 0) : patternLen n = true := by
  simp [patternLen, hlo, hhi, halign]

/-! ### STV.LOAD (R433, R435, R597, R732) -/

/-- A pattern is recorded for a gallery, and its load waits unless the slice already holds it and serves nothing. -/
def Stove.noteLoad (l : StoveLoad) (x : Stove) : Stove :=
  if x.has l.gal (l.src, l.len) && x.queue.isEmpty && x.cur.isNone then x.setRecord l.gal (some (l.src, l.len))
  else { x.setRecord l.gal (some (l.src, l.len)) with queue := x.queue ++ [.load l] }

theorem Stove.noteLoad_of_held {x : Stove} {l : StoveLoad} (hheld : x.has l.gal (l.src, l.len) = true ∧ x.queue = [] ∧ x.cur = none) :
    x.noteLoad l = { x with recorded := mset none x.recorded l.gal (some (l.src, l.len)) } := by
  obtain ⟨hhas, hqueue, hcur⟩ := hheld
  exact if_pos (by simp [hhas, hqueue, hcur])

theorem Stove.noteLoad_of_not_held {x : Stove} {l : StoveLoad}
    (hheld : ¬ (x.has l.gal (l.src, l.len) = true ∧ x.queue = [] ∧ x.cur = none)) :
    x.noteLoad l = { x with
      recorded := mset none x.recorded l.gal (some (l.src, l.len)), queue := x.queue ++ [.load l] } :=
  if_neg (by simpa [and_assoc] using hheld)

section Load
variable (hi : Issues s h k w e [sDst (zA w), sDst (zB w)]) (hd : NoDst w) (hf : Fields w 0x19 1 (zA w) (zB w) 0 0)
include hi hd hf

theorem State.stvLoad_of_fenced (hfenced : (s.hearth h).stove.fenced = true) : s.stvLoad h k = s.faultIssue h k fStvAbsent := by
  obtain ⟨hcls, hop, -, -, hsub, himm⟩ := hf
  refine (State.issue_of_noDst 1 hi hd hcls hop rfl (by simp [hsub, himm]) rfl rfl).trans ?_
  exact congrArg (fun r : Issued => r.settle s h k) (if_pos hfenced)

theorem State.stvLoad_of_legal {src len : Nat} (hsrc : src = ((s.stoker h k).sreg (zA w)).toNat)
    (hlen : len = ((s.stoker h k).sreg (zB w)).toNat) (hlive : (s.hearth h).stove.fenced = false)
    (hlegal : patternLen len = true) (halign : src % 64 = 0) : s.stvLoad h k =
      (Issued.next ((s.advance h k 1).updStove h (Stove.noteLoad { gal := (s.stoker h k).gal, wo := (s.stoker h k).wo, stoker := k
                                                                   pc := (s.stoker h k).pc, src := src, len := len }))).settle s h k := by
  obtain ⟨hcls, hop, -, -, hsub, himm⟩ := hf
  subst hsrc hlen
  refine (State.issue_of_noDst 1 hi hd hcls hop rfl (by simp [hsub, himm]) rfl rfl).trans ?_
  refine congrArg (fun r : Issued => r.settle s h k) ((if_neg (ne_true_of_eq_false hlive)).trans (if_neg ?_))
  rw [show patternLen (((s.hearth h).stoker k).sreg (zB w)).toNat = true from hlegal,
    show (((s.hearth h).stoker k).sreg (zA w)).toNat % 64 = 0 from halign]
  decide

end Load

/-! ### STV.RUN (R434, R436, R598) -/

section Run
variable (hi : Issues s h k w e [sDst (zA w)]) (hd : NoDst w) (hf : Fields w 0x19 2 (zA w) 0 0 0) {pat : Nat × Nat}
  (hlive : (s.hearth h).stove.fenced = false) (hrecord : (s.hearth h).stove.record (s.stoker h k).gal = some pat)
include hi hd hf hlive hrecord

theorem State.stvRun_of_noRoute (hroute : (s.hearth h).stoveRoute = false) : s.stvRun h k = s.faultIssue h k fCabRoute := by
  obtain ⟨hcls, hop, -, hb, hsub, himm⟩ := hf
  refine (State.issue_of_noDst 1 hi hd hcls hop rfl (by simp [hb, hsub, himm]) rfl rfl).trans ?_
  refine congrArg (a₂ := .fault fCabRoute) (fun r : Issued => r.settle s h k) ?_
  dsimp only
  rw [if_neg (ne_true_of_eq_false hlive), show (s.hearth h).stove.record ((s.hearth h).stoker k).gal = some pat from hrecord]
  exact if_pos (by rw [hroute]; rfl)

theorem State.stvRun_of_legal {va : Nat} {b : List Byte} (hva : va = ((s.stoker h k).sreg (zA w)).toNat)
    (hblock : b = s.hobBlock h (s.stoker h k).gal va 64) (hroute : (s.hearth h).stoveRoute = true)
    (hroom : (s.hearth h).callFull k false = false) (hreleased : s.callReleased h k = true)
    (hrange : s.hobRange (s.stoker h k).gal va 64 = none) (halign : va % 64 = 0) (hok : stvBlockOk b = true) : s.stvRun h k =
      (Issued.next ((s.postCall (s.advance h k 1) h k 0 b pat).updStove h fun z =>
        { z with queue := z.queue ++ [.call (s.hearth h).nextId] })).settle s h k := by
  obtain ⟨hcls, hop, -, hb, hsub, himm⟩ := hf
  subst hva hblock
  refine (State.issue_of_noDst 1 hi hd hcls hop rfl (by simp [hb, hsub, himm]) rfl rfl).trans ?_
  refine congrArg (fun r : Issued => r.settle s h k) ?_
  dsimp only
  rw [if_neg (ne_true_of_eq_false hlive), show (s.hearth h).stove.record ((s.hearth h).stoker k).gal = some pat from hrecord]
  refine (if_neg (by simp [hroute])).trans ((if_neg (by simp [hroom, hreleased])).trans ?_)
  rw [show s.hobRange ((s.hearth h).stoker k).gal (((s.hearth h).stoker k).sreg (zA w)).toNat 64 = none from hrange]
  exact if_neg (not_or.2 ⟨not_not.2 halign, by rw [show stvBlockOk (s.hobBlock h ((s.hearth h).stoker k).gal
    (((s.hearth h).stoker k).sreg (zA w)).toNat 64) = true from hok]; decide⟩)

end Run

end Issue

/-! ### Pattern loads (R433 to R435, R628 to R631) -/

section Loads
variable {s : State} {h : Nat} {l : StoveLoad} {rest : List StoveItem}

theorem State.updStove_stove (hs : mwf {} s.hearths = true) (f : Stove → Stove) :
    ((s.updStove h f).hearth h).stove = f (s.hearth h).stove := by
  rw [State.updStove, State.updHearth_hearth hs]

theorem State.patternLoad_of_next (hcur : (s.hearth h).stove.cur = none) (hqueue : (s.hearth h).stove.queue = .load l :: rest)
    (hneed : (s.hearth h).stove.has l.gal (l.src, l.len) = false ∨ l.order = true) :
    s.patternLoad h = (s.popStove h).startLoad h l := by
  unfold State.patternLoad
  dsimp only
  rw [hcur, hqueue]
  exact if_neg (by obtain hmiss | horder := hneed <;> simp [*])

/-- The slice while a load is in progress. -/
def Stove.loading (l : StoveLoad) (id : Nat) (x : Stove) : Stove :=
  { x with
    st := .loading, gal := l.gal, src := l.src, len := 0, image := [], cur := some (l, id), loads := x.loads + 1
    reloads := if l.call.isSome then satAdd 65535 x.reloads 1 else x.reloads }

theorem State.startLoad_starts (hs : mwf {} s.hearths = true) : ∃ a, (s.startLoad h l).accs = s.accs ++ [a] ∧ a.kind = .pattern ∧
    a.todo = byteRuns l.src l.len ∧ ((s.startLoad h l).hearth h).stove = (s.hearth h).stove.loading l s.nextAcc :=
  ⟨_, rfl, rfl, rfl, State.updStove_stove hs (Stove.loading l s.nextAcc)⟩

/-- The slice once an image is resident. -/
def Stove.loaded (l : StoveLoad) (m : List Byte) (x : Stove) : Stove := { x with st := .resident, len := l.len, image := m, cur := none }

theorem State.orderLoaded_keeps (s : State) (l : StoveLoad) :
    (s.orderLoaded l).accs = s.accs ∧ (s.orderLoaded l).hearths = s.hearths := by
  unfold State.orderLoaded
  split <;> exact ⟨rfl, rfl⟩

/-- The end of a STOVE_LOAD parks its Stoker, and the slice is as after any load. -/
theorem State.endLoad_some (hs : mwf {} s.hearths = true) (hstokers : mwf {} (s.hearth h).stokers = true) (m : List Byte) :
    (s.endLoad h l (some m)).accs = s.accs ∧ ((s.endLoad h l (some m)).hearth h).stove = (s.hearth h).stove.loaded l m := by
  have hstove := State.updStove_stove (h := h) hs (Stove.loaded l m)
  have hneat : Neat (s.updStove h (Stove.loaded l m)) h := Neat.updHearth ⟨hs, hstokers⟩ fun _ => rfl
  unfold State.endLoad
  dsimp only
  split
  · split
    · obtain ⟨haccs, hhearths⟩ := State.orderLoaded_keeps ((s.updStove h (Stove.loaded l m)).parkAs h l.stoker .halted .none) l
      refine ⟨haccs, ?_⟩
      have hhearth : (((s.updStove h (Stove.loaded l m)).parkAs h l.stoker .halted .none).orderLoaded l).hearth h =
          ((s.updStove h (Stove.loaded l m)).parkAs h l.stoker .halted .none).hearth h := congrArg (mget ({} : Hearth) · h) hhearths
      refine (congrArg Hearth.stove (hhearth.trans (State.updStoker_hearth _ h l.stoker _ hneat))).trans hstove
    · exact ⟨rfl, hstove⟩
  · exact ⟨rfl, hstove⟩

theorem State.patternLoad_of_read {id : Nat} {a : Acc} (hcur : (s.hearth h).stove.cur = some (l, id)) (hacc : s.acc? id = some a)
    (hsent : a.todo = []) (hcome : ∀ p ∈ s.pieces, p.owner ≠ .acc id) (hfine : a.err = none)
    (hok : patternOk (bytesAt a.buf l.src l.len) = true) :
    s.patternLoad h = (s.dropAcc id).endLoad h l (some (bytesAt a.buf l.src l.len)) := by
  unfold State.patternLoad State.checkLoad
  dsimp only
  rw [hcur]
  dsimp only
  rw [hacc]
  dsimp only
  rw [if_neg (by simpa [hsent] using hcome), hfine, hok]
  rfl

end Loads

/-! ### Stove calls (R622, R629, R732) -/

section Calls
variable {s : State} {h id : Nat} {rest : List StoveItem} {c : Call} (hqueue : (s.hearth h).stove.queue = .call id :: rest)
  (hcall : s.call? h id = some c) (hlive : s.pace.tripped = false)
include hqueue hcall hlive

theorem State.stoveCallStart_of_resident {v : StvEntry} (hcur : (s.hearth h).stove.cur = none) (hst : c.st = .queued)
    (hhas : (s.hearth h).stove.has c.gal c.pat = true) (hentry : (s.hearth h).stove.entryOf c = some v)
    (haux : v.auxFmt.isSome = true ↔ blkAux c.block ≠ 0) : s.stoveCallStart h = s.startCall c := by
  unfold State.stoveCallStart
  dsimp only
  rw [if_neg (ne_true_of_eq_false hlive), hcur, hqueue]
  dsimp only
  rw [hcall]
  dsimp only
  rw [if_neg (by simp [hst, hhas]), hentry]
  exact if_pos (Bool.eq_iff_iff.2 (haux.trans decide_eq_true_iff.symm))

/-- A Stove call that ends well: a transient that it met is noted, and it leaves the queue and its Hearth. -/
theorem State.stoveCallComplete_of_ok (hdone : c.st = .finished) (hidle : s.callIdle c = true) (hfine : c.failed = false) :
    ∃ t, Notes s t ∧ s.stoveCallComplete h true = (t.popStove h).dropCall h id := by
  unfold State.stoveCallComplete
  rw [hqueue]
  dsimp only
  rw [hcall]
  dsimp only
  rw [if_neg (by simp [hlive, hdone, hidle]), if_neg (ne_true_of_eq_false hfine)]
  refine ⟨_, .ite (fun _ => .rfl') fun _ => ?_, rfl⟩
  exact Notes.trans (t := s.countTransient) (.of_ports ..) (State.logTransient_notes ..)

end Calls

/-- Settles O42: STV.LOAD and STV.RUN by what their issue comes to; then the loads and the calls that the slice serves. -/
theorem stoveCalls : Obligations.StoveCalls := by
  unfold Obligations.StoveCalls
  rintro s h k w e x z hc rfl rfl
  have hneat := (Safety.Canon.neat hc h).advance k 1
  have hran := ran_advance (n := 1) (h := h) (k := k) hc
  refine ⟨?load, ?run, ?start, ?loaded, ?calls⟩
  case load =>
    rintro src len r hsrc hlen rfl hi hd hf
    refine ⟨fun hfenced => congrArg Host.Outcome.next (State.stvLoad_of_fenced hi hd hf hfenced), fun hlive hlo hhi h8 halign => ?_⟩
    have hdoes := does_of_next (congrArg Host.Outcome.next
      (State.stvLoad_of_legal hi hd hf hsrc hlen hlive (patternLen_of_bounds hlo hhi h8) halign)) (c := .stvLoad h k)
      (Safety.Ran.updHearth hran hneat (fun z => { z with stove := z.stove.noteLoad _ }) fun _ _ => rfl)
    refine ⟨fun hheld => ?_, fun hheld => ?_⟩
    · rwa [Stove.noteLoad_of_held hheld] at hdoes
    · rwa [Stove.noteLoad_of_not_held hheld] at hdoes
  case run =>
    intro va b pat hva hblock hrecord hi hd hf hlive
    refine ⟨fun hroute => congrArg Host.Outcome.next (State.stvRun_of_noRoute hi hd hf hlive hrecord hroute),
      fun hroute hroom hown hreleased hlo hhi hfit halign hok => ?_⟩
    exact does_of_next (congrArg Host.Outcome.next (State.stvRun_of_legal hi hd hf hlive hrecord hva hblock hroute
      (Hearth.callFull_of_room hroom hown) hreleased (State.hobRange_of_within hlo hhi hfit) halign hok))
      (Safety.Ran.updHearth (ran_postCall hc 0 b pat) (hneat.postCall 0 b pat)
        (fun z => { z with stove := { z.stove with queue := z.stove.queue ++ [.call (s.hearth h).nextId] } }) fun _ _ => rfl)
  case start =>
    intro l rest hcur hqueue hneed
    have hpop := State.updStove_stove (h := h) hc.hearths fun z => { z with queue := z.queue.drop 1 }
    obtain ⟨a, haccs, hkind, htodo, hstove⟩ := State.startLoad_starts (s := s.popStove h) (h := h) (l := l)
      (mwf_mset _ _ _ _ hc.hearths)
    refine ⟨_, a, congrArg Host.Outcome.next (State.patternLoad_of_next hcur hqueue hneed), haccs, hkind, htodo, hstove.trans ?_⟩
    rw [State.popStove, hpop, hqueue]
    rfl
  case loaded =>
    intro l id a hcur hacc hsent hcome hfine hok
    obtain ⟨haccs, hstove⟩ := State.endLoad_some (s := s.dropAcc id) (h := h) (l := l) hc.hearths (hc.hearth h).stokers _
    exact ⟨_, congrArg Host.Outcome.next (State.patternLoad_of_read hcur hacc hsent hcome hfine hok), haccs, hstove⟩
  case calls =>
    rintro _ rest c hqueue hcall rfl hhearth hlive
    refine ⟨fun v hcur hst hhas hentry haux halign => ?_, fun hdone hidle hfine => ?_⟩
    · obtain ⟨a, haccs, hkind, htodo, hstarted⟩ := State.startCall_starts hc.hearths (hhearth.symm ▸ hcall) halign
      rw [hhearth] at hstarted
      exact ⟨_, a, _, congrArg Host.Outcome.next (State.stoveCallStart_of_resident hqueue hcall hlive hcur hst hhas hentry haux),
        hstarted, rfl, haccs, hkind, htodo⟩
    · obtain ⟨t, hnotes, hend⟩ := State.stoveCallComplete_of_ok hqueue hcall hlive hdone hidle hfine
      have ht : mwf {} t.hearths = true := hnotes.hearths ▸ hc.hearths
      have hsame : t.hearth h = s.hearth h := congrArg (mget ({} : Hearth) · (h : Nat)) hnotes.hearths
      have hpop := State.updHearth_hearth (h := h) ht fun x => { x with stove := { x.stove with queue := x.stove.queue.drop 1 } }
      have hdrop := State.updHearth_hearth (s := t.popStove h) (h := h) (mwf_mset _ _ _ _ ht) fun x =>
        { x with calls := x.calls.filter fun d => decide (d.id ≠ c.id) }
      have hafter := hdrop.trans (congrArg (fun x : Hearth => { x with calls := x.calls.filter fun d => decide (d.id ≠ c.id) }) hpop)
      rw [hsame] at hafter
      refine ⟨_, congrArg Host.Outcome.next hend, ?_, congrArg Hearth.calls hafter⟩
      exact (congrArg (fun x : Hearth => x.stove.queue) hafter).trans (congrArg (List.drop 1) hqueue)

end Sys2Proof.Machine

namespace Sys2Proof.Machine

open Sys2Proof.Safety

/-! # Chains of one number (O39) -/

/-- A row group whose work order has ended: it waits for no A rows (R494). -/
def endedGroup : Group :=
  { gal := 1, wo := 5, stoker := 0, pc := 0, seq := 1, rows := 1, ha := 2, aPos := 0, hb := 3, bPos := 0, pos := 0, slot := 0
    discard := true }

/-- A chain of number 4 that takes its B tile from the latch of position 0. -/
def latchChain : Chain :=
  { id := 4, groups := [endedGroup], ord := 0, chunks := 1, kt := 32, planned := 1, fmtA := .fp16, sfmtA := .none, fmtB := .fp16
    sfmtB := .none, sparse := .dense, quad := false, trans := false, sb := false, kind := .fp }

/-- The tile in the latch. -/
def latchTile : Tile := { fmt := .fp16, sparse := .dense, sfmt := .none, quad := false, kt := 32, data := [] }

/-- Hearth 0 lists the chain and, under the same number, one whose B comes from a stream. -/
def twinChains : State :=
  { hearths := [(0, { chains := [latchChain, { latchChain with sb := true }], latches := [(0, some latchTile)] })] }

/-- For each chain of a Hearth, whether it holds a B tile. -/
def State.chainTiles (s : State) (h : Nat) : List Bool := (s.hearth h).chains.map fun c => c.tile.isSome

/-- CHAIN_START gives each chain the tile that its own SB asks for. -/
theorem twinChains_chainTiles : (twinChains.chainStart 0 4).chainTiles 0 = [true, false] := by decide

/-- Refutes O39: the statement takes every state, also one whose Hearth lists two chains under one number. CHAIN_START changes
both, and the model gives each the latch's tile only where its own SB is 0; the statement goes by the SB of the first for both. -/
theorem not_chainsAndFlues : ¬ Obligations.ChainsAndFlues := by
  unfold Obligations.ChainsAndFlues
  intro ⟨hchains, _⟩
  obtain ⟨-, hstart, -⟩ := hchains twinChains 0 4 _ latchChain (Laws.canon_of _ (by decide)) rfl rfl
  have hnext := hstart endedGroup [] (some latchTile) 0 rfl rfl rfl rfl rfl rfl rfl (by decide) (by decide) rfl (.inr nofun)
    (.inl ⟨by decide, rfl⟩)
  have htiles := congrArg (fun t : State => t.chainTiles 0) (Host.Outcome.next.inj hnext)
  exact absurd (twinChains_chainTiles.symm.trans htiles) (by decide)

end Sys2Proof.Machine

namespace Sys2Proof.Machine

open Sys2Proof.Safety

/-! # Folio bays -/

/-! ### A bay after an update -/

theorem State.setBay_bay_ne (s : State) {b j : Nat} (hj : j ≠ b) (x : Bay) : (s.setBay b x).bay j = s.bay j :=
  mget_mset_ne _ _ _ _ _ hj

section Bays
variable {s : State} (hb : mwf {} s.bays = true) (b : Nat)
include hb

theorem State.mwf_setBay (x : Bay) : mwf {} (s.setBay b x).bays = true := mwf_mset _ _ _ _ hb

theorem State.setBay_bay (x : Bay) : (s.setBay b x).bay b = x := mget_mset_same _ _ _ _ hb

/-- Written back as it was, the bay leaves the device as it was. -/
theorem State.setBay_self : s.setBay b (s.bay b) = s := congrArg (fun m => { s with bays := m }) (mset_mget _ _ _ hb)

theorem State.updBay_setBay (x : Bay) (f : Bay → Bay) : (s.setBay b x).updBay b f = s.setBay b (f x) := by
  rw [State.updBay, State.setBay_bay hb]
  exact congrArg (fun m => { s with bays := m }) (mset_mset _ _ _ _ _ hb)

end Bays

/-! ### Management requests -/

/-- The bay once a management request has left: it is the last of those outstanding. -/
def Bay.asked (x : Bay) (j : MgJob) : Bay := { x with mg := x.mg ++ [j], txSeq := x.txSeq + 1 }

theorem State.sendMg_setBay {s : State} (hb : mwf {} s.bays = true) (b : Nat) (x : Bay) (j : MgJob) (op : MgOp) (arg : Nat)
    (bs : List Byte) : (s.setBay b x).sendMg b j op arg bs = (s.setBay b (x.asked j)).send (.folioMg b op arg bs) := by
  rw [State.sendMg, State.updBay_setBay hb]
  rfl

theorem State.writeSeal_setBay {s : State} (hb : mwf {} s.bays = true) (b : Nat) (x : Bay) (j : MgJob) :
    (s.setBay b x).writeSeal b j =
      (s.setBay b (x.asked j)).send (.folioSeal b (s.dev.unit.setWidth 64) (x.sealEpoch + 1)) := by
  simp only [State.writeSeal, State.setBay_bay hb, State.updBay_setBay hb]
  rfl

/-! ### What the bay controllers do beside their answers

No link comes up and no writes are held back by it. -/

/-- No link comes up, and no hold begins. -/
structure Bay.Calmer (x y : Bay) : Prop where
  link : x.linkUp = false → y.linkUp = false
  hold : x.pwrHold = false → y.pwrHold = false

/-- No link comes up at any bay and no hold begins; Fenline and PWR_WARN_N are as they were. -/
structure Calm (s t : State) : Prop where
  bays : mwf {} s.bays = true → mwf {} t.bays = true ∧ ∀ j, (s.bay j).Calmer (t.bay j)
  fen : t.fen = s.fen
  warn : t.acc.pwrWarn = s.acc.pwrWarn

theorem Bay.Calmer.refl (x : Bay) : x.Calmer x := ⟨id, id⟩

namespace Calm
variable {s t u : State}

theorem of_bays (hbays : t.bays = s.bays) (hfen : t.fen = s.fen) (hwarn : t.acc.pwrWarn = s.acc.pwrWarn) : Calm s t where
  bays h := by
    have hbay (j : Nat) : t.bay j = s.bay j := congrArg (mget ({} : Bay) · j) hbays
    exact ⟨hbays ▸ h, fun j => hbay j ▸ .refl _⟩
  fen := hfen
  warn := hwarn

theorem rfl' : Calm s s := of_bays rfl rfl rfl

theorem trans (h : Calm s t) (k : Calm t u) : Calm s u where
  bays hs := by
    obtain ⟨ht, hst⟩ := h.bays hs
    obtain ⟨hu, htu⟩ := k.bays ht
    exact ⟨hu, fun j => ⟨(htu j).link ∘ (hst j).link, (htu j).hold ∘ (hst j).hold⟩⟩
  fen := k.fen.trans h.fen
  warn := k.warn.trans h.warn

theorem ite {c : Prop} [Decidable c] (ht : c → Calm s t) (hu : ¬ c → Calm s u) : Calm s (if c then t else u) := by
  split
  · exact ht ‹_›
  · exact hu ‹_›

theorem foldl {β : Type} {f : State → β → State} (h : ∀ t x, Calm t (f t x)) (l : List β) (s : State) : Calm s (l.foldl f s) :=
  List.foldlRecOn (motive := fun (t : State) => Calm s t) _ _ .rfl' fun t ht x _ => ht.trans (h t x)

end Calm

section Calm
variable (s : State) (b : Nat)

theorem State.updBay_calm {f : Bay → Bay} (hf : ∀ x : Bay, x.Calmer (f x)) : Calm s (s.updBay b f) where
  bays h := by
    refine ⟨State.mwf_setBay h b _, fun j => ?_⟩
    obtain rfl | hj := eq_or_ne j b
    · rw [State.updBay, State.setBay_bay h]
      exact hf _
    · rw [State.updBay, State.setBay_bay_ne s hj]
      exact .refl _
  fen := rfl
  warn := rfl

theorem State.send_calm (o : Out) : Calm s (s.send o) := .of_bays rfl rfl rfl

theorem State.sendMg_calm (j : MgJob) (op : MgOp) (arg : Nat) (bs : List Byte) : Calm s (s.sendMg b j op arg bs) :=
  Calm.trans (s.updBay_calm b fun _ => by exact ⟨id, id⟩) (State.send_calm ..)

theorem State.writeSeal_calm (j : MgJob) : Calm s (s.writeSeal b j) :=
  Calm.trans (s.updBay_calm b fun _ => by exact ⟨id, id⟩) (State.send_calm ..)

theorem State.startFlash_calm : Calm s s.startFlash := by
  unfold State.startFlash
  split <;> exact .of_bays rfl rfl rfl

theorem State.needKey_calm (g : Nat) : Calm s (s.needKey g).1 := by
  unfold State.needKey
  split
  · exact .rfl'
  · refine Calm.trans ?_ (State.startFlash_calm _)
    exact .of_bays rfl rfl rfl

theorem State.sendRequest_calm (p : Piece) : Calm s (s.sendRequest b p) := by
  have hseq := s.updBay_calm b (f := fun x => { x with txSeq := x.txSeq + 1 }) fun _ => ⟨id, id⟩
  unfold State.sendRequest
  dsimp only
  refine Calm.ite (fun _ => ?_) fun _ => hseq.trans (.of_bays rfl rfl rfl)
  have hkey := hseq.trans (State.needKey_calm _ p.gal)
  revert hkey
  generalize State.needKey _ p.gal = r
  obtain ⟨t, key⟩ := r
  intro hkey
  have hnext := t.updBay_calm b (f := fun x => { x with nextWr := t.tb.elapsed + wrInterval }) fun _ => ⟨id, id⟩
  exact (hkey.trans hnext).trans (.of_bays rfl rfl rfl)

theorem State.bayDrained_calm : Calm s (s.bayDrained b) := by
  refine Calm.ite (fun _ => .ite (fun _ => ?_) fun _ => .rfl') fun _ => .ite (fun _ => ?_) fun _ => .rfl'
  · exact Calm.trans (s.updBay_calm b fun _ => by exact ⟨id, id⟩) (State.sendMg_calm ..)
  · exact s.updBay_calm b fun _ => ⟨fun _ => rfl, id⟩

theorem State.pumpBay_calm : Calm s (s.pumpBay b) :=
  (Calm.foldl (fun t p => .ite (fun _ => t.sendRequest_calm b p) fun _ => .rfl') _ s).trans (State.bayDrained_calm _ b)

theorem State.pumpBays_calm : Calm s s.pumpBays := .foldl (fun t b => t.pumpBay_calm b) _ s

end Calm

/-! ### Every bay in its turn -/

/-- A step that changes one place in one way, taken at each place of a list once. -/
theorem foldl_pointwise {α : Type} {ok : State → Prop} {read : State → Nat → α} {f : State → Nat → State} {g : α → α}
    (h : ∀ t c, ok t → ok (f t c) ∧ read (f t c) c = g (read t c) ∧ ∀ j, j ≠ c → read (f t c) j = read t j) {l : List Nat}
    (hl : l.Nodup) {s : State} (hs : ok s) :
    ok (l.foldl f s) ∧ ∀ j, read (l.foldl f s) j = if j ∈ l then g (read s j) else read s j := by
  induction l generalizing s with
  | nil => exact ⟨hs, fun _ => rfl⟩
  | cons c l ih =>
    obtain ⟨hc, hl⟩ := List.nodup_cons.1 hl
    obtain ⟨hok, hself, hrest⟩ := h s c hs
    obtain ⟨hok', hall⟩ := ih hl hok
    refine ⟨hok', fun j => (hall j).trans ?_⟩
    obtain rfl | hj := eq_or_ne j c
    · rw [if_neg hc, if_pos List.mem_cons_self, hself]
    · rw [hrest j hj]
      simp [hj]

/-- Messages leave one after another. -/
def State.sends (t : State) (os : List Out) : State := { t with out := t.out ++ os }

theorem State.sends_nil (t : State) : t.sends [] = t := by
  rw [State.sends, List.append_nil]

/-- A step at bay `c` changes that bay to `g` of what it was, and sends what `e` says of it. -/
def PerBay (f : State → Nat → State) (g : Bay → Bay) (e : Nat → Bay → List Out) : Prop :=
  ∀ t c, mwf {} t.bays = true → f t c = (t.setBay c (g (t.bay c))).sends (e c (t.bay c))

namespace PerBay
variable {f : State → Nat → State} {g : Bay → Bay} {e : Nat → Bay → List Out} (h : PerBay f g e) {t : State}
  (ht : mwf {} t.bays = true)
include h ht

theorem canon (c : Nat) : mwf {} (f t c).bays = true := by
  rw [h t c ht]
  exact State.mwf_setBay ht c _

theorem self (c : Nat) : (f t c).bay c = g (t.bay c) := by
  rw [h t c ht]
  exact State.setBay_bay ht c _

theorem others {c j : Nat} (hj : j ≠ c) : (f t c).bay j = t.bay j := by
  rw [h t c ht]
  exact t.setBay_bay_ne hj _

variable {l : List Nat} (hl : l.Nodup)
include hl

theorem foldl : mwf {} (l.foldl f t).bays = true ∧ ∀ j, (l.foldl f t).bay j = if j ∈ l then g (t.bay j) else t.bay j :=
  foldl_pointwise (ok := fun t => mwf {} t.bays = true) (read := State.bay)
    (fun _ c hu => ⟨h.canon hu c, h.self hu c, fun _ => h.others hu⟩) hl ht

theorem mem_out {o : Out} (ho : o ∈ t.out ∨ ∃ j ∈ l, o ∈ e j (t.bay j)) : o ∈ (l.foldl f t).out := by
  induction l generalizing t with
  | nil => simpa using ho
  | cons c l ih =>
    obtain ⟨hc, hl⟩ := List.nodup_cons.1 hl
    have hout : (f t c).out = t.out ++ e c (t.bay c) := by
      rw [h t c ht]
      rfl
    refine ih (h.canon ht c) hl ?_
    rw [hout]
    obtain ho | ⟨j, hj, ho⟩ := ho
    · exact .inl (List.mem_append_left _ ho)
    · obtain rfl | hj := List.mem_cons.1 hj
      · exact .inl (List.mem_append_right _ ho)
      · exact .inr ⟨j, hj, by rwa [h.others ht (ne_of_mem_of_not_mem hj hc)]⟩

end PerBay

/-- What a calm step makes true of its own bay, and calm steps keep, is true of every bay of a list in the end. -/
theorem foldl_calm_reaches {f : State → Nat → State} (hf : ∀ t c, Calm t (f t c)) {P : Bay → Prop}
    (hkeep : ∀ {x y : Bay}, x.Calmer y → P x → P y) (hmake : ∀ t c, mwf {} t.bays = true → P ((f t c).bay c)) {l : List Nat}
    {s : State} (hs : mwf {} s.bays = true) {j : Nat} (hj : j ∈ l) : P ((l.foldl f s).bay j) := by
  induction l generalizing s with
  | nil => simp at hj
  | cons c l ih =>
    have hcanon := ((hf s c).bays hs).1
    obtain rfl | hj := List.mem_cons.1 hj
    · exact hkeep (((Calm.foldl hf l _).bays hcanon).2 j) (hmake s j hs)
    · exact ih hcanon hj

end Sys2Proof.Machine

namespace Sys2Proof.Machine

open Sys2Proof.Safety

/-! # FOL_ commands, timers, bay resets and the power-fail warning (O45) -/

/-! ### The judgement of a FOL_COMMAND write (R645, R668, R749) -/

section Command
variable {s : State} {p : Port} {b : Nat} {c : FolCmd} (ok : Bool)

theorem State.folCommand_of_notOwner (hown : s.holds p 2 = false) :
    s.folCommand p b c ok = s.setBay b { s.bay b with result := .notOwner } :=
  if_pos (by simp [hown])

variable (hown : s.holds p 2 = true)
include hown

theorem State.folCommand_of_busy (hbusy : (s.bay b).busy = true) :
    s.folCommand p b c ok = s.setBay b { s.bay b with result := .busy } :=
  (if_neg (by simp [hown])).trans (if_pos hbusy)

variable (hidle : (s.bay b).busy = false)
include hidle

theorem State.folCommand_of_badState (hbad : (s.bay b).allowsCmd c = false ∨ s.faults.sealed = true ∧ c.keyed = true) :
    s.folCommand p b c ok = s.setBay b { s.bay b with result := .badState } :=
  (if_neg (by simp [hown])).trans ((if_neg (by simp [hidle])).trans (if_pos (by simpa using hbad)))

variable (hallow : (s.bay b).allowsCmd c = true) (hopen : s.faults.sealed = false ∨ c.keyed = false)
include hallow hopen

theorem State.folCommand_of_badTarget (hc : c = .exportKeys) :
    s.folCommand p b c false = s.setBay b { s.bay b with result := .badTarget } := by
  have hgood : ¬ (!(s.bay b).allowsCmd c || s.faults.sealed && c.keyed) = true := by obtain h | h := hopen <;> simp [hallow, h]
  exact (if_neg (by simp [hown])).trans ((if_neg (by simp [hidle])).trans ((if_neg hgood).trans (if_pos ⟨hc, rfl⟩)))

variable (hb : mwf {} s.bays = true)
include hb

/-- An accepted command begins at once or waits for PWR_WARN_N. -/
theorem State.folCommand_of_accepted : s.folCommand p b c true =
    if ((s.bay b).pwrHold && c.keyed) = true then s.setBay b { s.bay b with busy := true, cmd := some c, cmdHeld := true }
    else (s.setBay b { s.bay b with busy := true, cmd := some c, cmdHeld := false }).beginFol b c := by
  have hgood : ¬ (!(s.bay b).allowsCmd c || s.faults.sealed && c.keyed) = true := by obtain h | h := hopen <;> simp [hallow, h]
  refine (if_neg (by simp [hown])).trans ((if_neg (by simp [hidle])).trans ((if_neg hgood).trans ((if_neg (by simp)).trans ?_)))
  simp only [State.updBay, State.setBay_bay hb]
  cases (s.bay b).pwrHold && c.keyed <;> rfl

end Command

/-- The row of the table that writes a command to FOL_COMMAND; of EXPORT, with a target whose chain verifies. -/
def folInstr (p : Port) (b : BayId) : FolCmd → Instr
  | .adopt => .adopt p b
  | .eject => .eject p b
  | .retire => .folRetire p b
  | .exportKeys => .folExport p b true
  | .acceptKeys => .accept p b
  | .commit => .folCommit p b

theorem exec_folInstr {s : State} (hs : Serving s) (p : Port) (b : BayId) (c : FolCmd) :
    exec (folInstr p b c) s = .next (s.folCommand p b c true) := by
  cases c <;> exact congrArg Host.Outcome.next (State.whenReady_of_serving hs _)

/-! ### What a command begins with (R646 to R650, R659, R660, R663) -/

/-- The bay once a command has begun. -/
def Bay.begun (x : Bay) (c : FolCmd) : Bay := { x with busy := true, cmd := some c, cmdHeld := false }

section Begins
variable {s : State} {p : Port} {b : Nat} (hb : mwf {} s.bays = true) (x : Bay)
include hb

theorem State.beginFol_adopt : (s.setBay b x).beginFol b .adopt =
    (s.setBay b ({ x with cmdHeld := false }.asked .adopt)).send (.folioSeal b (s.dev.unit.setWidth 64) (x.sealEpoch + 1)) := by
  simp only [State.beginFol, State.updBay_setBay hb, State.writeSeal_setBay hb]

theorem State.beginFol_retire : (s.setBay b x).beginFol b .retire =
    (s.setBay b ({ x with cmdHeld := false, st := .retired, reason := .none }.asked .retire)).send (.folioMg b .retire 0 []) := by
  simp only [State.beginFol, State.updBay_setBay hb, State.sendMg_setBay hb]

theorem State.beginFol_acceptKeys : (s.setBay b x).beginFol b .acceptKeys =
    (s.setBay b ({ x with cmdHeld := false }.asked .acceptRead)).send (.folioMg b .metaRead 1 []) := by
  simp only [State.beginFol, State.updBay_setBay hb, State.sendMg_setBay hb]

theorem State.beginFol_commit : (s.setBay b x).beginFol b .commit =
    (s.setBay b ({ x with cmdHeld := false }.asked (.commit true))).send (.folioMg b .ledgerCommit 0 []) := by
  simp only [State.beginFol, State.updBay_setBay hb, State.sendMg_setBay hb]

/-- EJECT with nothing at the bay sends LEDGER_COMMIT at once (R663). -/
theorem State.beginFol_eject (hnone : s.bayPieces b = []) : (s.setBay b x).beginFol b .eject =
    (s.setBay b ({ x with cmdHeld := false, ejecting := true, ejectAt := some s.tb.elapsed }.asked .ejectCommit)).send
      (.folioMg b .ledgerCommit 0 []) := by
  have hempty (y : Bay) : (s.setBay b y).bayPieces b = [] := hnone
  simp only [State.beginFol, State.updBay_setBay hb, State.bayDrained, State.setBay_bay hb, hempty, Option.isNone_none,
    List.isEmpty_nil, Bool.and_self, if_true, State.sendMg_setBay hb]
  rfl

omit hb in
/-- A key that is there is not drawn. -/
theorem State.needKey_of_some {g : Nat} {k : BitVec 512} (hk : mget none s.acc.keys g = some k) :
    s.needKey g = (s, k) := by
  simp [State.needKey, hk]

theorem State.beginFol_exportKeys (hkeys : ∀ g ∈ x.xferGals, ∃ k, mget none s.acc.keys g = some k) :
    (s.setBay b x).beginFol b .exportKeys =
      (s.setBay b ({ x with cmdHeld := false }.asked .exportKeys)).send (.folioRecord b x.xferGals) := by
  have hheld (y : Bay) : x.xferGals.foldl (fun t g => (t.needKey g).1) (s.setBay b y) = s.setBay b y := by
    refine List.foldlRecOn (motive := fun (t : State) => t = s.setBay b y) _ _ rfl fun t ht g hg => ?_
    obtain ⟨k, hk⟩ := hkeys g hg
    rw [ht, State.needKey_of_some (s := s.setBay b y) hk]
  have hgals : ({ x with cmdHeld := false } : Bay).xferGals = x.xferGals := rfl
  simp only [State.beginFol, State.updBay_setBay hb, State.setBay_bay hb, hgals, hheld]
  rfl

end Begins

/-! ### The timers (R650, R662) -/

/-- A management request of a timer to the bay, when its Folio is readable. -/
def State.askReadable (j : MgJob) (op : MgOp) (t : State) (b : Nat) : State :=
  if (t.bay b).st.readable then t.sendMg b j op 0 [] else t

theorem askReadable_perBay (j : MgJob) (op : MgOp) : PerBay (State.askReadable j op)
    (fun x => if x.st.readable then x.asked j else x) (fun b x => if x.st.readable then [.folioMg b op 0 []] else []) := by
  intro t c ht
  by_cases hread : (t.bay c).st.readable = true
  · simp only [State.askReadable, if_pos hread]
    rfl
  · simp only [State.askReadable, if_neg hread, State.setBay_self ht, State.sends_nil]

/-! ### Bay resets and EJECT's end (R663, R816) -/

theorem State.folReset_of_notOwner {s : State} {p : Port} (hown : s.holds p 2 = false) (b : Nat) :
    s.folReset p b = s.setBay b { s.bay b with result := .notOwner } :=
  if_pos (by simp [hown])

section Reset
variable {s : State} {p : Port} {b : Nat} (hown : s.holds p 2 = true)
include hown

theorem State.folReset_of_badState (hbad : (s.bay b).st = .absent ∨ (s.bay b).busy = true) :
    s.folReset p b = s.setBay b { s.bay b with result := .badState } :=
  (if_neg (by simp [hown])).trans (if_pos hbad)

/-- With no request on its way the link goes down at once. -/
theorem State.folReset_of_drained (hb : mwf {} s.bays = true) (hst : (s.bay b).st ≠ .absent) (hidle : (s.bay b).busy = false)
    (hstay : (s.bay b).ejecting = false) (hdone : (s.bay b).enumerating = false) (hsent : ∀ q ∈ s.bayPieces b, q.status ≠ .sent) :
    s.folReset p b = s.setBay b { s.bay b with
      busy := true, resetting := true, linkUp := false, enumerating := true, st := .absent, reason := .none, mg := [] } := by
  have hnone (y : Bay) : ((s.setBay b y).bayPieces b).any (fun q => decide (q.status = .sent)) = false := by
    simpa [State.bayPieces] using hsent
  refine (if_neg (by simp [hown])).trans ((if_neg (by simp [hst, hidle])).trans ?_)
  rw [State.updBay, State.bayDrained, State.setBay_bay hb]
  refine (if_neg (by simp [hstay])).trans ((if_pos ?_).trans (State.updBay_setBay hb b _ _))
  simp [hdone, hnone]

end Reset

theorem State.baySupplyOff_of_due {s : State} {b t : Nat} (hb : mwf {} s.bays = true) (hat : (s.bay b).ejectAt = some t)
    (heject : (s.bay b).ejecting = true) (hdue : t + ms 1 ≤ s.tb.elapsed) :
    s.baySupplyOff b = (s.setBay b { s.bay b with
      st := .absent, reason := .none, supply := false, linkUp := false, ejecting := false, ejectAt := none, mg := []
      busy := false, cmd := none, cmdHeld := false, result := .ok }).send (.bayEnable b false) := by
  have hgo : ¬ (!(s.bay b).ejecting || decide (s.tb.elapsed < t + ms 1)) = true := by simp [heject, hdue]
  simp only [State.baySupplyOff, hat]
  exact (if_neg hgo).trans (congrArg (State.send · (.bayEnable b false)) (State.updBay_setBay hb b _ _))

/-! ### The power-fail warning (R667 to R669) -/

/-- The bay controller stops its writes and sends LEDGER_COMMIT. -/
def State.holdBay (t : State) (b : Nat) : State :=
  let t := t.updBay b fun x => { x with pwrHold := true }
  if (t.bay b).linkUp then t.sendMg b (.commit false) .ledgerCommit 0 [] else t

theorem State.holdBay_eq {t : State} (ht : mwf {} t.bays = true) (b : Nat) : t.holdBay b =
    if (t.bay b).linkUp then (t.setBay b ({ t.bay b with pwrHold := true }.asked (.commit false))).send (.folioMg b .ledgerCommit 0 [])
    else t.setBay b { t.bay b with pwrHold := true } := by
  simp only [State.holdBay, State.updBay, State.setBay_bay ht, State.sendMg_setBay ht]

/-- The bay with its writes held back, and LEDGER_COMMIT sent when its link is up. -/
def Bay.warned (x : Bay) : Bay :=
  if x.linkUp then { x with pwrHold := true }.asked (.commit false) else { x with pwrHold := true }

theorem Bay.warned_pwrHold (x : Bay) : x.warned.pwrHold = true := by
  unfold Bay.warned
  split <;> rfl

theorem holdBay_perBay :
    PerBay State.holdBay Bay.warned (fun b x => if x.linkUp then [.folioMg b .ledgerCommit 0 []] else []) := by
  intro t c ht
  rw [State.holdBay_eq ht, Bay.warned]
  by_cases hlink : (t.bay c).linkUp = true
  · simp only [if_pos hlink]
    rfl
  · simp only [if_neg hlink, State.sends_nil]

/-- Every bay controller holds its writes, and those with a link send LEDGER_COMMIT. -/
theorem State.holdBays_holds {s : State} (hb : mwf {} s.bays = true) {a : Nat} (ha : a < 8) :
    (s.holdBays.bay a).pwrHold = true ∧ ((s.bay a).linkUp = true → .folioMg a .ledgerCommit 0 [] ∈ s.holdBays.out) := by
  have hin := List.mem_range.2 ha
  refine ⟨?_, fun hlink => ?_⟩
  · have hbay : s.holdBays.bay a = (s.bay a).warned :=
      ((holdBay_perBay.foldl hb List.nodup_range).2 a).trans (if_pos hin)
    rw [hbay]
    exact (s.bay a).warned_pwrHold
  · exact holdBay_perBay.mem_out hb List.nodup_range (.inr ⟨a, hin, by simp [hlink]⟩)

@[simp] theorem State.holdBays_acc (s : State) : s.holdBays.acc = s.acc := by
  refine List.foldlRecOn (motive := fun (t : State) => t.acc = s.acc) _ _ rfl fun t ht b _ => ?_
  dsimp only
  split
  · exact ht
  · exact ht

theorem State.beginFol_calm (s : State) (b : Nat) (c : FolCmd) : Calm s (s.beginFol b c) := by
  refine Calm.trans (s.updBay_calm b (f := fun x => { x with cmdHeld := false }) fun _ => ⟨id, id⟩) ?_
  cases c with
  | adopt => exact State.writeSeal_calm ..
  | eject => exact Calm.trans (State.updBay_calm _ b fun _ => by exact ⟨id, id⟩) (State.bayDrained_calm _ b)
  | retire => exact Calm.trans (State.updBay_calm _ b fun _ => by exact ⟨id, id⟩) (State.sendMg_calm ..)
  | exportKeys =>
    have hkeys (t : State) (gs : List Nat) : Calm t (gs.foldl (fun t g => (t.needKey g).1) t) :=
      .foldl (fun t g => t.needKey_calm g) gs t
    exact (hkeys ..).trans (Calm.trans (State.updBay_calm _ b fun _ => by exact ⟨id, id⟩) (State.send_calm ..))
  | acceptKeys => exact State.sendMg_calm ..
  | commit => exact State.sendMg_calm ..

/-- The bay controller sends again what it held, and the command that waited begins. -/
def State.releaseBay (t : State) (b : Nat) : State :=
  let held := (t.bay b).cmdHeld
  let t := t.updBay b fun x => { x with pwrHold := false }
  let t := match (t.bay b).cmd, held with
    | some c, true => t.beginFol b c
    | _, _ => t
  t.pumpBay b

theorem State.releaseBay_after (t : State) (b : Nat) : Calm (t.updBay b fun x => { x with pwrHold := false }) (t.releaseBay b) := by
  unfold State.releaseBay
  dsimp only
  split
  · exact (State.beginFol_calm ..).trans (State.pumpBay_calm ..)
  · exact State.pumpBay_calm ..

theorem State.releaseBay_calm (t : State) (b : Nat) : Calm t (t.releaseBay b) :=
  Calm.trans (t.updBay_calm b fun _ => by exact ⟨id, fun _ => rfl⟩) (t.releaseBay_after b)

theorem State.releaseBay_pwrHold {t : State} (ht : mwf {} t.bays = true) (b : Nat) : ((t.releaseBay b).bay b).pwrHold = false := by
  refine (((t.releaseBay_after b).bays (State.mwf_setBay ht b _)).2 b).hold ?_
  rw [State.updBay, State.setBay_bay ht]

/-- Every bay controller sends again what it held. -/
def State.releaseBays (s : State) : State := (List.range 8).foldl State.releaseBay s

theorem State.releaseBays_calm (s : State) : Calm s s.releaseBays := .foldl State.releaseBay_calm _ s

theorem State.releaseBays_pwrHold {s : State} (hs : mwf {} s.bays = true) {a : Nat} (ha : a < 8) :
    (s.releaseBays.bay a).pwrHold = false :=
  foldl_calm_reaches State.releaseBay_calm (P := fun x => x.pwrHold = false) (fun h => h.hold)
    (fun _ c ht => State.releaseBay_pwrHold ht c) hs (List.mem_range.2 ha)

/-- PWR_WARN_N has risen on a device that no thermal trip holds. -/
theorem exec_pwrWarnNRelease {s : State} (hlive : s.pace.tripped = false) : exec .pwrWarnNRelease s =
    .next (s.updAcc' fun x => { x with pwrWarn := false }).startFlash.releaseBays :=
  congrArg Host.Outcome.next (if_neg (by simp [hlive, State.updAcc']))

/-- PWR_WARN_N has fallen and stays low. -/
theorem exec_pwrWarnNFall (s : State) : exec .pwrWarnNFall s = .next (State.holdBays (s.updAcc' fun x => { x with
    pwrWarn := true, flash := if x.flash = some .accession then none else x.flash })) := rfl

/-! ### The obligation -/

/-- Settles O45: a FOL_COMMAND write is judged and begins, each command by what it sends first; the timers, the warning and its
end go bay by bay. -/
theorem folioCommands : Obligations.FolioCommands := by
  unfold Obligations.FolioCommands
  rintro s p b x hc hs rfl
  have hb := hc.bays
  refine ⟨?judged, ?begun, ?nonce, ?timers, ?resetOwner, ?resetState, ?reset, ?supply, ?fall, ?rise⟩
  case judged =>
    intro c f hf
    have hc : c = folInstr p b f := by
      obtain ⟨rfl, rfl⟩ | ⟨rfl, rfl⟩ | ⟨rfl, rfl⟩ | ⟨rfl, rfl⟩ | ⟨rfl, rfl⟩ | ⟨rfl, rfl⟩ := hf <;> rfl
    rw [hc, exec_folInstr hs]
    refine ⟨fun hown => ?_, fun hown hbusy => ?_, fun hown hidle hbad => ?_, fun hown hidle hallow hopen hheld hkeyed => ?_⟩
    · rw [State.folCommand_of_notOwner true hown]
    · rw [State.folCommand_of_busy true hown hbusy]
    · rw [State.folCommand_of_badState true hown hidle hbad]
    · rw [State.folCommand_of_accepted hown hidle hallow hopen hb, if_pos (by simp [hheld, hkeyed])]
  case begun =>
    intro hown hidle hnohold hunsealed
    have hbegin {c : FolCmd} {t : State} (hallow : (s.bay b).allowsCmd c = true)
        (ht : (s.setBay b ((s.bay b).begun c)).beginFol b c = t) : exec (folInstr p b c) s = .next t := by
      rw [exec_folInstr hs, State.folCommand_of_accepted hown hidle hallow (.inl hunsealed) hb, if_neg (by simp [hnohold])]
      exact congrArg Host.Outcome.next ht
    refine ⟨fun hst hreason => ?_, fun hst hnone => ?_, fun hst => ⟨?_, ?_, ?_, fun hkeys => ?_⟩, fun hst hreason => ?_⟩
    · exact hbegin (c := .adopt) (by simpa [Bay.allowsCmd, hst] using hreason) (State.beginFol_adopt hb _)
    · exact hbegin (c := .eject) (by simpa [Bay.allowsCmd] using hst) (State.beginFol_eject hb _ hnone)
    · exact hbegin (c := .retire) hst (State.beginFol_retire hb _)
    · exact hbegin (c := .commit) hst (State.beginFol_commit hb _)
    · exact congrArg Host.Outcome.next ((State.whenReady_of_serving hs _).trans
        (State.folCommand_of_badTarget hown hidle hst (.inl hunsealed) rfl))
    · exact hbegin (c := .exportKeys) hst (State.beginFol_exportKeys hb ((s.bay b).begun .exportKeys) hkeys)
    · exact hbegin (c := .acceptKeys) (by simp [Bay.allowsCmd, hst, hreason]) (State.beginFol_acceptKeys hb _)
  case nonce =>
    intro n hn hst
    refine congrArg Host.Outcome.next ((State.whenReady_of_serving hs _).trans ?_)
    rw [List.take_of_length_le hn.le, State.chalNonce, State.updBay, State.setBay_bay hb]
    exact (if_neg hst).trans (State.sendMg_setBay hb ..)
  case timers =>
    intro c j op hcj
    have hexec : exec c s = .next ((List.range 8).foldl (State.askReadable j op) s) := by
      obtain ⟨rfl, rfl, rfl⟩ | ⟨rfl, rfl, rfl⟩ := hcj <;> rfl
    have hbays := ((askReadable_perBay j op).foldl hb List.nodup_range (l := List.range 8)).2
    refine ⟨_, hexec, fun a ha => (hbays a).trans ?_, fun a ha hread => ⟨?_, (hbays a).trans ?_⟩⟩
    · obtain ha | ha := ha
      · exact if_neg (by simpa using ha)
      · simp [ha]
    · exact (askReadable_perBay j op).mem_out hb List.nodup_range (.inr ⟨a, List.mem_range.2 ha, by simp [hread]⟩)
    · rw [if_pos (List.mem_range.2 ha), if_pos hread]
      rfl
  case resetOwner =>
    exact fun hown => congrArg Host.Outcome.next ((State.whenReady_of_serving hs _).trans (State.folReset_of_notOwner hown b))
  case resetState =>
    exact fun hown hbad => congrArg Host.Outcome.next
      ((State.whenReady_of_serving hs _).trans (State.folReset_of_badState hown hbad))
  case reset =>
    exact fun hown hst hidle hstay hdone hsent => congrArg Host.Outcome.next
      ((State.whenReady_of_serving hs _).trans (State.folReset_of_drained hown hb hst hidle hstay hdone hsent))
  case supply =>
    exact fun t hat heject hdue => congrArg Host.Outcome.next (State.baySupplyOff_of_due hb hat heject hdue)
  case fall =>
    refine ⟨_, exec_pwrWarnNFall s, ?_, fun a ha => ?_⟩
    · rw [State.holdBays_acc]
      rfl
    · exact State.holdBays_holds (s := s.updAcc' _) hb ha
  case rise =>
    have hcalm := State.startFlash_calm (s.updAcc' fun x => { x with pwrWarn := false })
    exact ⟨_, exec_pwrWarnNRelease hs.live, (hcalm.trans (State.releaseBays_calm _)).warn,
      fun a ha => State.releaseBays_pwrHold (hcalm.bays hb).1 ha⟩

end Sys2Proof.Machine

namespace Sys2Proof.Machine

open Sys2Proof.Safety

/-! # Folio links: frames, retries, losses and enumeration slots (O44) -/

/-! ### A failed piece

Its end reaches the Hearths and the work in flight; no bay and no Fenline port does it reach. -/

/-- `t` is `s` but for the Hearths, the Cabinets, the work in flight and the free values taken. -/
def Within (s t : State) : Prop :=
  t = { s with hearths := t.hearths, cabinets := t.cabinets, wos := t.wos, accs := t.accs, pieces := t.pieces, free := t.free }

namespace Within
variable {s t u : State}

theorem rfl' : Within s s := rfl

theorem trans (h : Within s t) (k : Within t u) : Within s u := by
  unfold Within at k
  rw [h] at k
  exact k

theorem ite {c : Prop} [Decidable c] (ht : c → Within s t) (hu : ¬ c → Within s u) : Within s (if c then t else u) := by
  split
  · exact ht ‹_›
  · exact hu ‹_›

theorem foldl {β : Type} {f : State → β → State} (h : ∀ t x, Within t (f t x)) (l : List β) (s : State) :
    Within s (l.foldl f s) :=
  List.foldlRecOn (motive := fun (t : State) => Within s t) _ _ .rfl' fun t ht x _ => ht.trans (h t x)

theorem bays (h : Within s t) : t.bays = s.bays := by rw [h]
theorem fen (h : Within s t) : t.fen = s.fen := by rw [h]
theorem acc (h : Within s t) : t.acc = s.acc := by rw [h]

end Within

section Within
variable (s : State)

theorem State.endWo_within (id : Nat) (d : Decision) : Within s (s.endWo id d) := .ite (fun _ => rfl) fun _ => .rfl'

theorem State.countCabFault_within (h id : Nat) : Within s (s.countCabFault h id) := by
  unfold State.countCabFault
  split
  · exact .ite (fun _ => .rfl') fun _ => rfl
  · exact .rfl'

theorem State.countCabFault_accs (h id : Nat) : (s.countCabFault h id).accs = s.accs := by
  unfold State.countCabFault
  split
  · split <;> rfl
  · rfl

variable {s}

/-- The access with all it was still to send dropped, and its failure noted. -/
def Acc.failed (code : BitVec 8) (a : Acc) : Acc := { a with todo := [], err := if a.err.isSome then a.err else some code }

theorem Acc.failed_err (code : BitVec 8) (a : Acc) : (a.failed code).err.isSome = true := by
  cases h : a.err <;> simp [Acc.failed, h]

/-- The access sends nothing more and has failed; its work order ends, if it has one. -/
theorem State.accFault_of_some {id : Nat} {a : Acc} (ha : s.acc? id = some a) (code : BitVec 8) :
    ∃ u, (Within s u ∧ u.accs = (s.updAcc id (Acc.failed code)).accs) ∧
      (s.accFault id code = u ∨ ∃ w d, s.accFault id code = u.endWo w d) := by
  have hupd : Within s (s.updAcc id (Acc.failed code)) := rfl
  unfold State.accFault
  rw [ha]
  dsimp only
  cases a.wo <;> dsimp only
  on_goal 1 => refine ⟨_, ?_, .inl rfl⟩
  on_goal 2 => refine ⟨_, ?_, .inr ⟨_, _, rfl⟩⟩
  all_goals
    split
    case h_4 => exact ⟨rfl, rfl⟩
    case h_5 => exact ⟨rfl, rfl⟩
    all_goals exact ⟨hupd.trans (State.countCabFault_within ..), State.countCabFault_accs ..⟩

variable (s)

theorem State.accFault_within (id : Nat) (code : BitVec 8) : Within s (s.accFault id code) := by
  cases ha : s.acc? id with
  | none => simp only [State.accFault, ha, Within.rfl']
  | some a =>
    obtain ⟨u, ⟨hu, -⟩, h | ⟨w, d, h⟩⟩ := State.accFault_of_some ha code <;> rw [h]
    · exact hu
    · exact hu.trans (u.endWo_within w d)

/-- Every access of that number has failed. -/
def State.AccFailed (id : Nat) : Prop := ∀ a ∈ s.accs, a.id = id → a.err.isSome = true

theorem State.accFault_failed (id : Nat) (code : BitVec 8) : (s.accFault id code).AccFailed id := by
  cases ha : s.acc? id with
  | none =>
    simp only [State.accFault, ha]
    exact fun a hmem hid => absurd hid (by simpa using List.find?_eq_none.1 ha a hmem)
  | some a =>
    obtain ⟨u, ⟨-, haccs⟩, h⟩ := State.accFault_of_some ha code
    have hu : u.AccFailed id := by
      intro b hb hid
      rw [haccs] at hb
      obtain ⟨c, -, rfl⟩ := List.mem_map.1 hb
      by_cases hc : c.id = id
      · rw [if_pos hc]
        exact c.failed_err code
      · rw [if_neg hc] at hid
        exact absurd hid hc
    obtain h | ⟨w, d, h⟩ := h <;> rw [h]
    · exact hu
    · unfold State.endWo
      split
      · intro b hb hid
        obtain ⟨c, hc, rfl⟩ := List.mem_map.1 hb
        have hsame : ∀ p : Prop, [Decidable p] → (if p then { c with todo := [] } else c).id = c.id ∧
            (if p then { c with todo := [] } else c).err = c.err := fun p _ => by split <;> exact ⟨rfl, rfl⟩
        rw [(hsame _).2]
        exact hu c hc ((hsame _).1.symm.trans hid)
      · exact hu

theorem State.pieceFault_within (p : Piece) (code : BitVec 8) : Within s (s.pieceFault p code) := by
  unfold State.pieceFault
  split
  · exact s.accFault_within ..
  · split
    · exact s.endWo_within ..
    · exact .rfl'

theorem State.settleRels_within (h k : Nat) : Within s (s.settleRels h k) := by
  unfold State.settleRels
  split
  · exact .rfl'
  · rfl

theorem State.settleStream_within (h k d : Nat) : Within s (s.settleStream h k d) := by
  unfold State.settleStream
  split
  · exact .rfl'
  · exact .ite (fun _ => rfl) fun _ => rfl

theorem State.settleRestart_within (h k d : Nat) : Within s (s.settleRestart h k d) := by
  unfold State.settleRestart
  split
  · exact .rfl'
  · split
    · exact .rfl'
    · exact .ite (fun _ => .rfl') fun _ => rfl

theorem State.takeTile_within (x : Stream) (pos : Nat) (trans : Bool) : Within s (s.takeTile x pos trans).1 := by
  unfold State.takeTile
  dsimp only
  split
  · exact .rfl'
  · split
    · refine List.foldlRecOn (motive := fun (a : State × List Nat) => Within s a.1) _ _ .rfl' fun a ha _ _ => ?_
      exact ha.trans rfl
    · exact .rfl'

theorem State.consume_within (h k d a n : Nat) : Within s (s.consume h k d a n) := by
  have hstream : Within s (s.updStream h k d fun x => x.consume a n) := rfl
  exact (hstream.trans (State.settleStream_within ..)).trans (State.settleRestart_within ..)

theorem State.fillLoadB_within (h : Nat) (l : LoadB) : Within s (s.fillLoadB h l) := by
  unfold State.fillLoadB
  split
  · exact .rfl'
  · dsimp only
    refine .ite (fun _ => .rfl') fun _ => ?_
    refine Within.trans ?_ (State.consume_within ..)
    exact (s.takeTile_within ..).trans rfl

theorem State.setStream_within (h k d : Nat) (v : Option Stream) : Within s (s.setStream h k d v) := rfl

theorem State.unbindHalted_within (h k : Nat) : Within s (s.unbindHalted h k) :=
  .ite (fun _ => .foldl (fun t _ => .ite (fun _ => t.setStream_within ..) fun _ => .rfl') _ s) fun _ => .rfl'

theorem State.settleLatches_within (h : Nat) : Within s (s.settleLatches h) := .foldl (fun t l => t.fillLoadB_within h l) _ s

variable {s}

/-- A failed access is dropped, and a call's with it fails. -/
theorem State.finishAcc_within {id : Nat} (hfailed : s.AccFailed id) : Within s (s.finishAcc id) := by
  unfold State.finishAcc
  split
  · exact .rfl'
  next a ha =>
    have herr : a.err.isSome = true := hfailed a (List.mem_of_find?_eq_some ha) (by simpa using List.find?_some ha)
    have hcall (c : Nat) (f : State → Call → State) : Within s ((s.dropAcc id).callAccEnds a c f) := by
      unfold State.callAccEnds
      split
      · rfl
      · rw [if_pos herr]
        rfl
    simp only [herr, if_true]
    refine .ite (fun _ => .rfl') fun _ => ?_
    split
    case h_8 => exact hcall _ _
    case h_9 => exact hcall _ _
    case h_10 => exact hcall _ _
    all_goals exact rfl

variable (s)

/-- A piece that fails reaches no bay and no Fenline port. -/
theorem State.pieceFails_within (p : Piece) (code : BitVec 8) : Within s (s.pieceFails p code) := by
  unfold State.pieceFails
  have hdrop : Within s (s.dropPiece p.id) := rfl
  refine (hdrop.trans (State.pieceFault_within _ p code)).trans ?_
  unfold State.settlePiece
  refine Within.trans ?_ (State.settleRels_within ..)
  split
  next id howner =>
    refine State.finishAcc_within ?_
    have hacc : (s.dropPiece p.id).pieceFault p code = (s.dropPiece p.id).accFault id code := by rw [State.pieceFault, howner]
    rw [hacc]
    exact State.accFault_failed _ id code
  all_goals
    refine Within.trans ?_ (State.unbindHalted_within ..)
    refine Within.trans ?_ (State.settleRestart_within ..)
    exact (State.settleStream_within ..).trans (State.settleLatches_within ..)

end Within

/-! ### The loss of a bay (R636, R664, R666) -/

/-- The bay once its Folio is out of reach; a command in progress ends. -/
def Bay.gone (x : Bay) : Bay :=
  let y : Bay := { x with
    st := .absent, reason := .none, linkUp := false, enumerating := false, inLine := false, resetting := false, ejecting := false
    ejectAt := none, mg := [] }
  if x.busy then { y with busy := false, cmd := none, cmdHeld := false, result := if x.ejecting then .ok else .link } else y

section Gone
variable (x : Bay)

@[simp] theorem Bay.gone_st : x.gone.st = .absent := by unfold Bay.gone; split <;> rfl
@[simp] theorem Bay.gone_reason : x.gone.reason = .none := by unfold Bay.gone; split <;> rfl
@[simp] theorem Bay.gone_linkUp : x.gone.linkUp = false := by unfold Bay.gone; split <;> rfl
@[simp] theorem Bay.gone_inLine : x.gone.inLine = false := by unfold Bay.gone; split <;> rfl
@[simp] theorem Bay.gone_mg : x.gone.mg = [] := by unfold Bay.gone; split <;> rfl
@[simp] theorem Bay.gone_present : x.gone.present = x.present := by unfold Bay.gone; split <;> rfl
@[simp] theorem Bay.gone_pwrHold : x.gone.pwrHold = x.pwrHold := by unfold Bay.gone; split <;> rfl

end Gone

theorem Within.calm {s t : State} (h : Within s t) : Calm s t := .of_bays h.bays h.fen (congrArg AccState.pwrWarn h.acc)

theorem State.logFault_calm (s : State) (f : FaultInfo) : Calm s (s.logFault f) := by
  have hdevice := (s.logFault_notes f).device
  exact .of_bays (by rw [hdevice]) (by rw [hdevice]) (by rw [hdevice])

theorem State.startEnum_calm (s : State) (b : Nat) : Calm s (s.startEnum b) := s.updBay_calm b fun _ => ⟨id, id⟩

theorem State.nextEnum_calm (s : State) : Calm s s.nextEnum := by
  refine .ite (fun _ => .rfl') fun _ => ?_
  split
  · exact s.startEnum_calm _
  · exact .rfl'

/-- A bay that is not in line is not the next to be enumerated. -/
theorem State.nextEnum_bay {s : State} {b : Nat} (hline : (s.bay b).inLine = false) : s.nextEnum.bay b = s.bay b := by
  unfold State.nextEnum
  split
  · rfl
  · split
    next c hc =>
      have hc' := List.find?_some hc
      refine s.setBay_bay_ne (fun hbc => ?_) _
      rw [hbc] at hline
      simp [hline] at hc'
    next => rfl

theorem State.bayGone_calm (s : State) (b : Nat) : Calm s (s.bayGone b) := by
  unfold State.bayGone
  dsimp only
  refine Calm.trans ?_ (State.nextEnum_calm _)
  generalize hgone : s.updBay b _ = u
  have hu : Calm s u := hgone ▸ s.updBay_calm b fun _ => ⟨fun _ => rfl, id⟩
  have hend : Calm s (if (s.bay b).busy = true then u.endFol b (if (s.bay b).ejecting = true then .ok else .link) else u) :=
    .ite (fun _ => Calm.trans hu (u.updBay_calm b fun _ => by exact ⟨id, id⟩)) fun _ => hu
  generalize (if (s.bay b).busy = true then _ else _ : State) = v at hend ⊢
  have hlost := (hend.trans (.of_bays rfl rfl rfl : Calm v (v.updAcc' fun a =>
    { a with accepting := a.accepting.filter fun c => decide (c ≠ b) }))).trans
    (.foldl (fun t p => (t.pieceFails_within p (if p.write then fFolioState else fFolioRead)).calm) (s.bayPieces b) _)
  exact .ite (fun _ => hlost.trans (State.logFault_calm ..)) fun _ => hlost

/-- Until the next bay's enumeration begins, no other bay changes. -/
theorem State.bayGone_eq {s : State} (hb : mwf {} s.bays = true) (b : Nat) :
    ∃ u : State, s.bayGone b = u.nextEnum ∧ u.bays = (s.setBay b (s.bay b).gone).bays := by
  refine ⟨_, rfl, ?_⟩
  have hlog (t : State) (f : FaultInfo) : (t.logFault f).bays = t.bays := by rw [(t.logFault_notes f).device]
  have hfails (t : State) : ((s.bayPieces b).foldl (fun t p => t.pieceFails p (if p.write then fFolioState else fFolioRead)) t).bays
      = t.bays := (Within.foldl (fun t p => t.pieceFails_within p _) _ t).bays
  simp only [apply_ite State.bays, hlog, hfails, ite_self, State.updAcc', State.endFol, State.updBay, State.setBay_bay hb]
  by_cases hbusy : (s.bay b).busy = true
  · rw [if_pos hbusy, Bay.gone, if_pos hbusy]
    exact mset_mset _ _ _ _ _ hb
  · rw [if_neg hbusy, Bay.gone, if_neg hbusy]

theorem State.bayGone_bay {s : State} (hb : mwf {} s.bays = true) (b : Nat) : (s.bayGone b).bay b = (s.bay b).gone := by
  obtain ⟨u, hgone, hbays⟩ := State.bayGone_eq hb b
  have hbay : u.bay b = (s.bay b).gone := (congrArg (mget ({} : Bay) · b) hbays).trans (State.setBay_bay hb b _)
  rw [hgone, State.nextEnum_bay (by rw [hbay, Bay.gone_inLine]), hbay]

/-! ### Frames (R636, R637, R651, R653, R661) -/

/-- The bay once its link has taken a frame. -/
def Bay.received (x : Bay) : Bay := { x with rxSeq := x.rxSeq + 1 }

section Frame
variable {s : State} {b : BayId} {f : FrameHdr} {tag : Nat} {c : Instr}

/-- Four rows of the table are frames that arrive. -/
theorem exec_frame (hc : (∃ d, c = .rdData b f tag d) ∨ c = .wrAck b f tag ∨ (∃ e, c = .err b f tag e) ∨
    (∃ op r, c = .mgRsp b f op r)) : ∃ g, exec c s = .next (State.pumpBays (s.withFrame b f g)) := by
  obtain ⟨d, rfl⟩ | rfl | ⟨e, rfl⟩ | ⟨op, r, rfl⟩ := hc
  all_goals exact ⟨_, rfl⟩

theorem State.withFrame_of_down (hlink : (s.bay b).linkUp = false) (g : State → State) : s.withFrame b f g = s :=
  if_pos (by simp [hlink])

variable (hlink : (s.bay b).linkUp = true)
include hlink

theorem State.withFrame_of_bad (hbad : f.crcOk = false ∨ f.seq ≠ (s.bay b).rxSeq) (g : State → State) :
    s.withFrame b f g = s.send (.folioNak b ((s.bay b).rxSeq - 1)) :=
  (if_neg (by simp [hlink])).trans (if_pos (by simpa using hbad))

end Frame

section Request
variable {s : State} {b : Nat} {p : Piece}

/-- A sector that came at the first try brings a read its bytes. -/
theorem State.sectorCome_of_read {k : BitVec 512} (hread : p.write = false) (hk : mget none s.acc.keys p.gal = some k)
    (hfirst : p.retried = false) (d : List Byte) : s.sectorCome b p d =
      s.pieceEnd p (((xts k (sectorTweak (s.bay b).unit p.sectorNo) true d).drop
        (match p.target with | .folio _ o => o % 512 | _ => 0)).take p.len) := by
  simp only [State.sectorCome, State.needKey_of_some hk, hread, hfirst, Bool.false_eq_true, if_false] <;> rfl

/-- The request waits at the bay to be sent once more. -/
theorem State.requestFails_of_first (hfirst : p.retried = false) (b : Nat) : s.requestFails b p =
    { s with pieces := s.pieces.map fun q => if q.id = p.id then { q with status := .heldBay, retried := true } else q } :=
  if_pos (by simp [hfirst])

theorem Piece.wrDue_of_read (hread : p.write = false) : p.wrDue = false := by
  simp [Piece.wrDue, hread]

end Request

theorem State.mgRsp_challenge {s : State} (hb : mwf {} s.bays = true) {b : Nat} {x : Bay} {js : List MgJob}
    (hx : x.mg = .chal :: js) (resp : List Byte) (ok : Bool) : (s.setBay b x).mgRsp b .challenge (.challenge resp ok) =
      s.setBay b { x with mg := js, resp := resp, chalDone := true } := by
  simp only [State.mgRsp, State.setBay_bay hb, hx, List.find?_cons, MgJob.op, decide_true, State.updBay_setBay hb, State.mgDone,
    dropFirst, if_true]

/-- The next frame in order has come on a link that is up, and asks for no replay. -/
structure State.NextFrame (s : State) (b : BayId) (f : FrameHdr) : Prop where
  link : (s.bay b).linkUp = true
  crc : f.crcOk = true
  seq : f.seq = (s.bay b).rxSeq
  nak : f.nak = false

section NextFrame
variable {s : State} (hb : mwf {} s.bays = true) {b : BayId} {f : FrameHdr} (h : s.NextFrame b f)
include h

theorem State.NextFrame.withFrame (g : State → State) : s.withFrame b f g = g (s.setBay b (s.bay b).received) := by
  refine (if_neg (by simp [h.link])).trans ((if_neg (by simp [h.crc, h.seq])).trans ?_)
  rw [h.nak]
  rfl

section Request
variable {tag : Nat} {p : Piece} (hp : s.bayRequest b tag = some p)
include hp

/-- The frame reaches the request that it names. -/
theorem State.NextFrame.onRequest (g : State → Piece → State) :
    s.onRequest b f tag g = (g (s.setBay b (s.bay b).received) p).pumpBays := by
  have hp' : (s.setBay b (s.bay b).received).bayRequest b tag = some p := hp
  rw [State.onRequest, h.withFrame, hp']

theorem State.NextFrame.exec_err (hfirst : p.retried = false) (e : FrameErr) : exec (.err b f tag e) s =
    .next (State.pumpBays { s.setBay b (s.bay b).received with pieces := s.pieces.map fun q =>
      if q.id = p.id then { q with status := .heldBay, retried := true } else q }) := by
  have hsame : exec (.err b f tag e) s = .next (s.onRequest b f tag fun s p => s.requestFails b p) := by cases e <;> rfl
  rw [hsame, h.onRequest hp, State.requestFails_of_first hfirst]
  rfl

include hb

theorem State.NextFrame.exec_rdData {k : BitVec 512} (hread : p.write = false) (hk : mget none s.acc.keys p.gal = some k)
    (hfirst : p.retried = false) (d : List Byte) : exec (.rdData b f tag d) s =
      .next ((s.setBay b (s.bay b).received).pieceEnd p (((xts k (sectorTweak (s.bay b).unit p.sectorNo) true d).drop
        (match p.target with | .folio _ o => o % 512 | _ => 0)).take p.len)).pumpBays := by
  refine congrArg Host.Outcome.next ((h.onRequest hp _).trans ?_)
  rw [if_neg (by simp [Piece.wrDue_of_read hread]),
    State.sectorCome_of_read (s := s.setBay b (s.bay b).received) hread hk hfirst, State.setBay_bay hb]
  rfl

theorem State.NextFrame.exec_wrAck (hdue : p.wrDue = true) : exec (.wrAck b f tag) s =
    .next (State.pieceEnd (State.wearCheck (s.setBay b { (s.bay b).received with wear := (s.bay b).wear + 1 }) b) p []).pumpBays := by
  refine congrArg Host.Outcome.next ((h.onRequest hp _).trans ?_)
  rw [if_pos hdue, State.sectorWritten, State.updBay_setBay hb]
  rfl

end Request

include hb in
/-- The challenge that FOL_CHAL_NONCE asked for is answered, when it is the oldest request (R640). -/
theorem State.NextFrame.exec_challenge {js : List MgJob} (hmg : (s.bay b).mg = .chal :: js) (resp : List Byte) (ok : Bool) :
    exec (.mgRsp b f .challenge (.challenge resp ok)) s =
      .next (s.setBay b { (s.bay b).received with mg := js, resp := resp, chalDone := true }).pumpBays := by
  refine congrArg (fun t : State => Host.Outcome.next t.pumpBays) ((h.withFrame _).trans ?_)
  exact State.mgRsp_challenge hb (x := (s.bay b).received) hmg resp ok

end NextFrame

theorem exec_bayTimeout_of_first {s : State} {b : BayId} {tag : Nat} {p : Piece} (hp : s.bayRequest b tag = some p)
    (hdue : p.sentAt + us 200 ≤ s.tb.elapsed) (hfirst : p.retried = false) :
    exec (.bayTimeout b (some tag)) s = .next (State.pumpBays { s with pieces := s.pieces.map fun q =>
      if q.id = p.id then { q with status := .heldBay, retried := true } else q }) := by
  have hfails : s.bayTimeout b (some tag) = s.requestFails b p := by
    simp only [State.bayTimeout, hp]
    exact if_neg (Nat.not_lt.2 hdue)
  exact congrArg (fun t : State => Host.Outcome.next t.pumpBays) (hfails.trans (State.requestFails_of_first hfirst b))

/-! ### Presence and enumeration (R639, R664, R665, R811) -/

theorem State.mem_send_out (s : State) (o : Out) : o ∈ (s.send o).out := List.mem_append_right _ List.mem_cons_self

theorem State.presenceLost_of_dark {s : State} (hb : mwf {} s.bays = true) {b : Nat} (hdark : (s.bay b).supply = false) :
    s.presenceLost b = s.setBay b { s.bay b with present := false } := by
  simp only [State.presenceLost, State.updBay, State.setBay_bay hb]
  exact if_neg (by simp [hdark])

section Supplied
variable {s : State} (hb : mwf {} s.bays = true) {b : Nat} (hsupply : (s.bay b).supply = true)
include hb hsupply

theorem State.presenceLost_of_supplied :
    s.presenceLost b = (((s.setBay b { s.bay b with present := false }).bayGone b).updBay b fun x =>
      { x with supply := false }).send (.bayEnable b false) := by
  simp only [State.presenceLost]
  rw [State.updBay, State.setBay_bay hb]
  exact if_pos hsupply

theorem State.presenceLost_bay :
    (s.presenceLost b).bay b = { ({ s.bay b with present := false } : Bay).gone with supply := false } := by
  have habsent := State.mwf_setBay hb b { s.bay b with present := false }
  have hgone := State.bayGone_bay habsent b
  rw [State.setBay_bay hb] at hgone
  have hcanon := ((State.bayGone_calm _ b).bays habsent).1
  rw [State.presenceLost_of_supplied hb hsupply, ← hgone]
  generalize State.bayGone _ b = u at hcanon ⊢
  exact State.setBay_bay hcanon b _

theorem State.mem_presenceLost_out : .bayEnable b false ∈ (s.presenceLost b).out := by
  rw [State.presenceLost_of_supplied hb hsupply]
  exact State.mem_send_out _ _

end Supplied

/-- With no other bay in line or being enumerated, a bay in line begins. -/
theorem State.nextEnum_of_alone {s : State} {b : Nat} (hb : b < 8) (hself : (s.bay b).inLine = true)
    (henum : ∀ c, c < 8 → (s.bay c).enumerating = false) (hline : ∀ c, c < 8 → c ≠ b → (s.bay c).inLine = false) :
    s.nextEnum = s.startEnum b := by
  have hnone : ((List.range 8).any fun c => (s.bay c).enumerating) = false := by simpa using henum
  have hfind : ((List.range 8).find? fun c => (s.bay c).inLine) = some b := by
    refine List.find?_range_eq_some.2 ⟨hself, List.mem_range.2 hb, fun c hc => ?_⟩
    simp [hline c (by omega) (by omega)]
  simp only [State.nextEnum, hnone, hfind, Bool.false_eq_true, if_false]

theorem State.startEnum_setBay {s : State} (hb : mwf {} s.bays = true) (b : Nat) (x : Bay) (o : Out) :
    ((s.setBay b x).send o).startEnum b =
      (s.setBay b { x with enumerating := true, inLine := false, st := .absent, reason := .none }).send o :=
  congrArg (State.send · o) (State.updBay_setBay hb b x fun x =>
    { x with enumerating := true, inLine := false, st := .absent, reason := .none })

theorem State.powerBay_setBay {s : State} (hb : mwf {} s.bays = true) (b : Nat) (x : Bay) :
    (s.setBay b x).powerBay b = (s.setBay b { x with supply := true, inLine := true }).send (.bayEnable b true) := by
  rw [State.powerBay, State.updBay_setBay hb]

section Held
variable {s : State} {b : BayId} (hb : mwf {} s.bays = true) (hst : (s.bay b).st = .absent) (hline : (s.bay b).inLine = false)
include hb hst hline

/-- The bay's turn comes at once. -/
theorem exec_bayPresenceHeld (hready : s.dev.ready = true) (henum : ∀ c, c < 8 → (s.bay c).enumerating = false)
    (hlines : ∀ c, c < 8 → (s.bay c).inLine = false) : exec (.bayPresenceHeld b) s =
      .next ((s.setBay b { s.bay b with
        present := true, supply := true, enumerating := true, inLine := false, st := .absent, reason := .none }).send
          (.bayEnable b true)) := by
  refine congrArg Host.Outcome.next ?_
  have hself : (s.updBay b fun x => { x with present := true }).bay b = { s.bay b with present := true } := State.setBay_bay hb b _
  refine (if_neg (by simp [hself, hst, hline, henum b b.isLt, hready])).trans ?_
  rw [State.updBay, State.powerBay_setBay hb]
  generalize hx : ({ s.bay b with present := true, supply := true, inLine := true } : Bay) = x
  have hbay (c : Nat) (hc : c ≠ b) : ((s.setBay b x).send (.bayEnable b true)).bay c = s.bay c := s.setBay_bay_ne hc x
  have hpowered : ((s.setBay b x).send (.bayEnable b true)).bay b = x := State.setBay_bay hb b x
  rw [State.nextEnum_of_alone b.isLt (by rw [hpowered, ← hx]) (fun c hc => ?_) fun c hc hcb => (hbay c hcb ▸ hlines c hc)]
  · rw [State.startEnum_setBay hb, ← hx]
  · obtain rfl | hcb := eq_or_ne c b
    · rw [hpowered, ← hx]
      exact henum _ hc
    · rw [hbay c hcb]
      exact henum c hc

end Held

theorem exec_bayLinkTrained {s : State} {b : BayId} (hb : mwf {} s.bays = true) (henum : (s.bay b).enumerating = true)
    (hsupply : (s.bay b).supply = true) (hlink : (s.bay b).linkUp = false) : exec (.bayLinkTrained b) s =
      .next ((s.setBay b { s.bay b with linkUp := true, rxSeq := 0, txSeq := 1, mg := [.enumIdent] }).send
        (.folioMg b .ident 0 [])) := by
  refine congrArg Host.Outcome.next ((if_neg (by simp [henum, hsupply, hlink])).trans ?_)
  exact State.sendMg_setBay hb ..

/-! ### Slots (R811) -/

/-- A bay whose slot is over gives up, and is enumerated again after READY. -/
def Bay.slotOver (x : Bay) : Bay :=
  if x.enumerating then { x with enumerating := false, inLine := true, linkUp := false, mg := [] } else x

theorem Bay.slotOver_of_enumerating {x : Bay} (h : x.enumerating = true) :
    x.slotOver.enumerating = false ∧ x.slotOver.inLine = true ∧ x.slotOver.linkUp = false := by
  rw [Bay.slotOver, if_pos h]
  exact ⟨rfl, rfl, rfl⟩

/-- The end of bay `c`'s slot. -/
def State.endSlot (t : State) (c : Nat) : State :=
  if (t.bay c).enumerating then t.updBay c fun x => { x with enumerating := false, inLine := true, linkUp := false, mg := [] } else t

theorem endSlot_perBay : PerBay State.endSlot Bay.slotOver fun _ _ => [] := by
  intro t c ht
  rw [State.endSlot, Bay.slotOver, State.sends_nil]
  by_cases h : (t.bay c).enumerating = true
  · simp only [if_pos h]
    rfl
  · simp only [if_neg h, State.setBay_self ht]

/-- The slots of the bays below `b` are over. -/
def State.endSlots (s : State) (b : Nat) : State := (List.range b).foldl State.endSlot s

theorem State.endSlots_bay {s : State} (hb : mwf {} s.bays = true) (b : Nat) : mwf {} (s.endSlots b).bays = true ∧
    ∀ j, (s.endSlots b).bay j = if j < b then (s.bay j).slotOver else s.bay j := by
  obtain ⟨hcanon, hbay⟩ := endSlot_perBay.foldl hb (List.nodup_range (n := b))
  exact ⟨hcanon, fun j => (hbay j).trans (if_congr List.mem_range rfl rfl)⟩

/-- The bay is powered and its enumeration begins. -/
def State.beginSlot (s : State) (b : Nat) : State := (s.powerBay b).startEnum b

section BeginSlot
variable {s : State} (hb : mwf {} s.bays = true) (b : Nat)
include hb

theorem State.beginSlot_eq : s.beginSlot b =
    (s.setBay b { s.bay b with supply := true, enumerating := true, inLine := false, st := .absent, reason := .none }).send
      (.bayEnable b true) :=
  State.startEnum_setBay hb b { s.bay b with supply := true, inLine := true } _

theorem State.beginSlot_bay : (s.beginSlot b).bay b =
    { s.bay b with supply := true, enumerating := true, inLine := false, st := .absent, reason := .none } := by
  rw [State.beginSlot_eq hb]
  exact State.setBay_bay hb b _

theorem State.mem_beginSlot_out : .bayEnable b true ∈ (s.beginSlot b).out := by
  rw [State.beginSlot_eq hb]
  exact State.mem_send_out _ _

end BeginSlot

theorem exec_bayEnumerationSlot_of_early {s : State} {b : BayId}
    (h : s.dev.phase ≠ .folios ∨ s.tb.elapsed - s.dev.bootStart < ms (300 + 50 * b.val)) :
    exec (.bayEnumerationSlot b) s = .next s := congrArg Host.Outcome.next (if_pos h)

/-- A bay whose Folio is present, and that is neither powered up nor waits, takes its slot. -/
def Bay.takesSlot (x : Bay) : Bool := x.present && decide (x.st = .absent) && !x.enumerating && !x.inLine

theorem exec_bayEnumerationSlot_of_due {s : State} {b : BayId} (hphase : s.dev.phase = .folios)
    (hdue : ms (300 + 50 * b.val) ≤ s.tb.elapsed - s.dev.bootStart) : exec (.bayEnumerationSlot b) s = .next
      (if ((s.endSlots b).bay b).takesSlot then (s.endSlots b).beginSlot b else s.endSlots b) :=
  congrArg Host.Outcome.next (if_neg (by simp [hphase, hdue]))

section Slot
variable {s : State} (hb : mwf {} s.bays = true) (b : Nat)
include hb

theorem State.endSlots_self : (s.endSlots b).bay b = s.bay b := ((s.endSlots_bay hb b).2 b).trans (if_neg (lt_irrefl b))

/-- Beside its own bay, a slot ends those of the bays below and changes no other. -/
theorem State.slot_bay_ne {j : Nat} (hj : j ≠ b) :
    (if ((s.endSlots b).bay b).takesSlot then (s.endSlots b).beginSlot b else s.endSlots b).bay j =
      if j < b then (s.bay j).slotOver else s.bay j := by
  obtain ⟨hcanon, hbay⟩ := s.endSlots_bay hb b
  refine Eq.trans ?_ (hbay j)
  split
  · rw [State.beginSlot_eq hcanon]
    exact State.setBay_bay_ne _ hj _
  · rfl

end Slot

/-! ### The SerDes reference clock (R683, R770) -/

theorem State.portTo_ports (s : State) (p : Nat) (st : FenSt) :
    (s.portTo p st).fen.ports = mset {} s.fen.ports p { (s.fenPort p).fresh with st := st } := by
  unfold State.portTo
  dsimp only
  split <;> rfl

theorem State.portTo_bays (s : State) (p : Nat) (st : FenSt) : (s.portTo p st).bays = s.bays := by
  unfold State.portTo
  dsimp only
  split <;> rfl

/-- The port once its clock has stopped. -/
def FenPort.unclocked (x : FenPort) : FenPort := if x.st.carries then { x.fresh with st := .down } else x

/-- The port's clock stops. -/
def State.stopPort (t : State) (p : Nat) : State := if (t.fenPort p).st.carries then t.portTo p .down else t

theorem State.stopPort_pointwise {t : State} (ht : mwf {} t.fen.ports = true) (p : Nat) :
    mwf {} (t.stopPort p).fen.ports = true ∧ (t.stopPort p).fenPort p = (t.fenPort p).unclocked ∧
      ∀ q, q ≠ p → (t.stopPort p).fenPort q = t.fenPort q := by
  rw [State.stopPort, FenPort.unclocked]
  split
  · simp only [State.fenPort, State.portTo_ports]
    exact ⟨mwf_mset _ _ _ _ ht, mget_mset_same _ _ _ _ ht, fun q hq => mget_mset_ne _ _ _ _ _ hq⟩
  · exact ⟨ht, rfl, fun _ _ => rfl⟩

/-- Every Fenline port's clock stops. -/
def State.stopPorts (s : State) : State := (List.range 6).foldl State.stopPort s

theorem State.stopPorts_fenPort {s : State} (hp : mwf {} s.fen.ports = true) {q : Nat} (hq : q < 6) :
    s.stopPorts.fenPort q = (s.fenPort q).unclocked :=
  ((foldl_pointwise (ok := fun t => mwf {} t.fen.ports = true) (read := State.fenPort)
    (fun _ p ht => State.stopPort_pointwise ht p) List.nodup_range hp).2 q).trans (if_pos (List.mem_range.2 hq))

theorem State.fenPort_of_fen {s t : State} (h : t.fen = s.fen) (q : Nat) : t.fenPort q = s.fenPort q := by
  rw [State.fenPort, h, State.fenPort]

theorem State.stopPorts_bays (s : State) : s.stopPorts.bays = s.bays := by
  refine List.foldlRecOn (motive := fun (t : State) => t.bays = s.bays) _ _ rfl fun t ht p _ => ?_
  unfold State.stopPort
  split
  · exact (t.portTo_bays p .down).trans ht
  · exact ht

/-- The bay's clock stops. -/
def State.stopBay (t : State) (b : Nat) : State := if (t.bay b).linkUp then t.bayGone b else t

theorem State.stopBay_calm (t : State) (b : Nat) : Calm t (t.stopBay b) := .ite (fun _ => t.bayGone_calm b) fun _ => .rfl'

theorem State.stopBay_linkUp {t : State} (ht : mwf {} t.bays = true) (b : Nat) : ((t.stopBay b).bay b).linkUp = false := by
  unfold State.stopBay
  split
  · rw [State.bayGone_bay ht, Bay.gone_linkUp]
  · exact eq_false_of_ne_true ‹_›

/-- Every bay's clock stops. -/
def State.stopBays (s : State) : State := (List.range 8).foldl State.stopBay s

theorem State.stopBays_calm (s : State) : Calm s s.stopBays := .foldl State.stopBay_calm _ s

theorem State.stopBays_linkUp {s : State} (hb : mwf {} s.bays = true) {j : Nat} (hj : j < 8) :
    (s.stopBays.bay j).linkUp = false :=
  foldl_calm_reaches State.stopBay_calm (P := fun x => x.linkUp = false) (fun h => h.link)
    (fun _ c ht => State.stopBay_linkUp ht c) hb (List.mem_range.2 hj)

theorem exec_serdesRefclkLoss (s : State) : exec .serdesRefclkLoss s = .next s.stopPorts.stopBays.pumpBays := rfl

/-! ### The obligation -/

/-- Settles O44: frames by what the link makes of them, the loss of a bay by what it leaves, and the slots and the lost clock bay
by bay and port by port. -/
theorem folioLinks : Obligations.FolioLinks := by
  unfold Obligations.FolioLinks
  refine ⟨?links, ?phases⟩
  case links =>
    rintro s b f tag x hc rfl
    have hb := hc.bays
    refine ⟨?frames, ?next, ?timeout, ?down, ?lost, ?held, ?trained⟩
    case frames =>
      intro c hframe
      obtain ⟨g, hexec⟩ := exec_frame hframe
      rw [hexec]
      refine ⟨fun hlink => ?_, fun hlink hbad => ?_⟩
      · rw [State.withFrame_of_down hlink]
      · rw [State.withFrame_of_bad hlink hbad]
        rfl
    case next =>
      rintro hlink hcrc hseq hnak u rfl
      have h : s.NextFrame b f := ⟨hlink, hcrc, hseq, hnak⟩
      exact ⟨fun p hp => ⟨fun d k hread hk hfirst => h.exec_rdData hb hp hread hk hfirst d, h.exec_wrAck hb hp,
        fun e hfirst => h.exec_err hp hfirst e⟩, fun resp ok js hmg => h.exec_challenge hb hmg resp ok⟩
    case timeout => exact fun p hp hdue hfirst => exec_bayTimeout_of_first hp hdue hfirst
    case down =>
      intro hlink
      refine ⟨s.bayGone b, congrArg Host.Outcome.next (if_pos hlink), ?_⟩
      simp [State.bayGone_bay hb]
    case lost =>
      refine ⟨s.presenceLost b, rfl, ?_⟩
      cases hsupply : (s.bay b).supply with
      | false =>
        rw [State.presenceLost_of_dark hb hsupply, State.setBay_bay hb]
        exact ⟨rfl, nofun⟩
      | true =>
        rw [State.presenceLost_bay hb hsupply]
        exact ⟨by simp, fun _ => ⟨by simp, rfl, State.mem_presenceLost_out hb hsupply⟩⟩
    case held => exact fun hready hst henum hline henums hlines => exec_bayPresenceHeld hb hst hline hready henums hlines
    case trained => exact exec_bayLinkTrained hb
  case phases =>
    rintro s b x hc rfl
    have hb := hc.bays
    refine ⟨exec_bayEnumerationSlot_of_early, fun hphase hdue => ⟨_, exec_bayEnumerationSlot_of_due hphase hdue, ?_⟩,
      _, exec_serdesRefclkLoss s, fun j hj => ?_, fun q hq => ?_⟩
    · have hcanon := (s.endSlots_bay hb b).1
      refine ⟨fun hpresent hst hidle hline => ?_, fun habsent => ?_, fun j hj => ?_, fun j hj henum => ?_⟩
      · have htakes : (s.bay b).takesSlot = true := by simp [Bay.takesSlot, hpresent, hst, hidle, hline]
        rw [State.endSlots_self hb, if_pos htakes, State.beginSlot_bay hcanon, State.endSlots_self hb]
        exact ⟨by rw [← hline, ← hst], State.mem_beginSlot_out hcanon b⟩
      · rw [State.endSlots_self hb, if_neg (by simp [Bay.takesSlot, habsent]), State.endSlots_self hb]
      · exact (State.slot_bay_ne hb b hj.ne').trans (if_neg hj.not_gt)
      · rw [State.slot_bay_ne hb b hj.ne, if_pos hj]
        exact Bay.slotOver_of_enumerating henum
    · have hstopped : mwf {} s.stopPorts.bays = true := by rwa [s.stopPorts_bays]
      have hpump := (State.pumpBays_calm _).bays (s.stopPorts.stopBays_calm.bays hstopped).1
      exact (hpump.2 j).link (State.stopBays_linkUp hstopped hj)
    · have hfen := (s.stopPorts.stopBays_calm.trans (State.pumpBays_calm _)).fen
      exact (State.fenPort_of_fen hfen q).trans (State.stopPorts_fenPort hc.fenPorts hq)

end Sys2Proof.Machine

namespace Sys2Proof.Machine

open Sys2Proof.Safety

/-! # The Fenline link (O46) -/

/-! ### Ports in a canonical map -/

section Ports
variable {s : State} (hp : mwf {} s.fen.ports = true) (p : Nat) (x y : FenPort)
include hp

theorem State.mwf_setFenPort : mwf {} (s.setFenPort p x).fen.ports = true := mwf_mset _ _ _ _ hp

theorem State.setFenPort_self : (s.setFenPort p x).fenPort p = x := mget_mset_same _ _ _ _ hp

theorem State.setFenPort_setFenPort : (s.setFenPort p x).setFenPort p y = s.setFenPort p y :=
  congrArg (fun m => { s with fen := { s.fen with ports := m } }) (mset_mset _ _ _ _ _ hp)

end Ports

theorem State.portTo_fenPort {s : State} (hp : mwf {} s.fen.ports = true) (p : Nat) (st : FenSt) :
    (s.portTo p st).fenPort p = { (s.fenPort p).fresh with st := st } := by
  rw [State.fenPort, State.portTo_ports]
  exact mget_mset_same _ _ _ _ hp

theorem Beside.fen {s t : State} (h : Beside s t) : t.fen = s.fen := by rw [h.device]

/-- A port that FAILED has lost its link state (R678, R679). -/
theorem State.failPort_fenPort {s : State} (hp : mwf {} s.fen.ports = true) (p : Nat) :
    (s.failPort p).fenPort p = { (s.fenPort p).fresh with st := .failed } := by
  rw [State.failPort, State.fenPort_of_fen (State.logFault_notes _ _).toBeside.fen]
  exact State.portTo_fenPort hp p .failed

/-! ### Flits that the link refuses (R677, R678) -/

/-- The command that brings a flit on port `p` hands it to the link. -/
theorem exec_flit (s : State) {p : FenPortId} {f : FlitHdr} {c : Instr}
    (hc : c = .idle p f ∨ (∃ b, c = .bringup p f b) ∨ (∃ t, c = .timesync p f t) ∨ (∃ va d l, c = .putData p f va d l) ∨
      (∃ va n, c = .getReq p f va n) ∨ (∃ d, c = .getData p f d) ∨ (∃ a, c = .xack p f a) ∨ (∃ va v, c = .signal p f va v) ∨
      (∃ i q n l b, c = .coll p f i q n l b) ∨ (∃ b, c = .mgmt p f b) ∨ (∃ i, c = .leave p f i)) :
    ∃ b, exec c s = .next (s.receive p f b) := by
  obtain rfl | ⟨_, rfl⟩ | ⟨_, rfl⟩ | ⟨_, _, _, rfl⟩ | ⟨_, _, rfl⟩ | ⟨_, rfl⟩ | ⟨_, rfl⟩ | ⟨_, _, rfl⟩ | ⟨_, _, _, _, _, rfl⟩ |
    ⟨_, rfl⟩ | ⟨_, rfl⟩ := hc <;> exact ⟨_, rfl⟩

section Refused
variable {s : State} {p : Nat} {f : FlitHdr} (b : FlitBody)

theorem State.receive_of_down (hdown : (s.fenPort p).st.carries = false) : s.receive p f b = s :=
  if_pos (by simp [hdown])

/-- The port counts a flit that it does not take. -/
def FenPort.refused (x : FenPort) : FenPort := { x with crcErrors := satAdd 0xFFFFFFFF x.crcErrors 1 }

variable (hup : (s.fenPort p).st.carries = true)
include hup

theorem State.receive_of_gap (hcrc : f.crcOk = true) (hseq : f.seq ≠ (s.fenPort p).rxSeq) :
    s.receive p f b = if (s.fenPort p).nakSent then s.setFenPort p (s.fenPort p).refused else
      ((s.setFenPort p (s.fenPort p).refused).updFenPort p fun x => { x with nakSent := true }).send
        (.fenNak p ((s.fenPort p).rxSeq - 1)) := by
  refine (if_neg (by simp [hup])).trans ((if_pos (by simp [hseq])).trans (if_neg ?_))
  simp [hcrc]

theorem State.receive_of_lostReplay (hcrc : f.crcOk = false) (hreplay : f.replay = true) :
    s.receive p f b = (s.setFenPort p (s.fenPort p).refused).failPort p := by
  refine (if_neg (by simp [hup])).trans ((if_pos (by simp [hcrc])).trans (if_pos ?_))
  simp [hcrc, hreplay]

end Refused

/-! ### The flit that the link takes (R673, R676, R677) -/

theorem State.pumpPort_of_idle {s : State} (hp : mwf {} s.fen.ports = true) (p : Nat) {x : FenPort} (hx : x.waiting = []) :
    (s.setFenPort p x).pumpPort p = s.setFenPort p x := by
  have hself := State.setFenPort_self hp p x
  rw [State.pumpPort_eq, hself, hx]
  refine (congrArg (State.setFenPort _ p) ?_).trans (State.setFenPort_setFenPort hp p x x)
  rw [List.foldl_nil, hself, ← hx]

/-- Port `p` carries flits, none waits at it, and the flit is its next one. -/
structure State.Meets (s : State) (p : Nat) (f : FlitHdr) : Prop where
  carries : (s.fenPort p).st.carries = true
  crc : f.crcOk = true
  seq : f.seq = (s.fenPort p).rxSeq
  nak : f.nak = false
  waiting : (s.fenPort p).waiting = []

theorem FenPort.linked_counted (x : FenPort) (f : FlitHdr) : x.counted.linked f =
    { x.addCredits f.crVc.toNat f.crCount.toNat with
      rxSeq := x.rxSeq + 1, nakSent := false, replays := if x.nakSent then satAdd 65535 x.replays 1 else x.replays
      xoff := f.xoff, unacked := x.unacked.filter fun u => !seqUpTo u.1 f.ack } := by
  unfold FenPort.linked FenPort.addCredits
  split <;> rfl

theorem FenPort.linked_peerTimeEpoch (x : FenPort) (f : FlitHdr) : (x.linked f).peerTimeEpoch = x.peerTimeEpoch := by
  unfold FenPort.linked FenPort.addCredits
  split <;> rfl

section Meets
variable {s : State} {p : Nat} {f : FlitHdr} (h : s.Meets p f) (hp : mwf {} s.fen.ports = true)
include h hp

theorem State.Meets.accepted : (s.setFenPort p (s.fenPort p).counted).linkFields p f =
    s.setFenPort p ((s.fenPort p).counted.linked f) := by
  rw [State.linkFields_eq _ p h.nak, State.setFenPort_self hp, State.setFenPort_setFenPort hp,
    State.pumpPort_of_idle hp p (x := (s.fenPort p).counted.linked f) ((FenPort.linked_waiting _ f).trans h.waiting)]

/-- A VC 0 flit is dealt with as soon as the link has taken it (R672). -/
theorem State.Meets.receive :
    s.receive p f .idle = s.setFenPort p ((s.fenPort p).counted.linked f) ∧
    (∀ b, s.receive p f (.bringup b) = (s.setFenPort p ((s.fenPort p).counted.linked f)).bringup p b) ∧
    ∀ v, s.receive p f (.timesync v) = (s.setFenPort p ((s.fenPort p).counted.linked f)).timesync p v := by
  rw [← h.accepted hp]
  refine ⟨?_, fun b => ?_, fun v => ?_⟩ <;>
    exact (if_neg (by simp [h.carries])).trans (if_neg (by simp [h.crc, h.seq]))

end Meets

/-! ### What judging a port leaves beside its registers (R683, R687, R694 to R696) -/

/-- Only recorded epochs, ring entries and the timebase differ. -/
def Besides (s t : State) : Prop := ∃ es txs tb, t = { s with tb := tb, fen := { s.fen with epochs := es, txs := txs } }

namespace Besides
variable {s t u : State}

theorem refl (s : State) : Besides s s := ⟨_, _, _, rfl⟩

theorem trans (h : Besides s t) (k : Besides t u) : Besides s u := by
  obtain ⟨_, _, _, rfl⟩ := h
  obtain ⟨_, _, _, rfl⟩ := k
  exact ⟨_, _, _, rfl⟩

theorem fenPort (h : Besides s t) (p : Nat) : t.fenPort p = s.fenPort p := by
  obtain ⟨_, _, _, rfl⟩ := h
  rfl

theorem mismatch (h : Besides s t) (p : Nat) : t.mismatch p = s.mismatch p := by
  obtain ⟨_, _, _, rfl⟩ := h
  rfl

end Besides

theorem State.recheckColls_besides (s : State) : Besides s s.recheckColls := ⟨_, _, _, rfl⟩

theorem State.leavePort_besides (s : State) (p : Nat) : Besides s (s.leavePort p) := ⟨_, _, _, rfl⟩

theorem State.skewCheck_besides (s : State) : Besides s s.skewCheck := by
  unfold State.skewCheck
  split
  · exact ⟨_, _, _, rfl⟩
  · exact .refl s

theorem State.recordEpoch_besides (s : State) (d : Nat) (e : W32) : Besides s (s.recordEpoch d e) := by
  unfold State.recordEpoch
  dsimp only
  split
  · split <;> exact ⟨_, _, _, rfl⟩
  · exact ⟨_, _, _, rfl⟩

/-- The port as its judgement leaves it (R687). -/
def FenPort.judged (x : FenPort) (m : BitVec 5) : FenPort :=
  { x with mismatch := m, st := if m = 0 then .active else .quarantine }

theorem FenPort.judged_active_iff (x : FenPort) (m : BitVec 5) : (x.judged m).st = .active ↔ (x.judged m).mismatch = 0 := by
  simp [FenPort.judged]

theorem FenPort.judged_quarantine_iff (x : FenPort) (m : BitVec 5) :
    (x.judged m).st = .quarantine ↔ (x.judged m).mismatch ≠ 0 := by
  simp [FenPort.judged]

theorem FenPort.judged_result (x : FenPort) (m : BitVec 5) : (x.judged m).result = x.result := rfl

theorem State.judgePort_besides (s : State) (p : Nat) :
    Besides (s.setFenPort p ((s.fenPort p).judged (s.mismatch p))) (s.judgePort p) := by
  unfold State.judgePort
  refine .trans ?_ (State.skewCheck_besides _)
  split
  · exact State.leavePort_besides _ p
  · exact State.recheckColls_besides _

/-- What the checks of Table 17-3 give does not depend on what they gave before. -/
theorem State.mismatch_judged {s : State} (hp : mwf {} s.fen.ports = true) (p : Nat) (m : BitVec 5) :
    (s.setFenPort p ((s.fenPort p).judged m)).mismatch p = s.mismatch p := by
  rw [State.mismatch, State.setFenPort_self hp]
  rfl

theorem State.judgePort_fenPort {s : State} (hp : mwf {} s.fen.ports = true) (p : Nat) :
    (s.judgePort p).fenPort p = (s.fenPort p).judged ((s.judgePort p).mismatch p) := by
  have h := s.judgePort_besides p
  rw [h.mismatch, State.mismatch_judged hp, h.fenPort, State.setFenPort_self hp]

/-- The port with the values of a BRINGUP flit (R687). -/
def FenPort.met (x : FenPort) (b : Bringup) : FenPort :=
  { x with
    peerHash := b.hash, peerZhema := b.zhema, peerTimeEpoch := b.timeEpoch, peerEpoch := b.epoch, peerUnit := b.unit
    peerDevno := BitVec.ofNat 8 (b.devno.toNat + (if b.valid then 0 else 128)), peerPort := b.port
    skewValid := x.skewValid && decide (x.peerTimeEpoch = b.timeEpoch) }

theorem State.bringup_fenPort {s : State} (hp : mwf {} s.fen.ports = true) (p : Nat) (b : Bringup) :
    (s.bringup p b).fenPort p = ((s.fenPort p).met b).judged ((s.bringup p b).mismatch p) := by
  have hrecord : Besides (s.setFenPort p ((s.fenPort p).met b))
      (if b.valid then (s.setFenPort p ((s.fenPort p).met b)).recordEpoch b.devno.toNat b.epoch
        else s.setFenPort p ((s.fenPort p).met b)) := by
    split
    · exact State.recordEpoch_besides ..
    · exact .refl _
  have hcanon : ∀ u, Besides (s.setFenPort p ((s.fenPort p).met b)) u → mwf {} u.fen.ports = true := by
    rintro _ ⟨_, _, _, rfl⟩
    exact State.mwf_setFenPort hp p _
  have hport := (hrecord.fenPort p).trans (State.setFenPort_self hp p _)
  refine (State.judgePort_fenPort (hcanon _ hrecord) p).trans ?_
  rw [hport]
  rfl

/-! ### TIMESYNC (R695) -/

/-- What TIMESYNC leaves in the port's registers. -/
theorem State.timesync_fenPort {s : State} (hp : mwf {} s.fen.ports = true) (p : Nat) (v : TimeSync) :
    (s.timesync p v).fenPort p = { s.fenPort p with
      peerTimeEpoch := v.timeEpoch, syncSent := v.sent, syncArrived := s.sixteenths
      skewValid := if decide ((s.fenPort p).peerTimeEpoch = v.timeEpoch) && decide (v.peerSent ≠ 0) then true
        else (s.fenPort p).skewValid && decide ((s.fenPort p).peerTimeEpoch = v.timeEpoch)
      skewOffset := if decide ((s.fenPort p).peerTimeEpoch = v.timeEpoch) && decide (v.peerSent ≠ 0) then
          BitVec.ofInt 32 ((((v.peerArrived : Int) - v.peerSent) - ((s.sixteenths : Int) - v.sent)).tdiv 2)
        else (s.fenPort p).skewOffset } := by
  refine (Besides.fenPort ?_ p).trans (State.setFenPort_self hp p _)
  unfold State.timesync
  dsimp only
  split
  · exact ⟨_, _, _, rfl⟩
  · exact State.skewCheck_besides _

section Timesync
variable {s : State} (hp : mwf {} s.fen.ports = true) (p : Nat) {v : TimeSync}
include hp

theorem State.timesync_measured (hsame : (s.fenPort p).peerTimeEpoch = v.timeEpoch) (hsent : v.peerSent ≠ 0) :
    (s.timesync p v).fenPort p = { s.fenPort p with
      syncSent := v.sent, syncArrived := s.sixteenths, skewValid := true
      skewOffset := BitVec.ofInt 32 ((((v.peerArrived : Int) - v.peerSent) - ((s.sixteenths : Int) - v.sent)).tdiv 2) } := by
  rw [State.timesync_fenPort hp]
  simp [← hsame, hsent]

theorem State.timesync_newEpoch (hnew : (s.fenPort p).peerTimeEpoch ≠ v.timeEpoch) :
    (s.timesync p v).fenPort p = { s.fenPort p with
      peerTimeEpoch := v.timeEpoch, syncSent := v.sent, syncArrived := s.sixteenths, skewValid := false } := by
  rw [State.timesync_fenPort hp]
  simp [hnew]

end Timesync

/-! ### Flits that leave (R673, R677) -/

/-- The port beside the numbers, credits and flits of its sending side. -/
def FenPort.settled (x : FenPort) : FenPort :=
  { x with txSeq := 0, credits1 := 0, credits2 := 0, credits3 := 0, unacked := [], waiting := [] }

section Settled
variable {x y : FenPort} (h : x.settled = y.settled)
include h

theorem FenPort.st_of_settled : x.st = y.st := (congrArg FenPort.st h :)

theorem FenPort.syncSent_of_settled : x.syncSent = y.syncSent := (congrArg FenPort.syncSent h :)

theorem FenPort.syncArrived_of_settled : x.syncArrived = y.syncArrived := (congrArg FenPort.syncArrived h :)

theorem FenPort.result_of_settled : x.result = y.result := (congrArg FenPort.result h :)

theorem FenPort.trainings_of_settled : x.trainings = y.trainings := (congrArg FenPort.trainings h :)

end Settled

theorem FenPort.addCredits_settled (x : FenPort) (vc : Nat) (n : Int) : (x.addCredits vc n).settled = x.settled := by
  unfold FenPort.addCredits
  split <;> rfl

theorem FenPort.addCredits_unacked (x : FenPort) (vc : Nat) (n : Int) : (x.addCredits vc n).unacked = x.unacked := by
  unfold FenPort.addCredits
  split <;> rfl

theorem FenPort.sent_settled (x : FenPort) (g : FlitOut) : (x.sent g).settled = x.settled := x.addCredits_settled _ _

theorem FenPort.mem_sent_unacked {x : FenPort} {e : BitVec 12 × FlitOut × Bool} (he : e ∈ x.unacked) (g : FlitOut) :
    e ∈ (x.sent g).unacked := by
  refine List.mem_append_left _ ?_
  rwa [FenPort.addCredits_unacked]

/-- Flits have joined the lines of ports and left them: no other part of a port changes, and every flit on its way still is. -/
structure Flows (s t : State) : Prop where
  rest : Relinked s t
  ports : mwf {} t.fen.ports = true
  settled : ∀ q, (t.fenPort q).settled = (s.fenPort q).settled
  flits : ∀ q g, Underway (s.fenPort q) g → Underway (t.fenPort q) g
  out : ∀ o ∈ s.out, o ∈ t.out

namespace Flows
variable {s t u : State}

theorem refl (hp : mwf {} s.fen.ports = true) : Flows s s := ⟨.refl s, hp, fun _ => rfl, fun _ _ => id, fun _ => id⟩

theorem trans (h : Flows s t) (k : Flows t u) : Flows s u where
  rest := by
    obtain ⟨_, _, rfl⟩ := h.rest
    obtain ⟨ps, o, rfl⟩ := k.rest
    exact ⟨ps, o, rfl⟩
  ports := k.ports
  settled q := (k.settled q).trans (h.settled q)
  flits q g := k.flits q g ∘ h.flits q g
  out o := k.out o ∘ h.out o

theorem setFenPort (h : Flows s t) (p : Nat) {x : FenPort} (hx : x.settled = (t.fenPort p).settled)
    (hflits : ∀ g, Underway (t.fenPort p) g → Underway x g) : Flows s (t.setFenPort p x) := by
  have hself := State.setFenPort_self h.ports p x
  refine h.trans ⟨(Relinked.refl t).setFenPort p x, State.mwf_setFenPort h.ports p x, fun q => ?_, fun q g hg => ?_, fun _ => id⟩
  · obtain rfl | hq := eq_or_ne q p
    · rw [hself, hx]
    · rw [t.setFenPort_fenPort_ne x hq]
  · exact State.setFenPort_underway hg (hflits g)

theorem outPort (h : Flows s t) (d : Nat) : t.outPort d = s.outPort d := by
  have hroute : t.route d = s.route d := by
    obtain ⟨_, _, rfl⟩ := h.rest
    rfl
  simp only [State.outPort, hroute, FenPort.st_of_settled (h.settled _)]

end Flows

/-- The line of port `p` has been worked through up to the flits of `done`: each has left or stays in the line. -/
structure Pumped (s : State) (p : Nat) (done : List FlitOut) (a : State × List FlitOut) : Prop where
  flows : Flows s a.1
  unacked : ∀ e ∈ (s.fenPort p).unacked, e ∈ (a.1.fenPort p).unacked
  done : ∀ g ∈ done, g ∈ a.2 ∨ ∃ n r, (n, g, r) ∈ (a.1.fenPort p).unacked
  /-- Flits of VC 0 need no credit. -/
  waits : ∀ g ∈ a.2, vcOf g.body ≠ 0

theorem State.transmit_flows {s t : State} (h : Flows s t) (p : Nat) (g : FlitOut) : Flows s (t.transmit p g) := by
  have hset : Flows s (t.setFenPort p ((t.fenPort p).sent g)) := by
    refine h.setFenPort p (FenPort.sent_settled _ g) fun f hf => ?_
    have hwait : ((t.fenPort p).sent g).waiting = (t.fenPort p).waiting := FenPort.addCredits_waiting ..
    obtain hf | ⟨n, r, hf⟩ := hf
    · exact .inl (hwait ▸ hf)
    · exact .inr ⟨n, r, FenPort.mem_sent_unacked hf g⟩
  exact ⟨hset.rest.send _, hset.ports, hset.settled, hset.flits, fun o ho => List.mem_append_left _ (hset.out o ho)⟩

section Pump
variable {s : State} {p : Nat} {done : List FlitOut} {a : State × List FlitOut} (h : Pumped s p done a) (g : FlitOut)
include h

theorem Pumped.step : Pumped s p (done ++ [g]) (State.pumpStep p a g) := by
  unfold State.pumpStep
  split
  · have hport := a.1.transmit_fenPort p g
    have hkept : ∀ e ∈ (a.1.fenPort p).unacked, e ∈ ((a.1.transmit p g).fenPort p).unacked := fun e he => by
      rw [hport]
      exact FenPort.mem_sent_unacked he g
    refine ⟨State.transmit_flows h.flows p g, fun e he => hkept e (h.unacked e he), fun f hf => ?_, h.waits⟩
    obtain hf | hf := List.mem_append.1 hf
    · exact (h.done f hf).imp_right fun ⟨n, r, hn⟩ => ⟨n, r, hkept _ hn⟩
    · obtain rfl := List.mem_singleton.1 hf
      rw [hport]
      exact .inr (FenPort.sent_unacked _ f)
  next hstay =>
    refine ⟨h.flows, h.unacked, fun f hf => ?_, fun f hf => ?_⟩
    · obtain hf | hf := List.mem_append.1 hf
      · exact (h.done f hf).imp_left (List.mem_append_left _)
      · exact .inl (List.mem_append_right _ hf)
    · obtain hf | hf := List.mem_append.1 hf
      · exact h.waits f hf
      · obtain rfl := List.mem_singleton.1 hf
        intro hvc
        refine hstay ?_
        simp only [FenPort.maySend, hvc, decide_true, Bool.true_or, Bool.true_and, Bool.not_eq_true', List.any_eq_false,
          decide_eq_true_eq]
        exact h.waits

omit g in
theorem Pumped.foldl (l : List FlitOut) : Pumped s p (done ++ l) (l.foldl (State.pumpStep p) a) := by
  induction l generalizing done a with
  | nil => simpa using h
  | cons f l ih => simpa using ih (h.step f)

end Pump

/-- Port `p` has worked through its whole line. -/
theorem State.pumped {t : State} (ht : mwf {} t.fen.ports = true) (p : Nat) (l : List FlitOut) :
    Pumped t p l (l.foldl (State.pumpStep p) (t, [])) := by
  have hstart : Pumped t p [] (t, []) := ⟨.refl ht, fun _ => id, fun _ h => absurd h List.not_mem_nil,
    fun _ h => absurd h List.not_mem_nil⟩
  exact hstart.foldl l

section Send
variable {s t : State} (h : Flows s t) (p : Nat)
include h

theorem Flows.pumpPort : Flows s (t.pumpPort p) := by
  have hpumped := State.pumped h.ports p (t.fenPort p).waiting
  rw [State.pumpPort_eq]
  generalize (t.fenPort p).waiting.foldl (State.pumpStep p) (t, []) = a at hpumped
  have hflows := hpumped.flows
  have hself := State.setFenPort_self hflows.ports p { a.1.fenPort p with waiting := a.2 }
  refine h.trans ⟨hflows.rest.setFenPort p _, State.mwf_setFenPort hflows.ports p _, fun q => ?_, fun q g hg => ?_,
    hflows.out⟩ <;>
    obtain rfl | hq := eq_or_ne q p
  · exact (congrArg FenPort.settled hself).trans (hflows.settled q)
  · exact (congrArg FenPort.settled (a.1.setFenPort_fenPort_ne _ hq)).trans (hflows.settled q)
  · refine State.setFenPort_underway_self a.1 q ?_
    obtain hg | ⟨n, r, hg⟩ := hg
    · exact hpumped.done g hg
    · exact .inr ⟨n, r, hpumped.unacked _ hg⟩
  · exact (congrArg (Underway · g) (a.1.setFenPort_fenPort_ne _ hq)).mpr (hflows.flits q g hg)

theorem Flows.sendFlit (g : FlitOut) : Flows s (t.sendFlit p g) :=
  (h.setFenPort p (x := { t.fenPort p with waiting := (t.fenPort p).waiting ++ [g] }) rfl fun _ hf =>
    hf.imp_left (List.mem_append_left _)).pumpPort p

end Send

theorem State.mem_transmit_out (s : State) (p : Nat) (g : FlitOut) : .flit p (s.fenPort p).txSeq g ∈ (s.transmit p g).out := by
  have hseq : ((s.fenPort p).addCredits (vcOf g.body) (-1)).txSeq = (s.fenPort p).txSeq := by
    unfold FenPort.addCredits
    split <;> rfl
  rw [← hseq]
  exact List.mem_append_right _ List.mem_cons_self

/-- The last flit of a port's line leaves at once if it needs no credit (R673). -/
theorem State.pumpPort_out {s : State} (hp : mwf {} s.fen.ports = true) {p : Nat} {l : List FlitOut} {g : FlitOut}
    (hl : (s.fenPort p).waiting = l ++ [g]) (hvc : vcOf g.body = 0) :
    .flit p ((l.foldl (State.pumpStep p) (s, [])).1.fenPort p).txSeq g ∈ (s.pumpPort p).out := by
  have hpumped := State.pumped hp p l
  rw [State.pumpPort_eq, hl, List.foldl_append]
  generalize l.foldl (State.pumpStep p) (s, []) = a at hpumped
  have hgo : ((a.1.fenPort p).maySend (vcOf g.body) && !a.2.any fun f => decide (vcOf f.body = vcOf g.body)) = true := by
    simp only [FenPort.maySend, hvc, decide_true, Bool.true_or, Bool.true_and, Bool.not_eq_true', List.any_eq_false,
      decide_eq_true_eq]
    exact hpumped.waits
  rw [List.foldl_cons, List.foldl_nil, State.pumpStep, if_pos hgo]
  exact a.1.mem_transmit_out p g

section SendOut
variable {s : State} (hp : mwf {} s.fen.ports = true) {p : Nat} {g : FlitOut} (hvc : vcOf g.body = 0)
include hp hvc

theorem State.sendFlit_out : ∃ n, .flit p n g ∈ (s.sendFlit p g).out :=
  ⟨_, State.pumpPort_out (State.mwf_setFenPort hp p _) (l := (s.fenPort p).waiting)
    (congrArg FenPort.waiting (State.setFenPort_self hp p _)) hvc⟩

theorem State.sendFlit_out_of_idle (hidle : (s.fenPort p).waiting = []) :
    .flit p (s.fenPort p).txSeq g ∈ (s.sendFlit p g).out := by
  have hself := State.setFenPort_self hp p { s.fenPort p with waiting := (s.fenPort p).waiting ++ [g] }
  have hout := State.pumpPort_out (State.mwf_setFenPort hp p _) (l := [])
    ((congrArg FenPort.waiting hself).trans (congrArg (· ++ [g]) hidle)) hvc
  rwa [List.foldl_nil, hself] at hout

end SendOut

/-! ### The two timers and training (R684, R685, R693, R695) -/

/-- Every element of a list has its turn among steps that only send flits. -/
theorem foldl_flows_reaches {f : State → Nat → State} (hf : ∀ s t d, Flows s t → Flows s (f t d)) {s : State}
    (hs : mwf {} s.fen.ports = true) {l : List Nat} {d : Nat} (hd : d ∈ l) :
    ∃ t, Flows s t ∧ Flows (f t d) (l.foldl f s) := by
  have hall : ∀ (l : List Nat) (t : State), Flows s t → Flows t (l.foldl f t) := fun l t h =>
    List.foldlRecOn (motive := fun u => Flows t u) l f (.refl h.ports) fun u hu d _ => hf t u d hu
  obtain ⟨l₁, l₂, rfl⟩ := List.append_of_mem hd
  have hbefore := hall l₁ s (.refl hs)
  refine ⟨l₁.foldl f s, hbefore, ?_⟩
  rw [List.foldl_append, List.foldl_cons]
  exact hall l₂ _ (hf s _ d hbefore)

/-- One port's turn of TIMESYNC_TIMER. -/
def State.syncStep (t : State) (p : Nat) : State :=
  let x := t.fenPort p
  if x.st = .active ∨ x.st = .quarantine then
    t.sendFlit p { body := .timesync {
      sent := t.sixteenths, peerSent := x.syncSent, peerArrived := x.syncArrived, timeEpoch := t.tb.epoch } }
  else t

theorem State.syncStep_flows (s t : State) (p : Nat) (h : Flows s t) : Flows s (t.syncStep p) := by
  unfold State.syncStep
  dsimp only
  split
  · exact h.sendFlit p _
  · exact h

theorem exec_timesyncTimer (s : State) : exec .timesyncTimer s = .next ((List.range 6).foldl State.syncStep s) := rfl

theorem timesyncTimer_out {s : State} (hs : mwf {} s.fen.ports = true) {p : Nat} (hp : p < 6)
    (hst : (s.fenPort p).st = .active ∨ (s.fenPort p).st = .quarantine) :
    ∃ n, .flit p n { body := .timesync { sent := s.sixteenths, peerSent := (s.fenPort p).syncSent
                                         peerArrived := (s.fenPort p).syncArrived, timeEpoch := s.tb.epoch } } ∈
      ((List.range 6).foldl State.syncStep s).out := by
  obtain ⟨t, hbefore, hafter⟩ := foldl_flows_reaches State.syncStep_flows hs (List.mem_range.2 hp)
  have htb : t.tb = s.tb := by
    obtain ⟨_, _, rfl⟩ := hbefore.rest
    rfl
  have hstep : t.syncStep p = t.sendFlit p { body := .timesync {
      sent := s.sixteenths, peerSent := (s.fenPort p).syncSent, peerArrived := (s.fenPort p).syncArrived
      timeEpoch := s.tb.epoch } } := by
    rw [State.syncStep, FenPort.st_of_settled (hbefore.settled p), if_pos hst, FenPort.syncSent_of_settled (hbefore.settled p),
      FenPort.syncArrived_of_settled (hbefore.settled p), State.sixteenths, htb, ← State.sixteenths]
  rw [hstep] at hafter
  obtain ⟨n, hn⟩ := State.sendFlit_out hbefore.ports (p := p) (g := { body := .timesync {
    sent := s.sixteenths, peerSent := (s.fenPort p).syncSent, peerArrived := (s.fenPort p).syncArrived
    timeEpoch := s.tb.epoch } }) rfl
  exact ⟨n, hafter.out _ hn⟩

/-- The announcement of this device's configuration epoch to a device (R693). -/
def State.announcement (t : State) (d : Nat) : FlitOut :=
  { t.flitFor d 0 0 0 (.announce t.cfgEpoch (t.dev.unit.setWidth 64) (Fin.ofNat 64 t.fen.devno)) with dstEpoch := 0 }

/-- One device's turn of EPOCH_ANNOUNCE_TIMER. -/
def State.announceStep (t : State) (d : Nat) : State :=
  let r := t.route d
  if d ≠ t.fen.devno ∧ (r.1 < 6 ∨ r.2 < 6) then
    match t.outPort d with
    | some p => t.sendFlit p (t.announcement d)
    | none => t
  else t

theorem State.announceStep_flows (s t : State) (d : Nat) (h : Flows s t) : Flows s (t.announceStep d) := by
  unfold State.announceStep
  dsimp only
  split
  · split
    · exact h.sendFlit _ _
    · exact h
  · exact h

theorem exec_epochAnnounceTimer (s : State) :
    exec .epochAnnounceTimer s = .next ((List.range 64).foldl State.announceStep s) := rfl

/-- A device with an ACTIVE port has a route. -/
theorem State.route_of_outPort {s : State} {d q : Nat} (h : s.outPort d = some q) : (s.route d).1 < 6 ∨ (s.route d).2 < 6 := by
  unfold State.outPort at h
  dsimp only at h
  split at h
  next hfirst => exact .inl hfirst.1
  · split at h
    next hsecond => exact .inr hsecond.1
    · cases h

theorem epochAnnounceTimer_underway {s : State} (hs : mwf {} s.fen.ports = true) {d q : Nat} (hd : d < 64)
    (hother : d ≠ s.fen.devno) (hout : s.outPort d = some q) :
    Underway (((List.range 64).foldl State.announceStep s).fenPort q) (s.announcement d) := by
  obtain ⟨t, hbefore, hafter⟩ := foldl_flows_reaches State.announceStep_flows hs (List.mem_range.2 hd)
  have hroute := (hbefore.outPort d).trans hout
  have hsame : t.announcement d = s.announcement d ∧ t.fen.devno = s.fen.devno := by
    obtain ⟨_, _, rfl⟩ := hbefore.rest
    exact ⟨rfl, rfl⟩
  have hstep : t.announceStep d = t.sendFlit q (s.announcement d) := by
    rw [State.announceStep, hsame.2, if_pos ⟨hother, State.route_of_outPort hroute⟩, hroute, ← hsame.1]
  rw [hstep] at hafter
  exact hafter.flits q _ (t.sendFlit_underway q _)

/-- The port as it begins its exchange (R685). -/
def FenPort.trained (x : FenPort) : FenPort :=
  { x.fresh with st := .exchanging, trainings := satAdd 65535 x.trainings 1 }

theorem exec_fenlineTrained {s : State} {p : FenPortId} (hst : (s.fenPort p).st = .down ∨ (s.fenPort p).st = .training)
    (hon : (s.fenPort p).connected = true) (hopen : (s.fenPort p).disable = false)
    (hdue : s.dev.bootStart + ms 250 ≤ s.tb.elapsed) :
    exec (.fenlineTrained p) s = .next ((s.setFenPort p (s.fenPort p).trained).sendBringup p) :=
  congrArg Host.Outcome.next (if_pos ⟨hst, hon, by simp [hopen], hdue⟩)

/-- A trained port starts afresh and sends its BRINGUP first. -/
theorem State.trained_sends {s : State} (hp : mwf {} s.fen.ports = true) (p : Nat) :
    let t := (s.setFenPort p (s.fenPort p).trained).sendBringup p
    (t.fenPort p).settled = (s.fenPort p).trained.settled ∧ .flit p 0 { body := .bringup (s.ownBringup p) } ∈ t.out := by
  have hself := State.setFenPort_self hp p (s.fenPort p).trained
  have hmoved := State.mwf_setFenPort hp p (s.fenPort p).trained
  have hout := State.sendFlit_out_of_idle hmoved (g := { body := .bringup (s.ownBringup p) }) rfl
    ((congrArg FenPort.waiting hself).trans rfl)
  rw [hself] at hout
  exact ⟨(((Flows.refl hmoved).sendFlit p _).settled p).trans (congrArg FenPort.settled hself), hout⟩

/-! ### The obligation -/

/-- Settles O46, flit by flit: what the link refuses, what it takes, and what BRINGUP and TIMESYNC then do; the timers reach every
port and device in turn. That a gap in the numbers of a replay is answered with NAK alone, and when REPLAYS counts, are the
model's log entry 88; the offset truncated towards zero in 1/16 ns is entry 92. -/
theorem fenlineLink : Obligations.FenlineLink := by
  unfold Obligations.FenlineLink
  rintro s p f x hc rfl
  have hp := hc.fenPorts
  refine ⟨fun c hform => ?refused, fun hup hcrc hseq hnak hwait => ?taken, fun hup => ?down, fun hst hon hopen hdue => ?trained,
    ⟨_, exec_timesyncTimer s, fun hst => ?sync⟩, ⟨_, exec_epochAnnounceTimer s, fun d q hd hother hout => ?announce⟩⟩
  case refused =>
    obtain ⟨b, hx⟩ := exec_flit s hform
    rw [hx]
    refine ⟨fun hdown => ?_, fun hup hcrc hseq => ?_, fun hup hcrc hreplay => ?_⟩
    · rw [State.receive_of_down b hdown]
    · rw [State.receive_of_gap b hup hcrc hseq]
      refine ⟨fun hnak => congrArg Host.Outcome.next (if_pos hnak), fun hnak => congrArg Host.Outcome.next ?_⟩
      rw [if_neg (by simp [hnak]), State.updFenPort, State.setFenPort_self hp, State.setFenPort_setFenPort hp]
      rfl
    · refine ⟨_, rfl, ?_⟩
      rw [State.receive_of_lostReplay b hup hcrc hreplay, State.failPort_fenPort (State.mwf_setFenPort hp _ _)]
      exact ⟨rfl, rfl, rfl⟩
  case taken =>
    rintro y rfl
    have h : s.Meets p f := ⟨hup, hcrc, hseq, hnak, hwait⟩
    obtain ⟨hidle, hbringup, htimesync⟩ := h.receive hp
    rw [← FenPort.linked_counted]
    have hy := State.setFenPort_self hp p ((s.fenPort p).counted.linked f)
    have hmoved := State.mwf_setFenPort hp p ((s.fenPort p).counted.linked f)
    refine ⟨congrArg Host.Outcome.next hidle, fun b => ⟨_, _, congrArg Host.Outcome.next (hbringup b), rfl, ?_⟩,
      fun v => ⟨_, congrArg Host.Outcome.next (htimesync v), fun hsame hsent => ?_, fun hnew => ?_⟩⟩
    · rw [State.bringup_fenPort hmoved, hy]
      exact ⟨rfl, rfl, rfl, rfl, rfl, rfl, rfl, FenPort.judged_active_iff _ _, FenPort.judged_quarantine_iff _ _⟩
    · rw [State.timesync_measured hmoved p (by rwa [hy, FenPort.linked_peerTimeEpoch]) hsent, hy]
      rfl
    · rw [State.timesync_newEpoch hmoved p (by rwa [hy, FenPort.linked_peerTimeEpoch]), hy]
      rfl
  case down =>
    exact ⟨_, congrArg Host.Outcome.next (if_pos hup), State.portTo_fenPort hp p .down⟩
  case trained =>
    obtain ⟨hport, hout⟩ := State.trained_sends hp p
    exact ⟨_, exec_fenlineTrained hst hon hopen hdue, FenPort.st_of_settled hport, FenPort.trainings_of_settled hport, hout⟩
  case sync => exact timesyncTimer_out hp p.isLt hst
  case announce => exact epochAnnounceTimer_underway hp hd hother hout

end Sys2Proof.Machine

namespace Sys2Proof.Machine

open Sys2Proof.Safety

/-! # FEN_ registers and the command ring (O48) -/

/-! ### What the Ledger's lines leave alone -/

theorem State.sendSnoop_beside (s : State) (l : Nat) (p : Port) (inv : Bool) : Beside s (s.sendSnoop l p inv) :=
  (s.setLine_beside l _).trans (State.send_notes _ _).toBeside

theorem State.unwait_beside (s : State) (w : Waiter) (l : Nat) : Beside s (s.unwait w l) := s.setLine_beside l _

theorem State.askLine_beside (s : State) (w : Waiter) (u : LineUse) (l : Nat) : Beside s (s.askLine w u l) := by
  unfold State.askLine
  extract_lets x y t v
  have ht : Beside s t := s.setLine_beside l y
  have hv : Beside s v := by
    simp only [v]
    split
    · exact ht.trans (t.sendSnoop_beside l .a _)
    · exact ht
  refine .ite (fun _ => .rfl') fun _ => .ite (fun _ => ht) fun _ => ?_
  split
  · exact hv.trans (v.sendSnoop_beside l .b _)
  · exact hv

theorem State.askLines_beside (s : State) (w : Waiter) (u : LineUse) (ls : List Nat) : Beside s (s.askLines w u ls).1 := by
  unfold State.askLines
  split
  · exact .foldl (fun t l => t.unwait_beside w l) ls s
  · exact .foldl (fun t l => t.askLine_beside w u l) ls s

theorem State.putExch_beside (s : State) (off : Nat) (bs : List (Byte × Byte)) : Beside s (s.putExch off bs) :=
  (Beside.foldl (fun t l => t.setLine_beside l _) _ s).trans (State.putShared_notes _ _ _).toBeside

theorem State.serveM2S_beside (s : State) (p : Port) (r : M2SReq) (v : Verdict) : Beside s (s.serveM2S p r v) := by
  have hjudge := fun off => (s.judgeLine_notes v off).toBeside
  unfold State.serveM2S
  cases r.op with
  | write d => exact (s.putExch_beside _ _).trans (State.send_notes _ _).toBeside
  | _ => exact ((hjudge _).trans (State.setLine_beside _ _ _)).trans (State.send_notes _ _).toBeside

theorem State.serveBar4_beside (s : State) (p : Port) (write : Bool) (off : Nat) (d : List Byte) (be : List Bool)
    (vs : List Verdict) : Beside s (s.serveBar4 p write off d be vs) :=
  .ite (fun _ => s.putExch_beside _ _) fun _ =>
    (Beside.foldl (fun t (c : Nat × Verdict) => (t.judgeLine_notes c.2 _).toBeside) _ s).trans (State.send_notes _ _).toBeside

theorem State.tryHost_beside (s : State) (w : Waiter) : Beside s (s.tryHost w).1 := by
  unfold State.tryHost
  split
  next p r v =>
    dsimp only
    rw [apply_ite Prod.fst]
    exact (s.askLines_beside _ _ _).trans (.ite (fun _ => State.serveM2S_beside _ p r v) fun _ => .rfl')
  next p wr off d be vs =>
    dsimp only
    rw [apply_ite Prod.fst]
    exact (s.askLines_beside _ _ _).trans (.ite (fun _ => State.serveBar4_beside _ p wr off d be vs) fun _ => .rfl')
  · exact .rfl'
  · exact .rfl'

theorem State.snoopForPiece_beside (s : State) (l : Nat) (w : Waiter) : Beside s (s.snoopForPiece l w) := by
  unfold State.snoopForPiece
  split
  · split
    · exact s.askLine_beside _ _ l
    · exact s.unwait_beside _ l
  · exact .rfl'

theorem State.pumpLine_beside (l n : Nat) (s : State) : Beside s (State.pumpLine l n s) := by
  induction n generalizing s with
  | zero => exact .rfl'
  | succ n ih =>
    unfold State.pumpLine
    split
    · exact .rfl'
    next w rest _ =>
      have htry := s.tryHost_beside w
      have hsnoop := htry.trans (State.snoopForPiece_beside _ l w)
      exact .ite (fun _ => .rfl') fun _ => .ite (fun _ => htry.trans (ih _)) fun _ =>
        .ite (fun _ => hsnoop) fun _ => hsnoop.trans (ih _)

theorem State.pumpLines_beside (s : State) (ls : List Nat) : Beside s (s.pumpLines ls) :=
  .foldl (fun t l => State.pumpLine_beside l _ t) ls s

/-! ### The rings and the entries in work

What an entry does as it starts or ends changes how far entries have come, and never which entry of which ring they are. -/

/-- What an entry is: its gallery, number, words and tag. -/
def FenTx.name (t : FenTx) : Nat × Nat × List Nat × Nat := (t.gal, t.entry, t.words, t.tag)

/-- The rings and the entries in work are those of `s`, however far each has come. -/
structure SameRing (s t : State) : Prop where
  gals : t.fen.gals = s.fen.gals
  names : t.fen.txs.map FenTx.name = s.fen.txs.map FenTx.name

namespace SameRing
variable {s t u : State}

theorem refl (s : State) : SameRing s s := ⟨rfl, rfl⟩

theorem trans (h : SameRing s t) (k : SameRing t u) : SameRing s u := ⟨k.gals.trans h.gals, k.names.trans h.names⟩

theorem of_fen (h : SameRing s t) (hu : u.fen = t.fen) : SameRing s u := h.trans ⟨by rw [hu], by rw [hu]⟩

theorem foldl {β : Type} {f : State → β → State} (hf : ∀ {t : State}, SameRing s t → ∀ x, SameRing s (f t x)) (h : SameRing s t)
    (l : List β) : SameRing s (l.foldl f t) :=
  List.foldlRecOn (motive := fun u => SameRing s u) l f h fun _ ht x _ => hf ht x

theorem updTx (h : SameRing s t) (g i : Nat) {f : FenTx → FenTx} (hf : ∀ e, (f e).name = e.name) :
    SameRing s (t.updTx g i f) := by
  refine h.trans ⟨rfl, List.map_map.trans (List.map_congr_left fun e _ => ?_)⟩
  simp only [Function.comp]
  split
  · exact hf e
  · rfl

theorem endTx (h : SameRing s t) (g i code : Nat) (kind : BitVec 8) : SameRing s (t.endTx g i code kind) := by
  refine h.updTx g i fun e => ?_
  unfold FenTx.finish
  split <;> rfl

theorem sendTo (h : SameRing s t) (d tag g i : Nat) (b : FlitBody) : SameRing s (t.sendTo d tag g i b) := by
  unfold State.sendTo
  split
  · obtain ⟨_, _, hsent⟩ := (Relinked.refl t).sendFlit _ (t.flitFor d tag g i b)
    rw [hsent]
    exact ⟨h.gals, h.names⟩
  · exact h

/-! #### Accesses to memory -/

theorem askFen (h : SameRing s t) (a : Agent) (l : Nat) : SameRing s (t.askFen a l) :=
  h.of_fen ((State.askLine_beside ..).trans (State.unwait_beside ..)).fen

theorem fenGet (h : SameRing s t) (g : Nat) (r : Run) : SameRing s (t.fenGet g r).1 := by
  unfold State.fenGet
  split
  · exact h.of_fen rfl
  · exact h.of_fen rfl
  · split <;> exact h
  · split
    · exact h
    · split
      · exact h
      · exact h.of_fen (t.pumpLines_beside _).fen
  · exact h

theorem fenPut (h : SameRing s t) (g : Nat) (r : Run) : SameRing s (t.fenPut g r).1 := by
  unfold State.fenPut
  split
  · exact h.of_fen rfl
  · exact h.of_fen rfl
  · exact h.of_fen rfl
  · exact h.of_fen ((t.putExch_beside _ _).trans (State.pumpLines_beside _ _)).fen
  · exact h

theorem fenReads (h : SameRing s t) (g : Nat) (rs : List Run) : SameRing s (t.fenReads g rs).1 := by
  unfold State.fenReads
  refine List.foldlRecOn (motive := fun (a : State × Sparse Byte × Nat × Option (BitVec 8)) => SameRing s a.1) _ _ h
    fun a ha r _ => ?_
  split
  · exact ha
  · have hget := ha.fenGet g r
    split <;> simp_all

theorem fenWrites (h : SameRing s t) (g : Nat) (rs : List Run) : SameRing s (t.fenWrites g rs).1 := by
  unfold State.fenWrites
  refine List.foldlRecOn (motive := fun (a : State × Option (BitVec 8)) => SameRing s a.1) _ _ h fun a ha r _ => ?_
  split
  · exact ha
  · exact ha.fenPut g r

/-! #### Entries that start -/

theorem pumpSignals (h : SameRing s t) (g : Nat) : SameRing s (t.pumpSignals g) := by
  unfold State.pumpSignals
  refine h.foldl (fun {u} hu e => ?_) _
  split
  · split
    · exact hu.endTx ..
    · refine SameRing.sendTo ?_ ..
      exact hu.updTx _ _ fun _ => rfl
  · exact hu

theorem startPut (h : SameRing s t) (e : FenTx) (l r : Desc) : SameRing s (t.startPut e l r) := by
  have hread := (h.fenReads e.gal l.readAll)
  unfold State.startPut
  dsimp only
  split
  · refine sendTo ?_ ..
    exact hread.updTx _ _ fun _ => rfl
  · refine foldl (fun hu _ => hu.sendTo ..) ?_ _
    exact hread.updTx _ _ fun _ => rfl

theorem startGet (h : SameRing s t) (e : FenTx) (r : Desc) : SameRing s (t.startGet e r) := by
  unfold State.startGet
  refine foldl (fun hu _ => hu.sendTo ..) ?_ _
  exact h.updTx _ _ fun _ => rfl

theorem collStep (h : SameRing s t) (e : FenTx) : SameRing s (t.collStep e) := by
  unfold State.collStep
  split
  · extract_lets parts mine
    split
    · exact h.endTx ..
    split
    · exact h.endTx ..
    split
    · exact h
    next shard out _ _ _ =>
    split
    · exact h.askFen ..
    have hwritten := (h.fenWrites e.gal out.runs).updTx e.gal e.entry (f := fun t => { t with oob := out.oob }) fun _ => rfl
    dsimp only
    split
    · exact hwritten.endTx ..
    · exact hwritten.endTx ..
  · exact h

theorem collSteps (h : SameRing s t) : SameRing s t.collSteps := by
  unfold State.collSteps
  refine h.foldl (fun {u} hu e => ?_) _
  split
  · exact hu.collStep _
  · exact hu

theorem addPart (h : SameRing s t) (g : Nat) (id : W32) (d : Nat) (ps : CollParams) (n : Nat) (es : List Nat) (l : Bool) :
    SameRing s (t.addPart g id d ps n es l) := h.trans ⟨rfl, rfl⟩

theorem startColl (h : SameRing s t) (e : FenTx) (l r : Desc) (shard : List Byte) : SameRing s (t.startColl e l r shard) := by
  unfold State.startColl
  extract_lets rank rs
  have hread := h.fenReads e.gal rs
  split
  next u buf n bad heq =>
  rw [heq] at hread
  split
  · exact hread.endTx ..
  · refine collSteps (.foldl (fun hu d => .foldl (fun hv c => hv.sendTo ..) hu _) ?_ _)
    refine addPart ?_ ..
    exact hread.updTx _ _ fun _ => rfl

/-- A read of the engine leaves the rings alone, whatever it brings. -/
theorem of_fetch {α : Type} {x : State × α} {a : α} (hx : SameRing s x.1) (heq : x = (u, a)) : SameRing s u := by
  rwa [heq] at hx

theorem startTx (h : SameRing s t) (e : FenTx) : SameRing s (t.startTx e) := by
  unfold State.startTx
  extract_lets g stop others rd
  have hrd : ∀ {u}, SameRing s u → ∀ a n, SameRing s (rd a n u).1 := by
    intro u hu a n
    have hread := hu.fenReads g (byteRuns a n)
    simp only [rd]
    split <;> simp_all
  have hstop : ∀ code kind, SameRing s (stop code kind) := fun code kind => h.endTx g e.entry code kind
  clear_value rd stop
  split
  · exact hstop ..
  split
  · exact h.pumpSignals g
  split
  · exact hstop ..
  split
  next heq => exact .endTx (.of_fetch (hrd h _ _) heq) ..
  next u lb heq =>
  have hu := of_fetch (hrd h _ _) heq
  split
  next heq => exact .endTx (.of_fetch (hrd hu _ _) heq) ..
  next v rb heq =>
  have hv := of_fetch (hrd hu _ _) heq
  split
  · split
    · split
      · split
        · exact hv.startColl ..
        · exact hv.endTx ..
      · split
        next heq => exact .endTx (.of_fetch (hrd hv _ _) heq) ..
        next w sb heq =>
        have hw := of_fetch (hrd hv _ _) heq
        split
        · exact hw.endTx ..
        · split
          · exact hw.startColl ..
          · exact hw.endTx ..
    · split
      · exact hv.endTx ..
      · dsimp only
        split
        · refine startPut ?_ ..
          exact hv.updTx _ _ fun _ => rfl
        · refine startGet ?_ ..
          exact hv.updTx _ _ fun _ => rfl
  · exact hv.endTx ..

end SameRing

/-- The entry that was taken is still in work, whatever has come of it. -/
theorem SameRing.exists_name {s t : State} (h : SameRing s t) {e : FenTx} (he : e ∈ s.fen.txs) :
    ∃ u ∈ t.fen.txs, u.name = e.name := by
  have hname := List.mem_map_of_mem (f := FenTx.name) he
  rw [← h.names] at hname
  exact List.mem_map.1 hname

/-! ### Accesses of the ring to the Shared Store (R699, R701) -/

section Access
variable {s : State} {g va o : Nat} {i : Option Nat}

theorem State.fenGet_of_shared {n : Nat} (hcheck : s.check g .fenRead va = .ok (.shared o) i)
    (hlost : s.sharedLost o n = false) : s.fenGet g { va := va, len := n } = (s, .ok (bytesAt s.shared o n)) := by
  simp [State.fenGet, hcheck, hlost]

theorem State.fenPut_of_shared (hcheck : s.check g .fenWrite va = .ok (.shared o) i) (n : Nat) (d : List (Byte × Byte)) :
    s.fenPut g { va := va, len := n, wdata := d } = (s.putShared o d, none) := by
  simp [State.fenPut, hcheck]

end Access

/-! ### RING_ENTRY_TAKE (R699, R700) -/

/-- The first byte of a number's bytes is the number's low byte. -/
theorem leNat_take_mod (bs : List Byte) : leNat (bs.take 8) % 256 = leNat (bs.take 1) := by
  cases bs with
  | nil => rfl
  | cons b bs =>
    have hb := b.isLt
    simp only [List.take_succ_cons, List.take_zero, leNat]
    omega

/-- The words of a slot. -/
def slotWords (bs : List Byte) : List Nat := (List.range 8).map fun i => leNat ((bs.drop (8 * i)).take 8)

/-- The entry that a slot's bytes give, as it is taken. -/
def State.slotEntry (s : State) (g : Nat) (bs : List Byte) : FenTx :=
  let t : FenTx := { gal := g, entry := (s.fenGal g).next, words := slotWords bs, phase := .held, tag := s.fen.nextTag }
  { t with peer := if t.isColl then 0 else t.peerField }

theorem op_of_slotWords {t : FenTx} {bs : List Byte} (h : t.words = slotWords bs) : t.op = leNat (bs.take 1) := by
  rw [← leNat_take_mod, FenTx.op, h]
  rfl

theorem State.slotEntry_eq {s : State} {g : Nat} {bs : List Byte} {e : FenTx}
    (he : e = { gal := g, entry := (s.fenGal g).next, words := e.words, phase := .held, tag := s.fen.nextTag, peer := e.peer })
    (hwords : e.words = slotWords bs)
    (hpeer : e.peer = if 16 ≤ leNat (bs.take 1) then 0 else bits (leNat (bs.take 8)) 8 6) : e = s.slotEntry g bs := by
  have hop := op_of_slotWords (t := { gal := g, entry := (s.fenGal g).next, words := slotWords bs, phase := .held
                                      tag := s.fen.nextTag }) rfl
  rw [he, hpeer, hwords]
  simp only [State.slotEntry, FenTx.isColl, hop, decide_eq_true_eq]
  rfl

/-- The engine may take the next entry of gallery `g`'s ring: it reads the 64 bytes `bs` of its slot. -/
structure State.Reads (s : State) (g : Nat) (bs : List Byte) : Prop where
  enabled : (s.fenGal g).enable = true
  sound : (s.fenGal g).fault = false
  serves : (s.gal g).st = .opened ∨ (s.gal g).st = .quiescing
  room : (s.fen.txs.filter fun t => decide (t.gal = g)).length < 16
  free : s.fenBlocked g .fenRead [{ va := (s.fenGal g).slot (s.fenGal g).next, len := 64 }] = none
  read : s.fenGet g { va := (s.fenGal g).slot (s.fenGal g).next, len := 64 } = (s, .ok bs)
  length : bs.length = 64

/-- The device with the entry taken. -/
def State.tookEntry (s : State) (g : Nat) (e : FenTx) : State :=
  (s.updFenGal g fun x => { x with next := x.next + 1 }).updFen fun x =>
    { x with txs := x.txs ++ [e], nextTag := (x.nextTag + 1) % 65536 }

theorem GalSt.serves_of {st : GalSt} (h : st = .opened ∨ st = .quiescing) : st.serves = true := by
  obtain rfl | rfl := h <;> rfl

section Take
variable {s : State} {g : Nat} {bs : List Byte} (h : s.Reads g bs)
include h

theorem State.Reads.ringTake : s.ringTake g =
    if (slotWords bs)[7]? ≠ some ((s.fenGal g).next + 1) then s
    else match (if (s.slotEntry g bs).op = 3 then none else s.fenBlocked g .fenRead (s.txReads (s.slotEntry g bs))) with
      | some l => s.askFen .fenRead l
      | none => (s.tookEntry g (s.slotEntry g bs)).startTx (s.slotEntry g bs) := by
  refine (if_neg ?_).trans ?_
  · simp [h.enabled, h.sound, GalSt.serves_of h.serves, h.room]
  · simp only [h.free, h.read]
    rfl

theorem State.Reads.lastWord : (slotWords bs)[7]? = some (leNat (bs.drop 56)) := by
  have hall : (bs.drop 56).take 8 = bs.drop 56 := List.take_of_length_le (by simp [h.length])
  rw [← hall]
  rfl

theorem State.Reads.ringTake_of_other (hother : leNat (bs.drop 56) ≠ (s.fenGal g).next + 1) : s.ringTake g = s :=
  h.ringTake.trans (if_pos (by simp [h.lastWord, hother]))

theorem State.Reads.ringTake_of_number (hnumber : leNat (bs.drop 56) = (s.fenGal g).next + 1)
    (hfree : leNat (bs.take 1) = 3 ∨ s.fenBlocked g .fenRead (s.txReads (s.slotEntry g bs)) = none) :
    s.ringTake g = (s.tookEntry g (s.slotEntry g bs)).startTx (s.slotEntry g bs) := by
  have hop : (s.slotEntry g bs).op = leNat (bs.take 1) := op_of_slotWords rfl
  have hgo : (if (s.slotEntry g bs).op = 3 then none else s.fenBlocked g .fenRead (s.txReads (s.slotEntry g bs))) = none := by
    rw [hop]
    obtain hsignal | hfree := hfree
    · exact if_pos hsignal
    · rw [hfree, ite_self]
  rw [h.ringTake, if_neg (by simp [h.lastWord, hnumber]), hgo]

end Take

theorem State.tookEntry_fenGal {s : State} (hc : mwf {} s.fen.gals = true) (g : Nat) (e : FenTx) :
    (s.tookEntry g e).fenGal g = { s.fenGal g with next := (s.fenGal g).next + 1 } := mget_mset_same _ _ _ _ hc

theorem FenTx.finish_of_held {t : FenTx} (h : t.phase = .held) (code : Nat) (kind : BitVec 8) :
    t.finish code kind = { t with phase := .ended code kind } := by
  simp only [FenTx.finish, h]

/-- Once an entry has been taken and started, its ring has moved on and the entry is in work. -/
theorem State.tookEntry_startTx {s : State} (hc : mwf {} s.fen.gals = true) (g : Nat) {e : FenTx}
    (hphase : e.phase = .held) :
    ((s.tookEntry g e).startTx e).fenGal g = { s.fenGal g with next := (s.fenGal g).next + 1 } ∧
      ∃ u ∈ ((s.tookEntry g e).startTx e).fen.txs, u.name = e.name ∧ (e.legal = false → u.phase = .ended stBadRequest 0) := by
  have hmem : e ∈ (s.tookEntry g e).fen.txs := List.mem_append_right _ List.mem_cons_self
  have hring := (SameRing.refl (s.tookEntry g e)).startTx e
  refine ⟨?_, ?_⟩
  · rw [← State.tookEntry_fenGal hc g e, State.fenGal, hring.gals, ← State.fenGal]
  · cases hlegal : e.legal with
    | true =>
      obtain ⟨u, hu, hname⟩ := hring.exists_name hmem
      exact ⟨u, hu, hname, nofun⟩
    | false =>
      have hstop : (s.tookEntry g e).startTx e = (s.tookEntry g e).endTx e.gal e.entry stBadRequest 0 := if_pos (by simp [hlegal])
      rw [hstop]
      refine ⟨e.finish stBadRequest 0, List.mem_map.2 ⟨e, hmem, if_pos ⟨rfl, rfl⟩⟩, ?_⟩
      rw [FenTx.finish_of_held hphase]
      exact ⟨rfl, fun _ => rfl⟩

/-! ### RING_ENTRY_COMPLETE (R701) -/

/-- The entry leaves the ring's entries in work. -/
def State.dropTx (s : State) (g i : Nat) (t : FenTx) : State :=
  (s.updFen fun f => { f with
    txs := f.txs.filter fun u => !(decide (u.gal = g) && decide (u.entry = i))
    parts := f.parts.filter fun p => !(t.isColl && decide (p.gal = g) && decide (p.id = t.collId))
    left := f.left.filter fun c => !(t.isColl && decide (c = (g, t.collId))) }).pumpSignals g

theorem State.dropTx_absent (s : State) (g i : Nat) (t : FenTx) : ∀ u ∈ (s.dropTx g i t).fen.txs, u.gal ≠ g ∨ u.entry ≠ i := by
  intro u hu
  have hring := SameRing.pumpSignals (.refl (s.updFen fun f => { f with
    txs := f.txs.filter fun u => !(decide (u.gal = g) && decide (u.entry = i))
    parts := f.parts.filter fun p => !(t.isColl && decide (p.gal = g) && decide (p.id = t.collId))
    left := f.left.filter fun c => !(t.isColl && decide (c = (g, t.collId))) })) g
  have hname := List.mem_map_of_mem (f := FenTx.name) hu
  rw [State.dropTx, hring.names] at hname
  obtain ⟨v, hv, hsame⟩ := List.mem_map.1 hname
  have hkept := (List.mem_filter.1 hv).2
  simp only [FenTx.name, Prod.mk.injEq] at hsame
  obtain ⟨hgal, hentry, -⟩ := hsame
  rw [hgal, hentry] at hkept
  by_cases hg : u.gal = g
  · exact .inr (by simpa [hg] using hkept)
  · exact .inl hg

theorem State.pumpSignals_shared (s : State) (g : Nat) : (s.pumpSignals g).shared = s.shared := by
  unfold State.pumpSignals
  refine List.foldlRecOn (motive := fun (t : State) => t.shared = s.shared) _ _ rfl fun t ht e _ => ?_
  split
  · split
    · exact ht
    · unfold State.sendTo
      split
      · exact ((Relinked.refl _).sendFlit _ _).shared.trans ht
      · exact ht
  · exact ht

theorem State.putShared_shared (s : State) (off : Nat) (bs : List (Byte × Byte)) :
    (s.putShared off bs).shared = putMasked s.shared off bs := rfl

theorem State.dropTx_shared (s : State) (g i : Nat) (t : FenTx) : (s.dropTx g i t).shared = s.shared :=
  State.pumpSignals_shared _ g

/-- Less than a line's bytes clear no loss (R721). -/
theorem State.putShared_sharedLost (s : State) (off : Nat) {bs : List (Byte × Byte)} (hbs : bs.length < 64) (o n : Nat) :
    (s.putShared off bs).sharedLost o n = s.sharedLost o n := by
  have hnone : ((linesOf off bs.length).filter fun l =>
      decide (off ≤ 64 * l) && decide (64 * l + 64 ≤ off + bs.length) &&
        ((bs.drop (64 * l - off)).take 64).all fun c => c.2 = 0xFF) = [] := by
    refine List.filter_eq_nil_iff.2 fun l _ => ?_
    simp only [Bool.and_eq_true, decide_eq_true_eq]
    omega
  simp only [State.sharedLost, State.isLost, State.putShared, hnone, List.foldl_nil]

theorem bytesAt_congr {m m' : Sparse Byte} {a n : Nat} (h : ∀ j, a ≤ j → j < a + n → byteAt m j = byteAt m' j) :
    bytesAt m a n = bytesAt m' a n := by
  induction n generalizing a with
  | zero => rfl
  | succ n ih => rw [bytesAt, bytesAt, h a le_rfl (by omega), ih fun j hj hlt => h j (by omega) (by omega)]

/-- Bytes beside those written read as before. -/
theorem bytesAt_putMasked_disjoint (m : Sparse Byte) {a o n : Nat} {bs : List (Byte × Byte)}
    (h : a + bs.length ≤ o ∨ o + n ≤ a) : bytesAt (putMasked m a bs) o n = bytesAt m o n :=
  bytesAt_congr fun j _ _ => byteAt_putMasked_ne m a bs j (by omega)

/-- The word of an entry's completion (R701). -/
def FenTx.status (t : FenTx) (code : Nat) (kind : BitVec 8) : Nat := code + kind.toNat * 256 + min 0xFFFFFFFF t.oob * 2 ^ 32

section Complete
variable {s : State} {g : Nat} {e : FenTx} {code : Nat} {kind : BitVec 8} {o1 o2 : Nat} {i1 i2 : Option Nat}
  (hfind : s.fen.txs.find? (fun t => decide (t.gal = g) && decide (t.entry = e.entry)) = some e)
  (hphase : e.phase = .ended code kind) (hserves : (s.gal g).st = .opened ∨ (s.gal g).st = .quiescing)
  (hquiet : code = 1 ∨ bitAt (e.word 0) 50 = false)
  (hstatus : s.check g .fenWrite ((s.fenGal g).slot e.entry + 48) = .ok (.shared o1) i1)
  (hdone : s.check g .fenWrite (s.fenGal g).va = .ok (.shared o2) i2)
  (hread : s.check g .fenRead (s.fenGal g).va = .ok (.shared o2) i2) (hlost : s.sharedLost o2 8 = false)
include hfind hphase hserves hquiet hstatus hdone hread hlost

/-- STATUS is written, and then DONE. -/
theorem State.ringComplete_of_shared : s.ringComplete g e.entry =
    (((s.putShared o1 (fullMask (natLe 8 (e.status code kind)))).putShared o2 (fullMask (natLe 8
      (leNat (bytesAt (s.putShared o1 (fullMask (natLe 8 (e.status code kind)))).shared o2 8) + 1)))).dropTx g e.entry e) := by
  have hopen : s.fenClosed g = s := if_pos (GalSt.serves_of hserves)
  have hfault : s.fenFaultWo e code = s := if_pos (by simpa [stDone] using hquiet)
  have hfree : ∀ d, s.fenBlocked g .fenWrite [{ va := (s.fenGal g).slot e.entry + 48, len := 8, wdata := d },
      { va := (s.fenGal g).va, len := 8 }] = none := by
    simp [State.fenBlocked, hstatus, hdone]
  have hput := State.fenPut_of_shared hstatus 8
  have hlost' := (s.putShared_sharedLost o1 (bs := fullMask (natLe 8 (e.status code kind)))
    (by simp [fullMask, natLe]) o2 8).trans hlost
  have hget := State.fenGet_of_shared (s := s.putShared o1 (fullMask (natLe 8 (e.status code kind)))) hread hlost'
  have hput' := State.fenPut_of_shared (s := s.putShared o1 (fullMask (natLe 8 (e.status code kind)))) hdone 8
  unfold FenTx.status at *
  simp only [State.ringComplete, hopen, hfind, hphase, hfree, hfault, hput, hget, hput']
  rfl

end Complete

/-! ### FEN_ registers (R686, R714, R715, R817) -/

theorem State.fenResult_fenPort {s : State} (hp : mwf {} s.fen.ports = true) (q : Nat) (r : FenResult) :
    (s.fenResult q r).fenPort q = { s.fenPort q with result := r } := State.setFenPort_self hp q _

section Holder
variable {s : State} {p : Port} (hs : Serving s)
include hs

theorem exec_fenCfgEpoch (v : W32) : exec (.fenCfgEpoch p v) s = .next (s.fenCfgEpoch p (v.extractLsb' 16 16)) :=
  congrArg Host.Outcome.next (State.whenReady_of_ready hs.live hs.ready _)

theorem exec_fenGal (g : GalleryId) (v : W64) : exec (.fenGal p g v) s = .next (s.fenGalWrite p g v.toNat) :=
  congrArg Host.Outcome.next (State.whenReady_of_ready hs.live hs.ready _)

theorem exec_fenCtrlReset (q : FenPortId) : exec (.fenCtrlReset p q) s = .next (s.fenCtrl p q fun t => t.fenReset q) :=
  congrArg Host.Outcome.next (State.whenReady_of_ready hs.live hs.ready _)

theorem exec_fenCtrlDisable (q : FenPortId) (on : Bool) :
    exec (.fenCtrlDisable p q on) s = .next (s.fenCtrl p q fun t => t.fenDisable q on) :=
  congrArg Host.Outcome.next (State.whenReady_of_ready hs.live hs.ready _)

end Holder

section Judged
variable {s : State} {p : Port}

theorem State.fenCtrl_of_other (h : s.holds p 0 = false) (q : Nat) (f : State → State) :
    s.fenCtrl p q f = s.fenResult q .notOwner :=
  if_pos (by simp [h])

theorem State.fenCtrl_of_holder (h : s.holds p 0 = true) (q : Nat) (f : State → State) :
    s.fenCtrl p q f = (f s).fenResult q .ok :=
  if_neg (by simp [h])

theorem State.fenCfgEpoch_of_other (h : s.holds p 0 = false) (pod : BitVec 16) : s.fenCfgEpoch p pod = s.fenResult 0 .notOwner :=
  if_pos (by simp [h])

theorem State.fenGalWrite_of_locked {g v : Nat} (h : s.holds p 0 = false ∨ ((s.gal g).st ≠ .vacant ∧ (s.gal g).st ≠ .dormant)) :
    s.fenGalWrite p g v = s.fenResult 0 .locked :=
  if_pos (by simpa using h)

variable {g v : Nat} (h : s.holds p 0 = true) (hst : (s.gal g).st = .vacant ∨ (s.gal g).st = .dormant)
include h hst

theorem State.fenGalWrite_of_badValue (hn : bits v 8 4 < 4 ∨ 10 < bits v 8 4) :
    s.fenGalWrite p g v = s.fenResult 0 .badValue :=
  (if_neg (by simpa [h, or_iff_not_imp_left] using hst)).trans (if_pos hn)

theorem State.fenGalWrite_of_ok (hlo : 4 ≤ bits v 8 4) (hhi : bits v 8 4 ≤ 10) : s.fenGalWrite p g v =
    (s.updFenGal g fun x => { x with
      va := bits v 12 40 * 4096, log2n := bits v 8 4, accept := bitAt v 1, enable := bitAt v 0 }).fenResult 0 .ok :=
  (if_neg (by simpa [h, or_iff_not_imp_left] using hst)).trans (if_neg (by omega))

end Judged

/-- The new pod number is in force and the write has been accepted (R686). -/
structure PodSet (pod : BitVec 16) (t : State) : Prop where
  ports : mwf {} t.fen.ports = true
  pod : t.fen.pod = pod
  result : (t.fenPort 0).result = .ok

/-- A port exchanges BRINGUP again and is judged (R689). -/
theorem PodSet.exchange {pod : BitVec 16} {t : State} (h : PodSet pod t) (q : Nat) :
    PodSet pod ((t.sendBringup q).judgePort q) := by
  have hsent : Flows t (t.sendBringup q) := (Flows.refl h.ports).sendFlit q _
  have hbesides := (t.sendBringup q).judgePort_besides q
  have hports : mwf {} ((t.sendBringup q).judgePort q).fen.ports = true := by
    obtain ⟨_, _, _, heq⟩ := hbesides
    rw [heq]
    exact State.mwf_setFenPort hsent.ports q _
  have hpod : ((t.sendBringup q).judgePort q).fen.pod = t.fen.pod := by
    obtain ⟨_, _, hrest⟩ := hsent.rest
    obtain ⟨_, _, _, heq⟩ := hbesides
    rw [heq, hrest]
    rfl
  refine ⟨hports, hpod.trans h.pod, ?_⟩
  have hresult := (FenPort.result_of_settled (hsent.settled 0)).trans h.result
  obtain rfl | hq := eq_or_ne q 0
  · rw [State.judgePort_fenPort hsent.ports, FenPort.judged_result, hresult]
  · rwa [hbesides.fenPort, State.setFenPort_fenPort_ne _ _ hq.symm]

theorem State.fenCfgEpoch_podSet {s : State} (hp : mwf {} s.fen.ports = true) {p : Port} (h : s.holds p 0 = true)
    (pod : BitVec 16) : PodSet pod (s.fenCfgEpoch p pod) := by
  have hresult : (s.fenResult 0 .ok).fenPort 0 = { s.fenPort 0 with result := .ok } := State.fenResult_fenPort hp 0 .ok
  have hports : mwf {} (s.fenResult 0 .ok).fen.ports = true := State.mwf_setFenPort hp 0 _
  have hwrite : s.fenCfgEpoch p pod = if pod = (s.fenResult 0 .ok).fen.pod then s.fenResult 0 .ok else
      (List.range 6).foldl (fun t q => if (t.fenPort q).st = .active ∨ (t.fenPort q).st = .quarantine then
        (t.sendBringup q).judgePort q else t) ((s.fenResult 0 .ok).updFen fun x => { x with pod := pod }) := if_neg (by simp [h])
  rw [hwrite]
  split
  next hsame => exact ⟨hports, hsame.symm, congrArg FenPort.result hresult⟩
  next =>
    have hstart : PodSet pod ((s.fenResult 0 .ok).updFen fun x => { x with pod := pod }) :=
      ⟨hports, rfl, congrArg FenPort.result hresult⟩
    refine List.foldlRecOn (motive := PodSet pod) _ _ hstart fun t ht q _ => ?_
    split
    · exact ht.exchange q
    · exact ht

/-- The port once it has been reset (R817). -/
def FenPort.afterReset (x : FenPort) : FenPort :=
  { x.fresh with
    peerUnit := 0, peerTimeEpoch := 0, peerZhema := 0, peerPort := 0, peerDevno := 0, peerEpoch := 0, peerHash := []
    mismatch := 0, skewValid := false, st := if x.disable || !x.connected then .disabled else .down }

section Ctrl
variable {s : State} (hp : mwf {} s.fen.ports = true) (q : Nat)
include hp

theorem State.mwf_portTo (st : FenSt) : mwf {} (s.portTo q st).fen.ports = true := by
  rw [State.portTo_ports]
  exact mwf_mset _ _ _ _ hp

theorem State.fenReset_besides : Besides ((s.portTo q .down).setFenPort q (s.fenPort q).afterReset) (s.fenReset q) := by
  unfold State.fenReset
  dsimp only
  rw [State.updFenPort, State.portTo_fenPort hp]
  exact State.skewCheck_besides _

theorem State.fenReset_fenPort : mwf {} (s.fenReset q).fen.ports = true ∧
    (s.fenReset q).fenPort q = (s.fenPort q).afterReset := by
  have h := State.fenReset_besides hp q
  have hdown := State.mwf_portTo hp q .down
  refine ⟨?_, (h.fenPort q).trans (State.setFenPort_self hdown q _)⟩
  obtain ⟨_, _, _, heq⟩ := h
  rw [heq]
  exact State.mwf_setFenPort hdown q _

theorem State.fenDisable_on : mwf {} (s.fenDisable q true).fen.ports = true ∧
    (s.fenDisable q true).fenPort q = { (s.fenPort q).fresh with disable := true, st := .disabled } := by
  have hset := State.mwf_setFenPort hp q { s.fenPort q with disable := true }
  refine ⟨State.mwf_portTo hset q .disabled, (State.portTo_fenPort hset q .disabled).trans ?_⟩
  rw [State.setFenPort_self hp]
  rfl

theorem State.fenDisable_off (r : FenResult) : (s.fenDisable q false).fenResult q r = s.setFenPort q { s.fenPort q with
    result := r, disable := false
    st := if (s.fenPort q).st = .disabled ∧ (s.fenPort q).connected then .down else (s.fenPort q).st } := by
  have hoff : s.fenDisable q false = s.setFenPort q { s.fenPort q with
    disable := false, st := if (s.fenPort q).st = .disabled ∧ (s.fenPort q).connected then .down else (s.fenPort q).st } := rfl
  rw [hoff, State.fenResult, State.updFenPort, State.setFenPort_self hp, State.setFenPort_setFenPort hp]

end Ctrl

/-! ### The obligation -/

/-- Settles O48: the registers by the judgement of each write; an entry is taken by what its slot holds, and completed by two
writes. -/
theorem fenlineRegistersAndRings : Obligations.FenlineRegistersAndRings := by
  unfold Obligations.FenlineRegistersAndRings
  intro s p q g hc hs
  have hp := hc.fenPorts
  refine ⟨fun hother => ⟨fun v => ?_, fun v => ?_, ?_, fun on => ?_⟩,
    fun hown => ⟨fun v => ?epoch, fun v => ?ring, ?reset, ?disable, ?enable⟩, ?take, ?complete⟩
  · rw [exec_fenCfgEpoch hs, State.fenCfgEpoch_of_other hother]
    rfl
  · rw [exec_fenGal hs, State.fenGalWrite_of_locked (.inl hother)]
    rfl
  · rw [exec_fenCtrlReset hs, State.fenCtrl_of_other hother]
    rfl
  · rw [exec_fenCtrlDisable hs, State.fenCtrl_of_other hother]
    rfl
  case epoch =>
    have hset := State.fenCfgEpoch_podSet hp hown (v.extractLsb' 16 16)
    exact ⟨_, exec_fenCfgEpoch hs v, hset.pod, hset.result⟩
  case ring =>
    rw [exec_fenGal hs]
    refine ⟨fun hst => ?_, fun hst hn => ?_, fun hst hlo hhi => ?_⟩
    · rw [State.fenGalWrite_of_locked (.inr hst)]
      rfl
    · rw [State.fenGalWrite_of_badValue hown hst hn]
      rfl
    · refine ⟨_, rfl, ?_⟩
      rw [State.fenGalWrite_of_ok hown hst hlo hhi, State.fenResult_fenPort]
      · exact ⟨rfl, mget_mset_same _ _ _ _ hc.fenGals⟩
      · exact hp
  case reset =>
    obtain ⟨hports, hport⟩ := State.fenReset_fenPort hp q
    refine ⟨_, exec_fenCtrlReset hs q, ?_⟩
    rw [State.fenCtrl_of_holder hown, State.fenResult_fenPort hports, hport]
    rfl
  case disable =>
    obtain ⟨hports, hport⟩ := State.fenDisable_on hp q
    refine ⟨_, exec_fenCtrlDisable hs q true, ?_⟩
    rw [State.fenCtrl_of_holder hown, State.fenResult_fenPort hports, hport]
  case enable =>
    rw [exec_fenCtrlDisable hs, State.fenCtrl_of_holder hown, State.fenDisable_off hp]
  case take =>
    rintro x o i bs rfl henable hfault hserves hroom hcheck hlost rfl
    have h : s.Reads g (bytesAt s.shared o 64) := {
      enabled := henable, sound := hfault, serves := hserves, room := hroom
      free := State.fenBlocked_of_shared (r := { va := (s.fenGal g).slot (s.fenGal g).next, len := 64 }) hcheck
      read := State.fenGet_of_shared hcheck hlost, length := bytesAt_length .. }
    refine ⟨fun hother => congrArg Host.Outcome.next (h.ringTake_of_other hother), fun e hnumber he hwords hpeer hfree => ?_⟩
    obtain rfl := State.slotEntry_eq he hwords hpeer
    obtain ⟨hgal, u, hu, hname, hlegal⟩ := State.tookEntry_startTx hc.fenGals g (e := s.slotEntry g (bytesAt s.shared o 64)) rfl
    simp only [FenTx.name, Prod.mk.injEq] at hname
    obtain ⟨hug, hue, huw, hut⟩ := hname
    exact ⟨_, u, congrArg Host.Outcome.next (h.ringTake_of_number hnumber hfree), hgal, hu, hug, hue, huw, hut, hlegal⟩
  case complete =>
    rintro x e code kind o1 o2 i1 i2 rfl hfind hphase hserves hquiet hstatus hdone hread hlost hapart
    refine ⟨_, congrArg Host.Outcome.next (State.ringComplete_of_shared hfind hphase hserves hquiet hstatus hdone hread hlost),
      State.dropTx_absent _ _ _ _, ?_⟩
    have hbeside : bytesAt (s.putShared o1 (fullMask (natLe 8 (e.status code kind)))).shared o2 8 = bytesAt s.shared o2 8 :=
      bytesAt_putMasked_disjoint s.shared (by simpa [fullMask, natLe] using hapart)
    rw [State.dropTx_shared, hbeside, State.putShared_shared, State.putShared_shared, FenTx.status]

end Sys2Proof.Machine

namespace Sys2Proof.Machine

open Sys2Proof.Safety

/-! # Power-up (O55) -/

section Phases
variable {s : State} (bad : List SlotId) (hlow : s.dev.resetLow = false)
include hlow

/-! ### The phases (Table 20-12) -/

theorem State.powerUp_of_rom (h : s.dev.phase = .rom) : s.powerUp bad = s.setPhase .verify := by
  simp [State.powerUp, hlow, h]

theorem State.powerUp_of_verify (h : s.dev.phase = .verify) : s.powerUp bad = (s.selectBoot bad).setPhase .init := by
  simp [State.powerUp, hlow, h]

theorem State.powerUp_of_init (h : s.dev.phase = .init) :
    s.powerUp bad = State.setPhase { s.initDone with dev := { s.initDone.dev with configReady := true } } .ports := by
  simp [State.powerUp, hlow, h]

theorem State.powerUp_of_ports (h : s.dev.phase = .ports) :
    s.powerUp bad = if s.dev.recovery || !s.bootTime 250 then s else s.startFenline.setPhase .fenline := by
  simp [State.powerUp, hlow, h]

theorem State.powerUp_of_fenline (h : s.dev.phase = .fenline) :
    s.powerUp bad = if s.bootTime 300 then s.setPhase .folios else s := by
  simp [State.powerUp, hlow, h]

theorem State.powerUp_of_folios (h : s.dev.phase = .folios) :
    s.powerUp bad = if s.bootTime 700 then s.applyPolicies.setPhase .settle else s := by
  simp [State.powerUp, hlow, h]

theorem State.powerUp_of_settle (h : s.dev.phase = .settle) :
    s.powerUp bad = (State.setPhase { s with dev := { s.dev with ready := true } } .ready).nextEnum := by
  simp [State.powerUp, hlow, h]

end Phases

theorem State.powerUp_of_ready {s : State} (bad : List SlotId) (h : s.dev.phase = .ready) : s.powerUp bad = s := by
  simp [State.powerUp, h]

/-! ### Boot selection (R806 to R808) -/

theorem State.bootable_iff (s : State) (bad : List SlotId) (i : SlotId) : s.bootable bad i = true ↔
    ∃ m, (s.acc.slot i).image = some m ∧ i ∉ bad ∧ s.acc.floor ≤ m.svn ∧ policiesInRange m = true ∧
      (s.acc.slot i).st ≠ .empty ∧ (s.acc.slot i).st ≠ .invalid ∧ (s.acc.slot i).st ≠ .writing := by
  unfold State.bootable
  dsimp only
  split
  next m hm => simp [hm, and_assoc]
  next hm => simp [hm]

theorem State.firstBoots_iff (s : State) (bad : List SlotId) :
    s.firstBoots bad = true ↔ s.bootable bad s.acc.next = true ∧ (s.acc.slot s.acc.next).failed < 3 := by
  simp [State.firstBoots]

section Choice
variable {s : State} {bad : List SlotId}

theorem State.bootChoice_of_first (h : s.firstBoots bad = true) : s.bootChoice bad = some s.acc.next := if_pos h

variable (hfirst : ¬ s.firstBoots bad = true)
include hfirst

theorem State.bootChoice_of_confirmed {j : SlotId} (hj : s.acc.lastConfirmed = some j) (hboots : s.bootable bad j = true) :
    s.bootChoice bad = some j := by
  simp [State.bootChoice, hfirst, hj, hboots]

/-- With neither of the first two candidates, the golden image boots if it may. -/
theorem State.bootChoice_of_neither (hno : ∀ j, s.acc.lastConfirmed = some j → ¬ s.bootable bad j = true) :
    s.bootChoice bad = if s.bootable bad .golden then some .golden else none := by
  unfold State.bootChoice
  rw [if_neg hfirst]
  split
  next j hj => rw [if_neg (hno j hj)]
  next => rfl

omit hfirst in
/-- Table 20-10, with what may boot and whether candidate 1 does named apart. -/
theorem State.bootChoice_of_table {boots : SlotId → Prop} {first : Prop} {i : Option SlotId}
    (hboots : ∀ i, boots i ↔ s.bootable bad i = true) (hfirst : first ↔ s.firstBoots bad = true)
    (htable : (first ∧ i = some s.acc.next) ∨ (¬ first ∧ ∃ j, s.acc.lastConfirmed = some j ∧ boots j ∧ i = some j) ∨
      (¬ first ∧ (∀ j, s.acc.lastConfirmed = some j → ¬ boots j) ∧ boots .golden ∧ i = some .golden) ∨
      (¬ first ∧ (∀ j, s.acc.lastConfirmed = some j → ¬ boots j) ∧ ¬ boots .golden ∧ i = none)) : s.bootChoice bad = i := by
  simp only [hboots, hfirst] at htable
  obtain ⟨hf, rfl⟩ | ⟨hf, j, hj, hb, rfl⟩ | ⟨hf, hno, hg, rfl⟩ | ⟨hf, hno, hg, rfl⟩ := htable
  · exact State.bootChoice_of_first hf
  · exact State.bootChoice_of_confirmed hf hj hb
  · exact (State.bootChoice_of_neither hf hno).trans (if_pos hg)
  · exact (State.bootChoice_of_neither hf hno).trans (if_neg hg)

end Choice

/-! ### Slots -/

section Slots
variable (x : AccState) {i j : SlotId} (v : Slot3)

theorem AccState.setSlot_slot (i : SlotId) : (x.setSlot i v).slot i = v := by cases i <;> rfl

theorem AccState.setSlot_slot_ne (h : j ≠ i) : (x.setSlot i v).slot j = x.slot j := by
  cases i <;> cases j <;> trivial

theorem AccState.setSlot_bootSeq (i : SlotId) : (x.setSlot i v).bootSeq = x.bootSeq := by cases i <;> rfl

theorem AccState.countTrial_slot (i : SlotId) : (x.countTrial i).slot i =
    { x.slot i with failed := (x.slot i).failed + if (x.slot i).st = .trial then 1 else 0 } := by
  unfold AccState.countTrial
  dsimp only
  split
  · exact AccState.setSlot_slot ..
  · rfl

theorem AccState.countTrial_slot_ne (h : j ≠ i) : (x.countTrial i).slot j = x.slot j := by
  unfold AccState.countTrial
  dsimp only
  split
  · exact AccState.setSlot_slot_ne _ _ h
  · rfl

theorem AccState.countTrial_next (i : SlotId) : (x.countTrial i).next = x.next := by
  unfold AccState.countTrial AccState.setSlot
  dsimp only
  split
  · split <;> rfl
  · rfl

end Slots

/-! ### The image that boots (R684, R686, R807, Table 20-5) -/

/-- Steps that change ports one by one change nothing else. -/
theorem foldl_fenPorts {f : State → Nat → State} (hf : ∀ t p, ∃ x, f t p = t.setFenPort p x) (l : List Nat) (s : State) :
    ∃ ps, l.foldl f s = { s with fen := { s.fen with ports := ps } } := by
  have hstart : ∃ ps, s = { s with fen := { s.fen with ports := ps } } := ⟨s.fen.ports, rfl⟩
  refine List.foldlRecOn (motive := fun t => ∃ ps, t = { s with fen := { s.fen with ports := ps } }) l f hstart ?_
  rintro _ ⟨ps, rfl⟩ p _
  obtain ⟨x, hx⟩ := hf { s with fen := { s.fen with ports := ps } } p
  exact ⟨_, hx⟩

/-- The topology loads into the Fenline registers alone; one that names this device gives its number. -/
theorem State.loadTopology_eq (s : State) (m : Image) : ∃ f, s.loadTopology m = { s with fen := f } ∧ f.pod = m.pod ∧
    ∀ y, (m.members.find? fun v => decide (v.unit = s.dev.unit.setWidth 64)) = some y → f.valid = true ∧ f.devno = y.devno := by
  unfold State.loadTopology
  dsimp only
  split
  next hnone =>
    obtain ⟨ps, hps⟩ := foldl_fenPorts (fun t p => ⟨_, rfl⟩) (List.range 6) (s.updFen fun x => { x with pod := m.pod })
    exact ⟨_, hps, rfl, fun y hy => nomatch hnone.symm.trans hy⟩
  next y hy =>
    obtain ⟨ps, hps⟩ := foldl_fenPorts (fun t p => ⟨_, rfl⟩) (List.range 6) _
    refine ⟨_, hps, rfl, fun z hz => ?_⟩
    obtain rfl := Option.some.inj (hy.symm.trans hz)
    exact ⟨rfl, rfl⟩

/-- The registers of ACC_ once slot `i` boots. -/
def AccState.booted (x : AccState) (i : SlotId) : AccState :=
  { x.countTrial i with running := some i, image := (x.slot i).image, bootSeq := x.bootSeq + 1 }

theorem AccState.booted_slot (x : AccState) (i j : SlotId) : (x.booted i).slot j = (x.countTrial i).slot j := by cases j <;> rfl

theorem AccState.booted_next (x : AccState) (i : SlotId) : (x.booted i).next = x.next := x.countTrial_next i

theorem State.runImage_eq (s : State) (i : SlotId) : ∃ f, s.runImage i = { s with acc := s.acc.booted i, fen := f } ∧
    ∀ m y, (s.acc.slot i).image = some m → (m.members.find? fun v => decide (v.unit = s.dev.unit.setWidth 64)) = some y →
      f.valid = true ∧ f.devno = y.devno ∧ f.pod = m.pod := by
  unfold State.runImage
  dsimp only
  split
  next m hm =>
    obtain ⟨f, hf, hpod, hself⟩ := State.loadTopology_eq (s.updAcc' fun x => x.booted i) m
    refine ⟨f, hf, fun m' y hm' hy => ?_⟩
    obtain rfl := Option.some.inj (hm.symm.trans hm')
    obtain ⟨hvalid, hdevno⟩ := hself y hy
    exact ⟨hvalid, hdevno, hpod⟩
  next hm =>
    exact ⟨s.fen, rfl, fun m' y hm' _ => nomatch hm.symm.trans hm'⟩

/-! ### A skipped candidate (R800, R808) -/

theorem State.logFault_head (s : State) (f : FaultInfo) : (s.logFault f).faults.head =
    s.faults.head + if (s.faults.head - s.faults.tail).toNat = 4096 then 0 else 1 := by
  unfold State.logFault
  dsimp only
  split
  · exact (BitVec.add_zero _).symm
  · rw [State.raiseBoth_faults]

theorem State.skippedSlot_of_bootable {s : State} {bad : List SlotId} {i : SlotId} (hi : i ≠ .golden)
    (hst : (s.acc.slot i).st ≠ .empty) (h : s.bootable bad i = true) : (s.skippedSlot bad i).st = .rejected := by
  simp [State.skippedSlot, hi, hst, h]

theorem State.skippedSlot_of_unbootable {s : State} {bad : List SlotId} {i : SlotId} (hi : i ≠ .golden)
    (hst : (s.acc.slot i).st ≠ .empty) (h : ¬ s.bootable bad i = true) :
    (s.skippedSlot bad i).st = .belowFloor ∨ (s.skippedSlot bad i).st = .invalid := by
  simp only [State.skippedSlot, hi, hst, eq_false_of_ne_true h, or_self, Bool.false_eq_true, if_false]
  split
  · split
    · exact .inl rfl
    · exact .inr rfl
  · exact .inr rfl

/-- What skipping candidate 1 for slot `j` leaves. -/
theorem State.rollBack_spec (s : State) (bad : List SlotId) (j : SlotId) :
    (s.rollBack bad j).dev = s.dev ∧ (s.rollBack bad j).acc.next = j ∧ (s.rollBack bad j).acc.bootSeq = s.acc.bootSeq ∧
    (s.rollBack bad j).acc.slot s.acc.next = s.skippedSlot bad s.acc.next ∧
    (s.rollBack bad j).faults.head = s.faults.head + if (s.faults.head - s.faults.tail).toNat = 4096 then 0 else 1 := by
  unfold State.rollBack
  extract_lets i m svn date v t
  have hslot : ∀ k, t.acc.slot k = (s.acc.setSlot i v).slot k := fun k => by cases k <;> rfl
  refine ⟨?_, ?_, ?_, ?_, t.logFault_head _⟩
  · rw [(t.logFault_notes _).device]
    rfl
  · rw [State.logFault_acc]
    rfl
  · rw [State.logFault_acc]
    exact AccState.setSlot_bootSeq s.acc v i
  · rw [State.logFault_acc]
    exact (hslot i).trans (AccState.setSlot_slot ..)

/-- The device just before the chosen slot runs. -/
def State.beforeBoot (s : State) (bad : List SlotId) (j : SlotId) : State := if s.firstBoots bad then s else s.rollBack bad j

theorem State.selectBoot_of_choice {s : State} {bad : List SlotId} {j : SlotId} (h : s.bootChoice bad = some j) :
    s.selectBoot bad = (s.beforeBoot bad j).runImage j := by
  rw [State.selectBoot, h]
  rfl

theorem State.beforeBoot_spec {s : State} {bad : List SlotId} {j : SlotId} (h : s.bootable bad j = true) :
    (s.beforeBoot bad j).dev = s.dev ∧ (s.beforeBoot bad j).acc.bootSeq = s.acc.bootSeq ∧
      ((s.beforeBoot bad j).acc.slot j).image = (s.acc.slot j).image := by
  unfold State.beforeBoot
  split
  · exact ⟨rfl, rfl, rfl⟩
  · obtain ⟨hdev, -, hseq, -, -⟩ := s.rollBack_spec bad j
    exact ⟨hdev, hseq, s.rollBack_image bad j j h⟩

/-! ### INIT (R734, R748) -/

/-- One entry of the fence list is applied. -/
def State.reapplied (t : State) (e : FenceEntry) : State :=
  let i := e.index.toNat
  if !e.valid then t
  else
    match e.kind.toNat with
    | 1 => t.setHearth (i / 16) { t.hearth (i / 16) with grateFenced := (t.hearth (i / 16)).grateFenced ||| oneBit 16 (i % 16) }
    | 2 => t.setHearth i { t.hearth i with fenced := true, cause := e.cause }
    | 3 => t.setCabinet (i / 8) { t.cabinet (i / 8) with fenced := (t.cabinet (i / 8)).fenced ||| oneBit 8 (i % 8) }
    | 4 => t.setHearth i { t.hearth i with stove := { (t.hearth i).stove with fenced := true } }
    | _ => t

theorem State.reapplyFences_eq (s : State) :
    s.reapplyFences none = s.faults.fences.foldl (fun t e => t.reapplied e.2) s := rfl

/-- The unit that an entry names is fenced. -/
structure FenceEntry.Applied (e : FenceEntry) (t : State) : Prop where
  grate : e.kind = 1 → ((t.hearth (e.index.toNat / 16)).grateFenced).getLsbD (e.index.toNat % 16) = true
  hearth : e.kind = 2 → (t.hearth e.index.toNat).fenced = true
  engine : e.kind = 3 → ((t.cabinet (e.index.toNat / 8)).fenced).getLsbD (e.index.toNat % 8) = true
  stove : e.kind = 4 → (t.hearth e.index.toNat).stove.fenced = true

/-- Hearths and Cabinets alone have changed, and no unit has lost its fence. -/
structure FencesKept (s t : State) : Prop where
  rest : ∃ hs cs, t = { s with hearths := hs, cabinets := cs }
  hearths : mwf {} t.hearths = true
  cabinets : mwf {} t.cabinets = true
  grate : ∀ h i, (s.hearth h).grateFenced.getLsbD i = true → (t.hearth h).grateFenced.getLsbD i = true
  hearth : ∀ h, (s.hearth h).fenced = true → (t.hearth h).fenced = true
  engine : ∀ q i, (s.cabinet q).fenced.getLsbD i = true → (t.cabinet q).fenced.getLsbD i = true
  stove : ∀ h, (s.hearth h).stove.fenced = true → (t.hearth h).stove.fenced = true

namespace FencesKept
variable {s t u : State}

theorem refl (hh : mwf {} s.hearths = true) (hc : mwf {} s.cabinets = true) : FencesKept s s :=
  ⟨⟨_, _, rfl⟩, hh, hc, fun _ _ => id, fun _ => id, fun _ _ => id, fun _ => id⟩

theorem trans (h : FencesKept s t) (k : FencesKept t u) : FencesKept s u where
  rest := by
    obtain ⟨_, _, rfl⟩ := h.rest
    obtain ⟨hs, cs, rfl⟩ := k.rest
    exact ⟨hs, cs, rfl⟩
  hearths := k.hearths
  cabinets := k.cabinets
  grate a i := k.grate a i ∘ h.grate a i
  hearth a := k.hearth a ∘ h.hearth a
  engine a i := k.engine a i ∘ h.engine a i
  stove a := k.stove a ∘ h.stove a

theorem applied (h : FencesKept s t) {e : FenceEntry} (he : e.Applied s) : e.Applied t :=
  ⟨fun hk => h.grate _ _ (he.grate hk), fun hk => h.hearth _ (he.hearth hk), fun hk => h.engine _ _ (he.engine hk),
    fun hk => h.stove _ (he.stove hk)⟩

section Set
variable (hh : mwf {} s.hearths = true) (hc : mwf {} s.cabinets = true)
include hh hc

theorem setHearth (h : Nat) {x : Hearth}
    (hgrate : ∀ i, (s.hearth h).grateFenced.getLsbD i = true → x.grateFenced.getLsbD i = true)
    (hhearth : (s.hearth h).fenced = true → x.fenced = true)
    (hstove : (s.hearth h).stove.fenced = true → x.stove.fenced = true) : FencesKept s (s.setHearth h x) := by
  have hself := State.setHearth_hearth s h x hh
  have hread : ∀ j, (s.setHearth h x).hearth j = if j = h then x else s.hearth j := fun j => by
    split
    next hj => rw [hj, hself]
    next hj => exact s.setHearth_hearth_ne h j x hj
  refine ⟨⟨_, _, rfl⟩, mwf_mset _ _ _ _ hh, hc, fun j i hj => ?_, fun j hj => ?_, fun _ _ => id, fun j hj => ?_⟩ <;>
    rw [hread] <;> split
  next heq => exact hgrate i (heq ▸ hj)
  next => exact hj
  next heq => exact hhearth (heq ▸ hj)
  next => exact hj
  next heq => exact hstove (heq ▸ hj)
  next => exact hj

theorem setCabinet (q : Nat) {x : Cabinet} (hengine : ∀ i, (s.cabinet q).fenced.getLsbD i = true → x.fenced.getLsbD i = true) :
    FencesKept s (s.setCabinet q x) := by
  refine ⟨⟨_, _, rfl⟩, hh, mwf_mset _ _ _ _ hc, fun _ _ => id, fun _ => id, fun p i hp => ?_, fun _ => id⟩
  obtain rfl | hne := eq_or_ne p q
  · rw [State.setCabinet_cabinet hc]
    exact hengine i hp
  · exact (congrArg (fun x : Cabinet => x.fenced.getLsbD i) (mget_mset_ne _ _ _ _ _ hne)).trans hp

end Set

end FencesKept

theorem getLsbD_or_oneBit {w : Nat} (x : BitVec w) {i : Nat} (hi : i < w) : (x ||| oneBit w i).getLsbD i = true := by
  rw [BitVec.getLsbD_or, oneBit, BitVec.getLsbD_ofNat, Nat.testBit_two_pow_self, decide_eq_true hi, Bool.and_true, Bool.or_true]

theorem getLsbD_or_of_left {w : Nat} {x : BitVec w} {i : Nat} (hx : x.getLsbD i = true) (y : BitVec w) :
    (x ||| y).getLsbD i = true := by
  simp [hx]

section Reapplied
variable {s : State} (hh : mwf {} s.hearths = true) (hc : mwf {} s.cabinets = true) (e : FenceEntry)
include hh hc

theorem State.reapplied_kept : FencesKept s (s.reapplied e) := by
  unfold State.reapplied
  extract_lets i
  split
  · exact .refl hh hc
  split
  · exact .setHearth hh hc _ (fun _ hx => getLsbD_or_of_left hx _) id id
  · exact .setHearth hh hc _ (fun _ => id) (fun _ => rfl) id
  · exact .setCabinet hh hc _ fun _ hx => getLsbD_or_of_left hx _
  · exact .setHearth hh hc _ (fun _ => id) id fun _ => rfl
  · exact .refl hh hc

theorem State.reapplied_applied (hv : e.valid = true) : e.Applied (s.reapplied e) := by
  refine ⟨fun hk => ?_, fun hk => ?_, fun hk => ?_, fun hk => ?_⟩ <;> simp only [State.reapplied, hv, hk]
  · exact (congrArg (fun x : Hearth => x.grateFenced.getLsbD _) (s.setHearth_hearth _ _ hh)).trans
      (getLsbD_or_oneBit _ (Nat.mod_lt _ (by decide)))
  · exact congrArg Hearth.fenced (s.setHearth_hearth _ _ hh)
  · exact (congrArg (fun x : Cabinet => x.fenced.getLsbD _) (State.setCabinet_cabinet hc _ _)).trans
      (getLsbD_or_oneBit _ (Nat.mod_lt _ (by decide)))
  · exact congrArg (fun x : Hearth => x.stove.fenced) (s.setHearth_hearth _ _ hh)

end Reapplied

/-- Every valid entry of a list is applied. -/
theorem foldl_reapplied_applied {s : State} (hh : mwf {} s.hearths = true) (hc : mwf {} s.cabinets = true)
    (l : List (Nat × FenceEntry)) : FencesKept s (l.foldl (fun t e => t.reapplied e.2) s) ∧
      ∀ e ∈ l, e.2.valid = true → e.2.Applied (l.foldl (fun t e => t.reapplied e.2) s) := by
  induction l generalizing s with
  | nil => exact ⟨.refl hh hc, nofun⟩
  | cons a l ih =>
    have hstep := State.reapplied_kept hh hc a.2
    obtain ⟨hkept, hall⟩ := ih hstep.hearths hstep.cabinets
    refine ⟨hstep.trans hkept, fun e he hv => ?_⟩
    obtain rfl | he := List.mem_cons.1 he
    · exact hkept.applied (State.reapplied_applied hh hc e.2 hv)
    · exact hall e he hv

theorem State.bookNext_acc (s : State) : s.bookNext.acc = s.acc := by
  unfold State.bookNext
  split
  · rfl
  · unfold State.bookAppend
    dsimp only
    split <;> rfl

theorem State.sealDone_acc (s : State) : s.sealDone.acc = s.acc := by
  unfold State.sealDone State.bookAll
  refine List.foldlRecOn (motive := fun (t : State) => t.acc = s.acc) _ _ (State.logFault_acc ..) fun t ht _ _ => ?_
  exact t.bookNext_acc.trans ht

section Init
variable {s : State} (hh : mwf {} s.hearths = true) (hc : mwf {} s.cabinets = true)
include hh hc

theorem State.reapplyFences_kept : FencesKept s (s.reapplyFences none) := (foldl_reapplied_applied hh hc s.faults.fences).1

theorem State.reapplyFences_faults : (s.reapplyFences none).faults = s.faults := by
  obtain ⟨_, _, hrest⟩ := (State.reapplyFences_kept hh hc).rest
  rw [hrest]

/-- Without a seal to finish, INIT applies the fence list and loads the keys. -/
theorem State.initDone_of_unsealing (h : s.faults.intent = false ∨ s.faults.sealed = true) :
    s.initDone = (s.reapplyFences none).updAcc' fun x => { x with keys := x.vault } := by
  refine if_neg ?_
  have hfaults := State.reapplyFences_faults hh hc
  obtain hno | hdone := h
  · simp [State.updAcc', hfaults, hno]
  · simp [State.updAcc', hfaults, hdone]

/-- An interrupted Return seal is finished. -/
theorem State.initDone_of_sealing (hintent : s.faults.intent = true) (hsealed : s.faults.sealed = false) :
    s.initDone.faults.sealed = true ∧ s.initDone.faults.frozen = true ∧ s.initDone.acc.keys = [] ∧ s.initDone.acc.vault = [] := by
  have hseal : s.initDone = (((s.reapplyFences none).updAcc' fun x => { x with keys := x.vault }).updAcc' fun x =>
      { x with keys := [], vault := [] }).sealDone :=
    if_pos (by simp [State.updAcc', State.reapplyFences_faults hh hc, hintent, hsealed])
  rw [hseal, State.sealDone_acc]
  exact ⟨rfl, rfl, rfl, rfl⟩

end Init

/-! ### The later phases (R684, R797) -/

/-- A connected port leaves electrical idle. -/
def FenPort.started (x : FenPort) : FenPort :=
  if x.connected && !x.disable && decide (x.st = .down) then { x with st := .training } else x

theorem State.startFenline_fenPort {s : State} (hp : mwf {} s.fen.ports = true) {p : Nat} (hlt : p < 6) :
    s.startFenline.fenPort p = (s.fenPort p).started :=
  ((foldl_pointwise (ok := fun t => mwf {} t.fen.ports = true) (read := State.fenPort) (g := FenPort.started)
    (fun t p ht => ⟨State.mwf_setFenPort ht p _, State.setFenPort_self ht p _, fun _ hq => t.setFenPort_fenPort_ne _ hq⟩)
    List.nodup_range hp).2 p).trans (if_pos (List.mem_range.2 hlt))

/-- The default policies of the image in force (Table 20-4). -/
def State.policies (s : State) (m : Image) : State :=
  { s with
    tb := { s.tb with ppsEn := bitAt m.timeCtrl.toNat 0, ppsStep := bitAt m.timeCtrl.toNat 1 }
    ledger := { s.ledger with snpTimeout := m.snpTimeout }
    acc := { s.acc with graceMs := m.graceMs } }

theorem State.applyPolicies_of_image {s : State} {m : Image} (h : s.acc.image = some m) :
    s.applyPolicies = (s.policies m).avsRequest m.bootMv := by
  simp only [State.applyPolicies, h]
  rfl

theorem State.avsRequest_eq (s : State) (v : Nat) : ∃ x o, s.avsRequest v = { s with pace := x, out := o } ∧ x.mv = v ∧
    (s.pace.busy = false → .avsVoltage v ∈ o) := by
  cases hbusy : s.pace.busy with
  | true => exact ⟨_, _, State.avsRequest_of_busy hbusy, rfl, nofun⟩
  | false => exact ⟨_, _, State.avsRequest_of_idle hbusy, rfl, fun _ => List.mem_append_right _ List.mem_cons_self⟩

theorem State.nextEnum_eq (s : State) : ∃ m, s.nextEnum = { s with bays := m } := by
  unfold State.nextEnum
  split
  · exact ⟨_, rfl⟩
  · split <;> exact ⟨_, rfl⟩

/-! ### The obligation -/

theorem exec_powerUpPhase (bad : List SlotId) (s : State) : exec (.powerUpPhase bad) s = .next (s.powerUp bad) := rfl

section Verify
variable {s : State} {bad : List SlotId} {j : SlotId} (hchoice : s.bootChoice bad = some j)
include hchoice

/-- The slot of Table 20-10 runs its image (R806 to R808). -/
theorem State.selectBoot_spec : (s.selectBoot bad).dev = s.dev ∧
    (s.selectBoot bad).acc = (s.beforeBoot bad j).acc.booted j ∧ (s.selectBoot bad).acc.image = (s.acc.slot j).image ∧
    (s.selectBoot bad).acc.bootSeq = s.acc.bootSeq + 1 ∧ (s.selectBoot bad).faults = (s.beforeBoot bad j).faults ∧
    ∀ m y, (s.acc.slot j).image = some m → (m.members.find? fun v => decide (v.unit = s.dev.unit.setWidth 64)) = some y →
      (s.selectBoot bad).fen.valid = true ∧ (s.selectBoot bad).fen.devno = y.devno ∧ (s.selectBoot bad).fen.pod = m.pod := by
  obtain ⟨hdev, hseq, himage⟩ := State.beforeBoot_spec (State.bootChoice_bootable hchoice)
  obtain ⟨f, hrun, htopology⟩ := (s.beforeBoot bad j).runImage_eq j
  rw [State.selectBoot_of_choice hchoice, hrun]
  refine ⟨hdev, rfl, himage, congrArg (· + 1) hseq, rfl, fun m y hm hy => htopology m y (himage.trans hm) ?_⟩
  rw [hdev]
  exact hy

/-- Candidate 1 boots: a TRIAL slot's failed-boot count is raised (R807). -/
theorem State.selectBoot_of_first (hfirst : s.firstBoots bad = true) :
    (s.selectBoot bad).acc.next = s.acc.next ∧ (s.selectBoot bad).faults = s.faults ∧ (s.selectBoot bad).acc.slot j =
      { s.acc.slot j with failed := (s.acc.slot j).failed + if (s.acc.slot j).st = .trial then 1 else 0 } := by
  obtain ⟨-, hacc, -, -, hfaults, -⟩ := State.selectBoot_spec hchoice
  have hbefore : s.beforeBoot bad j = s := if_pos hfirst
  rw [hacc, hfaults, hbefore, AccState.booted_slot]
  exact ⟨AccState.booted_next .., rfl, AccState.countTrial_slot ..⟩

/-- Candidate 1 was skipped: its slot shows it, and a record says so (R800, R808). -/
theorem State.selectBoot_of_skipped (hfirst : ¬ s.firstBoots bad = true) :
    (s.selectBoot bad).acc.next = j ∧ (s.selectBoot bad).faults.head =
        s.faults.head + (if (s.faults.head - s.faults.tail).toNat = 4096 then 0 else 1) ∧
      (j ≠ s.acc.next → (s.selectBoot bad).acc.slot s.acc.next = s.skippedSlot bad s.acc.next) := by
  obtain ⟨-, hacc, -, -, hfaults, -⟩ := State.selectBoot_spec hchoice
  obtain ⟨-, hnext, -, hslot, hhead⟩ := s.rollBack_spec bad j
  have hbefore : s.beforeBoot bad j = s.rollBack bad j := if_neg hfirst
  rw [hacc, hfaults, hbefore, AccState.booted_slot]
  exact ⟨(AccState.booted_next ..).trans hnext, hhead, fun hj => (AccState.countTrial_slot_ne _ hj.symm).trans hslot⟩

end Verify

/-- Settles O55, phase by phase: VERIFY by the slot that Table 20-10 chooses, INIT by the entries of the fence list in turn. The
times are lower bounds, and a part in RECOVERY stays at the PORTS phase, as the model's log entry 105 has it. -/
theorem powerUpPhases : Obligations.PowerUpPhases := by
  unfold Obligations.PowerUpPhases
  rintro s bad x boots go hcanon hlow rfl hgo hboots
  have hgo' : ∀ t, s.powerUp bad = t → go t := fun t ht => (hgo t).2 ((exec_powerUpPhase bad s).trans (congrArg _ ht))
  have hboots' : ∀ i, boots i ↔ s.bootable bad i = true := fun i => (hboots i).trans (s.bootable_iff bad i).symm
  refine ⟨fun h => hgo' _ (State.powerUp_of_rom bad hlow h),
    fun h first i hfirst htable => ⟨fun hnone => ?recovery, fun j hj => ?boot⟩,
    fun h => ⟨fun hintent hsealed => ?sealing, fun hno => ?init⟩, fun h => ⟨fun hwait => ?waits, fun hup hdue => ?ports⟩,
    fun h => ⟨fun hearly => ?early, fun hdue => ?due⟩, fun h => ⟨fun hearly => ?hold, fun hdue m hm => ?folios⟩, fun h => ?settle,
    fun h => hgo' _ (State.powerUp_of_ready bad h)⟩
  case recovery =>
    have hchoice := State.bootChoice_of_table hboots' (by rw [hfirst, hboots', State.firstBoots_iff]) htable
    refine hgo' _ ((State.powerUp_of_verify bad hlow h).trans ?_)
    rw [State.selectBoot, hchoice, hnone]
    rfl
  case boot =>
    have hfirst' : first ↔ s.firstBoots bad = true := by rw [hfirst, hboots', State.firstBoots_iff]
    have hchoice := (State.bootChoice_of_table hboots' hfirst' htable).trans hj
    obtain ⟨hdev, hacc, himage, hseq, -, htopology⟩ := State.selectBoot_spec hchoice
    refine ⟨_, hgo' _ (State.powerUp_of_verify bad hlow h), congrArg (fun d : Dev => { d with phase := .init }) hdev,
      congrArg AccState.running hacc, himage, hseq, fun hf => State.selectBoot_of_first hchoice (hfirst'.1 hf), fun hf => ?_,
      fun m y hm => htopology m y (himage.symm.trans hm)⟩
    obtain ⟨hnext, hhead, hskipped⟩ := State.selectBoot_of_skipped hchoice (mt hfirst'.2 hf)
    refine ⟨hnext, hhead, fun hgold hne hst => ?_⟩
    have hslot : ((s.selectBoot bad).setPhase .init).acc.slot s.acc.next = s.skippedSlot bad s.acc.next := hskipped hne
    rw [hslot, hboots']
    exact ⟨State.skippedSlot_of_bootable hgold hst, State.skippedSlot_of_unbootable hgold hst⟩
  case sealing =>
    exact ⟨_, hgo' _ (State.powerUp_of_init bad hlow h),
      State.initDone_of_sealing hcanon.hearths hcanon.cabinets hintent hsealed⟩
  case init =>
    have hdone := State.initDone_of_unsealing hcanon.hearths hcanon.cabinets hno
    obtain ⟨hkept, hall⟩ := foldl_reapplied_applied hcanon.hearths hcanon.cabinets s.faults.fences
    rw [← State.reapplyFences_eq] at hkept hall
    obtain ⟨_, _, hrest⟩ := hkept.rest
    refine ⟨_, hgo' _ (State.powerUp_of_init bad hlow h), ?_, ?_, ?_, ?_⟩
    · rw [hdone, hrest]
      rfl
    · rw [hdone, hrest]
      rfl
    · rw [hdone, hrest]
      rfl
    · rintro n e rfl hvalid
      obtain hdefault | hmem := mget_eq_default_or_mem {} s.faults.fences n
      · rw [hdefault] at hvalid
        cases hvalid
      · have happlied := hall _ hmem hvalid
        rw [hdone]
        exact ⟨happlied.grate, happlied.hearth, happlied.engine, happlied.stove⟩
  case waits => exact hgo' _ ((State.powerUp_of_ports bad hlow h).trans (if_pos (by simpa [State.bootTime] using hwait)))
  case ports =>
    refine ⟨_, hgo' _ ((State.powerUp_of_ports bad hlow h).trans (if_neg (by simp [State.bootTime, hup, hdue]))), rfl,
      fun p hp => (State.startFenline_fenPort hcanon.fenPorts hp).trans ?_⟩
    simp [FenPort.started, and_assoc]
  case early => exact hgo' _ ((State.powerUp_of_fenline bad hlow h).trans (if_neg (by simpa [State.bootTime] using hearly)))
  case due => exact hgo' _ ((State.powerUp_of_fenline bad hlow h).trans (if_pos (by simpa [State.bootTime] using hdue)))
  case hold => exact hgo' _ ((State.powerUp_of_folios bad hlow h).trans (if_neg (by simpa [State.bootTime] using hearly)))
  case folios =>
    obtain ⟨x, o, hrequest, hmv, hsent⟩ := (s.policies m).avsRequest_eq m.bootMv
    refine ⟨_, hgo' _ ((State.powerUp_of_folios bad hlow h).trans (if_pos (by simpa [State.bootTime] using hdue))), rfl, ?_⟩
    rw [State.applyPolicies_of_image hm, hrequest]
    exact ⟨rfl, rfl, rfl, rfl, hmv, hsent⟩
  case settle =>
    obtain ⟨bays, hbays⟩ := State.nextEnum_eq (State.setPhase { s with dev := { s.dev with ready := true } } .ready)
    exact ⟨_, hgo' _ ((State.powerUp_of_settle bad hlow h).trans hbays), rfl, rfl⟩

end Sys2Proof.Machine

namespace Sys2Proof.Machine

open Sys2Proof.Safety

/-! # The step, and what no command does (O1, O5, O6) -/

/-- Settles O1: a queue that holds a command is `step`'s second case (log entry 1). -/
theorem stepRunsFrontCommand : Obligations.StepRunsFrontCommand := by
  unfold Obligations.StepRunsFrontCommand
  intro c rest s hs
  simp [step, hs]

/-- Settles O5: what `exec_keeps` says of one command, and a step runs one. -/
theorem nothingIsUndone : Obligations.NothingIsUndone := by
  unfold Obligations.NothingIsUndone
  refine ⟨fun c s t hx => ?_, fun c s t hx => ?_, fun c rest s t hs hstep => ?_⟩
  · have hk := exec_keeps hx
    exact ⟨hk.unit, hk.grade, hk.mfg⟩
  · have hk := exec_keeps hx
    exact ⟨hk.floor, hk.sealed⟩
  · rw [stepRunsFrontCommand c rest s hs] at hstep
    exact (exec_keeps hstep).pending

/-- Only a Conservator unlock can end in anything but a next state: every other command's meaning is one by its form. -/
theorem completes_of_ne_conservatorUnlock {c : Instr} (s : State) (hc : ∀ b, c ≠ .conservatorUnlock b) : Completes c s := by
  cases c
  case conservatorUnlock b => exact absurd rfl (hc b)
  all_goals exact ⟨_, rfl⟩

theorem exec_conservatorUnlock (signed : Bool) (s : State) : exec (.conservatorUnlock signed) s =
    if signed = true ∧ s.faults.sealed = true then .refused .conservatorMode
    else .next (s.logFault { event := 0x32, cls := 0, unitKind := 11 }) := by
  simp [exec, execConservatorUnlock]

/-- Settles O6: the unlock by its one test, every other command by its form. -/
theorem onlyConservatorModeStops : Obligations.OnlyConservatorModeStops := by
  unfold Obligations.OnlyConservatorModeStops
  intro c s
  refine ⟨fun ⟨hc, hsealed⟩ => ?_, fun hno => ?_⟩
  · simp [hc, exec_conservatorUnlock, hsealed]
  · by_cases hc : ∃ b, c = .conservatorUnlock b
    · obtain ⟨b, rfl⟩ := hc
      have hrefuse : ¬ (b = true ∧ s.faults.sealed = true) := fun ⟨hb, hsealed⟩ => hno ⟨by rw [hb], hsealed⟩
      exact ⟨_, (exec_conservatorUnlock b s).trans (if_neg hrefuse)⟩
    · exact completes_of_ne_conservatorUnlock s (not_exists.mp hc)

end Sys2Proof.Machine

namespace Sys2Proof.Machine

open Sys2Proof.Safety

/-! # The test access port (O57) -/

theorem getLast_cons_eq_getD {α : Type} (a : α) (l : List α) (h : a :: l ≠ []) : (a :: l).getLast h = l.getLast?.getD a := by
  have hlast := List.getLast?_eq_some_getLast h
  rw [List.getLast?_cons] at hlast
  exact (Option.some.inj hlast).symm

/-- Settles O57, instruction by instruction. That TRST_N selects IDCODE and keeps the owed reset is log entry 18 (PRESUMED);
that the boundary register is as long as the shift is log entry 109 (DESIGN CHOICE). -/
theorem testAccessPort : Obligations.TestAccessPort := by
  unfold Obligations.TestAccessPort
  intro s pins shift put hput
  simp only [hput]
  refine ⟨?extest, rfl, ⟨(List.range 32).map fun i => idcode.getLsbD i, by simp, ?idcode, rfl⟩, ?bypass, rfl⟩
  case extest =>
    rintro c ir (⟨rfl, rfl⟩ | ⟨rfl, rfl⟩ | ⟨rfl, rfl⟩) <;> rfl
  case idcode =>
    intro n hn
    simp [hn, idcode]
  case bypass =>
    rintro bs last rfl rfl
    rw [getLast_cons_eq_getD]
    exact ⟨rfl, rfl, rfl⟩

/-! # Configuration requests (O22) -/

/-- Settles O22, request by request. That every dword but 0 and 2 reads as an opaque configuration space until it is written,
and then holds what was written, is log entry 28 (PRESUMED). -/
theorem configurationRequests : Obligations.ConfigurationRequests := by
  unfold Obligations.ConfigurationRequests
  intro p s
  refine ⟨fun r hno => ?retry, fun hready hperst => ?ready⟩
  case retry =>
    have hretry : ¬ (s.dev.configReady && (s.port p).perstHigh) = true := by
      rw [Bool.and_eq_true, not_and_or]
      simpa using hno
    exact congrArg Host.Outcome.next (if_neg hretry)
  case ready =>
    have hserved (r : CfgReq) : exec (.configRequest p r) s = .next (s.cfgApply p r) :=
      congrArg Host.Outcome.next (if_pos (by simp [hready, hperst]))
    simp only [hserved]
    refine ⟨rfl, fun d h0 h2 => ?read, fun d v h0 h2 => ?write, fun _ _ => rfl, fun v a d m hv => ?msix, fun _ => rfl,
      fun _ => rfl⟩
    case read => simp [State.cfgApply, State.cfgRead, State.send, h0, h2]
    case write => simp [State.cfgApply, h0, h2]
    case msix => simp [State.cfgApply, hv]

/-! # Management (O56) -/

/-! ### When management answers (Table 20-13) -/

theorem ms_mono {m n : Nat} (h : m ≤ n) : ms m ≤ ms n :=
  Nat.mul_le_mul_right _ (Nat.mul_le_mul_right _ (Nat.mul_le_mul_right _ h))

section Managed

variable {s : State}

theorem State.managed_served {i : MgmtIf} {early f : State → State} (hlow : s.dev.resetLow = false)
    (hup : s.dev.bootStart + ms 400 ≤ s.tb.elapsed) : s.managed i early f = f s := by
  simp [State.managed, State.bootTime, hlow, hup]

theorem State.overMctp_served {i : MgmtIf} {early f : State → State} (hlow : s.dev.resetLow = false)
    (hup : s.dev.bootStart + ms 400 ≤ s.tb.elapsed) (hi : ∀ p, i ≠ .doe p) : s.overMctp i early f = f s := by
  have hcarries : carriesMctp i = true := by
    unfold carriesMctp
    split
    · exact absurd rfl (hi _)
    · rfl
  rw [State.overMctp, if_pos hcarries, State.managed_served hlow hup]

/-- Before 400 ms `early` answers what comes over the host ports. -/
theorem State.managed_early {i : MgmtIf} {early f : State → State} (hlow : s.dev.resetLow = false)
    (hearly : s.tb.elapsed < s.dev.bootStart + ms 400) (hi : ∃ p, i = .vdm p ∨ i = .doe p) : s.managed i early f = early s := by
  obtain ⟨p, rfl | rfl⟩ := hi <;> simp [State.managed, State.bootTime, hlow, Nat.not_le.mpr hearly]

theorem State.overMctp_early {p : Port} {early f : State → State} (hlow : s.dev.resetLow = false)
    (hearly : s.tb.elapsed < s.dev.bootStart + ms 400) : s.overMctp (.vdm p) early f = early s :=
  (if_pos rfl).trans (State.managed_early hlow hearly ⟨p, .inl rfl⟩)

/-- Before 20 ms the two-wire target does not acknowledge its address. -/
theorem State.managed_notAcked {i : MgmtIf} {early f : State → State} (hlow : s.dev.resetLow = false)
    (hearly : s.tb.elapsed < s.dev.bootStart + ms 20) (hi : i = .i3c ∨ i = .smbus) :
    s.managed i early f = s.send (.notAcked i) := by
  have h400 : s.tb.elapsed < s.dev.bootStart + ms 400 := lt_of_lt_of_le hearly (Nat.add_le_add_left (ms_mono (by decide)) _)
  obtain rfl | rfl := hi <;>
    simp [State.managed, State.bootTime, hlow, Nat.not_le.mpr hearly, Nat.not_le.mpr h400]

theorem State.overMctp_notAcked {i : MgmtIf} {early f : State → State} (hlow : s.dev.resetLow = false)
    (hearly : s.tb.elapsed < s.dev.bootStart + ms 20) (hi : i = .i3c ∨ i = .smbus) :
    s.overMctp i early f = s.send (.notAcked i) := by
  rw [State.overMctp, State.managed_notAcked hlow hearly hi]
  obtain rfl | rfl := hi <;> rfl

end Managed

/-! ### Sensors (Table 20-16) -/

theorem State.sixteenth_exact (s : State) {v r : Int} (h : 16 * r = v) : s.sixteenth v = (s, r) := by
  have hmod : v % 16 = 0 := by omega
  have hdiv : v / 16 = r := by omega
  rw [State.sixteenth, if_pos hmod, hdiv]

theorem BayId.sensor_toNat (n : BitVec 16) (b : BayId) (hn : n.toNat < 100) : (n + BitVec.ofNat 16 b.val).toNat = n.toNat + b.val := by
  have := b.isLt
  rw [BitVec.toNat_add, BitVec.toNat_ofNat, Nat.mod_eq_of_lt (by omega : b.val < 2 ^ 16), Nat.mod_eq_of_lt (by omega)]

/-- The numeric sensor of bay `b`. -/
theorem State.numericSensor_bay (s : State) (b : BayId) :
    s.numericSensor (16 + BitVec.ofNat 16 b.val : BitVec 16).toNat = some (s, ((s.bay b).wearPct : Int)) := by
  have := b.isLt
  rw [BayId.sensor_toNat 16 b (by decide), show (16 : BitVec 16).toNat = 16 from rfl]
  simp only [State.numericSensor]
  rw [if_neg (by omega), if_neg (by omega), if_neg (by omega), if_neg (by omega), if_neg (by omega), if_pos (by omega),
    Nat.add_sub_cancel_left]

theorem State.numericSensor_none (s : State) {n : Nat} (h : n = 0 ∨ (5 < n ∧ n < 16) ∨ 23 < n) : s.numericSensor n = none := by
  simp only [State.numericSensor]
  rw [if_neg (by omega), if_neg (by omega), if_neg (by omega), if_neg (by omega), if_neg (by omega), if_neg (by omega)]

/-- The state sensor of bay `b`. -/
theorem State.stateSensor_bay (s : State) (b : BayId) :
    s.stateSensor (40 + BitVec.ofNat 16 b.val : BitVec 16).toNat = some (s.bay b).st.code := by
  have := b.isLt
  rw [BayId.sensor_toNat 40 b (by decide), show (40 : BitVec 16).toNat = 40 from rfl, State.stateSensor, if_neg (by omega),
    if_pos (by omega), Nat.add_sub_cancel_left]

theorem State.stateSensor_none (s : State) {n : Nat} (h32 : n ≠ 32) (h : n < 40 ∨ 47 < n) : s.stateSensor n = none := by
  rw [State.stateSensor, if_neg h32, if_neg (by omega)]

/-! ### Measurements and negotiation (R823, R824) -/

theorem mem_seeIf (l : List MgmtIf) (i : MgmtIf) : i ∈ seeIf l i := by
  unfold seeIf
  split
  · simpa using ‹l.contains i = true›
  · simp

theorem not_mem_dropIf (l : List MgmtIf) (i : MgmtIf) : i ∉ dropIf l i := by simp [dropIf]

theorem State.spdmAfter_mem {s : State} {i : MgmtIf} {seen : List MgmtIf} {f : State → State} (h : i ∈ seen) :
    s.spdmAfter i seen f = f s := if_pos (by simpa using h)

theorem State.spdmAfter_not_mem {s : State} {i : MgmtIf} {seen : List MgmtIf} {f : State → State} (h : i ∉ seen) :
    s.spdmAfter i seen f = s.send (.spdmError i spdmUnexpected) := if_neg (by simpa using h)

theorem State.measured_image {s : State} {m : Image} (h : s.acc.image = some m) : s.measured 2 = some [(2, m.hash)] := by
  simp [State.measured, State.measurement, h]

theorem State.measured_faults (s : State) : s.measured 5 =
    some [(5, [(if s.faults.sealed then 1 else 0) + (if s.faults.frozen then 2 else 0)])] := by
  have hbits : natLe 1 (b2n s.faults.sealed + b2n s.faults.frozen * 2) =
      [(if s.faults.sealed then 1 else 0) + (if s.faults.frozen then 2 else 0)] := by
    cases s.faults.sealed <;> cases s.faults.frozen <;> rfl
  simp [State.measured, State.measurement, hbits]

theorem State.measured_none (s : State) {n : Nat} (h13 : 13 < n) (h255 : n < 255) : s.measured n = none := by
  rw [State.measured, if_neg (by omega), if_neg (by omega), if_neg (by omega)]

/-! ### The obligation -/

/-- Settles O56: each request by when it comes, then by what it asks for. That MCTP control is dropped before 400 ms over the
host ports too is log entry 108 (DEDUCED); command and error codes are log entry 60. -/
theorem managementAnswers : Obligations.ManagementAnswers := by
  unfold Obligations.ManagementAnswers
  refine ⟨fun s i p q hlow hearly => ⟨fun c => ⟨?control, ?pldm, ?spdm, ?doe, fun h20 => ?notAcked⟩, fun h20 => ⟨fun b => ?identity, fun a => ?address⟩⟩,
    fun s i p say hlow hup hsay => ?served⟩
  case control =>
    rintro (⟨e, rfl⟩ | rfl | rfl | rfl) rfl <;> exact congrArg Host.Outcome.next (State.overMctp_early hlow hearly)
  case pldm =>
    rintro ty n (⟨⟨r, rfl⟩, rfl, rfl⟩ | ⟨⟨r, rfl⟩, rfl, rfl⟩ | ⟨⟨r, rfl⟩, rfl, rfl⟩ | ⟨rfl, rfl, rfl⟩) rfl <;>
      exact congrArg Host.Outcome.next (State.overMctp_early hlow hearly)
  case spdm =>
    rintro (rfl | rfl | ⟨b, rfl⟩ | rfl | ⟨n, a, b, rfl⟩ | ⟨n, a, rfl⟩ | ⟨n, rfl⟩ | ⟨b, rfl⟩) hi <;>
      exact congrArg Host.Outcome.next (State.managed_early hlow hearly ⟨p, hi⟩)
  case doe =>
    rintro (⟨n, rfl⟩ | ⟨n, rfl⟩) <;>
      exact congrArg Host.Outcome.next (State.managed_early hlow hearly ⟨q, .inr rfl⟩)
  case notAcked =>
    have hbefore : (s.dev.resetLow || !s.bootTime 20) = true := by simp [State.bootTime, hlow, Nat.not_le.mpr h20]
    rintro (⟨b, rfl, rfl⟩ | ⟨⟨a, rfl⟩, rfl⟩ | ⟨hi, rfl | rfl | rfl⟩)
    · exact congrArg Host.Outcome.next (if_pos hbefore)
    · exact congrArg Host.Outcome.next (if_pos hbefore)
    · exact congrArg Host.Outcome.next (State.overMctp_notAcked hlow h20 hi)
    · exact congrArg Host.Outcome.next (State.managed_notAcked hlow h20 hi)
    · exact congrArg Host.Outcome.next (State.overMctp_notAcked hlow h20 hi)
  case identity =>
    have hfrom : ¬ (s.dev.resetLow || !s.bootTime 20) = true := by simp [State.bootTime, hlow, h20]
    exact ⟨_, congrArg Host.Outcome.next (if_neg hfrom)⟩
  case address =>
    have hfrom : ¬ (s.dev.resetLow || !s.bootTime 20) = true := by simp [State.bootTime, hlow, h20]
    exact congrArg Host.Outcome.next (if_neg hfrom)
  case served =>
    have hsend (t : State) (o : Out) : t.send o = say t o := (hsay t o).symm
    have hspdm (f : State → State) : s.spdm i f = f s := State.managed_served hlow hup
    have hdoe (f : State → State) : s.doe p f = f s := State.managed_served hlow hup
    refine ⟨fun hi => ?mctp, ?version, fun hv => ?capabilities, fun hcaps => ⟨?algorithms, ?refused⟩, fun halgs => ?attest,
      fun halgs c hc => ?unexpected, fun b => ?keys, fun n => ?discovery, fun n => ?cdat⟩
    case mctp =>
      have hcontrol (f : State → State) : s.control i f = f s := State.overMctp_served hlow hup hi
      have hpldm (ty cmd : Nat) (f : State → State) : s.pldm i ty cmd f = f s := State.overMctp_served hlow hup hi
      simp only [exec, execSetEndpointId, execGetEndpointId, execGetMctpVersionSupport, execGetMessageTypeSupport, execPldmBase,
        execGetpdr, execGetsensorreading, execGetstatesensorreadings, hcontrol, hpldm, State.pldmBase, pldmBaseCode, hsend]
      refine ⟨fun _ => trivial, trivial, ⟨_, rfl⟩, trivial, fun _ => trivial, trivial, trivial, fun _ => ⟨_, rfl⟩, ?numeric,
        ?unknown, rfl, ?bay, ?none⟩
      case numeric =>
        rintro v t rfl
        refine ⟨?_, ?_, fun b => ?_, fun hv => ?_⟩
        · rintro rfl; rfl
        · rintro rfl; rfl
        · rintro rfl
          rw [State.numericSensor_bay]
          rfl
        · rw [show s.numericSensor (1 : BitVec 16).toNat = some (s.sixteenth s.pace.tjMax.toInt) from rfl,
            State.sixteenth_exact s hv]
          rfl
      case unknown =>
        intro n hn
        rw [State.numericSensor_none s hn]
        rfl
      case bay =>
        intro b
        rw [State.stateSensor_bay]
      case none =>
        intro n h32 hn
        rw [State.stateSensor_none s (fun h => h32 (BitVec.eq_of_toNat_eq h)) hn]
        rfl
    case version =>
      exact ⟨_, congrArg Host.Outcome.next (hspdm _), mem_seeIf _ _, not_mem_dropIf _ _, not_mem_dropIf _ _, rfl⟩
    case capabilities =>
      exact ⟨_, _, congrArg Host.Outcome.next ((hspdm _).trans (State.spdmAfter_mem hv)), mem_seeIf _ _, rfl⟩
    case algorithms =>
      exact ⟨_, _, congrArg Host.Outcome.next ((hspdm _).trans (State.spdmAfter_mem hcaps)), mem_seeIf _ _, rfl⟩
    case refused =>
      exact congrArg Host.Outcome.next ((hspdm _).trans ((State.spdmAfter_mem hcaps).trans (hsend _ _)))
    case attest =>
      have hafter (f : State → State) : s.spdmAfter i s.mgmt.algsOn f = f s := State.spdmAfter_mem halgs
      simp only [exec, execGetDigests, execGetCertificate, execSpdmChallenge, execGetMeasurements, hspdm, hafter, hsend]
      refine ⟨⟨_, rfl⟩, ⟨_, fun _ _ => rfl⟩, fun _ => ⟨_, rfl⟩, fun slot off len n hslot => ?slot, fun m hm => ?image, ?faults,
        ⟨_, rfl, rfl⟩, rfl, fun n h13 h255 => ?beyond⟩
      case slot => simp only [if_neg hslot]; exact ⟨rfl, rfl⟩
      case image => rw [show (2 : Byte).toNat = 2 from rfl, State.measured_image hm]
      case faults => rw [show (5 : Byte).toNat = 5 from rfl, State.measured_faults]
      case beyond => rw [State.measured_none s h13 h255]; rfl
    case unexpected =>
      have hsaid (f : State → State) : s.spdm i (fun s => s.spdmAfter i s.mgmt.algsOn f) = say s (.spdmError i 0x04) :=
        (hspdm _).trans ((State.spdmAfter_not_mem halgs).trans (hsend _ _))
      obtain rfl | ⟨n, a, b, rfl⟩ | ⟨n, a, rfl⟩ | ⟨n, rfl⟩ := hc <;> exact congrArg Host.Outcome.next (hsaid _)
    case keys => exact congrArg Host.Outcome.next ((hspdm _).trans (hsend _ _))
    case discovery => exact ⟨_, congrArg Host.Outcome.next ((hdoe _).trans (hsend _ _))⟩
    case cdat => exact ⟨_, congrArg Host.Outcome.next ((hdoe _).trans (hsend _ _))⟩

end Sys2Proof.Machine

namespace Sys2Proof.Machine

open Sys2Proof.Safety

/-! # FAULT_COMMAND, the Return seal and the Fault book (O52) -/

/-! ### The fence list (R733, R734) -/

section Entries
variable {x : FaultState} {kind : BitVec 3} {index : BitVec 12}

/-- A unit is listed when a valid entry names it. -/
theorem FaultState.entryOf_isSome : (x.entryOf kind index).isSome = true ↔
    ∃ e ∈ x.fences, e.2.valid = true ∧ e.2.kind = kind ∧ e.2.index = index := by
  simp [FaultState.entryOf, and_assoc]

theorem FaultState.entryOf_none (hnew : ∀ e ∈ x.fences, e.2.valid = true → e.2.kind = kind → e.2.index ≠ index) :
    ¬ (x.entryOf kind index).isSome = true := by
  rw [FaultState.entryOf_isSome]
  rintro ⟨e, he, hvalid, hkind, hindex⟩
  exact hnew e he hvalid hkind hindex

/-- The lowest entry that is not valid. -/
theorem FaultState.freeEntry_eq {n : Nat} (hn : n < 1024) (hfree : (mget {} x.fences n).valid = false)
    (hbelow : ∀ m, m < n → (mget {} x.fences m).valid = true) : x.freeEntry = some n := by
  rw [FaultState.freeEntry, List.find?_range_eq_some]
  exact ⟨by rw [hfree]; rfl, by simpa using hn, fun m hm => by rw [hbelow m hm]; rfl⟩

end Entries

theorem State.listed_eq (s : State) (kind : BitVec 3) (arg : BitVec 10) :
    s.listed kind arg.toNat = (s.faults.entryOf kind (arg.setWidth 12)).isSome := by
  rw [State.listed, BitVec.ofNat_toNat]

theorem State.enterFence_notes (s : State) (kind : BitVec 3) (index : Nat) (cause : BitVec 8) (rec : Nat → FaultInfo) :
    Notes s (s.enterFence kind index cause rec) := by
  unfold State.enterFence
  dsimp only
  split
  · exact .rfl'
  · split
    · exact s.logFault_notes _
    · split <;> exact Notes.trans (.of_ports ..) (State.logFault_notes ..)

/-- A unit that is not listed takes the lowest free entry of a list that is not frozen. -/
theorem State.enterFence_fences {s : State} {kind : BitVec 3} {arg : BitVec 10} {n : Nat} (cause : BitVec 8)
    (rec : Nat → FaultInfo)
    (hnew : ∀ e ∈ s.faults.fences, e.2.valid = true → e.2.kind = kind → e.2.index ≠ arg.setWidth 12)
    (hlive : s.faults.frozen = false) (hfree : s.faults.freeEntry = some n) :
    (s.enterFence kind arg.toNat cause rec).faults.fences = mset {} s.faults.fences n
      { valid := true, kind := kind, index := arg.setWidth 12, cause := cause, record := s.faults.nextBook } := by
  rw [State.enterFence, BitVec.ofNat_toNat, if_neg (FaultState.entryOf_none hnew), if_neg (ne_true_of_eq_false hlive), hfree,
    State.logFault_fences]

/-! ### What the end of work orders leaves of the Fault log and of a fenced slice -/

theorem State.endWo_faults (s : State) (id : Nat) (d : Decision) : (s.endWo id d).faults = s.faults := by
  unfold State.endWo
  split <;> rfl

theorem State.countCabFault_faults (s : State) (h id : Nat) : (s.countCabFault h id).faults = s.faults := by
  unfold State.countCabFault
  split
  · split <;> rfl
  · rfl

theorem State.failCall_faults (s : State) (c : Call) (code : BitVec 8) : (s.failCall c code).faults = s.faults :=
  (State.endWo_faults ..).trans (s.countCabFault_faults ..)

theorem State.routeGone_faults (s : State) (e : Nat) : (s.routeGone e).faults = s.faults := by
  unfold State.routeGone
  split
  · rfl
  · exact List.foldlRecOn (motive := fun (t : State) => t.faults = s.faults) _ _ rfl fun t ht c _ =>
      (t.failCall_faults c _).trans ht

/-- Hearth `h` has its Stove slice fenced. -/
structure SliceFenced (h : Nat) (t : State) : Prop where
  hearths : mwf {} t.hearths = true
  fenced : (t.hearth h).stove.fenced = true

namespace SliceFenced
variable {h : Nat} {s : State} (hs : SliceFenced h s)
include hs

theorem of_hearths {t : State} (ht : t.hearths = s.hearths) : SliceFenced h t :=
  ⟨ht ▸ hs.hearths, by rw [State.hearth, ht]; exact hs.fenced⟩

/-- A Hearth changes beside the fence of its slice. -/
theorem updHearth (j : Nat) {f : Hearth → Hearth} (hf : ∀ x, (f x).stove.fenced = x.stove.fenced) :
    SliceFenced h (s.updHearth j f) := by
  refine ⟨mwf_mset _ _ _ _ hs.hearths, ?_⟩
  by_cases hj : h = j
  · subst hj
    rw [State.updHearth_hearth hs.hearths, hf]
    exact hs.fenced
  · rw [State.updHearth_hearth_ne _ hj]
    exact hs.fenced

theorem endWo (id : Nat) (d : Decision) : SliceFenced h (s.endWo id d) := by
  unfold State.endWo
  split
  · have hx : (State.stopStokers (s.commit id d) id).hearth h =
        (s.hearth h).endWo id ((s.commit id d).wos.any fun w => decide (w.id = id) && decide (w.opcode = 4)) :=
      mget_mmap _ _ _ h hs.hearths rfl
    exact ⟨mwf_mmap _ _ _ hs.hearths, (congrArg (fun z : Hearth => z.stove.fenced) hx).trans hs.fenced⟩
  · exact hs

theorem failCall (c : Call) (code : BitVec 8) : SliceFenced h (s.failCall c code) := by
  have hcount : SliceFenced h (s.countCabFault c.hearth c.id) := hs.of_hearths (by
    unfold State.countCabFault
    split
    · split <;> rfl
    · rfl)
  have hmarked : SliceFenced h ((s.countCabFault c.hearth c.id).updCall c.hearth c.id fun d =>
      { d with failed := true, st := .finished }) := hcount.updHearth c.hearth fun _ => rfl
  exact hmarked.endWo ..

theorem dropFailed (c : Call) (code : BitVec 8) (j id : Nat) : SliceFenced h ((s.failCall c code).dropCall j id) :=
  (hs.failCall c code).updHearth j fun _ => rfl

end SliceFenced

/-- One item that leaves a fenced slice's queue. -/
theorem State.stoveGone_induct {s : State} {h : Nat} {P : State → Prop}
    (hqueue : ∀ f : Stove → Stove, (∀ z, (f z).fenced = z.fenced) → P (s.updStove h f))
    (hload : ∀ t (l : StoveLoad), P t → P (t.faultWo l.wo fStvAbsent h l.stoker l.pc))
    (hcall : ∀ t c id, P t → P ((t.failCall c fStvAbsent).dropCall h id)) : P (s.stoveGone h) := by
  unfold State.stoveGone
  dsimp only
  refine List.foldlRecOn (motive := P) _ _ (hqueue _ fun _ => rfl) fun t ht i _ => ?_
  cases i with
  | load l => exact hload t l ht
  | call id =>
    split
    · exact ht
    · dsimp only
      split
      · exact hcall t _ _ ht
      · exact ht

theorem State.stoveGone_faults (s : State) (h : Nat) : (s.stoveGone h).faults = s.faults :=
  State.stoveGone_induct (P := fun t => t.faults = s.faults) (fun _ _ => rfl)
    (fun t _ ht => (t.endWo_faults ..).trans ht) fun t c _ ht => (t.failCall_faults c _).trans ht

theorem SliceFenced.stoveGone {h : Nat} {s : State} (hs : SliceFenced h s) : SliceFenced h (s.stoveGone h) :=
  State.stoveGone_induct (P := SliceFenced h) (fun _ hf => hs.updHearth h fun x => hf x.stove) (fun _ _ ht => ht.endWo ..)
    fun _ c id ht => ht.dropFailed c _ h id


/-! ### Fences on command (R733) -/

section Fenced

/-- The Hearth that a fenced Grate leaves: the Grate is fenced, and no fence of it is due. -/
def Hearth.withoutGrate (x : Hearth) (g : Nat) : Hearth :=
  { x with grateFenced := x.grateFenced ||| oneBit 16 g, grateDue := x.grateDue &&& ~~~(oneBit 16 g) }

theorem getLsbD_oneBit {w i : Nat} (hi : i < w) (g : Nat) : (oneBit w g).getLsbD i = decide (g = i) := by
  rw [oneBit, BitVec.getLsbD_ofNat, Nat.testBit_two_pow, decide_eq_true hi, Bool.true_and]

/-- A set with no element but `g`. -/
theorem eq_zero_or_oneBit {x : BitVec 16} {g : Nat} (h : x &&& ~~~(oneBit 16 g) = 0) : x = 0 ∨ x = oneBit 16 g := by
  have hother (i : Nat) (hi : i < 16) (hne : g ≠ i) : x.getLsbD i = false := by
    have hbit := congrArg (fun v : BitVec 16 => v.getLsbD i) h
    rw [BitVec.getLsbD_and, BitVec.getLsbD_not, getLsbD_oneBit hi, decide_eq_false hne, decide_eq_true hi] at hbit
    simpa only [Bool.true_and, Bool.not_false, Bool.and_true] using hbit.trans BitVec.getLsbD_zero
  cases hg : x.getLsbD g with
  | false =>
    refine .inl (BitVec.eq_of_getLsbD_eq fun i hi => ?_)
    rw [BitVec.ofNat_eq_ofNat, BitVec.getLsbD_zero]
    by_cases hne : g = i
    · rw [← hne, hg]
    · exact hother i hi hne
  | true =>
    refine .inr (BitVec.eq_of_getLsbD_eq fun i hi => ?_)
    rw [getLsbD_oneBit hi]
    by_cases hne : g = i
    · rw [decide_eq_true hne, ← hne, hg]
    · rw [decide_eq_false hne, hother i hi hne]

/-- A Hearth with more than one Grate left keeps one when Grate `g` is fenced. -/
theorem avail_ne_zero {m f : BitVec 16} {g : Nat} (hone : m &&& ~~~f ≠ oneBit 16 g) (hsome : m &&& ~~~f ≠ 0) :
    m &&& ~~~(f ||| oneBit 16 g) ≠ 0 := by
  rw [BitVec.not_or, ← BitVec.and_assoc]
  exact fun hzero => (eq_zero_or_oneBit hzero).elim hsome hone

/-- The record of a Grate's fence. -/
def grateRecord (n a : Nat) (lasting : Bool) (wo : Option (Nat × Nat × Nat)) (j : Nat) : FaultInfo :=
  { event := 0x04, cls := fenceClass lasting, unitKind := 2, unitIndex := n, wo := wo, a := a, b := j }

/-- The device with the Grate fenced and entered, its Hearth not judged yet. -/
def State.grateEntered (s : State) (n a : Nat) (lasting : Bool) (wo : Option (Nat × Nat × Nat)) : State :=
  (s.setHearth (n / 16) ((s.hearth (n / 16)).withoutGrate (n % 16))).enterFence 1 n 0 (grateRecord n a lasting wo)

theorem State.fenceGrate_eq (s : State) (n a : Nat) (lasting : Bool) (wo : Option (Nat × Nat × Nat)) :
    s.fenceGrate (n / 16) (n % 16) a lasting wo = if (s.grateEntered n a lasting wo).avail (n / 16) = 0 then
      (s.grateEntered n a lasting wo).fenceHearth (n / 16) 0 true true else s.grateEntered n a lasting wo := by
  have hn : 16 * (n / 16) + n % 16 = n := Nat.div_add_mod ..
  unfold State.grateEntered State.fenceGrate
  dsimp only
  rw [hn]
  rfl

theorem State.grateEntered_notes (s : State) (n a : Nat) (lasting : Bool) (wo : Option (Nat × Nat × Nat)) :
    Notes (s.setHearth (n / 16) ((s.hearth (n / 16)).withoutGrate (n % 16))) (s.grateEntered n a lasting wo) :=
  State.enterFence_notes ..

theorem State.grateEntered_hearth {s : State} (hs : mwf {} s.hearths = true) (n a : Nat) (lasting : Bool)
    (wo : Option (Nat × Nat × Nat)) :
    (s.grateEntered n a lasting wo).hearth (n / 16) = (s.hearth (n / 16)).withoutGrate (n % 16) := by
  rw [State.hearth, (s.grateEntered_notes n a lasting wo).hearths]
  exact State.setHearth_hearth s _ _ hs

/-- A Grate that is not its Hearth's last one is fenced, and the Hearth stays. -/
theorem State.fenceGrate_of_left {s : State} {n : Nat} (hs : mwf {} s.hearths = true)
    (hleft : (s.hearth (n / 16)).fenced = true ∨ (s.avail (n / 16) ≠ oneBit 16 (n % 16) ∧ s.avail (n / 16) ≠ 0))
    (a : Nat) (lasting : Bool) (wo : Option (Nat × Nat × Nat)) :
    s.fenceGrate (n / 16) (n % 16) a lasting wo = s.grateEntered n a lasting wo := by
  have hhearth := State.grateEntered_hearth hs n a lasting wo
  have hmfg : (s.grateEntered n a lasting wo).mfg (n / 16) = s.mfg (n / 16) := by
    rw [State.mfg, (s.grateEntered_notes n a lasting wo).device]
    rfl
  rw [State.fenceGrate_eq]
  obtain hfenced | ⟨hone, hsome⟩ := hleft
  · rw [State.fenceHearth_of_fenced (by rw [hhearth]; exact hfenced), ite_self]
  · refine if_neg ?_
    rw [State.avail, hmfg, hhearth]
    exact avail_ne_zero hone hsome

end Fenced


theorem State.fenceStove_eq (s : State) (h entry : Nat) (lasting : Bool) (wo : Option (Nat × Nat × Nat)) :
    ∃ rec, s.fenceStove h entry lasting wo =
      (s.updHearth h fun x => { x with stove := { x.stove with fenced := true } }).enterFence 4 h 0 rec := by
  unfold State.fenceStove
  exact ⟨_, rfl⟩

/-- Engine `n % 8` of Cabinet `n / 8` is fenced. -/
theorem State.fenceEngine_eq (s : State) (n : Nat) (lasting : Bool) (wo : Option (Nat × Nat × Nat)) :
    ∃ rec, s.fenceEngine (n / 8) (n % 8 + 1) lasting wo = (s.setCabinet (n / 8) { s.cabinet (n / 8) with
      fenced := (s.cabinet (n / 8)).fenced ||| oneBit 8 (n % 8) }).enterFence 3 n 0 rec := by
  have hn : 8 * (n / 8) + (n % 8 + 1) - 1 = n := by omega
  unfold State.fenceEngine
  rw [hn]
  exact ⟨_, rfl⟩

section Commands
variable {s : State} {p : Port} {arg : BitVec 10} (hserve : Serving s)

include hserve in
/-- A FAULT_COMMAND write of Table 18-6, judged. -/
theorem State.judged_faultCommand (f : State → State) :
    (s.whenReady fun s => s.judgeFault p f) = s.judgeFault p f := State.whenReady_of_serving hserve _

theorem State.judgeFault_of_other (hown : s.holds p 3 = false) (f : State → State) :
    s.judgeFault p f = s.faultResult .notOwner := if_pos (by simp [hown])

theorem State.judgeFault_of_busy (hown : s.holds p 3 = true) (hbusy : s.faults.busy = true) (f : State → State) :
    s.judgeFault p f = s.faultResult .busy := (if_neg (by simp [hown])).trans (if_pos hbusy)

theorem State.judgeFault_of_free (hown : s.holds p 3 = true) (hbusy : s.faults.busy = false) (f : State → State) :
    s.judgeFault p f = f s := (if_neg (by simp [hown])).trans (if_neg (by simp [hbusy]))

/-- A unit that a commanded fence entered under entry `n` (R733). -/
structure Entered (s : State) (kind : BitVec 3) (arg : BitVec 10) (n : Nat) (t : State) : Prop where
  result : t.faults.result = .ok
  fences : t.faults.fences = mset {} s.faults.fences n { valid := true, kind := kind, index := arg.setWidth 12, cause := 0
                                                         record := s.faults.nextBook }

/-- The unit is not listed and the list takes it under entry `n`. -/
structure Enters (s : State) (kind : BitVec 3) (arg : BitVec 10) (n : Nat) : Prop where
  new : ∀ e ∈ s.faults.fences, e.2.valid = true → e.2.kind = kind → e.2.index ≠ arg.setWidth 12
  live : s.faults.frozen = false
  free : s.faults.freeEntry = some n

theorem Enters.listed {kind : BitVec 3} {n : Nat} (h : Enters s kind arg n) : ¬ s.listed kind arg.toNat = true := by
  rw [State.listed_eq]
  exact FaultState.entryOf_none h.new

/-- Entering the unit while something beside the Fault log changes. -/
theorem Enters.entered {kind : BitVec 3} {n : Nat} (h : Enters s kind arg n) {u t : State} (hu : u.faults = s.faults)
    {rec : Nat → FaultInfo} (ht : t.faults = (u.enterFence kind arg.toNat 0 rec).faults) :
    Entered s kind arg n (t.faultResult .ok) := by
  refine ⟨rfl, ?_⟩
  have hfences := State.enterFence_fences (s := u) (kind := kind) (arg := arg) (n := n) 0 rec (by rw [hu]; exact h.new)
    (by rw [hu]; exact h.live) (by rw [hu]; exact h.free)
  rw [hu] at hfences
  exact (congrArg FaultState.fences ht).trans hfences

/-- FENCE_GRATE is within its range, and does not fence a Hearth's last Grate. -/
structure GrateFits (s : State) (n : Nat) : Prop where
  range : n < 768
  left : (s.hearth (n / 16)).fenced = true ∨ (s.avail (n / 16) ≠ oneBit 16 (n % 16) ∧ s.avail (n / 16) ≠ 0)

theorem GrateFits.fits {n : Nat} (h : GrateFits s n) :
    ¬ (768 ≤ n ∨ (!(s.hearth (n / 16)).fenced ∧ s.avail (n / 16) = oneBit 16 (n % 16))) := by
  rintro (hrange | ⟨hopen, hlast⟩)
  · exact absurd h.range (Nat.not_lt.mpr hrange)
  · obtain hfenced | ⟨hone, -⟩ := h.left
    · simp [hfenced] at hopen
    · exact hone hlast

theorem State.cmdFenceGrate_of_listed (hfits : GrateFits s arg.toNat)
    (hlisted : ∃ e ∈ s.faults.fences, e.2.valid = true ∧ e.2.kind = 1 ∧ e.2.index = arg.setWidth 12) :
    s.cmdFenceGrate arg.toNat = s.faultResult .ok :=
  (if_neg hfits.fits).trans (if_pos (by rw [State.listed_eq]; exact FaultState.entryOf_isSome.2 hlisted))

theorem State.cmdFenceGrate_of_running (hfits : GrateFits s arg.toNat)
    (hnew : ∀ e ∈ s.faults.fences, e.2.valid = true → e.2.kind = 1 → e.2.index ≠ arg.setWidth 12)
    (hruns : ∃ r ∈ (s.hearth (arg.toNat / 16)).chains, r.grate = some (arg.toNat % 16)) :
    s.cmdFenceGrate arg.toNat = (s.updHearth (arg.toNat / 16) fun x =>
      { x with grateDue := x.grateDue ||| oneBit 16 (arg.toNat % 16) }).faultResult .ok := by
  have hlisted : ¬ s.listed 1 arg.toNat = true := by
    rw [State.listed_eq]
    exact FaultState.entryOf_none hnew
  exact (if_neg hfits.fits).trans ((if_neg hlisted).trans (if_pos (by simpa using hruns)))

theorem State.cmdFenceGrate_of_new {n : Nat} (hs : mwf {} s.hearths = true) (hfits : GrateFits s arg.toNat)
    (h : Enters s 1 arg n) (hidle : ∀ r ∈ (s.hearth (arg.toNat / 16)).chains, r.grate ≠ some (arg.toNat % 16)) :
    Entered s 1 arg n (s.cmdFenceGrate arg.toNat) ∧
      (((s.cmdFenceGrate arg.toNat).hearth (arg.toNat / 16)).grateFenced).getLsbD (arg.toNat % 16) = true := by
  have hcmd : s.cmdFenceGrate arg.toNat = (s.grateEntered arg.toNat 3 false none).faultResult .ok := by
    refine (if_neg hfits.fits).trans ((if_neg h.listed).trans ((if_neg (by simpa using hidle)).trans ?_))
    rw [State.fenceGrate_of_left hs hfits.left]
  rw [hcmd]
  refine ⟨h.entered (u := s.setHearth (arg.toNat / 16) ((s.hearth (arg.toNat / 16)).withoutGrate (arg.toNat % 16))) rfl rfl, ?_⟩
  change ((s.grateEntered arg.toNat 3 false none).hearth (arg.toNat / 16)).grateFenced.getLsbD (arg.toNat % 16) = true
  rw [State.grateEntered_hearth hs]
  exact getLsbD_or_oneBit _ (Nat.mod_lt _ (by decide))

theorem State.cmdFenceEngine_of_listed (hrange : arg.toNat < 32)
    (hlisted : ∃ e ∈ s.faults.fences, e.2.valid = true ∧ e.2.kind = 3 ∧ e.2.index = arg.setWidth 12) :
    s.cmdFenceEngine arg.toNat = s.faultResult .ok :=
  (if_neg (Nat.not_le.mpr hrange)).trans (if_pos (by rw [State.listed_eq]; exact FaultState.entryOf_isSome.2 hlisted))

theorem State.cmdFenceEngine_of_new {n : Nat} (hs : mwf {} s.cabinets = true) (hrange : arg.toNat < 32)
    (h : Enters s 3 arg n) : Entered s 3 arg n (s.cmdFenceEngine arg.toNat) ∧
      (((s.cmdFenceEngine arg.toNat).cabinet (arg.toNat / 8)).fenced).getLsbD (arg.toNat % 8) = true := by
  have hcmd : s.cmdFenceEngine arg.toNat = ((s.fenceEngine (arg.toNat / 8) (arg.toNat % 8 + 1) false none).routeGone
      (arg.toNat % 8 + 1)).faultResult .ok := (if_neg (Nat.not_le.mpr hrange)).trans (if_neg h.listed)
  obtain ⟨rec, hfence⟩ := s.fenceEngine_eq arg.toNat false none
  have ⟨hwf, hcabinet⟩ := State.fenceEngine_cabinet hs (arg.toNat / 8) (arg.toNat % 8 + 1) false none
  have hfenced : EngineFenced (arg.toNat / 8) (arg.toNat % 8) _ (s.fenceEngine (arg.toNat / 8) (arg.toNat % 8 + 1) false none) :=
    ⟨hwf, by rw [hcabinet]; exact bitAt_or_oneBit _ ⟨arg.toNat % 8, Nat.mod_lt _ (by decide)⟩, rfl⟩
  rw [hcmd]
  refine ⟨?_, ?_⟩
  · rw [hfence]
    exact h.entered (u := s.setCabinet (arg.toNat / 8) _) (State.setCabinet_faults ..) (State.routeGone_faults ..)
  · rw [← BitVec.testBit_toNat]
    exact (hfenced.routeGone (arg.toNat % 8 + 1)).fenced

theorem State.cmdFenceStove_of_listed (hrange : arg.toNat < 48)
    (hlisted : ∃ e ∈ s.faults.fences, e.2.valid = true ∧ e.2.kind = 4 ∧ e.2.index = arg.setWidth 12) :
    s.cmdFenceStove arg.toNat = s.faultResult .ok :=
  (if_neg (Nat.not_le.mpr hrange)).trans (if_pos (by rw [State.listed_eq]; exact FaultState.entryOf_isSome.2 hlisted))

theorem State.cmdFenceStove_of_new {n : Nat} (hs : mwf {} s.hearths = true) (hrange : arg.toNat < 48)
    (h : Enters s 4 arg n) : Entered s 4 arg n (s.cmdFenceStove arg.toNat) ∧
      ((s.cmdFenceStove arg.toNat).hearth arg.toNat).stove.fenced = true := by
  have hcmd : s.cmdFenceStove arg.toNat = ((s.fenceStove arg.toNat 0 false none).stoveGone arg.toNat).faultResult .ok :=
    (if_neg (Nat.not_le.mpr hrange)).trans (if_neg h.listed)
  obtain ⟨rec, hfence⟩ := s.fenceStove_eq arg.toNat 0 false none
  have hset : SliceFenced arg.toNat (s.updHearth arg.toNat fun x => { x with stove := { x.stove with fenced := true } }) :=
    ⟨mwf_mset _ _ _ _ hs, by rw [State.updHearth_hearth hs]⟩
  rw [hcmd, hfence]
  exact ⟨h.entered (u := s.updHearth arg.toNat _) (State.updHearth_faults ..) (State.stoveGone_faults ..),
    (hset.of_hearths (State.enterFence_notes ..).hearths).stoveGone.fenced⟩

end Commands

/-! ### The Return seal (R746) and Conservator unlocks (R751) -/

theorem State.isArmed_iff (s : State) (p : Port) :
    s.isArmed p = true ↔ ∃ n, s.faults.armed = some (p, n) ∧ s.tb.elapsed ≤ n + sec 1 := by
  unfold State.isArmed
  split
  next q t h => simp [h]
  next h => simp [h]

theorem State.startFlash_faults (s : State) : s.startFlash.faults = s.faults := by
  unfold State.startFlash
  split <;> rfl

theorem State.logFault_of_full {s : State} (h : (s.faults.head - s.faults.tail).toNat = 4096) (f : FaultInfo) :
    (s.logFault f).faults.lost = satAdd 65535 s.faults.lost 1 ∧ (s.logFault f).shared = s.shared := by
  unfold State.logFault
  dsimp only
  rw [if_pos h]
  exact ⟨rfl, rfl⟩

/-! ### The Fault book (R742, R743) -/

theorem length_natLe (n x : Nat) : (natLe n x).length = n := by
  induction n generalizing x with
  | zero => rfl
  | succ n ih => rw [natLe, List.length_cons, ih]

theorem rebook_length {r : List Byte} (h : r.length = 32) (n : Nat) : (rebook n r).length = 32 := by
  simp [rebook, length_natLe, h]

theorem rebook_take {r : List Byte} (h : r.length = 32) (n : Nat) : (rebook n r).take 28 = natLe 4 n ++ (r.take 28).drop 4 := by
  have hbody : (natLe 4 n ++ (r.drop 4).take 24).length = 28 := by simp [length_natLe, h]
  rw [rebook, List.take_append_of_le_length (by rw [hbody]), List.take_of_length_le (by rw [hbody]), List.drop_take]

theorem State.bookAppend_bookQueue (s : State) (r : List Byte) : (s.bookAppend r).faults.bookQueue = s.faults.bookQueue := by
  unfold State.bookAppend
  dsimp only
  split <;> rfl

theorem State.bookNext_cons {s : State} {r : List Byte} {rest : List (List Byte)} (h : s.faults.bookQueue = r :: rest) :
    s.bookNext = State.bookAppend { s with faults := { s.faults with bookQueue := rest } } r := by
  unfold State.bookNext
  rw [h]


/-! ### The obligation -/

/-- Settles O52: a fence by whether the unit is listed and which entry it takes, the Return seal by its conditions in turn, the
book by its oldest record. The answer OK at once for a Grate whose chain runs is log entry 97; that an ARG out of range answers
BAD_VALUE, and FORGET on a frozen list SEALED, is log entry 99 (DESIGN CHOICE). -/
theorem faultCommands : Obligations.FaultCommands := by
  unfold Obligations.FaultCommands
  rintro p arg s x put hcanon hserve rfl - hput
  obtain rfl : put = s.faultResult := funext hput
  have hexec (f : State → State) : (s.whenReady fun s => s.judgeFault p f) = s.judgeFault p f := State.judged_faultCommand hserve f
  refine ⟨fun c hc => ⟨fun hown => ?other, fun hown hbusy => ?busy⟩, fun hown hbusy => ?command,
    fun owner armed vacant howner harmed hvacant => ?returnSeal, fun v => ?arm, fun v => ⟨fun hin => ?tail, fun hout => ?tailOut⟩,
    fun b hb => ?conservator, fun hwarn => ⟨fun hnone => ?bookEmpty, fun r rest hqueue => ?book⟩⟩
  case other =>
    obtain rfl | rfl | rfl | rfl := hc <;> exact congrArg Host.Outcome.next ((hexec _).trans (State.judgeFault_of_other hown _))
  case busy =>
    obtain rfl | rfl | rfl | rfl := hc <;> exact congrArg Host.Outcome.next ((hexec _).trans (State.judgeFault_of_busy hown hbusy _))
  case command =>
    have hdo (f : State → State) : (s.whenReady fun s => s.judgeFault p f) = f s :=
      (hexec f).trans (State.judgeFault_of_free hown hbusy f)
    have hgrate : exec (.fenceGrate p arg) s = .next (s.cmdFenceGrate arg.toNat) := congrArg Host.Outcome.next (hdo _)
    have hengine : exec (.fenceEngine p arg) s = .next (s.cmdFenceEngine arg.toNat) := congrArg Host.Outcome.next (hdo _)
    have hstove : exec (.fenceStove p arg) s = .next (s.cmdFenceStove arg.toNat) := congrArg Host.Outcome.next (hdo _)
    have hforget : exec (.forget p arg) s = .next (s.cmdForget arg.toNat) := congrArg Host.Outcome.next (hdo _)
    refine ⟨fun c kind limit hc => ?fence, fun hopen hrange hlast => ?last, fun hfree => ?unused, fun hvalid hfrozen => ?frozen,
      fun hvalid hlive => ?forget⟩
    case fence =>
      obtain ⟨rfl, rfl, rfl⟩ | ⟨rfl, rfl, rfl⟩ | ⟨rfl, rfl, rfl⟩ := hc
      · rw [hgrate]
        refine ⟨fun hout => congrArg Host.Outcome.next (if_pos (.inl hout)), fun hrange hleft => ?_⟩
        have hfits : GrateFits s arg.toNat := ⟨hrange, hleft rfl⟩
        refine ⟨fun hlisted => congrArg Host.Outcome.next (State.cmdFenceGrate_of_listed hfits hlisted), ?_, ?_⟩
        · rintro z rfl - hnew hruns
          rw [State.cmdFenceGrate_of_running hfits hnew hruns]
          rfl
        · intro n hnew hlive hidle hn hfree hbelow
          obtain ⟨hentered, hfenced⟩ := State.cmdFenceGrate_of_new hcanon.hearths hfits
            ⟨hnew, hlive, FaultState.freeEntry_eq hn hfree hbelow⟩ (hidle rfl)
          exact ⟨_, rfl, hentered.result, hentered.fences, fun _ => hfenced, fun h => absurd h (by decide),
            fun h => absurd h (by decide)⟩
      · rw [hengine]
        refine ⟨fun hout => congrArg Host.Outcome.next (if_pos hout), fun hrange _ => ?_⟩
        refine ⟨fun hlisted => congrArg Host.Outcome.next (State.cmdFenceEngine_of_listed hrange hlisted),
          fun _ _ hgrate => (nomatch hgrate), fun n hnew hlive _ hn hfree hbelow => ?_⟩
        obtain ⟨hentered, hfenced⟩ := State.cmdFenceEngine_of_new hcanon.cabinets hrange
          ⟨hnew, hlive, FaultState.freeEntry_eq hn hfree hbelow⟩
        exact ⟨_, rfl, hentered.result, hentered.fences, fun h => absurd h (by decide), fun _ => hfenced,
          fun h => absurd h (by decide)⟩
      · rw [hstove]
        refine ⟨fun hout => congrArg Host.Outcome.next (if_pos hout), fun hrange _ => ?_⟩
        refine ⟨fun hlisted => congrArg Host.Outcome.next (State.cmdFenceStove_of_listed hrange hlisted),
          fun _ _ hgrate => (nomatch hgrate), fun n hnew hlive _ hn hfree hbelow => ?_⟩
        obtain ⟨hentered, hfenced⟩ := State.cmdFenceStove_of_new hcanon.hearths hrange
          ⟨hnew, hlive, FaultState.freeEntry_eq hn hfree hbelow⟩
        exact ⟨_, rfl, hentered.result, hentered.fences, fun h => absurd h (by decide), fun h => absurd h (by decide),
          fun _ => hfenced⟩
    case last =>
      rw [hgrate]
      exact congrArg Host.Outcome.next (if_pos (.inr ⟨by simp [hopen], hlast⟩))
    case unused =>
      rw [hforget]
      exact congrArg Host.Outcome.next (if_pos (by rw [hfree]; rfl))
    case frozen =>
      rw [hforget]
      exact congrArg Host.Outcome.next ((if_neg (by rw [hvalid]; decide)).trans (if_pos hfrozen))
    case forget =>
      rw [hforget]
      exact congrArg Host.Outcome.next ((if_neg (by rw [hvalid]; decide)).trans (if_neg (by simp [hlive])))
  case returnSeal =>
    have hseal : exec (.returnSeal p) s = .next (s.returnSeal p) :=
      congrArg Host.Outcome.next (State.whenReady_of_serving hserve _)
    have howns : ¬ (!(s.holds p 0 && s.holds p 1 && s.holds p 2 && s.holds p 3)) = true ↔ owner := by
      rw [howner]
      constructor
      · intro h n hn
        simp only [Bool.not_eq_true', Bool.not_eq_false, Bool.and_eq_true] at h
        obtain ⟨⟨⟨h0, h1⟩, h2⟩, h3⟩ := h
        interval_cases n <;> assumption
      · intro h
        simp [h 0 (by decide), h 1 (by decide), h 2 (by decide), h 3 (by decide)]
    have harms : ¬ (!s.isArmed p) = true ↔ armed := by simp [harmed, State.isArmed_iff]
    have hvacates : ¬ (s.gals.any fun e => decide (e.2.st ≠ .vacant)) = true ↔ vacant := by simp [hvacant]
    rw [hseal, State.returnSeal]
    refine ⟨fun ho => ?_, fun ho hb => ?_, fun ho hb ha => ?_, fun ho hb ha hv => ?_, fun ho hb ha hv hs => ?_,
      fun ho hb ha hv hs => ?_⟩
    · rw [if_pos (not_not.mp (mt howns.mp ho))]
    · rw [if_neg (howns.mpr ho), if_pos hb]
    · rw [if_neg (howns.mpr ho), if_neg (ne_true_of_eq_false hb), if_pos (not_not.mp (mt harms.mp ha))]
    · rw [if_neg (howns.mpr ho), if_neg (ne_true_of_eq_false hb), if_neg (harms.mpr ha), if_pos (not_not.mp (mt hvacates.mp hv))]
    · rw [if_neg (howns.mpr ho), if_neg (ne_true_of_eq_false hb), if_neg (harms.mpr ha), if_neg (hvacates.mpr hv), if_pos hs]
    · rw [if_neg (howns.mpr ho), if_neg (ne_true_of_eq_false hb), if_neg (harms.mpr ha), if_neg (hvacates.mpr hv),
        if_neg (ne_true_of_eq_false hs)]
      exact ⟨_, rfl, State.startFlash_faults _⟩
  case arm => exact congrArg Host.Outcome.next (State.whenReady_of_serving hserve _)
  case tail => exact congrArg Host.Outcome.next ((State.whenReady_of_serving hserve _).trans (if_pos hin))
  case tailOut => exact congrArg Host.Outcome.next ((State.whenReady_of_serving hserve _).trans (if_neg (Nat.not_le.mpr hout)))
  case conservator =>
    have hrefused : ¬ (b = true ∧ s.faults.sealed = true) := by
      rintro ⟨rfl, hsealed⟩
      obtain h | h := hb
      · cases h
      · exact absurd hsealed (ne_true_of_eq_false h)
    have hnotes := s.logFault_notes { event := 0x32, cls := 0, unitKind := 11 }
    refine ⟨_, (exec_conservatorUnlock b s).trans (if_neg hrefused), hnotes.gals, hnotes.hearths,
      fun hfull => State.logFault_of_full hfull _, fun hroom => ?_⟩
    rw [State.logFault_head, if_neg hroom]
  case bookEmpty =>
    refine congrArg Host.Outcome.next ((if_neg (by simp [hwarn])).trans ?_)
    unfold State.bookNext
    rw [hnone]
  case book =>
    refine ⟨_, congrArg Host.Outcome.next ((if_neg (by simp [hwarn])).trans (State.bookNext_cons hqueue)), ?_, fun hfrozen => ?_,
      fun hlive => ?_⟩
    · rw [State.bookAppend_bookQueue]
    · rw [State.bookAppend, if_pos hfrozen]
      exact ⟨rfl, rfl⟩
    · rw [State.bookAppend, if_neg (by simp [hlive])]
      refine ⟨rfl, fun hr => ?_⟩
      have hlen := rebook_length hr s.faults.bookRecords.toNat
      have hne : rebook s.faults.bookRecords.toNat r ≠ [] := fun h => by simp [h] at hlen
      dsimp only
      rw [mget_mset_self _ _ _ _ hne]
      exact ⟨hlen, rebook_take hr _⟩

end Sys2Proof.Machine

namespace Sys2Proof.Machine

open Sys2Proof.Safety

/-! # ACC_COMMAND and the boot flash (O53) -/

/-! ### An accepted command starts (R801) -/

section Judged
variable {s : State} {p : Port} {allowed : Bool} {f : State → State}

theorem State.judgeAcc_of_other (hown : s.holds p 1 = false) :
    s.judgeAcc p allowed f = { s with acc := { s.acc with result := .notOwner } } := if_pos (by simp [hown])

theorem State.judgeAcc_of_busy (hown : s.holds p 1 = true) (hbusy : s.acc.busy = true) :
    s.judgeAcc p allowed f = { s with acc := { s.acc with result := .busy } } :=
  (if_neg (by simp [hown])).trans (if_pos hbusy)

theorem State.judgeAcc_of_sealed (hown : s.holds p 1 = true) (hbusy : s.acc.busy = false) (hsealed : s.faults.sealed = true) :
    s.judgeAcc p allowed f = { s with acc := { s.acc with result := .sealed } } :=
  (if_neg (by simp [hown])).trans ((if_neg (by simp [hbusy])).trans (if_pos hsealed))

theorem State.judgeAcc_of_badState (hown : s.holds p 1 = true) (hbusy : s.acc.busy = false) (hsealed : s.faults.sealed = false)
    (hno : allowed = false) : s.judgeAcc p allowed f = { s with acc := { s.acc with result := .badState } } :=
  (if_neg (by simp [hown])).trans ((if_neg (by simp [hbusy])).trans ((if_neg (by simp [hsealed])).trans (if_pos (by simp [hno]))))

theorem State.judgeAcc_of_allowed (hown : s.holds p 1 = true) (hbusy : s.acc.busy = false) (hsealed : s.faults.sealed = false)
    (hallowed : allowed = true) : s.judgeAcc p allowed f = f s :=
  (if_neg (by simp [hown])).trans ((if_neg (by simp [hbusy])).trans ((if_neg (by simp [hsealed])).trans
    (if_neg (by simp [hallowed]))))

end Judged

/-- Starting an operation chooses one, and changes nothing else. -/
theorem State.startFlash_eq (s : State) : ∃ f, s.startFlash = { s with acc := { s.acc with flash := f } } := by
  unfold State.startFlash
  split
  · exact ⟨_, rfl⟩
  · exact ⟨_, rfl⟩
  · exact ⟨s.acc.flash, rfl⟩

/-- The boot flash does nothing, and nothing of higher precedence than a command waits for it (R792). -/
structure FlashFree (s : State) : Prop where
  idle : s.acc.flash = none
  trip : s.acc.tripDue = none
  warn : s.acc.pwrWarn = false
  vault : s.acc.vaultDue = false
  unsealing : s.faults.sealStage = .none

/-- The operation that a command needs. -/
def AccCmd.op : AccCmd → FlashOp
  | .install _ _ _ _ _ => .accession
  | .activate _ | .confirm => .bootControl

theorem State.startFlash_of_free {s : State} {cmd : AccCmd} (h : FlashFree s) (hcmd : s.acc.cmd = some cmd) :
    s.startFlash = { s with acc := { s.acc with flash := some cmd.op } } := by
  have hnext : s.nextFlash = some cmd.op := by
    simp only [State.nextFlash, h.trip, h.warn, h.vault, h.unsealing, hcmd]
    cases cmd <;> rfl
  rw [State.startFlash, h.idle]
  simp only [hnext]
  rfl

theorem State.startAcc_eq (s : State) (cmd : AccCmd) : ∃ f, s.startAcc cmd =
    { s with acc := { s.acc with busy := true, cmd := some cmd, progress := 0, flash := f } } ∧
      (FlashFree s → f = some cmd.op) := by
  obtain ⟨f, hf⟩ := (s.updAcc' fun x => { x with busy := true, cmd := some cmd, progress := 0 }).startFlash_eq
  refine ⟨f, hf, fun hfree => ?_⟩
  have hstart := State.startFlash_of_free (s := s.updAcc' fun x => { x with busy := true, cmd := some cmd, progress := 0 })
    (cmd := cmd) ⟨hfree.idle, hfree.trip, hfree.warn, hfree.vault, hfree.unsealing⟩ rfl
  exact congrArg (fun t : State => t.acc.flash) (hf.symm.trans hstart)

/-- A command of Table 20-18 by the port, its operation and what R801 lets it do. -/
structure AccCommand (s : State) (p : Port) (c : Instr) (cmd : AccCmd) (op : FlashOp) (allowed : Prop) : Prop where
  judged : ∃ a : Bool, (a = true ↔ allowed) ∧ exec c s = .next (s.judgeAcc p a fun s => s.startAcc cmd)
  op : cmd.op = op

/-- The judgement of a command in its order (R749, R801). -/
theorem AccCommand.answers {s : State} {p : Port} {c : Instr} {cmd : AccCmd} {op : FlashOp} {allowed : Prop}
    (h : AccCommand s p c cmd op allowed) :
    (s.holds p 1 = false → exec c s = .next { s with acc := { s.acc with result := .notOwner } }) ∧
    (s.holds p 1 = true → s.acc.busy = true → exec c s = .next { s with acc := { s.acc with result := .busy } }) ∧
    (s.holds p 1 = true → s.acc.busy = false → s.faults.sealed = true →
      exec c s = .next { s with acc := { s.acc with result := .sealed } }) ∧
    (s.holds p 1 = true → s.acc.busy = false → s.faults.sealed = false → ¬ allowed →
      exec c s = .next { s with acc := { s.acc with result := .badState } }) ∧
    (s.holds p 1 = true → s.acc.busy = false → s.faults.sealed = false → allowed → ∃ f,
      exec c s = .next { s with acc := { s.acc with busy := true, cmd := some cmd, progress := 0, flash := f } } ∧
        (s.acc.flash = none → s.acc.tripDue = none → s.acc.pwrWarn = false → s.acc.vaultDue = false →
          s.faults.sealStage = .none → f = some op)) := by
  obtain ⟨⟨a, ha, hexec⟩, hop⟩ := h
  rw [hexec]
  refine ⟨fun hown => ?_, fun hown hbusy => ?_, fun hown hbusy hsealed => ?_, fun hown hbusy hsealed hno => ?_,
    fun hown hbusy hsealed hallowed => ?_⟩
  · rw [State.judgeAcc_of_other hown]
  · rw [State.judgeAcc_of_busy hown hbusy]
  · rw [State.judgeAcc_of_sealed hown hbusy hsealed]
  · rw [State.judgeAcc_of_badState hown hbusy hsealed (Bool.eq_false_iff.mpr (mt ha.mp hno))]
  · rw [State.judgeAcc_of_allowed hown hbusy hsealed (ha.mpr hallowed)]
    obtain ⟨f, hf, hfree⟩ := s.startAcc_eq cmd
    exact ⟨f, congrArg Host.Outcome.next hf, fun h1 h2 h3 h4 h5 => (hfree ⟨h1, h2, h3, h4, h5⟩).trans (congrArg some hop)⟩

/-! ### An operation ends (R792) -/

/-- The slots of an ACC_ state are its three. -/
theorem AccState.slot_congr {x y : AccState} (ha : y.slotA = x.slotA) (hb : y.slotB = x.slotB) (hg : y.golden = x.golden)
    (i : SlotId) : y.slot i = x.slot i := by
  cases i
  · exact ha
  · exact hb
  · exact hg

section Ends
variable {s : State} {op : FlashOp} (hflash : s.acc.flash = some op) (ok sig : Bool)

/-- The device while the operation that has ended takes effect: none is in progress. -/
def State.flashIdle (s : State) : State := s.updAcc' fun x => { x with flash := none }

include hflash in
/-- What holds once the operation has taken effect, whichever one is started next, holds of the command's next state. -/
theorem exec_flashEnd {P : State → Prop}
    (hP : ∀ f, P { s.flashIdle.flashEnd op ok sig with acc := { (s.flashIdle.flashEnd op ok sig).acc with flash := f } }) :
    ∃ t, exec (.bootFlashOperationEnd ok sig) s = .next t ∧ P t := by
  obtain ⟨f, hf⟩ := (s.flashIdle.flashEnd op ok sig).startFlash_eq
  refine ⟨_, ?_, hP f⟩
  rw [← hf]
  change Host.Outcome.next (match s.acc.flash with
    | none => s
    | some op => (s.flashIdle.flashEnd op ok sig).startFlash) = _
  rw [hflash]

end Ends

/-! ### Boot control (R790, R804, R805) -/

/-- The slot that ACTIVATE names, as it is booted next. -/
def Slot3.activated (v : Slot3) : Slot3 := if v.st = .confirmed then v else { v with st := .trial, failed := 0 }

theorem State.bootControlEnd_activate {s : State} {i : SlotId} (h : s.acc.cmd = some (.activate i)) : s.bootControlEnd =
    { s with acc := { s.acc.setSlot i (s.acc.slot i).activated with
      bootSeq := s.acc.bootSeq + 1, next := i, busy := false, cmd := none, result := .ok } } := by
  unfold State.bootControlEnd
  rw [h]
  cases i <;> rfl

/-- The running slot once CONFIRM has marked it, and the floor raised (R805). -/
def AccState.confirmed (x : AccState) (i : SlotId) (m : Image) : AccState :=
  { x.setSlot i { x.slot i with st := .confirmed, failed := 0 } with
    bootSeq := x.bootSeq + 1, lastConfirmed := some i
    floor := if x.floor < m.floorTo ∧ 0 < x.raisesLeft then m.floorTo else x.floor
    raisesLeft := if x.floor < m.floorTo ∧ 0 < x.raisesLeft then x.raisesLeft - 1 else x.raisesLeft }

theorem State.bootControlEnd_confirm {s : State} {i : SlotId} {m : Image} (h : s.acc.cmd = some .confirm)
    (hrun : s.acc.running = some i) (himage : s.acc.image = some m) : s.bootControlEnd =
    { s with acc := { (s.acc.confirmed i m).floorAll with busy := false, cmd := none, result := .ok } } := by
  unfold State.bootControlEnd
  rw [h, hrun, himage]
  dsimp only
  simp only [Bool.and_eq_true, decide_eq_true_eq]
  cases i <;> rfl

/-- A valid slot below the floor reads BELOW_FLOOR (R800). -/
def Slot3.floored (v : Slot3) (floor : Nat) : Slot3 :=
  match v.image with
  | some m => if m.svn < floor ∧ v.st ≠ .empty ∧ v.st ≠ .invalid ∧ v.st ≠ .writing then { v with st := .belowFloor } else v
  | none => v

theorem AccState.floorSlot_slot (x : AccState) (i j : SlotId) :
    (x.floorSlot i).slot j = if j = i then (x.slot j).floored x.floor else x.slot j := by
  unfold AccState.floorSlot
  dsimp only
  by_cases hj : j = i
  · subst hj
    rw [if_pos rfl, Slot3.floored]
    cases (x.slot j).image with
    | none => rfl
    | some m =>
      dsimp only
      split
      · exact AccState.setSlot_slot ..
      · rfl
  · rw [if_neg hj]
    split
    · split
      · exact AccState.setSlot_slot_ne _ _ hj
      · rfl
    · rfl

theorem AccState.floorAll_slot (x : AccState) (i : SlotId) : x.floorAll.slot i = (x.slot i).floored x.floor := by
  unfold AccState.floorAll
  cases i <;> simp [AccState.floorSlot_slot]

theorem Slot3.floored_eq (v : Slot3) (floor : Nat) : v.floored floor =
    if (∃ n, v.image = some n ∧ n.svn < floor) ∧ v.st ≠ .empty ∧ v.st ≠ .invalid ∧ v.st ≠ .writing then
      { v with st := .belowFloor } else v := by
  unfold Slot3.floored
  split
  next m h => simp [h]
  next h => simp [h]

/-- What the update of a slot's reading leaves of the rest. -/
theorem AccState.floorSlot_rest (x : AccState) (i : SlotId) :
    (x.floorSlot i).bootSeq = x.bootSeq ∧ (x.floorSlot i).lastConfirmed = x.lastConfirmed := by
  unfold AccState.floorSlot
  dsimp only
  split
  · split
    · cases i <;> exact ⟨rfl, rfl⟩
    · exact ⟨rfl, rfl⟩
  · exact ⟨rfl, rfl⟩

theorem AccState.floorAll_rest (x : AccState) :
    x.floorAll.bootSeq = x.bootSeq ∧ x.floorAll.lastConfirmed = x.lastConfirmed := by
  unfold AccState.floorAll
  simp [AccState.floorSlot_rest]

/-! ### The Return seal's last step (R747) -/

/-- Appending what waits empties the queue, and counts each record unless the book is frozen. -/
theorem foldl_bookNext (l : List (List Byte)) (s : State) (h : s.faults.bookQueue = l) :
    (l.foldl (fun t _ => t.bookNext) s).faults.bookQueue = [] ∧
      (s.faults.frozen = false → (l.foldl (fun t _ => t.bookNext) s).faults.bookRecords =
        s.faults.bookRecords + BitVec.ofNat 32 l.length) := by
  induction l generalizing s with
  | nil => exact ⟨h, fun _ => (BitVec.add_zero _).symm⟩
  | cons r l ih =>
    have hnext := State.bookNext_cons h
    have hqueue : s.bookNext.faults.bookQueue = l := by rw [hnext, State.bookAppend_bookQueue]
    obtain ⟨hempty, hcount⟩ := ih s.bookNext hqueue
    rw [List.foldl_cons]
    refine ⟨hempty, fun hlive => ?_⟩
    have hone : s.bookNext.faults.frozen = false ∧ s.bookNext.faults.bookRecords = s.faults.bookRecords + 1 := by
      rw [hnext, State.bookAppend]
      dsimp only
      rw [if_neg (ne_true_of_eq_false hlive)]
      exact ⟨hlive, rfl⟩
    rw [hcount hone.1, hone.2, List.length_cons, Nat.add_comm l.length, BitVec.ofNat_add, ← BitVec.add_assoc]
    rfl

theorem State.logFault_bookQueue (s : State) (f : FaultInfo) (hbook : inBook f.event = true) :
    (s.logFault f).faults.frozen = s.faults.frozen ∧ (s.logFault f).faults.bookRecords = s.faults.bookRecords ∧
      (s.faults.frozen = false → (s.logFault f).faults.bookQueue.length = s.faults.bookQueue.length + 1) := by
  unfold State.logFault
  dsimp only
  rw [hbook]
  split
  · exact ⟨rfl, rfl, fun hlive => by simp [hlive]⟩
  · rw [State.raiseBoth_faults]
    exact ⟨rfl, rfl, fun hlive => by simp [hlive]⟩

theorem State.sealDone_faults (s : State) : s.sealDone.faults.sealed = true ∧ s.sealDone.faults.frozen = true ∧
    s.sealDone.faults.busy = false ∧ s.sealDone.faults.bookQueue = [] ∧
      (s.faults.frozen = false → s.sealDone.faults.bookRecords =
        s.faults.bookRecords + BitVec.ofNat 32 (s.faults.bookQueue.length + 1)) := by
  obtain ⟨hfrozen, hrecords, hlength⟩ := s.logFault_bookQueue { event := 0x31, cls := 0, unitKind := 0, b := s.dev.unit.toNat } rfl
  obtain ⟨hempty, hcount⟩ := foldl_bookNext _ (s.logFault { event := 0x31, cls := 0, unitKind := 0, b := s.dev.unit.toNat }) rfl
  refine ⟨rfl, rfl, rfl, hempty, fun hlive => ?_⟩
  rw [← hlength hlive, ← hrecords]
  exact hcount (hfrozen.trans hlive)

/-! ### The vault (R656, R657) -/

theorem State.vaultDone_acc (s : State) : s.vaultDone.acc =
    { s.acc with vault := s.acc.keys, vaultDue := false, rekeyed := [], accepting := [] } := by
  unfold State.vaultDone
  exact List.foldlRecOn (motive := fun (t : State) => t.acc = _) _ _ rfl fun _ ht _ _ => ht

theorem State.bookAppend_acc (s : State) (r : List Byte) : (s.bookAppend r).acc = s.acc := by
  unfold State.bookAppend
  dsimp only
  split <;> rfl

theorem State.bookAppend_records {s : State} (r : List Byte) (h : s.faults.frozen = false) :
    (s.bookAppend r).faults.bookRecords = s.faults.bookRecords + 1 := by
  rw [State.bookAppend, if_neg (ne_true_of_eq_false h)]


/-! ### INSTALL (R802, R803) -/

section Install
variable {s : State} {i : SlotId} {st : InstallStage} {hash : List Byte} {image : Option Image} {programmed : List Byte}

theorem State.sourceOk_of_bad (h : s.acc.srcOffset % 4096 ≠ 0 ∨ s.ledger.exchMib * 2 ^ 20 < s.acc.srcOffset + s.acc.srcLength) :
    s.sourceOk = false := by
  have hno : ¬ (s.acc.srcOffset % 4096 = 0 ∧ s.acc.srcOffset + s.acc.srcLength ≤ s.exchBytes) := by
    unfold State.exchBytes
    omega
  rw [Bool.eq_false_iff]
  intro hok
  simp only [State.sourceOk, Bool.and_eq_true, decide_eq_true_eq] at hok
  exact hno hok.1.1

theorem State.installStep_of_badSource (h : s.sourceOk = false) (ok sig : Bool) :
    s.installStep i .check hash image programmed ok sig = s.endAcc .badSource := if_pos (by simp [h])

/-- A flash error past the check makes the target INVALID. -/
theorem State.installStep_of_flashFail (h : st ≠ .check) (sig : Bool) :
    s.installStep i st hash image programmed false sig = s.installFails i .flashFail := by
  cases st
  · exact absurd rfl h
  all_goals rfl

theorem State.installStep_of_changed (h : programmed ≠ hash) (sig : Bool) :
    s.installStep i .readBack hash image programmed true sig = s.installFails i .badSource := if_pos h

theorem State.installStep_of_verified (h : programmed = hash) (sig : Bool) :
    s.installStep i .readBack hash image programmed true sig =
      (s.updAcc' fun x => { x.setSlot i { st := .verified, image := image } with progress := 100 }).endAcc .ok :=
  if_neg (not_not.mpr h)

end Install

/-- The slots after one is written, whatever else of the ACC_ state changes. -/
theorem AccState.setSlot_slots (x : AccState) (i : SlotId) (v : Slot3) {y : AccState} (ha : y.slotA = (x.setSlot i v).slotA)
    (hb : y.slotB = (x.setSlot i v).slotB) (hg : y.golden = (x.setSlot i v).golden) :
    y.slot i = v ∧ ∀ j, j ≠ i → y.slot j = x.slot j :=
  ⟨(AccState.slot_congr ha hb hg i).trans (AccState.setSlot_slot ..),
    fun j hj => (AccState.slot_congr ha hb hg j).trans (AccState.setSlot_slot_ne _ _ hj)⟩

/-! ### The obligation -/

section Ended
variable {s : State} {i : SlotId} (sig : Bool)

theorem activate_ends (hflash : s.acc.flash = some .bootControl) (hcmd : s.acc.cmd = some (.activate i)) :
    ∃ t, exec (.bootFlashOperationEnd true sig) s = .next t ∧ t.acc.next = i ∧ t.acc.bootSeq = s.acc.bootSeq + 1 ∧
      t.acc.busy = false ∧ t.acc.cmd = none ∧ t.acc.result = .ok ∧ t.acc.running = s.acc.running ∧ t.acc.image = s.acc.image ∧
      t.acc.slot i = (if (s.acc.slot i).st = .confirmed then s.acc.slot i else { s.acc.slot i with st := .trial, failed := 0 }) ∧
      ∀ j, j ≠ i → t.acc.slot j = s.acc.slot j := by
  refine exec_flashEnd hflash true sig fun f => ?_
  have hend : s.flashIdle.flashEnd .bootControl true sig = _ :=
    State.bootControlEnd_activate (s := s.flashIdle) (i := i) hcmd
  rw [hend]
  obtain ⟨hself, hother⟩ := AccState.setSlot_slots s.flashIdle.acc i (s.flashIdle.acc.slot i).activated rfl rfl rfl
  refine ⟨rfl, rfl, rfl, rfl, rfl, ?_, ?_, ?_, fun j hj => ?_⟩
  · cases i <;> rfl
  · cases i <;> rfl
  · refine (AccState.slot_congr rfl rfl rfl i).trans (hself.trans ?_)
    rw [Slot3.activated, show s.flashIdle.acc.slot i = s.acc.slot i from AccState.slot_congr rfl rfl rfl i]
  · exact (AccState.slot_congr rfl rfl rfl j).trans ((hother j hj).trans (AccState.slot_congr rfl rfl rfl j))

theorem confirm_ends {m : Image} (hflash : s.acc.flash = some .bootControl) (hcmd : s.acc.cmd = some .confirm)
    (hrun : s.acc.running = some i) (himage : s.acc.image = some m) :
    ∃ t, exec (.bootFlashOperationEnd true sig) s = .next t ∧ t.acc.lastConfirmed = some i ∧ t.acc.bootSeq = s.acc.bootSeq + 1 ∧
      t.acc.busy = false ∧ t.acc.result = .ok ∧
      t.acc.floor = (if s.acc.floor < m.floorTo ∧ 0 < s.acc.raisesLeft then m.floorTo else s.acc.floor) ∧
      ∀ j v, v = (if j = i then { s.acc.slot j with st := .confirmed, failed := 0 } else s.acc.slot j) →
        t.acc.slot j = if (∃ n, v.image = some n ∧ n.svn < t.acc.floor) ∧ v.st ≠ .empty ∧ v.st ≠ .invalid ∧ v.st ≠ .writing then
          { v with st := .belowFloor } else v := by
  refine exec_flashEnd hflash true sig fun f => ?_
  have hend : s.flashIdle.flashEnd .bootControl true sig = _ :=
    State.bootControlEnd_confirm (s := s.flashIdle) hcmd hrun himage
  rw [hend]
  obtain ⟨hseq, hlast⟩ := (s.flashIdle.acc.confirmed i m).floorAll_rest
  have hfloor : (s.flashIdle.acc.confirmed i m).floor =
      if s.acc.floor < m.floorTo ∧ 0 < s.acc.raisesLeft then m.floorTo else s.acc.floor := rfl
  refine ⟨hlast, hseq, rfl, rfl, (AccState.floorAll_floor _).trans hfloor, ?_⟩
  rintro j v rfl
  have hslot : (s.flashIdle.acc.confirmed i m).slot j =
      if j = i then { s.acc.slot j with st := .confirmed, failed := 0 } else s.acc.slot j := by
    obtain ⟨hself, hother⟩ := AccState.setSlot_slots s.flashIdle.acc i { s.flashIdle.acc.slot i with st := .confirmed, failed := 0 }
      (y := s.flashIdle.acc.confirmed i m) rfl rfl rfl
    by_cases hj : j = i
    · subst hj
      rw [if_pos rfl, hself, show s.flashIdle.acc.slot j = s.acc.slot j from AccState.slot_congr rfl rfl rfl j]
    · rw [if_neg hj, hother j hj]
      exact AccState.slot_congr rfl rfl rfl j
  dsimp only
  rw [AccState.floorAll_floor, ← Slot3.floored_eq, ← hslot, ← AccState.floorAll_slot]
  exact AccState.slot_congr rfl rfl rfl j

/-- A boot-control update that failed is made again: nothing that waits comes before it. -/
theorem bootControl_retried {c : AccCmd} (hflash : s.acc.flash = some .bootControl) (hop : c.op = .bootControl)
    (hcmd : s.acc.cmd = some c) (htrip : s.acc.tripDue = none) (hwarn : s.acc.pwrWarn = false) (hvault : s.acc.vaultDue = false)
    (hseal : s.faults.sealStage = .none) : exec (.bootFlashOperationEnd false sig) s = .next s := by
  have hstart := State.startFlash_of_free (s := s.flashIdle) (cmd := c) ⟨rfl, htrip, hwarn, hvault, hseal⟩ hcmd
  change Host.Outcome.next (match s.acc.flash with
    | none => s
    | some op => (s.flashIdle.flashEnd op false sig).startFlash) = _
  rw [hflash]
  refine congrArg Host.Outcome.next (hstart.trans ?_)
  rw [hop, ← hflash]
  rfl

/-- An INSTALL that fails ends with its target INVALID and the other slots as they were. -/
theorem installFails_ends {st : InstallStage} {hash : List Byte} {image : Option Image} {programmed : List Byte} {ok : Bool}
    {r : AccResult} (hflash : s.acc.flash = some .accession) (hcmd : s.acc.cmd = some (.install i st hash image programmed))
    (hfails : s.flashIdle.installStep i st hash image programmed ok sig = s.flashIdle.installFails i r) :
    ∃ t, exec (.bootFlashOperationEnd ok sig) s = .next t ∧ t.acc.result = r ∧ t.acc.busy = false ∧
      t.acc.slot i = { st := .invalid } ∧ ∀ j, j ≠ i → t.acc.slot j = s.acc.slot j := by
  refine exec_flashEnd hflash ok sig fun f => ?_
  have hend : s.flashIdle.flashEnd .accession ok sig = s.flashIdle.installFails i r := by
    unfold State.flashEnd
    rw [show s.flashIdle.acc.cmd = _ from hcmd]
    exact hfails
  rw [hend]
  obtain ⟨hself, hother⟩ := AccState.setSlot_slots s.flashIdle.acc i { st := .invalid } rfl rfl rfl
  exact ⟨rfl, rfl, (AccState.slot_congr rfl rfl rfl i).trans hself,
    fun j hj => (AccState.slot_congr rfl rfl rfl j).trans ((hother j hj).trans (AccState.slot_congr rfl rfl rfl j))⟩

end Ended

/-- Settles O53: the commands by one judgement, then each operation by what its end does. The order NOT_OWNER, BUSY, SEALED,
BAD_STATE is log entry 101 (DESIGN CHOICE); INSTALL's steps and its target slot are log entry 102. -/
theorem accessions : Obligations.Accessions := by
  unfold Obligations.Accessions
  refine ⟨?commands, ?ends⟩
  case commands =>
    rintro p i s x c cmd op allowed hlive hready rfl hc
    have hserved (f : State → State) : s.whenReadyOrRecovery f = f s := by
      rw [State.whenReadyOrRecovery, State.reached_of_running hlive, if_pos (by simpa using hready)]
    refine AccCommand.answers (cmd := cmd) (op := op) (allowed := allowed) ?_
    obtain ⟨rfl, rfl, rfl, rfl⟩ | ⟨rfl, rfl, rfl, rfl⟩ | ⟨rfl, rfl, rfl, rfl⟩ := hc
    · have htarget : s.installTarget = if s.dev.recovery = false ∧ s.acc.running = some .a then .b else .a := by
        unfold State.installTarget
        cases s.dev.recovery <;> simp
      refine ⟨⟨s.dev.ready || s.dev.recovery, by simpa using hready, ?_⟩, rfl⟩
      rw [← htarget]
      exact congrArg Host.Outcome.next (hserved _)
    · exact ⟨⟨_, by simp only [Bool.or_eq_true, decide_eq_true_eq, or_assoc], congrArg Host.Outcome.next (hserved _)⟩, rfl⟩
    · refine ⟨⟨_, ?_, congrArg Host.Outcome.next (hserved _)⟩, rfl⟩
      rw [Bool.and_eq_true]
      refine and_congr_right fun _ => ?_
      cases s.acc.running <;> simp
  case ends =>
    rintro s sig x - rfl
    refine ⟨fun hnone ok => ?idle, fun htrip hwarn => ⟨fun i hflash hcmd => activate_ends sig hflash hcmd,
      fun i m hflash hcmd hrun himage => confirm_ends sig hflash hcmd hrun himage, fun c hflash hc hcmd hvault hseal => ?retry,
      fun i st hash image programmed hflash hcmd => ⟨fun hst hbad ok => ?badSource, fun hst => ?erased,
        fun hst => installFails_ends sig hflash hcmd (State.installStep_of_flashFail hst sig),
        fun hst hchanged => ?changed, fun hst hsame => ?verified⟩,
      fun hflash => ⟨fun hstage => ?intent, fun hstage => ?erase, fun hstage => ?append⟩, fun hflash => ?vault⟩,
      fun r hflash htrip => ?trip⟩
    case idle =>
      change Host.Outcome.next (match s.acc.flash with
        | none => s
        | some op => (s.flashIdle.flashEnd op ok sig).startFlash) = _
      rw [hnone]
    case retry =>
      have hop : c.op = .bootControl := by obtain rfl | ⟨i, rfl⟩ := hc <;> rfl
      exact bootControl_retried sig hflash hop hcmd htrip hwarn hvault hseal
    case badSource =>
      subst hst
      refine exec_flashEnd hflash ok sig fun f => ?_
      have hend : s.flashIdle.flashEnd .accession ok sig = s.flashIdle.endAcc .badSource := by
        unfold State.flashEnd
        rw [show s.flashIdle.acc.cmd = _ from hcmd]
        exact State.installStep_of_badSource (State.sourceOk_of_bad (s := s.flashIdle) hbad) ok sig
      rw [hend]
      exact ⟨rfl, rfl, fun j => AccState.slot_congr rfl rfl rfl j⟩
    case erased =>
      subst hst
      refine exec_flashEnd hflash true sig fun f => ?_
      have hend : s.flashIdle.flashEnd .accession true sig = s.flashIdle.installStep i .erase hash image programmed true sig := by
        unfold State.flashEnd
        rw [show s.flashIdle.acc.cmd = _ from hcmd]
      rw [hend]
      exact ⟨rfl, rfl, fun j => AccState.slot_congr rfl rfl rfl j⟩
    case changed =>
      subst hst
      exact installFails_ends sig hflash hcmd (State.installStep_of_changed hchanged sig)
    case verified =>
      subst hst
      refine exec_flashEnd hflash true sig fun f => ?_
      have hend : s.flashIdle.flashEnd .accession true sig = (s.flashIdle.updAcc' fun x =>
          { x.setSlot i { st := .verified, image := image } with progress := 100 }).endAcc .ok := by
        unfold State.flashEnd
        rw [show s.flashIdle.acc.cmd = _ from hcmd]
        exact State.installStep_of_verified hsame sig
      rw [hend]
      obtain ⟨hself, hother⟩ := AccState.setSlot_slots s.flashIdle.acc i { st := .verified, image := image } rfl rfl rfl
      exact ⟨rfl, rfl, (AccState.slot_congr rfl rfl rfl i).trans hself,
        fun j hj => (AccState.slot_congr rfl rfl rfl j).trans ((hother j hj).trans (AccState.slot_congr rfl rfl rfl j))⟩
    case intent =>
      refine exec_flashEnd hflash true sig fun f => ?_
      rw [show s.flashIdle.flashEnd .returnSeal true sig = s.flashIdle.sealStep from rfl, State.sealStep,
        show s.flashIdle.faults.sealStage = _ from hstage]
      exact ⟨rfl, rfl, rfl⟩
    case erase =>
      refine exec_flashEnd hflash true sig fun f => ?_
      rw [show s.flashIdle.flashEnd .returnSeal true sig = s.flashIdle.sealStep from rfl, State.sealStep,
        show s.flashIdle.faults.sealStage = _ from hstage]
      exact ⟨rfl, rfl⟩
    case append =>
      refine exec_flashEnd hflash true sig fun f => ?_
      rw [show s.flashIdle.flashEnd .returnSeal true sig = s.flashIdle.sealStep from rfl, State.sealStep,
        show s.flashIdle.faults.sealStage = _ from hstage]
      exact s.flashIdle.sealDone_faults
    case vault =>
      refine exec_flashEnd hflash true sig fun f => ?_
      have hacc : (s.flashIdle.flashEnd .vault true sig).acc = _ := s.flashIdle.vaultDone_acc
      rw [hacc]
      exact ⟨rfl, rfl, rfl⟩
    case trip =>
      refine exec_flashEnd hflash true sig fun f => ?_
      have hend : s.flashIdle.flashEnd .trip true sig = (s.flashIdle.updAcc' fun x => { x with tripDue := none }).bookAppend r := by
        unfold State.flashEnd
        rw [show s.flashIdle.acc.tripDue = _ from htrip]
      rw [hend]
      exact ⟨congrArg AccState.tripDue (State.bookAppend_acc ..), fun hlive => State.bookAppend_records r hlive⟩

end Sys2Proof.Machine

namespace Sys2Proof.Machine

open Sys2Proof.Safety

/-! ## Canonical form (O60)

`Canon` speaks of twelve maps of the state and of the maps inside a Hearth. The model writes them by `mset`, `mmap`, `putBytes`
and their like only, and each of these keeps the canonical form (`Laws/Maps`). The lemmas below carry that from the maps to the
structures that hold them, then to each operation of the model in the order of its files: an operation keeps the form because
the operations that it calls do, on every branch. `exec_canon` reads the last layer off, command by command. -/

/-! ### The canonical form, map by map -/

/-- The maps of a Stoker: its registers, its lengths and its stream handles. -/
structure StokerCanon (x : Stoker) : Prop where
  regs : mwf 0 x.s = true
  lens : mwf 0 x.lens = true
  handles : mwf none x.handles = true

/-- A map of Stokers, with the maps of each. -/
structure StokersCanon (m : Sparse Stoker) : Prop where
  map : mwf {} m = true
  each : ∀ k, StokerCanon (mget {} m k)

/-- A map of Firebox slots, with the accumulators of each. -/
structure SlotsCanon (m : Sparse Slot) : Prop where
  map : mwf {} m = true
  each : ∀ i, mwf 0 (mget {} m i).vals = true

/-- A map of Hearths, with the maps of each. -/
structure HearthsCanon (m : Sparse Hearth) : Prop where
  map : mwf {} m = true
  each : ∀ h, HearthCanon (mget {} m h)

/-- A map of galleries, with the queues of each. -/
structure GalsCanon (m : Sparse Gallery) : Prop where
  map : mwf {} m = true
  each : ∀ g, mwf {} (mget {} m g).queues = true

/-- The maps of the Fenline: its ports and the galleries' rings. -/
structure FenCanon (x : FenState) : Prop where
  ports : mwf {} x.ports = true
  gals : mwf {} x.gals = true

theorem fenCanon_iff {x : FenState} : FenCanon x ↔ mwf {} x.ports = true ∧ mwf {} x.gals = true :=
  ⟨fun h => ⟨h.ports, h.gals⟩, fun ⟨h1, h2⟩ => ⟨h1, h2⟩⟩

theorem stokerCanon_iff {x : Stoker} :
    StokerCanon x ↔ mwf 0 x.s = true ∧ mwf 0 x.lens = true ∧ mwf none x.handles = true :=
  ⟨fun h => ⟨h.regs, h.lens, h.handles⟩, fun ⟨h1, h2, h3⟩ => ⟨h1, h2, h3⟩⟩

theorem hearthCanon_iff {x : Hearth} :
    HearthCanon x ↔ StokersCanon x.stokers ∧ mwf 0 x.hob = true ∧ mwf 0 x.ps = true ∧ SlotsCanon x.slots ∧
      mwf .zero x.planned = true ∧ mwf none x.latchPlan = true :=
  ⟨fun h => ⟨⟨h.stokers, fun k => ⟨h.regs k, h.lens k, h.handles k⟩⟩, h.hob, h.store, ⟨h.slots, h.accumulators⟩, h.planned,
      h.latchPlan⟩,
    fun ⟨h1, h2, h3, h4, h5, h6⟩ => ⟨h1.map, h2, h3, fun k => (h1.each k).regs, fun k => (h1.each k).lens,
      fun k => (h1.each k).handles, h4.map, h4.each, h5, h6⟩⟩

theorem canon_iff {s : State} :
    Canon s ↔ mwf 0 s.shared = true ∧ GalsCanon s.gals ∧ mwf {} s.ledger.lines = true ∧ mwf {} s.keeper.slots = true ∧
      mwf {} s.bays = true ∧ mwf {} s.cabinets = true ∧ mwf {} s.fen.ports = true ∧ mwf {} s.fen.gals = true ∧
      mwf {} s.pace.hearth = true ∧ mwf false s.portA.pba = true ∧ mwf false s.portB.pba = true ∧ HearthsCanon s.hearths :=
  ⟨fun h => ⟨h.shared, ⟨h.gals, h.queues⟩, h.lines, h.slots, h.bays, h.cabinets, h.fenPorts, h.fenGals, h.pace, h.pba .a, h.pba .b,
      ⟨h.hearths, h.hearth⟩⟩,
    fun ⟨h1, h2, h3, h4, h5, h6, h7, h8, h9, h10, h11, h12⟩ => ⟨h1, h2.map, h2.each, h3, h4, h5, h6, h7, h8, h9,
      fun p => by cases p; exacts [h10, h11], h12.map, h12.each⟩⟩

theorem canon_stoker {s : State} (hc : Canon s) (h k : Nat) : StokerCanon (s.stoker h k) :=
  ⟨(hc.hearth h).regs k, (hc.hearth h).lens k, (hc.hearth h).handles k⟩

section Parts
variable {x : Hearth} (hx : HearthCanon x)
include hx

theorem hearthCanon_stoker (k : Nat) : StokerCanon (x.stoker k) := ⟨hx.regs k, hx.lens k, hx.handles k⟩
theorem hearthCanon_slotsCanon : SlotsCanon x.slots := ⟨hx.slots, hx.accumulators⟩

end Parts

/-- Of a change at one key: the value written there, and what every other key holds. -/
theorem forall_mget_mset {α : Type} [DecidableEq α] {P : α → Prop} {d : α} {m : Sparse α} {v : α} (hm : mwf d m = true)
    (h : ∀ j, P (mget d m j)) (hv : P v) (k j : Nat) : P (mget d (mset d m k v) j) := by
  by_cases hj : j = k
  · rw [hj, mget_mset_same _ _ _ _ hm]
    exact hv
  · rw [mget_mset_ne _ _ _ _ _ hj]
    exact h j

theorem forall_mget_mmap_of {α : Type} [DecidableEq α] {P : α → Prop} {d : α} {f : Nat → α → α} (hd : P d)
    (hf : ∀ k v, P v → P (f k v)) (m : Sparse α) (lo : Nat) (hm : mwfFrom d lo m = true) (h : ∀ j, P (mget d m j)) (j : Nat) :
    P (mget d (mmap d f m) j) := by
  induction m generalizing lo with
  | nil => exact hd
  | cons e m ih =>
    obtain ⟨k, v⟩ := e
    simp only [mwfFrom, Bool.and_eq_true, decide_eq_true_eq] at hm
    have hv : P (f k v) := hf k v (by simpa [mget] using h k)
    have htail := ih (k + 1) hm.2 fun i => by
      by_cases hi : i = k
      · rw [hi, mget_below d m (k + 1) k hm.2 (by omega)]
        exact hd
      · simpa [mget, hi] using h i
    unfold mmap
    split
    · exact htail
    · by_cases hj : j = k
      · simpa [mget, hj] using hv
      · simpa [mget, hj] using htail

/-- Of a change of every listed value. -/
theorem forall_mget_mmap {α : Type} [DecidableEq α] {P : α → Prop} {d : α} {f : Nat → α → α} {m : Sparse α}
    (hm : mwf d m = true) (h : ∀ j, P (mget d m j)) (hd : P d) (hf : ∀ k v, P v → P (f k v)) (j : Nat) :
    P (mget d (mmap d f m) j) := forall_mget_mmap_of hd hf m 0 hm h j

theorem mwf_nil {α : Type} [DecidableEq α] (d : α) : mwf d [] = true := rfl

theorem stokerCanon_default : StokerCanon {} := ⟨rfl, rfl, rfl⟩

theorem hearthCanon_default : HearthCanon {} :=
  ⟨rfl, rfl, rfl, fun _ => rfl, fun _ => rfl, fun _ => rfl, rfl, fun _ => rfl, rfl, rfl⟩

theorem stokersCanon_nil : StokersCanon [] := ⟨rfl, fun _ => stokerCanon_default⟩
theorem slotsCanon_nil : SlotsCanon [] := ⟨rfl, fun _ => rfl⟩
theorem hearthsCanon_nil : HearthsCanon [] := ⟨rfl, fun _ => hearthCanon_default⟩
theorem galsCanon_nil : GalsCanon [] := ⟨rfl, fun _ => rfl⟩

theorem StokersCanon.mset {m : Sparse Stoker} (hm : StokersCanon m) {x : Stoker} (hx : StokerCanon x) (k : Nat) :
    StokersCanon (mset {} m k x) := ⟨mwf_mset _ _ _ _ hm.map, forall_mget_mset hm.map hm.each hx k⟩

theorem StokersCanon.mmap {m : Sparse Stoker} (hm : StokersCanon m) {f : Nat → Stoker → Stoker}
    (hf : ∀ k x, StokerCanon x → StokerCanon (f k x)) : StokersCanon (mmap {} f m) :=
  ⟨mwf_mmap _ _ _ hm.map, forall_mget_mmap hm.map hm.each stokerCanon_default hf⟩

theorem SlotsCanon.mset {m : Sparse Slot} (hm : SlotsCanon m) {x : Slot} (hx : mwf 0 x.vals = true) (i : Nat) :
    SlotsCanon (mset {} m i x) :=
  ⟨mwf_mset _ _ _ _ hm.map, forall_mget_mset (P := fun v : Slot => mwf 0 v.vals = true) hm.map hm.each hx i⟩

theorem SlotsCanon.mmap {m : Sparse Slot} (hm : SlotsCanon m) {f : Nat → Slot → Slot}
    (hf : ∀ i x, mwf 0 x.vals = true → mwf 0 (f i x).vals = true) : SlotsCanon (mmap {} f m) :=
  ⟨mwf_mmap _ _ _ hm.map, forall_mget_mmap (P := fun v : Slot => mwf 0 v.vals = true) hm.map hm.each rfl hf⟩

theorem HearthsCanon.mset {m : Sparse Hearth} (hm : HearthsCanon m) {x : Hearth} (hx : HearthCanon x) (h : Nat) :
    HearthsCanon (mset {} m h x) := ⟨mwf_mset _ _ _ _ hm.map, forall_mget_mset hm.map hm.each hx h⟩

theorem HearthsCanon.mmap {m : Sparse Hearth} (hm : HearthsCanon m) {f : Nat → Hearth → Hearth}
    (hf : ∀ h x, HearthCanon x → HearthCanon (f h x)) : HearthsCanon (mmap {} f m) :=
  ⟨mwf_mmap _ _ _ hm.map, forall_mget_mmap hm.map hm.each hearthCanon_default hf⟩

theorem GalsCanon.mset {m : Sparse Gallery} (hm : GalsCanon m) {x : Gallery} (hx : mwf {} x.queues = true) (g : Nat) :
    GalsCanon (mset {} m g x) :=
  ⟨mwf_mset _ _ _ _ hm.map, forall_mget_mset (P := fun v : Gallery => mwf {} v.queues = true) hm.map hm.each hx g⟩

theorem GalsCanon.mmap {m : Sparse Gallery} (hm : GalsCanon m) {f : Nat → Gallery → Gallery}
    (hf : ∀ g x, mwf {} x.queues = true → mwf {} (f g x).queues = true) : GalsCanon (mmap {} f m) :=
  ⟨mwf_mmap _ _ _ hm.map, forall_mget_mmap (P := fun v : Gallery => mwf {} v.queues = true) hm.map hm.each rfl hf⟩

/-! ### Folds, and the outcomes of an issue and of a record's write -/

theorem canon_ite {p : Prop} [Decidable p] {x y : State} (hx : Canon x) (hy : Canon y) : Canon (if p then x else y) := by
  split <;> assumption

/-- A fold of an operation that keeps canonical form. -/
theorem canon_foldl {β : Type} {f : State → β → State} {s : State} (hc : Canon s) (hf : ∀ t b, Canon t → Canon (f t b))
    (l : List β) : Canon (l.foldl f s) := List.foldlRecOn l f hc fun t ht b _ => hf t b ht

/-- A fold that carries something beside the state. -/
theorem canon_foldl_fst {α β : Type} {f : State × α → β → State × α} {a : State × α} (hc : Canon a.1)
    (hf : ∀ t b, Canon t.1 → Canon (f t b).1) (l : List β) : Canon (l.foldl f a).1 :=
  List.foldlRecOn (motive := fun t : State × α => Canon t.1) l f hc fun t ht b _ => hf t b ht

theorem canon_foldl_ash {β : Type} {f : AshRun → β → AshRun} {r : AshRun} (hc : Canon r.s)
    (hf : ∀ t b, Canon t.s → Canon (f t b).s) (l : List β) : Canon (l.foldl f r).s :=
  List.foldlRecOn (motive := fun t : AshRun => Canon t.s) l f hc fun t ht b _ => hf t b ht

/-- A fold of changes of a map. -/
theorem mwf_foldl {α β : Type} [DecidableEq α] {d : α} {f : Sparse α → β → Sparse α} {m : Sparse α} (hm : mwf d m = true)
    (hf : ∀ m b, mwf d m = true → mwf d (f m b) = true) (l : List β) : mwf d (l.foldl f m) = true :=
  List.foldlRecOn (motive := fun m => mwf d m = true) l f hm fun m hm b _ => hf m b hm

theorem slotsCanon_foldl {β : Type} {f : Sparse Slot → β → Sparse Slot} {m : Sparse Slot} (hm : SlotsCanon m)
    (hf : ∀ m b, SlotsCanon m → SlotsCanon (f m b)) (l : List β) : SlotsCanon (l.foldl f m) :=
  List.foldlRecOn l f hm fun m hm b _ => hf m b hm

theorem hearthCanon_foldl {β : Type} {f : Hearth → β → Hearth} {x : Hearth} (hx : HearthCanon x)
    (hf : ∀ y b, HearthCanon y → HearthCanon (f y b)) (l : List β) : HearthCanon (l.foldl f x) :=
  List.foldlRecOn l f hx fun y hy b _ => hf y b hy

/-- Every state that an issue's outcome carries is in canonical form. -/
def Issued.Canon : Issued → Prop
  | .next t | .park t | .queue t => Safety.Canon t
  | .fault _ | .hold => True

/-- The state that a record's write leaves is in canonical form. -/
def Wrote.Canon : Wrote → Prop
  | .done t | .waits t | .failed t => Safety.Canon t

end Sys2Proof.Machine

namespace Sys2Proof.Machine

open Sys2Proof.Safety

/-! ### Operations that keep canonical form: Ops, Translate: the parts of the state, the Fault log, the Keeper and the Ledger -/

theorem State.setPort_canon {s : State} (hc : Canon s) (p : Port) {x : PortState} (hx : mwf false x.pba = true) :
    Canon (s.setPort p x) := by
  unfold State.setPort
  grind [canon_iff]
theorem State.setGal_canon {s : State} (hc : Canon s) (g : Nat) {x : Gallery} (hx : mwf {} x.queues = true) :
    Canon (s.setGal g x) := by
  unfold State.setGal
  grind [canon_iff, GalsCanon.mset]
theorem Gallery.setQueue_queues {x : Gallery} (hx : mwf {} x.queues = true) (q : Nat) (y : Queue) :
    mwf {} (x.setQueue q y).queues = true := by
  unfold Gallery.setQueue
  grind [mwf_mset]
theorem State.setQueue_canon {s : State} (hc : Canon s) (g q : Nat) (y : Queue) : Canon (s.setQueue g q y) := by
  unfold State.setQueue
  grind [State.setGal_canon, Gallery.setQueue_queues, Canon.queues]
theorem State.setHearth_canon {s : State} (hc : Canon s) (h : Nat) {x : Hearth} (hx : HearthCanon x) :
    Canon (s.setHearth h x) := by
  unfold State.setHearth
  grind [canon_iff, HearthsCanon.mset]
theorem Hearth.setStoker_hearthCanon {x : Hearth} (hx : HearthCanon x) (k : Nat) {y : Stoker} (hy : StokerCanon y) :
    HearthCanon (x.setStoker k y) := by
  unfold Hearth.setStoker
  grind [hearthCanon_iff, StokersCanon.mset]
theorem State.setStoker_canon {s : State} (hc : Canon s) (h k : Nat) {y : Stoker} (hy : StokerCanon y) :
    Canon (s.setStoker h k y) := by
  unfold State.setStoker
  grind [State.setHearth_canon, Hearth.setStoker_hearthCanon, Canon.hearth]
theorem State.setBay_canon {s : State} (hc : Canon s) (b : Nat) (x : Bay) : Canon (s.setBay b x) := by
  unfold State.setBay
  grind [canon_iff, mwf_mset]
theorem State.send_canon {s : State} (hc : Canon s) (o : Out) : Canon (s.send o) := { hc with }
theorem State.updWo_canon {s : State} (hc : Canon s) (id : Nat) (f : WorkOrder → WorkOrder) : Canon (s.updWo id f) := { hc with }
theorem State.takeFree_canon {s : State} (hc : Canon s) : Canon s.takeFree.1 := { hc with }
theorem State.stepTime_canon {s : State} (hc : Canon s) (v : W64) : Canon (s.stepTime v) := by
  unfold State.stepTime
  grind [canon_iff]
theorem State.tick_canon {s : State} (hc : Canon s) : Canon s.tick := by
  unfold State.tick
  grind [canon_iff]
theorem State.reached_canon {s : State} (hc : Canon s) {f : State → State} (hf : ∀ t, Canon t → Canon (f t)) :
    Canon (s.reached f) := by
  unfold State.reached
  grind
theorem State.raise_canon {s : State} (hc : Canon s) (p : Port) (v : Nat) : Canon (s.raise p v) := by
  unfold State.raise
  grind [Canon.pba, State.setPort_canon, State.send_canon, mwf_mset]
theorem State.raiseGal_canon {s : State} (hc : Canon s) (g v : Nat) : Canon (s.raiseGal g v) := by
  unfold State.raiseGal
  grind [State.raise_canon, canon_iff]
theorem State.raiseDev_canon {s : State} (hc : Canon s) (p : Port) (lo : Nat) : Canon (s.raiseDev p lo) := by
  unfold State.raiseDev
  grind [State.raise_canon]
theorem State.raiseBoth_canon {s : State} (hc : Canon s) (lo : Nat) : Canon (s.raiseBoth lo) := by
  unfold State.raiseBoth
  grind [State.raiseDev_canon]
theorem State.raisePeer_canon {s : State} (hc : Canon s) (p : Port) : Canon (s.raisePeer p) := State.raiseDev_canon hc ..
theorem State.logFault_canon {s : State} (hc : Canon s) (f : FaultInfo) : Canon (s.logFault f) := by
  unfold State.logFault
  grind [State.raiseBoth_canon, canon_iff, mwf_putBytes]
theorem State.countLasting_canon {s : State} (hc : Canon s) : Canon s.countLasting := { hc with }
theorem State.logTransient_canon {s : State} (hc : Canon s) (key : Nat) (f : FaultInfo) : Canon (s.logTransient key f) := by
  unfold State.logTransient
  grind [State.logFault_canon, canon_iff]
theorem State.countTransient_canon {s : State} (hc : Canon s) : Canon s.countTransient := { hc with }
theorem State.transient_canon {s : State} (hc : Canon s) (u : CheckUnit) (h off : Nat) (wo : Option Nat) :
    Canon (s.transient u h off wo) := by
  unfold State.transient
  grind [State.countTransient_canon, State.logTransient_canon]
theorem State.loseLine_canon {s : State} (hc : Canon s) (off : Nat) : Canon (s.loseLine off) := by
  unfold State.loseLine
  grind [State.logFault_canon, canon_iff]
theorem State.lastingLogged_canon {s : State} (hc : Canon s) (u : CheckUnit) (h off : Nat) (wo : Option Nat) :
    Canon (s.lastingLogged u h off wo) := by
  unfold State.lastingLogged
  grind [State.countLasting_canon, State.logFault_canon]
theorem State.countCorrected_canon {s : State} (hc : Canon s) (u : CheckUnit) : Canon (s.countCorrected u) := by
  unfold State.countCorrected
  grind [canon_iff]
theorem State.judgeLine_canon {s : State} (hc : Canon s) (v : Verdict) (off : Nat) : Canon (s.judgeLine v off) := by
  unfold State.judgeLine
  grind [State.countCorrected_canon, State.transient_canon, State.loseLine_canon, State.lastingLogged_canon]
theorem State.setSlot_canon {s : State} (hc : Canon s) (n : Nat) (x : KeeperSlot) : Canon (s.setSlot n x) := by
  unfold State.setSlot
  grind [canon_iff, mwf_mset]
theorem State.breakSlot_canon {s : State} (hc : Canon s) (n cause : Nat) : Canon (s.breakSlot n cause) := by
  unfold State.breakSlot
  grind [State.setSlot_canon, State.logFault_canon, State.raiseBoth_canon, canon_iff]
theorem State.breakSlotsOf_canon {s : State} (hc : Canon s) (p : Port) (cause : Nat) : Canon (s.breakSlotsOf p cause) := by
  unfold State.breakSlotsOf
  grind [State.breakSlot_canon, canon_foldl]
theorem State.setLine_canon {s : State} (hc : Canon s) (l : Nat) (x : Line) : Canon (s.setLine l x) := by
  unfold State.setLine
  grind [canon_iff, mwf_mset]
theorem State.sendSnoop_canon {s : State} (hc : Canon s) (l : Nat) (p : Port) (inv : Bool) :
    Canon (s.sendSnoop l p inv) := State.setLine_canon (State.send_canon hc ..) ..
theorem State.askLine_canon {s : State} (hc : Canon s) (w : Waiter) (u : LineUse) (l : Nat) : Canon (s.askLine w u l) := by
  unfold State.askLine
  grind [State.setLine_canon, State.sendSnoop_canon]
theorem State.unwait_canon {s : State} (hc : Canon s) (w : Waiter) (l : Nat) : Canon (s.unwait w l) :=
  State.setLine_canon hc ..
theorem State.askLines_canon {s : State} (hc : Canon s) (w : Waiter) (u : LineUse) (ls : List Nat) :
    Canon (s.askLines w u ls).1 := by
  unfold State.askLines
  grind [State.unwait_canon, State.askLine_canon, canon_foldl]
theorem State.putShared_canon {s : State} (hc : Canon s) (off : Nat) (bs : List (Byte × Byte)) :
    Canon (s.putShared off bs) := by
  unfold State.putShared
  grind [canon_iff, mwf_putMasked]
theorem State.putExch_canon {s : State} (hc : Canon s) (off : Nat) (bs : List (Byte × Byte)) :
    Canon (s.putExch off bs) := by
  unfold State.putExch
  grind [State.setLine_canon, State.putShared_canon, canon_foldl]
theorem State.serveM2S_canon {s : State} (hc : Canon s) (p : Port) (r : M2SReq) (v : Verdict) :
    Canon (s.serveM2S p r v) := by
  unfold State.serveM2S
  grind [State.judgeLine_canon, State.send_canon, State.setLine_canon, State.putExch_canon]
theorem State.serveBar4_canon {s : State} (hc : Canon s) (p : Port) (write : Bool) (off : Nat) (data : List Byte)
    (be : List Bool) (vs : List Verdict) : Canon (s.serveBar4 p write off data be vs) := by
  unfold State.serveBar4
  grind [State.putExch_canon, State.judgeLine_canon, State.send_canon, canon_foldl]
theorem State.tryHost_canon {s : State} (hc : Canon s) (w : Waiter) : Canon (s.tryHost w).1 := by
  unfold State.tryHost
  grind [State.askLines_canon, State.serveM2S_canon, State.serveBar4_canon]
theorem State.snoopForPiece_canon {s : State} (hc : Canon s) (l : Nat) (w : Waiter) : Canon (s.snoopForPiece l w) := by
  unfold State.snoopForPiece
  grind [State.askLine_canon, State.unwait_canon]
theorem State.pumpLine_canon (l n : Nat) {s : State} (hc : Canon s) : Canon (State.pumpLine l n s) := by
  induction n generalizing s with
  | zero => exact hc
  | succ n ih =>
    unfold State.pumpLine
    grind [State.tryHost_canon, State.snoopForPiece_canon]
theorem State.pumpLines_canon {s : State} (hc : Canon s) (ls : List Nat) : Canon (s.pumpLines ls) := by
  unfold State.pumpLines
  grind [State.pumpLine_canon, canon_foldl]
theorem State.purgeFront_canon {s : State} (hc : Canon s) (g : Nat) (gone : Nat → Bool) : Canon (s.purgeFront g gone) := by
  unfold State.purgeFront
  grind [State.setLine_canon, State.pumpLines_canon, canon_foldl]
theorem State.resolveSnoop_canon {s : State} (hc : Canon s) (l : Nat) (p : Port) : Canon (s.resolveSnoop l p) :=
  State.pumpLines_canon (State.setLine_canon hc ..) ..
theorem State.withdrawPort_canon {s : State} (hc : Canon s) (p : Port) : Canon (s.withdrawPort p) := by
  unfold State.withdrawPort
  grind [State.setLine_canon, State.pumpLines_canon, State.logFault_canon, State.raiseBoth_canon, canon_iff, canon_foldl]
theorem State.countProt_canon {s : State} (hc : Canon s) (g : Nat) : Canon (s.countProt g) := by
  unfold State.countProt
  grind [Canon.queues, State.setGal_canon]
theorem State.countAbsent_canon {s : State} (hc : Canon s) (g : Nat) : Canon (s.countAbsent g) := by
  unfold State.countAbsent
  grind [Canon.queues, State.setGal_canon]

end Sys2Proof.Machine

namespace Sys2Proof.Machine

open Sys2Proof.Safety

/-! ### Operations that keep canonical form: Commit to Fence: work orders, the issue of an instruction, and fences -/

theorem Stoker.stop_stokerCanon {k : Stoker} (hk : StokerCanon k) : StokerCanon k.stop := by
  unfold Stoker.stop
  grind [stokerCanon_iff, mwf_mmap]
theorem Hearth.endWo_hearthCanon {x : Hearth} (hx : HearthCanon x) (id : Nat) (dropLoads : Bool) :
    HearthCanon (x.endWo id dropLoads) := by
  unfold Hearth.endWo
  grind [Stoker.stop_stokerCanon, hearthCanon_iff, StokersCanon.mmap]
theorem State.stopStokers_canon {s : State} (hc : Canon s) (id : Nat) : Canon (s.stopStokers id) := by
  unfold State.stopStokers
  grind [Hearth.endWo_hearthCanon, canon_iff, HearthsCanon.mmap]
theorem State.commit_canon {s : State} (hc : Canon s) (id : Nat) (d : Decision) : Canon (s.commit id d) :=
  State.updWo_canon hc ..
theorem State.endWo_canon {s : State} (hc : Canon s) (id : Nat) (d : Decision) : Canon (s.endWo id d) := by
  unfold State.endWo
  grind [State.stopStokers_canon, State.commit_canon]
theorem State.abortWo_canon {s : State} (hc : Canon s) (id : Nat) (reason : BitVec 8) : Canon (s.abortWo id reason) :=
  State.endWo_canon hc ..
theorem State.abortGal_canon {s : State} (hc : Canon s) (g : Nat) (reason : BitVec 8) : Canon (s.abortGal g reason) := by
  unfold State.abortGal
  grind [State.abortWo_canon, canon_foldl]
theorem State.faultWo_canon {s : State} (hc : Canon s) (id : Nat) (code : BitVec 8) (h k pc : Nat) :
    Canon (s.faultWo id code h k pc) := State.endWo_canon hc ..
theorem State.galleryFault_canon {s : State} (hc : Canon s) (g : Nat) (cause : GalCause) (code : Nat) :
    Canon (s.galleryFault g cause code) := by
  unfold State.galleryFault
  grind [Canon.queues, State.purgeFront_canon, State.setGal_canon, State.logFault_canon, State.abortGal_canon]
theorem Stoker.write_stokerCanon {x : Stoker} (hx : StokerCanon x) (d : Dst) (v : W64) : StokerCanon (x.write d v) := by
  unfold Stoker.write
  grind [stokerCanon_iff, mwf_mset]
theorem Stoker.deliver_stokerCanon {x : Stoker} (hx : StokerCanon x) (d : Dst) (v : W64) : StokerCanon (x.deliver d v) := by
  unfold Stoker.deliver
  grind [Stoker.write_stokerCanon, stokerCanon_iff]
theorem Stoker.await_stokerCanon {x : Stoker} (hx : StokerCanon x) (d : Dst) : StokerCanon (x.await d) := { hx with }
theorem State.updStoker_canon {s : State} (hc : Canon s) (h k : Nat) {f : Stoker → Stoker}
    (hf : ∀ x, StokerCanon x → StokerCanon (f x)) : Canon (s.updStoker h k f) := by
  unfold State.updStoker
  grind [State.setStoker_canon, canon_stoker]
theorem State.updHearth_canon {s : State} (hc : Canon s) (h : Nat) {f : Hearth → Hearth}
    (hf : ∀ x, HearthCanon x → HearthCanon (f x)) : Canon (s.updHearth h f) := by
  unfold State.updHearth
  grind [State.setHearth_canon, Canon.hearth]
theorem Hearth.issued_hearthCanon {x : Hearth} (hx : HearthCanon x) (k : Nat) : HearthCanon (x.issued k) := by
  unfold Hearth.issued
  grind [hearthCanon_iff, stokerCanon_iff, StokersCanon.mmap]
theorem State.faultIssue_canon {s : State} (hc : Canon s) (h k : Nat) (code : BitVec 8) :
    Canon (s.faultIssue h k code) := State.faultWo_canon hc ..
theorem State.retired_canon {s : State} (hc : Canon s) (wo : Nat) : Canon (s.retired wo) := State.updWo_canon hc ..
theorem State.advance_canon {s : State} (hc : Canon s) (h k n : Nat) : Canon (s.advance h k n) := by
  unfold State.advance
  grind [State.updStoker_canon, State.updHearth_canon, Hearth.issued_hearthCanon, stokerCanon_iff]
theorem State.issue_canon {s : State} (hc : Canon s) (h k cls op : Nat) (row : Nat → Bool) (du : DstUse)
    (legal : Nat → Nat → Bool) (bad : Nat → Bool) (uses : Nat → List Dst) {run : Nat → Nat → State → Issued}
    (hrun : ∀ w e t, Canon t → (run w e t).Canon) : Canon (s.issue h k cls op row du legal bad uses run) := by
  have hfault := State.faultIssue_canon hc h k
  have hadv := State.advance_canon hc h k (if decide (32 ≤ op) then 2 else 1)
  unfold State.issue
  refine canon_ite hc (canon_ite (hfault _) (canon_ite hc (canon_ite (hfault _) (canon_ite (hfault _) (canon_ite (hfault _)
    (canon_ite (hfault _) (canon_ite hc (canon_ite (State.retired_canon hadv _) (canon_ite hc ?_)))))))))
  have hx := hrun ((s.hearth h).word ((s.hearth h).stoker k).pc) (zExt ((s.hearth h).word (((s.hearth h).stoker k).pc + 8))) _ hadv
  split <;> rename_i heq <;> rw [heq] at hx
  · exact State.retired_canon hx _
  · exact hx
  · exact hfault _
  · exact hc
  · exact hx
theorem State.issueIllegal_canon {s : State} (hc : Canon s) (h k : Nat) : Canon (s.issueIllegal h k) := by
  unfold State.issueIllegal
  grind [State.faultIssue_canon]
theorem State.parkAs_canon {s : State} (hc : Canon s) (h k : Nat) (st : StSt) (wait : Wait) :
    Canon (s.parkAs h k st wait) := by
  unfold State.parkAs
  grind [State.updStoker_canon, stokerCanon_iff]
theorem State.alu_canon {s : State} (hc : Canon s) (h k op : Nat) (sub : Nat → Bool) (f : Nat → Stoker → W64 → W64 → W64) :
    Canon (s.alu h k op sub f) := by
  unfold State.alu
  grind [State.issue_canon, State.updStoker_canon, Stoker.write_stokerCanon, Issued.Canon]
theorem State.branch_canon {s : State} (hc : Canon s) (h k : Nat) (t : Int) : (s.branch h k t).Canon := by
  unfold State.branch
  grind [State.updStoker_canon, stokerCanon_iff, Issued.Canon]
theorem State.jmp_canon {s : State} (hc : Canon s) (h k : Nat) : Canon (s.jmp h k) := by
  unfold State.jmp
  grind [State.issue_canon, State.branch_canon]
theorem State.br_canon {s : State} (hc : Canon s) (h k : Nat) : Canon (s.br h k) := by
  unfold State.br
  grind [State.issue_canon, State.branch_canon, Issued.Canon]
theorem State.callInstr_canon {s : State} (hc : Canon s) (h k : Nat) : Canon (s.callInstr h k) := by
  unfold State.callInstr
  grind [State.issue_canon, State.branch_canon, State.updStoker_canon, stokerCanon_iff, Issued.Canon]
theorem State.ret_canon {s : State} (hc : Canon s) (h k : Nat) : Canon (s.ret h k) := by
  unfold State.ret
  grind [State.issue_canon, State.branch_canon, State.updStoker_canon, stokerCanon_iff, Issued.Canon]
theorem State.loop_canon {s : State} (hc : Canon s) (h k : Nat) : Canon (s.loop h k) := by
  unfold State.loop
  grind [State.issue_canon, State.updStoker_canon, Stoker.write_stokerCanon, State.branch_canon, Issued.Canon]
theorem State.setCabinet_canon {s : State} (hc : Canon s) (q : Nat) (x : Cabinet) : Canon (s.setCabinet q x) := by
  unfold State.setCabinet
  grind [canon_iff, mwf_mset]
theorem State.enterFence_canon {s : State} (hc : Canon s) (kind : BitVec 3) (index : Nat) (cause : BitVec 8)
    (rec : Nat → FaultInfo) : Canon (s.enterFence kind index cause rec) := by
  unfold State.enterFence
  grind [State.logFault_canon, canon_iff]
theorem State.remapAll_canon {s : State} (hc : Canon s) (h : Nat) : Canon (s.remapAll h) := by
  unfold State.remapAll
  grind [State.endWo_canon, canon_foldl]
theorem State.fenceHearth_canon {s : State} (hc : Canon s) (h : Nat) (cause : BitVec 8) (lasting listed : Bool) :
    Canon (s.fenceHearth h cause lasting listed) := by
  unfold State.fenceHearth
  grind [Canon.hearth, State.setHearth_canon, State.remapAll_canon, State.enterFence_canon, State.logFault_canon,
    hearthCanon_iff]
theorem State.fenceGrate_canon {s : State} (hc : Canon s) (h g a : Nat) (lasting : Bool) (wo : Option (Nat × Nat × Nat)) :
    Canon (s.fenceGrate h g a lasting wo) := by
  unfold State.fenceGrate
  grind [Canon.hearth, State.setHearth_canon, State.enterFence_canon, State.fenceHearth_canon, hearthCanon_iff]
theorem State.fenceEngine_canon {s : State} (hc : Canon s) (q e : Nat) (lasting : Bool) (wo : Option (Nat × Nat × Nat)) :
    Canon (s.fenceEngine q e lasting wo) := by
  unfold State.fenceEngine
  grind [State.setCabinet_canon, State.enterFence_canon]
theorem State.fenceStove_canon {s : State} (hc : Canon s) (h entry : Nat) (lasting : Bool) (wo : Option (Nat × Nat × Nat)) :
    Canon (s.fenceStove h entry lasting wo) := by
  unfold State.fenceStove
  grind [Canon.hearth, State.setHearth_canon, State.enterFence_canon, hearthCanon_iff]
theorem State.reapplyFences_canon {s : State} (hc : Canon s) (only : Option Nat) : Canon (s.reapplyFences only) := by
  unfold State.reapplyFences
  grind [State.setHearth_canon, Canon.hearth, State.setCabinet_canon, hearthCanon_iff, canon_foldl]
theorem State.lastingFault_canon {s : State} (hc : Canon s) (u : CheckUnit) (h off : Nat) (wo : Option Nat) :
    Canon (s.lastingFault u h off wo) := by
  unfold State.lastingFault
  grind [State.lastingLogged_canon, State.loseLine_canon, State.fenceHearth_canon]
theorem State.judge_canon {s : State} (hc : Canon s) (u : CheckUnit) (v : Verdict) (h off : Nat) (wo : Option Nat) :
    Canon (s.judge u v h off wo) := by
  unfold State.judge
  grind [State.countCorrected_canon, State.transient_canon, State.lastingFault_canon]

end Sys2Proof.Machine

namespace Sys2Proof.Machine

open Sys2Proof.Safety

/-! ### Operations that keep canonical form: Gallery, Time, PortFam: galleries, the timebase, Pace and the host ports -/

theorem State.earlyWrite_canon {s : State} (hc : Canon s) : Canon s.earlyWrite := { hc with }
theorem State.whenReady_canon {s : State} (hc : Canon s) {f : State → State} (hf : ∀ t, Canon t → Canon (f t)) :
    Canon (s.whenReady f) := by
  unfold State.whenReady
  grind [State.reached_canon, State.earlyWrite_canon]
theorem State.galResult_canon {s : State} (hc : Canon s) (g : Nat) (r : GalResult) : Canon (s.galResult g r) := by
  unfold State.galResult
  grind [State.setGal_canon, Canon.queues]
theorem State.judgeGal_canon {s : State} (hc : Canon s) (g : Nat) (portOk stateOk : Bool) {f : State → State}
    (hf : ∀ t, Canon t → Canon (f t)) : Canon (s.judgeGal g portOk stateOk f) := by
  unfold State.judgeGal
  grind [State.galResult_canon]
theorem State.create_canon {s : State} (hc : Canon s) (p : Port) (g : Nat) : Canon (s.create p g) := by
  unfold State.create
  grind [State.judgeGal_canon, Canon.queues, State.setGal_canon]
theorem State.openGal_canon {s : State} (hc : Canon s) (p : Port) (g : Nat) : Canon (s.openGal p g) := by
  unfold State.openGal
  grind [State.judgeGal_canon, Canon.queues, State.galResult_canon, State.setGal_canon]
theorem State.quiesce_canon {s : State} (hc : Canon s) (p : Port) (g : Nat) : Canon (s.quiesce p g) := by
  unfold State.quiesce
  grind [State.judgeGal_canon, Canon.queues, State.setGal_canon]
theorem State.startReset_canon {s : State} (hc : Canon s) (g : Nat) (reason : BitVec 8) (job : ResetJob) :
    Canon (s.startReset g reason job) := by
  unfold State.startReset
  grind [Canon.queues, State.setGal_canon, State.abortGal_canon, State.purgeFront_canon, mwf_mmap]
theorem State.galReset_canon {s : State} (hc : Canon s) (p : Port) (g : Nat) (scrub scrubKey : Bool) :
    Canon (s.galReset p g scrub scrubKey) := by
  unfold State.galReset
  grind [State.judgeGal_canon, State.startReset_canon]
theorem State.release_canon {s : State} (hc : Canon s) (p : Port) (g : Nat) (scrub scrubKey : Bool) :
    Canon (s.release p g scrub scrubKey) := by
  unfold State.release
  grind [State.judgeGal_canon, State.startReset_canon]
theorem Gallery.writeReg_queues {x : Gallery} (hx : mwf {} x.queues = true) (r : GalReg) (v : Nat) :
    mwf {} (x.writeReg r v).queues = true := by
  unfold Gallery.writeReg
  grind [Gallery.setQueue_queues]
theorem State.galConfig_canon {s : State} (hc : Canon s) (p : Port) (g : Nat) (r : GalReg) (v : Nat) :
    Canon (s.galConfig p g r v) := by
  unfold State.galConfig
  grind [Canon.queues, State.setGal_canon, Gallery.writeReg_queues, State.galResult_canon]
theorem State.kindleDeadline_canon {s : State} (hc : Canon s) (p : Port) (g v : Nat) : Canon (s.kindleDeadline p g v) := by
  unfold State.kindleDeadline
  grind [Canon.queues, State.galResult_canon, State.setGal_canon]
theorem State.readTimeNow_canon {s : State} (hc : Canon s) (p : Port) (part : TimeRead) : Canon (s.readTimeNow p part) := by
  unfold State.readTimeNow
  grind [State.send_canon, canon_iff]
theorem State.timeSet_canon {s : State} (hc : Canon s) (p : Port) (v : W64) : Canon (s.timeSet p v) := by
  unfold State.timeSet
  grind [State.stepTime_canon, canon_iff]
theorem State.ppsEdge_canon {s : State} (hc : Canon s) : Canon s.ppsEdge := by
  unfold State.ppsEdge
  grind [State.stepTime_canon, canon_iff]
theorem State.holdoverEntry_canon {s : State} (hc : Canon s) : Canon s.holdoverEntry := { hc with }
theorem State.relock_canon {s : State} (hc : Canon s) (err : Int) : Canon (s.relock err) := { hc with }
theorem State.avsStart_canon {s : State} (hc : Canon s) (mv : Nat) : Canon (s.avsStart mv) := by
  unfold State.avsStart
  grind [State.send_canon, canon_iff]
theorem State.avsRequest_canon {s : State} (hc : Canon s) (mv : Nat) : Canon (s.avsRequest mv) := by
  unfold State.avsRequest
  grind [State.avsStart_canon, canon_iff]
theorem State.paceVreq_canon {s : State} (hc : Canon s) (p : Port) (v : Nat) : Canon (s.paceVreq p v) := by
  unfold State.paceVreq
  grind [State.avsRequest_canon, canon_iff]
theorem State.avsPoll_canon {s : State} (hc : Canon s) (vdone : Bool) (mv : Nat) : Canon (s.avsPoll vdone mv) := by
  unfold State.avsPoll
  grind [State.send_canon, State.avsStart_canon, canon_iff]
theorem State.avsFail_canon {s : State} (hc : Canon s) (status : Bool) : Canon (s.avsFail status) := by
  unfold State.avsFail
  grind [State.send_canon, State.countLasting_canon, State.logFault_canon, State.avsStart_canon, canon_iff]
theorem State.setPaceHearth_canon {s : State} (hc : Canon s) (h : Nat) (x : PaceHearth) : Canon (s.setPaceHearth h x) := by
  unfold State.setPaceHearth
  grind [canon_iff, mwf_mset]
theorem State.windowEnd_canon {s : State} (hc : Canon s) (h : Nat) (count : BitVec 16) : Canon (s.windowEnd h count) := by
  unfold State.windowEnd
  grind [State.setPaceHearth_canon]
theorem State.windowEndAll_canon {s : State} (hc : Canon s) (counts : List (BitVec 16)) :
    Canon (s.windowEndAll counts) := by
  unfold State.windowEndAll
  grind [State.windowEnd_canon, canon_foldl]
theorem State.pacePark_canon {s : State} (hc : Canon s) (p : Port) (mask : BitVec 48) : Canon (s.pacePark p mask) := by
  unfold State.pacePark
  grind [canon_iff]
theorem State.hearthWake_canon {s : State} (hc : Canon s) (h : Nat) : Canon (s.hearthWake h) := by
  unfold State.hearthWake
  grind [State.setPaceHearth_canon, canon_iff]
theorem State.withdrawReads_canon {s : State} (hc : Canon s) (p : Port) : Canon (s.withdrawReads p) := { hc with }
theorem State.setPieceStatus_canon {s : State} (hc : Canon s) (id : Nat) (st : PieceStatus) :
    Canon (s.setPieceStatus id st) := { hc with }
theorem State.issueHost_canon {s : State} (hc : Canon s) (x : Piece) : Canon (s.issueHost x) := by
  unfold State.issueHost
  grind [State.send_canon, State.setPieceStatus_canon]
theorem State.releaseHeld_canon {s : State} (hc : Canon s) (p : Port) : Canon (s.releaseHeld p) := by
  unfold State.releaseHeld
  grind [State.issueHost_canon, State.raise_canon, canon_iff, canon_foldl]
theorem State.dllDown_canon {s : State} (hc : Canon s) (p : Port) : Canon (s.dllDown p) := by
  unfold State.dllDown
  grind [Canon.pba, State.setPort_canon, State.breakSlotsOf_canon, State.withdrawPort_canon, State.raisePeer_canon,
    State.withdrawReads_canon]
theorem State.sendPending_canon {s : State} (hc : Canon s) (p : Port) : Canon (s.sendPending p) := by
  unfold State.sendPending
  grind [Canon.pba, State.send_canon, State.setPort_canon, mwf_mset, canon_foldl]
theorem State.dllUpEvent_canon {s : State} (hc : Canon s) (p : Port) (width : BitVec 8) (speed : BitVec 4) :
    Canon (s.dllUpEvent p width speed) := by
  unfold State.dllUpEvent
  grind [State.setPort_canon, Canon.pba, State.raisePeer_canon, State.sendPending_canon, State.releaseHeld_canon]
theorem State.startGrace_canon {s : State} (hc : Canon s) (p : Port) : Canon (s.startGrace p) := by
  unfold State.startGrace
  grind [canon_iff, GalsCanon.mmap]
theorem PortState.cleared_pba (x : PortState) : mwf false x.cleared.pba = true := rfl
theorem State.portReset_canon {s : State} (hc : Canon s) (p : Port) (t : PortTrigger) : Canon (s.portReset p t) := by
  unfold State.portReset
  grind [State.setPort_canon, PortState.cleared_pba, State.breakSlotsOf_canon, State.withdrawPort_canon,
    State.withdrawReads_canon, State.raisePeer_canon, State.startGrace_canon]
theorem State.portResetEnd_canon {s : State} (hc : Canon s) (p : Port) (t : PortTrigger) : Canon (s.portResetEnd p t) := by
  unfold State.portResetEnd
  grind [Canon.pba, State.setPort_canon, State.raisePeer_canon, State.releaseHeld_canon]
theorem State.adoptResult_canon {s : State} (hc : Canon s) (p : Port) (g : Nat) (r : AdoptResult) :
    Canon (s.adoptResult p g r) := by
  unfold State.adoptResult
  grind [State.setPort_canon, Canon.pba]
theorem State.portAdopt_canon {s : State} (hc : Canon s) (p : Port) (g : Nat) : Canon (s.portAdopt p g) := by
  unfold State.portAdopt
  grind [Canon.queues, State.adoptResult_canon, State.releaseHeld_canon, State.setGal_canon]
theorem State.countHostFail_canon {s : State} (hc : Canon s) (p : Port) : Canon (s.countHostFail p) := by
  unfold State.countHostFail
  grind [Canon.pba, State.setPort_canon]
theorem State.cfgApply_canon {s : State} (hc : Canon s) (p : Port) (r : CfgReq) : Canon (s.cfgApply p r) := by
  unfold State.cfgApply
  grind [Canon.pba, State.send_canon, State.setPort_canon, State.sendPending_canon]

end Sys2Proof.Machine

namespace Sys2Proof.Machine

open Sys2Proof.Safety

/-! ### Operations that keep canonical form: Access, Mem, Syn: pieces, accesses and flags -/

theorem State.updAcc_canon {s : State} (hc : Canon s) (id : Nat) (f : Acc → Acc) : Canon (s.updAcc id f) := { hc with }
theorem State.dropAcc_canon {s : State} (hc : Canon s) (id : Nat) : Canon (s.dropAcc id) := { hc with }
theorem State.dropPiece_canon {s : State} (hc : Canon s) (id : Nat) : Canon (s.dropPiece id) := { hc with }
theorem State.newAcc_canon {s : State} (hc : Canon s) (h k pc seq : Nat) (a : Agent) (kind : AccKind) (todo : List Run) :
    Canon (s.newAcc h k pc seq a kind todo) := { hc with }
theorem State.settleRels_canon {s : State} (hc : Canon s) (h k : Nat) : Canon (s.settleRels h k) := by
  unfold State.settleRels
  grind [State.updStoker_canon, stokerCanon_iff]
theorem State.countCabFault_canon {s : State} (hc : Canon s) (h id : Nat) :
    Canon (s.countCabFault h id) := by
  unfold State.countCabFault
  dsimp only
  repeat' split
  all_goals grind [canon_iff, mwf_mset]
theorem State.accFault_canon {s : State} (hc : Canon s) (id : Nat) (code : BitVec 8) : Canon (s.accFault id code) := by
  unfold State.accFault
  grind [State.updAcc_canon, State.countCabFault_canon, State.updHearth_canon, State.faultWo_canon, hearthCanon_iff]
theorem State.pieceFault_canon {s : State} (hc : Canon s) (p : Piece) (code : BitVec 8) : Canon (s.pieceFault p code) := by
  unfold State.pieceFault
  grind [State.accFault_canon, State.faultWo_canon]
theorem State.failCheck_canon {s : State} (hc : Canon s) (p : Piece) (code : BitVec 8) : Canon (s.failCheck p code) :=
  State.pieceFault_canon (State.countProt_canon hc ..) ..
theorem State.addPiece_canon {s : State} (hc : Canon s) (p : Piece) : Canon (s.addPiece p) := { hc with }
theorem State.launch_canon {s : State} (hc : Canon s) (p : Piece) : Canon (s.launch p) := by
  unfold State.launch
  grind [State.addPiece_canon, State.issueHost_canon, State.askLines_canon]
theorem State.sendAcc_canon {s : State} (hc : Canon s) (id : Nat) : Canon (s.sendAcc id) := by
  unfold State.sendAcc
  grind [State.updAcc_canon, State.accFault_canon, State.countProt_canon, State.countAbsent_canon, State.launch_canon]
theorem State.putHob_canon {s : State} (hc : Canon s) (h off : Nat) (bs : List (Byte × Byte)) :
    Canon (s.putHob h off bs) := by
  unfold State.putHob
  grind [State.updHearth_canon, hearthCanon_iff, mwf_putMasked]
theorem State.applyPiece_canon {s : State} (hc : Canon s) (p : Piece) : Canon (s.applyPiece p) := by
  unfold State.applyPiece
  grind [State.putHob_canon, State.putShared_canon, State.putExch_canon]
theorem State.ld_canon {s : State} (hc : Canon s) (h k : Nat) : Canon (s.ld h k) := by
  unfold State.ld
  grind [State.issue_canon, State.newAcc_canon, State.updStoker_canon, Stoker.await_stokerCanon, Issued.Canon]
theorem State.st_canon {s : State} (hc : Canon s) (h k : Nat) : Canon (s.st h k) := by
  unfold State.st
  grind [State.issue_canon, State.newAcc_canon, Issued.Canon]
theorem State.ldarg_canon {s : State} (hc : Canon s) (h k : Nat) : Canon (s.ldarg h k) := by
  unfold State.ldarg
  grind [State.issue_canon, State.newAcc_canon, State.updStoker_canon, Stoker.await_stokerCanon, Stoker.write_stokerCanon,
    Issued.Canon]
theorem State.deliver_canon {s : State} (hc : Canon s) (a : Acc) (d : Dst) (v : Nat) : Canon (s.deliver a d v) := by
  unfold State.deliver
  grind [State.updStoker_canon, Stoker.deliver_stokerCanon]
theorem State.fence_canon {s : State} (hc : Canon s) (h k op : Nat) (writes : Bool) : Canon (s.fence h k op writes) := by
  unfold State.fence
  grind [State.issue_canon, State.parkAs_canon, Issued.Canon]
theorem State.release1_canon (s : State) {t : State} (ht : Canon t) (h k : Nat) : Canon (s.release1 t h k) := by
  unfold State.release1
  grind [State.updStoker_canon, stokerCanon_iff]
theorem State.fenceRel_canon {s : State} (hc : Canon s) (h k : Nat) : Canon (s.fenceRel h k) := by
  unfold State.fenceRel
  grind [State.issue_canon, State.release1_canon, State.parkAs_canon, State.settleRels_canon, Issued.Canon]
theorem State.flagSetOp_canon {s : State} (hc : Canon s) (h k : Nat) : Canon (s.flagSetOp h k) := by
  unfold State.flagSetOp
  grind [State.issue_canon, State.newAcc_canon, State.release1_canon, Issued.Canon]
theorem State.flagAddOp_canon {s : State} (hc : Canon s) (h k : Nat) : Canon (s.flagAddOp h k) := by
  unfold State.flagAddOp
  grind [State.issue_canon, State.updStoker_canon, State.release1_canon, Stoker.await_stokerCanon, State.newAcc_canon,
    stokerCanon_iff, Issued.Canon]
theorem State.flagWaitOp_canon {s : State} (hc : Canon s) (h k : Nat) : Canon (s.flagWaitOp h k) := by
  unfold State.flagWaitOp
  grind [State.issue_canon, State.newAcc_canon, State.parkAs_canon, Issued.Canon]
theorem State.flagSeen_canon {s : State} (hc : Canon s) (h k : Nat) (v : W64) : Canon (s.flagSeen h k v) := by
  unfold State.flagSeen
  grind [State.updStoker_canon, Stoker.write_stokerCanon, stokerCanon_iff]
theorem State.flagReread_canon {s : State} (hc : Canon s) (h k : Nat) :
    Canon (s.flagReread h k) := by
  unfold State.flagReread
  dsimp only
  repeat' split
  all_goals grind [State.faultWo_canon, State.countProt_canon, State.countAbsent_canon, State.flagSeen_canon,
    State.unwait_canon, State.askLine_canon]
theorem State.arrive_canon {s : State} (hc : Canon s) (h k : Nat) : Canon (s.arrive h k) := by
  unfold State.arrive
  grind [State.updStoker_canon, stokerCanon_iff]
theorem State.damperOp_canon {s : State} (hc : Canon s) (h k : Nat) : Canon (s.damperOp h k) := by
  unfold State.damperOp
  grind [State.arrive_canon, State.issue_canon, State.parkAs_canon, Issued.Canon]
theorem State.roundEnd_canon {s : State} (hc : Canon s) (wo : Nat) : Canon (s.roundEnd wo) := by
  unfold State.roundEnd
  grind [State.retired_canon, State.parkAs_canon, State.updWo_canon, canon_foldl]
theorem State.timeRd_canon {s : State} (hc : Canon s) (h k : Nat) : Canon (s.timeRd h k) := by
  unfold State.timeRd
  grind [State.issue_canon, State.updStoker_canon, Stoker.write_stokerCanon, Issued.Canon]
theorem State.paceRd_canon {s : State} (hc : Canon s) (h k : Nat) : Canon (s.paceRd h k) := by
  unfold State.paceRd
  grind [State.issue_canon, State.updStoker_canon, Stoker.write_stokerCanon, Issued.Canon]

end Sys2Proof.Machine

namespace Sys2Proof.Machine

open Sys2Proof.Safety

/-! ### Operations that keep canonical form: Str: streams -/

theorem Stoker.setStream_stokerCanon {x : Stoker} (hx : StokerCanon x) (d : Nat) (v : Option Stream) :
    StokerCanon (x.setStream d v) := by
  unfold Stoker.setStream
  grind [stokerCanon_iff, mwf_mset]
theorem State.setStream_canon {s : State} (hc : Canon s) (h k d : Nat) (v : Option Stream) :
    Canon (s.setStream h k d v) := by
  unfold State.setStream
  grind [State.updStoker_canon, Stoker.setStream_stokerCanon]
theorem State.updStream_canon {s : State} (hc : Canon s) (h k d : Nat) (f : Stream → Stream) :
    Canon (s.updStream h k d f) := State.setStream_canon hc ..
theorem State.hobPut_canon {s : State} (hc : Canon s) (h g hob : Nat) (f : Fmt) (i v : Nat) :
    Canon (s.hobPut h g hob f i v) := State.putHob_canon hc ..
theorem State.deliverElem_canon {s : State} (hc : Canon s) (h k d n v : Nat) : Canon (s.deliverElem h k d n v) := by
  unfold State.deliverElem
  grind [State.setStream_canon, State.hobPut_canon]
theorem State.settleStream_canon {s : State} (hc : Canon s) (h k d : Nat) : Canon (s.settleStream h k d) := by
  unfold State.settleStream
  grind [State.setStream_canon]
theorem State.skipElems_canon (h k d fuel : Nat) {s : State} (hc : Canon s) :
    Canon (State.skipElems h k d fuel s) := by
  induction fuel generalizing s with
  | zero => exact hc
  | succ fuel ih =>
    unfold State.skipElems
    grind [State.updStream_canon, State.updWo_canon, State.deliverElem_canon]
theorem State.sendPiece_canon {s : State} (hc : Canon s) (h k d : Nat) (x : Stream) (o : StrOp) (va len : Nat)
    (wdata : List (Byte × Byte)) (owner : Owner) (next : Nat) : Canon (s.sendPiece h k d x o va len wdata owner next) := by
  unfold State.sendPiece
  grind [State.failCheck_canon, State.updStream_canon, State.countAbsent_canon, State.launch_canon, State.updHearth_canon,
    hearthCanon_iff]
theorem State.freeBytes_canon (n : Nat) {s : State} (hc : Canon s) : Canon (State.freeBytes n s).1 := by
  induction n generalizing s with
  | zero => exact hc
  | succ n ih => exact ih (State.takeFree_canon hc)
theorem State.rewind_canon {s : State} (hc : Canon s) (h k d : Nat) : Canon (s.rewind h k d) := by
  unfold State.rewind
  grind [State.setStream_canon]
theorem State.sendStream_canon {s : State} (hc : Canon s) (h k d : Nat) :
    Canon (s.sendStream h k d) := by
  unfold State.sendStream
  dsimp only
  repeat' split
  all_goals grind [State.rewind_canon, State.skipElems_canon, State.settleStream_canon, State.sendPiece_canon,
    State.updStream_canon, State.freeBytes_canon]
theorem State.streamArrive_canon {s : State} (hc : Canon s) (p : Piece) (bs : List Byte) : Canon (s.streamArrive p bs) := by
  unfold State.streamArrive
  grind [State.deliverElem_canon, State.settleStream_canon, State.updStream_canon, State.setStream_canon,
    State.takeFree_canon, State.hobPut_canon, canon_foldl]
theorem State.strOpen_canon {s : State} (hc : Canon s) (h k op : Nat) : Canon (s.strOpen h k op) := by
  unfold State.strOpen
  grind [State.issue_canon, State.updHearth_canon, State.newAcc_canon, State.parkAs_canon, hearthCanon_iff, Issued.Canon]
theorem Hearth.bind_hearthCanon {x : Hearth} (hx : HearthCanon x) (o : Opening) : HearthCanon (x.bind o) := by
  unfold Hearth.bind
  grind [hearthCanon_stoker, Hearth.setStoker_hearthCanon, Stoker.setStream_stokerCanon, hearthCanon_iff]
theorem State.bindAll_canon {s : State} (hc : Canon s) (h : Nat) : Canon (s.bindAll h) :=
  State.updHearth_canon hc h fun _ hx => hearthCanon_foldl hx (fun _ o hy => Hearth.bind_hearthCanon hy o) _
theorem State.strOpenTags_canon {s : State} (hc : Canon s) (h : Nat) : Canon (s.strOpenTags h) := by
  unfold State.strOpenTags
  grind [State.bindAll_canon, State.updHearth_canon, hearthCanon_iff]
theorem State.openDesc_canon {s : State} (hc : Canon s) (a : Acc) (handle : Nat) (raw : List Byte) :
    Canon (s.openDesc a handle raw) := by
  unfold State.openDesc
  grind [State.faultWo_canon, State.updWo_canon, State.bindAll_canon, State.updHearth_canon, hearthCanon_iff]
theorem State.withStream_canon (s : State) (h k d : Nat) {f : Stream → Issued} (hf : ∀ a, (f a).Canon) :
    (s.withStream h k d f).Canon := by
  unfold State.withStream
  grind [Issued.Canon]
theorem State.strAssign_canon {s : State} (hc : Canon s) (h k op : Nat) (push : Bool) :
    Canon (s.strAssign h k op push) := by
  unfold State.strAssign
  grind [State.issue_canon, State.withStream_canon, State.parkAs_canon, State.updStoker_canon, State.setStream_canon,
    Stoker.write_stokerCanon, stokerCanon_iff, Issued.Canon]
theorem State.strWait_canon {s : State} (hc : Canon s) (h k : Nat) : Canon (s.strWait h k) := by
  unfold State.strWait
  grind [State.issue_canon, State.withStream_canon, State.parkAs_canon, Issued.Canon]
theorem State.strPos_canon {s : State} (hc : Canon s) (h k : Nat) : Canon (s.strPos h k) := by
  unfold State.strPos
  grind [State.issue_canon, State.withStream_canon, State.updStoker_canon, Stoker.write_stokerCanon, Issued.Canon]
theorem State.strClose_canon {s : State} (hc : Canon s) (h k : Nat) : Canon (s.strClose h k) := by
  unfold State.strClose
  grind [State.issue_canon, State.withStream_canon, State.setStream_canon, State.parkAs_canon, Issued.Canon]
theorem Stoker.closeAll_stokerCanon {x : Stoker} (hx : StokerCanon x) : StokerCanon x.closeAll := by
  unfold Stoker.closeAll
  grind [stokerCanon_iff, mwf_mmap]
theorem State.unbindClosed_canon {s : State} (hc : Canon s) (h k : Nat) : Canon (s.unbindClosed h k) := by
  unfold State.unbindClosed
  grind [State.setStream_canon, canon_foldl]
theorem State.haltOp_canon {s : State} (hc : Canon s) (h k : Nat) : Canon (s.haltOp h k) := by
  unfold State.haltOp
  grind [State.issue_canon, State.parkAs_canon, State.unbindClosed_canon, State.updStoker_canon,
    Stoker.closeAll_stokerCanon, Issued.Canon]
theorem State.parkHalted_canon {s : State} (hc : Canon s) (h k d : Nat) : Canon (s.parkHalted h k d) := by
  unfold State.parkHalted
  grind [State.parkAs_canon]
theorem State.streamHalt_canon {s : State} (hc : Canon s) (h k d : Nat)
    {writeRec : State → Nat → Nat → List Byte → Option Bool × State}
    (hw : ∀ t g va bs, Canon t → Canon (writeRec t g va bs).2) : Canon (s.streamHalt h k d writeRec) := by
  unfold State.streamHalt
  grind [Canon.queues, State.faultWo_canon, State.galleryFault_canon, State.setGal_canon, State.updStream_canon,
    State.updHearth_canon, State.parkHalted_canon, State.raiseGal_canon, hearthCanon_iff]
theorem Stoker.resumed_stokerCanon {x : Stoker} (hx : StokerCanon x) : StokerCanon x.resumed := by
  unfold Stoker.resumed
  grind [stokerCanon_iff]

end Sys2Proof.Machine

namespace Sys2Proof.Machine

open Sys2Proof.Safety

/-! ### Operations that keep canonical form: Cab, Grt: calls, claims, tiles and chains -/

theorem State.updCall_canon {s : State} (hc : Canon s) (h id : Nat) (f : Call → Call) : Canon (s.updCall h id f) := by
  unfold State.updCall
  grind [State.updHearth_canon, hearthCanon_iff]
theorem State.dropCall_canon {s : State} (hc : Canon s) (h id : Nat) : Canon (s.dropCall h id) := by
  unfold State.dropCall
  grind [State.updHearth_canon, hearthCanon_iff]
theorem State.acquireAfter_canon (s : State) {t : State} (ht : Canon t) (h k seq : Nat) :
    (s.acquireAfter t h k seq).Canon := by
  unfold State.acquireAfter
  grind [State.parkAs_canon, Issued.Canon]
theorem State.callWait_canon {s : State} (hc : Canon s) (h k cls : Nat) (cab : Bool) : Canon (s.callWait h k cls cab) := by
  unfold State.callWait
  grind [State.issue_canon, State.acquireAfter_canon, State.parkAs_canon, Issued.Canon]
theorem State.postCall_canon (s : State) {t : State} (ht : Canon t) (h k engine : Nat) (block : List Byte)
    (pat : Nat × Nat) : Canon (s.postCall t h k engine block pat) := by
  unfold State.postCall
  grind [State.updHearth_canon, State.updStoker_canon, hearthCanon_iff, stokerCanon_iff]
theorem State.cabCall_canon {s : State} (hc : Canon s) (h k : Nat) : Canon (s.cabCall h k) := by
  unfold State.cabCall
  grind [State.issue_canon, State.postCall_canon, Issued.Canon]
theorem Hearth.claimPositions_hearthCanon {x : Hearth} (hx : HearthCanon x) (k n : Nat) :
    HearthCanon (x.claimPositions k n) := by
  have hs : SlotsCanon (x.claimPositions k n).slots := (hearthCanon_slotsCanon hx).mmap fun i v hv => by
    split
    · rfl
    · exact hv
  have hk : HearthCanon (x.setStoker k { x.stoker k with claim := x.freePositions.take n }) :=
    Hearth.setStoker_hearthCanon hx k { hearthCanon_stoker hx k with }
  exact { hk with
    slots := hs.map, accumulators := hs.each, planned := mwf_mmap _ _ _ hx.planned, latchPlan := mwf_mmap _ _ _ hx.latchPlan }
theorem State.zeroC_canon {s : State} (hc : Canon s) (h k : Nat) : Canon (s.zeroC h k) := by
  unfold State.zeroC
  grind [State.issue_canon, Canon.hearth, State.updStoker_canon, State.updHearth_canon, Hearth.claimPositions_hearthCanon,
    State.setHearth_canon, hearthCanon_iff, stokerCanon_iff, Issued.Canon]
theorem Hearth.zeroSlots_hearthCanon {x : Hearth} (hx : HearthCanon x) (pos lo hi : Nat) :
    HearthCanon (x.zeroSlots pos lo hi) := by
  have hs := slotsCanon_foldl (f := fun m i => mset {} m (8 * pos + lo + i) {}) (hearthCanon_slotsCanon hx)
    (fun m i hm => hm.mset rfl _) (List.range (hi - lo))
  exact { hx with slots := hs.map, accumulators := hs.each }
theorem Hearth.planSlots_hearthCanon {x : Hearth} (hx : HearthCanon x) (pos lo hi : Nat) (kind : SlotKind) :
    HearthCanon (x.planSlots pos lo hi kind) :=
  { hx with planned := mwf_foldl hx.planned (fun m _ hm => mwf_mset _ m _ _ hm) _ }
theorem State.grtZero_canon {s : State} (hc : Canon s) (h k : Nat) : Canon (s.grtZero h k) := by
  unfold State.grtZero
  grind [State.issue_canon, State.updHearth_canon, Hearth.planSlots_hearthCanon, Hearth.zeroSlots_hearthCanon,
    Issued.Canon]
theorem State.claimGrant_canon {s : State} (hc : Canon s) (h : Nat) {grantEmber : State → ClaimWait → Option State}
    (hg : ∀ t c u, Canon t → grantEmber t c = some u → Canon u) : Canon (s.claimGrant h grantEmber) := by
  unfold State.claimGrant
  grind [State.retired_canon, State.advance_canon, State.updHearth_canon, Hearth.claimPositions_hearthCanon,
    hearthCanon_iff]
theorem State.withGrate_canon (s : State) (h k d : Nat) {f : Stream → Issued} (hf : ∀ a, (f a).Canon) :
    (s.withGrate h k d f).Canon := by
  unfold State.withGrate
  grind [State.withStream_canon, Issued.Canon]
theorem State.grtLoadb_canon {s : State} (hc : Canon s) (h k : Nat) : Canon (s.grtLoadb h k) := by
  unfold State.grtLoadb
  grind [State.issue_canon, State.withGrate_canon, State.setStream_canon, State.updHearth_canon, hearthCanon_iff, mwf_mset,
    Issued.Canon]
theorem State.kindleEnter_canon {s : State} (hc : Canon s) (h : Nat) (new : Chain) (g : Group) :
    Canon (s.kindleEnter h new g) := by
  unfold State.kindleEnter
  grind [Canon.hearth, State.setHearth_canon, hearthCanon_iff]
theorem State.mmClaim_canon (s : State) {t : State} (ht : Canon t) (h k w : Nat) (m : MmShape) (p : MmPlan)
    (list : List Nat) : Canon (s.mmClaim t h k w m p list) := by
  unfold State.mmClaim
  grind [State.updStream_canon]
theorem State.settleRestart_canon {s : State} (hc : Canon s) (h k d : Nat) : Canon (s.settleRestart h k d) := by
  unfold State.settleRestart
  grind [State.setStream_canon, canon_iff]
theorem State.mmRun_canon (s : State) {t : State} (ht : Canon t) (h k w : Nat) (m : MmShape) (p : MmPlan)
    (kinds : List (Nat × SlotKind)) (list : List Nat) : Canon (s.mmRun t h k w m p kinds list) := by
  have hplan {t : State} (ht : Canon t) : Canon (t.updHearth h fun z => { z with
      planned := kinds.foldl (fun q c => mset .zero q (8 * p.pos + c.1) c.2) z.planned }) :=
    State.updHearth_canon ht h fun z hz => { hz with planned := mwf_foldl hz.planned (fun q c hq => mwf_mset _ q _ _ hq) _ }
  have ht := hplan (canon_ite (p := p.clamp = true) (State.updWo_canon ht ((s.stoker h k).wo) fun o => { o with clamp := true }) ht)
  have hlatch {z : Hearth} (hz : HearthCanon z) :
      mwf none (if gSB w then mset none z.latchPlan p.pos (some p.b) else z.latchPlan) = true := by
    grind [mwf_mset, HearthCanon.latchPlan]
  have hu : Canon ((s.mmClaim _ h k w m p list).updHearth h fun z => { z with
      nextId := z.nextId + m.nb + 1
      latchPlan := if gSB w then mset none z.latchPlan p.pos (some p.b) else z.latchPlan }) :=
    State.updHearth_canon (State.mmClaim_canon _ ht h k w m p list) h fun z hz => { hz with latchPlan := hlatch hz }
  unfold State.mmRun
  dsimp only
  refine canon_ite ht (canon_ite (canon_ite ?_ ht) ?_)
  · exact State.updHearth_canon ht h fun z hz => hearthCanon_foldl hz (fun y b hy => Hearth.zeroSlots_hearthCanon hy _ _ _) _
  · split
    · exact State.kindleEnter_canon hu _ _ _
    · refine State.settleRestart_canon (State.updHearth_canon hu h fun z hz => ?_) h k _
      exact { hz with }
theorem State.mmB_canon (s : State) (h k w pos : Nat) {f : Tile → Option Stream → Issued} (hf : ∀ a b, (f a b).Canon) :
    (s.mmB h k w pos f).Canon := by
  unfold State.mmB
  grind [State.withGrate_canon, Issued.Canon]
theorem State.mm_canon (s : State) {t : State} (ht : Canon t) (h k w : Nat) (m : MmShape) : (s.mm t h k w m).Canon := by
  have hrun := State.mmRun_canon s ht h k w m
  unfold State.mm
  dsimp only
  split
  case h_1 => trivial
  case h_2 pos hpos =>
    refine State.withGrate_canon s h k _ fun a => State.mmB_canon s h k w pos fun b bs => ?_
    repeat' split
    all_goals simp only [Issued.Canon, hrun]
theorem State.grtMm_canon {s : State} (hc : Canon s) (h k : Nat) : Canon (s.grtMm h k) := by
  unfold State.grtMm
  grind [State.issue_canon, State.mm_canon]
theorem State.grtMmX_canon {s : State} (hc : Canon s) (h k : Nat) : Canon (s.grtMmX h k) := by
  unfold State.grtMmX
  grind [State.issue_canon, State.mm_canon]
theorem State.takeTile_canon {s : State} (hc : Canon s) (x : Stream) (pos : Nat) (trans : Bool) :
    Canon (s.takeTile x pos trans).1 := by
  unfold State.takeTile
  grind [State.takeFree_canon, canon_foldl_fst]
theorem State.consume_canon {s : State} (hc : Canon s) (h k d a n : Nat) : Canon (s.consume h k d a n) :=
  State.settleRestart_canon (State.settleStream_canon (State.updStream_canon hc ..) ..) ..
theorem Hearth.fillLatch_hearthCanon {x : Hearth} (hx : HearthCanon x) (pos : Nat) (t : Tile) (by' : Nat × Nat) :
    HearthCanon (x.fillLatch pos t by') := by
  unfold Hearth.fillLatch
  grind [hearthCanon_iff]
theorem State.fillLoadB_canon {s : State} (hc : Canon s) (h : Nat) (l : LoadB) : Canon (s.fillLoadB h l) := by
  unfold State.fillLoadB
  grind [State.takeTile_canon, State.updHearth_canon, Hearth.fillLatch_hearthCanon, State.consume_canon, hearthCanon_iff]
theorem State.settleLatches_canon {s : State} (hc : Canon s) (h : Nat) : Canon (s.settleLatches h) := by
  unfold State.settleLatches
  grind [State.fillLoadB_canon, canon_foldl]
theorem State.kindlingDeadline_canon {s : State} (hc : Canon s) (h id : Nat) : Canon (s.kindlingDeadline h id) := by
  unfold State.kindlingDeadline
  grind [State.updHearth_canon, hearthCanon_iff]
theorem State.claimRelease_canon {s : State} (hc : Canon s) (h k : Nat) : Canon (s.claimRelease h k) := by
  unfold State.claimRelease
  grind [State.updStoker_canon, stokerCanon_iff]
theorem Hearth.updChain_hearthCanon {x : Hearth} (hx : HearthCanon x) (id : Nat) (f : Chain → Chain) :
    HearthCanon (x.updChain id f) := { hx with }
theorem State.chainStart_canon {s : State} (hc : Canon s) (h id : Nat) : Canon (s.chainStart h id) := by
  unfold State.chainStart
  grind [Canon.hearth, State.setHearth_canon, Hearth.updChain_hearthCanon, State.settleLatches_canon]
theorem State.passTile_canon {s : State} (hc : Canon s) (h : Nat) (c : Chain) : Canon (s.passTile h c) := by
  unfold State.passTile
  grind [State.takeTile_canon, State.updHearth_canon, Hearth.updChain_hearthCanon, State.updStoker_canon,
    State.updWo_canon, State.consume_canon, stokerCanon_iff, canon_foldl]
theorem State.tileBroadcast_canon {s : State} (hc : Canon s) (h id : Nat) (v : Verdict) (f : TileFault) (row : Nat) :
    Canon (s.tileBroadcast h id v f row) := by
  have hn (x : FaultState) : Canon { s with faults := x } := { hc with }
  unfold State.tileBroadcast
  dsimp only
  split
  case h_1 => exact hc
  case h_2 c hcx =>
    split
    case h_1 => exact hc
    case h_2 g hg =>
      refine canon_ite hc ?_
      split
      case h_1 => exact State.passTile_canon hc h c
      case h_2 => grind [State.passTile_canon, State.countCorrected_canon]
      case h_3 => grind [State.passTile_canon, State.transient_canon, State.logTransient_canon]
      case h_4 => grind [State.lastingFault_canon, State.countLasting_canon, State.updHearth_canon,
        Hearth.updChain_hearthCanon, State.fenceGrate_canon, State.faultWo_canon]
theorem Hearth.commitGroup_hearthCanon {x : Hearth} (hx : HearthCanon x) (c : Chain) (first : Nat) (g : Group) :
    HearthCanon (x.commitGroup c first g) := by
  have hs : SlotsCanon (x.commitGroup c first g).slots :=
    slotsCanon_foldl
      (slotsCanon_foldl (hearthCanon_slotsCanon hx)
        (fun m i hm => by
          split
          · exact hm.mset rfl _
          · exact hm) _)
      (fun m r hm => hm.mset (mwf_foldl (hm.each _) (fun v n hv => mwf_mset _ v _ _ hv) _) _) _
  exact { hx with slots := hs.map, accumulators := hs.each }
theorem State.unbindHalted_canon {s : State} (hc : Canon s) (h k : Nat) : Canon (s.unbindHalted h k) := by
  unfold State.unbindHalted
  grind [State.unbindClosed_canon]
theorem State.chainCommit_canon {s : State} (hc : Canon s) (h id : Nat) : Canon (s.chainCommit h id) := by
  unfold State.chainCommit
  dsimp only
  split
  case h_1 => exact hc
  case h_2 c hcx =>
    refine canon_ite hc (State.settleLatches_canon (canon_foldl ?_ (fun t g ht => State.unbindHalted_canon ht h g.stoker) _) h)
    grind [Canon.hearth, Hearth.commitGroup_hearthCanon, Hearth.fillLatch_hearthCanon, State.setHearth_canon,
      State.fenceGrate_canon, hearthCanon_iff, hearthCanon_foldl]
theorem State.handover_canon {s : State} (hc : Canon s) (h k d : Nat) : Canon (s.handover h k d) := by
  unfold State.handover
  grind [State.updHearth_canon, hearthCanon_iff]

end Sys2Proof.Machine

namespace Sys2Proof.Machine

open Sys2Proof.Safety

/-! ### Operations that keep canonical form: Ember, Flu: Ember tables, Ash and flues -/

theorem AshRun.target_canon {r : AshRun} (hc : Canon r.s) (g va : Nat) :
    Canon (r.target g va).1.s := by
  unfold AshRun.target
  repeat' split
  all_goals grind [State.countProt_canon, State.countAbsent_canon]
theorem AshRun.read_canon {r : AshRun} (hc : Canon r.s) (g va : Nat) : Canon (r.read g va).1.s := by
  unfold AshRun.read
  grind [AshRun.target_canon]
theorem AshRun.write_canon {r : AshRun} (hc : Canon r.s) (g va key val : Nat) : Canon (r.write g va key val).s := by
  unfold AshRun.write
  grind [AshRun.target_canon, State.putShared_canon, State.putExch_canon]
theorem AshRun.probe_canon {r : AshRun} (hc : Canon r.s) (g : Nat) (e : Ember) (key i n : Nat) (hole : Option Nat) :
    Canon (r.probe g e key i n hole).1.s := by
  induction n generalizing r i hole with
  | zero => exact hc
  | succ n ih =>
    unfold AshRun.probe
    grind [AshRun.read_canon]
theorem AshRun.insert_canon {r : AshRun} (hc : Canon r.s) (g : Nat) (e : Ember) (key val : Nat) :
    Canon (r.insert g e key val).s := by
  unfold AshRun.insert
  grind [AshRun.probe_canon, AshRun.write_canon]
theorem spillFrom_canon (g b n i : Nat) {r : AshRun} (hc : Canon r.s) (e : Ember) :
    Canon (spillFrom g b n i r e).1.s := by
  induction n generalizing i r e with
  | zero => exact hc
  | succ n ih =>
    unfold spillFrom
    grind [AshRun.insert_canon]
theorem applyPair_canon (g wo : Nat) {r : AshRun} (hc : Canon r.s) (e : Ember) (key val : Nat) :
    Canon (applyPair g wo r e key val).1.s := by
  unfold applyPair
  grind [State.updWo_canon, spillFrom_canon]
theorem applyPairs_canon (g wo : Nat) (ps : List (Nat × Nat)) {r : AshRun} (hc : Canon r.s) (e : Ember) :
    Canon (applyPairs g wo ps r e).1.s := by
  induction ps generalizing r e with
  | nil => exact hc
  | cons p ps ih => exact ih (applyPair_canon g wo hc e p.1 p.2) _
theorem State.askAsh_canon {s : State} (hc : Canon s) (g l : Nat) : Canon (s.askAsh g l) :=
  State.unwait_canon (State.askLine_canon hc ..) ..
theorem State.finishEmber_canon {s t : State} (hc : Canon s) (a : Acc) (dst : Option Dst) (va m : Nat)
    (ht : s.finishEmber a dst va m = some t) : Canon t := by
  unfold State.finishEmber at ht
  grind [applyPairs_canon, State.updStoker_canon, State.faultWo_canon, State.deliver_canon, stokerCanon_iff]
theorem State.sprEmb_canon {s : State} (hc : Canon s) (h k : Nat) : Canon (s.sprEmb h k) := by
  unfold State.sprEmb
  grind [State.issue_canon, State.updStoker_canon, Stoker.write_stokerCanon, State.newAcc_canon, Stoker.await_stokerCanon,
    Issued.Canon]
theorem State.sprMerge_canon {s : State} (hc : Canon s) (h k : Nat) : Canon (s.sprMerge h k) := by
  unfold State.sprMerge
  grind [State.issue_canon, State.newAcc_canon, Issued.Canon]
theorem State.claimEmber_canon {s : State} (hc : Canon s) (h k pc seq n base cap : Nat) :
    Canon (s.claimEmber h k pc seq n base cap) := by
  unfold State.claimEmber
  grind [State.updStoker_canon, State.newAcc_canon, stokerCanon_iff]
theorem State.sprEmbC_canon {s : State} (hc : Canon s) (h k : Nat) : Canon (s.sprEmbC h k) := by
  unfold State.sprEmbC
  grind [State.issue_canon, Canon.hearth, State.updStoker_canon, State.claimEmber_canon, State.setHearth_canon,
    hearthCanon_iff, stokerCanon_iff, Issued.Canon]
theorem State.grantEmber_canon {s t : State} (hc : Canon s) (h : Nat) (c : ClaimWait) (ht : s.grantEmber h c = some t) :
    Canon t := by
  unfold State.grantEmber at ht
  grind [State.claimEmber_canon]
theorem State.sprDroprd_canon {s : State} (hc : Canon s) (h k : Nat) : Canon (s.sprDroprd h k) := by
  unfold State.sprDroprd
  grind [State.issue_canon, State.updStoker_canon, Stoker.write_stokerCanon, Issued.Canon]
theorem State.fluSt_canon {s : State} (hc : Canon s) (h k op : Nat) : Canon (s.fluSt h k op) := by
  unfold State.fluSt
  grind [State.issue_canon, State.updHearth_canon, Hearth.planSlots_hearthCanon, State.newAcc_canon, hearthCanon_iff,
    Issued.Canon]
theorem State.dropFlu_canon {s : State} (hc : Canon s) (h id : Nat) : Canon (s.dropFlu h id) := by
  unfold State.dropFlu
  grind [State.updHearth_canon, hearthCanon_iff]
theorem State.fluDescRead_canon {s : State} (hc : Canon s) (a : Acc) (op : Nat) (raw : List Byte) :
    Canon (s.fluDescRead a op raw) := by
  unfold State.fluDescRead
  grind [State.dropFlu_canon, State.faultWo_canon, State.updWo_canon, State.updHearth_canon, hearthCanon_iff]
theorem State.flueDrain_canon {s : State} (hc : Canon s) (h id : Nat) (check : Option (CheckUnit × Verdict)) :
    Canon (s.flueDrain h id check) := by
  unfold State.flueDrain
  grind [State.judge_canon, State.dropFlu_canon, State.updWo_canon, State.updHearth_canon, Hearth.zeroSlots_hearthCanon,
    State.newAcc_canon, State.unbindHalted_canon]
theorem AshRun.scan_canon (g : Nat) (e : Ember) (n i : Nat) {r : AshRun} (hc : Canon r.s) (acc : List (Nat × Nat × Nat)) :
    Canon (AshRun.scan g e n i r acc).1.s := by
  induction n generalizing i r acc with
  | zero => exact hc
  | succ n ih =>
    unfold AshRun.scan
    grind [AshRun.read_canon]
theorem State.fluSte_canon {s : State} (hc : Canon s) (h k : Nat) :
    Canon (s.fluSte h k) := by
  unfold State.fluSte
  grind [State.issue_canon, State.askAsh_canon, AshRun.write_canon, State.updStoker_canon, Stoker.write_stokerCanon,
    State.newAcc_canon, stokerCanon_iff, Issued.Canon, canon_foldl_ash]

end Sys2Proof.Machine

namespace Sys2Proof.Machine

open Sys2Proof.Safety

/-! ### Operations that keep canonical form: KeeperFam to Queue: the Keeper, the Ledger, the catalogue, doorbells and queues -/

theorem State.keeperTake_canon {s : State} (hc : Canon s) (p : Port) (n : Nat) (token : BitVec 16) (lease : Nat) :
    Canon (s.keeperTake p n token lease) := by
  unfold State.keeperTake
  grind [State.setSlot_canon]
theorem State.keeperGive_canon {s : State} (hc : Canon s) (p : Port) (n : Nat) (token : BitVec 16) :
    Canon (s.keeperGive p n token) := by
  unfold State.keeperGive
  grind [State.setSlot_canon]
theorem State.whenReadyOrRecovery_canon {s : State} (hc : Canon s) {f : State → State} (hf : ∀ t, Canon t → Canon (f t)) :
    Canon (s.whenReadyOrRecovery f) := by
  unfold State.whenReadyOrRecovery
  grind [State.reached_canon, State.earlyWrite_canon]
theorem State.ledgResult_canon {s : State} (hc : Canon s) (r : LedgResult) : Canon (s.ledgResult r) := { hc with }
theorem State.ledgCfg_canon {s : State} (hc : Canon s) (p : Port) (v : Nat) : Canon (s.ledgCfg p v) := by
  unfold State.ledgCfg
  grind [State.ledgResult_canon, canon_iff]
theorem State.m2sRequest_canon {s : State} (hc : Canon s) (p : Port) (r : M2SReq) (v : Verdict) :
    Canon (s.m2sRequest p r v) := by
  unfold State.m2sRequest
  dsimp only
  repeat' split
  all_goals grind [State.send_canon, State.tryHost_canon, State.pumpLines_canon, canon_iff]
theorem State.bar4Access_canon {s : State} (hc : Canon s) (p : Port) (write : Bool) (off : Nat) (data : List Byte)
    (be : List Bool) (vs : List Verdict) : Canon (s.bar4Access p write off data be vs) := by
  unfold State.bar4Access
  dsimp only
  repeat' split
  all_goals grind [State.send_canon, State.tryHost_canon, State.pumpLines_canon]
theorem State.biRsp_canon {s : State} (hc : Canon s) (p : Port) (l : Nat) (st : BiState) : Canon (s.biRsp p l st) := by
  unfold State.biRsp
  grind [State.resolveSnoop_canon, State.setLine_canon, canon_iff]
theorem State.crossSnoop_canon {s : State} (hc : Canon s) (p : Port) (l : Nat) : Canon (s.crossSnoop p l) := by
  unfold State.crossSnoop
  grind [State.setLine_canon, State.resolveSnoop_canon, canon_iff]
theorem State.cleanEvict_canon {s : State} (hc : Canon s) (p : Port) (l : Nat) : Canon (s.cleanEvict p l) :=
  State.crossSnoop_canon (State.setLine_canon hc ..) ..
theorem State.dirtyWriteBack_canon {s : State} (hc : Canon s) (p : Port) (l : Nat) (data : List Byte) :
    Canon (s.dirtyWriteBack p l data) := by
  unfold State.dirtyWriteBack
  grind [State.send_canon, State.putExch_canon, State.crossSnoop_canon, State.setLine_canon]
theorem State.snoopExpire_canon {s : State} (hc : Canon s) (l : Nat) (p : Port) : Canon (s.snoopExpire l p) := by
  unfold State.snoopExpire
  grind [State.setLine_canon, State.logFault_canon, State.raiseBoth_canon, State.resolveSnoop_canon, canon_iff]
theorem State.setCat_canon {s : State} (hc : Canon s) (g : Nat) (c : Catalogue) : Canon (s.setCat g c) := by
  unfold State.setCat
  grind [State.setGal_canon, Canon.queues]
theorem State.catResult_canon {s : State} (hc : Canon s) (g : Nat) (r : CatResult) : Canon (s.catResult g r) :=
  State.setCat_canon hc ..
theorem State.catHome_canon {s : State} (hc : Canon s) (p : Port) (g : Nat) {f : State → State}
    (hf : ∀ t, Canon t → Canon (f t)) : Canon (s.catHome p g f) := by
  unfold State.catHome
  grind [State.catResult_canon]
theorem State.catJudge_canon {s : State} (hc : Canon s) (p : Port) (g : Nat) {f : State → State}
    (hf : ∀ t, Canon t → Canon (f t)) : Canon (s.catJudge p g f) := by
  unfold State.catJudge
  grind [State.catHome_canon, State.catResult_canon]
theorem State.catCmd_canon {s : State} (hc : Canon s) (p : Port) (g : Nat) (seg : BitVec 8) {f : State → State}
    (hf : ∀ t, Canon t → Canon (f t)) : Canon (s.catCmd p g seg f) := by
  unfold State.catCmd
  grind [State.catJudge_canon, State.setCat_canon]
theorem State.drain_canon {s : State} (hc : Canon s) (g : Nat) (ids : List Nat) : Canon (s.drain g ids) :=
  State.setCat_canon hc ..
theorem State.catWrite_canon {s : State} (hc : Canon s) (g seg : Nat) : Canon (s.catWrite g seg) := by
  unfold State.catWrite
  grind [State.catResult_canon, State.drain_canon, State.setCat_canon, canon_iff]
theorem State.onValid_canon {s : State} (hc : Canon s) (g seg : Nat) {f : State → Segment → State}
    (hf : ∀ t b, Canon t → Canon (f t b)) : Canon (s.onValid g seg f) := by
  unfold State.onValid
  grind [State.catResult_canon]
theorem State.invalidate_canon {s : State} (hc : Canon s) (g seg : Nat) : Canon (s.invalidate g seg) := by
  unfold State.invalidate
  grind [State.onValid_canon, State.drain_canon, State.setCat_canon]
theorem State.catRead_canon {s : State} (hc : Canon s) (g seg : Nat) : Canon (s.catRead g seg) := State.setCat_canon hc ..
theorem State.presFill_canon {s : State} (hc : Canon s) (g seg : Nat) : Canon (s.presFill g seg) := by
  unfold State.presFill
  grind [State.onValid_canon, State.catResult_canon, canon_iff]
theorem State.presEmpty_canon {s : State} (hc : Canon s) (g seg : Nat) : Canon (s.presEmpty g seg) := by
  unfold State.presEmpty
  grind [State.onValid_canon, State.drain_canon, canon_iff]
theorem State.presSet_canon {s : State} (hc : Canon s) (g v : Nat) : Canon (s.presSet g v) := by
  unfold State.presSet
  grind [State.catResult_canon, canon_iff]
theorem State.presClr_canon {s : State} (hc : Canon s) (g v : Nat) : Canon (s.presClr g v) := by
  unfold State.presClr
  grind [State.catResult_canon, State.drain_canon, canon_iff]
theorem State.catPool_canon {s : State} (hc : Canon s) (p : Port) (g v : Nat) : Canon (s.catPool p g v) := by
  unfold State.catPool
  grind [State.catResult_canon, State.setCat_canon]
theorem State.drainDone_canon {s : State} (hc : Canon s) (g : Nat) : Canon (s.drainDone g) := by
  unfold State.drainDone
  grind [State.setCat_canon]
theorem State.catEntry_canon {s : State} (hc : Canon s) (p : Port) (g k : Nat) (v : W64) : Canon (s.catEntry p g k v) := by
  unfold State.catEntry
  grind [State.catJudge_canon, State.setCat_canon]
theorem State.catPresSel_canon {s : State} (hc : Canon s) (p : Port) (g v : Nat) : Canon (s.catPresSel p g v) := by
  unfold State.catPresSel
  grind [State.catHome_canon, State.setCat_canon]
theorem State.dropBad_canon {s : State} (hc : Canon s) (g : Nat) : Canon (s.dropBad g) := by
  unfold State.dropBad
  grind [Canon.queues, State.setGal_canon]
theorem State.dropWrongPort_canon {s : State} (hc : Canon s) (g : Nat) : Canon (s.dropWrongPort g) := by
  unfold State.dropWrongPort
  grind [Canon.queues, State.setGal_canon]
theorem State.dropNotOpen_canon {s : State} (hc : Canon s) (g : Nat) : Canon (s.dropNotOpen g) := by
  unfold State.dropNotOpen
  grind [Canon.queues, State.setGal_canon]
theorem State.dropStale_canon {s : State} (hc : Canon s) (g : Nat) : Canon (s.dropStale g) := by
  unfold State.dropStale
  grind [Canon.queues, State.setGal_canon]
theorem State.earlyDoorbell_canon {s : State} (hc : Canon s) : Canon s.earlyDoorbell := { hc with }
theorem State.doorbell_canon {s : State} (hc : Canon s) (p : Port) (g : Nat) (accepts : GalSt → Bool) {f : State → State}
    (hf : ∀ t, Canon t → Canon (f t)) : Canon (s.doorbell p g accepts f) := by
  unfold State.doorbell
  grind [State.earlyDoorbell_canon, State.dropWrongPort_canon, State.dropNotOpen_canon]
theorem State.whenEnabled_canon {s : State} (hc : Canon s) (g q : Nat) {f : State → State}
    (hf : ∀ t, Canon t → Canon (f t)) : Canon (s.whenEnabled g q f) := by
  unfold State.whenEnabled
  grind [State.dropBad_canon]
theorem State.sqTail_canon {s : State} (hc : Canon s) (g q : Nat) (t : BitVec 16) : Canon (s.sqTail g q t) := by
  unfold State.sqTail
  grind [State.setQueue_canon, State.dropBad_canon]
theorem State.push_canon {s : State} (hc : Canon s) (g q : Nat) (data : List Byte) : Canon (s.push g q data) := by
  unfold State.push
  grind [State.setQueue_canon, State.dropBad_canon]
theorem State.cqHead_canon {s : State} (hc : Canon s) (g q : Nat) (h : BitVec 16) : Canon (s.cqHead g q h) := by
  unfold State.cqHead
  grind [State.setQueue_canon, State.dropBad_canon]
theorem State.faultqHead_canon {s : State} (hc : Canon s) (g : Nat) (h : BitVec 16) : Canon (s.faultqHead g h) := by
  unfold State.faultqHead
  grind [Canon.queues, State.setGal_canon, State.dropBad_canon]
theorem State.dbAbort_canon {s : State} (hc : Canon s) (g q : Nat) (t : BitVec 16) : Canon (s.dbAbort g q t) := by
  unfold State.dbAbort
  grind [State.abortWo_canon, State.setQueue_canon]
theorem Hearth.setProg_hearthCanon {x : Hearth} (hx : HearthCanon x) (j : Nat) (p : Prog) :
    HearthCanon (x.setProg j p) := { hx with }
theorem Hearth.markPlace_hearthCanon {x : Hearth} (hx : HearthCanon x) (w : WorkOrder) : HearthCanon (x.markPlace w) := { hx with }
theorem State.stageShared_canon {s : State} (hc : Canon s) (g q off : Nat) : Canon (s.stageShared g q off) := by
  unfold State.stageShared
  grind [State.galleryFault_canon, State.setQueue_canon]
theorem State.entryStage_canon {s : State} (hc : Canon s) (g q : Nat) (ans : HostAnswer) (v : Verdict) :
    Canon (s.entryStage g q ans v) := by
  unfold State.entryStage
  grind [State.setQueue_canon, State.galleryFault_canon, State.countProt_canon, State.countAbsent_canon,
    State.countHostFail_canon, State.stageShared_canon, State.judgeLine_canon, State.askLines_canon, State.pumpLines_canon]
theorem State.fetch_canon {s : State} (hc : Canon s) (g q : Nat) (e : List Byte) : Canon (s.fetch g q e) := by
  unfold State.fetch
  grind [Canon.queues, State.setGal_canon, Gallery.setQueue_queues, State.commit_canon, State.setHearth_canon,
    Hearth.markPlace_hearthCanon, Canon.hearth, canon_iff, canon_foldl]
theorem State.entryFetch_canon {s : State} (hc : Canon s) : Canon s.entryFetch := by
  unfold State.entryFetch
  grind [State.fetch_canon]
theorem State.qfenceRetire_canon {s : State} (hc : Canon s) (id : Nat) : Canon (s.qfenceRetire id) := by
  unfold State.qfenceRetire
  grind [State.commit_canon]
theorem State.writeRecord_canon {s : State} (hc : Canon s) (g slot va : Nat) (bs : List Byte) :
    (s.writeRecord g slot va bs).Canon := by
  unfold State.writeRecord
  grind [State.countProt_canon, State.countAbsent_canon, State.send_canon, State.putShared_canon, State.askLines_canon,
    State.pumpLines_canon, State.putExch_canon, Wrote.Canon]

end Sys2Proof.Machine

namespace Sys2Proof.Machine

open Sys2Proof.Safety

/-! ### Operations that keep canonical form: Fenline, FenRing, FenRecv: the Fenline -/

theorem State.updFen_canon {s : State} (hc : Canon s) {f : FenState → FenState} (hf : ∀ x, FenCanon x → FenCanon (f x)) :
    Canon (s.updFen f) :=
  have hx := hf s.fen ⟨hc.fenPorts, hc.fenGals⟩
  { hc with fenPorts := hx.ports, fenGals := hx.gals }
theorem State.setFenPort_canon {s : State} (hc : Canon s) (p : Nat) (x : FenPort) : Canon (s.setFenPort p x) := by
  unfold State.setFenPort
  grind [State.updFen_canon, mwf_mset, fenCanon_iff]
theorem State.updFenPort_canon {s : State} (hc : Canon s) (p : Nat) (f : FenPort → FenPort) : Canon (s.updFenPort p f) :=
  State.setFenPort_canon hc ..
theorem State.updFenGal_canon {s : State} (hc : Canon s) (g : Nat) (f : FenGal → FenGal) : Canon (s.updFenGal g f) := by
  unfold State.updFenGal
  grind [State.updFen_canon, mwf_mset, fenCanon_iff]
theorem State.updTx_canon {s : State} (hc : Canon s) (g i : Nat) (f : FenTx → FenTx) : Canon (s.updTx g i f) := by
  unfold State.updTx
  grind [State.updFen_canon, fenCanon_iff]
theorem State.transmit_canon {s : State} (hc : Canon s) (p : Nat) (f : FlitOut) : Canon (s.transmit p f) :=
  State.setFenPort_canon (State.send_canon hc ..) ..
theorem State.pumpPort_canon {s : State} (hc : Canon s) (p : Nat) : Canon (s.pumpPort p) := by
  unfold State.pumpPort
  grind [State.transmit_canon, State.updFenPort_canon, canon_foldl_fst]
theorem State.sendFlit_canon {s : State} (hc : Canon s) (p : Nat) (f : FlitOut) : Canon (s.sendFlit p f) :=
  State.pumpPort_canon (State.updFenPort_canon hc ..) ..
theorem State.sendTo_canon {s : State} (hc : Canon s) (d tag g index : Nat) (body : FlitBody) :
    Canon (s.sendTo d tag g index body) := by
  unfold State.sendTo
  grind [State.sendFlit_canon]
theorem State.recheckColls_canon {s : State} (hc : Canon s) : Canon s.recheckColls := by
  unfold State.recheckColls
  grind [State.updFen_canon, fenCanon_iff]
theorem State.leavePort_canon {s : State} (hc : Canon s) (p : Nat) : Canon (s.leavePort p) := by
  unfold State.leavePort
  grind [State.recheckColls_canon, State.updFen_canon, fenCanon_iff]
theorem State.recordEpoch_canon {s : State} (hc : Canon s) (d : Nat) (e : W32) : Canon (s.recordEpoch d e) := by
  unfold State.recordEpoch
  grind [State.updFen_canon, fenCanon_iff]
theorem State.skewCheck_canon {s : State} (hc : Canon s) : Canon s.skewCheck := by
  unfold State.skewCheck
  grind [canon_iff]
theorem State.judgePort_canon {s : State} (hc : Canon s) (p : Nat) : Canon (s.judgePort p) := by
  unfold State.judgePort
  grind [State.updFenPort_canon, State.leavePort_canon, State.recheckColls_canon, State.skewCheck_canon]
theorem State.sendBringup_canon {s : State} (hc : Canon s) (p : Nat) : Canon (s.sendBringup p) :=
  State.sendFlit_canon hc ..
theorem State.bringup_canon {s : State} (hc : Canon s) (p : Nat) (b : Bringup) : Canon (s.bringup p b) := by
  unfold State.bringup
  grind [State.updFenPort_canon, State.recordEpoch_canon, State.judgePort_canon]
theorem State.portTo_canon {s : State} (hc : Canon s) (p : Nat) (st : FenSt) : Canon (s.portTo p st) := by
  unfold State.portTo
  grind [State.updFenPort_canon, State.leavePort_canon, State.recheckColls_canon]
theorem State.failPort_canon {s : State} (hc : Canon s) (p : Nat) : Canon (s.failPort p) :=
  State.logFault_canon (State.countLasting_canon (State.portTo_canon hc ..) ..) ..
theorem State.linkFields_canon {s : State} (hc : Canon s) (p : Nat) (h : FlitHdr) : Canon (s.linkFields p h) := by
  unfold State.linkFields
  grind [State.setFenPort_canon, State.send_canon, State.pumpPort_canon, canon_foldl]
theorem State.xoffCheck_canon {s : State} (hc : Canon s) (p : Nat) : Canon (s.xoffCheck p) := by
  unfold State.xoffCheck
  grind [State.send_canon, State.setFenPort_canon]
theorem State.dropStale'_canon {s : State} (hc : Canon s) : Canon s.dropStale' := by
  unfold State.dropStale'
  grind [State.updFen_canon, fenCanon_iff]
theorem State.forward_canon {s : State} (hc : Canon s) (h : FlitHdr) (body : FlitBody) : Canon (s.forward h body) := by
  unfold State.forward
  grind [State.updFen_canon, State.sendFlit_canon, fenCanon_iff]
theorem State.timesync_canon {s : State} (hc : Canon s) (p : Nat) (t : TimeSync) : Canon (s.timesync p t) := by
  unfold State.timesync
  grind [State.setFenPort_canon, State.skewCheck_canon, canon_iff]
theorem State.announced_canon {s : State} (hc : Canon s) (e : W32) (unit : W64) (d : Nat) :
    Canon (s.announced e unit d) := by
  unfold State.announced
  grind [State.recordEpoch_canon, State.dropStale'_canon]
theorem State.fenResult_canon {s : State} (hc : Canon s) (p : Nat) (r : FenResult) : Canon (s.fenResult p r) :=
  State.updFenPort_canon hc ..
theorem State.fenCfgEpoch_canon {s : State} (hc : Canon s) (p : Port) (pod : BitVec 16) : Canon (s.fenCfgEpoch p pod) := by
  have hr := State.fenResult_canon hc 0
  unfold State.fenCfgEpoch
  dsimp only
  refine canon_ite (hr _) (canon_ite (hr _) (canon_foldl ?_ (fun t q ht => ?_) _))
  · exact State.updFen_canon (hr _) fun _ hx => { hx with }
  · exact canon_ite (State.judgePort_canon (State.sendBringup_canon ht q) q) ht
theorem State.fenGalWrite_canon {s : State} (hc : Canon s) (p : Port) (g v : Nat) : Canon (s.fenGalWrite p g v) := by
  unfold State.fenGalWrite
  grind [State.fenResult_canon, State.updFenGal_canon]
theorem State.fenReset_canon {s : State} (hc : Canon s) (p : Nat) : Canon (s.fenReset p) :=
  State.skewCheck_canon (State.updFenPort_canon (State.portTo_canon hc ..) ..) ..
theorem State.fenCtrl_canon {s : State} (hc : Canon s) (p : Port) (q : Nat) {f : State → State}
    (hf : ∀ t, Canon t → Canon (f t)) : Canon (s.fenCtrl p q f) := by
  unfold State.fenCtrl
  grind [State.fenResult_canon]
theorem State.fenDisable_canon {s : State} (hc : Canon s) (q : Nat) (on : Bool) : Canon (s.fenDisable q on) := by
  unfold State.fenDisable
  grind [State.portTo_canon, State.updFenPort_canon]
theorem State.fenRoute_canon {s : State} (hc : Canon s) (p : Port) (d v : Nat) : Canon (s.fenRoute p d v) := by
  unfold State.fenRoute
  grind [State.fenResult_canon, State.recheckColls_canon, State.updFen_canon, fenCanon_iff]
theorem State.askFen_canon {s : State} (hc : Canon s) (a : Agent) (l : Nat) : Canon (s.askFen a l) :=
  State.unwait_canon (State.askLine_canon hc ..) ..
theorem State.fenGet_canon {s : State} (hc : Canon s) (g : Nat) (r : Run) : Canon (s.fenGet g r).1 := by
  unfold State.fenGet
  grind [State.countProt_canon, State.countAbsent_canon, State.pumpLines_canon]
theorem State.fenPut_canon {s : State} (hc : Canon s) (g : Nat) (r : Run) : Canon (s.fenPut g r).1 := by
  unfold State.fenPut
  grind [State.countProt_canon, State.countAbsent_canon, State.putShared_canon, State.pumpLines_canon, State.putExch_canon]
theorem State.fenReads_canon {s : State} (hc : Canon s) (g : Nat) (rs : List Run) : Canon (s.fenReads g rs).1 := by
  unfold State.fenReads
  grind [State.fenGet_canon, canon_foldl_fst]
theorem State.fenWrites_canon {s : State} (hc : Canon s) (g : Nat) (rs : List Run) : Canon (s.fenWrites g rs).1 := by
  unfold State.fenWrites
  grind [State.fenPut_canon, canon_foldl_fst]
theorem State.ringFault_canon {s : State} (hc : Canon s) (g : Nat) (code : BitVec 8) : Canon (s.ringFault g code) :=
  State.logFault_canon (State.updFenGal_canon hc ..) ..
theorem State.endTx_canon {s : State} (hc : Canon s) (g i code : Nat) (kind : BitVec 8) :
    Canon (s.endTx g i code kind) := State.updTx_canon hc ..
theorem State.startPut_canon {s : State} (hc : Canon s) (t : FenTx) (l r : Desc) : Canon (s.startPut t l r) := by
  unfold State.startPut
  grind [State.fenReads_canon, State.updTx_canon, State.sendTo_canon, canon_foldl]
theorem State.startGet_canon {s : State} (hc : Canon s) (t : FenTx) (r : Desc) : Canon (s.startGet t r) := by
  unfold State.startGet
  grind [State.updTx_canon, State.sendTo_canon, canon_foldl]
theorem State.pumpSignals_canon {s : State} (hc : Canon s) (g : Nat) : Canon (s.pumpSignals g) := by
  unfold State.pumpSignals
  grind [State.endTx_canon, State.sendTo_canon, State.updTx_canon, canon_foldl]
theorem State.addPart_canon {s : State} (hc : Canon s) (g : Nat) (id : W32) (d : Nat) (ps : CollParams) (first : Nat)
    (elems : List Nat) (last : Bool) : Canon (s.addPart g id d ps first elems last) := by
  unfold State.addPart
  grind [State.updFen_canon, fenCanon_iff]
theorem State.collStep_canon {s : State} (hc : Canon s) (t : FenTx) : Canon (s.collStep t) := by
  unfold State.collStep
  grind [State.endTx_canon, State.askFen_canon, State.fenWrites_canon, State.updTx_canon]
theorem State.collSteps_canon {s : State} (hc : Canon s) : Canon s.collSteps := by
  unfold State.collSteps
  grind [State.collStep_canon, canon_foldl]
theorem State.startColl_canon {s : State} (hc : Canon s) (t : FenTx) (l r : Desc) (shard : List Byte) :
    Canon (s.startColl t l r shard) := by
  unfold State.startColl
  grind [State.fenReads_canon, State.endTx_canon, State.updTx_canon, State.addPart_canon, State.sendTo_canon,
    State.collSteps_canon, canon_foldl]
theorem State.startTx_canon {s : State} (hc : Canon s) (t : FenTx) :
    Canon (s.startTx t) := by
  unfold State.startTx
  dsimp only
  repeat' split
  all_goals grind [State.endTx_canon, State.pumpSignals_canon, State.fenReads_canon, State.startColl_canon,
    State.updTx_canon, State.startPut_canon, State.startGet_canon]
theorem State.ringTake_canon {s : State} (hc : Canon s) (g : Nat) : Canon (s.ringTake g) := by
  unfold State.ringTake
  grind [State.askFen_canon, State.fenGet_canon, State.ringFault_canon, State.updFenGal_canon, State.startTx_canon,
    State.updFen_canon, fenCanon_iff]
theorem State.fenClosed_canon {s : State} (hc : Canon s) (g : Nat) : Canon (s.fenClosed g) := by
  unfold State.fenClosed
  grind [State.endTx_canon, State.sendTo_canon, canon_foldl]
theorem State.fenFaultWo_canon {s : State} (hc : Canon s) (t : FenTx) (code : Nat) : Canon (s.fenFaultWo t code) := by
  unfold State.fenFaultWo
  grind [State.endWo_canon]
theorem State.ringComplete_canon {s : State} (hc : Canon s) (g i : Nat) : Canon (s.ringComplete g i) := by
  unfold State.ringComplete
  dsimp only
  repeat' split
  all_goals grind [State.fenClosed_canon, State.askFen_canon, State.fenFaultWo_canon, State.fenPut_canon,
    State.ringFault_canon, State.fenGet_canon, State.pumpSignals_canon, State.updFen_canon, fenCanon_iff]
theorem State.setBad_canon {s : State} (hc : Canon s) (h : FlitHdr) (v : Bool) : Canon (s.setBad h v) := by
  unfold State.setBad
  grind [State.updFen_canon, fenCanon_iff]
theorem State.answer_canon {s : State} (hc : Canon s) (h : FlitHdr) (index : Nat) (body : FlitBody) :
    Canon (s.answer h index body) := State.sendTo_canon hc ..
theorem State.begun_canon {s : State} (hc : Canon s) (h : FlitHdr) : Canon (s.begun h) := by
  unfold State.begun
  grind [State.setBad_canon]
theorem State.takePut_canon {s : State} (hc : Canon s) (h : FlitHdr) (va : Nat) (data : List (Byte × Byte)) (last : Bool) :
    Canon (s.takePut h va data last).1 := by
  unfold State.takePut
  grind [State.begun_canon, State.setBad_canon, State.answer_canon, State.askFen_canon, State.fenWrites_canon]
theorem State.takeGet_canon {s : State} (hc : Canon s) (h : FlitHdr) (va len : Nat) : Canon (s.takeGet h va len).1 := by
  unfold State.takeGet
  grind [State.begun_canon, State.answer_canon, State.setBad_canon, State.askFen_canon, State.fenReads_canon]
theorem State.takeSignal_canon {s : State} (hc : Canon s) (h : FlitHdr) (va : Nat) (addend : W64) :
    Canon (s.takeSignal h va addend).1 := by
  unfold State.takeSignal
  dsimp only
  repeat' split
  all_goals grind [State.answer_canon, State.countProt_canon, State.countAbsent_canon, State.askFen_canon,
    State.pumpLines_canon, canon_iff, mwf_putBytes]
theorem State.getStep_canon {s : State} (hc : Canon s) (t : FenTx) : Canon (s.getStep t).1 := by
  unfold State.getStep
  grind [State.askFen_canon, State.fenWrites_canon, State.updTx_canon, State.endTx_canon]
theorem State.takeData_canon {s : State} (hc : Canon s) (h : FlitHdr) (data : List Byte) : Canon (s.takeData h data).1 := by
  unfold State.takeData
  grind [State.getStep_canon, State.updTx_canon]
theorem State.takeAck_canon {s : State} (hc : Canon s) (h : FlitHdr) (a : FenAck) : Canon (s.takeAck h a).1 := by
  unfold State.takeAck
  grind [State.getStep_canon, State.updTx_canon, State.endTx_canon]
theorem State.takeColl_canon {s : State} (hc : Canon s) (h : FlitHdr) (id : W32) (ps : CollParams) (first : Nat)
    (elems : List Nat) (last : Bool) : Canon (s.takeColl h id ps first elems last) := by
  unfold State.takeColl
  grind [State.answer_canon, State.collSteps_canon, State.addPart_canon]
theorem State.takeLeave_canon {s : State} (hc : Canon s) (h : FlitHdr) (id : W32) : Canon (s.takeLeave h id) := by
  unfold State.takeLeave
  grind [State.collSteps_canon, State.updFen_canon, fenCanon_iff]
theorem State.handleFlit_canon {s : State} (hc : Canon s) (h : FlitHdr) (body : FlitBody) : Canon (s.handleFlit h body).1 := by
  cases body <;> unfold State.handleFlit <;> dsimp only
  all_goals grind [State.announced_canon, State.dropStale'_canon, State.takePut_canon, State.takeGet_canon,
    State.takeData_canon, State.takeAck_canon, State.takeSignal_canon, State.takeColl_canon, State.takeLeave_canon]
theorem State.drainPort_canon (p n : Nat) {s : State} (hc : Canon s) : Canon (State.drainPort p n s) := by
  induction n generalizing s with
  | zero => exact hc
  | succ n ih =>
    unfold State.drainPort
    grind [State.handleFlit_canon, State.updFenPort_canon]
theorem State.drainInbox_canon {s : State} (hc : Canon s) (p : Nat) : Canon (s.drainInbox p) := by
  unfold State.drainInbox
  grind [State.xoffCheck_canon, State.drainPort_canon]
theorem State.credited_canon {s : State} (hc : Canon s) (p : Nat) (h : FlitHdr) (body : FlitBody) :
    Canon (s.credited p h body) := by
  unfold State.credited
  grind [State.send_canon, State.forward_canon, State.drainInbox_canon, State.xoffCheck_canon, State.updFenPort_canon]
theorem State.receive_canon {s : State} (hc : Canon s) (p : Nat) (h : FlitHdr) (body : FlitBody) :
    Canon (s.receive p h body) := by
  unfold State.receive
  grind [State.setFenPort_canon, State.failPort_canon, State.send_canon, State.updFenPort_canon, State.linkFields_canon,
    State.bringup_canon, State.timesync_canon, State.credited_canon]

end Sys2Proof.Machine

namespace Sys2Proof.Machine

open Sys2Proof.Safety

/-! ### Operations that keep canonical form: Accession, Flash, Folio: the boot flash and the bays -/

theorem State.updAcc'_canon {s : State} (hc : Canon s) (f : AccState → AccState) : Canon (s.updAcc' f) := { hc with }
theorem State.bookAppend_canon {s : State} (hc : Canon s) (r : List Byte) : Canon (s.bookAppend r) := by
  unfold State.bookAppend
  grind [canon_iff]
theorem State.bookNext_canon {s : State} (hc : Canon s) : Canon s.bookNext := by
  unfold State.bookNext
  grind [State.bookAppend_canon, canon_iff]
theorem State.bookAll_canon {s : State} (hc : Canon s) : Canon s.bookAll := by
  unfold State.bookAll
  grind [State.bookNext_canon, canon_foldl]
theorem State.startFlash_canon {s : State} (hc : Canon s) : Canon s.startFlash := by
  unfold State.startFlash
  grind [State.updAcc'_canon]
theorem State.needKey_canon {s : State} (hc : Canon s) (g : Nat) : Canon (s.needKey g).1 := by
  unfold State.needKey
  grind [State.startFlash_canon, State.updAcc'_canon]
theorem State.rekey_canon {s : State} (hc : Canon s) (g : Nat) : Canon (s.rekey g) :=
  State.startFlash_canon (State.updAcc'_canon hc ..) ..
theorem State.sealDone_canon {s : State} (hc : Canon s) : Canon s.sealDone := by
  unfold State.sealDone
  grind [State.bookAll_canon, State.logFault_canon, canon_iff]
theorem State.sealStep_canon {s : State} (hc : Canon s) : Canon s.sealStep := by
  unfold State.sealStep
  grind [State.updAcc'_canon, State.sealDone_canon, canon_iff]
theorem State.endAcc_canon {s : State} (hc : Canon s) (r : AccResult) : Canon (s.endAcc r) := State.updAcc'_canon hc ..
theorem State.stagedImage_canon {s : State} (hc : Canon s) : Canon s.stagedImage.1 := by
  unfold State.stagedImage
  grind [State.askLines_canon, State.pumpLines_canon]
theorem State.installFails_canon {s : State} (hc : Canon s) (target : SlotId) (r : AccResult) :
    Canon (s.installFails target r) := State.endAcc_canon (State.updAcc'_canon hc ..) ..
theorem State.installStep_canon {s : State} (hc : Canon s) (target : SlotId) (stage : InstallStage) (hash : List Byte)
    (image : Option Image) (programmed : List Byte) (ok sigOk : Bool) :
    Canon (s.installStep target stage hash image programmed ok sigOk) := by
  unfold State.installStep
  grind [State.endAcc_canon, State.stagedImage_canon, State.updAcc'_canon, State.installFails_canon]
theorem State.bootControlEnd_canon {s : State} (hc : Canon s) : Canon s.bootControlEnd := by
  unfold State.bootControlEnd
  grind [State.endAcc_canon, State.updAcc'_canon, canon_iff]
theorem State.judgeAcc_canon {s : State} (hc : Canon s) (p : Port) (allowed : Bool) {f : State → State}
    (hf : ∀ t, Canon t → Canon (f t)) : Canon (s.judgeAcc p allowed f) := by
  unfold State.judgeAcc
  grind [State.updAcc'_canon]
theorem State.startAcc_canon {s : State} (hc : Canon s) (c : AccCmd) : Canon (s.startAcc c) :=
  State.startFlash_canon (State.updAcc'_canon hc ..) ..
theorem State.install_canon {s : State} (hc : Canon s) (p : Port) : Canon (s.install p) := by
  unfold State.install
  grind [State.judgeAcc_canon, State.startAcc_canon]
theorem State.activate_canon {s : State} (hc : Canon s) (p : Port) (i : SlotId) : Canon (s.activate p i) := by
  unfold State.activate
  grind [State.judgeAcc_canon, State.startAcc_canon]
theorem State.confirm_canon {s : State} (hc : Canon s) (p : Port) : Canon (s.confirm p) := by
  unfold State.confirm
  grind [State.judgeAcc_canon, State.startAcc_canon]
theorem State.updBay_canon {s : State} (hc : Canon s) (b : Nat) (f : Bay → Bay) : Canon (s.updBay b f) :=
  State.setBay_canon hc ..
theorem State.sendRequest_canon {s : State} (hc : Canon s) (b : Nat) (p : Piece) : Canon (s.sendRequest b p) := by
  unfold State.sendRequest
  grind [State.updBay_canon, State.needKey_canon, State.send_canon, canon_iff]
theorem State.sendMg_canon {s : State} (hc : Canon s) (b : Nat) (job : MgJob) (op : MgOp) (arg : Nat)
    (payload : List Byte) : Canon (s.sendMg b job op arg payload) := State.send_canon (State.updBay_canon hc ..) ..
theorem State.bayDrained_canon {s : State} (hc : Canon s) (b : Nat) : Canon (s.bayDrained b) := by
  unfold State.bayDrained
  grind [State.sendMg_canon, State.updBay_canon]
theorem State.pumpBay_canon {s : State} (hc : Canon s) (b : Nat) : Canon (s.pumpBay b) := by
  unfold State.pumpBay
  grind [State.bayDrained_canon, State.sendRequest_canon, canon_foldl]
theorem State.pumpBays_canon {s : State} (hc : Canon s) : Canon s.pumpBays := by
  unfold State.pumpBays
  grind [State.pumpBay_canon, canon_foldl]
theorem State.withFrame_canon {s : State} (hc : Canon s) (b : Nat) (h : FrameHdr) {f : State → State}
    (hf : ∀ t, Canon t → Canon (f t)) : Canon (s.withFrame b h f) := by
  unfold State.withFrame
  grind [State.send_canon, State.updBay_canon]
theorem State.startEnum_canon {s : State} (hc : Canon s) (b : Nat) : Canon (s.startEnum b) := State.updBay_canon hc ..
theorem State.nextEnum_canon {s : State} (hc : Canon s) : Canon s.nextEnum := by
  unfold State.nextEnum
  grind [State.startEnum_canon]
theorem State.powerBay_canon {s : State} (hc : Canon s) (b : Nat) : Canon (s.powerBay b) :=
  State.send_canon (State.updBay_canon hc ..) ..
theorem State.folResult_canon {s : State} (hc : Canon s) (b : Nat) (r : FolResult) : Canon (s.folResult b r) :=
  State.updBay_canon hc ..
theorem State.endFol_canon {s : State} (hc : Canon s) (b : Nat) (r : FolResult) : Canon (s.endFol b r) :=
  State.updBay_canon hc ..
theorem State.writeSeal_canon {s : State} (hc : Canon s) (b : Nat) (job : MgJob) : Canon (s.writeSeal b job) :=
  State.send_canon (State.updBay_canon hc ..) ..
theorem State.beginFol_canon {s : State} (hc : Canon s) (b : Nat) (c : FolCmd) : Canon (s.beginFol b c) := by
  unfold State.beginFol
  grind [State.updBay_canon, State.writeSeal_canon, State.bayDrained_canon, State.sendMg_canon, State.needKey_canon,
    State.send_canon, canon_foldl]
theorem State.folCommand_canon {s : State} (hc : Canon s) (p : Port) (b : Nat) (c : FolCmd) (targetOk : Bool) :
    Canon (s.folCommand p b c targetOk) := by
  unfold State.folCommand
  grind [State.folResult_canon, State.updBay_canon, State.beginFol_canon]
theorem State.baySupplyOff_canon {s : State} (hc : Canon s) (b : Nat) : Canon (s.baySupplyOff b) := by
  unfold State.baySupplyOff
  grind [State.updBay_canon, State.send_canon, State.endFol_canon]
theorem State.chalNonce_canon {s : State} (hc : Canon s) (b : Nat) (n : List Byte) : Canon (s.chalNonce b n) := by
  unfold State.chalNonce
  grind [State.updBay_canon, State.sendMg_canon]
theorem State.folReset_canon {s : State} (hc : Canon s) (p : Port) (b : Nat) : Canon (s.folReset p b) := by
  unfold State.folReset
  grind [State.folResult_canon, State.bayDrained_canon, State.updBay_canon]
theorem State.holdBays_canon {s : State} (hc : Canon s) : Canon s.holdBays := by
  unfold State.holdBays
  grind [State.updBay_canon, State.sendMg_canon, canon_foldl]

end Sys2Proof.Machine

namespace Sys2Proof.Machine

open Sys2Proof.Safety

/-! ### Operations that keep canonical form: EngineRun to FolioIo: engines, the Stove and what ends a piece -/

theorem State.callAcc_canon {s : State} (hc : Canon s) (c : Call) (a : Agent) (kind : AccKind) (todo : List Run) :
    Canon (s.callAcc c a kind todo) := { hc with }
theorem State.failCall_canon {s : State} (hc : Canon s) (c : Call) (code : BitVec 8) : Canon (s.failCall c code) :=
  State.faultWo_canon (State.updCall_canon (State.countCabFault_canon hc ..) ..) ..
theorem State.startCall_canon {s : State} (hc : Canon s) (c : Call) : Canon (s.startCall c) := by
  unfold State.startCall
  grind [State.updCall_canon, State.failCall_canon, State.callAcc_canon]
theorem State.engineCallStart_canon {s : State} (hc : Canon s) (q e : Nat) : Canon (s.engineCallStart q e) := by
  unfold State.engineCallStart
  grind [State.setCabinet_canon, State.startCall_canon]
theorem State.callWrites_canon {s : State} (hc : Canon s) (c : Call)
    (result : (Nat → Nat) → (List Run → Bool) → EngineOut) : Canon (s.callWrites c result) := by
  unfold State.callWrites
  grind [State.updWo_canon, State.updCall_canon, State.callAcc_canon, canon_iff]
theorem State.callNext_canon (c : Call) (fuel : Nat) {s : State} (hc : Canon s) : Canon (State.callNext c fuel s) := by
  induction fuel generalizing c s with
  | zero => exact hc
  | succ fuel ih =>
    unfold State.callNext
    grind [State.callWrites_canon, State.updCall_canon, State.callAcc_canon]
theorem State.callDescs_canon {s : State} (hc : Canon s) (c : Call) (ds : List Desc) : Canon (s.callDescs c ds) := by
  unfold State.callDescs
  grind [State.updCall_canon, State.callNext_canon, State.failCall_canon]
theorem State.moverVerify_canon {s : State} (hc : Canon s) (c : Call) (buf : Sparse Byte) :
    Canon (s.moverVerify c buf) := by
  unfold State.moverVerify
  grind [State.updCall_canon, State.logFault_canon, State.failCall_canon, State.callAcc_canon]
theorem State.callWritten_canon {s : State} (hc : Canon s) (c : Call) : Canon (s.callWritten c) := by
  unfold State.callWritten
  grind [State.updCall_canon, State.callAcc_canon]
theorem State.freeEngine_canon {s : State} (hc : Canon s) (q e : Nat) : Canon (s.freeEngine q e) :=
  State.setCabinet_canon hc ..
theorem State.routeGone_canon {s : State} (hc : Canon s) (e : Nat) : Canon (s.routeGone e) := by
  unfold State.routeGone
  grind [State.dropCall_canon, State.failCall_canon, canon_foldl]
theorem State.engineCallComplete_canon {s : State} (hc : Canon s) (q e : Nat) (ok : Bool) :
    Canon (s.engineCallComplete q e ok) := by
  unfold State.engineCallComplete
  grind [State.freeEngine_canon, State.dropCall_canon, State.logTransient_canon, State.countTransient_canon,
    State.setCabinet_canon, State.startCall_canon, State.updCall_canon, State.fenceEngine_canon, State.countLasting_canon,
    State.routeGone_canon, State.failCall_canon]
theorem State.updStove_canon {s : State} (hc : Canon s) (h : Nat) (f : Stove → Stove) : Canon (s.updStove h f) := by
  unfold State.updStove
  grind [State.updHearth_canon, hearthCanon_iff]
theorem State.stvLoad_canon {s : State} (hc : Canon s) (h k : Nat) : Canon (s.stvLoad h k) := by
  unfold State.stvLoad
  grind [State.issue_canon, State.updStove_canon, Issued.Canon]
theorem State.stvRun_canon {s : State} (hc : Canon s) (h k : Nat) : Canon (s.stvRun h k) := by
  unfold State.stvRun
  grind [State.issue_canon, State.updStove_canon, State.postCall_canon, Issued.Canon]
theorem State.popStove_canon {s : State} (hc : Canon s) (h : Nat) : Canon (s.popStove h) := State.updStove_canon hc ..
theorem State.startLoad_canon {s : State} (hc : Canon s) (h : Nat) (l : StoveLoad) : Canon (s.startLoad h l) := by
  unfold State.startLoad
  grind [State.updStove_canon, canon_iff]
theorem State.orderLoaded_canon {s : State} (hc : Canon s) (l : StoveLoad) : Canon (s.orderLoaded l) := by
  unfold State.orderLoaded
  grind [State.updWo_canon]
theorem State.endLoad_canon {s : State} (hc : Canon s) (h : Nat) (l : StoveLoad) (image : Option (List Byte)) :
    Canon (s.endLoad h l image) := by
  unfold State.endLoad
  grind [State.updStove_canon, State.orderLoaded_canon, State.parkAs_canon]
theorem State.checkLoad_canon {s : State} (hc : Canon s) (h : Nat) (l : StoveLoad) (id : Nat) :
    Canon (s.checkLoad h l id) := by
  unfold State.checkLoad
  grind [State.dropAcc_canon, State.endLoad_canon, State.faultWo_canon]
theorem State.refuseStoveCall_canon {s : State} (hc : Canon s) (c : Call) (code : BitVec 8) :
    Canon (s.refuseStoveCall c code) := State.dropCall_canon (State.failCall_canon (State.popStove_canon hc ..) ..) ..
theorem State.patternLoad_canon {s : State} (hc : Canon s) (h : Nat) : Canon (s.patternLoad h) := by
  unfold State.patternLoad
  grind [State.checkLoad_canon, State.popStove_canon, State.startLoad_canon, State.refuseStoveCall_canon]
theorem State.stoveCallStart_canon {s : State} (hc : Canon s) (h : Nat) : Canon (s.stoveCallStart h) := by
  unfold State.stoveCallStart
  grind [State.popStove_canon, State.refuseStoveCall_canon, State.startCall_canon]
theorem State.stoveDescs_canon {s : State} (hc : Canon s) (c : Call) (ds : List Desc) : Canon (s.stoveDescs c ds) := by
  unfold State.stoveDescs
  grind [State.failCall_canon, State.updCall_canon, State.callWrites_canon, State.callAcc_canon]
theorem State.stoveRead_canon {s : State} (hc : Canon s) (c : Call) : Canon (s.stoveRead c) := by
  unfold State.stoveRead
  grind [State.failCall_canon, State.callWrites_canon]
theorem State.stoveGone_canon {s : State} (hc : Canon s) (h : Nat) : Canon (s.stoveGone h) := by
  unfold State.stoveGone
  grind [State.updStove_canon, State.faultWo_canon, State.dropCall_canon, State.failCall_canon, canon_foldl]
theorem State.stoveCallComplete_canon {s : State} (hc : Canon s) (h : Nat) (ok : Bool) :
    Canon (s.stoveCallComplete h ok) := by
  unfold State.stoveCallComplete
  grind [State.popStove_canon, State.dropCall_canon, State.logTransient_canon, State.countTransient_canon,
    State.startCall_canon, State.updCall_canon, State.fenceStove_canon, State.countLasting_canon, State.stoveGone_canon,
    State.failCall_canon]
theorem State.callDescsCome_canon {s : State} (hc : Canon s) (a : Acc) (c : Call) : Canon (s.callDescsCome a c) := by
  unfold State.callDescsCome
  grind [State.failCall_canon, State.stoveDescs_canon, State.callDescs_canon]
theorem State.callPassCome_canon {s : State} (hc : Canon s) (a : Acc) (c : Call) : Canon (s.callPassCome a c) := by
  unfold State.callPassCome
  grind [State.moverVerify_canon, State.updCall_canon, State.stoveRead_canon, State.callNext_canon]
theorem State.callAccEnds_canon {s : State} (hc : Canon s) (a : Acc) (id : Nat) {f : State → Call → State}
    (hf : ∀ t b, Canon t → Canon (f t b)) : Canon (s.callAccEnds a id f) := by
  unfold State.callAccEnds
  grind [State.updCall_canon]
theorem State.emberCome_canon {s : State} (hc : Canon s) (a : Acc) (dst : Option Dst) (va m : Nat) :
    Canon (s.emberCome a dst va m) := by
  unfold State.emberCome
  grind [State.finishEmber_canon, State.dropAcc_canon, State.askAsh_canon]
theorem State.finishAcc_canon {s : State} (hc : Canon s) (id : Nat) : Canon (s.finishAcc id) := by
  unfold State.finishAcc
  grind [State.dropAcc_canon, State.deliver_canon, State.updStoker_canon, State.flagSeen_canon, State.openDesc_canon,
    State.fluDescRead_canon, State.emberCome_canon, State.callAccEnds_canon, State.callDescsCome_canon,
    State.callPassCome_canon, State.callWritten_canon, stokerCanon_iff]
theorem State.placeBytes_canon {s : State} (hc : Canon s) (p : Piece) (bs : List Byte) : Canon (s.placeBytes p bs) := by
  unfold State.placeBytes
  grind [State.updHearth_canon, State.updWo_canon, hearthCanon_iff, mwf_putBytes, canon_foldl]
theorem State.accData_canon {s : State} (hc : Canon s) (p : Piece) (id : Nat) (bs : List Byte) :
    Canon (s.accData p id bs) := by
  unfold State.accData
  grind [State.placeBytes_canon, State.updAcc_canon]
theorem State.settlePiece_canon {s : State} (hc : Canon s) (p : Piece) : Canon (s.settlePiece p) := by
  unfold State.settlePiece
  grind [State.finishAcc_canon, State.unbindHalted_canon, State.settleRestart_canon, State.settleLatches_canon,
    State.settleStream_canon, State.settleRels_canon]
theorem State.pieceEnd_canon {s : State} (hc : Canon s) (p : Piece) (bs : List Byte) : Canon (s.pieceEnd p bs) := by
  unfold State.pieceEnd
  grind [State.dropPiece_canon, State.accData_canon, State.streamArrive_canon, State.settlePiece_canon]
theorem State.pieceFails_canon {s : State} (hc : Canon s) (p : Piece) (code : BitVec 8) : Canon (s.pieceFails p code) :=
  State.settlePiece_canon (State.pieceFault_canon (State.dropPiece_canon hc ..) ..) ..
theorem State.checkOff_canon {s : State} (hc : Canon s) (u : CheckUnit) (p : Piece) : Canon (s.checkOff u p).1 := by
  unfold State.checkOff
  grind [State.takeFree_canon]
theorem State.addPiece'_canon {s : State} (hc : Canon s) (p : Piece) (old : List Byte) : Canon (s.addPiece' p old) := by
  unfold State.addPiece'
  grind [State.applyPiece_canon]
theorem State.hostMerge_canon {s : State} (hc : Canon s) (p : Piece) (old : List Byte) : Canon (s.hostMerge p old) := by
  unfold State.hostMerge
  grind [Canon.pba, State.issueHost_canon, canon_iff]
theorem State.hostWritten_canon {s : State} (hc : Canon s) (p : Piece) : Canon (s.hostWritten p) := by
  unfold State.hostWritten
  grind [State.releaseHeld_canon]
theorem State.pieceAtPlace_canon {s : State} (hc : Canon s) (p : Piece) (ret : List Byte) :
    Canon (s.pieceAtPlace p ret) := by
  unfold State.pieceAtPlace
  grind [State.pieceEnd_canon, State.addPiece'_canon, State.pieceFails_canon, State.hostMerge_canon,
    State.hostWritten_canon, State.applyPiece_canon]
theorem State.pieceChecked_canon {s : State} (hc : Canon s) (p : Piece) (ret : PieceReturn) :
    Canon (s.pieceChecked p ret) := by
  unfold State.pieceChecked
  grind [State.pieceAtPlace_canon, State.judge_canon, State.checkOff_canon, State.pieceFails_canon,
    State.settlePiece_canon, State.dropPiece_canon]
theorem State.pieceComplete_canon {s : State} (hc : Canon s) (id : Nat) (ret : PieceReturn) :
    Canon (s.pieceComplete id ret) := by
  unfold State.pieceComplete
  grind [State.askLines_canon, State.pumpLines_canon, State.pieceChecked_canon]
theorem State.hostTimeout_canon {s : State} (hc : Canon s) (id : Nat) : Canon (s.hostTimeout id) := by
  unfold State.hostTimeout
  grind [State.pieceFails_canon, State.countHostFail_canon]
theorem State.writeFault_canon {s : State} (hc : Canon s) (g va : Nat) (bs : List Byte) :
    Canon (s.writeFault g va bs).2 := by
  unfold State.writeFault
  grind [State.writeRecord_canon, Wrote.Canon]
theorem State.streamHalts_canon {s : State} (hc : Canon s) (h k d : Nat) : Canon (s.streamHalts h k d) := by
  unfold State.streamHalts
  grind [State.streamHalt_canon, State.writeFault_canon, State.handover_canon]
theorem State.dbResume_canon {s : State} (hc : Canon s) (g : Nat) (seq : W32) : Canon (s.dbResume g seq) := by
  unfold State.dbResume
  grind [State.dropStale_canon, State.updStoker_canon, State.updStream_canon, Stoker.resumed_stokerCanon]
theorem State.updPiece_canon {s : State} (hc : Canon s) (id : Nat) (f : Piece → Piece) : Canon (s.updPiece id f) := { hc with }
theorem State.sectorCome_canon {s : State} (hc : Canon s) (b : Nat) (p : Piece) (cipher : List Byte) :
    Canon (s.sectorCome b p cipher) := by
  unfold State.sectorCome
  grind [State.needKey_canon, State.updBay_canon, State.updPiece_canon, State.pieceEnd_canon]
theorem State.wearCheck_canon {s : State} (hc : Canon s) (b : Nat) : Canon (s.wearCheck b) := by
  unfold State.wearCheck
  grind [State.updBay_canon, State.logFault_canon]
theorem State.sectorWritten_canon {s : State} (hc : Canon s) (b : Nat) (p : Piece) : Canon (s.sectorWritten b p) :=
  State.pieceEnd_canon (State.wearCheck_canon (State.updBay_canon hc ..) ..) ..
theorem State.requestFails_canon {s : State} (hc : Canon s) (b : Nat) (p : Piece) : Canon (s.requestFails b p) := by
  unfold State.requestFails
  grind [State.updPiece_canon, State.updBay_canon, State.pieceFails_canon, State.logFault_canon, State.countLasting_canon]
theorem State.onRequest_canon {s : State} (hc : Canon s) (b : Nat) (h : FrameHdr) (tag : Nat) {f : State → Piece → State}
    (hf : ∀ t b, Canon t → Canon (f t b)) : Canon (s.onRequest b h tag f) := by
  unfold State.onRequest
  grind [State.pumpBays_canon, State.withFrame_canon]
theorem State.sendJob_canon {s : State} (hc : Canon s) (b : Nat) (job : MgJob) : Canon (s.sendJob b job) := by
  unfold State.sendJob
  grind [State.sendMg_canon, State.updAcc'_canon, State.writeSeal_canon, State.send_canon, State.updBay_canon]
theorem State.rejudge_canon {s : State} (hc : Canon s) (b : Nat) : Canon (s.rejudge b) := by
  unfold State.rejudge
  grind [State.pieceFails_canon, canon_foldl]
theorem State.endEnum_canon {s : State} (hc : Canon s) (b : Nat) (st : BaySt) (r : FolReason) :
    Canon (s.endEnum b st r) := State.nextEnum_canon (State.rejudge_canon (State.updBay_canon hc ..) ..) ..
theorem State.sealFound_canon {s : State} (hc : Canon s) (b : Nat) (x : Seal) : Canon (s.sealFound b x) := by
  unfold State.sealFound
  grind [State.updBay_canon, State.endEnum_canon]
theorem State.sealed'_canon {s : State} (hc : Canon s) (b : Nat) : Canon (s.sealed' b) :=
  State.endFol_canon (State.updBay_canon hc ..) ..
theorem State.acceptRecord_canon {s : State} (hc : Canon s) (b : Nat) (r : XferRecord) : Canon (s.acceptRecord b r) := by
  unfold State.acceptRecord
  grind [State.endFol_canon, State.startFlash_canon, State.updAcc'_canon]
theorem State.mgDone_canon {s : State} (hc : Canon s) (b : Nat) (job : MgJob) (r : MgReply) : Canon (s.mgDone b job r) := by
  unfold State.mgDone
  grind [State.updBay_canon, State.sendJob_canon, State.endEnum_canon, State.sealFound_canon, State.endFol_canon,
    State.sealed'_canon, State.acceptRecord_canon]
theorem State.mgRsp_canon {s : State} (hc : Canon s) (b : Nat) (op : MgOp) (r : MgReply) : Canon (s.mgRsp b op r) := by
  unfold State.mgRsp
  grind [State.mgDone_canon, State.updBay_canon]
theorem State.bayTimeout_canon {s : State} (hc : Canon s) (b : Nat) (tag : Option Nat) :
    Canon (s.bayTimeout b tag) := by
  unfold State.bayTimeout
  repeat' split
  all_goals grind [State.requestFails_canon, State.sendJob_canon, State.updBay_canon]
theorem State.bayGone_canon {s : State} (hc : Canon s) (b : Nat) : Canon (s.bayGone b) := by
  unfold State.bayGone
  grind [State.updBay_canon, State.endFol_canon, State.updAcc'_canon, State.pieceFails_canon, State.logFault_canon,
    State.nextEnum_canon, canon_foldl]
theorem State.presenceLost_canon {s : State} (hc : Canon s) (b : Nat) : Canon (s.presenceLost b) := by
  unfold State.presenceLost
  grind [State.updBay_canon, State.send_canon, State.bayGone_canon]
theorem State.vaultDone_canon {s : State} (hc : Canon s) : Canon s.vaultDone := by
  unfold State.vaultDone
  grind [State.updAcc'_canon, State.sendJob_canon, canon_foldl]
theorem State.flashEnd_canon {s : State} (hc : Canon s) (op : FlashOp) (ok sigOk : Bool) :
    Canon (s.flashEnd op ok sigOk) := by
  unfold State.flashEnd
  repeat' split
  all_goals grind [State.bookAppend_canon, State.updAcc'_canon, State.sealStep_canon, State.vaultDone_canon,
    State.bootControlEnd_canon, State.installStep_canon]

end Sys2Proof.Machine

namespace Sys2Proof.Machine

open Sys2Proof.Safety

/-! ### Operations that keep canonical form: RunFam to Boot: dispatch, completion, resets and boot -/

theorem freshStoker_stokerCanon (w : WorkOrder) : StokerCanon (freshStoker w) := ⟨rfl, rfl, rfl⟩
theorem Hearth.startRun_hearthCanon {x : Hearth} (hx : HearthCanon x) (w : WorkOrder) : HearthCanon (x.startRun w) := by
  unfold Hearth.startRun
  grind [Hearth.setStoker_hearthCanon, freshStoker_stokerCanon, stokerCanon_iff]
theorem State.runDispatch_canon {s : State} (hc : Canon s) (id : Nat) : Canon (s.runDispatch id) := by
  unfold State.runDispatch
  grind [State.updHearth_canon, Hearth.startRun_hearthCanon, State.updWo_canon, canon_foldl]
theorem Hearth.startLoad_hearthCanon {x : Hearth} (hx : HearthCanon x) (w : WorkOrder) : HearthCanon (x.startLoad w) := by
  unfold Hearth.startLoad
  grind [Hearth.setStoker_hearthCanon, freshStoker_stokerCanon, hearthCanon_iff, stokerCanon_iff]
theorem State.stoveLoadDispatch_canon {s : State} (hc : Canon s) (id : Nat) : Canon (s.stoveLoadDispatch id) := by
  unfold State.stoveLoadDispatch
  grind [State.faultWo_canon, State.updHearth_canon, Hearth.startLoad_hearthCanon, State.updWo_canon, canon_foldl]
theorem State.sweepProgs_canon {s : State} (hc : Canon s) (g h : Nat) : Canon (s.sweepProgs g h) := by
  unfold State.sweepProgs
  grind [State.updHearth_canon, hearthCanon_iff]
theorem State.placeDispatch_canon {s : State} (hc : Canon s) (id : Nat) :
    Canon (s.placeDispatch id) := by
  unfold State.placeDispatch
  dsimp only
  repeat' split
  all_goals grind [State.sweepProgs_canon, State.updWo_canon, canon_iff, canon_foldl]
theorem Hearth.recordProg_hearthCanon {x : Hearth} (hx : HearthCanon x) (w : WorkOrder) (replaced : Bool) :
    HearthCanon (x.recordProg w replaced) := by
  unfold Hearth.recordProg
  grind [Hearth.setProg_hearthCanon, hearthCanon_iff]
theorem State.retire_canon {s : State} (hc : Canon s) (id : Nat) : Canon (s.retire id) := by
  unfold State.retire
  grind [State.commit_canon, State.updHearth_canon, Hearth.recordProg_hearthCanon, canon_foldl]
theorem State.dropWo_canon {s : State} (hc : Canon s) (w : WorkOrder) : Canon (s.dropWo w) := by
  unfold State.dropWo
  grind [State.updHearth_canon, State.sweepProgs_canon, canon_iff, hearthCanon_iff, canon_foldl]
theorem State.recordEnds_canon {s : State} (hc : Canon s) (w : WorkOrder) (d : Decision) : Canon (s.recordEnds w d) := by
  unfold State.recordEnds
  grind [State.setQueue_canon, State.dropWo_canon, State.raiseGal_canon]
theorem State.completionRecord_canon {s : State} (hc : Canon s) (id : Nat) :
    Canon (s.completionRecord id) := by
  unfold State.completionRecord
  grind [State.dropWo_canon, State.writeRecord_canon, State.recordEnds_canon, State.galleryFault_canon, Wrote.Canon]
theorem State.stokerFree_canon {s : State} (hc : Canon s) (h k : Nat) :
    Canon (s.stokerFree h k) := by
  unfold State.stokerFree
  grind [State.updHearth_canon, Hearth.setStoker_hearthCanon, hearthCanon_iff, stokerCanon_default]
theorem State.wakeUp_canon {s : State} (hc : Canon s) (h k : Nat) : Canon (s.wakeUp h k) :=
  State.parkAs_canon (State.retired_canon hc ..) ..
theorem State.wakeCall_canon {s : State} (hc : Canon s) (h k : Nat) : Canon (s.wakeCall h k) := by
  unfold State.wakeCall
  grind [State.wakeUp_canon, State.parkAs_canon]
theorem State.stokerWake_canon {s : State} (hc : Canon s) (h k : Nat) : Canon (s.stokerWake h k) := by
  unfold State.stokerWake
  grind [State.wakeUp_canon, State.parkAs_canon, State.setStream_canon, State.settleRels_canon, State.arrive_canon,
    State.wakeCall_canon, State.retired_canon, State.unbindClosed_canon, State.updStoker_canon,
    Stoker.closeAll_stokerCanon]
theorem State.quiesceDrained_canon {s : State} (hc : Canon s) (g : Nat) : Canon (s.quiesceDrained g) := by
  unfold State.quiesceDrained
  grind [Canon.queues, State.setGal_canon]
theorem Gallery.afterReset_queues {x : Gallery} (hx : mwf {} x.queues = true) (r : GalResult) :
    mwf {} (x.afterReset r).queues = true := by
  unfold Gallery.afterReset
  grind [mwf_mmap]
theorem Hearth.scrub_hearthCanon {x : Hearth} (hx : HearthCanon x) (y : Gallery) : HearthCanon (x.scrub y) := by
  have hs : SlotsCanon (x.scrub y).slots := (hearthCanon_slotsCanon hx).mmap fun i v hv => by
    split
    · rfl
    · exact hv
  exact { hx with hob := mwf_zeroBytes _ _ _ hx.hob, slots := hs.map, accumulators := hs.each }
theorem State.scrubSegment_canon {s : State} (hc : Canon s) (x : Segment) : Canon (s.scrubSegment x) := by
  unfold State.scrubSegment
  grind [canon_iff, mwf_zeroBytes]
theorem State.scrub_canon {s : State} (hc : Canon s) (g : Nat) : Canon (s.scrub g) := by
  unfold State.scrub
  grind [State.updHearth_canon, Hearth.scrub_hearthCanon, State.scrubSegment_canon, canon_foldl]
theorem Hearth.releaseGal_hearthCanon {x : Hearth} (hx : HearthCanon x) (g : Nat) : HearthCanon (x.releaseGal g) := { hx with }
theorem State.releaseGal_canon {s : State} (hc : Canon s) (g : Nat) :
    Canon (s.releaseGal g) := by
  unfold State.releaseGal
  grind [Hearth.releaseGal_hearthCanon, State.updFenGal_canon, State.setGal_canon, canon_iff, HearthsCanon.mmap, mwf_nil]
theorem State.galResetDone_canon {s : State} (hc : Canon s) (g : Nat) : Canon (s.galResetDone g) := by
  unfold State.galResetDone
  grind [Canon.queues, State.rekey_canon, State.setGal_canon, State.purgeFront_canon, State.scrub_canon,
    State.releaseGal_canon, Gallery.afterReset_queues]
theorem State.discardHeld_canon {s : State} (hc : Canon s) (g : Nat) : Canon (s.discardHeld g) := by
  unfold State.discardHeld
  grind [State.pieceFails_canon, canon_iff, canon_foldl]
theorem State.graceExpiry_canon {s : State} (hc : Canon s) (g : Nat) : Canon (s.graceExpiry g) := by
  unfold State.graceExpiry
  grind [Canon.queues, State.setGal_canon, State.discardHeld_canon, State.startReset_canon]
theorem State.hrtResult_canon {s : State} (hc : Canon s) (h : Nat) (r : HrtResult) : Canon (s.hrtResult h r) := by
  unfold State.hrtResult
  grind [State.updHearth_canon, hearthCanon_iff]
theorem Hearth.setGranule_hearthCanon {x : Hearth} (hx : HearthCanon x) (j : Nat) (valid : Bool) (g : Nat) :
    HearthCanon (x.setGranule j valid g) := { hx with }
theorem State.psMapWrite_canon {s : State} (hc : Canon s) (p : Port) (h j : Nat) (v : W32) :
    Canon (s.psMapWrite p h j v) := by
  unfold State.psMapWrite
  grind [State.hrtResult_canon, State.updHearth_canon, Hearth.setGranule_hearthCanon]
theorem State.fenceReq_canon {s : State} (hc : Canon s) (p : Port) (h : Nat) : Canon (s.fenceReq p h) := by
  unfold State.fenceReq
  grind [State.hrtResult_canon, State.fenceHearth_canon]
theorem State.postRoute_canon {s : State} (hc : Canon s) (p : Port) (h : Nat) (stove : Bool) :
    Canon (s.postRoute p h stove) := by
  unfold State.postRoute
  grind [State.hrtResult_canon, State.updHearth_canon, hearthCanon_iff]
theorem Hearth.afterReset_hearthCanon (x : Hearth) : HearthCanon x.afterReset :=
  hearthCanon_iff.2 ⟨stokersCanon_nil, rfl, rfl, slotsCanon_nil, rfl, rfl⟩
theorem State.hearthReset_canon {s : State} (hc : Canon s) (h : Nat) : Canon (s.hearthReset h) := by
  unfold State.hearthReset
  grind [State.setHearth_canon, Hearth.afterReset_hearthCanon, State.setPaceHearth_canon, State.reapplyFences_canon,
    State.fenceHearth_canon]
theorem State.hrtReset_canon {s : State} (hc : Canon s) (p : Port) (h : Nat) : Canon (s.hrtReset p h) := by
  unfold State.hrtReset
  grind [State.hrtResult_canon, State.hearthReset_canon]
theorem State.hearthPark_canon {s : State} (hc : Canon s) (h : Nat) : Canon (s.hearthPark h) := by
  unfold State.hearthPark
  grind [State.setPaceHearth_canon, canon_iff]
theorem State.guardSample_canon {s : State} (hc : Canon s) (hot : Bool) : Canon (s.guardSample hot) := by
  unfold State.guardSample
  grind [State.logFault_canon, State.avsRequest_canon, canon_iff]
theorem State.logUnbooked_canon {s : State} (hc : Canon s) (f : FaultInfo) : Canon (s.logUnbooked f) := by
  unfold State.logUnbooked
  grind [State.logFault_canon, canon_iff]
theorem State.thermalTrip_canon {s : State} (hc : Canon s) (sensor : Nat) (reading : BitVec 16) :
    Canon (s.thermalTrip sensor reading) := by
  unfold State.thermalTrip
  grind [State.holdBays_canon, State.avsRequest_canon, State.logUnbooked_canon, State.countLasting_canon, State.send_canon,
    State.startFlash_canon, State.updAcc'_canon, canon_iff]
theorem State.thermalSample_canon {s : State} (hc : Canon s) (readings : List (BitVec 16)) :
    Canon (s.thermalSample readings) := by
  unfold State.thermalSample
  grind [State.guardSample_canon, State.thermalTrip_canon, canon_iff]
theorem State.faultResult_canon {s : State} (hc : Canon s) (r : FaultResult) : Canon (s.faultResult r) := { hc with }
theorem State.judgeFault_canon {s : State} (hc : Canon s) (p : Port) {f : State → State} (hf : ∀ t, Canon t → Canon (f t)) :
    Canon (s.judgeFault p f) := by
  unfold State.judgeFault
  grind [State.faultResult_canon]
theorem State.cmdFenceGrate_canon {s : State} (hc : Canon s) (arg : Nat) : Canon (s.cmdFenceGrate arg) := by
  unfold State.cmdFenceGrate
  grind [State.faultResult_canon, State.updHearth_canon, State.fenceGrate_canon, hearthCanon_iff]
theorem State.cmdFenceEngine_canon {s : State} (hc : Canon s) (arg : Nat) : Canon (s.cmdFenceEngine arg) := by
  unfold State.cmdFenceEngine
  grind [State.faultResult_canon, State.routeGone_canon, State.fenceEngine_canon]
theorem State.cmdFenceStove_canon {s : State} (hc : Canon s) (arg : Nat) : Canon (s.cmdFenceStove arg) := by
  unfold State.cmdFenceStove
  grind [State.faultResult_canon, State.stoveGone_canon, State.fenceStove_canon]
theorem State.cmdForget_canon {s : State} (hc : Canon s) (arg : Nat) : Canon (s.cmdForget arg) := by
  unfold State.cmdForget
  grind [State.faultResult_canon, canon_iff]
theorem State.returnSeal_canon {s : State} (hc : Canon s) (p : Port) : Canon (s.returnSeal p) := by
  unfold State.returnSeal
  grind [State.faultResult_canon, State.startFlash_canon, canon_iff]
theorem State.sealArm_canon {s : State} (hc : Canon s) (p : Port) (v : W32) : Canon (s.sealArm p v) := { hc with }
theorem State.faultTail_canon {s : State} (hc : Canon s) (v : W32) : Canon (s.faultTail v) := by
  unfold State.faultTail
  grind [State.faultResult_canon, canon_iff]
theorem State.settleBootControl_canon {s : State} (hc : Canon s) : Canon s.settleBootControl := by
  unfold State.settleBootControl
  grind [State.takeFree_canon, State.bootControlEnd_canon, State.updAcc'_canon]
theorem PortState.afterReset_pba (x : PortState) : mwf false x.afterReset.pba = true := rfl
theorem State.cleared_canon {s : State} (hc : Canon s) (cause : ResetCause) (low : Bool) :
    Canon (s.cleared cause low) := by
  unfold State.cleared
  grind [PortState.afterReset_pba, canon_iff, mwf_mmap, mwf_nil, galsCanon_nil, hearthsCanon_nil]
theorem State.baysOff_canon {s : State} (hc : Canon s) : Canon s.baysOff := by
  unfold State.baysOff
  grind [State.send_canon, canon_foldl]
theorem State.coldReset_canon {s : State} (hc : Canon s) (cause : ResetCause) (low : Bool) :
    Canon (s.coldReset cause low) := State.cleared_canon (State.baysOff_canon (State.settleBootControl_canon hc ..) ..) ..
theorem State.reboot_canon {s : State} (hc : Canon s) (p : Port) : Canon (s.reboot p) := by
  unfold State.reboot
  grind [State.updAcc'_canon, State.coldReset_canon]
theorem State.rollBack_canon {s : State} (hc : Canon s) (bad : List SlotId) (dest : SlotId) :
    Canon (s.rollBack bad dest) := State.logFault_canon (State.updAcc'_canon hc ..) ..
theorem State.loadTopology_canon {s : State} (hc : Canon s) (m : Image) : Canon (s.loadTopology m) := by
  have hp : Canon (s.updFen fun x => { x with pod := m.pod }) := State.updFen_canon hc fun _ hx => { hx with }
  unfold State.loadTopology
  dsimp only
  split
  · refine canon_foldl hp (fun t p ht => ?_) _
    exact State.updFenPort_canon ht _ _
  · refine canon_foldl (State.updFen_canon hp fun _ hx => ?_) (fun t p ht => ?_) _
    · exact { hx with }
    · exact State.updFenPort_canon ht _ _
theorem State.runImage_canon {s : State} (hc : Canon s) (i : SlotId) : Canon (s.runImage i) := by
  unfold State.runImage
  grind [State.updAcc'_canon, State.loadTopology_canon]
theorem State.selectBoot_canon {s : State} (hc : Canon s) (bad : List SlotId) : Canon (s.selectBoot bad) := by
  unfold State.selectBoot
  grind [State.runImage_canon, State.rollBack_canon, canon_iff]
theorem State.initDone_canon {s : State} (hc : Canon s) : Canon s.initDone := by
  unfold State.initDone
  grind [State.updAcc'_canon, State.reapplyFences_canon, State.sealDone_canon]
theorem State.applyPolicies_canon {s : State} (hc : Canon s) : Canon s.applyPolicies := by
  unfold State.applyPolicies
  grind [State.avsRequest_canon, State.updAcc'_canon, canon_iff]
theorem State.startFenline_canon {s : State} (hc : Canon s) : Canon s.startFenline := by
  unfold State.startFenline
  grind [State.updFenPort_canon, canon_foldl]
theorem State.setPhase_canon {s : State} (hc : Canon s) (ph : Phase) : Canon (s.setPhase ph) := { hc with }
theorem State.powerUp_canon {s : State} (hc : Canon s) (bad : List SlotId) :
    Canon (s.powerUp bad) := by
  unfold State.powerUp
  dsimp only
  repeat' split
  all_goals grind [State.setPhase_canon, State.selectBoot_canon, State.initDone_canon, State.startFenline_canon,
    State.applyPolicies_canon, State.nextEnum_canon, canon_iff]

end Sys2Proof.Machine

namespace Sys2Proof.Machine

open Sys2Proof.Safety

/-! ### Operations that keep canonical form: Registers, Mgmt: registers and management -/

theorem State.timeWrite_canon {s : State} (hc : Canon s) (p : Port) (o v : Nat) : Canon (s.timeWrite p o v) := by
  unfold State.timeWrite
  grind [State.paceVreq_canon, canon_iff]
theorem PortState.setMsix_pba {x : PortState} (hx : mwf false x.pba = true) (v : Nat) (e : MsixEntry) :
    mwf false (x.setMsix v e).pba = true := by
  unfold PortState.setMsix
  grind
theorem State.portWrite_canon {s : State} (hc : Canon s) (p : Port) (o v : Nat) : Canon (s.portWrite p o v) := by
  unfold State.portWrite
  grind [Canon.pba, State.portAdopt_canon, State.setPort_canon, PortState.setMsix_pba, State.sendPending_canon]
theorem State.keeperWrite_canon {s : State} (hc : Canon s) (p : Port) (o v : Nat) : Canon (s.keeperWrite p o v) := by
  unfold State.keeperWrite
  grind [State.keeperTake_canon, State.keeperGive_canon]
theorem State.accWrite_canon {s : State} (hc : Canon s) (p : Port) (o v : Nat) :
    Canon (s.accWrite p o v) := by
  unfold State.accWrite
  repeat' split
  all_goals grind [State.install_canon, State.activate_canon, State.confirm_canon, State.reboot_canon]
theorem State.faultCommand_canon {s : State} (hc : Canon s) (p : Port) (v : Nat) : Canon (s.faultCommand p v) := by
  unfold State.faultCommand
  grind [State.judgeFault_canon, State.cmdFenceGrate_canon, State.cmdFenceEngine_canon, State.cmdFenceStove_canon,
    State.cmdForget_canon, State.returnSeal_canon]
theorem State.faultWrite_canon {s : State} (hc : Canon s) (p : Port) (o v : Nat) : Canon (s.faultWrite p o v) := by
  unfold State.faultWrite
  grind [State.faultTail_canon, State.faultCommand_canon, State.sealArm_canon, canon_iff]
theorem State.galCommand_canon {s : State} (hc : Canon s) (p : Port) (g v : Nat) : Canon (s.galCommand p g v) := by
  unfold State.galCommand
  grind [State.create_canon, State.openGal_canon, State.quiesce_canon, State.galReset_canon, State.release_canon]
theorem State.galWrite_canon {s : State} (hc : Canon s) (p : Port) (g o v : Nat) : Canon (s.galWrite p g o v) := by
  unfold State.galWrite
  grind [State.galCommand_canon, State.kindleDeadline_canon, State.galConfig_canon]
theorem State.catCommand_canon {s : State} (hc : Canon s) (p : Port) (g v : Nat) : Canon (s.catCommand p g v) := by
  unfold State.catCommand
  grind [State.catCmd_canon, State.catWrite_canon, State.invalidate_canon, State.catRead_canon, State.presFill_canon,
    State.presEmpty_canon, State.catResult_canon]
theorem State.catRegWrite_canon {s : State} (hc : Canon s) (p : Port) (g o v : Nat) : Canon (s.catRegWrite p g o v) := by
  unfold State.catRegWrite
  grind [State.catCommand_canon, State.catPresSel_canon]
theorem State.hrtWrite_canon {s : State} (hc : Canon s) (p : Port) (h o v : Nat) : Canon (s.hrtWrite p h o v) := by
  unfold State.hrtWrite
  grind [State.fenceReq_canon, State.hrtResult_canon, State.postRoute_canon, State.hrtReset_canon, State.psMapWrite_canon]
theorem State.folWriteCommand_canon {s : State} (hc : Canon s) (p : Port) (b v : Nat) :
    Canon (s.folWriteCommand p b v) := by
  unfold State.folWriteCommand
  grind [State.folCommand_canon, State.takeFree_canon]
theorem State.folWrite_canon {s : State} (hc : Canon s) (p : Port) (b o v : Nat) : Canon (s.folWrite p b o v) := by
  unfold State.folWrite
  grind [State.updBay_canon, State.folWriteCommand_canon, State.folReset_canon]
theorem State.fenCtrlWrite_canon {s : State} (hc : Canon s) (p : Port) (q v : Nat) : Canon (s.fenCtrlWrite p q v) := by
  unfold State.fenCtrlWrite
  grind [State.fenCtrl_canon, State.fenDisable_canon, State.fenReset_canon]
theorem State.fenWrite_canon {s : State} (hc : Canon s) (p : Port) (q o v : Nat) : Canon (s.fenWrite p q o v) := by
  unfold State.fenWrite
  grind [State.fenCtrlWrite_canon, State.fenCfgEpoch_canon, State.fenRoute_canon]
theorem State.ledgWrite_canon {s : State} (hc : Canon s) (p : Port) (o v : Nat) : Canon (s.ledgWrite p o v) := by
  unfold State.ledgWrite
  grind [State.ledgCfg_canon, canon_iff]
theorem State.write32_canon {s : State} (hc : Canon s) (p : Port) (b : Block) (o v : Nat) : Canon (s.write32 p b o v) := by
  unfold State.write32
  grind [State.timeWrite_canon, State.portWrite_canon, State.keeperWrite_canon, State.accWrite_canon,
    State.faultWrite_canon, State.galWrite_canon, State.hrtWrite_canon, State.folWrite_canon, State.fenWrite_canon,
    State.ledgWrite_canon, State.catRegWrite_canon]
theorem State.write64_canon {s : State} (hc : Canon s) (p : Port) (b : Block) (o : Nat) (v : W64) :
    Canon (s.write64 p b o v) := by
  unfold State.write64
  grind [State.timeSet_canon, State.pacePark_canon, Canon.pba, State.setPort_canon, PortState.setMsix_pba,
    State.updAcc'_canon, State.galConfig_canon, State.catPool_canon, State.catJudge_canon, State.presSet_canon,
    State.presClr_canon, State.catEntry_canon, State.fenGalWrite_canon, canon_iff]
theorem State.nonceWrite_canon {s : State} (hc : Canon s) (b o : Nat) (bs : List Byte) : Canon (s.nonceWrite b o bs) := by
  unfold State.nonceWrite
  grind [State.updBay_canon, State.chalNonce_canon]
theorem State.xferWrite_canon {s : State} (hc : Canon s) (p : Port) (b o : Nat) (bs : List Byte) :
    Canon (s.xferWrite p b o bs) := by
  unfold State.xferWrite
  grind [State.updBay_canon, State.folResult_canon]
theorem State.windowWrite_canon {s : State} (hc : Canon s) (p : Port) (b o : Nat) (bs : List Byte) :
    Canon (s.windowWrite p b o bs) := by
  unfold State.windowWrite
  grind [State.xferWrite_canon, State.nonceWrite_canon]
theorem PortState.setHalf_pba {x : PortState} (hx : mwf false x.pba = true) (off : Nat) (v : Option W32) :
    mwf false (x.setHalf off v).pba = true := by
  unfold PortState.setHalf
  grind
theorem State.setHalf_canon {s : State} (hc : Canon s) (p : Port) (off : Nat) (v : Option W32) :
    Canon (s.setHalf p off v) := by
  unfold State.setHalf
  grind [State.setPort_canon, PortState.setHalf_pba, Canon.pba]
theorem State.write4_canon {s : State} (hc : Canon s) (p : Port) (off : Nat) (v : W32) : Canon (s.write4 p off v) := by
  unfold State.write4
  grind [State.windowWrite_canon, State.write32_canon, State.write64_canon, State.setHalf_canon]
theorem State.write8_canon {s : State} (hc : Canon s) (p : Port) (off : Nat) (v : W64) : Canon (s.write8 p off v) := by
  unfold State.write8
  grind [State.windowWrite_canon, State.write32_canon, State.write64_canon, State.setHalf_canon]
theorem State.badAccess_canon {s : State} (hc : Canon s) (p : Port) (write : Bool) : Canon (s.badAccess p write) := by
  unfold State.badAccess
  grind [Canon.pba, State.send_canon, State.setPort_canon]
theorem State.bar0Write_canon {s : State} (hc : Canon s) (p : Port) (off n : Nat) (v : W64) :
    Canon (s.bar0Write p off n v) := by
  unfold State.bar0Write
  grind [State.earlyWrite_canon, State.write8_canon, State.write4_canon]
theorem State.bar0Read_canon {s : State} (hc : Canon s) (p : Port) (off n : Nat) : Canon (s.bar0Read p off n) := by
  unfold State.bar0Read
  grind [State.readTimeNow_canon, State.send_canon]
theorem State.doorbellWrite_canon {s : State} (hc : Canon s) (p : Port) (g o : Nat) (v : W32) :
    Canon (s.doorbellWrite p g o v) := by
  unfold State.doorbellWrite
  grind [State.doorbell_canon, State.whenEnabled_canon, State.sqTail_canon, State.cqHead_canon, State.dbAbort_canon,
    State.dbResume_canon, State.faultqHead_canon]
theorem State.pushWrite_canon {s : State} (hc : Canon s) (p : Port) (g o : Nat) (data : List Byte) :
    Canon (s.pushWrite p g o data) := by
  unfold State.pushWrite
  grind [State.doorbell_canon, State.whenEnabled_canon, State.push_canon]
theorem State.bar2Write_canon {s : State} (hc : Canon s) (p : Port) (off n : Nat) (data : BitVec 512) :
    Canon (s.bar2Write p off n data) := by
  unfold State.bar2Write
  grind [State.pushWrite_canon, State.badAccess_canon, State.earlyDoorbell_canon, State.doorbellWrite_canon]
theorem State.bar2Read_canon {s : State} (hc : Canon s) (p : Port) (off n : Nat) : Canon (s.bar2Read p off n) := by
  unfold State.bar2Read
  grind [State.send_canon, State.badAccess_canon]
theorem State.access_canon {s : State} (hc : Canon s) (p : Port) (a : BusAccess) : Canon (s.access p a) := by
  unfold State.access
  grind [State.send_canon, State.bar0Write_canon, State.badAccess_canon, State.bar0Read_canon, State.bar2Write_canon,
    State.bar2Read_canon]
theorem State.managed_canon {s : State} (hc : Canon s) (i : MgmtIf) {early f : State → State}
    (he : ∀ t, Canon t → Canon (early t)) (hf : ∀ t, Canon t → Canon (f t)) : Canon (s.managed i early f) := by
  have hs := State.send_canon hc (.notAcked i)
  unfold State.managed
  refine canon_ite (canon_ite hs hc) (canon_ite (hf s hc) ?_)
  split
  · exact canon_ite hc hs
  · exact hs
  · exact he s hc
theorem State.overMctp_canon {s : State} (hc : Canon s) (i : MgmtIf) {early f : State → State}
    (he : ∀ t, Canon t → Canon (early t)) (hf : ∀ t, Canon t → Canon (f t)) : Canon (s.overMctp i early f) := by
  have hm := State.managed_canon hc i he hf
  unfold State.overMctp
  grind
theorem State.control_canon {s : State} (hc : Canon s) (i : MgmtIf) {f : State → State} (hf : ∀ t, Canon t → Canon (f t)) :
    Canon (s.control i f) := State.overMctp_canon hc i (fun _ ht => ht) hf
theorem State.pldm_canon {s : State} (hc : Canon s) (i : MgmtIf) (type cmd : Nat) {f : State → State}
    (hf : ∀ t, Canon t → Canon (f t)) : Canon (s.pldm i type cmd f) := by
  unfold State.pldm
  grind [State.overMctp_canon, State.send_canon]
theorem State.sixteenth_canon {s : State} (hc : Canon s) (v : Int) : Canon (s.sixteenth v).1 := by
  unfold State.sixteenth
  grind [State.takeFree_canon]
theorem State.numericSensor_canon {s t : State} (hc : Canon s) (id : Nat) {v : Int}
    (ht : s.numericSensor id = some (t, v)) : Canon t := by
  unfold State.numericSensor at ht
  grind [State.sixteenth_canon]
theorem State.pldmBase_canon {s : State} (hc : Canon s) (i : MgmtIf) (r : PldmBase) : Canon (s.pldmBase i r) := by
  unfold State.pldmBase
  grind [State.send_canon, canon_iff]
theorem State.spdm_canon {s : State} (hc : Canon s) (i : MgmtIf) {f : State → State} (hf : ∀ t, Canon t → Canon (f t)) :
    Canon (s.spdm i f) := by
  unfold State.spdm
  grind [State.managed_canon, State.send_canon]
theorem State.spdmAfter_canon {s : State} (hc : Canon s) (i : MgmtIf) (seen : List MgmtIf) {f : State → State}
    (hf : ∀ t, Canon t → Canon (f t)) : Canon (s.spdmAfter i seen f) := by
  unfold State.spdmAfter
  grind [State.send_canon]
theorem State.doe_canon {s : State} (hc : Canon s) (p : Port) {f : State → State} (hf : ∀ t, Canon t → Canon (f t)) :
    Canon (s.doe p f) := by
  unfold State.doe
  grind [State.managed_canon, State.send_canon]
theorem State.extest_canon {s : State} (hc : Canon s) (ir : Tap) (pins shift : List Bool) :
    Canon (s.extest ir pins shift) := by
  unfold State.extest
  grind [State.send_canon, canon_iff]

end Sys2Proof.Machine

namespace Sys2Proof.Machine

open Sys2Proof.Safety

/-! ### Commands that keep canonical form -/

/-- The state that an outcome goes on in is in canonical form. -/
def NextCanon : Host.Outcome State Fault Refusal → Prop
  | .next t => Canon t
  | _ => True

theorem nextCanon_next {s : State} (hc : Canon s) : NextCanon (.next s) := hc

theorem execConfigRequest_canon {s : State} (hc : Canon s) (p : Port) (r : CfgReq) :
    NextCanon (execConfigRequest p r s) := by
  refine nextCanon_next ?_
  grind [State.cfgApply_canon, State.send_canon]
theorem execTimeNowRead_canon {s : State} (hc : Canon s) (p : Port) (part : TimeRead) :
    NextCanon (execTimeNowRead p part s) := by
  refine nextCanon_next ?_
  grind [State.send_canon, State.readTimeNow_canon]
theorem execEntryStage_canon {s : State} (hc : Canon s) (g : GalleryId) (q : QueueId) (ans : HostAnswer) (v : Verdict) :
    NextCanon (execEntryStage g q ans v s) := by
  refine nextCanon_next ?_
  grind [State.entryStage_canon]
theorem execEntryFetch_canon {s : State} (hc : Canon s) : NextCanon (execEntryFetch s) := by
  refine nextCanon_next ?_
  grind [State.entryFetch_canon]
theorem execHostCompletionTimeout_canon {s : State} (hc : Canon s) (id : Nat) :
    NextCanon (execHostCompletionTimeout id s) := by
  refine nextCanon_next ?_
  grind [State.pumpBays_canon, State.hostTimeout_canon]
theorem execKeeperLeaseExpiry_canon {s : State} (hc : Canon s) (n : Fin 64) : NextCanon (execKeeperLeaseExpiry n s) := by
  refine nextCanon_next ?_
  grind [State.breakSlot_canon]
theorem execSnoopTimeout_canon {s : State} (hc : Canon s) (l : Nat) : NextCanon (execSnoopTimeout l s) := by
  refine nextCanon_next ?_
  grind [State.snoopExpire_canon]
theorem execPieceSend_canon {s : State} (hc : Canon s) (u : SendUnit) : NextCanon (execPieceSend u s) := by
  refine nextCanon_next ?_
  grind [State.pumpBays_canon, State.sendStream_canon, State.finishAcc_canon, State.sendAcc_canon, State.pumpBay_canon,
    State.drainInbox_canon]
theorem execPieceComplete_canon {s : State} (hc : Canon s) (id : Nat) (ret : PieceReturn) :
    NextCanon (execPieceComplete id ret s) := by
  refine nextCanon_next ?_
  grind [State.pumpBays_canon, State.pieceComplete_canon]
theorem execNop_canon {s : State} (hc : Canon s) (h : HearthId) (k : StokerId) : NextCanon (execNop h k s) := by
  refine nextCanon_next ?_
  grind [State.issue_canon, Issued.Canon]
theorem execTrap_canon {s : State} (hc : Canon s) (h : HearthId) (k : StokerId) : NextCanon (execTrap h k s) := by
  refine nextCanon_next ?_
  grind [State.issue_canon, Issued.Canon]
theorem execYield_canon {s : State} (hc : Canon s) (h : HearthId) (k : StokerId) : NextCanon (execYield h k s) := by
  refine nextCanon_next ?_
  grind [State.issue_canon, State.updStoker_canon, stokerCanon_iff, Issued.Canon]
theorem execSel_canon {s : State} (hc : Canon s) (h : HearthId) (k : StokerId) : NextCanon (execSel h k s) := by
  refine nextCanon_next ?_
  grind [State.alu_canon]
theorem execMovi_canon {s : State} (hc : Canon s) (h : HearthId) (k : StokerId) : NextCanon (execMovi h k s) := by
  refine nextCanon_next ?_
  grind [State.issue_canon, State.updStoker_canon, Stoker.write_stokerCanon, Issued.Canon]
theorem execMovhi_canon {s : State} (hc : Canon s) (h : HearthId) (k : StokerId) : NextCanon (execMovhi h k s) := by
  refine nextCanon_next ?_
  grind [State.issue_canon, State.updStoker_canon, Stoker.write_stokerCanon, Issued.Canon]
theorem execMoviX_canon {s : State} (hc : Canon s) (h : HearthId) (k : StokerId) : NextCanon (execMoviX h k s) := by
  refine nextCanon_next ?_
  grind [State.issue_canon, State.updStoker_canon, Stoker.write_stokerCanon, Issued.Canon]
theorem execMovhiX_canon {s : State} (hc : Canon s) (h : HearthId) (k : StokerId) : NextCanon (execMovhiX h k s) := by
  refine nextCanon_next ?_
  grind [State.issue_canon, State.updStoker_canon, Stoker.write_stokerCanon, Issued.Canon]
theorem execGrtLoadb_canon {s : State} (hc : Canon s) (h : HearthId) (k : StokerId) : NextCanon (execGrtLoadb h k s) := by
  refine nextCanon_next ?_
  grind [State.settleLatches_canon, State.grtLoadb_canon]
theorem execPositionClaimGrant_canon {s : State} (hc : Canon s) (h : HearthId) :
    NextCanon (execPositionClaimGrant h s) := by
  refine nextCanon_next ?_
  grind [State.claimGrant_canon, State.grantEmber_canon]
theorem execRdData_canon {s : State} (hc : Canon s) (b : BayId) (h : FrameHdr) (tag : Nat) (data : List Byte) :
    NextCanon (execRdData b h tag data s) := by
  refine nextCanon_next ?_
  grind [State.onRequest_canon, State.sectorCome_canon]
theorem execWrAck_canon {s : State} (hc : Canon s) (b : BayId) (h : FrameHdr) (tag : Nat) :
    NextCanon (execWrAck b h tag s) := by
  refine nextCanon_next ?_
  grind [State.onRequest_canon, State.sectorWritten_canon]
theorem execErr_canon {s : State} (hc : Canon s) (b : BayId) (h : FrameHdr) (tag : Nat) (e : FrameErr) :
    NextCanon (execErr b h tag e s) := by
  refine nextCanon_next ?_
  grind [State.onRequest_canon, State.requestFails_canon]
theorem execMgRsp_canon {s : State} (hc : Canon s) (b : BayId) (h : FrameHdr) (op : MgOp) (r : MgReply) :
    NextCanon (execMgRsp b h op r s) := by
  refine nextCanon_next ?_
  grind [State.pumpBays_canon, State.withFrame_canon, State.mgRsp_canon]
theorem execFolioLinkDown_canon {s : State} (hc : Canon s) (b : BayId) : NextCanon (execFolioLinkDown b s) := by
  refine nextCanon_next ?_
  grind [State.pumpBays_canon, State.bayGone_canon]
theorem execBayTimeout_canon {s : State} (hc : Canon s) (b : BayId) (tag : Option Nat) :
    NextCanon (execBayTimeout b tag s) := by
  refine nextCanon_next ?_
  grind [State.pumpBays_canon, State.bayTimeout_canon]
theorem execBayPresenceHeld_canon {s : State} (hc : Canon s) (b : BayId) : NextCanon (execBayPresenceHeld b s) := by
  refine nextCanon_next ?_
  grind [State.updBay_canon, State.nextEnum_canon, State.powerBay_canon]
theorem execBayPresenceLost_canon {s : State} (hc : Canon s) (b : BayId) : NextCanon (execBayPresenceLost b s) := by
  refine nextCanon_next ?_
  grind [State.pumpBays_canon, State.presenceLost_canon]
theorem execLedgerCommitTimer_canon {s : State} (hc : Canon s) : NextCanon (execLedgerCommitTimer s) := by
  refine nextCanon_next ?_
  grind [State.sendMg_canon, canon_foldl]
theorem execScrubStatus_canon {s : State} (hc : Canon s) : NextCanon (execScrubStatus s) := by
  refine nextCanon_next ?_
  grind [State.sendMg_canon, canon_foldl]
theorem execPwrWarnNFall_canon {s : State} (hc : Canon s) : NextCanon (execPwrWarnNFall s) := by
  refine nextCanon_next ?_
  grind [State.holdBays_canon, State.updAcc'_canon]
theorem execPwrWarnNRelease_canon {s : State} (hc : Canon s) : NextCanon (execPwrWarnNRelease s) := by
  refine nextCanon_next ?_
  grind [State.startFlash_canon, State.updAcc'_canon, State.updBay_canon, State.beginFol_canon, State.pumpBay_canon,
    canon_foldl]
theorem execFenlinePortDown_canon {s : State} (hc : Canon s) (p : FenPortId) : NextCanon (execFenlinePortDown p s) := by
  refine nextCanon_next ?_
  grind [State.portTo_canon]
theorem execFenlineTrained_canon {s : State} (hc : Canon s) (p : FenPortId) : NextCanon (execFenlineTrained p s) := by
  refine nextCanon_next ?_
  grind [State.sendBringup_canon, State.updFenPort_canon]
theorem execTimesyncTimer_canon {s : State} (hc : Canon s) : NextCanon (execTimesyncTimer s) := by
  refine nextCanon_next ?_
  grind [State.sendFlit_canon, canon_foldl]
theorem execEpochAnnounceTimer_canon {s : State} (hc : Canon s) : NextCanon (execEpochAnnounceTimer s) := by
  refine nextCanon_next ?_
  grind [State.sendFlit_canon, canon_foldl]
theorem execFaultBookAppend_canon {s : State} (hc : Canon s) : NextCanon (execFaultBookAppend s) := by
  refine nextCanon_next ?_
  grind [State.bookNext_canon]
theorem execConservatorUnlock_canon {s : State} (hc : Canon s) (signed : Bool) :
    NextCanon (execConservatorUnlock signed s) := by
  unfold execConservatorUnlock
  split
  · trivial
  · exact nextCanon_next (State.logFault_canon hc _)
theorem execResetNLow_canon {s : State} (hc : Canon s) : NextCanon (execResetNLow s) := by
  refine nextCanon_next ?_
  grind [State.coldReset_canon]
theorem execResetNRise_canon {s : State} (hc : Canon s) : NextCanon (execResetNRise s) := by
  refine nextCanon_next ?_
  grind [canon_iff]
theorem execBayEnumerationSlot_canon {s : State} (hc : Canon s) (b : BayId) : NextCanon (execBayEnumerationSlot b s) := by
  refine nextCanon_next ?_
  grind [State.updBay_canon, State.startEnum_canon, State.powerBay_canon, canon_foldl]
theorem execWatchdogExpiry_canon {s : State} (hc : Canon s) : NextCanon (execWatchdogExpiry s) := by
  refine nextCanon_next ?_
  grind [State.coldReset_canon]
theorem execSerdesRefclkLoss_canon {s : State} (hc : Canon s) : NextCanon (execSerdesRefclkLoss s) := by
  refine nextCanon_next ?_
  grind [State.portTo_canon, State.pumpBays_canon, State.bayGone_canon, canon_foldl]
theorem execPowerLoss_canon {s : State} (hc : Canon s) : NextCanon (execPowerLoss s) := by
  refine nextCanon_next ?_
  grind [State.coldReset_canon, canon_iff, mwf_nil]
theorem execIdentityBlockRead_canon {s : State} (hc : Canon s) (smbus : Bool) :
    NextCanon (execIdentityBlockRead smbus s) := by
  refine nextCanon_next ?_
  grind [State.send_canon]
theorem execSetEndpointId_canon {s : State} (hc : Canon s) (i : MgmtIf) (eid : Byte) :
    NextCanon (execSetEndpointId i eid s) := by
  refine nextCanon_next ?_
  grind [State.control_canon, State.send_canon, canon_iff]
theorem execGetsensorreading_canon {s : State} (hc : Canon s) (i : MgmtIf) (id : BitVec 16) :
    NextCanon (execGetsensorreading i id s) := by
  refine nextCanon_next ?_
  grind [State.pldm_canon, State.numericSensor_canon, State.send_canon]
theorem execGetstatesensorreadings_canon {s : State} (hc : Canon s) (i : MgmtIf) (id : BitVec 16) :
    NextCanon (execGetstatesensorreadings i id s) := by
  refine nextCanon_next ?_
  grind [State.pldm_canon, State.send_canon]
theorem execGetVersion_canon {s : State} (hc : Canon s) (i : MgmtIf) : NextCanon (execGetVersion i s) := by
  refine nextCanon_next ?_
  grind [State.spdm_canon, State.send_canon, canon_iff]
theorem execGetCapabilities_canon {s : State} (hc : Canon s) (i : MgmtIf) : NextCanon (execGetCapabilities i s) := by
  refine nextCanon_next ?_
  grind [State.spdm_canon, State.spdmAfter_canon, State.send_canon, canon_iff]
theorem execNegotiateAlgorithms_canon {s : State} (hc : Canon s) (i : MgmtIf) (offered : Bool) :
    NextCanon (execNegotiateAlgorithms i offered s) := by
  refine nextCanon_next ?_
  grind [State.spdm_canon, State.spdmAfter_canon, State.send_canon, canon_iff]
theorem execGetCertificate_canon {s : State} (hc : Canon s) (i : MgmtIf) (slot : BitVec 4) (off len : BitVec 16) :
    NextCanon (execGetCertificate i slot off len s) := by
  refine nextCanon_next ?_
  grind [State.spdm_canon, State.spdmAfter_canon, State.send_canon]
theorem execSpdmChallenge_canon {s : State} (hc : Canon s) (i : MgmtIf) (slot : BitVec 4) (nonce : BitVec 256) :
    NextCanon (execSpdmChallenge i slot nonce s) := by
  refine nextCanon_next ?_
  grind [State.spdm_canon, State.spdmAfter_canon, State.send_canon]
theorem execGetMeasurements_canon {s : State} (hc : Canon s) (i : MgmtIf) (index : Byte) :
    NextCanon (execGetMeasurements i index s) := by
  refine nextCanon_next ?_
  grind [State.spdm_canon, State.spdmAfter_canon, State.send_canon]
theorem execIdcode_canon {s : State} (hc : Canon s) : NextCanon (execIdcode s) := by
  refine nextCanon_next ?_
  grind [State.send_canon, canon_iff]
theorem execSamplePreload_canon {s : State} (hc : Canon s) (pins shift : List Bool) :
    NextCanon (execSamplePreload pins shift s) := by
  refine nextCanon_next ?_
  grind [State.send_canon, canon_iff]
theorem execClamp_canon {s : State} (hc : Canon s) (shift : List Bool) : NextCanon (execClamp shift s) := by
  refine nextCanon_next ?_
  grind [State.send_canon, canon_iff]
theorem execHighz_canon {s : State} (hc : Canon s) (shift : List Bool) : NextCanon (execHighz shift s) := by
  refine nextCanon_next ?_
  grind [State.send_canon, canon_iff]
theorem execBypass_canon {s : State} (hc : Canon s) (shift : List Bool) : NextCanon (execBypass shift s) := by
  refine nextCanon_next ?_
  grind [State.send_canon, canon_iff]
theorem execBayLinkTrained_canon {s : State} (hc : Canon s) (b : BayId) : NextCanon (execBayLinkTrained b s) := by
  refine nextCanon_next ?_
  grind [State.sendMg_canon, State.updBay_canon]
theorem execBootFlashOperationEnd_canon {s : State} (hc : Canon s) (ok sigOk : Bool) :
    NextCanon (execBootFlashOperationEnd ok sigOk s) := by
  refine nextCanon_next ?_
  grind [State.startFlash_canon, State.flashEnd_canon, State.updAcc'_canon]
theorem execDynamicAddressAssignment_canon {s : State} (hc : Canon s) (addr : BitVec 7) :
    NextCanon (execDynamicAddressAssignment addr s) := by
  refine nextCanon_next ?_
  grind [State.send_canon, canon_iff]
theorem execTrstN_canon {s : State} (hc : Canon s) : NextCanon (execTrstN s) := by
  refine nextCanon_next ?_
  grind [canon_iff]

/-- Command by command: each runs one operation, and the operation keeps canonical form. -/
theorem exec_canon {s : State} (hc : Canon s) : (c : Instr) → NextCanon (exec c s)
  | .registerWrite .. => nextCanon_next (State.access_canon hc ..)
  | .configRequest .. => execConfigRequest_canon hc ..
  | .timeNowRead .. => execTimeNowRead_canon hc ..
  | .timeSet .. => nextCanon_next (State.whenReady_canon hc fun _ ht => State.timeSet_canon ht ..)
  | .ppsEdge => nextCanon_next (State.ppsEdge_canon hc ..)
  | .holdoverEntry => nextCanon_next (State.holdoverEntry_canon hc ..)
  | .refTimeRelock .. => nextCanon_next (State.relock_canon hc ..)
  | .paceWindowEnd .. => nextCanon_next (State.windowEndAll_canon hc ..)
  | .paceVreq .. => nextCanon_next (State.whenReady_canon hc fun _ ht => State.paceVreq_canon ht ..)
  | .avsStatusPoll .. => nextCanon_next (State.avsPoll_canon hc ..)
  | .avsFrameFail .. => nextCanon_next (State.avsFail_canon hc ..)
  | .thermalSample .. => nextCanon_next (State.thermalSample_canon hc ..)
  | .pacePark .. => nextCanon_next (State.whenReady_canon hc fun _ ht => State.pacePark_canon ht ..)
  | .hearthPark .. => nextCanon_next (State.hearthPark_canon hc ..)
  | .hearthWake .. => nextCanon_next (State.hearthWake_canon hc ..)
  | .galCreate .. => nextCanon_next (State.whenReady_canon hc fun _ ht => State.create_canon ht ..)
  | .galOpen .. => nextCanon_next (State.whenReady_canon hc fun _ ht => State.openGal_canon ht ..)
  | .quiesce .. => nextCanon_next (State.whenReady_canon hc fun _ ht => State.quiesce_canon ht ..)
  | .quiesceDrained .. => nextCanon_next (State.quiesceDrained_canon hc ..)
  | .galReset .. => nextCanon_next (State.whenReady_canon hc fun _ ht => State.galReset_canon ht ..)
  | .release .. => nextCanon_next (State.whenReady_canon hc fun _ ht => State.release_canon ht ..)
  | .galResetDone .. => nextCanon_next (State.galResetDone_canon hc ..)
  | .galConfigWrite .. => nextCanon_next (State.whenReady_canon hc fun _ ht => State.galConfig_canon ht ..)
  | .galKindleDeadline .. => nextCanon_next (State.whenReady_canon hc fun _ ht => State.kindleDeadline_canon ht ..)
  | .dbSqTail .. => nextCanon_next (State.doorbell_canon hc _ _ _ fun _ ht => State.whenEnabled_canon ht _ _ fun _ ht =>
      State.sqTail_canon ht ..)
  | .dbPush .. => nextCanon_next (State.doorbell_canon hc _ _ _ fun _ ht => State.whenEnabled_canon ht _ _ fun _ ht =>
      State.push_canon ht ..)
  | .dbCqHead .. => nextCanon_next (State.doorbell_canon hc _ _ _ fun _ ht => State.whenEnabled_canon ht _ _ fun _ ht =>
      State.cqHead_canon ht ..)
  | .dbAbort .. => nextCanon_next (State.doorbell_canon hc _ _ _ fun _ ht => State.whenEnabled_canon ht _ _ fun _ ht =>
      State.dbAbort_canon ht ..)
  | .dbResume .. => nextCanon_next (State.doorbell_canon hc _ _ _ fun _ ht => State.dbResume_canon ht ..)
  | .dbFaultqHead .. => nextCanon_next (State.doorbell_canon hc _ _ _ fun _ ht => State.faultqHead_canon ht ..)
  | .entryStage .. => execEntryStage_canon hc ..
  | .entryFetch => execEntryFetch_canon hc ..
  | .runDispatch .. => nextCanon_next (State.runDispatch_canon hc ..)
  | .stoveLoadDispatch .. => nextCanon_next (State.stoveLoadDispatch_canon hc ..)
  | .placeDispatch .. => nextCanon_next (State.placeDispatch_canon hc ..)
  | .qfenceRetire .. => nextCanon_next (State.qfenceRetire_canon hc ..)
  | .retire .. => nextCanon_next (State.retire_canon hc ..)
  | .completionRecord .. => nextCanon_next (State.completionRecord_canon hc ..)
  | .msixPendingSend .. => nextCanon_next (State.sendPending_canon hc ..)
  | .stokerFree .. => nextCanon_next (State.stokerFree_canon hc ..)
  | .stokerWake .. => nextCanon_next (State.stokerWake_canon hc ..)
  | .faultCommit .. => nextCanon_next (State.endWo_canon hc ..)
  | .perst .. => nextCanon_next (State.portReset_canon hc ..)
  | .hotReset .. => nextCanon_next (State.portReset_canon hc ..)
  | .linkDisable .. => nextCanon_next (State.portReset_canon hc ..)
  | .functionLevelReset .. => nextCanon_next (State.portReset_canon hc ..)
  | .d3hot .. => nextCanon_next (State.portReset_canon hc ..)
  | .portResetEnd .. => nextCanon_next (State.portResetEnd_canon hc ..)
  | .dllDown .. => nextCanon_next (State.dllDown_canon hc ..)
  | .dllUp .. => nextCanon_next (State.dllUpEvent_canon hc ..)
  | .portResetGraceExpiry .. => nextCanon_next (State.graceExpiry_canon hc ..)
  | .hostCompletionTimeout .. => execHostCompletionTimeout_canon hc ..
  | .keeperTake .. => nextCanon_next (State.reached_canon hc fun _ ht => State.keeperTake_canon ht ..)
  | .keeperGive .. => nextCanon_next (State.reached_canon hc fun _ ht => State.keeperGive_canon ht ..)
  | .keeperLeaseExpiry .. => execKeeperLeaseExpiry_canon hc ..
  | .portAdopt .. => nextCanon_next (State.reached_canon hc fun _ ht => State.portAdopt_canon ht ..)
  | .ledgCfg .. => nextCanon_next (State.whenReadyOrRecovery_canon hc fun _ ht => State.ledgCfg_canon ht ..)
  | .m2sRequest .. => nextCanon_next (State.m2sRequest_canon hc ..)
  | .bar4Access .. => nextCanon_next (State.bar4Access_canon hc ..)
  | .birsp .. => nextCanon_next (State.biRsp_canon hc ..)
  | .memclnevct .. => nextCanon_next (State.cleanEvict_canon hc ..)
  | .dirtyWriteBack .. => nextCanon_next (State.dirtyWriteBack_canon hc ..)
  | .biconflict .. => nextCanon_next (State.send_canon hc ..)
  | .snoopTimeout .. => execSnoopTimeout_canon hc ..
  | .catWrite .. => nextCanon_next (State.whenReady_canon hc fun _ ht => State.catCmd_canon ht _ _ _ fun _ ht =>
      State.catWrite_canon ht ..)
  | .invalidate .. => nextCanon_next (State.whenReady_canon hc fun _ ht => State.catCmd_canon ht _ _ _ fun _ ht =>
      State.invalidate_canon ht ..)
  | .catRead .. => nextCanon_next (State.whenReady_canon hc fun _ ht => State.catCmd_canon ht _ _ _ fun _ ht =>
      State.catRead_canon ht ..)
  | .presFill .. => nextCanon_next (State.whenReady_canon hc fun _ ht => State.catCmd_canon ht _ _ _ fun _ ht =>
      State.presFill_canon ht ..)
  | .presEmpty .. => nextCanon_next (State.whenReady_canon hc fun _ ht => State.catCmd_canon ht _ _ _ fun _ ht =>
      State.presEmpty_canon ht ..)
  | .catPresSet .. => nextCanon_next (State.whenReady_canon hc fun _ ht => State.catJudge_canon ht _ _ fun _ ht =>
      State.presSet_canon ht ..)
  | .catPresClr .. => nextCanon_next (State.whenReady_canon hc fun _ ht => State.catJudge_canon ht _ _ fun _ ht =>
      State.presClr_canon ht ..)
  | .catPool .. => nextCanon_next (State.whenReady_canon hc fun _ ht => State.catPool_canon ht ..)
  | .catDrainDone .. => nextCanon_next (State.drainDone_canon hc ..)
  | .pieceSend .. => execPieceSend_canon hc ..
  | .pieceComplete .. => execPieceComplete_canon hc ..
  | .hrtPsMap .. => nextCanon_next (State.whenReady_canon hc fun _ ht => State.psMapWrite_canon ht ..)
  | .fenceReq .. => nextCanon_next (State.whenReady_canon hc fun _ ht => State.fenceReq_canon ht ..)
  | .hrtPostRoute .. => nextCanon_next (State.whenReady_canon hc fun _ ht => State.postRoute_canon ht ..)
  | .hrtReset .. => nextCanon_next (State.whenReady_canon hc fun _ ht => State.hrtReset_canon ht ..)
  | .nop .. => execNop_canon hc ..
  | .jmp .. => nextCanon_next (State.jmp_canon hc ..)
  | .br .. => nextCanon_next (State.br_canon hc ..)
  | .call .. => nextCanon_next (State.callInstr_canon hc ..)
  | .ret .. => nextCanon_next (State.ret_canon hc ..)
  | .loop .. => nextCanon_next (State.loop_canon hc ..)
  | .halt .. => nextCanon_next (State.haltOp_canon hc ..)
  | .trap .. => execTrap_canon hc ..
  | .yield .. => execYield_canon hc ..
  | .add .. => nextCanon_next (State.alu_canon hc ..)
  | .sub .. => nextCanon_next (State.alu_canon hc ..)
  | .mul .. => nextCanon_next (State.alu_canon hc ..)
  | .and .. => nextCanon_next (State.alu_canon hc ..)
  | .or .. => nextCanon_next (State.alu_canon hc ..)
  | .xor .. => nextCanon_next (State.alu_canon hc ..)
  | .shl .. => nextCanon_next (State.alu_canon hc ..)
  | .shr .. => nextCanon_next (State.alu_canon hc ..)
  | .sra .. => nextCanon_next (State.alu_canon hc ..)
  | .min .. => nextCanon_next (State.alu_canon hc ..)
  | .max .. => nextCanon_next (State.alu_canon hc ..)
  | .cmpCc .. => nextCanon_next (State.alu_canon hc ..)
  | .sel .. => execSel_canon hc ..
  | .movi .. => execMovi_canon hc ..
  | .movhi .. => execMovhi_canon hc ..
  | .moviX .. => execMoviX_canon hc ..
  | .movhiX .. => execMovhiX_canon hc ..
  | .ld .. => nextCanon_next (State.ld_canon hc ..)
  | .st .. => nextCanon_next (State.st_canon hc ..)
  | .ldarg .. => nextCanon_next (State.ldarg_canon hc ..)
  | .fenceAcq .. => nextCanon_next (State.fence_canon hc ..)
  | .fenceRel .. => nextCanon_next (State.fenceRel_canon hc ..)
  | .fenceFull .. => nextCanon_next (State.fence_canon hc ..)
  | .flagSet .. => nextCanon_next (State.flagSetOp_canon hc ..)
  | .flagAdd .. => nextCanon_next (State.flagAddOp_canon hc ..)
  | .flagWaitCc .. => nextCanon_next (State.flagWaitOp_canon hc ..)
  | .flagReread .. => nextCanon_next (State.flagReread_canon hc ..)
  | .damper .. => nextCanon_next (State.damperOp_canon hc ..)
  | .damperRoundEnd .. => nextCanon_next (State.roundEnd_canon hc ..)
  | .timeRd .. => nextCanon_next (State.timeRd_canon hc ..)
  | .paceRd .. => nextCanon_next (State.paceRd_canon hc ..)
  | .strOpen .. => nextCanon_next (State.strOpen_canon hc ..)
  | .strOpenL .. => nextCanon_next (State.strOpen_canon hc ..)
  | .strOpenTags .. => nextCanon_next (State.strOpenTags_canon hc ..)
  | .strPull .. => nextCanon_next (State.strAssign_canon hc ..)
  | .strPush .. => nextCanon_next (State.strAssign_canon hc ..)
  | .strWait .. => nextCanon_next (State.strWait_canon hc ..)
  | .strPos .. => nextCanon_next (State.strPos_canon hc ..)
  | .strClose .. => nextCanon_next (State.strClose_canon hc ..)
  | .streamHalt .. => nextCanon_next (State.streamHalts_canon hc ..)
  | .grtLoadb .. => execGrtLoadb_canon hc ..
  | .grtMm .. => nextCanon_next (State.grtMm_canon hc ..)
  | .grtMmX .. => nextCanon_next (State.grtMmX_canon hc ..)
  | .grtZero .. => nextCanon_next (State.grtZero_canon hc ..)
  | .grtZeroC .. => nextCanon_next (State.zeroC_canon hc ..)
  | .positionClaimGrant .. => execPositionClaimGrant_canon hc ..
  | .claimRelease .. => nextCanon_next (State.claimRelease_canon hc ..)
  | .kindlingDeadline .. => nextCanon_next (State.kindlingDeadline_canon hc ..)
  | .chainStart .. => nextCanon_next (State.chainStart_canon hc ..)
  | .tileBroadcast .. => nextCanon_next (State.tileBroadcast_canon hc ..)
  | .chainCommit .. => nextCanon_next (State.chainCommit_canon hc ..)
  | .fluSt .. => nextCanon_next (State.fluSt_canon hc ..)
  | .fluStL .. => nextCanon_next (State.fluSt_canon hc ..)
  | .flueDrain .. => nextCanon_next (State.flueDrain_canon hc ..)
  | .fluSte .. => nextCanon_next (State.fluSte_canon hc ..)
  | .sprEmb .. => nextCanon_next (State.sprEmb_canon hc ..)
  | .sprEmbC .. => nextCanon_next (State.sprEmbC_canon hc ..)
  | .sprMerge .. => nextCanon_next (State.sprMerge_canon hc ..)
  | .sprDroprd .. => nextCanon_next (State.sprDroprd_canon hc ..)
  | .cabCall .. => nextCanon_next (State.cabCall_canon hc ..)
  | .cabWait .. => nextCanon_next (State.callWait_canon hc ..)
  | .engineCallStart .. => nextCanon_next (State.engineCallStart_canon hc ..)
  | .engineCallComplete .. => nextCanon_next (State.engineCallComplete_canon hc ..)
  | .stvLoad .. => nextCanon_next (State.stvLoad_canon hc ..)
  | .stvRun .. => nextCanon_next (State.stvRun_canon hc ..)
  | .stvWait .. => nextCanon_next (State.callWait_canon hc ..)
  | .patternLoad .. => nextCanon_next (State.patternLoad_canon hc ..)
  | .stoveCallStart .. => nextCanon_next (State.stoveCallStart_canon hc ..)
  | .stoveCallComplete .. => nextCanon_next (State.stoveCallComplete_canon hc ..)
  | .rdData .. => execRdData_canon hc ..
  | .wrAck .. => execWrAck_canon hc ..
  | .err .. => execErr_canon hc ..
  | .mgRsp .. => execMgRsp_canon hc ..
  | .folioLinkDown .. => execFolioLinkDown_canon hc ..
  | .bayTimeout .. => execBayTimeout_canon hc ..
  | .bayPresenceHeld .. => execBayPresenceHeld_canon hc ..
  | .bayPresenceLost .. => execBayPresenceLost_canon hc ..
  | .folChalNonce .. => nextCanon_next (State.whenReady_canon hc fun _ ht => State.chalNonce_canon ht ..)
  | .adopt .. => nextCanon_next (State.whenReady_canon hc fun _ ht => State.folCommand_canon ht ..)
  | .eject .. => nextCanon_next (State.whenReady_canon hc fun _ ht => State.folCommand_canon ht ..)
  | .folRetire .. => nextCanon_next (State.whenReady_canon hc fun _ ht => State.folCommand_canon ht ..)
  | .folExport .. => nextCanon_next (State.whenReady_canon hc fun _ ht => State.folCommand_canon ht ..)
  | .accept .. => nextCanon_next (State.whenReady_canon hc fun _ ht => State.folCommand_canon ht ..)
  | .folCommit .. => nextCanon_next (State.whenReady_canon hc fun _ ht => State.folCommand_canon ht ..)
  | .ledgerCommitTimer => execLedgerCommitTimer_canon hc ..
  | .scrubStatus => execScrubStatus_canon hc ..
  | .folReset .. => nextCanon_next (State.whenReady_canon hc fun _ ht => State.folReset_canon ht ..)
  | .pwrWarnNFall => execPwrWarnNFall_canon hc ..
  | .pwrWarnNRelease => execPwrWarnNRelease_canon hc ..
  | .idle .. => nextCanon_next (State.receive_canon hc ..)
  | .putData .. => nextCanon_next (State.receive_canon hc ..)
  | .getReq .. => nextCanon_next (State.receive_canon hc ..)
  | .getData .. => nextCanon_next (State.receive_canon hc ..)
  | .xack .. => nextCanon_next (State.receive_canon hc ..)
  | .signal .. => nextCanon_next (State.receive_canon hc ..)
  | .coll .. => nextCanon_next (State.receive_canon hc ..)
  | .bringup .. => nextCanon_next (State.receive_canon hc ..)
  | .timesync .. => nextCanon_next (State.receive_canon hc ..)
  | .mgmt .. => nextCanon_next (State.receive_canon hc ..)
  | .leave .. => nextCanon_next (State.receive_canon hc ..)
  | .fenlinePortDown .. => execFenlinePortDown_canon hc ..
  | .fenlineTrained .. => execFenlineTrained_canon hc ..
  | .timesyncTimer => execTimesyncTimer_canon hc ..
  | .epochAnnounceTimer => execEpochAnnounceTimer_canon hc ..
  | .fenCfgEpoch .. => nextCanon_next (State.whenReady_canon hc fun _ ht => State.fenCfgEpoch_canon ht ..)
  | .fenGal .. => nextCanon_next (State.whenReady_canon hc fun _ ht => State.fenGalWrite_canon ht ..)
  | .fenCtrlReset .. => nextCanon_next (State.whenReady_canon hc fun _ ht => State.fenCtrl_canon ht _ _ fun _ ht =>
      State.fenReset_canon ht ..)
  | .fenCtrlDisable .. => nextCanon_next (State.whenReady_canon hc fun _ ht => State.fenCtrl_canon ht _ _ fun _ ht =>
      State.fenDisable_canon ht ..)
  | .ringEntryTake .. => nextCanon_next (State.ringTake_canon hc ..)
  | .ringEntryComplete .. => nextCanon_next (State.ringComplete_canon hc ..)
  | .fenceGrate .. => nextCanon_next (State.whenReady_canon hc fun _ ht => State.judgeFault_canon ht _ fun _ ht =>
      State.cmdFenceGrate_canon ht ..)
  | .fenceEngine .. => nextCanon_next (State.whenReady_canon hc fun _ ht => State.judgeFault_canon ht _ fun _ ht =>
      State.cmdFenceEngine_canon ht ..)
  | .fenceStove .. => nextCanon_next (State.whenReady_canon hc fun _ ht => State.judgeFault_canon ht _ fun _ ht =>
      State.cmdFenceStove_canon ht ..)
  | .forget .. => nextCanon_next (State.whenReady_canon hc fun _ ht => State.judgeFault_canon ht _ fun _ ht =>
      State.cmdForget_canon ht ..)
  | .returnSeal .. => nextCanon_next (State.whenReady_canon hc fun _ ht => State.returnSeal_canon ht ..)
  | .faultSealArm .. => nextCanon_next (State.whenReady_canon hc fun _ ht => State.sealArm_canon ht ..)
  | .faultTail .. => nextCanon_next (State.whenReady_canon hc fun _ ht => State.faultTail_canon ht ..)
  | .faultBookAppend => execFaultBookAppend_canon hc ..
  | .conservatorUnlock .. => execConservatorUnlock_canon hc ..
  | .install .. => nextCanon_next (State.whenReadyOrRecovery_canon hc fun _ ht => State.install_canon ht ..)
  | .activate .. => nextCanon_next (State.whenReadyOrRecovery_canon hc fun _ ht => State.activate_canon ht ..)
  | .confirm .. => nextCanon_next (State.whenReadyOrRecovery_canon hc fun _ ht => State.confirm_canon ht ..)
  | .reboot .. => nextCanon_next (State.whenReadyOrRecovery_canon hc fun _ ht => State.reboot_canon ht ..)
  | .resetNLow => execResetNLow_canon hc ..
  | .resetNRise => execResetNRise_canon hc ..
  | .bayEnumerationSlot .. => execBayEnumerationSlot_canon hc ..
  | .watchdogExpiry => execWatchdogExpiry_canon hc ..
  | .serdesRefclkLoss => execSerdesRefclkLoss_canon hc ..
  | .powerLoss => execPowerLoss_canon hc ..
  | .identityBlockRead .. => execIdentityBlockRead_canon hc ..
  | .setEndpointId .. => execSetEndpointId_canon hc ..
  | .getEndpointId .. => nextCanon_next (State.control_canon hc _ fun _ ht => State.send_canon ht ..)
  | .getMctpVersionSupport .. => nextCanon_next (State.control_canon hc _ fun _ ht => State.send_canon ht ..)
  | .getMessageTypeSupport .. => nextCanon_next (State.control_canon hc _ fun _ ht => State.send_canon ht ..)
  | .getpdr .. => nextCanon_next (State.pldm_canon hc _ _ _ fun _ ht => State.send_canon ht ..)
  | .getsensorreading .. => execGetsensorreading_canon hc ..
  | .getstatesensorreadings .. => execGetstatesensorreadings_canon hc ..
  | .getVersion .. => execGetVersion_canon hc ..
  | .getCapabilities .. => execGetCapabilities_canon hc ..
  | .negotiateAlgorithms .. => execNegotiateAlgorithms_canon hc ..
  | .getDigests .. => nextCanon_next (State.spdm_canon hc _ fun _ ht => State.spdmAfter_canon ht _ _ fun _ ht =>
      State.send_canon ht ..)
  | .getCertificate .. => execGetCertificate_canon hc ..
  | .spdmChallenge .. => execSpdmChallenge_canon hc ..
  | .getMeasurements .. => execGetMeasurements_canon hc ..
  | .keyExchange .. => nextCanon_next (State.spdm_canon hc _ fun _ ht => State.send_canon ht ..)
  | .extest .. => nextCanon_next (State.extest_canon hc ..)
  | .idcode => execIdcode_canon hc ..
  | .samplePreload .. => execSamplePreload_canon hc ..
  | .extestPulse .. => nextCanon_next (State.extest_canon hc ..)
  | .extestTrain .. => nextCanon_next (State.extest_canon hc ..)
  | .clamp .. => execClamp_canon hc ..
  | .highz .. => execHighz_canon hc ..
  | .bypass .. => execBypass_canon hc ..
  | .bayLinkTrained .. => execBayLinkTrained_canon hc ..
  | .powerUpPhase .. => nextCanon_next (State.powerUp_canon hc ..)
  | .bootFlashOperationEnd .. => execBootFlashOperationEnd_canon hc ..
  | .baySupplyOff .. => nextCanon_next (State.baySupplyOff_canon hc ..)
  | .illegal .. => nextCanon_next (State.issueIllegal_canon hc ..)
  | .doeDiscovery .. => nextCanon_next (State.doe_canon hc _ fun _ ht => State.send_canon ht ..)
  | .cxlTableAccess .. => nextCanon_next (State.doe_canon hc _ fun _ ht => State.send_canon ht ..)
  | .pldmBase .. => nextCanon_next (State.pldm_canon hc _ _ _ fun _ ht => State.pldmBase_canon ht ..)
  | .dynamicAddressAssignment .. => execDynamicAddressAssignment_canon hc ..
  | .trstN => execTrstN_canon hc ..

theorem step_canon {s : State} (hc : Canon s) : NextCanon (step s) := by
  unfold step
  split
  · exact nextCanon_next (State.tick_canon hc)
  · rename_i c rest _
    have hrest : Canon { s with pending := rest } := { hc with }
    exact exec_canon hrest c

/-- Settles O60: each operation of the model keeps the canonical form, so each command does, and a step is one command or one
tick. -/
theorem everyStepKeepsCanon : Obligations.EveryStepKeepsCanon := by
  unfold Obligations.EveryStepKeepsCanon
  intro s t hc hstep
  have hnext := step_canon hc
  rw [hstep] at hnext
  exact hnext

end Sys2Proof.Machine
